-- ==== Sys2Proof/Word.lean ====
section
/-! DEFINITION. The word types of the SX-640 and the two container shapes the state is built from:
a byte-addressed memory (sparse, one canonical form) and a table of records by number. -/

namespace Sys2Proof

/-- One byte. -/
abbrev Byte := BitVec 8
/-- A 16-bit word. -/
abbrev W16 := BitVec 16
/-- A 32-bit word. -/
abbrev W32 := BitVec 32
/-- A 64-bit word. -/
abbrev W64 := BitVec 64

/-- A sparse byte memory: (address, byte) pairs, addresses strictly rising, no byte 00h listed
(an unlisted address reads as 00h). -/
abbrev Mem := List Host.Cell

/-- A table of records by number, numbers rising. -/
abbrev Tbl (α : Type) := List (Nat × α)

/-- Data that moves to a host or to the sideband: a length and the parts that are not 00h
(offset, bytes). -/
structure Data where
  len   : Nat
  parts : List (Nat × List Byte)
  deriving DecidableEq, Repr

/-- `n` as a byte string of `k` bytes, lowest byte first (R9). -/
def leBytes : Nat → Nat → List Byte
  | 0, _ => []
  | k + 1, n => BitVec.ofNat 8 n :: leBytes k (n / 256)

/-- A byte string, lowest byte first, as a number (R9). -/
def leNat : List Byte → Nat
  | [] => 0
  | b :: bs => b.toNat + 256 * leNat bs

end Sys2Proof
end

