-- ==== Sys2Proof/Syntax.lean ====
section
/-! DEFINITION. The commands of the block: one constructor of `Instr` per row of spec/opcode_table.json,
in the table's order, and the operand types they carry. -/

namespace Sys2Proof

/-! ## Operands of NVMe commands -/

/-- One SGL descriptor as the device reads it (R60). -/
structure SglDesc where
  /-- The descriptor type nibble: 0h Data Block, 1h Bit Bucket, 2h Segment, 3h Last Segment, 4h Keyed. -/
  kind : BitVec 4
  addr : W64
  len  : Nat
  deriving DecidableEq, Repr

/-- What the data pointer of a submission queue entry leads to (R60). -/
inductive DataPtr where
  /-- PRP1, PRP2 and the entries of a PRP list, empty when there is none. -/
  | prp (prp1 prp2 : W64) (list : List W64)
  /-- The SGL's descriptors in order. -/
  | sgl (descs : List SglDesc)
  deriving DecidableEq, Repr

/-- A submission queue entry as fetched (R53, R102). -/
structure Sqe where
  opc   : Byte
  psdt  : BitVec 2
  cid   : W16
  nsid  : W32
  mptr  : W64
  dptr  : DataPtr
  cdw10 : W32
  cdw11 : W32
  cdw12 : W32
  cdw13 : W32
  cdw14 : W32
  cdw15 : W32
  deriving DecidableEq, Repr

/-- Where a command came from: a submission queue of a controller (by controller ID of R44), or the
sideband's tunnel (R530, R535). -/
inductive Src where
  | queue (ctrl sq : Nat)
  | sideband
  deriving DecidableEq, Repr

/-- One protection information block as a host sends it: guard, application tag, reference tag (R59). -/
structure PiTuple where
  guard : W16
  app   : W16
  ref   : W32
  deriving DecidableEq, Repr

/-! ## Operands of register accesses -/

/-- The window a register access names (R507): BAR0 of a port, BAR2 of a port, BAR4. -/
inductive Window where
  | bar0 (port : Nat)
  | bar2 (port : Nat)
  | bar4
  deriving DecidableEq, Repr

/-! ## Operands of Iaber instructions -/

/-- A specifier of a long instruction with its extension word (R285, R288). -/
structure Specifier where
  mode : BitVec 4
  r    : BitVec 3
  f    : BitVec 10
  ext  : W64
  deriving DecidableEq, Repr

/-- The operand fields of a long instruction word (R284). -/
structure LongWord where
  size : BitVec 2
  d    : Specifier
  s1   : Specifier
  s2   : Specifier
  /-- Bit 0 of the word, reserved. -/
  bit0 : Bool
  deriving DecidableEq, Repr

/-- A short operand (R292). -/
structure ShortOperand where
  mode : BitVec 3
  r    : BitVec 3
  f    : BitVec 6
  deriving DecidableEq, Repr

/-- A short operation (R291). -/
structure ShortOp where
  opc : BitVec 7
  x   : ShortOperand
  y   : ShortOperand
  deriving DecidableEq, Repr

/-- The conditions of opcodes 10h to 1Dh of group 3 (R311). -/
inductive Cond where
  | eq | ne | lo | hs | mi | pl | vs | vc | hi | ls | ge | lt | gt | le
  deriving DecidableEq, Repr

/-- The asynchronous exceptions (R330). -/
inductive AsyncExc where
  | watchdog | spanExpiry | engineCompletion
  deriving DecidableEq, Repr

/-- Cause of an Iaber core fault (R458). -/
inductive CoreFaultCause where
  | parity | doubleFault | watchdog | selfTest
  deriving DecidableEq, Repr

/-! ## Operands of media, memory and fabric events -/

/-- Who made a request that fails: a host read (R517), or a transaction on the deck (R24). -/
inductive HostReader where
  | sqFetch (ctrl sq : Nat)
  | command (src : Src) (cid : W16)
  | core (c : Nat) (addr : W64)
  | engine (core ctx : Nat)
  deriving DecidableEq, Repr

/-- One direction of a deck link (R17, R20): `back` is from its second stop to its first. -/
structure Way where
  link : Nat
  back : Bool
  deriving DecidableEq, Repr

/-- A flit of the deck (R17, R22 to R24). `tag` names it; `ord` is its place among the flits that its source stop
sends to its destination stop in its class; `txn` names its transaction and `last` marks the last flit of it; `body` is
its 64 bytes and `parity` the 64 bits that the source made over them; `who` made the request. -/
structure Flit where
  tag    : Nat
  src    : Nat
  dst    : Nat
  cls    : BitVec 2
  ord    : Nat
  txn    : Nat
  last   : Bool
  body   : List Byte
  parity : BitVec 64
  who    : Option HostReader
  deriving DecidableEq, Repr

/-- What the decoders find of one codeword (R192, R193, R195): bits that read as 0, the iterations after which its
syndrome was zero (none: it never was), and the corrected bits: byte column of the die (plane × 2^20 + column of the plane
page), and whether the bit was read as 1. -/
structure Decode where
  zeros : Nat
  iters : Option Nat
  fixes : List (Nat × Bool)
  deriving DecidableEq, Repr

/-- What the page type of a read senses (R195): its mean level index × 2, and whether level 1 is sensed. -/
structure Sense where
  cp2 : Nat
  p1  : Bool
  deriving DecidableEq, Repr

/-- How a page program ended (R172, R183). -/
inductive ProgramEnd where
  | ok | failed | crcMismatch
  deriving DecidableEq, Repr

/-- A DRAM access: its address and the domain it is under (R397, R412). -/
structure DramAt where
  addr   : Nat
  domain : Nat
  deriving DecidableEq, Repr

/-- What a DRAM read met at the devices: the corrupted bytes of the codeword (index, difference), and,
for the test bursts of R410, the devices that returned other bytes than written. -/
structure DramErrors where
  diffs : List (Nat × Byte)
  testBad : List Nat
  deriving DecidableEq, Repr

/-- One codeword the patrol scrub reads (R413). -/
structure ScrubHit where
  chan : Nat
  cw   : Nat
  dev  : Nat
  /-- Corrected when true, uncorrectable when false. -/
  correctable : Bool
  deriving DecidableEq, Repr

/-- What a span tick takes from outside the tick's own state: per channel the fraction of the last span
its data bus moved data (per mille), the MR4 indication, the scrub's findings, trainings that fail, the
granules and units the moves of the span relocate, self-test results, channels whose sequencer, decoder or cipher lane fails
its self-check (R116, R117, R185, R406, R413, R462, R465). -/
structure TickEnv where
  busy        : List Nat
  mr4Hot      : Bool
  scrub       : List ScrubHit
  trainFail   : List Nat
  moveUnits   : Nat
  selfTestBad : List Nat
  chanBad     : List Nat := []
  deriving DecidableEq, Repr

/-- The source of a pier (R108): from PTM its seconds count, from PTM and TIMEPULSE its time in µs since reset. -/
inductive PierSource where
  | ptm (seconds : W64) (t : Nat)
  | timepulse (t : Nat)
  | own
  deriving DecidableEq, Repr

/-- One LUN of a target: its good blocks, and the byte columns (plane × 2^20 + column) that its factory information or the
formation test marks (R150, R198). -/
structure Lun where
  good    : Nat
  badCols : List Nat
  deriving DecidableEq, Repr

/-- The dies of one chip enable of a channel, as their parameter page and the formation test show them (R148, R180, R181,
R191, R492). -/
structure Chip where
  chan      : Nat
  ce        : Nat
  /-- Manufacturer, model and revision bytes. -/
  part      : List Byte
  /-- Die size in Gb, blocks per LUN, planes, bytes of a plane page, wordlines of a block. -/
  dieGb     : Nat
  blocks    : Nat
  planes    : Nat
  pageBytes : Nat
  wordlines : Nat
  /-- Rated program/erase counts of SLC, TLC, QLC and PLC; none where the mode is not declared. -/
  rated     : List (Option Nat)
  /-- Toggle DDR when true, ONFI 5.1 NV-LPDDR4 when false, none for any other interface; its highest rate in MT/s. -/
  toggle    : Option Bool
  maxRate   : Nat
  /-- Bytes 200 to 209 of the parameter page. -/
  fast      : List Byte
  /-- Longest SLC page program time in microseconds. -/
  tProg     : Nat
  /-- Erase suspend is declared (R175). -/
  suspends  : Bool
  luns      : List Lun
  deriving DecidableEq, Repr

/-- What the boot finds on the board (R148, R388, R484): the flash population, training results, stored images. -/
structure BootEnv where
  dramTrained  : Bool
  /-- The chip enables populated, by channel and chip enable. -/
  chips        : List Chip
  /-- Slots with a valid image pair: slot, SVN of stage 2, firmware revision (R439, R485). -/
  validSlots   : List (Nat × Nat × List Byte)
  keeperPairsOk : Nat
  badLinks     : List Nat
  badCores     : List Nat
  badEngines   : List Nat
  hallmarkOk   : Bool
  /-- HOLDUP_OK reads high at the end of replay (R494). -/
  holdup       : Bool
  /-- The parameter page that the record of R488 hashes. -/
  paramPage    : List Byte
  deriving DecidableEq, Repr

/-- Where an uncorrectable SRAM error lies (R467). -/
inductive SramPlace where
  | core (c : Nat)
  | cacheEntry (core entry : Nat)
  | journalOne
  | journalBoth
  | keeper
  | readBuffer (read : Nat)
  | programBuffer (prog : Nat)
  | engineContext (core ctx : Nat)
  | keyStore
  | blankBits (controller : Nat)
  deriving DecidableEq, Repr

/-- The lanes that training leaves a port: `width` of them, counted from lane 0 or from its `reversed` end (R501). -/
structure LaneUse where
  width    : Nat
  reversed : Bool
  deriving DecidableEq, Repr

/-- What the host has set in the configuration space of a port function when it sets Bus Master Enable, beside PASID Enable: ATS
Enable, Max_Payload_Size and Max_Read_Request_Size in bytes, 10-Bit Tag Requester Enable, Enable Relaxed Ordering, IDO
Request Enable (R505, R506, R513, R514). -/
structure PortConf where
  ats     : Bool
  mps     : Nat
  mrrs    : Nat
  tags10  : Bool
  relaxed : Bool
  ido     : Bool
  deriving DecidableEq, Repr

/-- A completion of a host read (R517). -/
inductive HostReply where
  | good | poisoned | unsupported | abort
  deriving DecidableEq, Repr

/-- Engine classes (R360). -/
inductive EngineClass where
  | crucible | assay | cipher | softDecoder
  deriving DecidableEq, Repr

/-- Destination of a private key bus transfer, in the order they are served (R436). -/
inductive KeyDest where
  | dramXts (chan domain : Nat)
  | cipherLane (chan nsx : Nat)
  | cipherPool (engine slot : Nat)
  deriving DecidableEq, Repr

/-- The tamper sensors of R444, in the table's order; the rail monitors with whether the rail is below its rating. -/
inductive TamperSensor where
  | railLong (below : Bool) | railShort (below : Bool) | clockFreq | clockGlitch | junction | hallmarkLockstep | light | mesh
  deriving DecidableEq, Repr

/-! ## The commands -/

/-- One constructor per row of the opcode table, in its order. Operand conventions: `q` names the source
of an NVMe command and `e` its submission queue entry; `data` holds the bytes read from the host; `c`
names a built Iaber core (forge × 9 + position); `w` holds a long word's operands; `pasid`
and `ats` say that the host has set PASID Enable and ATS Enable in the function's configuration space; `bytes`
holds the 4,128 bytes that a flash read brought where they are not those programmed there. -/
inductive Instr where
  | deckFlitReceive (way : Way) (f : Flit) (crcOk grant : Bool)
  | deckAck (way : Way) (count : Nat)
  | deckAckTimeout (way : Way)
  | flitWaitLimit (way : Way) (tag : Nat)
  | sqTailDoorbell (ctrl qid : Nat) (value : W32)
  | cqHeadDoorbell (ctrl qid : Nat) (value : W32)
  | sqEntryFetch (e : Sqe)
  | unsupportedOpcode (q : Src) (e : Sqe)
  | registerWrite (win : Window) (off size : Nat) (value : W64)
  | ccEnEnable (ctrl : Nat) (value : W32)
  | ccEnDisable (ctrl : Nat) (value : W32)
  | ccShutdownNotification (ctrl : Nat) (value : W32)
  | shutdownComplete (ctrl : Nat)
  | deleteIoSubmissionQueue (q : Src) (e : Sqe)
  | createIoSubmissionQueue (q : Src) (e : Sqe)
  | getLogPage (q : Src) (e : Sqe)
  | deleteIoCompletionQueue (q : Src) (e : Sqe)
  | createIoCompletionQueue (q : Src) (e : Sqe)
  | identify (q : Src) (e : Sqe)
  | abort (q : Src) (e : Sqe)
  | setFeaturesArbitration (q : Src) (e : Sqe)
  | setFeaturesPowerManagement (q : Src) (e : Sqe)
  | setFeaturesTemperatureThreshold (q : Src) (e : Sqe)
  | setFeaturesErrorRecovery (q : Src) (e : Sqe)
  | setFeaturesNumberOfQueues (q : Src) (e : Sqe)
  | setFeaturesInterruptCoalescing (q : Src) (e : Sqe)
  | setFeaturesInterruptVectorConfig (q : Src) (e : Sqe)
  | setFeaturesWriteAtomicity (q : Src) (e : Sqe)
  | setFeaturesAsyncEventConfig (q : Src) (e : Sqe)
  | setFeaturesApst (q : Src) (e : Sqe) (data : List Byte)
  | setFeaturesTimestamp (q : Src) (e : Sqe)
  | getFeatures (q : Src) (e : Sqe)
  | asynchronousEventRequest (q : Src) (e : Sqe)
  | namespaceCreate (q : Src) (e : Sqe) (data : List Byte)
  | namespaceDelete (q : Src) (e : Sqe)
  | namespaceAttachment (q : Src) (e : Sqe) (data : List Byte)
  | firmwareImageDownload (q : Src) (e : Sqe) (data : List Byte)
  | firmwareCommit (q : Src) (e : Sqe)
  | firmwareActivationResume
  | deviceSelfTest (q : Src) (e : Sqe)
  | deviceSelfTestAbort (q : Src) (e : Sqe)
  | deviceSelfTestComplete (passed : Bool)
  | formatNvm (q : Src) (e : Sqe)
  | sanitizeExitFailureMode (q : Src) (e : Sqe)
  | sanitizeBlockErase (q : Src) (e : Sqe)
  | sanitizeCryptoErase (q : Src) (e : Sqe)
  | sanitizeComplete (scope : Option Nat) (failed : Bool)
  | sliceCreate (q : Src) (e : Sqe) (data : List Byte)
  | sliceDelete (q : Src) (e : Sqe)
  | deleteAfterReset (slice : Nat)
  | sliceReset (q : Src) (e : Sqe) (steps : Nat)
  | sliceSetShares (q : Src) (e : Sqe)
  | sliceRebind (q : Src) (e : Sqe) (data : List Byte) (steps : Nat)
  | keyImport (q : Src) (e : Sqe) (data : List Byte)
  | keyEmpty (q : Src) (e : Sqe)
  | hallmarkQuote (q : Src) (e : Sqe)
  | migrationLogStart (q : Src) (e : Sqe) (data : List Byte)
  | migrationLogStop (q : Src) (e : Sqe)
  | meterReceiptFetch (q : Src) (e : Sqe)
  | flush (q : Src) (e : Sqe)
  | write (q : Src) (e : Sqe) (data : List Byte) (pi : List PiTuple) (sealOk : Bool)
  | read (q : Src) (e : Sqe)
  | writeZeroes (q : Src) (e : Sqe)
  | datasetManagement (q : Src) (e : Sqe) (ranges : List (Nat × Nat))
  | billetLoad (q : Src) (e : Sqe) (data : List Byte) (sealOk : Bool)
  | billetRelease (q : Src) (e : Sqe)
  | scan (q : Src) (e : Sqe)
  | run (q : Src) (e : Sqe)
  | localWrite (q : Src) (e : Sqe) (data : List Byte) (sealOk : Bool)
  | localRead (q : Src) (e : Sqe)
  | sealedTransferSetup (q : Src) (e : Sqe) (data : List Byte)
  | writeBufferAdmit
  | stagingProgramDispatch (units : Nat)
  | flashProgramComplete (prog : Nat) (result : ProgramEnd)
  | flashReadComplete (read : Nat) (dec : Decode) (sense : Sense) (bytes : Option (List Byte))
  | softDecodeComplete (read : Nat) (dec : Decode) (sense : Sense) (bytes : Option (List Byte))
  | dieBusyTimeout (die : Nat)
  | flashEraseComplete (set : Nat) (failedChannels : List Nat)
  | staleSetErase (set : Nat)
  | mapSegmentRewrite (segment : Nat)
  | sampleRead (die : Nat) (cellMode : Nat) (wlGroup : Nat)
  | rateChangeComplete (chan : Nat) (trained : Bool)
  | mediaKeyCommit
  | scanSlotAcquire (scan : Nat)
  | scanComplete (scan : Nat)
  | spanTick (env : TickEnv)
  | pier (src : PierSource) (env : TickEnv)
  | timepulseEdge (t : Nat) (env : TickEnv)
  | timepulseWindowClose (t : Nat) (env : TickEnv)
  | ptmDialogueStart
  | ptmResponse (departureUs : Nat)
  | ptmResponseTimeout
  | parkLimitExpiry (slice : Nat)
  | timePierWrite (value : W64)
  | timeCtlWrite (value : W32)
  | migHeadWrite (n : Nat) (value : W32)
  | managerPortRestored
  | minuteClose
  | signatureComplete
  | meterCtlWrite (value : W32)
  | apstIdleExpiry
  | powerStateEntry
  | temperatureSample (celsius : Int)
  | vidStep
  | actNMinLowExpiry
  | runSaveAreaAcquire (run : Nat)
  | spanlimExpiry (run : Nat)
  | runComplete (run : Nat)
  | dramRead (place : DramAt) (cls : BitVec 2) (flash : Option Nat) (who : Option HostReader) (err : DramErrors)
  | dramWrite (place : DramAt) (cls : BitVec 2) (bytes : List Byte) (who : Option HostReader) (err : DramErrors)
  | blankPageFillComplete (page : Nat)
  | dramCommandIssue (chan sub : Nat)
  | requestAgeLimit (chan sub req : Nat)
  | refreshDue (chan sub bankIndex : Nat) (idle : Bool)
  | refreshPostponeLimit (chan sub bankIndex : Nat)
  | rowActivationThreshold (chan sub bank row : Nat)
  | rfmTableClear
  | dqsOscillatorCheck (chan : Nat) (drift : Bool)
  | zqCalibration (chan : Nat)
  | dramBtcfgWrite (value : W32)
  | eccTestWriteDataAndCheck (value : W32)
  | eccTestWriteComputedCheck (value : W32)
  | eccTestWriteCheckOnly (value : W32)
  | eccTestWriteDataOnly (value : W32)
  | eccTestReadRaw (value : W32)
  | eccTestReadDecoded (value : W32)
  | eccTestComplete
  | tamperClassE (sensor : TamperSensor)
  | tamperClassG (sensor : TamperSensor)
  | tamperClassP (sensor : TamperSensor)
  | keyBusTransfer (dest : KeyDest) (parityOk : Bool)
  | hmMddataWrite (value : W64)
  | hmMdcmdFinish (value : W32)
  | hmSvncmtWrite (value : W32)
  | jtagIdcode
  | jtagBypass (code : Byte)
  | jtagChallenge
  | jtagUnlock (token : List Byte)
  | lockstepMismatch (pair : Nat) (commitDiffers : Bool)
  | keeperHeartbeatTimeout (pair : Nat)
  | iaberCoreFault (c : Nat) (cause : CoreFaultCause)
  | sramCorrection (group word : Nat)
  | sramUncorrectable (place : SramPlace)
  | engineKatComplete (cls : EngineClass) (unit : Nat) (passed : Bool)
  | powerOn
  | perstNAssert
  | perstNDeassert (straps : BitVec 10) (env : BootEnv)
  | plpWarnAssert
  | plpWarnRelease
  | holdupOkDrop
  | portRstAssert (port : Nat)
  | portRstDeassert (port : Nat)
  | hotReset (port : Nat)
  | linkDown (port : Nat)
  | functionLevelReset (port : Nat)
  | d3hotToD0 (port : Nat)
  | busMasterEnableSet (port : Nat) (pasid : Bool) (conf : PortConf)
  | pasidEnableClear (port : Nat)
  | atsTranslationResponse (port pasid : Nat) (iova : W64) (reader : HostReader) (granted : Bool)
  | atsInvalidate (port pasid : Nat) (page : W64)
  | hostReadCompletion (reader : HostReader) (reply : HostReply)
  | completionTimeout (reader : HostReader)
  | linkTraining (port : Nat) (lanes : LaneUse) (speed : Nat) (flit : Bool)
  | linkRecoveryEntry (port : Nat)
  | rateCapRaise (port : Nat)
  | msixEntryWrite (ctrl : Nat) (off : Nat) (value : W32)
  | mctpPacketReceive (src : Byte) (som eom : Bool) (seq : BitVec 2) (pecOk : Bool) (bytes : List Byte) (tag : BitVec 3)
  | mctpReassemblyTimeout
  | sidebandResponseSent
  | setEndpointId (eid : Byte)
  | getEndpointId
  | getEndpointUuid
  | getMctpVersionSupport (msgType : Byte)
  | getMessageTypeSupport
  | getVendorDefinedMessageSupport
  | readNvmeMiDataStructure (dtyp : Byte) (ctrl : Nat)
  | nvmSubsystemHealthStatusPoll
  | controllerHealthStatusPoll (ctrl : Nat)
  | configurationSet (cfg : Byte) (value : W32)
  | configurationGet (cfg : Byte)
  | nvmeMiAdminCommand (ctrlId : Nat) (e : Sqe) (dlen : Nat)
  | getVersion (vver : Byte)
  | adminTunnel (vver : Byte) (e : Sqe) (dlen msgLen : Nat)
  | readResponsePart (vver : Byte) (off len : Nat)
  | releaseResponse (vver : Byte)
  | responseHoldTimeout
  | engGo (c ctx : Nat) (input aux : List Byte)
  | engCtlClose (c ctx : Nat)
  | engCtlAbort (c ctx : Nat)
  | engineJobEnd (c ctx : Nat) (code : Byte)
  | engineSwitchBoundary (cls : EngineClass) (unit : Nat) (unwrapOk : Bool)
  | engineJobWaitLimit (c ctx : Nat)
  | engineNoBoundaryTimeout (cls : EngineClass) (unit : Nat)
  | ocEnWrite (c : Nat) (value : W32)
  | ocDrainComplete (c : Nat) (lost : List Nat)
  | ocmMaskWrite (c : Nat) (port : Nat) (value : W64)
  | ocAging (c : Nat)
  | coreReset (c : Nat)
  | watchdogExpiry (c : Nat)
  | asyncExceptionEntry (c : Nat) (exc : AsyncExc)
  | illegalOpcode (c : Nat) (word : W64)
  | iMov (c : Nat) (w : LongWord)
  | iClr (c : Nat) (w : LongWord)
  | iLea (c : Nat) (w : LongWord)
  | iSel (c : Nat) (w : LongWord)
  | iBswap (c : Nat) (w : LongWord)
  | iSexb (c : Nat) (w : LongWord)
  | iSexh (c : Nat) (w : LongWord)
  | iSexw (c : Nat) (w : LongWord)
  | iZexb (c : Nat) (w : LongWord)
  | iZexh (c : Nat) (w : LongWord)
  | iZexw (c : Nat) (w : LongWord)
  | iAdd (c : Nat) (w : LongWord)
  | iAdc (c : Nat) (w : LongWord)
  | iSub (c : Nat) (w : LongWord)
  | iSbc (c : Nat) (w : LongWord)
  | iNeg (c : Nat) (w : LongWord)
  | iMul (c : Nat) (w : LongWord)
  | iMulhu (c : Nat) (w : LongWord)
  | iMulhs (c : Nat) (w : LongWord)
  | iDivu (c : Nat) (w : LongWord)
  | iDivs (c : Nat) (w : LongWord)
  | iRemu (c : Nat) (w : LongWord)
  | iRems (c : Nat) (w : LongWord)
  | iMinu (c : Nat) (w : LongWord)
  | iMaxu (c : Nat) (w : LongWord)
  | iMins (c : Nat) (w : LongWord)
  | iMaxs (c : Nat) (w : LongWord)
  | iAnd (c : Nat) (w : LongWord)
  | iOr (c : Nat) (w : LongWord)
  | iXor (c : Nat) (w : LongWord)
  | iAndn (c : Nat) (w : LongWord)
  | iNot (c : Nat) (w : LongWord)
  | iShl (c : Nat) (w : LongWord)
  | iShr (c : Nat) (w : LongWord)
  | iSar (c : Nat) (w : LongWord)
  | iRol (c : Nat) (w : LongWord)
  | iRor (c : Nat) (w : LongWord)
  | iPopc (c : Nat) (w : LongWord)
  | iClz (c : Nat) (w : LongWord)
  | iCtz (c : Nat) (w : LongWord)
  | iCmp (c : Nat) (w : LongWord)
  | iTst (c : Nat) (w : LongWord)
  | iBr (c : Nat) (w : LongWord)
  | iBcc (c : Nat) (cc : Cond) (w : LongWord)
  | iDjnz (c : Nat) (w : LongWord)
  | iCall (c : Nat) (w : LongWord)
  | iRet (c : Nat) (w : LongWord)
  | iMovs (c : Nat) (w : LongWord) (limit : Nat)
  | iCmps (c : Nat) (w : LongWord) (limit : Nat)
  | iScans (c : Nat) (w : LongWord) (limit : Nat)
  | iScansn (c : Nat) (w : LongWord) (limit : Nat)
  | iFills (c : Nat) (w : LongWord) (limit : Nat)
  | iXlts (c : Nat) (w : LongWord) (limit : Nat)
  | iCrcs (c : Nat) (w : LongWord) (limit : Nat)
  | iRpt (c : Nat) (w : LongWord) (next : W64)
  | iBset (c : Nat) (w : LongWord)
  | iBclr (c : Nat) (w : LongWord)
  | iBnot (c : Nat) (w : LongWord)
  | iBmov (c : Nat) (w : LongWord)
  | iBand (c : Nat) (w : LongWord)
  | iBor (c : Nat) (w : LongWord)
  | iBxor (c : Nat) (w : LongWord)
  | iBt (c : Nat) (w : LongWord)
  | iBf (c : Nat) (w : LongWord)
  | iBtclr (c : Nat) (w : LongWord)
  | iBld (c : Nat) (w : LongWord)
  | iBst (c : Nat) (w : LongWord)
  | iIn (c : Nat) (w : LongWord)
  | iOut (c : Nat) (w : LongWord)
  | iIox (c : Nat) (w : LongWord)
  | iMfs (c : Nat) (w : LongWord)
  | iMts (c : Nat) (w : LongWord)
  | iOcwb (c : Nat) (w : LongWord)
  | iOcinv (c : Nat) (w : LongWord)
  | iOcwbi (c : Nat) (w : LongWord)
  | iOcall (c : Nat) (w : LongWord)
  | iWaitb (c : Nat) (w : LongWord)
  | iTrap (c : Nat) (w : LongWord)
  | iBkpt (c : Nat) (w : LongWord)
  | iIst (c : Nat) (w : LongWord)
  | iRfe (c : Nat) (w : LongWord)
  | iHalt (c : Nat) (w : LongWord)
  | iWdr (c : Nat) (w : LongWord)
  | iExtu (c : Nat) (w : LongWord)
  | iExts (c : Nat) (w : LongWord)
  | iIns (c : Nat) (w : LongWord)
  | iLdbe (c : Nat) (w : LongWord)
  | iStbe (c : Nat) (w : LongWord)
  | iVdec (c : Nat) (w : LongWord)
  | iVdecz (c : Nat) (w : LongWord)
  | iRngu (c : Nat) (w : LongWord)
  | iRngs (c : Nat) (w : LongWord)
  | iHstep (c : Nat) (w : LongWord)
  | iPair (c : Nat) (a b : ShortOp) (bit0 : Bool)
  | powerRemoved
  | busMasterEnableClear (port : Nat)
  | d3hotEntry (port : Nat)
  | msixFunctionMaskChange (port : Nat) (enable mask : Bool)
  | rcRegisterRead (win : Window) (off size : Nat)
  | hmDigestFinishComplete
  | i3cDynamicAddressAssignment (addr : BitVec 7)
  | interruptAggregationTimeExpiry (ctrl vector : Nat)
  deriving DecidableEq, Repr

end Sys2Proof
end

