-- ==== Sys2Proof/Config.lean ====
section
/-! DEFINITION. What an implementation fixes and the spec leaves open: free values, and the functions
that the spec takes by name from a published standard without restating them. None has a body that a
proof can see. -/

namespace Sys2Proof.Config

/-- A value that nothing fixes: a drawn random value, a word of host memory read over the link, an
undefined byte. It is applied to the free-value counter of the state (log entry 1). -/
opaque freeNat : Nat → Nat

/-- SHAKE128 of FIPS 202: `shake128 message outputBytes` (R380; log entry 2). -/
opaque shake128 : List Byte → Nat → List Byte
/-- SHAKE256 of FIPS 202: `shake256 message outputBytes` (R137, R430; log entry 2). -/
opaque shake256 : List Byte → Nat → List Byte
/-- SHA-256, SHA-512, SHA3-256 and SHA3-512 by their OP code 21h to 24h of R380 (log entry 2). -/
opaque sha : Nat → List Byte → List Byte
/-- AES-256-GCM of NIST SP 800-38D: key identity, IV, AAD, text give ciphertext (R382; log entry 2). -/
opaque gcmEncrypt : Nat → List Byte → List Byte → List Byte → List Byte
/-- AES-256-GCM decryption: key identity, IV, AAD, text give plaintext (R382; log entry 2). -/
opaque gcmDecrypt : Nat → List Byte → List Byte → List Byte → List Byte
/-- The 16-byte GCM tag: key identity, IV, AAD, ciphertext (R382; log entry 2). -/
opaque gcmTag : Nat → List Byte → List Byte → List Byte → List Byte
/-- AES-256-CTR: key identity, initial counter block, block offset, text (R382; log entry 2). -/
opaque ctr : Nat → List Byte → Nat → List Byte → List Byte
/-- AES-256-XTS of IEEE 1619: encrypt?, key identity, tweak, text (R382; log entry 2). -/
opaque xts : Bool → Nat → List Byte → List Byte → List Byte
/-- XMSS^MT signing: key identity, index, message (R139, R424; log entry 2). -/
opaque xmssSign : Nat → Nat → List Byte → List Byte
/-- XMSS verification under a Porob authority key: authority (0 firmware, 1 debug), message, signature
(R424; log entry 2). -/
opaque xmssVerify : Nat → List Byte → List Byte → Bool
/-- ML-KEM-1024 decapsulation: seed identity, ciphertext give the shared secret (R443; log entry 2). -/
opaque mlkemDecaps : Nat → List Byte → List Byte
/-- ML-KEM-1024 encapsulation key of a seed (R442; log entry 2). -/
opaque mlkemEncapsKey : Nat → List Byte
/-- A row of the parity part of a mode's LDPC code: what payload bit `i` of mode `m` adds to the parity bits (R190;
log entry 145). -/
opaque ldpcRow : Nat → Nat → Nat
/-- The image key (R423; log entry 2). -/
opaque imageKey : Nat
/-- The public key of a signing key: key identity (R424; log entry 2). -/
opaque publicKey : Nat → List Byte
/-- A compression format's output: OP of R375, level, history, input (R376; log entry 2). -/
opaque compress : Nat → Nat → List Byte → List Byte → List Byte
/-- A compression format's decoder: OP of R375, history, stream; the plaintext, or the failing outcome
code (FORMAT 08h or CHECK 09h of R367) (R376; log entry 2). -/
opaque decompress : Nat → List Byte → List Byte → Except Nat (List Byte)

/-- The fused serial number SN, 20 ASCII characters (R72; log entry 3). -/
opaque serialNumber : List Byte
/-- The fused Device Serial Number, 64 bits (R502; log entry 3). -/
opaque deviceSerial : BitVec 64
/-- The fused operating code of VID, 58h to 78h (R558; log entry 3). -/
opaque vidOperating : BitVec 8
/-- The manufacturing authority's signature over the identity statement (R426; log entry 3). -/
opaque authoritySignature : List Byte
/-- The subsystem vendor ID and subsystem ID of the configuration block (R502; log entry 3). -/
opaque subsystemVendor : BitVec 16
opaque subsystemId : BitVec 16
/-- Bytes of the configuration block measured into MR3 (R430; log entry 3). -/
opaque configBlock : List Byte
/-- The UUID derived from the fused serial number (R526; log entry 3). -/
opaque endpointUuid : List Byte
/-- The fused variant is PSX640-A2-E (R1, R3; log entry 3). -/
opaque variantE : Bool
/-- How UNIT, ADDR (8 bytes) and DETAIL (32 bytes) of a fault log entry pack their numbers: event,
numbers (R472; log entry 12). -/
opaque logUnit : Nat → List Nat → W16
opaque logAddr : Nat → List Nat → W64
opaque logDetail : Nat → List Nat → Vector Byte 32
/-- Sensor number of a tamper record by the sensor's place in the table of R444 (R446; log entry 36). -/
opaque sensorNumber : Nat → BitVec 8
/-- Macro and row of a word of an SRAM group (R466; log entry 3). -/
opaque sramMacro : Nat → Nat → Nat
opaque sramRow : Nat → Nat → Nat
/-- Soft and hard post-package repair resources of a device's bank group (R414, R415; log entry 3). -/
opaque softRepairs : Nat
opaque hardRepairs : Nat

end Sys2Proof.Config
end

