-- ==== Sys2Proof/Machine/StateCompute.lean ====
section
/-! DEFINITION. The state of the Iaber cores, their operand caches, the engine contexts they reach,
the forges, the billets, the runs and the scans (chapters 08 to 12). -/

namespace Sys2Proof.Machine

/-! ## Registers of a core -/

/-- The registers a run saves as plain words (R279, R298, R280). -/
structure Regs where
  /-- A0 to A7. -/
  a    : Vector W64 8 := Vector.replicate 8 0
  lk   : W64 := 0
  bc   : W64 := 0
  bs   : W64 := 0
  bd   : W64 := 0
  /-- BX.ACC and BX.STOP (R298). -/
  acc  : W32 := 0
  stop : BitVec 2 := 0
  /-- ST.DIR and ST.RP (R281). -/
  dir  : Bool := false
  rp   : Bool := false
  deriving DecidableEq, Repr

/-- What belongs to the program on a core: saved and restored with its run (R252). -/
structure Ctx where
  regs  : Regs := {}
  pc    : W64 := 0
  /-- B:0000h to B:0003h, the condition flags (R277). -/
  z     : Bool := false
  n     : Bool := false
  c     : Bool := false
  v     : Bool := false
  /-- B:0004h and B:0005h. -/
  sxp   : Bool := false
  ecp   : Bool := false
  /-- EDONE0 to EDONE63, B:0040h to B:007Fh. -/
  edone : BitVec 64 := 0
  /-- The bit variables from B:0100h that are 1, rising. -/
  bits  : List Nat := []
  bench : Mem := []
  deriving DecidableEq, Repr

/-- One operand cache line (R344, R348). -/
structure CacheLine where
  /-- D address of its first byte, a multiple of 128. -/
  addr  : Nat
  bytes : List Byte
  dirty : BitVec 16 := 0
  r     : Bool := false
  age   : BitVec 2 := 0
  deriving DecidableEq, Repr

/-- One region attribute entry, OC.RAT (R346, R356): first page, policy, last page. -/
structure RatEntry where
  base  : BitVec 52 := 0
  pol   : BitVec 3 := 0
  limit : BitVec 52 := 0
  deriving DecidableEq, Repr

/-- The operand cache of a core (R344 to R352). -/
structure OpCache where
  en       : Bool := false
  drain    : Bool := false
  wberr    : Bool := false
  user     : BitVec 48 := 0
  supv     : BitVec 48 := 0
  strm     : BitVec 48 := 0
  rat      : Vector RatEntry 8 := Vector.replicate 8 {}
  /-- The valid entries by number, 0 to 47. -/
  lines    : Tbl CacheLine := []
  /-- Cache accesses since the last ageing (R348). -/
  accesses : Nat := 0
  /-- Entries of which a dirty word is uncorrectable (R352). -/
  lost     : List Nat := []
  deriving DecidableEq, Repr

/-- The core control block (R355, R356, R359). -/
structure CoreCtl where
  vbase : BitVec 55 := 0
  epc   : W64 := 0
  est   : W64 := 0
  /-- CORE.ECAUSE. -/
  slot  : Bool := false
  code  : Byte := 0
  num   : Byte := 0
  exl   : Bool := false
  eaddr : W64 := 0
  /-- CORE.IBASE [19:3] and CORE.ILIM [20:3]. -/
  ibase : BitVec 17 := 0
  ilim  : BitVec 18 := 0
  wdt   : BitVec 24 := 0xF4240
  deriving DecidableEq, Repr

/-! ## Engine contexts -/

/-- A message open between jobs (R373, R381): what its jobs have absorbed. -/
structure EngMsg where
  op      : Nat
  keyslot : Nat
  /-- Generation of the slot when the message's last job took its key (R437). -/
  gen     : W16 := 0
  /-- IV and AAD, or the initial counter block (R382). -/
  aux     : List Byte
  text    : List Byte
  deriving DecidableEq, Repr

/-- A job taken by ENG.GO: its descriptor and the bytes of its host ranges (R363). -/
structure EngJob where
  desc  : Vector W64 8
  input : List Byte
  aux   : List Byte
  /-- Taken up by an engine at least once; set aside with its state saved when not running (R372). -/
  begun : Bool := false
  /-- Generation and key taken from the slot at its start (R437), and a slot found changed. -/
  held   : Option (W16 × Nat) := none
  keyBad : Bool := false
  deriving DecidableEq, Repr

/-- One engine context (R361, R362, R365). -/
structure EngCtx where
  desc  : Vector W64 8 := Vector.replicate 8 0
  code  : Byte := 0
  opn   : Bool := false
  busy  : Bool := false
  out   : W64 := 0
  check : W32 := 0
  msg   : Option EngMsg := none
  job   : Option EngJob := none
  abort : Bool := false
  deriving DecidableEq, Repr

/-- Who waits for or holds an engine: a context of a core, for a run or for the runtime, with its
service class and slice (R371). -/
structure EngReq where
  cls   : EngineClass
  core  : Nat
  ctx   : Nat
  run   : Option Nat
  svc   : Nat
  slice : Option Nat
  /-- It has waited 1 ms (R371 rule 1). -/
  aged  : Bool := false
  deriving DecidableEq, Repr

/-- One engine unit (R360, R387, R468, R469). -/
structure EngUnit where
  inService  : Bool := true
  running    : Option EngReq := none
  testing    : Bool := false
  lastWinner : Nat := 0
  /-- Key register of a cipher pool engine: slot, generation, key (R32, R436, R437). -/
  keyReg     : Option (Nat × W16 × Nat) := none
  deriving DecidableEq, Repr

/-- The engines: units by number within their class, and one queue of jobs for each class (R371). -/
structure Engines where
  crucible : Tbl EngUnit := []
  assay    : Tbl EngUnit := []
  cipher   : Tbl EngUnit := []
  soft     : Tbl EngUnit := []
  queue    : List EngReq := []
  /-- The counter of context wrap IVs (R373). -/
  wrapIv   : BitVec 96 := 0
  deriving DecidableEq, Repr

/-! ## Cores and forges -/

/-- One built Iaber core (R279, R330 to R338). -/
structure Core where
  ctx       : Ctx := {}
  /-- ST.S: supervisor mode. -/
  sup       : Bool := true
  ctl       : CoreCtl := {}
  oc        : OpCache := {}
  pendWd    : Bool := false
  pendSpan  : Bool := false
  pendEng   : Bool := false
  /-- Stopped by HALT until the runtime releases it (R318). -/
  halted    : Bool := false
  /-- Stopped by a double fault or an Iaber core fault, until it is reset (R333). -/
  stopped   : Bool := false
  /-- Microseconds counted by the watchdog (R338). -/
  wdCount   : Nat := 0
  /-- The run on the core. -/
  run       : Option Nat := none
  /-- The contexts of the core that no run holds (R361). -/
  eng       : Tbl EngCtx := []
  /-- Written bits: 4 KiB pages of the bench and of the cluster window (R252). -/
  wBench    : List Nat := []
  wCluster  : List Nat := []
  /-- 8-byte words whose next access by this core meets a bus error (R24, R517). -/
  busErr    : List Nat := []
  deriving DecidableEq, Repr

/-- A billet's code resident in a forge's instruction store: slice, BID, offset, length (R251). -/
structure Resident where
  slice : Nat
  bid   : Nat
  base  : Nat
  len   : Nat
  deriving DecidableEq, Repr

/-- One forge: the instruction store and cluster SRAM its cores share (R16, R272, R273). -/
structure Forge where
  istore    : Mem := []
  cluster   : Mem := []
  residents : List Resident := []
  deriving DecidableEq, Repr

/-! ## Billets and runs -/

/-- A loaded billet (R237, R241): its header fields, code and initial data. -/
structure Billet where
  bytes     : List Byte := []
  fmt       : Nat := 0
  codeLen   : Nat := 0
  dataLen   : Nat := 0
  benchSz   : Nat := 0
  clusterSz : Nat := 0
  entries   : List Nat := []
  handlers  : List Nat := []
  deriving DecidableEq, Repr

/-- How a run ended (R247, R249). -/
structure RunEnd where
  /-- Status of the completion: type and code. -/
  sct    : Nat
  sc     : Nat
  dw0    : Nat
  dw1    : Nat
  /-- Bytes for the output buffer from its offset 0. -/
  output : Data
  deriving DecidableEq, Repr

/-- A fetched Run (R244 to R253). -/
structure Run where
  slice     : Nat
  ctrl      : Nat
  sq        : Nat
  cid       : W16
  bid       : Nat
  entry     : Nat
  arg0      : W64
  arg1      : W32
  outLen    : Nat
  spanLim   : Nat
  /-- Core-spans charged so far (R357). -/
  spans     : Nat := 0
  saveArea  : Bool := false
  /-- The run has started (R246). -/
  begun     : Bool := false
  core      : Option Nat := none
  /-- A handler is active (R340). -/
  handler   : Bool := false
  /-- D address of the exception frame of the active handler (R339). -/
  frame     : Nat := 0
  /-- The state in the save area while the run is off its core (R252). -/
  saved     : Ctx := {}
  savedCl   : Mem := []
  /-- Completions kept for the run while it is off its core (R253). -/
  kept      : List Nat := []
  eng       : Tbl EngCtx := []
  ended     : Option RunEnd := none
  /-- Discarded by R66: stops at its next span boundary, posts nothing. -/
  discarded : Bool := false
  deriving DecidableEq, Repr

/-- A Scan in progress (R259 to R264). -/
structure Scan where
  slice     : Nat
  ctrl      : Nat
  sq        : Nat
  cid       : W16
  nsid      : Nat
  /-- First unit and number of units of the range. -/
  unit0     : Nat
  nunit     : Nat
  prog      : List Byte
  outLen    : Nat
  slot      : Bool := false
  /-- Per channel: the accumulators of its filter (R268). -/
  accs      : Tbl (List Nat) := []
  records   : Nat := 0
  matched   : Nat := 0
  units     : Nat := 0
  frameErr  : Nat := 0
  /-- Index of the first unit with a framing error (R264). -/
  firstErr  : Option Nat := none
  /-- Output entries: unit index, ordinal, data (R262). -/
  entries   : List (Nat × Nat × List Byte) := []
  /-- Media reads not yet delivered. -/
  waiting   : Nat := 0
  /-- Units of the range whose data has been taken (R62). -/
  taken     : List Nat := []
  /-- A unit ended in error: status type, code, unit index (R261). -/
  failed    : Option (Nat × Nat × Nat) := none
  discarded : Bool := false
  deriving DecidableEq, Repr

/-- Everything of the compute side. -/
structure Compute where
  cores   : Tbl Core := []
  forges  : Tbl Forge := []
  engines : Engines := {}
  /-- Billets by slice × 16 + BID; one reserved and not yet loaded has no bytes (R241). -/
  billets : Tbl Billet := []
  runs    : Tbl Run := []
  nextRun : Nat := 0
  scans   : Tbl Scan := []
  nextScan : Nat := 0
  /-- Program slots in use on each channel's filter (R260), and the slice that took one last (R102). -/
  progSlots : Tbl Nat := []
  lastSlot : Nat := 1023
  deriving DecidableEq, Repr

end Sys2Proof.Machine
end

