-- ==== Sys2Proof/Machine/StateDevice.lean ====
section
/-! DEFINITION. The state of the PCIe ports, power states, firmware, self-test, sanitize, the sideband
and the pins (chapters 02 and 16 to 20). -/

namespace Sys2Proof.Machine

/-- One PCIe port (chapter 17). -/
structure Port where
  linkUp   : Bool := false
  width    : Nat := 0
  speed    : Nat := 0
  flit     : Bool := false
  /-- The lanes in use are counted from the port's highest (R501, R521). -/
  reversed : Bool := false
  /-- Max_Payload_Size, Max_Read_Request_Size, 10-Bit Tag Requester Enable, Enable Relaxed Ordering, IDO Request Enable
  (R505, R506). -/
  mps      : Nat := 128
  mrrs     : Nat := 512
  tags10   : Bool := false
  relaxed  : Bool := true
  ido      : Bool := false
  /-- Bus Master Enable, PASID Enable, ATS Enable, MSI-X Enable and Function Mask. -/
  bme      : Bool := false
  pasidEn  : Bool := false
  atsEn    : Bool := false
  msixEn   : Bool := false
  funcMask : Bool := false
  d3hot    : Bool := false
  /-- PORT_RST_N is asserted. -/
  inReset  : Bool := false
  /-- PORT.STAT counts, error-driven entries of the pier interval, and the rate cap (R521, R522). -/
  recov    : Nat := 0
  downsh   : Nat := 0
  entries  : Nat := 0
  cap      : Nat := 6
  quiet    : Nat := 0
  deriving DecidableEq, Repr

/-- An answer to a translation request kept at a PCIe stop (R514): port, PASID, page, granted or not. -/
structure Ats where
  port  : Nat
  pasid : Nat
  page  : Nat
  ok    : Bool
  deriving DecidableEq, Repr

/-- One firmware slot's image pair (R84, R439): stage-1 and stage-2 images as security version, revision
and header. -/
structure FwImage where
  svn    : Nat
  rev    : List Byte
  header : List Byte
  deriving DecidableEq, Repr

/-- One firmware slot. -/
structure FwSlot where
  stage1 : Option FwImage := none
  stage2 : Option FwImage := none
  deriving DecidableEq, Repr

/-- Firmware (R84, R85, R439, R485). -/
structure Firmware where
  slots    : Tbl FwSlot := []
  /-- Downloaded ranges of the image in progress: offset, bytes. -/
  parts    : List (Nat × List Byte) := []
  running  : Nat := 1
  next     : Option Nat := none
  /-- The slot that the last Firmware Commit activated, and the one that ran before it (R485). -/
  act      : Nat := 1
  before   : Nat := 1
  rev      : List Byte := List.replicate 8 0x20
  /-- An activation without reset is in progress, of which slot, and the commit that waits for it (R85). -/
  holding  : Bool := false
  into     : Nat := 1
  waiting  : Option (Src × W16) := none
  deriving DecidableEq, Repr

/-- One result of Device Self-test (R56): the test, its result (0 passed, 1 aborted by command, 2 by a
reset, 6 failed) and the
piers passed with power on. -/
structure TestResult where
  stc    : Nat
  result : Nat
  piers  : Nat
  deriving DecidableEq, Repr

/-- A sanitize of a slice, or of the device at 1,024 (R77, R78). -/
structure Sanitize where
  act     : Nat := 0
  running : Bool := false
  failed  : Bool := false
  done    : Bool := false
  cdw10   : W32 := 0
  deriving DecidableEq, Repr

/-- The sideband (chapter 18). -/
structure Sideband where
  eid      : Byte := 0
  i3cAddr  : BitVec 7 := 0
  /-- The message being reassembled, with its source, its tag and its next packet sequence number. -/
  parts    : Option (List Byte) := none
  src      : Byte := 0
  tag      : BitVec 3 := 0
  nextSeq  : BitVec 2 := 0
  /-- A packet of it has arrived in this span tick (R13, R525). -/
  fresh    : Bool := false
  /-- The last message reassembled whole. -/
  rx       : Option (List Byte) := none
  /-- A request is being processed: the sideband is busy (R528). -/
  busy     : Bool := false
  /-- The tunnelled or NVMe-MI admin command in hand, not yet completed. -/
  cmd      : Option Sqe := none
  begun    : Bool := false
  tunnel   : Bool := false
  /-- The completion and data of the last command. -/
  sct      : Nat := 0
  sc       : Nat := 0
  dw0      : W32 := 0
  dw1      : W32 := 0
  data     : Data := { len := 0, parts := [] }
  /-- The CID and message version of the last command, and its response is still to be sent. -/
  cid      : W16 := 0
  ver      : Nat := 1
  owed     : Bool := false
  /-- A response is held for parts (R536). -/
  held     : Bool := false
  /-- Configuration Set values by identifier (R531). -/
  cfg      : Tbl W32 := []
  /-- Bits of the composite controller status to report (R532). -/
  ccs      : Nat := 0
  deriving DecidableEq, Repr

/-- SMART totals kept over power cycles (R79, R175). -/
structure Smart where
  cycles   : Nat := 0
  unsafe_  : Nat := 0
  mediaErr : Nat := 0
  /-- Piers passed with power on. -/
  piers    : Nat := 0
  /-- Piers passed at or above WCTEMP and CCTEMP. -/
  warnPiers : Nat := 0
  critPiers : Nat := 0
  deriving DecidableEq, Repr

/-- Supplies, power-down record and the balls whose level is not a function of the rest (chapters 16, 19, 20). -/
structure Power where
  /-- Rails applied; PERST_N asserted. -/
  rails    : Bool := false
  perst    : Bool := true
  /-- PWR.STAT.PHASE, PLPWARN and LASTDOWN; the level of HOLDUP_OK (R498). -/
  phase    : BitVec 3 := 0
  plpWarn  : Bool := false
  lastDown : BitVec 2 := 0
  holdup   : Bool := false
  /-- The device waits for its boot after an internal or tamper reset (R478, R480). -/
  reboot   : Bool := false
  /-- The device has been powered up since manufacture; PLP_WARN_N was asserted since the last boot; a flush
  marker is complete (R490, R497). -/
  made     : Bool := false
  warned   : Bool := false
  marker   : Bool := false
  /-- A shutdown notification has completed and no controller has been enabled since (R497). -/
  shut     : Bool := false
  /-- VID[7:0] and the code it steps toward (R558, R559). -/
  vid      : Byte := 0x64
  vidTo    : Byte := 0x64
  /-- SBSEL strap (R545). -/
  sbsel    : Bool := false
  /-- ACT_N is within the 50 ms of its low period; PIER_OUT drives a pulse; WP_N is driven low (R549, R554). -/
  actHold  : Bool := false
  pierOut  : Bool := false
  wpLow    : Bool := true
  deriving DecidableEq, Repr

/-- The device's board side. -/
structure Device where
  ports   : Tbl Port := []
  /-- The straps in force: PORTCFG, manager port, DRAM rate, density and ranks (R546). -/
  split   : BitVec 2 := 0
  mgrPort : Nat := 0
  dRate   : BitVec 2 := 0
  dDens   : BitVec 2 := 0
  dRanks  : Bool := false
  latched : Bool := false
  ats     : List Ats := []
  /-- Power state 0 to 4, the last operational one, and a state being entered (R81, R82). -/
  ps      : Nat := 0
  psOper  : Nat := 0
  psNext  : Option Nat := none
  /-- Feature 0Ch: APSTE and the 32 entries (ITPS, ITPT) (R83). -/
  apste   : Bool := true
  apst    : List (Nat × Nat) := [(3, 200), (3, 200), (3, 200), (4, 5000)] ++ List.replicate 28 (0, 0)
  /-- Feature 04h: over- and under-temperature thresholds in kelvin; none is the default (R80). -/
  tOver   : Option Nat := none
  tUnder  : Nat := 0
  /-- Composite temperature in °C, and the throttle level (R562, R564). -/
  temp    : Int := 25
  level   : Nat := 0
  /-- Critical warning bits (R79). -/
  warn    : BitVec 8 := 0
  fw      : Firmware := {}
  test    : Option (Nat × Src) := none
  results : List TestResult := []
  san     : Tbl Sanitize := []
  smart   : Smart := {}
  side    : Sideband := {}
  pwr     : Power := {}
  /-- PORT.SEL (R522). -/
  portSel : BitVec 2 := 0
  /-- Namespaces created since manufacture (R73). -/
  nsCount : Nat := 0
  deriving DecidableEq, Repr

end Sys2Proof.Machine
end

