-- ==== Sys2Proof/Machine/StateHost.lean ====
section
/-! DEFINITION. The state of the NVMe controllers, the slices, external time, metering and the
migration logs (chapters 02 to 04). -/

namespace Sys2Proof.Machine

/-! ## Controllers -/

/-- A command fetched and not yet completed (R62, R105). -/
structure Fetched where
  e      : Sqe
  /-- Piers that have passed since its fetch; at the last of them it was held and had reached its limit (R105). -/
  piers  : Nat := 0
  due    : Bool := false
  /-- Its row has executed; it waits for media, a run, a key or a reset. -/
  begun  : Bool := false
  /-- It has moved data from, and to, host memory (R79). -/
  movedIn  : Bool := false
  movedOut : Bool := false
  /-- The ranges of a Dataset Management whose list has been read (R62). -/
  listed : Option (List (Nat × Nat)) := none
  /-- CSEQ when the queue was sealed at its fetch (R257). -/
  cseq   : Option Nat := none
  /-- Queue slot it was fetched from (R257). -/
  slot   : Nat := 0
  deriving DecidableEq, Repr

/-- Sealing of a submission queue (R256). -/
structure Sealing where
  slot    : Nat
  tagBase : W64
  salt    : W32
  cseq    : Nat := 0
  deriving DecidableEq, Repr

/-- A submission queue (R50, R53). -/
structure Sq where
  size    : Nat
  base    : W64
  cqid    : Nat
  head    : Nat := 0
  tail    : Nat := 0
  fetched : List Fetched := []
  sealing : Option Sealing := none
  deriving DecidableEq, Repr

/-- A completion queue (R50, R52). -/
structure Cq where
  size   : Nat
  base   : W64
  vector : Nat
  ien    : Bool := true
  head   : Nat := 0
  tail   : Nat := 0
  /-- The phase tag the next entry carries. -/
  phase  : Bool := true
  deriving DecidableEq, Repr

/-- One MSI-X entry of a port function or of a slice page (R507, R518). -/
structure MsgEntry where
  lo   : W32 := 0
  hi   : W32 := 0
  data : W32 := 0
  mask : Bool := true
  deriving DecidableEq, Repr

/-- An asynchronous event: type (0 error, 1 health, 2 notice), information, log page (R86). -/
structure Event where
  kind : Nat
  info : Nat
  lid  : Nat
  deriving DecidableEq, Repr

/-- One entry of the error information log (R79). -/
structure ErrEntry where
  count : Nat
  sqid  : Nat
  cid   : W16
  sct   : Nat
  sc    : Nat
  nsid  : Nat
  lba   : Nat
  deriving DecidableEq, Repr

/-- The features that act on one controller (R80). -/
structure Features where
  ab    : BitVec 3 := 3
  tler  : W16 := 0
  thr   : Byte := 0
  time  : Byte := 0
  /-- Vectors with coalescing disabled. -/
  cd    : List Nat := []
  dn    : Bool := false
  aec   : W32 := 0
  deriving DecidableEq, Repr

/-- A completion not yet posted: the queue was full, or posting was held. -/
structure PendCqe where
  ctrl : Nat
  cq   : Nat
  sq   : Nat
  cid  : W16
  sct  : Nat
  sc   : Nat
  dw0  : W32
  dw1  : W32
  deriving DecidableEq, Repr

/-- One controller (R44 to R53). -/
structure Ctrl where
  en       : Bool := false
  iocqes   : BitVec 4 := 0
  iosqes   : BitVec 4 := 0
  shn      : BitVec 2 := 0
  ams      : BitVec 3 := 0
  mps      : BitVec 4 := 0
  css      : BitVec 3 := 0
  rdy      : Bool := false
  cfs      : Bool := false
  shst     : BitVec 2 := 0
  aqa      : W32 := 0
  asq      : W64 := 0
  acq      : W64 := 0
  intm     : W32 := 0
  sqs      : Tbl Sq := []
  cqs      : Tbl Cq := []
  /-- Submission and completion queues reserved from the pool (R51). -/
  grantSq  : Nat := 0
  grantCq  : Nat := 0
  feat     : Features := {}
  /-- CIDs of the outstanding Asynchronous Event Requests. -/
  aers     : List W16 := []
  events   : List Event := []
  /-- Event types reported and not cleared by a read of their log page. -/
  masked   : List Nat := []
  store    : Tbl MsgEntry := []
  /-- Vectors with their pending bit set (R519). -/
  pend     : List Nat := []
  /-- Completions aggregated per vector (R80, feature 08h). -/
  coal     : Tbl Nat := []
  /-- Completions that wait for room or for the end of a hold, oldest first. -/
  backlog  : List PendCqe := []
  changed  : List Nat := []
  /-- Round robin: the queue in turn and the commands it has taken (R53). -/
  turn     : Nat := 0
  taken    : Nat := 0
  deriving DecidableEq, Repr

/-- The counts and error log of a controller, kept over its resets (R79). -/
structure CtrlLog where
  hostRead  : Nat := 0
  hostWrite : Nat := 0
  bytesRead : Nat := 0
  bytesWritten : Nat := 0
  errors    : List ErrEntry := []
  errCount  : Nat := 0
  deriving DecidableEq, Repr

/-! ## Slices -/

/-- The states of R95. -/
inductive SliceSt where
  | absent | ready | parked | resetting | rebinding | deleting
  deriving DecidableEq, Repr

/-- One slice (R88, R91, R97, R100). -/
structure Slice where
  st       : SliceSt := .absent
  port     : Nat := 0
  pasid    : Nat := 0
  qpairs   : Nat := 0
  capGrant : Nat := 0
  lmLimit  : Nat := 0
  ksLimit  : Nat := 0
  nsLimit  : Nat := 0
  /-- FLASH, CORE and PARKLIM given at creation. -/
  flash0   : Nat := 0
  core0    : Nat := 0
  park0    : Nat := 0
  /-- In effect. -/
  flash    : Nat := 0
  core     : Nat := 0
  park     : Nat := 0
  /-- Accepted and not yet in effect (R104). -/
  newShares : Option (Nat × Nat × Nat) := none
  /-- Balances with 16 fraction bits (R100). -/
  balFlash : Int := 0
  balCore  : Int := 0
  verSel   : Byte := 0
  /-- Steps of R119 or R122 done, and who started it. -/
  seqStep  : Nat := 0
  seqSrc   : Option (Src × W16) := none
  /-- The sequence in progress is a rebind. -/
  rebinds  : Bool := false
  /-- The state held before Rebinding, and the new port and PASID. -/
  before   : SliceSt := .ready
  newPort  : Nat := 0
  newPasid : Nat := 0
  /-- A Slice Delete waits for a reset or a rebind in progress (R95). -/
  delSrc   : Option (Src × W16) := none
  /-- DMA for the PASID is fenced (R119 step 2). -/
  fenced   : Bool := false
  /-- Minutes closed before creation or the last reset (R146). -/
  pageFrom : Nat := 0
  deriving DecidableEq, Repr

/-! ## External time -/

/-- TIME.* and what the pier rules remember (R107 to R118). -/
structure Time where
  src      : BitVec 2 := 0
  spur     : Nat := 0
  miss     : Nat := 0
  hold     : Bool := true
  act      : BitVec 2 := 3
  stepFlag : Bool := false
  lock     : Bool := false
  /-- TIME.STEP, signed microseconds. -/
  step     : Int := 0
  span     : Nat := 0
  pier     : W64 := 0
  /-- Seconds count written for the next pier. -/
  write    : Option W64 := none
  /-- TIME.PIER has been written or taken from PTM (R118). -/
  origin   : Bool := false
  /-- A pier has been taken from an external source since reset. -/
  extern   : Bool := false
  /-- A pier has passed since reset. -/
  begun    : Bool := false
  coasted  : Nat := 0
  /-- Source of the pier grid in force (R108): 1 PTM, 2 TIMEPULSE, 0 the device's own divider. -/
  grid     : BitVec 2 := 0
  /-- Time in µs since reset at which the pier divider expects the next pier (R112, R115). -/
  expected : Nat := 1000000
  /-- Times of the spurious edges that may lead to a relock, newest first (R112). -/
  edges    : List Nat := []
  /-- A PTM dialogue waits for its response (R113). -/
  dialogue : Bool := false
  ptmOk    : Nat := 0
  ptmFail  : Nat := 0
  ptm      : Bool := false
  deriving DecidableEq, Repr

/-! ## Metering -/

/-- The counters of a receipt (R129, R131). -/
structure Counts where
  commands   : Nat := 0
  coreSpans  : Nat := 0
  scanBytes  : Nat := 0
  mediaRead  : Nat := 0
  mediaWrite : Nat := 0
  hostIn     : Nat := 0
  hostOut    : Nat := 0
  crucible   : Nat := 0
  keyOps     : Nat := 0
  deriving DecidableEq, Repr

/-- The meter of one slice (R129 to R131): the open minute's totals and the current span's counts. -/
structure SliceMeter where
  opened  : Bool := false
  closed  : Bool := false
  rebound : Bool := false
  spans   : Nat := 0
  total   : Counts := {}
  cur     : Counts := {}
  /-- Bytes × spans of stored LBAs and of local pages not blank, exact (R131). -/
  stored  : Nat := 0
  local4k : Nat := 0
  /-- Closed at the end of the current span (R94). -/
  closing : Bool := false
  deriving DecidableEq, Repr

/-- A minute that a minute pier has ended (R130, R132): its MINUTE, flags and meters. -/
structure Ended where
  minute   : Nat
  holdover : Bool
  stepped  : Bool
  powerCut : Bool
  slices   : Tbl SliceMeter
  deriving DecidableEq, Repr

/-- A closed minute: its receipts and header (R137, R139). -/
structure Minute where
  minute  : Nat
  member  : Nat
  format  : Nat
  flags   : Nat
  /-- 1,024 leaves of 128 bytes. -/
  leaves  : List (List Byte)
  root    : List Byte
  prev    : List Byte
  sigIdx  : Nat
  /-- How many minutes had closed before this one. -/
  ordinal : Nat
  deriving DecidableEq, Repr

/-- A committed minute: the closed minute and its signature (R139). -/
structure Seal where
  min : Minute
  sig : List Byte
  deriving DecidableEq, Repr

/-- METER.* and the minutes (R132 to R146). -/
structure Meter where
  fsel     : BitVec 2 := 1
  member   : BitVec 10 := 0
  /-- FORMAT and MEMBER of the open minute. -/
  openFmt  : Nat := 1
  openMem  : Nat := 0
  held     : Bool := false
  /-- HOLDOVER, STEP and POWERCUT of the open minute (R130). -/
  holdover : Bool := false
  stepped  : Bool := false
  powerCut : Bool := false
  last     : W64 := 0
  /-- A seal has been made with the present seal key (R140). -/
  chain    : Bool := false
  /-- Slices by number: their meters. -/
  slices   : Tbl SliceMeter := []
  /-- Minutes ended by a minute pier for which MINUTE_CLOSE has not executed, oldest first. -/
  ended    : List Ended := []
  /-- Closed minutes not yet committed, oldest first. -/
  closed   : List Minute := []
  /-- The last 2,880 committed minutes, newest first. -/
  store    : List Seal := []
  nClosed  : Nat := 0
  deriving DecidableEq, Repr

/-! ## Migration logs -/

/-- One migration log record (R124): its number since the start, page and pier. -/
structure MigRec where
  num  : Nat
  page : Nat
  pier : W32
  deriving DecidableEq, Repr

/-- One migration log (R123 to R128). -/
structure MigLog where
  slice    : Nat
  base     : W64
  size     : Nat
  /-- MIG.HEAD. -/
  head     : Nat := 0
  /-- Records produced, sent to the log and consumed since the start. -/
  produced : Nat := 0
  sent     : Nat := 0
  consumed : Nat := 0
  /-- The recent-page filter: page and number of its record, newest first. -/
  filter   : List (Nat × Nat) := []
  /-- The last 64 records produced, newest first (R127). -/
  recent   : List MigRec := []
  deriving DecidableEq, Repr

/-- A DMA write that waits for a full migration log, or for its function to issue requests again (R126, R127, R516):
data within one 4 KiB page, with the submission queue of the command that sends it; a completion entry; data of a port
controller. -/
inductive Paused where
  | data (slice iova : Nat) (sq : Option Nat) (d : Data)
  | cqe (slice : Nat) (p : PendCqe)
  | port (ctrl : Nat) (iova : W64) (d : Data)
  deriving DecidableEq, Repr

/-! ## What the device has sent out -/

/-- A completion queue entry as posted (R66, R67). -/
structure Cqe where
  ctrl  : Nat
  cq    : Nat
  sq    : Nat
  sqhd  : Nat
  cid   : W16
  sct   : Nat
  sc    : Nat
  dw0   : W32
  dw1   : W32
  phase : Bool
  deriving DecidableEq, Repr

/-- A posted DMA write: the slice it is made for and the PASID it carries, or none on a port without a PASID; the port
function whose requester ID it carries (R89, R513). -/
structure HostWrite where
  slice : Option Nat
  pasid : Option Nat
  port  : Nat
  iova  : W64
  data  : Data
  deriving DecidableEq, Repr

/-- One request on a port (R18, R89, R501, R505, R506, R513): the stop it leaves through, its PASID, address and length,
Relaxed Ordering and ID-Based Ordering. -/
structure HostReq where
  read    : Bool
  port    : Nat
  stop    : Nat
  pasid   : Option Nat
  addr    : Nat
  len     : Nat
  relaxed : Bool
  ido     : Bool
  deriving DecidableEq, Repr

/-- What has left the device, newest first in each list. -/
structure Out where
  cqes  : List Cqe := []
  dma   : List HostWrite := []
  /-- The requests of these writes and of the reads; reads outstanding by port, and those that wait for a tag, oldest first
  (R505). -/
  reqs  : List HostReq := []
  np    : Tbl Nat := []
  held  : List HostReq := []
  /-- Interrupt messages: controller, vector (R519). -/
  msgs  : List (Nat × Nat) := []
  /-- Values returned by register reads: offset, value. -/
  reads : List (Nat × W64) := []
  /-- Messages returned on the sideband (18). -/
  side  : List (List Byte) := []
  /-- Words shifted out of JTAG. -/
  jtag  : List (List Byte) := []
  deriving DecidableEq, Repr

/-- The host side of the state. -/
structure HostSide where
  ctrls   : Tbl Ctrl := []
  logs    : Tbl CtrlLog := []
  slices  : Tbl Slice := []
  /-- I/O submission and completion queues free in the pool (R51). -/
  poolSq  : Nat := 16384
  poolCq  : Nat := 16384
  /-- SLC.SEL (R106). -/
  slcSel  : BitVec 10 := 0
  mig     : Tbl MigLog := []
  /-- Logs that a stop has ended, by index: their positions stand until the next start (R125, R128). -/
  migOld  : Tbl MigLog := []
  paused  : List Paused := []
  /-- The last controller the command front fetched for among slices (R102). -/
  lastFetch : Nat := 0
  deriving DecidableEq, Repr

end Sys2Proof.Machine
end

