-- ==== Sys2Proof/Machine/StateKeys.lean ====
section
/-! DEFINITION. The state of the Hallmark unit, its key store, measurement registers and signer, the
media key table and the debug port (chapters 07 and 14). -/

namespace Sys2Proof.Machine

/-- Who owns a key slot (R434). -/
inductive KeyOwner where
  | slice (s : Nat)
  | manager
  | device
  deriving DecidableEq, Repr

/-- One key slot (R434). The key is the number its 64 bytes spell. -/
structure KeySlot where
  cls   : Nat
  owner : KeyOwner
  key   : Nat
  deriving DecidableEq, Repr

/-- An import key pair and its count of imports (R442): a slice's, or the manager's at 65,535. -/
structure ImportPair where
  seed  : Nat := 0
  count : Nat := 0
  deriving DecidableEq, Repr

/-- A slice measurement register and the number of its extends (R430, R441). -/
structure Smr where
  val : List Byte := List.replicate 64 0
  cnt : Nat := 0
  deriving DecidableEq, Repr

/-- One entry of the media key table: its key, generation and SEQ counter with its reservation
(R213, R217). -/
structure MediaKey where
  key : Nat := 0
  gen : W16 := 0
  seq : Nat := 0
  res : Nat := 0
  deriving DecidableEq, Repr

/-- The parameters of a namespace that Namespace Management gives (R74): size, LBA format, DPS, 16 KiB
indirection unit, packing, and target cell mode (0 QLC, 1 PLC, 2 SLC-only). -/
structure NsSpec where
  nsze   : Nat := 0
  fmt    : Nat := 0
  dps    : Nat := 0
  iu16   : Bool := false
  packed : Bool := false
  cell   : Nat := 0
  deriving DecidableEq, Repr

/-- What a commit of the media key table brings into force (R214, R435). -/
inductive KeyAct where
  | nsCreate (nsx : Nat)
  | nsDelete (nsxs : List Nat)
  | format (nsxs : List Nat) (fmt dps : Nat)
  | sanitize (scope : Option Nat)
  | keyImport (owner slot cls key : Nat) (ct : List Byte)
  | keyEmpty (owner slot : Nat)
  deriving DecidableEq, Repr

/-- One replacement with the command that waits for it, if any (R214, R215). -/
structure KeyWork where
  src : Option (Src × W16)
  act : KeyAct
  deriving DecidableEq, Repr

/-- A signature of the signer (R428): a minute seal, or a quote for a command with its length and body. -/
inductive SignJob where
  | seal
  | quote (src : Src) (e : Sqe) (body : List Byte)
  deriving DecidableEq, Repr

/-- The classes of a tamper response (R445), the more severe later. -/
inductive TamperClass where
  | e | g | p
  deriving DecidableEq, Repr

/-- The Hallmark unit (chapter 14). -/
structure Hallmark where
  /-- MR0 to MR31 that are not 64 bytes of 00h (R430). -/
  mrs      : Tbl (List Byte) := []
  smrs     : Tbl Smr := []
  /-- Key slots that are not empty, and the generation of every slot (R434). -/
  slots    : Tbl KeySlot := []
  gens     : Tbl W16 := []
  imports  : Tbl ImportPair := []
  /-- Media key table: entry 4,096 is the device media key, entry 4,097 stands for the image key and its counter (R210,
  R213, R423); the table key in the non-volatile store (R214). -/
  media    : Tbl MediaKey := []
  tableKey : Nat := 0
  /-- Replacements of the commit in progress and of the next one (R214). -/
  commit   : List KeyWork := []
  joining  : List KeyWork := []
  /-- The context wrap key (R373) and the keys of the memory domains by number (R400). -/
  wrapKey  : Nat := 0
  domains  : Tbl Nat := []
  /-- HM.MDCTL (R432). -/
  mdTarget : BitVec 5 := 0x18
  mdKeyed  : Bool := false
  mdSlot   : BitVec 12 := 0
  /-- HM.MDSTAT.STATE, and the message of the digest in progress with the key it took. -/
  mdState  : BitVec 2 := 0
  mdMsg    : List Byte := []
  mdKey    : Option Nat := none
  /-- Target of the digest being finished, and writes of HM.MDDATA that wait (R432). -/
  mdInto   : Nat := 0
  mdWait   : List W64 := []
  /-- HM.MRSEL.INDEX (R433). -/
  mrSel    : BitVec 11 := 0
  /-- HM.STAT: SEALGEN, IMGSVN, UNLOCKED, READY, the fuses and the tamper records (R447). -/
  sealGen  : Nat := 0
  imgSvn   : Byte := 0
  unlocked : Bool := false
  ready    : Bool := false
  fwSvn    : Nat := 0
  tampers  : Nat := 0
  /-- Tamper records not yet extended into MR6 (R446). -/
  records  : List (List Byte) := []
  /-- Writes of the non-volatile store since manufacture (R429). -/
  nvWrites : Nat := 0
  /-- Next index and reservation of the identity key and of the seal key (R143, R425). -/
  idNext   : Nat := 64
  idRes    : Nat := 64
  /-- Identity index that signed the present seal certificate (R426). -/
  certIdx  : Nat := 0
  slNext   : Nat := 0
  slRes    : Nat := 0
  /-- The signature being made, and those waiting (R428). -/
  signing  : Option SignJob := none
  waitSeal : Bool := false
  waitQuote : Option SignJob := none
  /-- The signer refuses every signature (R450). -/
  refuses  : Bool := false
  /-- TIME.PIER when the present seal key was made (R426). -/
  sealPier : W64 := 0
  /-- Debug challenge, refusals since the last reset, blocks opened (R448 to R450). -/
  challenge : List Byte := List.replicate 32 0
  refusals : Nat := 0
  scope    : Byte := 0
  /-- A debug unlock has been accepted and no reset has followed (R450). -/
  erased   : Bool := false
  /-- The tamper response that runs (R445). -/
  response : Option TamperClass := none
  /-- The volatile keys are zeroized (R445). -/
  zeroized : Bool := false
  /-- Table key erased and PUF fuses blown by class P (R445). -/
  dead     : Bool := false
  /-- Faults in a row of one destination's transfers on the private key bus (R436). -/
  busFails : Nat := 0
  deriving DecidableEq, Repr

end Sys2Proof.Machine
end

