-- ==== Sys2Proof/Machine/StateMedia.lean ====
section
/-! DEFINITION. The state of the namespaces, the map, the write buffer, the block sets and the flash channels
(chapters 05 to 07). -/

namespace Sys2Proof.Machine

/-! ## Namespaces and the map -/

/-- Where an indirection unit's data is: a place in the write buffer, in granules (KIND 01b), or a block set
and the offset in it, in granules (KIND 10b) (R153). -/
inductive MapLoc where
  | buffer (slot : Nat)
  | flash (set goff : Nat)
  deriving DecidableEq, Repr

/-- The last entry of KIND 10b that an entry of KIND 01b replaced: what a power loss without a flush returns to
(R497). -/
structure OldIu where
  set  : Nat
  goff : Nat
  data : Mem
  tags : List W16
  len  : Nat
  raw  : Bool
  clen : Nat
  deriving DecidableEq, Repr

/-- A map entry of KIND 01b or 10b with the plaintext it leads to (R153, R223). -/
structure Iu where
  loc  : MapLoc
  data : Mem
  /-- Application tag of each LBA, on format 2 (R224). -/
  tags : List W16 := []
  /-- Granules, and RAW, of a packed entry; 8 per unit otherwise. -/
  len  : Nat
  raw  : Bool := false
  /-- Compressed bytes of a compressed extent (R226). -/
  clen : Nat := 0
  /-- What stood on flash before, for an entry of KIND 01b (R497). -/
  old  : Option OldIu := none
  deriving DecidableEq, Repr

/-- A namespace, by its NSX (R73, R74). -/
structure Ns where
  nsid     : Nat
  slice    : Nat
  spec     : NsSpec
  /-- Its create waits for the commit of its media key (R214). -/
  pending  : Bool := false
  attached : Bool := false
  /-- The device's creation count at its create (R73). -/
  number   : Nat := 0
  /-- Deleted: its map bytes not yet freed (R154). -/
  deleted  : Bool := false
  left     : Nat := 0
  readOnly : Bool := false
  units    : Tbl Iu := []
  /-- Ranges of indirection units (first, end) that have been deallocated: without a record in `units` they are
  KIND 00b, the others KIND 11b (R153). -/
  dealloc  : List (Nat × Nat) := []
  deriving DecidableEq, Repr

/-! ## Block sets (R150 to R152, R172) -/

/-- The role a set is opened in (R151). -/
inductive Role where
  | staging | dense | fast | map
  deriving DecidableEq, Repr

/-- Cell modes. -/
inductive Cell where
  | slc | tlc | qlc | plc
  deriving DecidableEq, Repr

/-- States of R172; `erasing` is Stale with the erase issued. -/
inductive SetSt where
  | erased | open_ | closed | relocating | stale | erasing | retired
  deriving DecidableEq, Repr

/-- What a set is opened for: writes, fold, garbage collection, or a wear levelling move. -/
inductive Purpose where
  | write | fold | gc | level
  deriving DecidableEq, Repr

/-- An extent in a packing group whose packing unit is not yet written: NSX, indirection unit, place in granules,
length (R228). -/
structure Ext where
  nsx  : Nat
  iu   : Nat
  goff : Nat
  len  : Nat
  deriving DecidableEq, Repr

/-- One block set. A set without a record is erased and has never been used. -/
structure BlockSet where
  st      : SetSt := .erased
  role    : Role := .staging
  cell    : Cell := .slc
  purpose : Purpose := .write
  /-- Granules placed so far, and the packing group that holds compressed extents. -/
  cursor  : Nat := 0
  packed  : Option Nat := none
  /-- NSX of the compressed extents of the unit being filled (R210), and the extents of the group. -/
  nsx     : Nat := 0
  exts    : List Ext := []
  valid   : Nat := 0
  /-- The device's count of piers when it closed (R162). -/
  closedAt : Nat := 0
  /-- Equivalent erase counts of its blocks by channel, in 1/256 QLC cycles (R169). -/
  eecs    : List Nat := List.replicate 32 0
  /-- Channels whose block is marked for replacement, and channels left out (R172, R207). -/
  marked  : List Nat := []
  out     : List Nat := []
  degraded : Bool := false
  /-- Pages whose stripe is unprotected (R205). -/
  naked   : List Nat := []
  deriving DecidableEq, Repr

/-- Part of an extent in a packed unit: the granule of the unit where it stands, the granules of the extent before it,
its own granules; then the extent (R226). -/
structure Piece where
  at_  : Nat
  skip : Nat
  n    : Nat
  iu   : Nat
  len  : Nat
  clen : Nat
  data : Mem
  tags : List W16
  deriving DecidableEq, Repr

/-- The plaintext of a unit: bytes; extents of a packed unit; 4,096 bytes of a map from byte `base`, of entries of
`size` bytes with those named, the others never written (R153); content that the spec does not lay out, free bytes
from a counter. -/
inductive Body where
  | bytes (m : Mem)
  | packed (l : List Piece)
  | map (size base : Nat) (l : List (Nat × Nat))
  | free (k : Nat)
  deriving DecidableEq, Repr

/-- A stored unit (R208, R209): its metadata but for TAG; the slice and the key that its tag binds it to (R219); its
plaintext. -/
structure Stored where
  kind  : Nat
  nsx   : Nat
  ulba  : Nat
  seq   : Nat
  app   : W16
  slice : Nat := 0xFFFF
  key   : Nat := 0
  body  : Body := .bytes []
  /-- The 4,128 bytes found in its place where they are not those programmed. -/
  raw   : Option (List Byte) := none
  /-- It has been found unrecoverable (R202). -/
  lost  : Bool := false
  deriving DecidableEq, Repr

/-- A unit in the system blocks of one of channels 0 to 2 (R210, R439). -/
structure SysUnit where
  chan : Nat
  unit : Stored
  deriving DecidableEq, Repr

/-- An indirection unit in the write buffer that a program has not yet freed (R33, R160). -/
structure BufItem where
  slot  : Nat
  /-- Granules of the buffer it takes. -/
  len   : Nat
  nsx   : Nat
  iu    : Nat
  raw   : Bool := false
  packed : Bool := false
  data  : Mem := []
  clen  : Nat := 0
  tags  : List W16 := []
  slice : Nat
  /-- The program it was dispatched in, and the command that waits for it while writing through (R495). -/
  prog  : Option Nat := none
  /-- Where the program puts it. -/
  goff  : Nat := 0
  owner : Option (Src × W16) := none
  deriving DecidableEq, Repr

/-- A program dispatched to a set: its units from offset `first`, the channels of its pages, the bytes it holds in the
program buffers. -/
structure Prog where
  set    : Nat
  first  : Nat := 0
  count  : Nat := 0
  chans  : List Nat
  bytes  : Nat
  /-- How often its data has been sent again (R183), and whether it waits for the rate change to be sent. -/
  resent : Nat := 0
  waiting : Bool := false
  /-- The page whose truss parity it programs, for a parity page (R205). -/
  parity : Option Nat := none
  /-- Journal entries in it, the map segments they touch, and the commands that wait for them (R155, R495). -/
  entries : Nat := 0
  segs   : List Nat := []
  owners : List (Src × W16) := []
  /-- Its page failed and its data waits for room elsewhere (R172). -/
  redo   : Bool := false
  /-- The CRC-16 of each 1,024 bytes sent, with write CRC (R183). -/
  crcs   : List W16 := []
  deriving DecidableEq, Repr

/-- A page that failed, and the first unit offset and set that its data was rewritten to (R205). -/
structure Sub where
  set  : Nat
  page : Nat
  chan : Nat
  at_  : Option (Nat × Nat)
  deriving DecidableEq, Repr

/-- A journal page: its place, and the map segments its entries touch that have not been written since (R155). -/
structure JPage where
  set  : Nat
  off  : Nat
  segs : List Nat
  deriving DecidableEq, Repr

/-- Who reads a unit from media. -/
inductive Reader where
  | cmd (io : Nat)
  | scan (scan idx : Nat)
  | move (run : Nat)
  | sample
  deriving DecidableEq, Repr

/-- A codeword in the soft pool (R193, R199): its decoder, once it has one; the offset of each read level in every sense of
the soft read; the magnitudes of the regions outward from a level. -/
structure SoftJob where
  unit   : Option Nat := none
  senses : List (List Int)
  mags   : List Nat
  deriving DecidableEq, Repr

/-- A read of one stored unit in progress (R34, R200, R221). -/
structure MediaRead where
  reader : Reader
  nsx    : Nat
  iu     : Nat
  /-- Unit of the indirection unit, and its place: set and unit offset. -/
  unit   : Nat
  set    : Nat
  off    : Nat
  slice  : Nat
  /-- Generation of the media key at the lookup, and the key (R216). -/
  gen    : W16
  key    : Nat
  /-- The die has taken it; the offset of each read level from the die's default that it is read at (R194, R195). -/
  issued : Bool := false
  thr    : List Int := []
  /-- Ladder step, and attempts of R221: 0, 1 after the second reading, 2 after reconstruction. -/
  step   : Nat := 1
  auth   : Nat := 0
  soft   : Option SoftJob := none
  /-- The offset that the sweep of step 5 keeps, in steps. -/
  kept   : Int := 0
  dropped : Bool := false
  deriving DecidableEq, Repr

/-- A unit that a Read has taken: its indirection unit, the unit's place in it, its plaintext and application tag, and
whether they are other than what was programmed there. -/
structure ReadPart where
  iu    : Nat
  unit  : Nat
  body  : Body
  app   : W16
  alien : Bool
  deriving DecidableEq, Repr

/-- A Read that waits for media (R58). -/
structure IoRead where
  src   : Src
  e     : Sqe
  nsx   : Nat
  left  : Nat
  /-- Data as taken at the lookup, LBA by LBA: the LBA's bytes and its application tag, none when it holds
  no data. -/
  blocks : List (Option (Mem × W16))
  /-- The map entries of the compressed extents it reads, and the units taken that those data need not show. -/
  ius   : Tbl Iu := []
  parts : List ReadPart := []
  fail  : Option (Nat × Nat) := none
  deriving DecidableEq, Repr

/-- What a command that waits for room or credit is to write (R164, R223): a Write's data and tags; the parts of a Write
Zeroes with their tag; the parts of a Dataset Management, range and indirection unit. -/
inductive WaitBody where
  | write (data : List Byte) (tags : List W16)
  | zeros (tag : W16)
  | dsm (parts : List ((Nat × Nat) × Nat))
  deriving DecidableEq, Repr

/-- A command whose host data waits for room or credit (R157, R164). -/
structure WaitWrite where
  src   : Src
  e     : Sqe
  nsx   : Nat
  slice : Nat
  body  : WaitBody
  deriving DecidableEq, Repr

/-- A fold, garbage collection, wear levelling or foreground move of a set (R158, R161, R170). -/
structure Move where
  purpose : Purpose
  source  : Nat
  foreground : Bool := false
  /-- The destination of a wear levelling move. -/
  dest    : Option Nat := none
  deriving DecidableEq, Repr

/-- Units on their way from one set to another, in staging buffers of the device domain (R36, R229): a run of units at
consecutive offsets with the indirection units it holds, as they were chosen. -/
structure Transit where
  purpose : Purpose
  source  : Nat
  first   : Nat
  count   : Nat
  ius     : List Ext
  /-- Reads not yet done. -/
  left    : Nat
  foreground : Bool := false
  dest    : Option Nat := none
  deriving DecidableEq, Repr

/-- A place that waits for a refresh move (R201): the move is made while the map names it. -/
structure Refresh where
  nsx  : Nat
  iu   : Nat
  set  : Nat
  goff : Nat
  deriving DecidableEq, Repr

/-- Map entries of a formatted namespace that are not yet freed: the indirection units with their sets and granules, the
entry size, and the map bytes left (R154). -/
structure Freeing where
  units : Tbl (Nat × Nat)
  entry : Nat
  left  : Nat
  deriving DecidableEq, Repr

/-- Fold levels (R159). -/
inductive FoldLevel where
  | none_ | background | urgent
  deriving DecidableEq, Repr

/-! ## Channels (R185, R189, R194) -/

/-- Tracked values of a LUN, cell mode and wordline group, with 8 more fraction bits (R194). -/
structure Track where
  o : Int := 0
  g : Int := 0
  a : Int := 0
  /-- The device's count of piers at the last read that touched it (R197). -/
  touched : Nat := 0
  deriving DecidableEq, Repr

/-- One flash channel. -/
structure Chan where
  /-- Rate in MT/s, 0 while idle. -/
  rate    : Nat := 0
  /-- The rate of a change in progress, and one that follows it at once (R186, R187). -/
  next    : Option Nat := none
  then_   : Option Nat := none
  /-- Per mille busy of the last 109 spans, newest first. -/
  busy    : List Nat := []
  recov   : Nat := 0
  failed  : Bool := false
  /-- A CRC mismatch has been met twice on the program in hand (R183, R184). -/
  retrain : Nat := 0
  /-- Keys the cipher lane holds: NSX and generation, newest first (R216). -/
  keys    : List (Nat × W16) := []
  deriving DecidableEq, Repr

/-- A map segment: journal entries that have touched it, the pier of its last write, and the units of its newest copy
(R155). -/
structure Segment where
  touched : Nat := 0
  written : Nat := 0
  at_     : List (Nat × Nat) := []
  deriving DecidableEq, Repr

/-- One wrapped copy of the media key table: its channel, the table key it is wrapped under, the table, and whether a
later one has superseded it (R214). -/
structure TableCopy where
  chan  : Nat
  key   : Nat
  keys  : Tbl MediaKey
  stale : Bool := false
  deriving DecidableEq, Repr

/-- The namespaces and the flash array. -/
structure Media where
  ns      : Tbl Ns := []
  freeing : List Freeing := []
  /-- Formation (R148 to R150): die positions, chip enables and LUNs, sets of each die position, sets retired. -/
  formed  : Bool := false
  dpos    : Nat := 0
  ces     : Nat := 0
  luns    : Nat := 0
  posSets : List Nat := []
  retired : Nat := 0
  /-- Planes, bytes of a plane page and wordlines (R191), ratings E_m of SLC, TLC, QLC and PLC (R148), erase suspend
  (R175). -/
  planes  : Nat := 1
  pageBytes : Nat := 4448
  wordlines : Nat := 1
  rating  : Nat × Nat × Nat × Nat := (1, 1, 1, 1)
  suspends : Bool := false
  /-- Signalling mode, top step, read preamble of fast signalling (R180 to R182, R185). -/
  sig     : BitVec 2 := 0
  top     : Nat := 3200
  preamble : Nat := 0
  ppHash  : List Byte := List.replicate 32 0
  /-- Spare blocks of each channel at formation, and the equivalent erase counts of those left by die (R169, R177). -/
  spares0 : List Nat := []
  spares  : Tbl (List Nat) := []
  sets    : Tbl BlockSet := []
  /-- Stored units by set × 2^20 + unit offset, and those of the system blocks by record number (R210, R211). -/
  stored  : Tbl Stored := []
  sys     : Tbl (List SysUnit) := []
  /-- Copies of the media key table in the system blocks (R214). -/
  tables  : List TableCopy := []
  /-- Truss buffers, each the XOR of the data pages of a stripe sent so far, and the parity pages programmed, by set × 2^16 +
  page (R204, R205). -/
  truss   : Tbl (List Byte) := []
  parity  : Tbl (List Byte) := []
  subs    : List Sub := []
  /-- Write buffer in use, in 64 MiB (R492), its items, and commands that wait. -/
  wb      : Nat := 0
  wthru   : Bool := false
  buf     : List BufItem := []
  waits   : List WaitWrite := []
  progs   : Tbl Prog := []
  nextProg : Nat := 0
  reads   : Tbl MediaRead := []
  nextRead : Nat := 0
  ios     : Tbl IoRead := []
  nextIo  : Nat := 0
  /-- Die position that takes the next staging program. -/
  nextPos : Nat := 0
  /-- Last winners of the arbiters of R102: of each die, of the programs, of the admissions, of each group of soft
  decoders; and the dies whose last operation was device work's (R159, R161, R207). -/
  lastDie : Tbl Nat := []
  lastProg : Nat := 1023
  lastWait : Nat := 1023
  lastSoft : Tbl Nat := []
  turn    : List Nat := []
  moves   : List Move := []
  transit : Tbl Transit := []
  nextRun : Nat := 0
  fold    : FoldLevel := .none_
  /-- Places that wait for a refresh move (R201). -/
  refresh : List Refresh := []
  /-- gc_credit (R164). -/
  credit  : Rat := 0
  exhaust : Bool := false
  /-- A host write was admitted in the span that runs (R159). -/
  admitted : Bool := false
  /-- Journal entries not yet sent in a journal page, by the keeper index in whose partition of keeper SRAM they stand (R28),
  the map segments they touch, and the commands that wait for them
  while writing through; the next page's sequence number; the journal pages not released (R155, R173, R211). -/
  jparts  : Tbl Nat := []
  jsegs   : List Nat := []
  jown    : List (Src × W16) := []
  jseq    : Nat := 0
  jpages  : List JPage := []
  segs    : Tbl Segment := []
  chans   : Tbl Chan := []
  /-- FL.CHSEL.CH (R188). -/
  chSel   : BitVec 5 := 0
  /-- Failed dies by number, die position × 32 + channel, and piers of the exchanges of each die (R462). -/
  dieBad  : List Nat := []
  swaps   : Tbl (List Nat) := []
  /-- Dies whose last operation timed out (R462). -/
  late    : List Nat := []
  /-- Tracked values by (die × 4 + mode) × 8 + wordline group. -/
  track   : Tbl Track := []
  /-- The values last written with the map segments (R197). -/
  trackSaved : Tbl Track := []
  /-- Column defect map by die, and wordlines on which each column was corrected (R198). Columns are
  numbered plane × 2^20 + byte column. -/
  colBad  : Tbl (List Nat) := []
  colHits : Tbl (Tbl (List Nat)) := []
  /-- Ladder step 4 needed, by set × 32 + channel: wordline and unit offset; and grown defects (R196). -/
  wlHits  : Tbl (List (Nat × Nat)) := []
  wlBad   : Tbl (List Nat) := []
  /-- WL.SPREAD (R171). -/
  spread  : W16 := 0x00C8
  /-- Retraining of the pier has run in a background window (R184). -/
  trained : Bool := false
  deriving DecidableEq, Repr

end Sys2Proof.Machine
end

