-- ==== Sys2Proof/Machine/StateMemory.lean ====
section
/-! DEFINITION. The state of the DRAM subsystem (chapter 13). -/

namespace Sys2Proof.Machine

/-- One entry of a correctable-error log (R412, R417). -/
structure CelEntry where
  cw    : Nat
  hits  : Nat := 0
  scrub : Bool := false
  flag  : Bool := false
  dev   : Nat
  /-- Order of entry. -/
  age   : Nat
  deriving DecidableEq, Repr

/-- A request waiting in a subchannel's queue (R402). -/
structure DramReq where
  id    : Nat
  write : Bool
  cls   : BitVec 2
  cw    : Nat
  bank  : Nat
  row   : Nat
  aged  : Bool := false
  /-- The flash channel whose program buffer the data of a read is bound for (R402). -/
  flash : Option Nat := none
  deriving DecidableEq, Repr

/-- An entry of a bank's table of activations (R407). -/
structure RowCount where
  entry : Nat
  row   : Nat
  count : Nat
  deriving DecidableEq, Repr

/-- One subchannel: its queues in order of arrival, open rows by bank, banks in in-order mode, the write
drain, refreshes postponed by bank index, activation tables by bank, and refresh management commands
that wait (R402 to R407). -/
structure SubChan where
  reads    : List DramReq := []
  writes   : List DramReq := []
  open_    : Tbl Nat := []
  inOrder  : List Nat := []
  draining : Bool := false
  postponed : Tbl Nat := []
  tables   : Tbl (List RowCount) := []
  rfm      : List Nat := []
  deriving DecidableEq, Repr

/-- One DRAM channel (R412, R414, R418). -/
structure DramChan where
  log     : List CelEntry := []
  next    : Nat := 0
  uncorr  : Nat := 0
  panics  : Nat := 0
  sppr    : Nat := 0
  /-- Marked device by 2 × rank + subchannel (R410). -/
  marks   : Tbl Nat := []
  /-- Write levelling is repeated in the next background span window (R392). -/
  relevel : Bool := false
  /-- Times the channel has run ZQ calibration since training. -/
  zq      : Nat := 0
  /-- The XTS keys that its key SRAM has latched, by memory domain (R32, R400). -/
  keys    : Tbl Nat := []
  deriving DecidableEq, Repr

/-- A row flagged for repair: channel, a codeword of it, the device, soft-repaired already (R414). -/
structure FlagRow where
  chan : Nat
  cw   : Nat
  dev  : Nat
  soft : Bool := false
  deriving DecidableEq, Repr

/-- What a controller answers a read, or a write in error: address, poisoned, bytes. -/
structure DramReply where
  addr   : Nat
  poison : Bool
  bytes  : List Byte
  deriving DecidableEq, Repr

/-- The DRAM subsystem. -/
structure Dram where
  /-- The local memory of each slice, by slice number (R39, R245). -/
  locals  : Tbl Mem := []
  /-- Blank-page bits that are clear: 4 KiB pages of a slice's local memory (R396). -/
  clear   : Tbl (List Nat) := []
  /-- The rest of the DRAM by address: the filled region, and the runtime pool with its pages that are
  not blank (R393). -/
  filled  : Mem := []
  pool    : List Nat := []
  /-- The DRAM is held in self-refresh (R401). -/
  selfRef : Bool := false
  /-- Codewords written under another domain than the one their place belongs to (R398). -/
  domains : Tbl Nat := []
  /-- Local memory of slices as extents: slice, first extent, extents (R395). -/
  extents : Tbl (Nat × Nat) := []
  trained : Bool := false
  /-- DRAM.BTCFG.NEXT and SIZE (R394), and the value stored in keeper data. -/
  btNext  : Nat := 0
  btSize  : Nat := 0
  btSaved : Nat := 16
  /-- DRAM.SCHED (R405). -/
  rfmTh   : BitVec 12 := 0x200
  age     : BitVec 12 := 0x0C8
  /-- DRAM.CELSEL (R416). -/
  selCh   : BitVec 2 := 0
  selIdx  : BitVec 5 := 0
  chans   : Tbl DramChan := []
  /-- Subchannels by 2 × channel + subchannel. -/
  subs    : Tbl SubChan := []
  nextReq : Nat := 0
  /-- Pages whose fill is in progress, with the replies that wait for it (R397). -/
  filling : Tbl (List DramReply) := []
  /-- Replies given, newest first. -/
  replies : List DramReply := []
  rows    : List FlagRow := []
  /-- Rows hard-repaired since manufacture (R415). -/
  hardRows : List FlagRow := []
  /-- Flash channels in panic (R404). -/
  panic   : List Nat := []
  /-- MR4 of some device calls for more than normal refresh (R406). -/
  hot     : Bool := false
  /-- ECC.TBUF0 to ECC.TBUF9, ECC.FLIPMASK, and ECC.TEST's BUSY, RES, NSYM, ADDR (R419, R420). -/
  tbuf    : Vector (BitVec 64) 10 := Vector.replicate 10 0
  flip    : BitVec 64 := 0
  busy    : Bool := false
  res     : BitVec 2 := 0
  nsym    : BitVec 5 := 0
  taddr   : BitVec 14 := 0
  /-- Codewords of the test window that a test has written, 80 bytes each. -/
  window  : Tbl (List (BitVec 8)) := []
  deriving DecidableEq, Repr

end Sys2Proof.Machine
end

