-- ==== Sys2Proof/Machine/StateRel.lean ====
section
/-! DEFINITION. The state of fault containment and repair: the fault log, replacement causes, keeper
pairs, the core map, deck links and SRAM logs (chapters 01 and 15). -/

namespace Sys2Proof.Machine

/-- One entry of the fault and repair log (R471, R472). UNIT, ADDR and DETAIL are kept as the numbers
they are made of; how they are packed into bytes the spec does not state (log entry 12). -/
structure LogEntry where
  seq    : Nat
  pier   : W64
  span   : Nat
  event  : Nat
  sev    : Nat
  unit   : List Nat
  slice  : Option Nat
  addr   : List Nat
  detail : List Nat
  deriving DecidableEq, Repr

/-- One entry of an SRAM group's correctable-error log (R466). -/
structure SramEntry where
  word  : Nat
  hits  : Nat := 0
  scrub : Bool := false
  flag  : Bool := false
  /-- Order of entry. -/
  age   : Nat := 0
  deriving DecidableEq, Repr

/-- One SRAM group: its log, the spare rows used of each macro and the rows remapped (R466). -/
structure SramGroup where
  log    : List SramEntry := []
  next   : Nat := 0
  used   : Tbl Nat := []
  mapped : List (Nat × Nat) := []
  deriving DecidableEq, Repr

/-- One direction of a deck link (R17, R20, R23): flits sent and not acknowledged, oldest first; flits received and
waiting for a grant at its input; flits granted there; link check failures in a row. -/
structure Lane where
  sent   : List Flit := []
  held   : List Flit := []
  credit : Nat := 0
  bad    : Nat := 0
  deriving DecidableEq, Repr

/-- One deck link (R17, R20): its two directions, from the lower stop to the higher and back, and whether it is marked
failed. -/
structure Link where
  out    : Lane := {}
  back   : Lane := {}
  failed : Bool := false
  deriving DecidableEq, Repr

/-- Fault containment and repair. -/
structure Rel where
  /-- The last 1,024 entries of log page D2h, newest first. -/
  log      : List LogEntry := []
  seq      : Nat := 0
  /-- REL.REPL (R473). -/
  repl     : BitVec 14 := 0
  /-- Fault state (R476), REPLACE_N driven (R474). -/
  fault    : Bool := false
  replaceN : Bool := false
  /-- Keeper pairs in service of the 5, the pair that serves each index, and the spare used (R455, R457). -/
  pairs    : List Nat := [0, 1, 2, 3, 4]
  serves   : Tbl Nat := [(0, 0), (1, 1), (2, 2), (3, 3)]
  /-- Faulted built cores, and forges whose spare is mapped (R459, R460). -/
  badCores : List Nat := []
  spared   : List Nat := []
  /-- Deck links by number, and the stops that have lost every link (R464). -/
  links    : Tbl Link := []
  lost     : List Nat := []
  /-- By source, destination and class: the place of the flit that its destination takes next (R22), and the flits
  that have arrived before their turn. -/
  turn     : Tbl Nat := []
  early    : List Flit := []
  /-- Bytes taken of each transaction that is not whole at its destination, and the transactions poisoned there (R24). -/
  inbox    : Tbl (List Byte) := []
  spoiled  : List Nat := []
  /-- Parity errors counted for each source stop within the pier, and stops to self-test (R465). -/
  parity   : Tbl Nat := []
  testing  : List Nat := []
  sram     : Tbl SramGroup := []
  /-- Piers of the engine faults of a unit, by class × 100 + unit (R468). -/
  engFault : Tbl (List Nat) := []
  /-- A Hallmark fault waits to be reported at power-up (R470). -/
  hmFault  : Bool := false
  /-- Reads and programs sent again, words reloaded and jobs of R467: what was repaired last. -/
  repaired : Nat := 0
  deriving DecidableEq, Repr

end Sys2Proof.Machine
end

