-- ==== Sys2Proof/Machine/State.lean ====
section
/-! DEFINITION. The whole state of the block, the reasons a step can stop, and the state after reset. -/

namespace Sys2Proof.Machine

/-- The state of the SX-640. -/
structure State where
  cpu     : Compute := {}
  host    : HostSide := {}
  time    : Time := {}
  meter   : Meter := {}
  dram    : Dram := {}
  dev     : Device := {}
  hm      : Hallmark := {}
  rel     : Rel := {}
  media   : Media := {}
  out     : Out := {}
  /-- The counter that free values are drawn at (log entry 1). -/
  free    : Nat := 0
  /-- Commands waiting, first in, first out. -/
  pending : List Instr := []
  deriving DecidableEq, Repr

/-- Faults of the block. The spec stops the block nowhere: a fault state and error statuses are state.
No meaning raises one. -/
inductive Fault where
  /-- No meaning raises it; it keeps the type inhabited. Safe. -/
  | none
  deriving DecidableEq, Repr

/-- Refusals. -/
inductive Refusal where
  /-- Raised by the dispatcher alone, for a command that has no meaning yet. Safe. -/
  | notModelled (mnemonic : String)
  deriving DecidableEq, Repr

/-- The state right after reset: every register at its reset value, no command waiting. -/
def State.reset : State := {}

end Sys2Proof.Machine
end

