-- ==== Sys2Proof/Machine/Ops.lean ====
section
/-! DEFINITION. The named operations over tables, byte memories and the parts of the state that many
commands share. -/

namespace Sys2Proof.Machine

/-! ## Tables -/

/-- The record at a number. -/
def Tbl.get? {α : Type} : Tbl α → Nat → Option α
  | [], _ => none
  | (k, v) :: t, n => if k = n then some v else Tbl.get? t n

/-- The record at a number, or the default. -/
def Tbl.getD {α : Type} (t : Tbl α) (n : Nat) (d : α) : α := (Tbl.get? t n).getD d

/-- Put a record at a number, the numbers kept rising. -/
def Tbl.set {α : Type} : Tbl α → Nat → α → Tbl α
  | [], n, x => [(n, x)]
  | (k, v) :: t, n, x =>
    if n < k then (n, x) :: (k, v) :: t
    else if k = n then (n, x) :: t
    else (k, v) :: Tbl.set t n x

/-- Remove the record at a number. -/
def Tbl.del {α : Type} : Tbl α → Nat → Tbl α
  | [], _ => []
  | (k, v) :: t, n => if k = n then t else (k, v) :: Tbl.del t n

/-- Change every record. -/
def Tbl.mapV {α : Type} (t : Tbl α) (f : Nat → α → α) : Tbl α := t.map fun (k, v) => (k, f k v)

/-! ## Sorted sets of numbers -/

/-- Insert a number into a rising list. -/
def insNat : Nat → List Nat → List Nat
  | n, [] => [n]
  | n, k :: t => if n < k then n :: k :: t else if n = k then k :: t else k :: insNat n t

/-- Remove a number from a list. -/
def delNat (n : Nat) (l : List Nat) : List Nat := l.filter (· ≠ n)

/-! ## Byte memories -/

/-- What an unlisted address reads as (R246, R254; log entry 5). -/
def Mem.unlisted : Byte := 0

/-- The byte at an address. -/
def Mem.get : Mem → Nat → Byte
  | [], _ => Mem.unlisted
  | (k, v) :: m, a => if k = a then v else Mem.get m a

/-- Remove an address from the list, so that it reads as unlisted. -/
def Mem.del : Mem → Nat → Mem
  | [], _ => []
  | (k, v) :: m, a => if a < k then (k, v) :: m else if k = a then m else (k, v) :: Mem.del m a

/-- List a byte at an address. -/
def Mem.put : Mem → Nat → Byte → Mem
  | [], a, b => [(a, b)]
  | (k, v) :: m, a, b =>
    if a < k then (a, b) :: (k, v) :: m
    else if k = a then (a, b) :: m
    else (k, v) :: Mem.put m a b

/-- Write one byte, keeping the canonical form. -/
def Mem.set (m : Mem) (a : Nat) (b : Byte) : Mem := if b = Mem.unlisted then Mem.del m a else Mem.put m a b

/-- The `n` bytes from an address. -/
def Mem.read (m : Mem) (a n : Nat) : List Byte := (List.range n).map fun i => Mem.get m (a + i)

/-- Write bytes from an address. -/
def Mem.write : Mem → Nat → List Byte → Mem
  | m, _, [] => m
  | m, a, b :: bs => Mem.write (Mem.set m a b) (a + 1) bs

/-- The listed bytes of a range, at their offsets in it. -/
def Mem.slice (m : Mem) (a n : Nat) : Mem :=
  (m.filter fun c => a ≤ c.1 ∧ c.1 < a + n).map fun c => (c.1 - a, c.2)

/-- Make a range read as unlisted. -/
def Mem.clear (m : Mem) (a n : Nat) : Mem := m.filter fun c => ¬(a ≤ c.1 ∧ c.1 < a + n)

/-- Replace a range by the content of a small memory. -/
def Mem.splice (m : Mem) (a n : Nat) (x : Mem) : Mem :=
  (x.filter fun c => c.1 < n).foldl (fun m c => Mem.set m (a + c.1) c.2) (Mem.clear m a n)

/-- The addresses of the list rise and no listed byte is the unlisted one. -/
def Mem.wfFrom : Nat → Mem → Bool
  | _, [] => true
  | lo, (k, v) :: m => lo ≤ k && v != Mem.unlisted && Mem.wfFrom (k + 1) m

/-- The canonical form of a byte memory. -/
def Mem.wf (m : Mem) : Bool := Mem.wfFrom 0 m

/-- Listed bytes as parts of data. -/
def Mem.parts : Mem → List (Nat × List Byte)
  | [] => []
  | (k, v) :: m => (k, [v]) :: Mem.parts m

end Sys2Proof.Machine

namespace Sys2Proof
open Machine

/-- A byte string as data to send. -/
def Data.ofBytes (bs : List Byte) : Data := { len := bs.length, parts := [(0, bs)] }

end Sys2Proof

namespace Sys2Proof.Machine

/-! ## Free values -/

/-- The state after one free value has been drawn. -/
def State.drawn (s : State) : State := { s with free := s.free + 1 }

/-- The free value the state would draw next, as a 64-bit word. -/
def State.freeWord (s : State) : W64 := BitVec.ofNat 64 (Config.freeNat s.free)

/-- `n` free bytes. -/
def State.freeBytes (s : State) (n : Nat) : List Byte :=
  (List.range n).map fun i => BitVec.ofNat 8 (Config.freeNat (s.free + i))

/-- The state after `n` free values have been drawn. -/
def State.drawnN (s : State) (n : Nat) : State := { s with free := s.free + n }

/-! ## Reading the parts of the state -/

/-- The number of built cores (R16, R25). -/
def builtCores : Nat := 144

/-- A core by number (forge × 9 + built position). -/
def State.core (s : State) (c : Nat) : Core := Tbl.getD s.cpu.cores c {}

/-- Replace a core. -/
def State.setCore (s : State) (c : Nat) (k : Core) : State :=
  { s with cpu := { s.cpu with cores := Tbl.set s.cpu.cores c k } }

/-- A forge by number. -/
def State.forge (s : State) (f : Nat) : Forge := Tbl.getD s.cpu.forges f {}

/-- Replace a forge. -/
def State.setForge (s : State) (f : Nat) (k : Forge) : State :=
  { s with cpu := { s.cpu with forges := Tbl.set s.cpu.forges f k } }

/-- A run by number. -/
def State.runAt (s : State) (r : Nat) : Option Run := Tbl.get? s.cpu.runs r

/-- Replace a run. -/
def State.setRun (s : State) (r : Nat) (k : Run) : State :=
  { s with cpu := { s.cpu with runs := Tbl.set s.cpu.runs r k } }

/-- The billet a run executes. -/
def State.billetOf (s : State) (r : Run) : Billet := Tbl.getD s.cpu.billets (r.slice * 16 + r.bid) {}

/-- A controller by its ID (R44). -/
def State.ctrl (s : State) (i : Nat) : Ctrl := Tbl.getD s.host.ctrls i {}

/-- Replace a controller. -/
def State.setCtrl (s : State) (i : Nat) (k : Ctrl) : State :=
  { s with host := { s.host with ctrls := Tbl.set s.host.ctrls i k } }

/-- A slice by number. -/
def State.slice (s : State) (i : Nat) : Slice := Tbl.getD s.host.slices i {}

/-- Replace a slice. -/
def State.setSlice (s : State) (i : Nat) (k : Slice) : State :=
  { s with host := { s.host with slices := Tbl.set s.host.slices i k } }

/-- Controller ID of a slice controller (R44). -/
def sliceCtrl (sl : Nat) : Nat := 256 + sl

/-- The slice of a controller ID. -/
def ctrlSlice (i : Nat) : Option Nat := if 256 ≤ i ∧ i < 1280 then some (i - 256) else none

/-! ## Metering -/

/-- Change the counters of a slice's current span (R131); a slice without a meter is not counted (R129). -/
def State.meterUp (s : State) (sl : Nat) (f : Counts → Counts) : State :=
  match Tbl.get? s.meter.slices sl with
  | none => s
  | some m => { s with meter := { s.meter with slices := Tbl.set s.meter.slices sl { m with cur := f m.cur } } }

/-! ## Local memory of a slice (R39, R396) -/

/-- The local memory of a slice. -/
def State.localMem (s : State) (sl : Nat) : Mem := Tbl.getD s.dram.locals sl []

/-- Write bytes to a slice's local memory: the pages touched are no longer blank (R396). -/
def State.localWrite (s : State) (sl off : Nat) (bs : List Byte) : State :=
  let pages := Tbl.getD s.dram.clear sl []
  let first := off / 4096
  let n := if bs.length = 0 then 0 else (off + bs.length - 1) / 4096 + 1 - first
  { s with dram := { s.dram with
      locals := Tbl.set s.dram.locals sl (Mem.write (s.localMem sl) off bs)
      clear := Tbl.set s.dram.clear sl ((List.range n).foldl (fun l i => insNat (first + i) l) pages) } }

/-- Write data given by its parts. -/
def State.localWriteData (s : State) (sl off : Nat) (d : Data) : State :=
  d.parts.foldl (fun s p => s.localWrite sl (off + p.1) p.2) s

/-! ## Host memory writes and the migration log (R124 to R127) -/

/-- The log of a slice: its index and record. -/
def findLog (t : Tbl MigLog) (sl : Nat) : Option (Nat × MigLog) := t.find? fun p => p.2.slice = sl

end Sys2Proof.Machine

namespace Sys2Proof
open Machine

/-- The part of data from an offset, of a length. -/
def Data.sub (d : Data) (off n : Nat) : Data :=
  { len := min n (d.len - off)
    parts := d.parts.filterMap fun p =>
      let b := (p.2.drop (off - p.1)).take (off + n - max off p.1)
      if p.1 + p.2.length ≤ off ∨ off + n ≤ p.1 then none else some (max p.1 off - off, b) }

end Sys2Proof

namespace Sys2Proof.Machine

/-- A PCIe port by number. -/
def State.port (s : State) (p : Nat) : Port := Tbl.getD s.dev.ports p {}

/-- The function issues requests: link up, Bus Master Enable, D0, out of reset (R516). -/
def State.portIssues (s : State) (p : Nat) : Bool :=
  let x := s.port p
  x.linkUp && x.bme && !x.d3hot && !x.inReset

/-- The manager port carries migration records (R127). -/
def State.mgrCarries (s : State) : Bool := s.portIssues s.dev.mgrPort

/-- The 16 bytes of a migration record (R124): the phase bit is 1 on the first pass and inverts on
each wrap. -/
def migBytes (l : MigLog) (r : MigRec) : List Byte :=
  leBytes 8 (r.page * 4096 + (if r.num / l.size % 2 = 0 then 1 else 0)) ++ leBytes 4 r.pier.toNat
    ++ leBytes 4 r.num

/-! ## Requests on the ports (R18, R89, R499, R501, R505, R506, R513) -/

/-- Number of ports that the split strap creates (R499). -/
def splitPorts (v : BitVec 2) : Nat := if v = 1 then 2 else if v = 2 then 4 else 1

/-- The PCI Express stop that a request leaves through (R18, R499, R501): the stop of the port's lanes; a x16 port at full
width divides its traffic by bit 12 of the address, and at less uses the stop of the lanes in use. -/
def State.reqStop (s : State) (p a : Nat) : Nat :=
  let n := splitPorts s.dev.split
  let x := s.port p
  if n = 4 then p / 2
  else if n = 2 then p
  else if x.width = 16 then a / 4096 % 2
  else if x.reversed then 1 else 0

/-- A range cut into requests of at most `most` bytes that cross no 4 KiB boundary. -/
def reqCuts (most : Nat) : Nat → Nat → Nat → List (Nat × Nat)
  | 0, _, _ => []
  | _, _, 0 => []
  | fuel + 1, a, n =>
    let k := min n (min (max 1 most) (4096 - a % 4096))
    (a, k) :: reqCuts most fuel (a + k) (n - k)

/-- Non-posted requests that a port keeps outstanding (R505): 14-bit tags in FLIT mode, else 10-bit or 8-bit ones. -/
def Port.npLimit (x : Port) : Nat := if x.flit then 4096 else if x.tags10 then 768 else 256

/-- A request leaves; a read takes a tag, or waits for one behind those that wait already. -/
def State.sendReq (s : State) (r : HostReq) : State :=
  let o := s.out
  let n := Tbl.getD o.np r.port 0
  if !r.read then { s with out := { o with reqs := r :: o.reqs } }
  else if o.held.any (fun h => h.port = r.port) || (s.port r.port).npLimit ≤ n then
    { s with out := { o with held := o.held ++ [r] } }
  else { s with out := { o with reqs := r :: o.reqs, np := Tbl.set o.np r.port (n + 1) } }

/-- A range of host memory is read or written on a port, with the PASID of a slice: it is split to the sizes in force.
Relaxed Ordering is set, when it is enabled, on `data` alone. -/
def State.request (s : State) (read : Bool) (port : Nat) (slice : Option Nat) (a n : Nat) (data : Bool) : State :=
  let x := s.port port
  let most := if read then x.mrrs else x.mps
  (reqCuts most (n / max 1 most + n / 4096 + 2) a n).foldl (fun s p => s.sendReq
    { read := read, port := port, stop := s.reqStop port p.1, pasid := slice.map fun sl => (s.slice sl).pasid
      addr := p.1, len := p.2, relaxed := !read && data && x.relaxed, ido := x.ido }) s

/-- A read has its completion: its tag is free, and the oldest read of the port that waits takes it. -/
def State.reqDone (s : State) (port : Nat) : State :=
  let o := s.out
  let n := Tbl.getD o.np port 0
  match o.held.find? fun h => h.port = port with
  | some r =>
    if (s.port port).npLimit < n then { s with out := { o with np := Tbl.set o.np port (n - 1) } }
    else { s with out := { o with reqs := r :: o.reqs, held := o.held.erase r } }
  | none => { s with out := { o with np := Tbl.set o.np port (n - 1) } }

/-- A posted write leaves: it is recorded whole, and as its requests. -/
def State.writeOut (s : State) (port : Nat) (slice : Option Nat) (iova : W64) (d : Data) (data : Bool) : State :=
  let s := s.request false port slice iova.toNat d.len data
  { s with out := { s.out with
      dma := ⟨slice, slice.map fun sl => (s.slice sl).pasid, port, iova, d⟩ :: s.out.dma } }

/-- A posted write on the manager port without a PASID. -/
def State.mgrWrite (s : State) (iova : W64) (bs : List Byte) : State :=
  s.writeOut s.dev.mgrPort none iova (Data.ofBytes bs) false

/-- Send one record to its index in the log. -/
def State.sendRec (s : State) (l : MigLog) (r : MigRec) : State :=
  s.mgrWrite (l.base + BitVec.ofNat 64 (16 * (r.num % l.size))) (migBytes l r)

/-- A posted write to a slice's PASID, as it leaves. -/
def State.emitDma (s : State) (sl iova : Nat) (d : Data) : State :=
  s.writeOut (s.slice sl).port (some sl) (BitVec.ofNat 64 iova) d true

/-- A slice reads host memory under its PASID (R89); nothing leaves for a PASID that is fenced (R119 step 2), or on a
function that issues no requests (R516). -/
def State.hostRead (s : State) (sl a n : Nat) : State :=
  if (s.slice sl).fenced || !s.portIssues (s.slice sl).port then s else s.request true (s.slice sl).port (some sl) a n true

/-- A new record leaves at once: the manager port carries records and none waits ahead of it. -/
def MigLog.direct (l : MigLog) (carries : Bool) : Bool := carries && l.sent = l.produced

/-- What a log says of a write to a page: none when the write waits (R126, R127), else the log after
it and the record the write makes, if any (R125). -/
def MigLog.note (l : MigLog) (carries : Bool) (page : Nat) (pier : W32) : Option (MigLog × Option MigRec) :=
  let carries := l.direct carries
  if l.filter.any (fun f => f.1 = page ∧ l.consumed ≤ f.2) then
    if l.size ≤ l.produced - l.consumed ∨ (!carries ∧ 64 ≤ l.produced - l.sent) then none else some (l, none)
  else if l.size ≤ l.produced - l.consumed then none
  else if !carries ∧ 64 ≤ l.produced - l.sent then none
  else
    let r : MigRec := ⟨l.produced, page, pier⟩
    some ({ l with
      produced := l.produced + 1
      sent := if carries then l.produced + 1 else l.sent
      filter := ((page, l.produced) :: l.filter).take 64
      recent := (r :: l.recent).take 64 }, some r)

/-- One DMA write within one page, past the migration log: none when it waits. -/
def State.logPage (s : State) (sl page : Nat) : Option State :=
  match findLog s.host.mig sl with
  | none => some s
  | some (i, l) =>
    match l.note s.mgrCarries page (s.time.pier.truncate 32) with
    | none => none
    | some (l', none) => some { s with host := { s.host with mig := Tbl.set s.host.mig i l' } }
    | some (l', some r) =>
      let s := { s with host := { s.host with mig := Tbl.set s.host.mig i l' } }
      some (if l.direct s.mgrCarries then s.sendRec l' r else s)

/-- The slice has DMA writes that wait. -/
def State.waiting (s : State) (sl : Nat) : Bool :=
  s.host.paused.any fun
    | .data x _ _ _ => x = sl
    | .cqe x _ => x = sl
    | .port _ _ _ => false

/-- One DMA write within one page: it leaves, or it waits behind a full log or for its function (R126, R516). -/
def State.dmaPage (s : State) (sl iova : Nat) (d : Data) : State :=
  if s.waiting sl || !s.portIssues (s.slice sl).port then { s with host := { s.host with paused := s.host.paused ++ [.data sl iova none d] } }
  else match s.logPage sl (iova / 4096) with
    | some s' => s'.emitDma sl iova d
    | none => { s with host := { s.host with paused := s.host.paused ++ [.data sl iova none d] } }

/-- The addresses and lengths into which a range splits at 4 KiB pages. -/
def pagePieces : Nat → Nat → Nat → List (Nat × Nat)
  | 0, _, _ => []
  | _, _, 0 => []
  | fuel + 1, a, n =>
    let k := min n (4096 - a % 4096)
    (a, k) :: pagePieces fuel (a + k) (n - k)

/-- A DMA write to a slice's PASID (R89, R125): recorded by its migration log if it has one. Nothing
leaves for a PASID that is fenced (R119 step 2). -/
def State.hostWrite (s : State) (sl iova : Nat) (d : Data) : State :=
  if (s.slice sl).fenced then s
  else if (findLog s.host.mig sl).isNone && !s.waiting sl && s.portIssues (s.slice sl).port then s.emitDma sl iova d
  else (pagePieces (d.len / 4096 + 2) iova d.len).foldl
    (fun s p => s.dmaPage sl p.1 (Data.sub d (p.1 - iova) p.2)) s

/-! ## Self-refresh of the DRAM (R81, R82, R401, R406) -/

/-- Every row is closed by an all-bank refresh, and no refresh is owed. -/
def SubChan.refreshed (x : SubChan) : SubChan := { x with open_ := [], postponed := [] }

/-- A subchannel has no request and no management command waiting. -/
def SubChan.still (x : SubChan) : Bool := x.reads.isEmpty && x.writes.isEmpty && x.rfm.isEmpty

/-- The DRAM enters self-refresh, once nothing waits at its controllers. -/
def State.dramSleep (s : State) : State :=
  if s.dram.selfRef || !s.dram.subs.all (·.2.still) then s
  else { s with dram := { s.dram with selfRef := true, subs := Tbl.mapV s.dram.subs fun _ x => x.refreshed } }

/-- The DRAM leaves self-refresh. -/
def State.dramWake (s : State) : State :=
  if s.dram.selfRef then
    { s with dram := { s.dram with selfRef := false, subs := Tbl.mapV s.dram.subs fun _ x => x.refreshed } }
  else s

/-! ## The fault log (R471, R472) -/

/-- Make an entry of the fault and repair log; data that cannot be returned counts as a media error of SMART
(R79). -/
def State.logFault (s : State) (event sev : Nat) (unit : List Nat) (slice : Option Nat)
    (addr detail : List Nat) : State :=
  let n := s.rel.seq + 1
  let e : LogEntry := ⟨n, s.time.pier, s.time.span, event, sev, unit, slice, addr, detail⟩
  let lost : Nat := if event = 4 ∨ event = 5 ∨ event = 6 then 1 else 0
  { s with
    rel := { s.rel with seq := n, log := (e :: s.rel.log).take 1024 }
    dev := { s.dev with smart := { s.dev.smart with mediaErr := s.dev.smart.mediaErr + lost } } }

end Sys2Proof.Machine
end

