-- ==== Sys2Proof/Machine/Operands.lean ====
section
/-! DEFINITION. What an Iaber core reaches: its registers and bit variables, the D space through the
operand cache, the I space, and the operand modes of long and short instructions (chapters 09 and 11). -/

namespace Sys2Proof.Machine

/-! ## Exceptions in the making -/

/-- A synchronous exception as raised (R331): number, trap code, exception address, slot of a pair, and
the state that stands although it is raised (R343), if any. -/
structure Exc where
  num    : Nat
  code   : Nat := 0
  addr   : W64 := 0
  slot   : Bool := false
  /-- A Data Fault of an I-space access, which is not deliverable (R245). -/
  ispace : Bool := false
  stands : Option State := none
  deriving DecidableEq, Repr

/-- A computation of an instruction: it changes the state, or raises an exception and changes nothing. -/
abbrev CM (α : Type) := StateT State (Except Exc) α

/-- Raise an exception. -/
def raise {α : Type} (e : Exc) : CM α := fun _ => .error e

/-- Exception numbers (R330). -/
def excIllegal : Nat := 1
def excHazard : Nat := 2
def excData : Nat := 3
def excPrivilege : Nat := 4
def excBitSpace : Nat := 5
def excIo : Nat := 6
def excSpan : Nat := 7
def excEngine : Nat := 8
def excBus : Nat := 9
def excDivide : Nat := 10
def excWatchdog : Nat := 11
def excTrap : Nat := 12
def excBreakpoint : Nat := 13

/-- The exit address (R275) and the resume address (R340). -/
def exitAddr : W64 := 0xFFFFFFFFFFFFFFF8
def resumeAddr : W64 := 0xFFFFFFFFFFFFFFF0

/-! ## Registers and bit variables -/

/-- Change a core. -/
def State.modCore (s : State) (c : Nat) (f : Core → Core) : State := s.setCore c (f (s.core c))

/-- Change the program's context on a core. -/
def State.modCtx (s : State) (c : Nat) (f : Ctx → Ctx) : State :=
  s.modCore c fun k => { k with ctx := f k.ctx }

/-- A register A0 to A7. -/
def Regs.geta (g : Regs) (r : BitVec 3) : W64 := g.a[r.toNat]'(show r.toNat < 8 from r.isLt)

/-- Write A0 to A7. -/
def Regs.seta (g : Regs) (r : BitVec 3) (v : W64) : Regs :=
  { g with a := g.a.set r.toNat v (show r.toNat < 8 from r.isLt) }

/-- Read A0 to A7 of a core. -/
def State.rega (s : State) (c : Nat) (r : BitVec 3) : W64 := (s.core c).ctx.regs.geta r

/-- Write A0 to A7 of a core. -/
def State.setRega (s : State) (c : Nat) (r : BitVec 3) (v : W64) : State :=
  s.modCtx c fun x => { x with regs := x.regs.seta r v }

/-- BX as a word (R298). -/
def Regs.bx (g : Regs) : W64 := g.acc ++ (0 : BitVec 30) ++ g.stop

/-- Load BX as MTS does: bits 31:2 are ignored (R320). -/
def Regs.setBx (g : Regs) (v : W64) : Regs := { g with acc := v.extractLsb' 32 32, stop := v.extractLsb' 0 2 }

/-- ST as a word (R281). -/
def Core.st (k : Core) : W64 :=
  (0 : BitVec 61) ++ BitVec.ofBool k.ctx.regs.dir ++ BitVec.ofBool k.ctx.regs.rp ++ BitVec.ofBool k.sup

/-- A bit variable (R277). -/
def Ctx.bit (x : Ctx) (b : Nat) : Bool :=
  if b = 0 then x.z else if b = 1 then x.n else if b = 2 then x.c else if b = 3 then x.v
  else if b = 4 then x.sxp else if b = 5 then x.ecp
  else if 64 ≤ b ∧ b < 128 then x.edone.getLsbD (b - 64)
  else if b < 256 then false
  else x.bits.contains b

/-- Set a bit variable, whoever sets it (R277). -/
def Ctx.setBit (x : Ctx) (b : Nat) (v : Bool) : Ctx :=
  if b = 0 then { x with z := v } else if b = 1 then { x with n := v }
  else if b = 2 then { x with c := v } else if b = 3 then { x with v := v }
  else if b = 4 then { x with sxp := v } else if b = 5 then { x with ecp := v }
  else if 64 ≤ b ∧ b < 128 then
    { x with edone := if v then x.edone ||| (1#64 <<< (b - 64)) else x.edone &&& ~~~(1#64 <<< (b - 64)) }
  else if b < 256 then x
  else { x with bits := if v then insNat b x.bits else delNat b x.bits }

/-- A write of a bit variable by an instruction is refused (R278). -/
def bitFaults (b : Nat) (v : Bool) : Bool := 4 ≤ b && b < 256 && (v || !(64 ≤ b && b < 128))

/-- Write a bit variable by an instruction: Bit-Space Fault where R278 says so. -/
def writeBit (c b : Nat) (v : Bool) : CM Unit := fun s =>
  if bitFaults b v then .error { num := excBitSpace, addr := BitVec.ofNat 64 b }
  else .ok ((), s.modCtx c fun x => x.setBit b v)

/-! ## The D space (R273, R245) -/

/-- Where a D address lies. -/
inductive Place where
  | bench (off : Nat)
  | cluster (off : Nat)
  | loc (slice off : Nat)
  | host (slice iova : Nat)
  deriving DecidableEq, Repr

/-- The run on a core. -/
def State.runOn (s : State) (c : Nat) : Option Run := (s.core c).run.bind s.runAt

/-- Cluster SRAM offset of a core's window (log entry 7): 192 KiB for each built position. -/
def clusterBase (c : Nat) : Nat := (c % 9) * 0x30000

/-- The place a D address names on a core: the ranges of R273, within the limits of R245 when the core
has a run; nothing elsewhere. -/
def State.place (s : State) (c a : Nat) : Option Place :=
  match s.runOn c with
  | none =>
    if a < 0x40000 then some (.bench a)
    else if 0x100000000 ≤ a ∧ a < 0x100200000 then some (.cluster (a - 0x100000000))
    else none
  | some r =>
    let b := s.billetOf r
    if a < b.benchSz then some (.bench a)
    else if 0x100000000 ≤ a ∧ a < 0x100000000 + b.clusterSz then
      some (.cluster (clusterBase c + (a - 0x100000000)))
    else if 0x10000000000 ≤ a ∧ a < 0x10000000000 + 0x100000 * (s.slice r.slice).lmLimit then
      some (.loc r.slice (a - 0x10000000000))
    else if 0x8000000000000000 ≤ a ∧ a < 0x10000000000000000 ∧ b.fmt ≠ 1 then
      some (.host r.slice (a - 0x8000000000000000))
    else none

/-- Two places lie in one range. -/
def Place.same : Place → Place → Bool
  | .bench _, .bench _ => true
  | .cluster _, .cluster _ => true
  | .loc _ _, .loc _ _ => true
  | .host _ _, .host _ _ => true
  | _, _ => false

/-- A host page is refused by ATS for a slice (R245, R514). -/
def State.atsRefuses (s : State) (sl iova : Nat) : Bool :=
  s.dev.ats.any fun t => t.port = (s.slice sl).port ∧ t.pasid = (s.slice sl).pasid ∧ t.page = iova / 4096 ∧ !t.ok

/-- The checks of an access of `n` bytes: alignment, range, translation (R274, R245). -/
def checkAccess (s : State) (c : Nat) (align : Bool) (a n : Nat) : Except Exc Place :=
  let bad : Except Exc Place := .error { num := excData, addr := BitVec.ofNat 64 a }
  if align ∧ a % n ≠ 0 then bad
  else match s.place c a, s.place c (a + n - 1) with
    | some p, some q =>
      if !p.same q then bad
      else match p with
        | .host sl i => if s.atsRefuses sl i ∨ s.atsRefuses sl (i + n - 1) then bad else .ok p
        | _ => .ok p
    | _, _ => bad

/-- An access meets a marked word (R24, R409, R517): Bus Error. -/
def checkBus (s : State) (c a n : Nat) : Except Exc Unit :=
  if (s.core c).busErr.any (fun w => w * 8 < a + n ∧ a < w * 8 + 8) then
    .error { num := excBus, addr := BitVec.ofNat 64 a }
  else .ok ()

/-- Read bytes at a place, past the cache: host memory gives free values (log entry 4). -/
def State.rawRead (s : State) (c : Nat) (p : Place) (n : Nat) : List Byte × State :=
  match p with
  | .bench o => (Mem.read (s.core c).ctx.bench o n, s)
  | .cluster o => (Mem.read (s.forge (c / 9)).cluster o n, s)
  | .loc sl o => (Mem.read (s.localMem sl) o n, s)
  | .host sl i => (s.freeBytes n, ((s.drawnN n).hostRead sl i n).meterUp sl fun m => { m with hostIn := m.hostIn + n })

/-- Write bytes at a place, past the cache. -/
def State.rawWrite (s : State) (c : Nat) (p : Place) (bs : List Byte) : State :=
  match p with
  | .bench o => s.modCtx c fun x => { x with bench := Mem.write x.bench o bs }
  | .cluster o => s.setForge (c / 9) { s.forge (c / 9) with cluster := Mem.write (s.forge (c / 9)).cluster o bs }
  | .loc sl o => s.localWrite sl o bs
  | .host sl i => (s.hostWrite sl i (Data.ofBytes bs)).meterUp sl fun m => { m with hostOut := m.hostOut + bs.length }

/-! ## The operand cache (R344 to R352) -/

/-- The policy of an address (R346): 1 write-back, 2 write-through, 3 no-allocate, 4 uncached. -/
def OpCache.policy (o : OpCache) (a : Nat) : Nat :=
  if !o.en then 4
  else match o.rat.toList.find? (fun e => e.pol ≠ 0 ∧ e.base.toNat ≤ a / 4096 ∧ a / 4096 ≤ e.limit.toNat) with
    | some e => e.pol.toNat
    | none => 4

/-- The valid entry that holds an address. -/
def OpCache.find (o : OpCache) (a : Nat) : Option (Nat × CacheLine) :=
  o.lines.find? fun e => e.2.addr = a / 128 * 128

/-- Change the cache of a core. -/
def State.modOc (s : State) (c : Nat) (f : OpCache → OpCache) : State :=
  s.modCore c fun k => { k with oc := f k.oc }

/-- The dirty words of a line, written back one by one (R349). -/
def State.writeWords (s : State) (c : Nat) (l : CacheLine) : List Nat → State
  | [] => s
  | k :: ks =>
    let s' := if l.dirty.getLsbD k then
        match s.place c (l.addr + 8 * k) with
        | some p => s.rawWrite c p ((l.bytes.drop (8 * k)).take 8)
        | none => s
      else s
    s'.writeWords c l ks

/-- Write a line back and leave it clean (R349); an uncorrectable dirty word is lost, sets WBERR and is logged (R352,
R472). -/
def State.writeBack (s : State) (c i : Nat) : State :=
  match Tbl.get? (s.core c).oc.lines i with
  | none => s
  | some l =>
    let lost := (s.core c).oc.lost.contains i && l.dirty ≠ 0
    let s := if lost then s.logFault 0x14 4 [c / 9, c % 9] none [l.addr] [0] else s.writeWords c l (List.range 16)
    s.modOc c fun o => { o with
      lines := Tbl.set o.lines i { l with dirty := 0 }
      lost := delNat i o.lost
      wberr := o.wberr || lost }

/-- Invalidate an entry. -/
def State.invalidate (s : State) (c i : Nat) : State :=
  s.modOc c fun o => { o with lines := Tbl.del o.lines i, lost := delNat i o.lost }

/-- The entries of a mask, lowest first. -/
def maskEntries (m : BitVec 48) : List Nat := (List.range 48).filter fun k => m.getLsbD k

/-- The entry a fill goes into (R348): the lowest invalid one; else, of those with R at 0, the highest
age, lowest number first; else the lowest. -/
def OpCache.victim (o : OpCache) (m : BitVec 48) : Option Nat :=
  let es := maskEntries m
  match es.find? (fun k => (Tbl.get? o.lines k).isNone) with
  | some k => some k
  | none =>
    let age (a : Nat) : Option Nat := es.find? fun k =>
      match Tbl.get? o.lines k with
      | some l => !l.r && l.age.toNat = a
      | none => false
    (age 3).orElse fun _ => (age 2).orElse fun _ => (age 1).orElse fun _ => (age 0).orElse fun _ => es.head?

/-- The mask a fill uses (R345). -/
def Core.fillMask (k : Core) (stream : Bool) : BitVec 48 :=
  if stream then k.oc.strm else if k.sup then k.oc.supv else k.oc.user

/-- Fill the line of an address, if the requester's mask has an entry and no drain is in progress
(R345, R348, R351). -/
def State.fill (s : State) (c : Nat) (stream : Bool) (a : Nat) : State :=
  let k := s.core c
  if k.oc.drain then s
  else match k.oc.victim (k.fillMask stream), s.place c (a / 128 * 128) with
    | some i, some p =>
      let s := s.writeBack c i
      let (bs, s) := s.rawRead c p 128
      s.modOc c fun o => { o with
        lines := Tbl.set o.lines i
          { addr := a / 128 * 128, bytes := bs, r := !stream, age := if stream then 3 else 0 }
        lost := delNat i o.lost }
    | _, _ => s

/-- Count a cache access (R348). -/
def State.countAccess (s : State) (c : Nat) : State :=
  s.modOc c fun o => { o with accesses := o.accesses + 1 }

/-- A hit sets R (R348). -/
def State.touch (s : State) (c i : Nat) (l : CacheLine) : State :=
  s.modOc c fun o => { o with lines := Tbl.set o.lines i { l with r := true } }

/-- Drop a clean line with an uncorrectable error, so that the access refetches it; Bus Error when a
dirty line has one (R352). -/
def cacheScrub (s : State) (c a : Nat) : Except Exc State :=
  match (s.core c).oc.find a with
  | some (i, l) =>
    if (s.core c).oc.lost.contains i then
      if l.dirty = 0 then .ok (s.invalidate c i) else .error { num := excBus, addr := BitVec.ofNat 64 a }
    else .ok s
  | none => .ok s

/-- Read within one line (R346). -/
def cacheRead (s : State) (c : Nat) (stream : Bool) (p : Place) (a n : Nat) : Except Exc (List Byte × State) :=
  let pol := (s.core c).oc.policy a
  if pol = 4 then .ok (s.rawRead c p n)
  else do
    let s ← cacheScrub s c a
    let s := s.countAccess c
    match (s.core c).oc.find a with
    | some (i, l) => pure ((l.bytes.drop (a % 128)).take n, s.touch c i l)
    | none =>
      let s := if pol = 3 then s else s.fill c stream a
      match (s.core c).oc.find a with
      | some (_, l) => pure ((l.bytes.drop (a % 128)).take n, s)
      | none => pure (s.rawRead c p n)

/-- The dirty bits of the words that a write of `n` bytes at line offset `o` touches. -/
def dirtyWords (o n : Nat) : BitVec 16 :=
  (List.range 16).foldl (fun d k => if k * 8 < o + n ∧ o < k * 8 + 8 then d ||| (1#16 <<< k) else d) 0

/-- Put bytes into a cached line, and mark their words dirty when asked. -/
def CacheLine.put (l : CacheLine) (o : Nat) (bs : List Byte) (mark : Bool) : CacheLine :=
  { l with
    bytes := l.bytes.take o ++ bs ++ l.bytes.drop (o + bs.length)
    dirty := if mark then l.dirty ||| dirtyWords o bs.length else l.dirty
    r := true }

/-- Write within one line (R346). -/
def cacheWrite (s : State) (c : Nat) (stream : Bool) (p : Place) (a : Nat) (bs : List Byte) : Except Exc State :=
  let pol := (s.core c).oc.policy a
  if pol = 4 then .ok (s.rawWrite c p bs)
  else do
    let s ← cacheScrub s c a
    let s := s.countAccess c
    let s := if pol = 1 ∧ ((s.core c).oc.find a).isNone then s.fill c stream a else s
    match (s.core c).oc.find a with
    | some (i, l) =>
      let s := s.modOc c fun o => { o with lines := Tbl.set o.lines i (l.put (a % 128) bs (pol ≠ 2)) }
      pure (if pol = 2 then s.rawWrite c p bs else s)
    | none => pure (s.rawWrite c p bs)

/-- The pieces of a range that lie in one 128-byte line each. -/
def linePieces : Nat → Nat → Nat → List (Nat × Nat)
  | 0, _, _ => []
  | _, _, 0 => []
  | fuel + 1, a, n =>
    let k := min n (128 - a % 128)
    (a, k) :: linePieces fuel (a + k) (n - k)

/-- Read the pieces of an access. -/
def readPieces (c : Nat) (stream : Bool) : List (Nat × Nat) → State → Except Exc (List Byte × State)
  | [], s => .ok ([], s)
  | (a, n) :: ps, s =>
    match s.place c a with
    | none => .error { num := excData, addr := BitVec.ofNat 64 a }
    | some p => do
      let (b, s) ← cacheRead s c stream p a n
      let (bs, s) ← readPieces c stream ps s
      pure (b ++ bs, s)

/-- Write the pieces of an access. -/
def writePieces (c : Nat) (stream : Bool) : List (Nat × Nat) → List Byte → State → Except Exc State
  | [], _, s => .ok s
  | (a, n) :: ps, bs, s =>
    match s.place c a with
    | none => .error { num := excData, addr := BitVec.ofNat 64 a }
    | some p => do
      let s ← cacheWrite s c stream p a (bs.take n)
      writePieces c stream ps (bs.drop n) s

/-- Read `n` bytes at a D address, checked. -/
def memRead (c : Nat) (stream align : Bool) (a : W64) (n : Nat) : CM (List Byte) := fun s => do
  let p ← checkAccess s c align a.toNat n
  checkBus s c a.toNat n
  match p with
  | .bench o => pure (Mem.read (s.core c).ctx.bench o n, s)
  | _ => readPieces c stream (linePieces 3 a.toNat n) s

/-- The written bits that a store sets (R252). -/
def State.markWritten (s : State) (c : Nat) (p : Place) (n : Nat) : State :=
  match p with
  | .bench o => s.modCore c fun k => { k with wBench := insNat ((o + n - 1) / 4096) (insNat (o / 4096) k.wBench) }
  | .cluster o =>
    let o := o - clusterBase c
    s.modCore c fun k => { k with wCluster := insNat ((o + n - 1) / 4096) (insNat (o / 4096) k.wCluster) }
  | _ => s

/-- Write bytes at a D address, checked. -/
def memWrite (c : Nat) (stream align : Bool) (a : W64) (bs : List Byte) : CM Unit := fun s => do
  let p ← checkAccess s c align a.toNat bs.length
  checkBus s c a.toNat bs.length
  let s := s.markWritten c p bs.length
  match p with
  | .bench o => pure ((), s.rawWrite c (.bench o) bs)
  | _ => do
    let s ← writePieces c stream (linePieces 3 a.toNat bs.length) bs s
    pure ((), s)

/-! ## The I space (R275, R359) -/

/-- The store offset of an I address, none outside the code. -/
def State.iOffset (s : State) (c : Nat) (a : Nat) : Option Nat :=
  let k := s.core c
  if k.sup then (if a < 0x100000 then some a else none)
  else if a < k.ctl.ilim.toNat * 8 then some ((k.ctl.ibase.toNat * 8 + a) % 0x100000) else none

/-- Read bytes of the I space as an operand (R274). -/
def iRead (c : Nat) (a : W64) (n : Nat) : CM (List Byte) := fun s =>
  match s.iOffset c a.toNat, s.iOffset c (a.toNat + n - 1) with
  | some o, some _ => .ok (Mem.read (s.forge (c / 9)).istore o n, s)
  | _, _ => .error { num := excData, addr := a, ispace := true }

/-- The check of a fetch (R275): a multiple of 8 inside the code. -/
def fetchFault (s : State) (c : Nat) (a : W64) : Option Exc :=
  if a.toNat % 8 ≠ 0 ∨ (s.iOffset c a.toNat).isNone then
    some { num := excData, addr := a, ispace := true }
  else none

/-! ## Long operands (R285 to R289, R302) -/

/-- How an instruction uses a specifier (R302). -/
inductive Use where
  | none                -- "—"
  | w                   -- written at the operand size
  | m                   -- read at step 1, then written
  | md                  -- as m, 8 bytes (R327)
  | r                   -- read at the operand size
  | rB | rH | rW | rD   -- read at 1, 2, 4, 8 bytes
  | a                   -- address only
  | t                   -- control target
  | n                   -- selector
  | reg                 -- read, mode 2h only (R325)
  | bounds              -- bounds pair (R326)
  deriving DecidableEq, Repr

/-- The modes a use allows (R285, R287, R302, R325, R326). -/
def Use.allows (u : Use) (mode : Nat) : Bool :=
  match u with
  | .none => mode = 0
  | .w | .m | .md => 1 ≤ mode && mode ≤ 10
  | .r | .rB | .rH | .rW | .rD => mode ≤ 12
  | .a => mode = 1 || (3 ≤ mode && mode ≤ 10)
  | .t => 1 ≤ mode && mode ≤ 11
  | .n => mode = 0
  | .reg => mode = 2
  | .bounds => mode = 1 || mode = 3 || mode = 4 || (7 ≤ mode && mode ≤ 11)

/-- The register field must be 0 in these modes (R285). -/
def mode0r (mode : Nat) : Bool := mode = 0 || mode = 1 || mode = 9 || mode = 11 || mode = 12

/-- The field f must be 0 in these modes (R285). -/
def mode0f (mode : Nat) : Bool :=
  mode = 2 || mode = 3 || mode = 5 || mode = 6 || mode = 8 || mode = 9 || mode = 12

end Sys2Proof.Machine

namespace Sys2Proof
open Machine

/-- A specifier is legal for its use (R285, R286, R302). -/
def Specifier.legal (p : Specifier) (u : Use) : Bool :=
  let md := p.mode.toNat
  match u with
  | .none => p.mode = 0 && p.r = 0 && p.f = 0
  | _ => u.allows md && !(mode0r md && p.r ≠ 0) && !(mode0f md && p.f ≠ 0)

/-- A mode that takes an extension word (R288). -/
def Specifier.hasExt (p : Specifier) : Bool := p.mode = 8 || p.mode = 9 || p.mode = 12

end Sys2Proof

namespace Sys2Proof.Machine

/-- Operand bytes of a use, with the size field's bytes `z`. -/
def Use.bytes (u : Use) (z : Nat) : Nat :=
  match u with
  | .rB => 1
  | .rH => 2
  | .rW => 4
  | .rD | .t | .md | .reg => 8
  | _ => z

/-- An operand once located. -/
inductive Loc where
  | imm (v : W64)
  | reg (r : BitVec 3)
  | mem (a : W64)
  | code (a : W64)
  deriving DecidableEq, Repr

/-- Locate an operand of `z` bytes: the address is computed, a pointer read, a register stepped (R285,
R289). -/
def locate (c : Nat) (stream : Bool) (p : Specifier) (z : Nat) : CM Loc := fun s =>
  let ar := s.rega c p.r
  let sf := p.f.signExtend 64
  match p.mode.toNat with
  | 0 => .ok (.imm sf, s)
  | 1 => .ok (.mem (p.f.zeroExtend 64 * 8), s)
  | 2 => .ok (.reg p.r, s)
  | 3 => .ok (.mem ar, s)
  | 4 => .ok (.mem (ar + sf * BitVec.ofNat 64 z), s)
  | 5 => .ok (.mem ar, s.setRega c p.r (ar + BitVec.ofNat 64 z))
  | 6 => .ok (.mem (ar - BitVec.ofNat 64 z), s.setRega c p.r (ar - BitVec.ofNat 64 z))
  | 7 =>
    let x := s.rega c (p.f.extractLsb' 7 3)
    let d := (p.f.extractLsb' 0 5).signExtend 64
    .ok (.mem (ar + (x <<< (p.f.extractLsb' 5 2).toNat) + d * BitVec.ofNat 64 z), s)
  | 8 => .ok (.mem (ar + p.ext), s)
  | 9 => .ok (.mem p.ext, s)
  | 10 => do
    let (q, s) ← memRead c stream true (ar + sf * 8) 8 s
    pure (.mem (BitVec.ofNat 64 (leNat q)), s)
  | 11 => .ok (.code ((s.core c).ctx.pc + sf * 8), s)
  | 12 => .ok (.imm p.ext, s)
  | _ => .error { num := excIllegal }

/-- Read a located operand of `z` bytes as a number below 2^(8z) (R280, R285). -/
def readLoc (c : Nat) (stream align : Bool) (l : Loc) (z : Nat) : CM Nat :=
  match l with
  | .imm v => pure (v.toNat % 2 ^ (8 * z))
  | .reg r => fun s => .ok ((s.rega c r).toNat % 2 ^ (8 * z), s)
  | .mem a => do
    let b ← memRead c stream align a z
    pure (leNat b)
  | .code a => do
    let b ← iRead c a z
    pure (leNat b)

/-- Write a located destination of `z` bytes (R280). -/
def writeLoc (c : Nat) (align : Bool) (l : Loc) (z v : Nat) : CM Unit :=
  match l with
  | .reg r => fun s => .ok ((), s.setRega c r (BitVec.ofNat 64 (v % 2 ^ (8 * z))))
  | .mem a => memWrite c false align a (leBytes z v)
  | _ => raise { num := excIllegal }

/-- The exceptions of a destination address (R304 step 5). -/
def checkDest (c : Nat) (align : Bool) (l : Loc) (z : Nat) : CM Unit :=
  match l with
  | .mem a => fun s => do
    let _ ← checkAccess s c align a.toNat z
    pure ((), s)
  | _ => pure ()

/-- Read a source operand by its use. -/
def readSrc (c : Nat) (stream align : Bool) (p : Specifier) (u : Use) (z : Nat) : CM Nat := do
  let n := u.bytes z
  let l ← locate c stream p n
  readLoc c stream align l n

/-- The target of a control transfer (R287). -/
def readTarget (c : Nat) (p : Specifier) : CM W64 := fun s =>
  match p.mode.toNat with
  | 2 => .ok (s.rega c p.r, s)
  | 8 => .ok (s.rega c p.r + p.ext, s)
  | 9 => .ok (p.ext, s)
  | 11 => .ok ((s.core c).ctx.pc + p.f.signExtend 64 * 8, s)
  | _ => (do
      let l ← locate c false p 8
      let v ← readLoc c false true l 8
      pure (BitVec.ofNat 64 v)) s

/-! ## Short operands (R292) -/

/-- How a short operation uses an operand (R328). -/
inductive SUse where
  | none | w | m | r | a | t | b
  deriving DecidableEq, Repr

end Sys2Proof.Machine

namespace Sys2Proof
open Machine

/-- A short operand is legal for its use (R292, R328). -/
def ShortOperand.legal (p : ShortOperand) (u : SUse) : Bool :=
  let md := p.mode.toNat
  let res := !((md = 0 || md = 5) && p.r ≠ 0) && !((md = 1 || md = 2 || md = 4) && p.f ≠ 0)
  match u with
  | .none => p.mode = 0 && p.r = 0 && p.f = 0
  | .w | .m => 1 ≤ md && md ≤ 5 && res
  | .r | .t | .b => md ≤ 5 && res
  | .a => 2 ≤ md && md ≤ 5 && res

/-- Locate a short operand: the address, and the register step of a postincrement (R292). -/
def ShortOperand.loc (p : ShortOperand) (s : State) (c : Nat) : Loc :=
  let ar := s.rega c p.r
  match p.mode.toNat with
  | 0 => .imm (p.f.signExtend 64)
  | 1 => .reg p.r
  | 3 => .mem (ar + p.f.signExtend 64 * 8)
  | 5 => .mem (p.f.zeroExtend 64 * 8)
  | _ => .mem ar

/-- The register a postincrement steps. -/
def ShortOperand.steps (p : ShortOperand) : Option (BitVec 3) := if p.mode = 4 then some p.r else none

end Sys2Proof

namespace Sys2Proof.Machine

end Sys2Proof.Machine
end

