-- ==== Sys2Proof/Machine/Flags.lean ====
section
/-! DEFINITION. The flag formulas and the arithmetic of the Iaber groups (chapter 10), on unbounded
numbers below 2^w. -/

namespace Sys2Proof.Machine

/-- The condition flags after an instruction; `none` keeps a flag (R303). -/
structure FlagSet where
  z : Option Bool := none
  n : Option Bool := none
  c : Option Bool := none
  v : Option Bool := none
  deriving DecidableEq, Repr

/-- Write the flags an instruction sets. -/
def Ctx.setFlags (x : Ctx) (f : FlagSet) : Ctx :=
  { x with z := f.z.getD x.z, n := f.n.getD x.n, c := f.c.getD x.c, v := f.v.getD x.v }

/-- Bit `k` of a number. -/
def bitOf (r k : Nat) : Bool := r / 2 ^ k % 2 = 1

/-- A number below 2^w read as signed. -/
def sgn (w r : Nat) : Int := if r < 2 ^ (w - 1) then (r : Int) else (r : Int) - 2 ^ w

/-- A signed result reduced modulo 2^w. -/
def wrapInt (w : Nat) (i : Int) : Nat := (i % (2 ^ w : Nat)).toNat

/-- zn (R303). -/
def znFlags (w r : Nat) : FlagSet := { z := some (r = 0), n := some (bitOf r (w - 1)) }

/-- add (R303). -/
def addFlags (w s1 s2 cin : Nat) : FlagSet :=
  let r := (s1 + s2 + cin) % 2 ^ w
  { z := some (r = 0), n := some (bitOf r (w - 1)), c := some (2 ^ w ≤ s1 + s2 + cin)
    v := some (bitOf s1 (w - 1) == bitOf s2 (w - 1) && bitOf r (w - 1) != bitOf s1 (w - 1)) }

/-- The difference modulo 2^w. -/
def subVal (w s1 s2 cin : Nat) : Nat := (s1 + 2 * 2 ^ w - s2 - cin) % 2 ^ w

/-- sub (R303); C is the borrow. -/
def subFlags (w s1 s2 cin : Nat) : FlagSet :=
  let r := subVal w s1 s2 cin
  { z := some (r = 0), n := some (bitOf r (w - 1)), c := some (s1 < s2 + cin)
    v := some (bitOf s1 (w - 1) != bitOf s2 (w - 1) && bitOf r (w - 1) != bitOf s1 (w - 1)) }

/-- zn with C and V given. -/
def zncv (w r : Nat) (c v : Bool) : FlagSet := { znFlags w r with c := some c, v := some v }

/-- zn with V = 0 (R309). -/
def znv0 (w r : Nat) : FlagSet := { znFlags w r with v := some false }

/-! ## Multiplication and division (R308) -/

def mulVal (w a b : Nat) : Nat := a * b % 2 ^ w

/-- Flags of MUL: carry of the unsigned product, overflow of the signed one. -/
def mulFlags (w a b : Nat) : FlagSet :=
  let q := sgn w a * sgn w b
  zncv w (mulVal w a b) (2 ^ w ≤ a * b) (q < -(2 ^ (w - 1) : Nat) || (2 ^ (w - 1) : Nat) ≤ q)

def mulhuVal (w a b : Nat) : Nat := a * b / 2 ^ w
def mulhsVal (w a b : Nat) : Nat := wrapInt w (sgn w a * sgn w b / (2 ^ w : Nat))

/-- −2^(w−1) by −1. -/
def divOverflow (w a b : Nat) : Bool := a = 2 ^ (w - 1) && b = 2 ^ w - 1

def divsVal (w a b : Nat) : Nat :=
  if divOverflow w a b then a else wrapInt w (Int.tdiv (sgn w a) (sgn w b))
def remsVal (w a b : Nat) : Nat :=
  if divOverflow w a b then 0 else wrapInt w (Int.tmod (sgn w a) (sgn w b))

/-! ## Logic and shifts (R309, R310) -/

def notVal (w a : Nat) : Nat := 2 ^ w - 1 - a
def andnVal (w a b : Nat) : Nat := a &&& notVal w b

def shlVal (w a n : Nat) : Nat := a * 2 ^ n % 2 ^ w
def shrVal (a n : Nat) : Nat := a / 2 ^ n
def sarVal (w a n : Nat) : Nat := wrapInt w (sgn w a / (2 ^ min n w : Nat))
def rolVal (w a n : Nat) : Nat :=
  let k := n % w
  (a * 2 ^ k + a / 2 ^ (w - k)) % 2 ^ w
def rorVal (w a n : Nat) : Nat :=
  let k := n % w
  (a / 2 ^ k + a * 2 ^ (w - k)) % 2 ^ w

/-- Flags of a shift: C kept when the amount is 0. -/
def shiftFlags (w r n : Nat) (c : Bool) : FlagSet :=
  { znv0 w r with c := if n = 0 then none else some c }

def shlCarry (w a n : Nat) : Bool := n ≤ w && bitOf a (w - n)
def shrCarry (w a n : Nat) : Bool := n ≤ w && bitOf a (n - 1)
def sarCarry (w a n : Nat) : Bool := if n ≤ w then bitOf a (n - 1) else bitOf a (w - 1)

/-- The number of 1 bits among the low `w`. -/
def popVal (w a : Nat) : Nat := ((List.range w).filter (bitOf a ·)).length
/-- The number of 0 bits above the highest 1 bit; `w` for 0. -/
def clzVal (w a : Nat) : Nat := if a = 0 then w else w - 1 - Nat.log2 a
/-- The number of 0 bits below the lowest 1 bit; `w` for 0. -/
def ctzVal (w a : Nat) : Nat := ((List.range w).find? (bitOf a ·)).getD w

/-! ## Fields and bytes (R305, R324, R327) -/

/-- The `z` bytes in reverse order. -/
def bswapVal (z a : Nat) : Nat := leNat (leBytes z a).reverse

/-- Sign-extend from `k` bits into `w`. -/
def sextVal (k w a : Nat) : Nat := wrapInt w (sgn k (a % 2 ^ k))

/-- Position and length of a field specifier. -/
def fieldPos (s2 : Nat) : Nat := s2 % 64
def fieldLen (s2 : Nat) : Nat := s2 / 256 % 64 + 1

def extuVal (w s1 s2 : Nat) : Nat := s1 / 2 ^ fieldPos s2 % 2 ^ fieldLen s2 % 2 ^ w
def extsVal (w s1 s2 : Nat) : Nat :=
  wrapInt w (sgn (fieldLen s2) (s1 / 2 ^ fieldPos s2 % 2 ^ fieldLen s2))
def insVal (w d s1 s2 : Nat) : Nat :=
  let mask := (2 ^ fieldLen s2 - 1) * 2 ^ fieldPos s2 % 2 ^ w
  (d &&& notVal w mask) ||| ((s1 * 2 ^ fieldPos s2 % 2 ^ w) &&& mask)

/-- The hash step (R327). -/
def hstepVal (d s1 : Nat) : Nat :=
  let t := (d ^^^ s1) * 0x9E3779B97F4A7C15 % 2 ^ 64
  t ^^^ (t / 2 ^ 32)

/-- One byte of a 16-bit CRC, highest bit first. -/
def crc16Step (poly c : Nat) (b : Byte) : Nat :=
  (List.range 8).foldl (fun c _ => if 2 ^ 15 ≤ c then (2 * c % 2 ^ 16) ^^^ poly else 2 * c) (c ^^^ (b.toNat * 256))

/-- A 16-bit CRC of bytes, highest bit first. -/
def crc16 (poly init : Nat) (bs : List Byte) : W16 := BitVec.ofNat 16 (bs.foldl (crc16Step poly) init)

/-- One reflected CRC step of a byte with a polynomial (R314, R377, R380). -/
def crcStep (poly : Nat) (acc : Nat) (b : Byte) : Nat :=
  (List.range 8).foldl (fun a _ => if a % 2 = 1 then (a / 2) ^^^ poly else a / 2) (acc ^^^ b.toNat)

/-- CRC-32C of a byte string with initial value FFFF_FFFFh and final inversion (R377). -/
def crc32c (bs : List Byte) : Nat := (bs.foldl (crcStep 0x82F63B78) 0xFFFFFFFF) ^^^ 0xFFFFFFFF

/-- CRC-32 (R380). -/
def crc32 (bs : List Byte) : Nat := (bs.foldl (crcStep 0xEDB88320) 0xFFFFFFFF) ^^^ 0xFFFFFFFF

/-- Adler-32 (R380, RFC 1950). -/
def adler32 (bs : List Byte) : Nat :=
  let r := bs.foldl (fun (p : Nat × Nat) b =>
    let a := (p.1 + b.toNat) % 65521
    (a, (p.2 + a) % 65521)) (1, 0)
  r.2 * 65536 + r.1

/-! ## Conditions (R311) -/

end Sys2Proof.Machine

namespace Sys2Proof
open Machine

/-- A condition on the flags. -/
def Cond.holds (cc : Cond) (x : Ctx) : Bool :=
  match cc with
  | .eq => x.z
  | .ne => !x.z
  | .lo => x.c
  | .hs => !x.c
  | .mi => x.n
  | .pl => !x.n
  | .vs => x.v
  | .vc => !x.v
  | .hi => !x.c && !x.z
  | .ls => x.c || x.z
  | .ge => x.n == x.v
  | .lt => x.n != x.v
  | .gt => !x.z && x.n == x.v
  | .le => x.z || x.n != x.v

end Sys2Proof

namespace Sys2Proof.Machine

end Sys2Proof.Machine
end

