-- ==== Sys2Proof/Machine/Filter.lean ====
section
/-! DEFINITION. Channel filters: the check of a filter program, the framing of a column block and the
evaluation of records (R231 to R233, R264 to R270). -/

namespace Sys2Proof.Machine

/-! ## Programs (R265 to R268) -/

/-- One step of a program. -/
structure FStep where
  op : Nat
  d  : Nat
  s  : Nat
  x  : Nat
  y  : Nat
  deriving DecidableEq, Repr

/-- Byte `i` of a program. -/
def pByte (p : List Byte) (i : Nat) : Nat := (p.getD i 0).toNat

/-- NSTEPS and NCONST, STRICT and COUNTONLY, the accumulator kinds. -/
def progSteps (p : List Byte) : Nat := pByte p 5
def progConsts (p : List Byte) : Nat := pByte p 6
def progStrict (p : List Byte) : Bool := bitOf (pByte p 7) 0
def progCountOnly (p : List Byte) : Bool := bitOf (pByte p 7) 1
def progKinds (p : List Byte) : List Nat := (List.range 4).map fun i => pByte p (8 + i)
/-- Bytes of a program. -/
def progLen (p : List Byte) : Nat := 64 + 8 * (progSteps p + progConsts p)

/-- Step `i`. -/
def progStep (p : List Byte) (i : Nat) : FStep :=
  let w := leNat ((p.drop (64 + 8 * i)).take 8)
  { op := w / 2 ^ 56, d := w / 2 ^ 52 % 16, s := w / 2 ^ 48 % 16, x := w / 2 ^ 32 % 65536, y := w % 2 ^ 32 }

/-- Constant bytes from a byte offset, and constant `i`. -/
def progConstBytes (p : List Byte) (o n : Nat) : List Byte := (p.drop (64 + 8 * progSteps p + o)).take n
def progK (p : List Byte) (i : Nat) : Nat := leNat (progConstBytes p (8 * i) 8)

/-- Codes 05h to 08h of a step (R265 to R267). -/
def stepCode (fver nsteps nconst i : Nat) (t : FStep) : Option Nat :=
  let v1 (b : Bool) : Option Nat := if b then none else some 6
  let arith := 0x08 ≤ t.op && t.op ≤ 0x0C
  let jump := t.op = 0x18 || t.op = 0x19 || t.op = 0x1A
  let two := t.op = 0x12 || t.op = 0x31
  let known := [1, 2, 3, 4, 0x0D, 0x0E, 0x10, 0x11, 0x12, 0x20, 0x21, 0x28, 0x30, 0x31].contains t.op
  let signed := (t.op = 0x10 || t.op = 0x11) && bitOf t.y 3
  if !(known || arith || jump) then some 5
  else
    let field :=
      if t.op = 1 then v1 (t.d < 8 && t.s = 0 && t.y < 32)
      else if t.op = 2 then v1 (t.d < 8 && t.s = 0 && t.x = 0)
      else if t.op = 3 then v1 (t.d < 8 && t.s = 0 && t.x < nconst && t.y = 0)
      else if t.op = 4 then v1 (t.d < 8 && t.s = 0 && t.x = 0 && t.y = 0)
      else if arith then v1 (t.d < 8 && t.s < 8 && t.x = 0 && t.y = 0)
      else if t.op = 0x0D ∨ t.op = 0x0E then v1 (t.d < 8 && t.s = 0 && t.x = 0 && t.y < 64)
      else if t.op = 0x10 then v1 (t.d < 8 && t.s < 8 && t.x = 0 && t.y % 8 < 6 && t.y < 16)
      else if t.op = 0x11 then v1 (t.d < 8 && t.s = 0 && t.x + 1 < nconst && (t.y = 0 || t.y = 8))
      else if t.op = 0x12 then v1 (t.d = 0 && t.s = 0 && 1 ≤ t.y % 256 && t.y % 256 ≤ 64 && t.y < 2 ^ 18
        && t.y / 256 + t.y % 256 ≤ 8 * nconst)
      else if jump then v1 (t.d = 0 && t.s = 0 && 1 ≤ t.x && t.x ≤ 63 && t.y = 0)
      else if t.op = 0x28 then v1 (t.d < 4 && t.s < 8 && t.x = 0 && t.y = 0)
      else if t.op = 0x30 then v1 (t.d = 0 && t.s = 0 && 1 ≤ t.y && t.y ≤ 4030)
      else if t.op = 0x31 then v1 (t.d = 0 && t.s < 8 && t.x = 0 && t.y = 0)
      else v1 (t.d = 0 && t.s = 0 && t.x = 0 && t.y = 0)
    match field with
    | some c => some c
    | none =>
      if jump && nsteps ≤ i + t.x then some 7
      else if fver < 2 && (two || signed) then some 8
      else none

/-- The code and step that refuse a program (R265): FFh names the header. -/
def progCheck (p : List Byte) : Option (Nat × Nat) :=
  let fver := pByte p 4
  if p.take 4 ≠ [0x46, 0x4C, 0x54, 0x50] then some (1, 0xFF)
  else if fver < 1 ∨ 2 < fver then some (2, 0xFF)
  else if progSteps p < 1 ∨ 64 < progSteps p ∨ 64 < progConsts p then some (3, 0xFF)
  else if 4 ≤ pByte p 7 || (progKinds p).any (fun k => 4 < k) || ((p.drop 12).take 52).any (· ≠ 0) then some (4, 0xFF)
  else if fver < 2 && (progKinds p).any fun k => 3 ≤ k then some (8, 0xFF)
  else (List.range (progSteps p)).findSome? fun i =>
    (stepCode fver (progSteps p) (progConsts p) i (progStep p i)).map fun c => (c, i)

/-! ## Accumulators (R268) -/

/-- Initial value of a kind. -/
def accInit (k : Nat) : Nat :=
  if k = 1 then 2 ^ 64 - 1 else if k = 3 then 2 ^ 63 - 1 else if k = 4 then 2 ^ 63 else 0

/-- Merge by kind. -/
def accMerge (k a v : Nat) : Nat :=
  if k = 0 then (a + v) % 2 ^ 64
  else if k = 1 then min a v
  else if k = 2 then max a v
  else if k = 3 then (if sgn 64 v < sgn 64 a then v else a)
  else (if sgn 64 a < sgn 64 v then v else a)

/-! ## Evaluation of a record (R267, R269) -/

/-- What a record's evaluation holds. -/
structure FEval where
  v    : List Nat := List.replicate 8 0
  c    : Bool := false
  accs : List Nat
  proj : List (List Byte) := []
  deriving DecidableEq, Repr

/-- How a step goes on. -/
inductive FNext where
  | at_ (i : Nat) (e : FEval)
  | accept (e : FEval)
  | reject (e : FEval)
  deriving DecidableEq, Repr

/-- Sign-extend a value of `n` bytes to 64 bits. -/
def sext (n v : Nat) : Nat := if 2 ^ (8 * n - 1) ≤ v ∧ n < 8 then v + 2 ^ 64 - 2 ^ (8 * n) else v

/-- The relations of CMP. -/
def relHolds (r : Nat) (signed : Bool) (a b : Nat) : Bool :=
  let lt : Bool := if signed then sgn 64 a < sgn 64 b else a < b
  if r = 0 then a = b else if r = 1 then a ≠ b else if r = 2 then lt else if r = 3 then lt || a = b
  else if r = 4 then !(lt || a = b) else !lt

/-- One step on a record's body. -/
def filterStep (p body : List Byte) (i : Nat) (e : FEval) : FNext :=
  let t := progStep p i
  let reg (n : Nat) : Nat := e.v.getD n 0
  let put (x : Nat) : FNext := .at_ (i + 1) { e with v := e.v.mapIdx fun j o => if j = t.d then x % 2 ^ 64 else o }
  let cond (b : Bool) : FNext := .at_ (i + 1) { e with c := b }
  if t.op = 1 then
    let n := t.y % 8 + 1
    if body.length < t.x + n then .reject e
    else
      let bs := (body.drop t.x).take n
      let x := leNat (if bitOf t.y 4 then bs.reverse else bs)
      put (if bitOf t.y 3 then sext n x else x)
  else if t.op = 2 then put (sext 4 t.y)
  else if t.op = 3 then put (progK p t.x)
  else if t.op = 4 then put body.length
  else if t.op = 8 then put (reg t.d + reg t.s)
  else if t.op = 9 then put (reg t.d + 2 ^ 64 - reg t.s)
  else if t.op = 0x0A then put (reg t.d &&& reg t.s)
  else if t.op = 0x0B then put (reg t.d ||| reg t.s)
  else if t.op = 0x0C then put (reg t.d ^^^ reg t.s)
  else if t.op = 0x0D then put (reg t.d * 2 ^ (t.y % 64))
  else if t.op = 0x0E then put (reg t.d / 2 ^ (t.y % 64))
  else if t.op = 0x10 then cond (relHolds (t.y % 8) (bitOf t.y 3) (reg t.d) (reg t.s))
  else if t.op = 0x11 then
    let le (a b : Nat) : Bool := relHolds 3 (bitOf t.y 3) a b
    cond (le (progK p t.x) (reg t.d) && le (reg t.d) (progK p (t.x + 1)))
  else if t.op = 0x12 then
    let n := t.y % 256
    if body.length < t.x + n then .reject e
    else cond ((body.drop t.x).take n = progConstBytes p (t.y / 256 % 1024) n)
  else if t.op = 0x18 then .at_ (if e.c then i + t.x else i + 1) e
  else if t.op = 0x19 then .at_ (if e.c then i + 1 else i + t.x) e
  else if t.op = 0x1A then .at_ (i + t.x) e
  else if t.op = 0x20 then .accept e
  else if t.op = 0x28 then
    .at_ (i + 1) { e with accs := e.accs.mapIdx fun j a =>
      if j = t.d then accMerge ((progKinds p).getD j 0) a (reg t.s) else a }
  else if t.op = 0x30 then
    if body.length < t.x + t.y % 65536 ∨ 8 ≤ e.proj.length then .reject e
    else .at_ (i + 1) { e with proj := e.proj ++ [(body.drop t.x).take (t.y % 65536)] }
  else if t.op = 0x31 then
    if 8 ≤ e.proj.length then .reject e else .at_ (i + 1) { e with proj := e.proj ++ [leBytes 8 (reg t.s)] }
  else .reject e

/-- Evaluate a record: every jump goes forward, so NSTEPS steps suffice; past the last step it is rejected. -/
def filterRun (p body : List Byte) : Nat → Nat → FEval → Bool × FEval
  | 0, _, e => (false, e)
  | fuel + 1, i, e =>
    if progSteps p ≤ i then (false, e)
    else match filterStep p body i e with
      | .at_ j e' => filterRun p body fuel j e'
      | .accept e' => (true, e')
      | .reject e' => (false, e')

/-! ## Framing (R231 to R233) -/

/-- The content bytes of a column block, without sector headers. -/
def contentOf (u : List Byte) : List Byte := (List.range 8).flatMap fun k => (u.drop (512 * k + 8)).take 504

/-- Header fields of a sector: SYNC matches, FIRST, COUNT. -/
def sectorSync (u : List Byte) (k : Nat) : Bool := (u.drop (512 * k)).take 4 = [0xF0, 0x0F, 0x55, 0xAA]
def sectorFirst (u : List Byte) (k : Nat) : Nat := leNat ((u.drop (512 * k + 4)).take 2)
def sectorCount (u : List Byte) (k : Nat) : Nat := leNat ((u.drop (512 * k + 6)).take 2)

/-- Content position of an offset in the block. -/
def contentPos (o : Nat) : Nat := o / 512 * 504 + (o % 512 - 8)

/-- What the walk over a block has found: records by ordinal, the record that runs on (start, end, ordinal),
framing errors, and whether it looks for a sector to resume at. -/
structure Walk where
  recs : List (Nat × Nat × Nat) := []
  run  : Option (Nat × Nat × Nat) := none
  errs : Nat := 0
  lost : Bool := false
  deriving DecidableEq, Repr

/-- The records that begin in a sector, from a content position: at most `n` of them; `hi` is the content
position at which the next sector begins. -/
def walkRecs (c : List Byte) (hi : Nat) : Nat → Nat → Nat → Walk → Walk
  | 0, _, _, w => w
  | n + 1, pos, ord, w =>
    let len := leNat ((c.drop pos).take 2)
    let e := pos + 2 + len
    if 4032 < pos + 2 ∨ len = 0 ∨ 4032 < e then { w with errs := w.errs + 1, lost := true }
    else if hi < e then { w with run := some (pos + 2, e, ord) }
    else walkRecs c hi n e (ord + 1) { w with recs := w.recs ++ [(ord, pos + 2, e)] }

/-- One sector (R233): SYNC, the record that runs into it, FIRST, then its records. Ordinals go by the COUNTs
of the sectors before (log entry 23). -/
def walkSector (u c : List Byte) (w : Walk) (k : Nat) : Walk :=
  let first := sectorFirst u k
  let count := sectorCount u k
  let hi := 504 * (k + 1)
  let ord := (List.range k).foldl (fun n j => n + sectorCount u j) 0
  if w.lost && (!sectorSync u k || count = 0) then w
  else if !sectorSync u k then { w with run := none, errs := w.errs + 1, lost := true }
  else
    let bad : Bool := count ≠ 0 && (first % 512 < 8 || match w.run with
      | some (_, e, _) => contentPos first < e
      | none => false)
    if bad then { w with run := none, errs := w.errs + 1, lost := true }
    else
      let w := match w.run with
        | some (a, e, o) => if e ≤ hi then { w with recs := w.recs ++ [(o, a, e)], run := none } else w
        | none => w
      if w.run.isSome || count = 0 then { w with lost := false }
      else walkRecs c hi count (contentPos first) ord { w with lost := false }

/-- The records of a column block, ordinal and body, and its framing errors. -/
def framing (u : List Byte) : List (Nat × List Byte) × Nat :=
  let c := contentOf u
  let w := (List.range 8).foldl (walkSector u c) {}
  (w.recs.map fun r => (r.1, (c.drop r.2.1).take (r.2.2 - r.2.1)), w.errs)

/-! ## A unit through a filter (R260, R268, R269) -/

/-- The result of one unit. -/
structure UnitOut where
  accs    : List Nat
  records : Nat
  matched : Nat
  errs    : Nat
  entries : List (Nat × List Byte)
  deriving DecidableEq, Repr

/-- Evaluate every record of a unit. -/
def filterUnit (p : List Byte) (accs : List Nat) (u : List Byte) : UnitOut :=
  let (recs, errs) := framing u
  recs.foldl (fun o r =>
    let (ok, e) := filterRun p r.2 (progSteps p) 0 { accs := o.accs }
    { o with
      accs := e.accs, records := o.records + 1, matched := o.matched + (if ok then 1 else 0)
      entries := if ok && !progCountOnly p
        then o.entries ++ [(r.1, if e.proj.isEmpty then r.2 else e.proj.flatten)] else o.entries })
    { accs := accs, records := 0, matched := 0, errs := errs, entries := [] }

end Sys2Proof.Machine
end

