-- ==== Sys2Proof/Machine/NvmeOps.lean ====
section
/-! DEFINITION. What the NVMe commands share: controllers, data pointers, data transfer, completion
entries, interrupts, asynchronous events, the fault log, replacement requests and fault state
(chapters 02, 15 and 17). -/

namespace Sys2Proof.Machine

/-! ## Controllers (R44) -/

/-- The kinds of a sender of admin commands (R44, R54). -/
inductive CtrlKind where
  | slice | manager | port | sideband
  deriving DecidableEq, Repr

/-- The port that a controller's requests leave through (R44, R513). -/
def State.ctrlPort (s : State) (i : Nat) : Nat :=
  match ctrlSlice i with
  | some sl => (s.slice sl).port
  | none => i

/-- A controller exists: a port's, or a slice's whose page decodes (R44, R509). -/
def State.ctrlExists (s : State) (i : Nat) : Bool :=
  match ctrlSlice i with
  | some sl => (s.slice sl).st ≠ .absent
  | none => i < splitPorts s.dev.split

/-- A rebind of the slice runs, a deletion accepted meanwhile waiting for it (R95, R96). -/
def Slice.rebinding (x : Slice) : Bool := x.st = .rebinding || (x.rebinds && x.seqSrc.isSome)

/-- The registers of a controller can be reached: a slice page decodes unless the slice is Rebinding (R96, R509). -/
def State.ctrlOpen (s : State) (i : Nat) : Bool :=
  s.ctrlExists i && match ctrlSlice i with
    | some sl => !(s.slice sl).rebinding
    | none => true

/-- The controllers that exist. -/
def State.ctrlIds (s : State) : List Nat :=
  (List.range (splitPorts s.dev.split)) ++
    (s.host.slices.filter fun p => p.2.st ≠ .absent).map fun p => sliceCtrl p.1

/-- The kind of a controller. -/
def State.kindOf (s : State) (i : Nat) : CtrlKind :=
  if (ctrlSlice i).isSome then .slice else if i = s.dev.mgrPort then .manager else .port

end Sys2Proof.Machine

namespace Sys2Proof
open Machine

/-- Kind of a source. -/
def Src.kind (q : Src) (s : Machine.State) : CtrlKind :=
  match q with
  | .queue i _ => s.kindOf i
  | .sideband => .sideband

/-- The command came through an admin queue or the sideband. -/
def Src.admin : Src → Bool
  | .queue _ n => n = 0
  | .sideband => true

/-- The slice of the source's controller. -/
def Src.slice? : Src → Option Nat
  | .queue i _ => ctrlSlice i
  | .sideband => none

end Sys2Proof

namespace Sys2Proof.Machine

/-- Change a controller. -/
def State.modCtrl (s : State) (i : Nat) (f : Ctrl → Ctrl) : State := s.setCtrl i (f (s.ctrl i))

/-- Change a slice. -/
def State.modSlice (s : State) (i : Nat) (f : Slice → Slice) : State := s.setSlice i (f (s.slice i))

/-- Change a submission queue. -/
def State.modSq (s : State) (i n : Nat) (f : Sq → Sq) : State :=
  s.modCtrl i fun c =>
    match Tbl.get? c.sqs n with
    | some q => { c with sqs := Tbl.set c.sqs n (f q) }
    | none => c

/-! ## Interrupts (R519, R80) -/

/-- The message of an entry may be sent now; it waits as pending while the function issues no request (R516). -/
def State.msiOpen (s : State) (i v : Nat) : Bool :=
  let p := s.port (s.ctrlPort i)
  s.portIssues (s.ctrlPort i) && p.msixEn && !p.funcMask && !(Tbl.getD (s.ctrl i).store v {}).mask

/-- Raise the interrupt of a vector: a message, or the pending bit (R519). -/
def State.raiseMsi (s : State) (i v : Nat) : State :=
  if s.msiOpen i v then { s with out := { s.out with msgs := (i, v) :: s.out.msgs } }
  else s.modCtrl i fun c => { c with pend := insNat v c.pend }

/-- Send the messages of pending bits that may now be sent (R519). -/
def State.flushMsi (s : State) (i : Nat) : State :=
  (s.ctrl i).pend.foldl (fun s v =>
    if s.msiOpen i v then
      (s.modCtrl i fun c => { c with pend := delNat v c.pend }).raiseMsi i v
    else s) s

/-- A completion asks for its vector: Interrupt Vector Configuration and Interrupt Coalescing act first,
on I/O completion queues (R80, R519). -/
def State.signal (s : State) (i cq v : Nat) : State :=
  let f := (s.ctrl i).feat
  if cq = 0 ∨ f.thr = 0 ∨ f.time = 0 ∨ f.cd.contains v then s.raiseMsi i v
  else
    let n := Tbl.getD (s.ctrl i).coal v 0 + 1
    if f.thr.toNat + 1 ≤ n then
      (s.modCtrl i fun c => { c with coal := Tbl.set c.coal v 0 }).raiseMsi i v
    else s.modCtrl i fun c => { c with coal := Tbl.set c.coal v n }

/-! ## Posting a completion (R66, R67, R506) -/

/-- The 16 bytes of a completion queue entry. -/
def cqeBytes (p : PendCqe) (sqhd : Nat) (phase : Bool) : List Byte :=
  leBytes 4 p.dw0.toNat ++ leBytes 4 p.dw1.toNat ++ leBytes 2 sqhd ++ leBytes 2 p.sq
    ++ leBytes 2 p.cid.toNat ++ leBytes 2 ((if phase then 1 else 0) + 2 * p.sc + 512 * p.sct)

/-- Write the entry at the tail of its queue and ask for the interrupt. -/
def State.writeCqe (s : State) (p : PendCqe) : State :=
  let c := s.ctrl p.ctrl
  match Tbl.get? c.cqs p.cq with
  | none => s
  | some q =>
    let hd := ((Tbl.get? c.sqs p.sq).map (·.head)).getD 0
    let addr := q.base + BitVec.ofNat 64 (16 * q.tail)
    let bytes := cqeBytes p hd q.phase
    let tail := (q.tail + 1) % q.size
    let q' := { q with tail := tail, phase := if tail = 0 then !q.phase else q.phase }
    let s := s.modCtrl p.ctrl fun c => { c with cqs := Tbl.set c.cqs p.cq q' }
    let s := s.writeOut (s.ctrlPort p.ctrl) (ctrlSlice p.ctrl) addr (Data.ofBytes bytes) false
    let s := { s with out := { s.out with
      cqes := ⟨p.ctrl, p.cq, p.sq, hd, p.cid, p.sct, p.sc, p.dw0, p.dw1, q.phase⟩ :: s.out.cqes } }
    let s := match ctrlSlice p.ctrl with
      | some sl => if p.sq = 0 then s else s.meterUp sl fun m => { m with commands := m.commands + 1 }
      | none => s
    if q.ien then s.signal p.ctrl p.cq q.vector else s

/-- Completions of a queue that wait behind a migration log. -/
def State.cqPaused (s : State) (i cq : Nat) : Nat :=
  (s.host.paused.filter fun p => match p with
    | .cqe _ c => c.ctrl = i && c.cq = cq
    | .data _ _ _ _ => false
    | .port _ _ _ => false).length

/-- The queue of a completion has room, beside those that wait behind a migration log: one slot stays empty. -/
def State.cqRoom (s : State) (p : PendCqe) : Bool :=
  match Tbl.get? (s.ctrl p.ctrl).cqs p.cq with
  | some q => s.cqPaused p.ctrl p.cq < (q.head + q.size - q.tail - 1) % q.size
  | none => false

/-- DMA for the slice of a controller is fenced (R119, R122). -/
def State.fencedOff (s : State) (i : Nat) : Bool :=
  match ctrlSlice i with
  | some sl => (s.slice sl).fenced
  | none => false

/-- Completions of a controller may be posted: its function issues requests, it is not in CFS, no fence stands before
its slice, and no firmware activation holds it (R85, R119, R516, R517). -/
def State.posts (s : State) (i : Nat) : Bool :=
  s.portIssues (s.ctrlPort i) && !(s.ctrl i).cfs && !s.dev.fw.holding && !s.rel.fault && !s.fencedOff i

/-- Past the migration log of the slice, or behind it (R125, R126). -/
def State.cqePast (s : State) (p : PendCqe) : State :=
  match ctrlSlice p.ctrl with
  | none => s.writeCqe p
  | some sl =>
    let q := Tbl.get? (s.ctrl p.ctrl).cqs p.cq
    let page := ((q.map fun q => q.base.toNat + 16 * q.tail).getD 0) / 4096
    let wait := { s with host := { s.host with paused := s.host.paused ++ [.cqe sl p] } }
    if s.waiting sl then wait
    else match s.logPage sl page with
      | some s' => s'.writeCqe p
      | none => wait

/-- Post a completion, or keep it until it can be posted. Nothing is posted for a fenced slice (R119). -/
def State.post (s : State) (p : PendCqe) : State :=
  if s.fencedOff p.ctrl || (s.ctrl p.ctrl).cfs then s
  else if s.posts p.ctrl && (s.ctrl p.ctrl).backlog.isEmpty && s.cqRoom p then s.cqePast p
  else s.modCtrl p.ctrl fun c => { c with backlog := c.backlog ++ [p] }

/-- Post what waits on a controller, oldest first, while it can be posted. -/
def State.drainCqes (s : State) (i : Nat) : State :=
  let b := (s.ctrl i).backlog
  (b.foldl (fun (st : State × Bool) p =>
    if !st.2 && st.1.posts i && st.1.cqRoom p then
      ((st.1.modCtrl i fun c => { c with backlog := c.backlog.drop 1 }).cqePast p, false)
    else (st.1, true)) (s, false)).1

/-! ## Data pointers (R60, R55) -/

/-- The pieces of host memory that a PRP pointer gives for `n` bytes. -/
def prpPieces (p1 p2 : W64) (list : List W64) (n : Nat) : List (W64 × Nat) :=
  let a := 4096 - p1.toNat % 4096
  if n ≤ a then (if n = 0 then [] else [(p1, n)])
  else if n - a ≤ 4096 then [(p1, a), (p2, n - a)]
  else (p1, a) :: (List.range ((n - a + 4095) / 4096)).map fun i =>
    (list.getD i 0, min 4096 (n - a - 4096 * i))

/-- A PRP entry used for `n` bytes breaks R60. -/
def prpBad (p1 p2 : W64) (list : List W64) (n : Nat) : Bool :=
  let a := 4096 - p1.toNat % 4096
  p1.toNat % 4 ≠ 0 || (a < n && p2.toNat % 4 ≠ 0)
    || (4096 < n - a && (list.take ((n - a + 4095) / 4096)).any fun x => x.toNat % 4096 ≠ 0)

/-- The data block descriptors of an SGL. -/
def sglBlocks (d : List SglDesc) : List SglDesc := d.filter fun x => x.kind = 0

end Sys2Proof.Machine

namespace Sys2Proof
open Machine

/-- Sum of the lengths that the data block descriptors of an SGL give. -/
def DataPtr.total : DataPtr → Nat
  | .prp _ _ _ => 0
  | .sgl d => (sglBlocks d).foldl (fun n x => n + x.len) 0

/-- The status that the data pointer check of R60 gives for a required length, if any: SGL Descriptor Type
Invalid, Data SGL Length Invalid, Invalid PRP Offset. -/
def DataPtr.check (p : DataPtr) (n : Nat) : Option Nat :=
  match p with
  | .prp p1 p2 l => if prpBad p1 p2 l n then some 0x13 else none
  | .sgl d =>
    if d.any fun x => x.kind ≠ 0 ∧ x.kind ≠ 2 ∧ x.kind ≠ 3 then some 0x11
    else if (DataPtr.sgl d).total ≠ n then some 0x0F
    else none

/-- The pieces of host memory for `n` bytes. -/
def DataPtr.pieces (p : DataPtr) (n : Nat) : List (W64 × Nat) :=
  match p with
  | .prp p1 p2 l => prpPieces p1 p2 l n
  | .sgl d => (sglBlocks d).map fun x => (x.addr, x.len)

end Sys2Proof

namespace Sys2Proof.Machine

/-! ## Commands in hand -/

/-- The queue's record of a command. -/
def State.fetchedAt (s : State) (q : Src) (cid : W16) : Option Fetched :=
  match q with
  | .queue i n => (Tbl.get? (s.ctrl i).sqs n).bind fun x => x.fetched.find? fun f => f.e.cid = cid
  | .sideband => none

/-- The slice of a controller is parked: none of its commands executes (R95, R105). -/
def State.parkedAt (s : State) (i : Nat) : Bool :=
  match ctrlSlice i with
  | some sl => (s.slice sl).st = .parked
  | none => false

/-- The command stands: its slice is not parked, it has been fetched, is not completed and its row has not executed yet; one whose opcode's
lowest two bits say that it transfers data waits while its function issues no request (R516). -/
def State.stands (s : State) (q : Src) (e : Sqe) : Bool :=
  match q with
  | .queue i n =>
    (e.opc.toNat % 4 = 0 || s.portIssues (s.ctrlPort i)) && !s.parkedAt i &&
      match Tbl.get? (s.ctrl i).sqs n with
      | some x => x.fetched.any fun f => f.e = e && !f.begun
      | none => false
  | .sideband => s.dev.side.cmd = some e && !s.dev.side.begun

/-- Change the record of a command in hand. -/
def State.modCmd (s : State) (q : Src) (cid : W16) (f : Fetched → Fetched) : State :=
  match q with
  | .queue i n => s.modSq i n fun x => { x with fetched := x.fetched.map fun y => if y.e.cid = cid then f y else y }
  | .sideband => s

/-- The row of the command executes. -/
def State.begin (s : State) (q : Src) (cid : W16) : State :=
  match q with
  | .queue _ _ => s.modCmd q cid fun f => { f with begun := true }
  | .sideband => { s with dev := { s.dev with side := { s.dev.side with begun := true } } }

/-- Change the counts and error log of a controller. -/
def State.modLog (s : State) (i : Nat) (f : CtrlLog → CtrlLog) : State :=
  { s with host := { s.host with logs := Tbl.set s.host.logs i (f (Tbl.getD s.host.logs i {})) } }

/-- The reads that a command's data pointer needs: its PRP list, and for inbound data what it describes (R89, R513). -/
def State.readsOf (s : State) (q : Src) (cid : W16) (toHost : Bool) (n : Nat) : State :=
  match q, s.fetchedAt q cid with
  | .queue i _, some f =>
    let port := s.ctrlPort i
    let sl := ctrlSlice i
    let s := match f.e.dptr with
      | .prp _ b (x :: l) => s.request true port sl b.toNat (8 * (x :: l).length) false
      | _ => s
    if toHost then s
    else (f.e.dptr.pieces n).foldl (fun (s : State) p => s.request true port sl p.1.toNat p.2 true) s
  | _, _ => s

/-- Count data moved from, or to, host memory by a command (R79, R131), and issue the reads it needs. -/
def State.moved (s : State) (q : Src) (cid : W16) (toHost : Bool) (n : Nat) : State :=
  let s := (s.readsOf q cid toHost n).modCmd q cid fun f =>
    if toHost then { f with movedOut := true } else { f with movedIn := true }
  let s := match q.slice? with
    | some sl => s.meterUp sl fun m =>
        if toHost then { m with hostOut := m.hostOut + n } else { m with hostIn := m.hostIn + n }
    | none => s
  match q with
  | .queue i m =>
    if m = 0 then s
    else
      s.modLog i fun l =>
        if toHost then { l with bytesRead := l.bytesRead + n } else { l with bytesWritten := l.bytesWritten + n }
  | .sideband => s

/-- Enter an error in a controller's error information log (R79, R517). -/
def State.logError (s : State) (i sq : Nat) (cid : W16) (sct sc nsid lba : Nat) : State :=
  s.modLog i fun l =>
    { l with
      errCount := l.errCount + 1
      errors := (⟨l.errCount + 1, sq, cid, sct, sc, nsid, lba⟩ :: l.errors).take 64 }

/-- Complete a command: it leaves its queue's record, its counts and error entry are made, and its
completion is posted; on the sideband the result is kept for the response. -/
def State.complete (s : State) (q : Src) (cid : W16) (sct sc : Nat) (dw0 dw1 : W32) : State :=
  match q with
  | .sideband =>
    let nsid := (s.dev.side.cmd.map fun e => e.nsid.toNat).getD 0
    let s := { s with dev := { s.dev with side := { s.dev.side with
      cmd := none, begun := false, sct := sct, sc := sc, dw0 := dw0, dw1 := dw1 } } }
    if sct = 0 ∧ sc = 0 then s else s.logError s.dev.mgrPort 0xFFFF cid sct sc nsid 0
  | .queue i n =>
    match s.fetchedAt q cid with
    | none => s
    | some f =>
      let cq := ((Tbl.get? (s.ctrl i).sqs n).map (·.cqid)).getD 0
      let s := s.modSq i n fun x => { x with fetched := x.fetched.filter fun y => y.e.cid ≠ cid }
      let s := s.modLog i fun l =>
        { l with
          hostRead := l.hostRead + (if f.movedOut then 1 else 0)
          hostWrite := l.hostWrite + (if f.movedIn then 1 else 0) }
      let s := if sct = 0 ∧ sc = 0 then s
        else s.logError i n cid sct sc f.e.nsid.toNat
          (if n = 0 then 0 else f.e.cdw10.toNat + 2 ^ 32 * f.e.cdw11.toNat)
      s.post ⟨i, cq, n, cid, sct, sc, dw0, dw1⟩

/-- Complete with Success. -/
def State.succeed (s : State) (q : Src) (cid : W16) : State := s.complete q cid 0 0 0 0

/-- Complete with a status. -/
def State.fail (s : State) (q : Src) (cid : W16) (sct sc : Nat) : State := s.complete q cid sct sc 0 0

/-- Generic status codes. -/
def scInvalidOpcode : Nat := 0x01
def scInvalidField : Nat := 0x02
def scDataTransfer : Nat := 0x04
def scInternal : Nat := 0x06
def scSequence : Nat := 0x0C
def scPrpOffset : Nat := 0x13
def scDenied : Nat := 0x15

/-- A write of a port controller leaves, or waits until its function issues requests (R516). -/
def State.portWrite (s : State) (i : Nat) (iova : W64) (d : Data) : State :=
  if s.portIssues i then s.writeOut i none iova d true
  else { s with host := { s.host with paused := s.host.paused ++ [.port i iova d] } }

/-- Waiting writes from the `k`-th on are those of a command of queue `n`. -/
def State.tagPaused (s : State) (k n : Nat) : State :=
  { s with host := { s.host with paused := s.host.paused.mapIdx fun i p => match p with
    | .data x a sq d => if k ≤ i then .data x a (some n) d else .data x a sq d
    | .cqe x c => .cqe x c
    | .port j a d => .port j a d } }

/-- Write data to host memory for a command: to a slice's PASID past its migration log, from a port
controller without a PASID, or into the sideband's response. -/
def State.sendTo (s : State) (q : Src) (ptr : DataPtr) (d : Data) : State :=
  match q with
  | .sideband => { s with dev := { s.dev with side := { s.dev.side with data := d } } }
  | .queue i n =>
    (((ptr.pieces d.len).foldl (fun (st : State × Nat) p =>
      let x := Data.sub d st.2 p.2
      let t := match ctrlSlice i with
        | some sl => st.1.hostWrite sl p.1.toNat x
        | none => st.1.portWrite i p.1 x
      (t, st.2 + p.2)) (s, 0)).1).tagPaused s.host.paused.length n

/-- A status of type and code. -/
abbrev Status := Nat × Nat

/-- The checks that begin every admin command (R54, R55), then its body: the opcode on this kind of
controller, then PSDT. A command that does not stand changes nothing (log entry 13). -/
def State.adminCmd (s : State) (q : Src) (e : Sqe) (opc : Nat) (allow : CtrlKind → Bool)
    (body : State → State) : State :=
  if !s.stands q e || !q.admin || e.opc.toNat ≠ opc then s
  else
    let s := s.begin q e.cid
    if !allow (q.kind s) then s.fail q e.cid 0 scInvalidOpcode
    else if e.psdt ≠ 0 then s.fail q e.cid 0 scInvalidField
    else body s

/-- Every controller kind. -/
def onAll : CtrlKind → Bool := fun _ => true
/-- Slice controllers alone. -/
def onSlice (k : CtrlKind) : Bool := k == .slice
/-- The manager controller and the sideband (R45). -/
def onManager (k : CtrlKind) : Bool := k == .manager || k == .sideband

/-- The PRP check of an admin command that carries `n` bytes (R55). -/
def adminPrpBad (e : Sqe) (n : Nat) : Bool :=
  match e.dptr with
  | .prp p1 p2 l => prpBad p1 p2 l n
  | .sgl _ => false

/-- Send the data of an admin command and complete it with Success, after the PRP check. -/
def State.answer (s : State) (q : Src) (e : Sqe) (d : Data) : State :=
  if adminPrpBad e d.len then s.fail q e.cid 0 scPrpOffset
  else ((s.sendTo q e.dptr d).moved q e.cid true d.len).succeed q e.cid

/-! ## Asynchronous events (R86) -/

/-- Dword 0 of the completion of an Asynchronous Event Request. -/
def Event.dw0 (v : Event) : W32 := BitVec.ofNat 32 (v.kind + 256 * v.info + 65536 * v.lid)

/-- Report an event now or when a request comes; events of a page reported and not read are dropped. -/
def State.raiseEvent (s : State) (i : Nat) (v : Event) : State :=
  let c := s.ctrl i
  if !c.rdy || c.masked.contains v.lid || c.events.contains v then s
  else match c.aers with
    | [] => s.modCtrl i fun c => { c with events := c.events ++ [v] }
    | cid :: rest =>
      let s := s.modCtrl i fun c => { c with aers := rest, masked := insNat v.lid c.masked }
      s.complete (.queue i 0) cid 0 0 v.dw0 0

/-- A device-wide health event on every controller that has enabled it in feature 0Bh (R86): information
00h reliability, 01h temperature, 02h spare. -/
def State.raiseHealth (s : State) (bit info : Nat) : State :=
  s.ctrlIds.foldl (fun s i =>
    if (s.ctrl i).feat.aec.getLsbD bit then s.raiseEvent i ⟨1, info, 2⟩ else s) s

/-- Set a critical warning bit, with its event when it was clear (R79, R86). -/
def State.setWarn (s : State) (bit info : Nat) : State :=
  if s.dev.warn.getLsbD bit then s
  else
    let s := { s with dev := { s.dev with warn := s.dev.warn ||| (1#8 <<< bit) } }
    s.raiseHealth bit info

/-! ## Fault log, replacement and fault state (R471 to R477) -/

/-- Request replacement for a cause bit of REL.REPL (R473, R474): the first setting of a bit makes a log
entry; the first of all drives REPLACE_N and raises the warning. -/
def State.requestRepl (s : State) (bit : Nat) : State :=
  if s.rel.repl.getLsbD bit then s
  else
    let s := { s with rel := { s.rel with repl := s.rel.repl ||| (1#14 <<< bit) } }
    let s := if s.rel.replaceN then s
      else
        let s := { s with rel := { s.rel with replaceN := true } }
        if s.dev.warn.getLsbD 2 then s.raiseHealth 2 0 else s.setWarn 2 0
    s.logFault 0x17 3 [0] none [0] [bit]

/-- Enter fault state (R476, R477). -/
def State.enterFault (s : State) (cause : Nat) : State :=
  if s.rel.fault then s
  else
    let s := s.logFault 0x18 4 [0] none [0] [cause]
    let s := s.ctrlIds.foldl (fun s i => s.modCtrl i fun c => { c with cfs := true }) s
    { s with rel := { s.rel with fault := true } }

end Sys2Proof.Machine
end

