-- ==== Sys2Proof/Machine/Queues.lean ====
section
/-! DEFINITION. Doorbells, queue creation, features, Abort and Asynchronous Event Request (R50 to R53, R65,
R80 to R83, R86). -/

namespace Sys2Proof.Machine

/-! ## Power state exit (R82) -/

/-- Some command is outstanding on some controller, beside Asynchronous Event Requests, or a run. -/
def State.busyDevice (s : State) : Bool :=
  s.host.ctrls.any (fun p => p.2.sqs.any fun x => x.2.fetched.any fun f => f.e.opc ≠ 0x0C)
    || !s.cpu.runs.isEmpty || !s.cpu.scans.isEmpty || s.dev.side.cmd.isSome

/-- What keeps the device out of a non-operational state (R82): a command outstanding, one that stands in its queue with
its doorbell written among them, and work that a host has asked for: a sanitize, a self-test. -/
def State.keepsAwake (s : State) : Bool :=
  s.busyDevice || (s.host.ctrls.any fun p => p.2.en && p.2.sqs.any fun x => x.2.head ≠ x.2.tail)
    || (s.dev.san.any fun p => p.2.running) || s.dev.test.isSome

/-- Enter a power state; VID steps to its code (R81, R558). -/
def State.setPs (s : State) (n : Nat) : State :=
  let s := if n = 4 then s.dramSleep else s.dramWake
  { s with dev := { s.dev with
      ps := n
      psOper := if n < 3 then n else s.dev.psOper
      psNext := none
      pwr := { s.dev.pwr with vidTo := if n < 3 then Config.vidOperating else 0x40 } } }

/-- A doorbell write leaves PS3 or PS4, or abandons an entry to one that is in progress. An entry that waits for
commands outstanding is not in progress yet. -/
def State.psExit (s : State) : State :=
  if 3 ≤ s.dev.ps then s.setPs s.dev.psOper
  else if s.keepsAwake then s
  else { s with dev := { s.dev with psNext := none } }

/-! ## Doorbells (R50, R96) -/

/-- A slice controller's page decodes and its doorbells act (R96, R509). -/
def State.doorbellOpen (s : State) (i : Nat) : Bool :=
  s.ctrlExists i && match ctrlSlice i with
    | some sl => let st := (s.slice sl).st; st ≠ .resetting && st ≠ .rebinding && st ≠ .deleting
    | none => true

/-- SQ_TAIL_DOORBELL (R46, R50, R82): bits 31:16 are reserved. -/
def execSqTailDoorbell (ctrl qid : Nat) (value : W32) (s : State) : Host.Outcome State Fault Refusal :=
  .next (if !s.doorbellOpen ctrl || 64 < qid then s
    else
      let s := s.psExit
      match Tbl.get? (s.ctrl ctrl).sqs qid with
      | none => s.raiseEvent ctrl ⟨0, 0, 1⟩
      | some q =>
        let v := value.toNat % 65536
        if q.size ≤ v then s.raiseEvent ctrl ⟨0, 1, 1⟩
        else s.modSq ctrl qid fun q => { q with tail := v })

/-- CQ_HEAD_DOORBELL (R46, R50, R82): completions that wait for room are posted. -/
def execCqHeadDoorbell (ctrl qid : Nat) (value : W32) (s : State) : Host.Outcome State Fault Refusal :=
  .next (if !s.doorbellOpen ctrl || 64 < qid then s
    else
      let s := s.psExit
      match Tbl.get? (s.ctrl ctrl).cqs qid with
      | none => s.raiseEvent ctrl ⟨0, 0, 1⟩
      | some q =>
        let v := value.toNat % 65536
        if q.size ≤ v then s.raiseEvent ctrl ⟨0, 1, 1⟩
        else (s.modCtrl ctrl fun c => { c with cqs := Tbl.set c.cqs qid { q with head := v } }).drainCqes ctrl)

/-! ## I/O queues (R51 to R53, R68) -/

/-- The controller of a source; the sideband has none of its own and names the manager's. -/
def State.srcCtrl (s : State) (q : Src) : Nat :=
  match q with
  | .queue i _ => i
  | .sideband => s.dev.mgrPort

/-- CREATE_IO_COMPLETION_QUEUE (R48, R51 to R53). CDW10: QID, size; CDW11: PC, IEN, vector. -/
def execCreateIoCompletionQueue (q : Src) (e : Sqe) (s : State) : Host.Outcome State Fault Refusal :=
  .next (s.adminCmd q e 5 onSlice fun s =>
    let i := s.srcCtrl q
    let c := s.ctrl i
    let qid := e.cdw10.toNat % 65536
    let size := e.cdw10.toNat / 65536 + 1
    let vec := e.cdw11.toNat / 65536
    if c.iocqes ≠ 4 then s.fail q e.cid 0 scInvalidField
    else if qid = 0 ∨ c.grantCq < qid ∨ (Tbl.get? c.cqs qid).isSome then s.fail q e.cid 1 0x01
    else if size < 2 ∨ 4096 < size then s.fail q e.cid 1 0x02
    else if 63 < vec then s.fail q e.cid 1 0x08
    else if !e.cdw11.getLsbD 0 then s.fail q e.cid 0 scInvalidField
    else match e.dptr with
      | .prp p1 _ _ =>
        if p1.toNat % 4096 ≠ 0 then s.fail q e.cid 0 scPrpOffset
        else
          let x : Cq := { size := size, base := p1, vector := vec, ien := e.cdw11.getLsbD 1 }
          (s.modCtrl i fun c => { c with cqs := Tbl.set c.cqs qid x }).succeed q e.cid
      | .sgl _ => s.fail q e.cid 0 scInvalidField)

/-- CREATE_IO_SUBMISSION_QUEUE (R48, R51, R53). CDW11 [31:16] names the completion queue. -/
def execCreateIoSubmissionQueue (q : Src) (e : Sqe) (s : State) : Host.Outcome State Fault Refusal :=
  .next (s.adminCmd q e 1 onSlice fun s =>
    let i := s.srcCtrl q
    let c := s.ctrl i
    let qid := e.cdw10.toNat % 65536
    let size := e.cdw10.toNat / 65536 + 1
    let cqid := e.cdw11.toNat / 65536
    if c.iosqes ≠ 6 then s.fail q e.cid 0 scInvalidField
    else if qid = 0 ∨ c.grantSq < qid ∨ (Tbl.get? c.sqs qid).isSome then s.fail q e.cid 1 0x01
    else if size < 2 ∨ 4096 < size then s.fail q e.cid 1 0x02
    else if cqid = 0 ∨ (Tbl.get? c.cqs cqid).isNone then s.fail q e.cid 1 0x00
    else if !e.cdw11.getLsbD 0 then s.fail q e.cid 0 scInvalidField
    else match e.dptr with
      | .prp p1 _ _ =>
        if p1.toNat % 4096 ≠ 0 then s.fail q e.cid 0 scPrpOffset
        else
          let x : Sq := { size := size, base := p1, cqid := cqid }
          (s.modCtrl i fun c => { c with sqs := Tbl.set c.sqs qid x }).succeed q e.cid
      | .sgl _ => s.fail q e.cid 0 scInvalidField)

/-- DELETE_IO_COMPLETION_QUEUE (R68). -/
def execDeleteIoCompletionQueue (q : Src) (e : Sqe) (s : State) : Host.Outcome State Fault Refusal :=
  .next (s.adminCmd q e 4 onSlice fun s =>
    let i := s.srcCtrl q
    let c := s.ctrl i
    let qid := e.cdw10.toNat % 65536
    if qid = 0 ∨ (Tbl.get? c.cqs qid).isNone then s.fail q e.cid 1 0x01
    else if c.sqs.any fun p => p.1 ≠ 0 ∧ p.2.cqid = qid then s.fail q e.cid 1 0x0C
    else (s.modCtrl i fun c => { c with
      cqs := Tbl.del c.cqs qid, backlog := c.backlog.filter fun p => p.cq ≠ qid }).succeed q e.cid)

/-! ## Abort and Asynchronous Event Request (R65, R86) -/

/-- Commands fetched on a queue before a command. -/
def State.earlier (s : State) (q : Src) (cid : W16) : List Fetched :=
  match q with
  | .queue i n => (((Tbl.get? (s.ctrl i).sqs n).map (·.fetched)).getD []).takeWhile fun f => f.e.cid ≠ cid
  | .sideband => []

/-- ABORT (R65): cancels nothing; with an earlier Abort outstanding it completes with Abort Command Limit
Exceeded. -/
def execAbort (q : Src) (e : Sqe) (s : State) : Host.Outcome State Fault Refusal :=
  .next (s.adminCmd q e 8 onAll fun s =>
    if (s.earlier q e.cid).any fun f => f.e.opc = 8 then s.fail q e.cid 1 0x03
    else s.complete q e.cid 0 0 1 0)

/-- ASYNCHRONOUS_EVENT_REQUEST (R86): up to 4 outstanding; a waiting event completes it. The fifth completes
with Asynchronous Event Request Limit Exceeded (01h/05h). -/
def execAsynchronousEventRequest (q : Src) (e : Sqe) (s : State) : Host.Outcome State Fault Refusal :=
  .next (s.adminCmd q e 0x0C onAll fun s =>
    match q with
    | .sideband => s.fail q e.cid 0 scInvalidOpcode
    | .queue i _ =>
      let c := s.ctrl i
      if 4 ≤ c.aers.length then s.fail q e.cid 1 0x05
      else
        let s := s.modCtrl i fun c => { c with aers := c.aers ++ [e.cid] }
        match c.events.filter fun v => !c.masked.contains v.lid with
        | [] => s
        | v :: _ => (s.modCtrl i fun c => { c with events := c.events.filter fun w => w ≠ v }).raiseEvent i v)

/-! ## Features (R80) -/

/-- The variant's over-temperature threshold WCTEMP in kelvin (R72). -/
def wctemp : Nat := if Config.variantE then 378 else 373
/-- CCTEMP in kelvin (R72). -/
def cctemp : Nat := if Config.variantE then 383 else 378

/-- Where a feature may be set: 0 as the feature says, else the status that refuses it. -/
def featureRefusal (fid : Nat) (k : CtrlKind) : Option Status :=
  let mgr := k = .manager ∨ k = .sideband
  if fid = 2 ∨ fid = 4 ∨ fid = 0x0C then if mgr then none else some (1, 0x0E)
  else if fid = 7 ∨ fid = 0x0A then if k = .slice then none else some (0, 2)
  else if fid = 0x0E then some (1, 0x0E)
  else none

/-- A Set Features of one identifier: opcode and PSDT, SV, then where it may be set. -/
def State.setFeature (s : State) (q : Src) (e : Sqe) (fid : Nat) (body : State → State) : State :=
  if e.cdw10.toNat % 256 ≠ fid then s
  else s.adminCmd q e 9 onAll fun s =>
    if e.cdw10.getLsbD 31 then s.fail q e.cid 1 0x0D
    else match featureRefusal fid (q.kind s) with
      | some (t, c) => s.fail q e.cid t c
      | none => body s

/-- Set a feature of the sender's controller and complete with Success. -/
def State.putFeature (s : State) (q : Src) (e : Sqe) (f : Features → Features) : State :=
  (s.modCtrl (s.srcCtrl q) fun c => { c with feat := f c.feat }).succeed q e.cid

/-- SET_FEATURES_ARBITRATION (R80, R53). -/
def execSetFeaturesArbitration (q : Src) (e : Sqe) (s : State) : Host.Outcome State Fault Refusal :=
  .next (s.setFeature q e 1 fun s => s.putFeature q e fun f => { f with ab := e.cdw11.truncate 3 })

/-- SET_FEATURES_POWER_MANAGEMENT (R80 to R82): a state above PS4 is an invalid field; PS3 and PS4 are entered
by POWER_STATE_ENTRY once no command is outstanding. -/
def execSetFeaturesPowerManagement (q : Src) (e : Sqe) (s : State) : Host.Outcome State Fault Refusal :=
  .next (s.setFeature q e 2 fun s =>
    let n := e.cdw11.toNat % 32
    if 4 < n then s.fail q e.cid 0 scInvalidField
    else
      let s := if n < 3 then s.setPs n
        else { s with dev := { s.dev with psNext := some n } }
      s.succeed q e.cid)

/-- SET_FEATURES_TEMPERATURE_THRESHOLD (R80): CDW11 TMPTH [15:0], TMPSEL [19:16], THSEL [21:20]; the composite
temperature alone. -/
def execSetFeaturesTemperatureThreshold (q : Src) (e : Sqe) (s : State) : Host.Outcome State Fault Refusal :=
  .next (s.setFeature q e 4 fun s =>
    let t := e.cdw11.toNat % 65536
    let sel := e.cdw11.toNat / 65536 % 16
    let th := e.cdw11.toNat / 2 ^ 20 % 4
    if (sel ≠ 0 ∧ sel ≠ 15) ∨ 1 < th then s.fail q e.cid 0 scInvalidField
    else
      let s := if th = 0 then { s with dev := { s.dev with tOver := some t } }
        else { s with dev := { s.dev with tUnder := t } }
      s.succeed q e.cid)

/-- SET_FEATURES_ERROR_RECOVERY (R80): DULBE is refused. -/
def execSetFeaturesErrorRecovery (q : Src) (e : Sqe) (s : State) : Host.Outcome State Fault Refusal :=
  .next (s.setFeature q e 5 fun s =>
    if e.cdw11.getLsbD 16 then s.fail q e.cid 0 scInvalidField
    else s.putFeature q e fun f => { f with tler := e.cdw11.truncate 16 })

/-- SET_FEATURES_NUMBER_OF_QUEUES (R51). -/
def execSetFeaturesNumberOfQueues (q : Src) (e : Sqe) (s : State) : Host.Outcome State Fault Refusal :=
  .next (s.setFeature q e 7 fun s =>
    let i := s.srcCtrl q
    let c := s.ctrl i
    let most := ((ctrlSlice i).map fun sl => (s.slice sl).qpairs).getD 0
    if c.sqs.any (fun p => p.1 ≠ 0) || c.cqs.any fun p => p.1 ≠ 0 then s.fail q e.cid 0 scSequence
    else
      let freeS := s.host.poolSq + c.grantSq
      let freeC := s.host.poolCq + c.grantCq
      let gs := min (min (e.cdw11.toNat % 65536 + 1) most) freeS
      let gc := min (min (e.cdw11.toNat / 65536 + 1) most) freeC
      if gs = 0 ∨ gc = 0 ∨ e.cdw11.toNat % 65536 = 65535 ∨ e.cdw11.toNat / 65536 = 65535 then
        s.fail q e.cid 0 scInvalidField
      else
        let s := { s with host := { s.host with poolSq := freeS - gs, poolCq := freeC - gc } }
        (s.modCtrl i fun c => { c with grantSq := gs, grantCq := gc }).complete q e.cid 0 0
          (BitVec.ofNat 32 (gs - 1 + 65536 * (gc - 1))) 0)

/-- SET_FEATURES_INTERRUPT_COALESCING (R80): THR [7:0], TIME [15:8]. -/
def execSetFeaturesInterruptCoalescing (q : Src) (e : Sqe) (s : State) : Host.Outcome State Fault Refusal :=
  .next (s.setFeature q e 8 fun s =>
    s.putFeature q e fun f => { f with thr := e.cdw11.truncate 8, time := e.cdw11.extractLsb' 8 8 })

/-- Vectors of a controller (R52). -/
def State.vectors (_s : State) (i : Nat) : Nat := if (ctrlSlice i).isSome then 64 else 1

/-- SET_FEATURES_INTERRUPT_VECTOR_CONFIG (R80): IV [15:0], CD [16]. -/
def execSetFeaturesInterruptVectorConfig (q : Src) (e : Sqe) (s : State) : Host.Outcome State Fault Refusal :=
  .next (s.setFeature q e 9 fun s =>
    let v := e.cdw11.toNat % 65536
    if s.vectors (s.srcCtrl q) ≤ v then s.fail q e.cid 0 scInvalidField
    else s.putFeature q e fun f => { f with cd := if e.cdw11.getLsbD 16 then insNat v f.cd else delNat v f.cd })

/-- SET_FEATURES_WRITE_ATOMICITY (R80): DN [0]. -/
def execSetFeaturesWriteAtomicity (q : Src) (e : Sqe) (s : State) : Host.Outcome State Fault Refusal :=
  .next (s.setFeature q e 0x0A fun s => s.putFeature q e fun f => { f with dn := e.cdw11.getLsbD 0 })

/-- SET_FEATURES_ASYNC_EVENT_CONFIG (R61, R72, R80, R86): critical warnings [7:0] and the notices of OAES [9:8]; the other
bits are ignored. -/
def execSetFeaturesAsyncEventConfig (q : Src) (e : Sqe) (s : State) : Host.Outcome State Fault Refusal :=
  .next (s.setFeature q e 0x0B fun s => s.putFeature q e fun f => { f with aec := e.cdw11 &&& 0x3FF#32 })

/-- Entry `k` of an APST table: 8 bytes, ITPS in [7:3] and ITPT in [31:8]. -/
def apstWord (data : List Byte) (k : Nat) : Nat := leNat ((data.drop (8 * k)).take 8)
def apstEntry (data : List Byte) (k : Nat) : Nat × Nat := (apstWord data k / 8 % 32, apstWord data k / 256 % 2 ^ 24)

/-- SET_FEATURES_APST (R61, R83): entries 5 to 31 must be zero in every bit, and an ITPS must name PS3 or PS4, but for an
entry without a transition, which holds 0 and 0. -/
def execSetFeaturesApst (q : Src) (e : Sqe) (data : List Byte) (s : State) : Host.Outcome State Fault Refusal :=
  .next (s.setFeature q e 0x0C fun s =>
    let t := (List.range 32).map (apstEntry data)
    if adminPrpBad e 256 then s.fail q e.cid 0 scPrpOffset
    else if ((List.range 32).drop 5).any (fun k => apstWord data k ≠ 0)
        || (t.take 5).any fun x => x ≠ (0, 0) ∧ (x.1 < 3 ∨ 4 < x.1) then
      s.fail q e.cid 0 scInvalidField
    else (({ s with dev := { s.dev with apste := e.cdw11.getLsbD 0, apst := t } }).moved q e.cid false 256).succeed
      q e.cid)

/-- SET_FEATURES_TIMESTAMP (R80, R118): Feature Not Changeable everywhere. -/
def execSetFeaturesTimestamp (q : Src) (e : Sqe) (s : State) : Host.Outcome State Fault Refusal :=
  .next (s.setFeature q e 0x0E fun s => s.fail q e.cid 1 0x0E)

/-- The bytes of the Timestamp feature (R118): milliseconds in 48 bits, Synch, Timestamp Origin. -/
def State.timestamp (s : State) : List Byte :=
  let t := s.time.pier.toNat * 1000 + s.time.span
  leBytes 6 t ++ [BitVec.ofNat 8 ((if s.time.hold then 1 else 0) + (if s.time.origin then 2 else 0)), 0]

/-- The bytes of the APST table. -/
def apstBytes (t : List (Nat × Nat)) : List Byte := t.flatMap fun x => leBytes 8 (x.1 * 8 + x.2 * 256)

/-- Dword 0 of Get Features, by identifier: the current value, or the default for Select 001b. -/
def State.featureDw0 (s : State) (q : Src) (fid : Nat) (e : Sqe) (dflt : Bool) : Nat :=
  let c := s.ctrl (s.srcCtrl q)
  let f := if dflt then {} else c.feat
  if fid = 1 then f.ab.toNat
  else if fid = 2 then if dflt then 0 else s.dev.ps
  else if fid = 4 then
    if e.cdw11.toNat / 2 ^ 20 % 4 = 1 then (if dflt then 0 else s.dev.tUnder)
    else if dflt then wctemp else s.dev.tOver.getD wctemp
  else if fid = 5 then f.tler.toNat
  else if fid = 7 then if dflt then 0 else (c.grantSq - 1) + 65536 * (c.grantCq - 1)
  else if fid = 8 then f.thr.toNat + 256 * f.time.toNat
  else if fid = 9 then
    let v := e.cdw11.toNat % 65536
    v + (if f.cd.contains v then 65536 else 0)
  else if fid = 0x0A then if f.dn then 1 else 0
  else if fid = 0x0B then f.aec.toNat
  else if fid = 0x0C then if dflt || s.dev.apste then 1 else 0
  else 0

/-- The features of R80. -/
def featureKnown (fid : Nat) : Bool := [1, 2, 4, 5, 7, 8, 9, 0x0A, 0x0B, 0x0C, 0x0E].contains fid

/-- What Select 011b reports of a feature: changeable on this controller, not namespace specific, not
saveable. -/
def featureCaps (fid : Nat) (k : CtrlKind) : Nat := if (featureRefusal fid k).isNone then 4 else 0

/-- GET_FEATURES (R80, R118). -/
def execGetFeatures (q : Src) (e : Sqe) (s : State) : Host.Outcome State Fault Refusal :=
  .next (s.adminCmd q e 0x0A onAll fun s =>
    let fid := e.cdw10.toNat % 256
    let sel := e.cdw10.toNat / 256 % 8
    let k := q.kind s
    if !featureKnown fid || 3 < sel || ((fid = 7 || fid = 0x0A) && k ≠ .slice) then
      s.fail q e.cid 0 scInvalidField
    else if sel = 3 then s.complete q e.cid 0 0 (BitVec.ofNat 32 (featureCaps fid k)) 0
    else if fid = 9 ∧ s.vectors (s.srcCtrl q) ≤ e.cdw11.toNat % 65536 then s.fail q e.cid 0 scInvalidField
    else
      let d := sel = 1
      let dw := BitVec.ofNat 32 (s.featureDw0 q fid e d)
      if fid = 0x0C ∨ fid = 0x0E then
        let bytes := if fid = 0x0E then (if d then List.replicate 8 0 else s.timestamp)
          else apstBytes (if d then ({} : Device).apst else s.dev.apst)
        if adminPrpBad e bytes.length then s.fail q e.cid 0 scPrpOffset
        else ((s.sendTo q e.dptr (Data.ofBytes bytes)).moved q e.cid true bytes.length).complete q e.cid 0 0 dw 0
      else s.complete q e.cid 0 0 dw 0)

/-- INTERRUPT_AGGREGATION_TIME_EXPIRY (R80, feature 08h): the completions aggregated on a vector raise it. -/
def execInterruptAggregationTimeExpiry (ctrl vector : Nat) (s : State) : Host.Outcome State Fault Refusal :=
  .next (if Tbl.getD (s.ctrl ctrl).coal vector 0 = 0 then s
    else (s.modCtrl ctrl fun c => { c with coal := Tbl.set c.coal vector 0 }).raiseMsi ctrl vector)

end Sys2Proof.Machine
end

