-- ==== Sys2Proof/Machine/EngineOps.lean ====
section
/-! DEFINITION. Engine contexts, the queues of the engine classes and the choice of the next job
(R360 to R374). What a job computes is in Machine/Engines.lean. -/

namespace Sys2Proof.Machine

/-! ## Contexts (R361) -/

/-- The class of a context number. -/
def ctxClass (n : Nat) : EngineClass :=
  if n % 32 < 8 then .crucible else if n % 32 < 16 then .assay else .cipher

/-- The run that holds context `n` of a core: contexts 0 to 31 belong to the core's run. -/
def State.ctxRun (s : State) (c n : Nat) : Option Nat := if n < 32 then (s.core c).run else none

/-- Context `n` of a run, or of the core where no run holds it. -/
def State.ctxOf (s : State) (c : Nat) (run : Option Nat) (n : Nat) : EngCtx :=
  match run.bind s.runAt with
  | some r => Tbl.getD r.eng n {}
  | none => Tbl.getD (s.core c).eng n {}

/-- Replace a context. -/
def State.setCtxOf (s : State) (c : Nat) (run : Option Nat) (n : Nat) (x : EngCtx) : State :=
  match run with
  | some i =>
    match s.runAt i with
    | some r => s.setRun i { r with eng := Tbl.set r.eng n x }
    | none => s
  | none => s.modCore c fun k => { k with eng := Tbl.set k.eng n x }

/-! ## Descriptors (R363) -/

/-- The bytes of a descriptor. -/
def descBytes (d : Vector W64 8) : List Byte := d.toList.flatMap fun w => leBytes 8 w.toNat

/-- The fields of a descriptor. -/
structure Desc where
  src : Nat
  dst : Nat
  aux : Nat
  srcLen : Nat
  dstLen : Nat
  auxLen : Nat
  op : Nat
  flags : Nat
  param : Nat
  keyslot : Nat
  chkexp : Nat
  /-- A byte that must be 0 is not. -/
  dirty : Bool
  deriving DecidableEq, Repr

/-- Read the fields of a descriptor. -/
def readDesc (d : Vector W64 8) : Desc :=
  let w (i : Nat) : Nat := (d.toList.getD i 0).toNat
  { src := w 0, dst := w 1, aux := w 2
    srcLen := w 3 % 2 ^ 32, dstLen := w 3 / 2 ^ 32
    auxLen := w 4 % 2 ^ 32, op := w 4 / 2 ^ 32 % 2 ^ 16
    flags := w 4 / 2 ^ 48 % 256, param := w 4 / 2 ^ 56
    keyslot := w 5 % 2 ^ 16, chkexp := w 6 % 2 ^ 32
    dirty := w 5 / 2 ^ 16 ≠ 0 || w 6 / 2 ^ 32 ≠ 0 || w 7 ≠ 0 }

/-- FIRST, LAST, VERIFY and CHKIN of FLAGS. -/
def Desc.first (d : Desc) : Bool := bitOf d.flags 0
def Desc.last (d : Desc) : Bool := bitOf d.flags 1
def Desc.verify (d : Desc) : Bool := bitOf d.flags 2
def Desc.chkin (d : Desc) : Bool := bitOf d.flags 3

/-! ## Units and the choice of a job (R371, R81) -/

/-- Units of a class that are built (R360). -/
def classUnits : EngineClass → Nat
  | .crucible => 16
  | .assay => 8
  | .cipher => 8
  | .softDecoder => 12

/-- The units of a class. -/
def Engines.units (g : Engines) : EngineClass → Tbl EngUnit
  | .crucible => g.crucible
  | .assay => g.assay
  | .cipher => g.cipher
  | .softDecoder => g.soft

/-- Replace a unit. -/
def Engines.setUnit (g : Engines) (cls : EngineClass) (u : Nat) (x : EngUnit) : Engines :=
  match cls with
  | .crucible => { g with crucible := Tbl.set g.crucible u x }
  | .assay => { g with assay := Tbl.set g.assay u x }
  | .cipher => { g with cipher := Tbl.set g.cipher u x }
  | .softDecoder => { g with soft := Tbl.set g.soft u x }

/-- A unit of a class. -/
def State.unit (s : State) (cls : EngineClass) (u : Nat) : EngUnit := Tbl.getD (s.cpu.engines.units cls) u {}

/-- Replace a unit. -/
def State.setUnit (s : State) (cls : EngineClass) (u : Nat) (x : EngUnit) : State :=
  { s with cpu := { s.cpu with engines := s.cpu.engines.setUnit cls u x } }

/-- The power state clock-gates a unit (R81): crucible engines 8 to 15 in PS1; crucible engines 2 to 15
and assay lanes 2 to 7 in PS2; every engine in PS3 and PS4. -/
def clockGated (ps : Nat) (cls : EngineClass) (u : Nat) : Bool :=
  match cls with
  | .softDecoder => false
  | .crucible => (ps = 1 && 8 ≤ u) || (ps = 2 && 2 ≤ u) || 3 ≤ ps
  | .assay => (ps = 2 && 2 ≤ u) || 3 ≤ ps
  | .cipher => 3 ≤ ps

/-- The throttle level clock-gates a unit (R563). -/
def levelGated (level : Nat) (cls : EngineClass) (u : Nat) : Bool :=
  match cls with
  | .crucible => ((level = 1 || level = 2) && 8 ≤ u) || (3 ≤ level && 2 ≤ u)
  | .assay => 3 ≤ level && 2 ≤ u
  | _ => false

/-- The balance that ranks a slice's job (R371 rule 3): the compute balance for a run. -/
def State.reqBalance (s : State) (q : EngReq) : Int :=
  match q.slice with
  | some sl => if q.run.isSome then (s.slice sl).balCore else (s.slice sl).balFlash
  | none => 0

/-- `p` goes before `q` at an engine whose last winner is `last` (R371). -/
def State.reqBefore (s : State) (last : Nat) (p q : EngReq) : Bool :=
  if p.aged ≠ q.aged then p.aged
  else if p.svc ≠ q.svc then p.svc < q.svc
  else match p.slice, q.slice with
    | some a, some b =>
      if s.reqBalance p ≠ s.reqBalance q then s.reqBalance q < s.reqBalance p
      else (a + 1024 - last - 1) % 1024 < (b + 1024 - last - 1) % 1024
    | some _, none => true
    | _, _ => false

/-- The job an engine picks from those waiting for its class; of equals, the earliest. -/
def State.pickReq (s : State) (cls : EngineClass) (last : Nat) : Option EngReq :=
  (s.cpu.engines.queue.filter fun q => q.cls = cls).foldl (fun best q =>
    match best with
    | none => some q
    | some b => if s.reqBefore last q b then some q else some b) none

/-- Two requests name the same job. -/
def EngReq.is (p q : EngReq) : Bool := p.core = q.core && p.ctx = q.ctx && p.run = q.run

/-- The key slot a cipher pool job names, as its requester may use it: generation and key. A run's slice
owns slots of classes 1h and 2h, the device those of class 8h (R382, R434). -/
def State.jobKey (s : State) (q : EngReq) (d : Desc) : Option (W16 × Nat) :=
  match Tbl.get? s.hm.slots d.keyslot with
  | none => none
  | some k =>
    let ok : Bool := match q.slice with
      | some sl => k.owner = .slice sl && k.cls = (if 0x44 ≤ d.op then 2 else 1)
      | none => k.owner = .device && k.cls = 8 && d.op < 0x44
    if ok then some (Tbl.getD s.hm.gens d.keyslot 0, k.key) else none

/-- A cipher pool job takes its key and generation at its start; at each restore, of the job or of its
open message, another generation or an empty slot fails it (R437). -/
def State.takeKey (s : State) (q : EngReq) (k : EngCtx) (j : EngJob) : EngJob :=
  if q.cls ≠ .cipher then { j with begun := true }
  else
    let d := readDesc j.desc
    let now := s.jobKey q d
    let old := if j.begun then j.held.map (·.1) else if d.first then none else k.msg.map (·.gen)
    { j with
      begun := true
      held := if j.begun then j.held else now
      keyBad := match now, old with
        | none, _ => true
        | some n, some g => n.1 ≠ g
        | some _, none => false }

/-- A unit takes up a job: it leaves the queue (R371), and a cipher pool engine latches its key (R436, R437). -/
def State.startJob (s : State) (cls : EngineClass) (u : Nat) (q : EngReq) : State :=
  let x := s.unit cls u
  let s := s.setUnit cls u { x with running := some q, lastWinner := q.slice.getD x.lastWinner }
  let s := { s with cpu := { s.cpu with engines := { s.cpu.engines with
    queue := s.cpu.engines.queue.filter fun p => !p.is q } } }
  let k := s.ctxOf q.core q.run q.ctx
  let job := k.job.map (s.takeKey q k)
  let s := match cls, job.bind fun j => j.held.map fun h => ((readDesc j.desc).keyslot, h) with
    | .cipher, some r => s.setUnit cls u { s.unit cls u with keyReg := some r }
    | _, _ => s
  s.setCtxOf q.core q.run q.ctx { k with job := job }

/-- The power state of the device: defined with the power chapter's state. -/
def State.powerState (s : State) : Nat := s.dev.ps

/-- A unit takes jobs: in service, not under test, not clock-gated, idle. -/
def State.unitFree (s : State) (cls : EngineClass) (u : Nat) : Bool :=
  let x := s.unit cls u
  x.inService && !x.testing && x.running.isNone && !clockGated s.powerState cls u && !levelGated s.dev.level cls u

/-- Every free unit of a class, lowest first, picks its next job (R371). -/
def State.dispatchJobs (s : State) (cls : EngineClass) : State :=
  (List.range (classUnits cls)).foldl (fun s u =>
    if s.unitFree cls u then
      match s.pickReq cls (s.unit cls u).lastWinner with
      | some q => s.startJob cls u q
      | none => s
    else s) s

/-! ## ENG.GO and ENG.CTL (R364, R366) -/

/-- An exchange on ENG.GO: the reply, and the job taken. The bytes of host ranges come with it; a
missing byte is a free value when the job ends. -/
def State.engGo (s : State) (c n : Nat) (input aux : List Byte) : Nat × State :=
  let run := s.ctxRun c n
  let k := s.ctxOf c run n
  if k.busy then (1, s)
  else
    let d := readDesc k.desc
    let s := s.setCtxOf c run n { k with
      busy := true, abort := false, job := some { desc := k.desc, input := input, aux := aux } }
    let slice := (run.bind s.runAt).map (·.slice)
    let s := match slice with
      | some sl => s.meterUp sl fun m =>
          match ctxClass n with
          | .crucible => { m with crucible := m.crucible + d.srcLen }
          | .cipher => { m with keyOps := m.keyOps + 1 }
          | _ => m
      | none => s
    let q : EngReq := { cls := ctxClass n, core := c, ctx := n, run := run, svc := 2, slice := slice }
    let s := { s with cpu := { s.cpu with engines := { s.cpu.engines with
      queue := s.cpu.engines.queue ++ [q] } } }
    (0, s.dispatchJobs (ctxClass n))

/-- A write of ENG.CTL: CLOSE unless BUSY, ABORT only while BUSY. -/
def State.engCtl (s : State) (c n : Nat) (v : Nat) : State :=
  let run := s.ctxRun c n
  let k := s.ctxOf c run n
  s.setCtxOf c run n { k with
    opn := if bitOf v 1 && !k.busy then false else k.opn
    msg := if bitOf v 1 && !k.busy then none else k.msg
    abort := k.abort || (bitOf v 0 && k.busy) }

end Sys2Proof.Machine
end

