-- ==== Sys2Proof/Machine/Ports.lean ====
section
/-! DEFINITION. The I/O space of a core: the core control block, the run information and the windows
of the engine contexts (R354 to R358, R362). -/

namespace Sys2Proof.Machine

/-- The kinds of port access. -/
inductive PortOp where
  | inp | out | iox
  deriving DecidableEq, Repr

/-- A port of the I/O space once found (R354). -/
inductive PortReg where
  | ctl (off : Nat)
  | run (off : Nat)
  | eng (ctx off : Nat)
  deriving DecidableEq, Repr

/-- Width in bytes of a port of the core control block (R355), none where there is no port. -/
def ctlWidth (off : Nat) : Option Nat :=
  if off = 0x00 ∨ off = 0x08 ∨ off = 0x10 ∨ off = 0x20 ∨ off = 0x48 ∨ off = 0x50 ∨ off = 0x58 then some 8
  else if off = 0x18 ∨ off = 0x1C ∨ off = 0x28 ∨ off = 0x2C ∨ off = 0x30 ∨ off = 0x40 ∨ off = 0x44 then some 4
  else if 0x80 ≤ off ∧ off < 0x100 ∧ off % 8 = 0 then some 8
  else none

/-- Width and allowed operations of a port of an engine window (R362). -/
def engPort (off : Nat) : Option (Nat × List PortOp) :=
  if off < 0x40 ∧ off % 8 = 0 then some (8, [.inp, .out])
  else if off = 0x40 then some (8, [.iox])
  else if off = 0x48 then some (4, [.inp])
  else if off = 0x4C then some (4, [.inp, .out])
  else if off = 0x50 ∨ off = 0x58 then some (8, [.inp])
  else none

/-- The checks of a port access: the port exists, its width and operation fit, and the mode may use it
(R319, R354, R357, R358, R362). -/
def portFind (s : State) (c : Nat) (port z : Nat) (op : PortOp) : Option PortReg :=
  let sup := (s.core c).sup
  if port < 0x100 then
    if sup && ctlWidth port = some z && op ≠ .iox then some (.ctl port) else none
  else if 0x10000 ≤ port ∧ port < 0x20000 then
    let n := (port - 0x10000) / 0x400
    let off := (port - 0x10000) % 0x400
    match engPort off with
    | some (w, ops) =>
      if w = z ∧ ops.contains op ∧ (sup ∨ (n < 32 ∧ (s.core c).run.isSome)) then some (.eng n off) else none
    | none => none
  else if port = 0x20000 ∨ port = 0x20004 then
    if z = 4 ∧ op = .inp then some (.run (port - 0x20000)) else none
  else if port = 0x20008 then
    if z = 8 ∧ op = .inp then some (.run 8) else none
  else none

/-- The check as an exception: I/O Fault with the port address (R331). -/
def portCheck (s : State) (c : Nat) (port z : Nat) (op : PortOp) : Except Exc PortReg :=
  match portFind s c port z op with
  | some p => .ok p
  | none => .error { num := excIo, addr := BitVec.ofNat 64 port }

/-- OC.STAT (R356). -/
def OpCache.stat (o : OpCache) : Nat :=
  (o.lines.filter fun l => l.2.dirty ≠ 0).length * 4096 + o.lines.length * 64 + (if o.wberr then 1 else 0)

/-- The value of a port of the core control block (R355, R356, R359). -/
def ctlRead (k : Core) (off : Nat) : Nat :=
  let rat (i : Nat) : RatEntry := k.oc.rat.toList.getD i {}
  if off = 0x00 then k.ctl.vbase.toNat * 512
  else if off = 0x08 then k.ctl.epc.toNat
  else if off = 0x10 then k.ctl.est.toNat
  else if off = 0x18 then (if k.ctl.slot then 0x10000 else 0) + k.ctl.code.toNat * 256 + k.ctl.num.toNat
  else if off = 0x1C then (if k.ctl.exl then 1 else 0)
  else if off = 0x20 then k.ctl.eaddr.toNat
  else if off = 0x28 then k.ctl.ibase.toNat * 8
  else if off = 0x2C then k.ctl.ilim.toNat * 8
  else if off = 0x30 then k.ctl.wdt.toNat
  else if off = 0x40 then (if k.oc.drain then 2 else 0) + (if k.oc.en then 1 else 0)
  else if off = 0x44 then k.oc.stat
  else if off = 0x48 then k.oc.user.toNat
  else if off = 0x50 then k.oc.supv.toNat
  else if off = 0x58 then k.oc.strm.toNat
  else if off % 16 = 0 then (rat ((off - 0x80) / 16)).base.toNat * 4096 + (rat ((off - 0x80) / 16)).pol.toNat
  else (rat ((off - 0x80) / 16)).limit.toNat * 4096

/-- The run information (R357): core-spans charged with the current span, the core, the time. -/
def runInfo (s : State) (c off : Nat) : Nat :=
  if off = 0 then ((s.runOn c).map (·.spans)).getD 0 % 2 ^ 32
  else if off = 4 then c / 9 * 16 + c % 9
  else (s.time.pier.toNat * 1000 + s.time.span) % 2 ^ 64

/-- ENG.STAT (R365). -/
def EngCtx.stat (k : EngCtx) : Nat :=
  k.code.toNat * 256 + (if k.opn then 2 else 0) + (if k.busy then 1 else 0)

/-- Read a port. -/
def portIn (s : State) (c : Nat) (p : PortReg) : Nat :=
  match p with
  | .ctl off => ctlRead (s.core c) off
  | .run off => runInfo s c off
  | .eng n off =>
    let k := s.ctxOf c (s.ctxRun c n) n
    if off < 0x40 then (k.desc.toList.getD (off / 8) 0).toNat
    else if off = 0x48 then k.stat
    else if off = 0x50 then k.out.toNat
    else if off = 0x58 then k.check.toNat
    else 0

/-- A write of OC.EN (R351): 1 to 0 begins a drain; refused while a drain is in progress. -/
def State.ocEn (s : State) (c : Nat) (v : Nat) : State :=
  s.modOc c fun o =>
    if o.drain then o
    else if bitOf v 0 then { o with en := true }
    else if o.en then { o with drain := true }
    else o

/-- A write of a mask (R345): an entry left in no mask is written back and invalidated. Port 48h, 50h
or 58h. -/
def State.ocMask (s : State) (c off : Nat) (v : Nat) : State :=
  let s := s.modOc c fun o =>
    if off = 0x48 then { o with user := BitVec.ofNat 48 v }
    else if off = 0x50 then { o with supv := BitVec.ofNat 48 v }
    else { o with strm := BitVec.ofNat 48 v }
  let m := (s.core c).oc.user ||| (s.core c).oc.supv ||| (s.core c).oc.strm
  (List.range 48).foldl (fun s i => if m.getLsbD i then s else (s.writeBack c i).invalidate c i) s

/-- A write of a port of the core control block (R355, R356). -/
def State.ctlWrite (s : State) (c off : Nat) (v : Nat) : State :=
  let ctl (f : CoreCtl → CoreCtl) : State := s.modCore c fun k => { k with ctl := f k.ctl }
  let rat (f : RatEntry → RatEntry) : State := s.modOc c fun o =>
    { o with rat := o.rat.mapIdx fun i e => if i = (off - 0x80) / 16 then f e else e }
  if off = 0x00 then ctl fun x => { x with vbase := BitVec.ofNat 55 (v / 512) }
  else if off = 0x08 then ctl fun x => { x with epc := BitVec.ofNat 64 v }
  else if off = 0x10 then ctl fun x => { x with est := BitVec.ofNat 64 v }
  else if off = 0x18 then ctl fun x =>
    { x with slot := bitOf v 16, code := BitVec.ofNat 8 (v / 256), num := BitVec.ofNat 8 v }
  else if off = 0x1C then ctl fun x => { x with exl := bitOf v 0 }
  else if off = 0x20 then ctl fun x => { x with eaddr := BitVec.ofNat 64 v }
  else if off = 0x28 then ctl fun x => { x with ibase := BitVec.ofNat 17 (v / 8) }
  else if off = 0x2C then ctl fun x => { x with ilim := BitVec.ofNat 18 (v / 8) }
  else if off = 0x30 then
    if v % 2 ^ 24 = 0 then s else ctl fun x => { x with wdt := BitVec.ofNat 24 v }
  else if off = 0x40 then s.ocEn c v
  else if off = 0x44 then s.modOc c fun o => { o with wberr := o.wberr && !bitOf v 0 }
  else if off = 0x48 ∨ off = 0x50 ∨ off = 0x58 then s.ocMask c off v
  else if off % 16 = 0 then
    if 5 ≤ v % 8 then s
    else rat fun e => { e with base := BitVec.ofNat 52 (v / 4096), pol := BitVec.ofNat 3 v }
  else rat fun e => { e with limit := BitVec.ofNat 52 (v / 4096) }

/-- Write a port. -/
def portOut (s : State) (c : Nat) (p : PortReg) (v : Nat) : State :=
  match p with
  | .ctl off => s.ctlWrite c off v
  | .run _ => s
  | .eng n off =>
    if off = 0x4C then s.engCtl c n v
    else
      let run := s.ctxRun c n
      let k := s.ctxOf c run n
      s.setCtxOf c run n { k with desc := k.desc.mapIdx fun i x => if i = off / 8 then BitVec.ofNat 64 v else x }

/-- One exchange: only ENG.GO takes one; the value sent is ignored (R364). -/
def portIox (s : State) (c : Nat) (p : PortReg) : Nat × State :=
  match p with
  | .eng n _ => s.engGo c n [] []
  | _ => (0, s)

end Sys2Proof.Machine
end

