-- ==== Sys2Proof/Machine/Exception.lean ====
section
/-! DEFINITION. Taking an exception and returning from one, delivery to a billet handler, and the ends
of a run (R247 to R250, R330 to R342, R374). -/

namespace Sys2Proof.Machine

/-! ## Entry and return (R331, R332) -/

/-- CORE.VBASE as an address. -/
def CoreCtl.vaddr (x : CoreCtl) : W64 := x.vbase ++ (0 : BitVec 9)

/-- Exception entry (R331): EPC, EST, ECAUSE and EADDR are saved; ST.S and EXL become 1, DIR and RP 0;
the pc goes to the vector; the watchdog restarts (R338). -/
def State.enterExc (s : State) (c : Nat) (e : Exc) : State :=
  s.modCore c fun k => { k with
    ctl := { k.ctl with
      epc := k.ctx.pc, est := k.st, slot := e.slot, code := BitVec.ofNat 8 e.code
      num := BitVec.ofNat 8 e.num, eaddr := e.addr, exl := true }
    sup := true
    wdCount := 0
    ctx := { k.ctx with
      pc := k.ctl.vaddr + BitVec.ofNat 64 (32 * e.num)
      regs := { k.ctx.regs with dir := false, rp := false } } }

/-- Return from exception (R332): PC from EPC, ST from EST, EXL cleared; the watchdog restarts (R338). -/
def State.rfe (s : State) (c : Nat) : State :=
  s.modCore c fun k => { k with
    ctl := { k.ctl with exl := false }
    sup := k.ctl.est.getLsbD 0
    wdCount := 0
    ctx := { k.ctx with
      pc := k.ctl.epc
      regs := { k.ctx.regs with dir := k.ctl.est.getLsbD 2, rp := k.ctl.est.getLsbD 1 } } }

/-! ## The end of a run -/

/-- Write back and empty the run's operand cache entries (R247, R255; log entry 8). -/
def State.flushCache (s : State) (c : Nat) : State :=
  let s := (List.range 48).foldl (fun s i => s.writeBack c i) s
  s.modOc c fun o => { o with lines := [], lost := [] }

/-- Each context is treated as if ABORT had been written, and open messages are closed (R374). -/
def abortCtx (k : EngCtx) : EngCtx := { k with abort := k.abort || k.busy, opn := false, msg := none }

/-- A run leaves its core for good with an outcome; the core falls to the billet runtime supervisor. -/
def State.endRun (s : State) (c i : Nat) (r : Run) (e : RunEnd) : State :=
  let s := s.flushCache c
  let s := s.modCore c fun k => { k with
    run := none, sup := true, ctl := { k.ctl with exl := false }, pendWd := false, pendSpan := false
    pendEng := false }
  s.setRun i { r with core := none, ended := some e, eng := Tbl.mapV r.eng fun _ => abortCtx }

/-- The 128-byte fault record (R249). -/
def faultRecord (r : Run) (k : Core) (cause : Nat) (pc addr word : W64) : List Byte :=
  let g := k.ctx.regs
  [1, BitVec.ofNat 8 cause, BitVec.ofNat 8 (r.bid + 16 * r.entry), 0]
    ++ leBytes 4 r.spans ++ leBytes 8 pc.toNat ++ leBytes 8 addr.toNat ++ leBytes 8 word.toNat
    ++ (g.a.toList.flatMap fun a => leBytes 8 a.toNat)
    ++ leBytes 8 g.lk.toNat ++ leBytes 8 g.bc.toNat ++ leBytes 8 k.st.toNat ++ leBytes 8 0

/-- The end of a run by Billet Fault (R249), from the core's state `k` at the fault. -/
def faultEnd (r : Run) (k : Core) (cause : Nat) (pc addr word : W64) : RunEnd :=
  let rec128 := 128 ≤ r.outLen
  { sct := 7, sc := 0x81, dw0 := cause + (if rec128 then 256 else 0), dw1 := 0
    output := if rec128 then Data.ofBytes (faultRecord r k cause pc addr word) else { len := 0, parts := [] } }

/-- The causes whose record carries an address (R249). -/
def addrCause (n : Nat) : Bool := n = 3 || n = 5 || n = 6 || n = 9

/-- The first instruction word at a core's PC; 0 where its fetch would fault (R249). -/
def State.wordAt (s : State) (c : Nat) : W64 :=
  match fetchFault s c (s.core c).ctx.pc, s.iOffset c (s.core c).ctx.pc.toNat with
  | none, some o => BitVec.ofNat 64 (leNat (Mem.read (s.forge (c / 9)).istore o 8))
  | _, _ => 0

/-- End the run on a core with Billet Fault. -/
def State.billetFault (s : State) (c i : Nat) (r : Run) (k : Core) (cause : Nat) (pc addr word : W64) : State :=
  s.endRun c i r (faultEnd r k cause pc (if addrCause cause then addr else 0) word)

/-- The data of a range that lies wholly in the bench, the cluster window or the local memory window. -/
def State.outRange (s : State) (c a n : Nat) : Option Data :=
  match s.place c a, s.place c (a + n - 1) with
  | some p, some q =>
    if !p.same q then none
    else match p with
      | .bench o => some { len := n, parts := Mem.parts (Mem.slice (s.core c).ctx.bench o n) }
      | .cluster o => some { len := n, parts := Mem.parts (Mem.slice (s.forge (c / 9)).cluster o n) }
      | .loc sl o => some { len := n, parts := Mem.parts (Mem.slice (s.localMem sl) o n) }
      | .host _ _ => none
  | _, _ => none

/-- Control reaches the exit address: the output is judged (R247). -/
def State.runExit (s : State) (c i : Nat) (r : Run) : State :=
  let k := s.core c
  let a0 := (k.ctx.regs.geta 0).toNat
  let a1 := (k.ctx.regs.geta 1).toNat
  let a2 := (k.ctx.regs.geta 2).toNat % 2 ^ 32
  let s := s.flushCache c
  if a1 = 0 then s.endRun c i r { sct := 0, sc := 0, dw0 := 0, dw1 := a2, output := { len := 0, parts := [] } }
  else match s.outRange c a0 a1 with
    | none => s.billetFault c i r k 0x21 k.ctx.pc 0 0
    | some d =>
      if r.outLen < a1 then
        s.endRun c i r { sct := 7, sc := 0x80, dw0 := a1 % 2 ^ 32, dw1 := 0, output := { len := 0, parts := [] } }
      else s.endRun c i r { sct := 0, sc := 0, dw0 := a1, dw1 := a2, output := d }

/-! ## Delivery to a billet handler (R339 to R341) -/

/-- The handler offset a billet declares for an exception. -/
def Billet.handler (b : Billet) (n : Nat) : Option Nat :=
  let i := if n = excData then some 0 else if n = excDivide then some 1
    else if n = excTrap then some 2 else if n = excBreakpoint then some 3 else none
  match i.bind fun i => b.handlers[i]? with
  | some h => if h = 0xFFFFFFFF then none else some h
  | none => none

/-- The exception frame (R339). -/
def excFrame (k : Core) (e : Exc) (len : Nat) : List Byte :=
  let g := k.ctx.regs
  let pc := k.ctx.pc
  let next := pc + BitVec.ofNat 64 len
  let resume := if e.num = excTrap ∨ e.num = excBreakpoint then next else pc
  let f (b : Bool) (v : Nat) : Nat := if b then v else 0
  [BitVec.ofNat 8 e.num, if e.num = excTrap then BitVec.ofNat 8 e.code else 0] ++ List.replicate 6 0
    ++ leBytes 8 pc.toNat ++ leBytes 8 next.toNat ++ leBytes 8 resume.toNat
    ++ leBytes 8 (if e.num = excData then e.addr.toNat else 0)
    ++ (g.a.toList.flatMap fun a => leBytes 8 a.toNat)
    ++ leBytes 8 g.lk.toNat ++ leBytes 8 g.bc.toNat ++ leBytes 8 g.bs.toNat ++ leBytes 8 g.bd.toNat
    ++ leBytes 8 g.bx.toNat ++ leBytes 8 (f g.dir 4 + f g.rp 2)
    ++ leBytes 8 (f k.ctx.z 1 + f k.ctx.n 2 + f k.ctx.c 4 + f k.ctx.v 8)

/-- The handler starts (R340): `k` is the core at the exception, `a` the frame's address, `h` the
handler's offset. -/
def State.startHandler (s : State) (c i : Nat) (r : Run) (k : Core) (e : Exc) (a h len : Nat) : State :=
  let s := (s.markWritten c (.bench a) 160).rawWrite c (.bench a) (excFrame k e len)
  let s := s.setRun i { r with handler := true, frame := a }
  let fa : W64 := BitVec.ofNat 64 a
  let a2 : W64 := if e.num = excTrap then BitVec.ofNat 64 e.code else if e.num = excData then e.addr else 0
  s.modCore c fun x => { x with
    sup := false
    ctl := { x.ctl with exl := false }
    ctx := { x.ctx with
      pc := BitVec.ofNat 64 h
      regs := { ((((x.ctx.regs.seta 0 fa).seta 7 fa).seta 1 (BitVec.ofNat 64 e.num)).seta 2 a2) with
        lk := resumeAddr, dir := false, rp := false } } }

/-- What the runtime does with an exception of a run: deliver it when R248 and R342 allow, else end the
run with Billet Fault. `k` is the core at the exception. -/
def State.runtimeTakes (s : State) (c i : Nat) (r : Run) (k : Core) (e : Exc) (len : Nat) (word : W64) : State :=
  let b := s.billetOf r
  let a7 := (k.ctx.regs.geta 7).toNat
  let fault := s.billetFault c i r k e.num k.ctx.pc e.addr word
  if r.handler then fault
  else if e.num = excData ∧ (e.ispace ∨ 0x40000 ≤ e.addr.toNat) then fault
  else match b.handler e.num with
    | none => fault
    | some h =>
      if a7 < 160 ∨ (a7 - 160) % 8 ≠ 0 ∨ b.benchSz < a7 then fault
      else s.startHandler c i r k e (a7 - 160) h len

/-- A synchronous exception (R331, R333): what stands stands; with EXL at 1 the core stops; else it is
entered, and the runtime delivers it or ends the run. `len` is the length of the instruction and `word`
its first word. -/
def State.takeSync (s : State) (c : Nat) (e : Exc) (len : Nat) (word : W64) : State :=
  let s := e.stands.getD s
  let k := s.core c
  if k.ctl.exl then s.modCore c fun x => { x with stopped := true }
  else
    let t := s.enterExc c e
    if k.sup then t
    else match k.run with
      | none => t
      | some i => match t.runAt i with
        | none => t
        | some r => t.runtimeTakes c i r k e len word

/-- Control reaches the resume address while a handler is active (R341). -/
def State.handlerResume (s : State) (c i : Nat) (r : Run) : State :=
  let fr (off : Nat) : W64 := BitVec.ofNat 64 (leNat (Mem.read (s.core c).ctx.bench (r.frame + off) 8))
  let s := s.setRun i { r with handler := false }
  s.modCore c fun k =>
    let g := { k.ctx.regs with
      a := Vector.ofFn fun j => fr (40 + 8 * j.val)
      lk := fr 104, bc := fr 112, bs := fr 120, bd := fr 128 }
    let g := g.setBx (fr 136)
    { k with
      sup := false
      wdCount := 0
      ctx := { k.ctx with
        regs := { g with dir := (fr 144).getLsbD 2, rp := (fr 144).getLsbD 1 }
        z := (fr 152).getLsbD 0, n := (fr 152).getLsbD 1, c := (fr 152).getLsbD 2, v := (fr 152).getLsbD 3
        pc := fr 24 } }

/-! ## Completion of an instruction -/

/-- A control transfer made `a` the next PC: the exit and resume addresses act in a run (R275, R341). -/
def State.arrive (s : State) (c : Nat) (a : W64) : State :=
  let s := s.modCtx c fun x => { x with pc := a }
  if (s.core c).sup then s
  else match (s.core c).run with
    | none => s
    | some i => match s.runAt i with
      | none => s
      | some r =>
        if a = exitAddr then s.runExit c i r
        else if a = resumeAddr ∧ r.handler then s.handlerResume c i r
        else s

/-- An instruction of `len` bytes has completed (R299, R338): the watchdog restarts in user mode; a
repeat counts BC down and goes on; a control transfer goes to its target. `rp` is ST.RP before the
instruction. -/
def State.finish (s : State) (c : Nat) (rp : Bool) (len : Nat) (target : Option W64) : State :=
  let s := s.modCore c fun k => if k.sup then k else { k with wdCount := 0 }
  let pc := (s.core c).ctx.pc
  let next := pc + BitVec.ofNat 64 len
  if rp then
    let bc := (s.core c).ctx.regs.bc - 1
    if bc = 0 then
      s.modCtx c fun x => { x with pc := next, regs := { x.regs with bc := bc, rp := false } }
    else s.modCtx c fun x => { x with regs := { x.regs with bc := bc } }
  else match target with
    | some a => s.arrive c a
    | none => s.modCtx c fun x => { x with pc := next }

/-- The core executes instructions: it is built, not halted and not stopped. -/
def State.coreRuns (s : State) (c : Nat) : Bool := c < builtCores && !(s.core c).halted && !(s.core c).stopped

end Sys2Proof.Machine
end

