-- ==== Sys2Proof/Machine/Engines.lean ====
section
/-! DEFINITION. The engine commands: what a crucible, assay or cipher pool job checks, computes, writes
and reports, switch boundaries and engine faults (chapter 12, R468, R469). -/

namespace Sys2Proof.Machine

/-! ## Where a job's ranges lie (R369) -/

/-- The place of an address for a job: the run's cluster window (as an offset in it), its slice's local
memory, or the host; for a runtime context, the cluster SRAM of its forge. -/
def State.jobPlace (s : State) (q : EngReq) (a : Nat) : Option Place :=
  match q.run.bind s.runAt with
  | none => if 0x100000000 ≤ a ∧ a < 0x100200000 then some (.cluster (a - 0x100000000)) else none
  | some r =>
    let b := s.billetOf r
    if 0x100000000 ≤ a ∧ a < 0x100000000 + b.clusterSz then some (.cluster (a - 0x100000000))
    else if 0x10000000000 ≤ a ∧ a < 0x10000000000 + 0x100000 * (s.slice r.slice).lmLimit then
      some (.loc r.slice (a - 0x10000000000))
    else if 0x8000000000000000 ≤ a ∧ a < 0x10000000000000000 ∧ b.fmt ≠ 1 then
      some (.host r.slice (a - 0x8000000000000000))
    else none

/-- A range lies wholly in one place; an empty range always does. -/
def State.jobRange (s : State) (q : EngReq) (a n : Nat) : Bool :=
  n = 0 || match s.jobPlace q a, s.jobPlace q (a + n - 1) with
    | some x, some y => x.same y
    | _, _ => false

/-- The base of a request's cluster window: the run's window, or the whole SRAM for a runtime context. -/
def State.jobCluster (s : State) (q : EngReq) : Nat :=
  match q.run.bind s.runAt with
  | some r => clusterBase (r.core.getD q.core)
  | none => 0

/-- The bytes of a range: from memory, or those read from the host with free values for missing ones. -/
def State.jobBytes (s : State) (q : EngReq) (a n : Nat) (given : List Byte) : List Byte :=
  match s.jobPlace q a with
  | some (.cluster o) =>
    match q.run.bind s.runAt with
    | some r => match r.core with
      | some c => Mem.read (s.forge (c / 9)).cluster (clusterBase c + o) n
      | none => Mem.read r.savedCl o n
    | none => Mem.read (s.forge (q.core / 9)).cluster o n
  | some (.loc sl o) => Mem.read (s.localMem sl) o n
  | _ => (given ++ s.freeBytes (n - given.length)).take n

/-- The 4 KiB pages of a range, added to a set of pages. -/
def addPages (l : List Nat) (o n : Nat) : List Nat :=
  if n = 0 then l else (List.range ((o + n - 1) / 4096 + 1 - o / 4096)).foldl (fun l i => insNat (o / 4096 + i) l) l

/-- Write a job's output. -/
def State.jobWrite (s : State) (q : EngReq) (a : Nat) (bs : List Byte) : State :=
  match s.jobPlace q a with
  | some (.cluster o) =>
    match q.run with
    | some i => match s.runAt i with
      | some r => match r.core with
        | some c =>
          (s.modCore c fun k => { k with wCluster := addPages k.wCluster o bs.length }).rawWrite c
            (.cluster (clusterBase c + o)) bs
        | none => s.setRun i { r with savedCl := Mem.write r.savedCl o bs }
      | none => s
    | none => s.rawWrite q.core (.cluster o) bs
  | some (.loc sl o) => s.localWrite sl o bs
  | some (.host sl o) =>
    (s.hostWrite sl o (Data.ofBytes bs)).meterUp sl fun m => { m with hostOut := m.hostOut + bs.length }
  | _ => s

/-- The bytes of a job's range that come from host memory are counted (R131). -/
def State.jobFetched (s : State) (q : EngReq) (a n : Nat) : State :=
  match s.jobPlace q a with
  | some (.host sl i) => (s.hostRead sl i n).meterUp sl fun m => { m with hostIn := m.hostIn + n }
  | _ => s

/-- Two ranges meet. -/
def meets (a n b m : Nat) : Bool := 0 < n && 0 < m && a < b + m && b < a + n

/-! ## The checks before a job reads any input (R367, codes 01h to 05h) -/

/-- OP codes of an engine class. -/
def opOfClass (cls : EngineClass) (op : Nat) : Bool :=
  match cls with
  | .crucible => 1 ≤ op && op ≤ 8
  | .assay => (0x21 ≤ op && op ≤ 0x26) || (0x28 ≤ op && op ≤ 0x2A)
  | .cipher => 0x41 ≤ op && op ≤ 0x45
  | .softDecoder => false

/-- A hash of the assay lanes, not a checksum. -/
def Desc.isHash (d : Desc) : Bool := 0x21 ≤ d.op && d.op ≤ 0x26

/-- BADOP (R363, R375, R380, R382). -/
def badOp (cls : EngineClass) (d : Desc) : Bool :=
  !opOfClass cls d.op || 16 ≤ d.flags || d.dirty || match cls with
    | .crucible => d.keyslot ≠ 0 ||
        (if d.op % 2 = 1 then d.chkin || 3 < d.param else d.verify || d.param ≠ 0)
    | .assay => d.auxLen ≠ 0 || d.param ≠ 0 || d.keyslot ≠ 0 || d.chkexp ≠ 0 || d.verify || d.chkin
    | _ => d.param ≠ 0 || d.verify || d.chkin || d.chkexp ≠ 0

/-- SEQ (R375, R381, R382). -/
def badSeq (cls : EngineClass) (k : EngCtx) (d : Desc) : Bool :=
  if cls = .crucible ∨ 0x44 ≤ d.op then !(d.first && d.last)
  else if d.first then k.opn
  else !k.opn || match k.msg with
    | some m => m.op ≠ d.op || m.keyslot ≠ d.keyslot
    | none => true

/-- Most auxiliary bytes of a crucible function (R375). -/
def auxLimit (op : Nat) : Nat :=
  if op ≤ 2 then 0x8000 else if op ≤ 4 then 0x100000 else if op ≤ 6 then 0x10000 else 0

/-- Bytes already in the open message. -/
def EngCtx.before (k : EngCtx) (d : Desc) : Nat := if d.first then 0 else (k.msg.map fun m => m.text.length).getD 0

/-- LENGTH (R363, R375, R380 to R383). -/
def badLength (cls : EngineClass) (k : EngCtx) (d : Desc) : Bool :=
  let total := k.before d + d.srcLen
  let tag := if d.op = 0x42 ∧ d.last then 16 else 0
  0x40000000 < d.srcLen || (0x40000000 < d.dstLen && !(cls = .assay && d.isHash && !d.last)) || match cls with
    | .crucible => auxLimit d.op < d.auxLen
    | .assay => (0x28 ≤ d.op && d.dstLen ≠ 0) || (if d.op = 0x21 then 2 ^ 61 - 1 else 2 ^ 64 - 1) < total
    | _ =>
      if 0x44 ≤ d.op then d.srcLen < 16 || 16777216 < d.srcLen || d.auxLen ≠ 16
      else (!d.last && d.srcLen % 16 ≠ 0) || (if d.op = 0x43 then 2 ^ 64 - 16 else 2 ^ 36 - 32) < total
        || (if d.op = 0x43 then d.auxLen ≠ (if d.first then 16 else 0)
            else if d.first then d.auxLen < 12 + tag || 12 + 16777216 + tag < d.auxLen
            else d.auxLen ≠ tag)

/-- ADDR (R369), with a translation known to be refused (R514). -/
def State.badAddr (s : State) (q : EngReq) (d : Desc) : Bool :=
  let dst := if q.cls = .assay ∧ d.isHash ∧ !d.last then 0 else d.dstLen
  let refused (a n : Nat) : Bool := match s.jobPlace q a with
    | some (.host sl o) => 0 < n && s.dev.ats.any fun x =>
        !x.ok && x.port = (s.slice sl).port && x.pasid = (s.slice sl).pasid && o / 4096 ≤ x.page
          && x.page ≤ (o + n - 1) / 4096
    | _ => false
  !s.jobRange q d.src d.srcLen || !s.jobRange q d.dst dst || !s.jobRange q d.aux d.auxLen
    || (meets d.dst dst d.src d.srcLen && !(q.cls = .cipher && d.dst = d.src))
    || meets d.dst dst d.aux d.auxLen || meets d.src d.srcLen d.aux d.auxLen
    || refused d.src d.srcLen || refused d.dst dst || refused d.aux d.auxLen

/-- Codes 01h to 05h in their order; 0 when the job may read its input. -/
def State.preCode (s : State) (q : EngReq) (k : EngCtx) (j : EngJob) : Nat :=
  let d := readDesc j.desc
  if badOp q.cls d then 1
  else if badSeq q.cls k d then 2
  else if badLength q.cls k d then 3
  else if q.cls = .cipher && (if j.begun then j.keyBad else (s.jobKey q d).isNone) then 4
  else if s.badAddr q d then 5
  else 0

/-! ## What a job computes -/

/-- The result of a job: outcome, bytes for DST, ENG.CHECK, the message it leaves, and whether it failed while it ran. -/
structure JobOut where
  code  : Nat
  bytes : List Byte := []
  check : Nat := 0
  msg   : Option EngMsg := none
  ran   : Bool := false
  deriving DecidableEq, Repr

/-- The growth bound (R378). -/
def growthBound (n : Nat) : Nat := n + 8 * ((n + 65535) / 65536) + 64

/-- A crucible job (R375 to R378). -/
def crucibleJob (d : Desc) (src aux : List Byte) : JobOut :=
  if d.op % 2 = 1 then
    let out := Config.compress d.op d.param aux src
    if d.dstLen < out.length then { code := 6 }
    else if d.op = 5 ∧ growthBound src.length < out.length then { code := 7 }
    else { code := 0, bytes := out, check := crc32c src }
  else match Config.decompress d.op aux src with
    | .error c => { code := c }
    | .ok out =>
      if d.dstLen < out.length then { code := 6 }
      else if d.chkin ∧ crc32c out ≠ d.chkexp then { code := 9 }
      else { code := 0, bytes := out, check := crc32c out }

/-- Digest bytes of a hash (R380). -/
def digestLen (d : Desc) : Nat :=
  if d.op = 0x21 ∨ d.op = 0x23 then 32 else if d.op = 0x22 ∨ d.op = 0x24 then 64 else max d.dstLen 1

/-- The digest of a message. -/
def digestOf (op n : Nat) (text : List Byte) : List Byte :=
  if op = 0x25 then Config.shake128 text n else if op = 0x26 then Config.shake256 text n
  else (Config.sha op text).take n

/-- A checksum as if the message ended here (R380). -/
def checksumOf (op : Nat) (text : List Byte) : Nat :=
  if op = 0x28 then crc32c text else if op = 0x29 then crc32 text else adler32 text

/-- An assay job on the text of its message so far (R380). -/
def assayJob (d : Desc) (text : List Byte) : JobOut :=
  let msg := if d.last then none else some { op := d.op, keyslot := 0, aux := [], text := text }
  if d.isHash then
    if !d.last then { code := 0, msg := msg }
    else if d.dstLen < digestLen d then { code := 6 }
    else { code := 0, bytes := digestOf d.op (digestLen d) text }
  else { code := 0, check := checksumOf d.op text, msg := msg }

/-- Output bytes of a cipher pool job, known in advance (R382). -/
def cipherLen (d : Desc) : Nat := d.srcLen + (if d.op = 0x41 ∧ d.last then 16 else 0)

/-- A cipher pool job under a key: `before` is the text absorbed by earlier jobs, `aux` IV and AAD or the
counter block or tweak, and `tag` the expected tag (R382 to R384). -/
def cipherJob (d : Desc) (slot : W16 × Nat) (before src aux tag : List Byte) : JobOut :=
  let key := slot.2
  let text := before ++ src
  let iv := aux.take 12
  let aad := aux.drop 12
  let msg := if d.last then none
    else some { op := d.op, keyslot := d.keyslot, gen := slot.1, aux := aux, text := text }
  if d.dstLen < cipherLen d then { code := 6 }
  else if d.op = 0x41 then
    let ct := Config.gcmEncrypt key iv aad text
    { code := 0, msg := msg
      bytes := ct.drop before.length ++ (if d.last then Config.gcmTag key iv aad ct else []) }
  else if d.op = 0x42 then
    if d.last ∧ Config.gcmTag key iv aad text ≠ tag then
      { code := 0x0A, bytes := List.replicate d.srcLen 0 }
    else { code := 0, msg := msg, bytes := (Config.gcmDecrypt key iv aad text).drop before.length }
  else if d.op = 0x43 then
    { code := 0, msg := msg, bytes := Config.ctr key aux before.length src }
  else { code := 0, bytes := Config.xts (d.op = 0x44) key aux src }

/-- The whole job after its checks. -/
def State.runJob (s : State) (q : EngReq) (k : EngCtx) (j : EngJob) : JobOut :=
  let d := readDesc j.desc
  let src := s.jobBytes q d.src d.srcLen j.input
  let aux := s.jobBytes q d.aux d.auxLen j.aux
  let before := if d.first then [] else (k.msg.map (·.text)).getD []
  match q.cls with
  | .crucible => crucibleJob d src aux
  | .assay => assayJob d (before ++ src)
  | _ =>
    let tagged := d.op = 0x42 && d.last
    let first := if d.first then (if tagged then aux.take (d.auxLen - 16) else aux)
      else (k.msg.map (·.aux)).getD []
    cipherJob d (j.held.getD (0, 0)) before src first (aux.drop (d.auxLen - 16))

/-! ## The end of a job (R364, R368, R337) -/

/-- The completion reaches the core whose run holds the context, or is kept for the run off its core. -/
def State.deliver (s : State) (q : EngReq) : State :=
  let set (s : State) (c : Nat) : State := s.modCore c fun k =>
    { k with pendEng := true, ctx := { (k.ctx.setBit (64 + q.ctx) true) with ecp := true } }
  match q.run with
  | none => set s q.core
  | some i => match s.runAt i with
    | none => s
    | some r => match r.core with
      | some c => set s c
      | none => s.setRun i { r with kept := insNat q.ctx r.kept }

/-- Log a DATA outcome that an engine met by itself (R386, R468), as an error of the engine context SRAM. -/
def State.logData (s : State) (q : EngReq) : State := s.logFault 0x0B 4 [25] q.slice [q.core, q.ctx] [0x0B]

/-- A unit leaves service; when its class has lost a quarter, replacement is requested (R469). -/
def State.retireUnit (s : State) (cls : EngineClass) (u : Nat) : State :=
  let s := s.setUnit cls u { s.unit cls u with inService := false, testing := false, running := none }
  let out (v : Nat) : Bool := !(s.unit cls v).inService
  let n := match cls with
    | .softDecoder => ((List.range 12).filter fun v => v / 6 = u / 6 && out v).length
    | c => ((List.range (classUnits c)).filter out).length
  let limit := match cls with
    | .crucible => 4
    | _ => 2
  if limit ≤ n then s.requestRepl 10 else s

/-- Number of a class in the fault log and in the fault history. -/
def classNum : EngineClass → Nat
  | .crucible => 0
  | .assay => 1
  | .cipher => 2
  | .softDecoder => 3

/-- An engine fault (R387, R468): the engine is reset and tested; at its third within 1,000 piers it
leaves service. -/
def State.engineFault (s : State) (cls : EngineClass) (u cause : Nat) : State :=
  let id := classNum cls * 100 + u
  let now := s.dev.smart.piers
  let h := (now :: Tbl.getD s.rel.engFault id []).filter fun t => now < t + 1000
  let s := { s with rel := { s.rel with engFault := Tbl.set s.rel.engFault id h } }
  let out := 3 ≤ h.length
  let s := s.logFault 0x12 2 [classNum cls, u] none [0] [cause, if out then 1 else 0]
  if out then s.retireUnit cls u
  else s.setUnit cls u { s.unit cls u with running := none, testing := true }

/-- Record the end of a job in its context (R131, R364, R365, R368): the host memory it read is counted, output is written, the unit is freed and
takes its next job. -/
def State.endJob (s : State) (q : EngReq) (u : Option Nat) (o : JobOut) : State :=
  let k := s.ctxOf q.core q.run q.ctx
  let d := (k.job.map fun j => readDesc j.desc).getD (readDesc k.desc)
  let ended := match q.run.bind s.runAt with
    | some r => r.ended.isSome || r.discarded
    | none => false
  let s := if u.isSome ∧ (o.code = 0 ∨ (5 < o.code ∧ o.code ≠ 0x0D)) then
      (s.jobFetched q d.src d.srcLen).jobFetched q d.aux d.auxLen
    else s
  let s := if o.code = 0 then s.jobWrite q d.dst o.bytes
    else if (o.code ≤ 5 ∧ ¬ o.ran) ∨ (q.cls = .cipher ∧ o.code = 6) ∨ ¬ s.jobRange q d.dst d.dstLen then s
    else match s.jobPlace q d.dst with
      | some (.host _ _) => if o.code = 0x0A then s.jobWrite q d.dst o.bytes else s
      | _ =>
        let junk := s.freeBytes d.dstLen
        (s.drawnN d.dstLen).jobWrite q d.dst (o.bytes ++ junk.drop o.bytes.length)
  let s := s.setCtxOf q.core q.run q.ctx { k with
    code := BitVec.ofNat 8 o.code, busy := false, job := none, abort := false
    out := if o.code = 0 then BitVec.ofNat 64 o.bytes.length else 0
    check := if o.code = 0 then BitVec.ofNat 32 o.check else 0
    opn := o.code = 0 && o.msg.isSome && !ended
    msg := if o.code = 0 ∧ ¬ ended then o.msg else none }
  let s := { s with cpu := { s.cpu with engines := { s.cpu.engines with
    queue := s.cpu.engines.queue.filter fun p => !p.is q } } }
  let s := match u with
    | some n => s.setUnit q.cls n { s.unit q.cls n with running := none }
    | none => s
  s.deliver q

/-- The unit that runs the job of a context of a core, with its request. -/
def State.runningJob (s : State) (c n : Nat) : Option (Nat × EngReq) :=
  (s.cpu.engines.units (ctxClass n)).findSome? fun p =>
    match p.2.running with
    | some q => if q.core = c ∧ q.ctx = n then some (p.1, q) else none
    | none => none

/-- The job of a context that waits for an engine. -/
def State.waitingJob (s : State) (c n : Nat) : Option EngReq :=
  s.cpu.engines.queue.find? fun q => q.core = c && q.ctx = n

/-- The window of a context is open to what the core runs (R361, R362). -/
def State.ctxAsked (s : State) (c ctx : Nat) : Bool :=
  c < builtCores && ctx < 64 && ((s.core c).sup || (ctx < 32 && (s.core c).run.isSome))

/-- ENG_GO (R364): an exchange on ENG.GO where the context's window is open to the core's mode (R362);
the reply is recorded. -/
def execEngGo (c ctx : Nat) (input aux : List Byte) (s : State) : Host.Outcome State Fault Refusal :=
  .next (if s.ctxAsked c ctx then
      let r := s.engGo c ctx input aux
      { r.2 with out := { r.2.out with reads := (0x10040 + 0x400 * ctx, BitVec.ofNat 64 r.1) :: r.2.out.reads } }
    else s)

/-- ENG_CTL_CLOSE (R366). -/
def execEngCtlClose (c ctx : Nat) (s : State) : Host.Outcome State Fault Refusal :=
  .next (if s.ctxAsked c ctx then s.engCtl c ctx 2 else s)

/-- ENG_CTL_ABORT (R366). -/
def execEngCtlAbort (c ctx : Nat) (s : State) : Host.Outcome State Fault Refusal :=
  .next (if s.ctxAsked c ctx then s.engCtl c ctx 1 else s)

/-- The outcome of a job that has run to its end: codes 01h to 05h first, then what the operand says the
job met on its way (a translation failing 05h, DATA 0Bh, ENGINE 0Ch, ABORT at its boundary 0Dh), then its
computation. -/
def State.jobOutcome (s : State) (q : EngReq) (k : EngCtx) (j : EngJob) (met : Nat) : JobOut :=
  let pre := s.preCode q k j
  if pre ≠ 0 then { code := pre, ran := pre = 4 && j.held.map (·.1) ≠ (s.jobKey q (readDesc j.desc)).map (·.1) }
  else if met = 5 ∨ met = 0x0B ∨ met = 0x0C ∨ (met = 0x0D ∧ k.abort) then { code := met, ran := true }
  else s.runJob q k j

/-- ENGINE_JOB_END (R364, R367, R368, R374): the job of a context ends. A job that waits for an engine
ends here only when a check of codes 01h to 05h fails it or an ABORT stops it. An ENGINE outcome is an
engine fault (R379, R383, R468). -/
def execEngineJobEnd (c ctx : Nat) (code : Byte) (s : State) : Host.Outcome State Fault Refusal :=
  .next (match s.runningJob c ctx with
    | some (u, q) =>
      let k := s.ctxOf q.core q.run q.ctx
      match k.job with
      | none => s
      | some j =>
        let o := s.jobOutcome q k j code.toNat
        let s := s.endJob q (some u) o
        let s := if o.code = 0x0C then s.engineFault q.cls u 0x0C else if o.code = 0x0B then s.logData q else s
        s.dispatchJobs q.cls
    | none =>
      match s.waitingJob c ctx with
      | none => s
      | some q =>
        let k := s.ctxOf q.core q.run q.ctx
        match k.job with
        | none => s
        | some j =>
          let pre := if j.begun then 0 else s.preCode q k j
          if pre ≠ 0 then s.endJob q none { code := pre }
          else if k.abort then s.endJob q none { code := 0x0D }
          else s)

/-- The running job yields to the best waiting one (R371): to a lower class number, to one that has
waited 1 ms, or to one of its own class that outranks it once it has held the engine for 50 µs; whether
it has is time the model does not count, so the next free value says (log entry 14). -/
def State.yields (s : State) (u : Nat) (q b : EngReq) : Bool :=
  b.aged || b.svc < q.svc ||
    (b.svc = q.svc && s.reqBefore (s.unit q.cls u).lastWinner b q && s.freeWord.toNat % 2 = 1)

/-- ENGINE_SWITCH_BOUNDARY (R371 to R373, R437): a job at a boundary stops if ABORT stands, or is set
aside, its state saved, for the job the engine picks; a saved state restores only when its unwrap check
passes, and otherwise its job ends with DATA. -/
def execEngineSwitchBoundary (cls : EngineClass) (unit : Nat) (unwrapOk : Bool) (s : State) :
    Host.Outcome State Fault Refusal :=
  .next (match (s.unit cls unit).running with
    | none => s
    | some q =>
      let k := s.ctxOf q.core q.run q.ctx
      if k.abort then (s.endJob q (some unit) { code := 0x0D }).dispatchJobs cls
      else match s.pickReq cls (s.unit cls unit).lastWinner with
        | none => s
        | some b =>
          if !s.yields unit q b then s.drawn
          else
            let s := s.drawn
            let kb := s.ctxOf b.core b.run b.ctx
            let restored := cls = .cipher && b.run.isSome &&
              ((kb.job.map (·.begun)).getD false || kb.msg.isSome)
            let s := s.startJob cls unit b
            let g := s.cpu.engines
            let iv := if cls = .cipher ∧ q.run.isSome then g.wrapIv + 1 else g.wrapIv
            let s := { s with cpu := { s.cpu with engines := { g with
              queue := g.queue ++ [{ q with aged := false }], wrapIv := iv } } }
            if restored && !unwrapOk then
              let s := s.logFault 0x13 1 [b.core] b.slice [b.ctx] [0]
              (s.endJob b (some unit) { code := 0x0B }).dispatchJobs cls
            else s)

/-- ENGINE_JOB_WAIT_LIMIT (R371): a job has waited 1 ms. -/
def execEngineJobWaitLimit (c ctx : Nat) (s : State) : Host.Outcome State Fault Refusal :=
  .next { s with cpu := { s.cpu with engines := { s.cpu.engines with
    queue := s.cpu.engines.queue.map fun q => if q.core = c ∧ q.ctx = ctx then { q with aged := true } else q } } }

/-- ENGINE_NO_BOUNDARY_TIMEOUT (R387): the job ends with ENGINE and is not retried; the engine is reset
and tested before it takes another job. -/
def execEngineNoBoundaryTimeout (cls : EngineClass) (unit : Nat) (s : State) :
    Host.Outcome State Fault Refusal :=
  .next (match (s.unit cls unit).running with
    | none => s
    | some q => ((s.endJob q (some unit) { code := 0x0C }).engineFault cls unit 1).dispatchJobs cls)

/-- ENGINE_KAT_COMPLETE (R468, R469): the known-answer test of an engine ends. -/
def execEngineKatComplete (cls : EngineClass) (unit : Nat) (passed : Bool) (s : State) :
    Host.Outcome State Fault Refusal :=
  .next (if !(s.unit cls unit).testing then s
    else if passed then (s.setUnit cls unit { s.unit cls unit with testing := false }).dispatchJobs cls
    else (s.logFault 0x12 2 [classNum cls, unit] none [0] [2, 1]).retireUnit cls unit)

end Sys2Proof.Machine
end

