-- ==== Sys2Proof/Machine/ReedSolomon.lean ====
section
/-! DEFINITION. The Reed-Solomon code of a DRAM codeword (R408): 64 data and 16 check bytes over
GF(2^8) with field polynomial 11Dh, as the ECC test modes of R419 meet it. Byte 0 is taken as the highest
coefficient (log entry 15). -/

namespace Sys2Proof.Machine

/-- Doubling in the field. -/
def gfDouble (a : Nat) : Nat := if 128 ≤ a then ((2 * a) % 256) ^^^ 0x1D else 2 * a

/-- Product in the field. -/
def gfMul (a b : Nat) : Nat :=
  ((List.range 8).foldl (fun (p : Nat × Nat) i =>
    (if b / 2 ^ i % 2 = 1 then p.1 ^^^ p.2 else p.1, gfDouble p.2)) (0, a)).1

/-- Power by a natural exponent. -/
def gfPow (a : Nat) : Nat → Nat
  | 0 => 1
  | n + 1 => gfMul a (gfPow a n)

/-- Inverse: a^254. -/
def gfInv (a : Nat) : Nat := gfPow a 254

/-- α^n. -/
def gfExp (n : Nat) : Nat := gfPow 2 (n % 255)

/-- A polynomial by its coefficients, lowest first. -/
abbrev Poly := List Nat

/-- Sum of polynomials. -/
def polyAdd : Poly → Poly → Poly
  | [], q => q
  | p, [] => p
  | a :: p, b :: q => (a ^^^ b) :: polyAdd p q

/-- Scalar multiple. -/
def polyScale (k : Nat) (p : Poly) : Poly := p.map (gfMul k)

/-- Product. -/
def polyMul : Poly → Poly → Poly
  | [], _ => []
  | a :: p, q => polyAdd (polyScale a q) (0 :: polyMul p q)

/-- Value at a point. -/
def polyEval : Poly → Nat → Nat
  | [], _ => 0
  | a :: p, x => a ^^^ gfMul x (polyEval p x)

/-- Formal derivative. -/
def polyDeriv (p : Poly) : Poly := (p.drop 1).mapIdx fun i a => if i % 2 = 0 then a else 0

/-- The generator polynomial: the product of (x − α^j), j = 0 to 15. -/
def rsGen : Poly := (List.range 16).foldl (fun g j => polyMul g [gfExp j, 1]) [1]

/-- The 16 check bytes of 64 data bytes, highest coefficient first. -/
def rsCheck (data : List Nat) : List Nat :=
  let g := (rsGen.take 16).reverse
  data.foldl (fun reg d =>
    let f := d ^^^ reg.headD 0
    List.zipWith (fun r c => r ^^^ gfMul f c) (reg.drop 1 ++ [0]) g) (List.replicate 16 0)

/-- The 16 syndromes of an 80-byte codeword. -/
def rsSyndromes (cw : List Nat) : Poly :=
  (List.range 16).map fun j => cw.foldl (fun s b => gfMul s (gfExp j) ^^^ b) 0

/-- Working state of the locator search: connection polynomial, previous one, length, gap, discrepancy. -/
structure BmState where
  c : Poly := [1]
  b : Poly := [1]
  l : Nat := 0
  m : Nat := 1
  d : Nat := 1

/-- The error locator polynomial of a syndrome sequence (Berlekamp and Massey). -/
def rsLocator (syn : Poly) : BmState :=
  (List.range 16).foldl (fun (s : BmState) n =>
    let d := (List.range (s.l + 1)).foldl (fun t i => t ^^^ gfMul (s.c.getD i 0) (syn.getD (n - i) 0)) 0
    if d = 0 then { s with m := s.m + 1 }
    else
      let c := polyAdd s.c (List.replicate s.m 0 ++ polyScale (gfMul d (gfInv s.d)) s.b)
      if 2 * s.l ≤ n then { c := c, b := s.c, l := n + 1 - s.l, m := 1, d := d }
      else { s with c := c, m := s.m + 1 }) {}

/-- Correct the positions (powers of x) that a locator names. -/
def rsFix (cw : List Nat) (syn loc : Poly) (pos : List Nat) : List Nat :=
  let om := (polyMul syn loc).take 16
  let dv := polyDeriv loc
  cw.mapIdx fun i b =>
    let p := 79 - i
    if pos.contains p then
      let xi := gfExp (255 - p)
      b ^^^ gfMul (gfExp p) (gfMul (polyEval om xi) (gfInv (polyEval dv xi)))
    else b

/-- Decode a codeword: the corrected bytes and the number of bytes corrected, or none. With a marked
device, its 16 bytes are erasures (R408, R411). -/
def rsDecode (cw : List Nat) (mark : Option Nat) : Option (List Nat × Nat) :=
  let syn := rsSyndromes cw
  let count (x : List Nat) : Nat := ((cw.zip x).filter fun p => p.1 ≠ p.2).length
  if syn.all (· = 0) then some (cw, 0)
  else match mark with
    | some d =>
      let pos := (List.range 16).map fun k => 79 - (16 * d + k)
      let loc := pos.foldl (fun l p => polyMul l [1, gfExp p]) [1]
      let x := rsFix cw syn loc pos
      some (x, count x)
    | none =>
      let s := rsLocator syn
      let pos := (List.range 80).filter fun p => polyEval s.c (gfExp (255 - p)) = 0
      if 8 < s.l ∨ pos.length ≠ s.l then none
      else
        let x := rsFix cw syn s.c pos
        if (rsSyndromes x).all (· = 0) then some (x, count x) else none

end Sys2Proof.Machine
end

