-- ==== Sys2Proof/Machine/Dram.lean ====
section
/-! DEFINITION. The DRAM controllers: reads and writes with their error correction and marking, the
scheduler, refresh and its management, and the ECC test modes (chapter 13). -/

namespace Sys2Proof.Machine

/-! ## Addresses (R389, R391, R393, R395) -/

/-- One gibibyte. -/
def gib : Nat := 2 ^ 30

/-- Installed capacity in GiB (R389): a density of 11b is taken as 32 Gb; it fails power-up. -/
def State.dramGib (s : State) : Nat :=
  let d := s.dev.dDens
  let per := if d = 0 then 16 else if d = 1 then 24 else 32
  4 * per * (if s.dev.dRanks then 2 else 1)

/-- Installed capacity in bytes. -/
def State.dramCap (s : State) : Nat := gib * s.dramGib

/-- Channel of a DRAM address. -/
def dramChan (a : Nat) : Nat := (a / 2 ^ 12 % 4) ^^^ (a / 2 ^ 20 % 4)
/-- Subchannel of a DRAM address. -/
def dramSub (a : Nat) : Nat := (a / 2 ^ 14 % 2) ^^^ (a / 2 ^ 22 % 2)
/-- Bank within a rank: three bank group bits, then two bank bits (log entry 16). -/
def dramBank (a : Nat) : Nat := a / 2 ^ 15 % 32
/-- Rank of a DRAM address. -/
def State.dramRank (s : State) (a : Nat) : Nat := if s.dev.dRanks then a / 2 ^ 20 % 2 else 0
/-- Row of a DRAM address. -/
def State.dramRow (s : State) (a : Nat) : Nat := if s.dev.dRanks then a / 2 ^ 21 else a / 2 ^ 20

/-- Where a DRAM address lies: a slice's local memory, or elsewhere. -/
inductive DramPlace where
  | loc (slice off : Nat)
  | other (tracked : Bool)
  deriving DecidableEq, Repr

/-- Base of the blank-tracked region (R393). -/
def State.btBase (s : State) : Nat := gib * (s.dramGib - s.dram.btSize)

/-- The place of a DRAM address (R393, R395). -/
def State.dramPlace (s : State) (a : Nat) : DramPlace :=
  let base := s.btBase
  if a < base then .other false
  else match s.dram.extents.find? fun x =>
      base + 2 ^ 21 * x.2.1 ≤ a && a < base + 2 ^ 21 * (x.2.1 + x.2.2) with
    | some x => .loc x.1 (a - base - 2 ^ 21 * x.2.1)
    | none => .other true

/-- The page of an address is blank (R396). -/
def State.dramBlank (s : State) (a : Nat) : Bool :=
  match s.dramPlace a with
  | .loc sl off => !(Tbl.getD s.dram.clear sl []).contains (off / 4096)
  | .other t => t && !s.dram.pool.contains (a / 4096)

/-- The domain that a place belongs to (R399). -/
def State.homeDomain (s : State) (a : Nat) : Nat :=
  match s.dramPlace a with
  | .loc sl _ => sl
  | .other _ => 1024

/-- The domain a codeword was last written under (R398). -/
def State.domainOf (s : State) (a : Nat) : Nat := (Tbl.get? s.dram.domains (a / 64)).getD (s.homeDomain a)

/-- The 64 bytes of a codeword as decrypted under a domain: unrelated data under another domain than the
one it was written under (R398). -/
def State.dramBytes (s : State) (a domain : Nat) : List Byte :=
  let a := a / 64 * 64
  if s.domainOf a ≠ domain then s.freeBytes 64
  else match s.dramPlace a with
    | .loc sl off => Mem.read (s.localMem sl) off 64
    | .other _ => Mem.read s.dram.filled a 64

/-- Store bytes at an address, not blank afterwards. -/
def State.dramStore (s : State) (a : Nat) (bs : List Byte) : State :=
  match s.dramPlace a with
  | .loc sl off => s.localWrite sl off bs
  | .other t => { s with dram := { s.dram with
      filled := Mem.write s.dram.filled a bs
      pool := if t then insNat (a / 4096) s.dram.pool else s.dram.pool } }

/-- Record the domain of a codeword. -/
def State.setDomain (s : State) (cw domain : Nat) : State :=
  { s with dram := { s.dram with
      domains := if s.homeDomain (cw * 64) = domain then Tbl.del s.dram.domains cw
        else Tbl.set s.dram.domains cw domain } }

/-! ## Channels -/

/-- A DRAM channel. -/
def State.dchan (s : State) (c : Nat) : DramChan := Tbl.getD s.dram.chans c {}

/-- Change a DRAM channel. -/
def State.modDchan (s : State) (c : Nat) (f : DramChan → DramChan) : State :=
  { s with dram := { s.dram with chans := Tbl.set s.dram.chans c (f (s.dchan c)) } }

/-- Number of a rank and subchannel in DRAM.STAT.MARK. -/
def State.markIdx (s : State) (a : Nat) : Nat := 2 * s.dramRank a + dramSub a

/-- Mark a device (R410, R411): logged, and replacement is requested. -/
def State.markDevice (s : State) (a dev cause : Nat) : State :=
  let c := dramChan a
  if (Tbl.get? (s.dchan c).marks (s.markIdx a)).isSome then s
  else
    let s := s.modDchan c fun x => { x with marks := Tbl.set x.marks (s.markIdx a) dev }
    (s.logFault 0x08 3 [c] none [s.dramRank a, dramSub a, dev] [cause]).requestRepl 2

/-! ## The correctable-error log (R412) -/

/-- Replace one entry of the log, or append. -/
def celPut (l : List CelEntry) (e : CelEntry) : List CelEntry :=
  if l.any fun x => x.cw = e.cw then l.map fun x => if x.cw = e.cw then e else x else l ++ [e]

/-- The entry that gives way: fewest hits, oldest first, among those not flagged. -/
def celVictim (l : List CelEntry) : Option CelEntry :=
  (l.filter fun x => !x.flag).foldl (fun b x => match b with
    | none => some x
    | some y => if x.hits < y.hits ∨ (x.hits = y.hits ∧ x.age < y.age) then some x else some y) none

/-- Room for a new codeword in the log of 32 entries; none when every entry is flagged. -/
def celRoom (l : List CelEntry) : Option (List CelEntry) :=
  if l.length < 32 then some l
  else (celVictim l).map fun v => l.filter fun x => x.cw ≠ v.cw

/-- The device with the most corrected bytes, lowest number first. -/
def mostErrors (diffs : List (Nat × Byte)) : Nat :=
  let n (d : Nat) : Nat := (diffs.filter fun x => x.1 / 16 = d).length
  [1, 2, 3, 4].foldl (fun b d => if n b < n d then d else b) 0

/-- A row is flagged for repair (R414). -/
def State.flagRow (s : State) (cw dev : Nat) : State :=
  let c := dramChan (cw * 64)
  if s.dram.rows.any fun r => r.chan = c && s.dramRow (r.cw * 64) = s.dramRow (cw * 64)
      && dramBank (r.cw * 64) = dramBank (cw * 64) && s.markIdx (r.cw * 64) = s.markIdx (cw * 64) && r.dev = dev
      && !r.soft
  then s
  else { s with dram := { s.dram with rows := s.dram.rows ++ [{ chan := c, cw := cw, dev := dev }] } }

/-- A correction of a codeword is logged (R412), and eight entries of different rows that name one device
mark it (R410). -/
def State.logCorrection (s : State) (cw dev : Nat) : State :=
  let c := dramChan (cw * 64)
  let x := s.dchan c
  let found := x.log.find? fun e => e.cw = cw
  match (match found with
      | some e => some (x.log, e)
      | none => (celRoom x.log).map fun l => (l, { cw := cw, dev := dev, age := x.next : CelEntry })) with
  | none => s
  | some (l, e) =>
    let s := s.modDchan c fun y => { y with next := y.next + 1 }
    if e.scrub then
      (s.modDchan c fun y => { y with log := celPut l { e with flag := true } }).flagRow cw e.dev
    else
      let h := min (e.hits + 1) 15
      let l := celPut l { e with hits := h, scrub := h = 4 }
      let s := s.modDchan c fun y => { y with log := l }
      let rows := ((l.filter fun y => y.dev = e.dev && s.markIdx (y.cw * 64) = s.markIdx (cw * 64)).map
        fun y => (dramBank (y.cw * 64), s.dramRow (y.cw * 64))).eraseDups
      if 8 ≤ rows.length then s.markDevice (cw * 64) e.dev 2 else s

/-- A requester's write of a logged codeword sets SCRUB (R412). -/
def State.celWritten (s : State) (cw : Nat) : State :=
  s.modDchan (dramChan (cw * 64)) fun x =>
    { x with log := x.log.map fun e => if e.cw = cw then { e with scrub := true } else e }

/-! ## Decoding (R408 to R411) -/

/-- What the decoder makes of a codeword. -/
inductive DramDec where
  | clean | corrected | erased | wrong | bad
  deriving DecidableEq, Repr

/-- The decoder's answer for the bytes that differ (R408, R411). An error of more than 8 bytes that is not
confined to one device may be miscorrected: the next free value says whether it is (log entry 15). -/
def State.dramDecode (s : State) (a : Nat) (err : DramErrors) : DramDec :=
  let at_ := (err.diffs.filter fun d => d.2 ≠ 0 ∧ d.1 < 80).map fun d => d.1
  let at_ := at_.eraseDups
  match Tbl.get? (s.dchan (dramChan a)).marks (s.markIdx a) with
  | some d => if at_.isEmpty then .clean else if at_.all fun i => i / 16 = d then .erased else .wrong
  | none =>
    if at_.isEmpty then .clean
    else if at_.length ≤ 8 then .corrected
    else if (at_.map fun i => i / 16).eraseDups.length = 1 then .bad
    else if s.freeWord.toNat % 2 = 1 then .wrong else .bad

/-- Count and log an uncorrectable error (R409). -/
def State.dramUncorr (s : State) (a cls scrub : Nat) : State :=
  (s.modDchan (dramChan a) fun x => { x with uncorr := min (x.uncorr + 1) 255 }).logFault 0x07 4
    [dramChan a] none [a / 64] [cls, scrub]

/-- Read a codeword through the decoder: the bytes, or none when it is poisoned. -/
def State.dramFetch (s : State) (a domain cls : Nat) (err : DramErrors) : Option (List Byte) × State :=
  let bytes := s.dramBytes a domain
  match s.dramDecode a err with
  | .clean => (some bytes, s.drawnN 64)
  | .erased => (some bytes, s.drawnN 64)
  | .corrected => (some bytes, (s.drawnN 64).logCorrection (a / 64) (mostErrors err.diffs))
  | .wrong => (some (s.drawn.freeBytes 64), s.drawnN 65)
  | .bad =>
    match err.testBad.eraseDups with
    | [d] =>
      let s' := (s.drawnN 65).markDevice a d 1
      let only := err.diffs.all fun x => x.2 = 0 || x.1 / 16 = d
      (some (if only then bytes else s.drawn.freeBytes 64), s')
    | _ => (none, (s.drawnN 65).dramUncorr a cls 0)

/-! ## Queues (R402 to R404) -/

/-- A subchannel by 2 × channel + subchannel. -/
def State.subch (s : State) (i : Nat) : SubChan := Tbl.getD s.dram.subs i {}

/-- Change a subchannel. -/
def State.modSubch (s : State) (i : Nat) (f : SubChan → SubChan) : State :=
  { s with dram := { s.dram with subs := Tbl.set s.dram.subs i (f (s.subch i)) } }

/-- Enter a request in its subchannel's queue, where there is room, out of self-refresh (R82); one for the row of a pending write puts
its bank in in-order mode (R403). -/
def State.enqueue (s : State) (a : Nat) (write : Bool) (cls : BitVec 2) (flash : Option Nat) : State :=
  let s := s.dramWake
  let i := 2 * dramChan a + dramSub a
  let q : DramReq := { id := s.dram.nextReq, write := write, cls := cls, cw := a / 64
                       bank := dramBank a + 32 * s.dramRank a, row := s.dramRow a, flash := flash }
  let x := s.subch i
  let full := if write then 64 ≤ x.writes.length else 64 ≤ x.reads.length
  if full then s
  else
    let s := { s with dram := { s.dram with nextReq := s.dram.nextReq + 1 } }
    s.modSubch i fun x => { x with
      reads := if write then x.reads else x.reads ++ [q]
      writes := if write then x.writes ++ [q] else x.writes
      inOrder := if x.writes.any fun w => w.bank = q.bank && w.row = q.row then insNat q.bank x.inOrder
        else x.inOrder }

/-- Give a reply, or keep it for the end of the page's fill (R397). -/
def State.dramReply (s : State) (r : DramReply) : State :=
  match Tbl.get? s.dram.filling (r.addr / 4096) with
  | some l => { s with dram := { s.dram with filling := Tbl.set s.dram.filling (r.addr / 4096) (l ++ [r]) } }
  | none => { s with dram := { s.dram with replies := r :: s.dram.replies } }

/-- BLANK_PAGE_FILL_COMPLETE (R397): the accesses that wait on the page proceed. -/
def execBlankPageFillComplete (page : Nat) (s : State) : Host.Outcome State Fault Refusal :=
  .next (match Tbl.get? s.dram.filling page with
    | none => s
    | some l => { s with dram := { s.dram with
        filling := Tbl.del s.dram.filling page
        replies := l.reverse ++ s.dram.replies } })

/-! ## The scheduler (R402 to R407) -/

/-- The requests a subchannel offers now, with these flash channels in panic: a codeword's oldest first, and the oldest of
a bank in in-order mode (R402, R403). -/
def SubChan.offers (x : SubChan) (panic : List Nat) : List DramReq :=
  let all := x.reads ++ x.writes
  let hit (q : DramReq) : Bool := Tbl.get? x.open_ q.bank = some q.row
  let ok (q : DramReq) : Bool :=
    !(all.any fun p => (p.cw = q.cw || (p.bank = q.bank && x.inOrder.contains q.bank)) && p.id < q.id)
      && !(!panic.isEmpty && 2 ≤ q.cls.toNat && !hit q)
  let r := x.reads.filter ok
  let w := x.writes.filter ok
  if x.draining || r.isEmpty then r ++ w else r

/-- Rank of a request: tier, then row hit (aged requests go by age alone), then age (R402). -/
def SubChan.rank (x : SubChan) (panic : List Nat) (q : DramReq) : Nat × Nat × Nat :=
  let hit := Tbl.get? x.open_ q.bank = some q.row
  let tier := if q.cls = 0 ∧ q.flash.any panic.contains then 0 else if q.aged then 1 else 2 + q.cls.toNat
  (tier, if tier = 1 ∨ hit then 0 else 1, q.id)

/-- A pending write of a bank has a later request to its row: the bank stays in in-order mode (R403). -/
def stillOrdered (all writes : List DramReq) (bank : Nat) : Bool :=
  writes.any fun w => w.bank = bank && all.any fun p => p.bank = bank && p.row = w.row && w.id < p.id

/-- Order of ranks. -/
def rankLt (a b : Nat × Nat × Nat) : Bool :=
  a.1 < b.1 || (a.1 = b.1 && (a.2.1 < b.2.1 || (a.2.1 = b.2.1 && a.2.2 < b.2.2)))

/-- The request to issue. -/
def SubChan.pick (x : SubChan) (panic : List Nat) : Option DramReq :=
  (x.offers panic).foldl (fun b q => match b with
    | none => some q
    | some p => if rankLt (x.rank panic q) (x.rank panic p) then some q else some p) none

/-- The used entry of a table that an activation of a new row replaces (R407): the smallest count, the lowest entry number of
those. -/
def leastEntry (t : List RowCount) : RowCount :=
  t.foldl (fun m e => if e.count < m.count ∨ (e.count = m.count ∧ e.entry < m.entry) then e else m) (t.headD ⟨0, 0, 0⟩)

/-- An activation counts in its bank's table (R407). -/
def countRow (t : List RowCount) (r : Nat) : List RowCount :=
  if t.any fun e => e.row = r then t.map fun e => if e.row = r then { e with count := e.count + 1 } else e
  else match (List.range 32).find? fun k => !t.any fun e => e.entry = k with
    | some k => t ++ [⟨k, r, 1⟩]
    | none =>
      let m := leastEntry t
      t.map fun e => if e.entry = m.entry then ⟨m.entry, r, m.count + 1⟩ else e

/-- Close the rows of a bank index: the same bank of every bank group and rank. -/
def closeRows (t : Tbl Nat) (bank : Nat) : Tbl Nat := t.filter fun p => p.1 / 8 % 4 ≠ bank

/-- What a subchannel issues next (R402): a refresh at its limit, a management command that waits behind the first two
tiers, or the request picked; a request that misses its open row first activates it. -/
def SubChan.issue (x : SubChan) (panic : List Nat) : SubChan :=
  match x.postponed.find? fun p => 4 ≤ p.2 with
  | some p => { x with postponed := Tbl.set x.postponed p.1 0, open_ := closeRows x.open_ p.1 }
  | none =>
    let q := x.pick panic
    let early := match q with
      | some q => (x.rank panic q).1 ≤ 1
      | none => false
    if !early && !x.rfm.isEmpty then { x with rfm := x.rfm.drop 1, open_ := Tbl.del x.open_ (x.rfm.headD 0) }
    else match q with
      | none => x
      | some q =>
        if Tbl.get? x.open_ q.bank = some q.row then
          let r := x.reads.filter fun p => p.id ≠ q.id
          let w := x.writes.filter fun p => p.id ≠ q.id
          { x with
            reads := r, writes := w
            draining := if 48 ≤ w.length then true else if w.length ≤ 16 then false else x.draining
            inOrder := if stillOrdered (r ++ w) w q.bank then x.inOrder else delNat q.bank x.inOrder }
        else { x with
          open_ := Tbl.set x.open_ q.bank q.row
          draining := if 48 ≤ x.writes.length then true else x.draining
          tables := Tbl.set x.tables q.bank (countRow (Tbl.getD x.tables q.bank []) q.row) }

/-- DRAM_COMMAND_ISSUE (R82, R401, R402): a subchannel issues its next command; in PS4 the DRAM returns to self-refresh
after the last one. -/
def execDramCommandIssue (chan sub : Nat) (s : State) : Host.Outcome State Fault Refusal :=
  .next (if s.dram.selfRef then s
    else
      let s := s.modSubch (2 * chan + sub) fun x => x.issue s.dram.panic
      if s.dev.ps = 4 then s.dramSleep else s)

/-- REQUEST_AGE_LIMIT (R402): a pending request is promoted. -/
def execRequestAgeLimit (chan sub req : Nat) (s : State) : Host.Outcome State Fault Refusal :=
  let f (q : DramReq) : DramReq := if q.id = req then { q with aged := true } else q
  .next (s.modSubch (2 * chan + sub) fun x => { x with reads := x.reads.map f, writes := x.writes.map f })

/-- REFRESH_DUE (R401, R406): placed when its banks are idle, else postponed; in self-refresh the devices refresh
themselves. -/
def execRefreshDue (chan sub bankIndex : Nat) (idle : Bool) (s : State) : Host.Outcome State Fault Refusal :=
  .next (if s.dram.selfRef then s else s.modSubch (2 * chan + sub) fun x => { x with
    postponed := Tbl.set x.postponed bankIndex
      (if idle then 0 else min 4 (Tbl.getD x.postponed bankIndex 0 + 1)) })

/-- REFRESH_POSTPONE_LIMIT (R406): the refresh is issued ahead of every class, closing any open row. -/
def execRefreshPostponeLimit (chan sub bankIndex : Nat) (s : State) : Host.Outcome State Fault Refusal :=
  .next (if Tbl.getD (s.subch (2 * chan + sub)).postponed bankIndex 0 < 4 then s
    else s.modSubch (2 * chan + sub) fun x => { x with
      postponed := Tbl.set x.postponed bankIndex 0, open_ := closeRows x.open_ bankIndex })

/-- ROW_ACTIVATION_THRESHOLD (R407): a row whose count has reached RFMTH has a management command issued to
its bank and its entry freed. -/
def execRowActivationThreshold (chan sub bank row : Nat) (s : State) : Host.Outcome State Fault Refusal :=
  .next (
    let i := 2 * chan + sub
    let t := Tbl.getD (s.subch i).tables bank []
    if t.any fun e => e.row = row && s.dram.rfmTh.toNat ≤ e.count then
      s.modSubch i fun x => { x with
        tables := Tbl.set x.tables bank (t.filter fun e => e.row ≠ row)
        rfm := if x.rfm.contains bank then x.rfm else x.rfm ++ [bank] }
    else s)

/-- RFM_TABLE_CLEAR (R407): every entry of every table is freed. -/
def execRfmTableClear (s : State) : Host.Outcome State Fault Refusal :=
  .next { s with dram := { s.dram with subs := Tbl.mapV s.dram.subs fun _ x => { x with tables := [] } } }

/-- DQS_OSCILLATOR_CHECK (R392): a drift has write levelling repeated in the next background span window. -/
def execDqsOscillatorCheck (chan : Nat) (drift : Bool) (s : State) : Host.Outcome State Fault Refusal :=
  .next (if chan < 4 ∧ drift then s.modDchan chan fun x => { x with relevel := true } else s)

/-- ZQ_CALIBRATION (R392). -/
def execZqCalibration (chan : Nat) (s : State) : Host.Outcome State Fault Refusal :=
  .next (if chan < 4 then s.modDchan chan fun x => { x with zq := x.zq + 1 } else s)

/-! ## ECC test modes (R419, R420) -/

/-- A codeword of the test window: as a test wrote it, or its tinned content, free data bytes with their
check bytes. -/
def State.testWord (s : State) (i : Nat) : List Byte :=
  match Tbl.get? s.dram.window i with
  | some w => w
  | none =>
    let d := s.freeBytes 64
    d ++ (rsCheck (d.map (·.toNat))).map (BitVec.ofNat 8)

/-- TBUF0 to TBUF9 as 80 bytes. -/
def State.tbufBytes (s : State) : List Byte := s.dram.tbuf.toList.flatMap fun w => leBytes 8 w.toNat

/-- Load TBUF from 80 bytes. -/
def State.setTbuf (s : State) (bs : List Byte) : State :=
  { s with dram := { s.dram with
      tbuf := Vector.ofFn fun i => BitVec.ofNat 64 (leNat ((bs.drop (8 * i.val)).take 8)) } }

/-- DRAM address of a codeword of the test window: the bottom of keeper data; where keeper data lies in the
filled region the spec does not say, and its channel is taken as the window stood at address 0 (log
entry 17). -/
def testAddr (i : Nat) : Nat := i * 64

/-- A write of ECC.TEST with an operation: refused while BUSY is 1 (R419). `f` is the access on the codeword. -/
def State.eccTest (s : State) (op : Nat) (value : W32) (f : State → Nat → State) : State :=
  if value.toNat % 8 ≠ op ∨ s.dram.busy then s
  else
    let i := value.toNat / 16 % 2 ^ 14
    let w := s.testWord i
    let s := s.drawnN 64
    let s := { s with dram := { s.dram with
      busy := true, taddr := BitVec.ofNat 14 i, window := Tbl.set s.dram.window i w } }
    f s i

/-- Store a codeword of the test window. -/
def State.setTest (s : State) (i : Nat) (w : List Byte) : State :=
  { s with dram := { s.dram with window := Tbl.set s.dram.window i w } }

/-- Check bytes of 64 data bytes. -/
def checkBytes (d : List Byte) : List Byte := (rsCheck (d.map (·.toNat))).map (BitVec.ofNat 8)

/-- ECC_TEST_WRITE_DATA_AND_CHECK, OP 001b. -/
def execEccTestWriteDataAndCheck (value : W32) (s : State) : Host.Outcome State Fault Refusal :=
  .next (s.eccTest 1 value fun s i => s.setTest i s.tbufBytes)

/-- ECC_TEST_WRITE_COMPUTED_CHECK, OP 010b: ECC.FLIPMASK inverts bits of bytes 0 to 7 after the check bytes
have been computed, and is cleared (R420). -/
def execEccTestWriteComputedCheck (value : W32) (s : State) : Host.Outcome State Fault Refusal :=
  .next (s.eccTest 2 value fun s i =>
    let d := s.tbufBytes.take 64
    let m := leBytes 8 s.dram.flip.toNat
    let x := (List.zipWith (· ^^^ ·) (d.take 8) m) ++ d.drop 8
    { s.setTest i (x ++ checkBytes d) with dram := { (s.setTest i (x ++ checkBytes d)).dram with flip := 0 } })

/-- ECC_TEST_WRITE_CHECK_ONLY, OP 011b. -/
def execEccTestWriteCheckOnly (value : W32) (s : State) : Host.Outcome State Fault Refusal :=
  .next (s.eccTest 3 value fun s i => s.setTest i ((s.testWord i).take 64 ++ s.tbufBytes.drop 64))

/-- ECC_TEST_WRITE_DATA_ONLY, OP 100b. -/
def execEccTestWriteDataOnly (value : W32) (s : State) : Host.Outcome State Fault Refusal :=
  .next (s.eccTest 4 value fun s i => s.setTest i (s.tbufBytes.take 64 ++ (s.testWord i).drop 64))

/-- ECC_TEST_READ_RAW, OP 101b. -/
def execEccTestReadRaw (value : W32) (s : State) : Host.Outcome State Fault Refusal :=
  .next (s.eccTest 5 value fun s i => s.setTbuf (s.testWord i))

/-- ECC_TEST_READ_DECODED, OP 110b: through the decoder, with RES and NSYM; an uncorrectable codeword leaves
its raw bytes in TBUF. -/
def execEccTestReadDecoded (value : W32) (s : State) : Host.Outcome State Fault Refusal :=
  .next (s.eccTest 6 value fun s i =>
    let a := testAddr i
    let mark := Tbl.get? (s.dchan (dramChan a)).marks (s.markIdx a)
    let w := (s.testWord i).map (·.toNat)
    let put (s : State) (bs : List Nat) (res n : Nat) : State :=
      let s := s.setTbuf (bs.map (BitVec.ofNat 8))
      { s with dram := { s.dram with res := BitVec.ofNat 2 res, nsym := BitVec.ofNat 5 n } }
    match rsDecode w mark with
    | none => put s w 2 0
    | some (x, n) => put s x (if n = 0 then 0 else if mark.isSome then 3 else 1) n)

/-- ECC_TEST_COMPLETE (R419). -/
def execEccTestComplete (s : State) : Host.Outcome State Fault Refusal :=
  .next { s with dram := { s.dram with busy := false } }

end Sys2Proof.Machine
end

