-- ==== Sys2Proof/Machine/Metering.lean ====
section
/-! DEFINITION. Receipts, the close of a minute, the minute seal and its readers (chapter 04). -/

namespace Sys2Proof.Machine

/-! ## Receipts (R129 to R131) -/

/-- A sum that saturates at 32 bits. -/
def sat32 (n : Nat) : Nat := min n 0xFFFFFFFF

/-- Sum of counters. -/
def Counts.add (a b : Counts) : Counts :=
  { commands := a.commands + b.commands, coreSpans := a.coreSpans + b.coreSpans
    scanBytes := a.scanBytes + b.scanBytes, mediaRead := a.mediaRead + b.mediaRead
    mediaWrite := a.mediaWrite + b.mediaWrite, hostIn := a.hostIn + b.hostIn
    hostOut := a.hostOut + b.hostOut, crucible := a.crucible + b.crucible, keyOps := a.keyOps + b.keyOps }

/-- GiB-minutes with 32 fraction bits of a sum of bytes over spans (R131). -/
def gibMinutes (byteSpans : Nat) : Nat := byteSpans * 2 ^ 32 / (2 ^ 30 * 60000) % 2 ^ 64

/-- A flag bit. -/
def flagBit (b : Bool) (k : Nat) : Nat := if b then 2 ^ k else 0

/-- FLAGS of a receipt (R130). -/
def receiptFlags (x : Ended) (m : SliceMeter) : Nat :=
  flagBit x.holdover 0 + flagBit x.powerCut 1 + flagBit m.opened 2 + flagBit m.closed 3
    + flagBit x.stepped 4 + flagBit m.rebound 5

/-- A receipt of 128 bytes (R129, R136). -/
def receipt (fmt member : Nat) (x : Ended) (sl : Nat) (m : SliceMeter) (blind : List Byte) : List Byte :=
  let c := m.total
  let inn := if fmt = 1 then c.hostIn + c.hostOut else c.hostIn
  let out := if fmt = 1 then 0 else c.hostOut
  [BitVec.ofNat 8 fmt, BitVec.ofNat 8 (receiptFlags x m)] ++ leBytes 2 member ++ leBytes 2 sl
    ++ leBytes 2 0 ++ leBytes 8 x.minute ++ leBytes 4 m.spans ++ leBytes 4 (sat32 c.commands)
    ++ leBytes 8 c.coreSpans ++ leBytes 8 c.scanBytes ++ leBytes 8 c.mediaRead ++ leBytes 8 c.mediaWrite
    ++ leBytes 8 inn ++ leBytes 8 out ++ leBytes 8 c.crucible ++ leBytes 8 (gibMinutes m.stored)
    ++ leBytes 8 (gibMinutes (m.local4k * 4096)) ++ leBytes 4 (sat32 c.keyOps) ++ List.replicate 12 0 ++ blind

/-- The leaf of a slice (R137): its receipt when it existed for at least one span, else an empty leaf. -/
def leafOf (fmt member : Nat) (x : Ended) (sl : Nat) (blind : List Byte) : List Byte :=
  match Tbl.get? x.slices sl with
  | some m => if m.spans = 0 then List.replicate 112 0 ++ blind else receipt fmt member x sl m blind
  | none => List.replicate 112 0 ++ blind

/-- Some slice has a receipt of the minute (R129). -/
def Ended.receipts (x : Ended) : Bool := x.slices.any fun p => p.2.spans ≠ 0 && p.1 < 1024

/-! ## The Merkle tree (R137, R138) -/

/-- Hash of a leaf. -/
def leafHash (l : List Byte) : List Byte := Config.shake256 (0 :: l) 32
/-- Hash of a node. -/
def nodeHash (l r : List Byte) : List Byte := Config.shake256 (1 :: (l ++ r)) 32

/-- The level above. -/
def levelUp : List (List Byte) → List (List Byte)
  | a :: b :: t => nodeHash a b :: levelUp t
  | _ => []

/-- The root over ten levels. -/
def treeRoot (leaves : List (List Byte)) : List Byte :=
  ((List.range 10).foldl (fun l _ => levelUp l) (leaves.map leafHash)).headD []

/-- The inclusion path of leaf `i`, level 0 first. -/
def treePath (leaves : List (List Byte)) (i : Nat) : List Byte :=
  ((List.range 10).foldl (fun (p : List (List Byte) × List Byte) k =>
    (levelUp p.1, p.2 ++ p.1.getD (i / 2 ^ k ^^^ 1) [])) (leaves.map leafHash, [])).2

/-! ## The seal (R139, R140) -/

/-- The 128-byte seal header. -/
def sealHeader (m : Minute) : List Byte :=
  [1, BitVec.ofNat 8 m.flags] ++ leBytes 2 m.member ++ leBytes 4 0 ++ leBytes 8 m.minute ++ m.root ++ m.prev
    ++ leBytes 8 m.sigIdx ++ List.replicate 40 0

/-- The seal record. -/
def sealRecord (x : Seal) : List Byte := sealHeader x.min ++ x.sig

/-- Numbers of the signing keys: the identity key, and the seal key of a generation. -/
def identityKey : Nat := 1
def sealKey (gen : Nat) : Nat := 2 + gen

/-- Take an index below its reservation, writing the reservation first when it is reached (R143). -/
def takeIndex (next res : Nat) : Nat × Nat × Bool :=
  if next < res then (next + 1, res, false) else (next + 1, next + 64, true)

/-- The signer begins the next signature: a seal before a quote (R428); none while it refuses (R450). -/
def State.signerNext (s : State) : State :=
  if s.hm.signing.isSome || s.hm.refuses then s
  else if s.hm.waitSeal then
    match s.meter.closed with
    | [] => { s with hm := { s.hm with waitSeal := false } }
    | m :: rest =>
      let (n, r, w) := takeIndex s.hm.slNext s.hm.slRes
      let prev := match s.meter.store with
        | x :: _ => if s.meter.chain then Config.shake256 (2 :: sealRecord x) 32 else List.replicate 32 0
        | [] => List.replicate 32 0
      let m := { m with sigIdx := s.hm.slNext, prev := prev
                        flags := m.flags + (if s.meter.chain then 0 else 4) }
      { s with
        hm := { s.hm with
          signing := some .seal, waitSeal := false, slNext := n, slRes := r
          nvWrites := s.hm.nvWrites + (if w then 1 else 0) }
        meter := { s.meter with closed := m :: rest } }
  else match s.hm.waitQuote with
    | some j => { s with hm := { s.hm with signing := some j, waitQuote := none } }
    | none => s

/-- MINUTE of the last minute that has ended, whether closed or not (R133). -/
def State.lastMinute (s : State) : Option Nat :=
  match s.meter.ended.getLast? with
  | some x => some x.minute
  | none => match s.meter.closed.getLast? with
    | some m => some m.minute
    | none => s.meter.store.head?.map (·.min.minute)

/-- The minute index that the pier closes, if it closes one (R132, R133). -/
def State.closable (s : State) : Option Nat :=
  let t := s.time.pier.toNat
  if t = 0 ∨ t % 60 ≠ 0 then none
  else match s.lastMinute with
    | some l => if l < t / 60 - 1 then some (t / 60 - 1) else none
    | none => some (t / 60 - 1)

/-- The meters of the minute that opens: of the slices that live on. -/
def nextMeters (t : Tbl SliceMeter) : Tbl SliceMeter :=
  (t.filter fun p => !p.2.closed).map fun p => (p.1, { cur := p.2.cur, closing := p.2.closing })

/-- A pier for the meters (R130, R132, R133): a minute pier ends the open minute, if it may close; its own holdover
condition and phase step belong to the minute it opens. -/
def State.meterPier (s : State) (stepped : Bool) : State :=
  let t := s.meter
  let stay (held : Bool) : Meter := { t with
    held := held, holdover := t.holdover || s.time.hold, stepped := t.stepped || stepped }
  match s.closable with
  | none => { s with meter := stay (t.held || s.time.pier.toNat % 60 = 0) }
  | some mi => { s with meter := { t with
      held := false, holdover := s.time.hold, stepped := stepped, powerCut := false, slices := nextMeters t.slices
      ended := t.ended ++ [⟨mi, t.holdover, t.stepped, t.powerCut, t.slices⟩] } }

/-- MINUTE_CLOSE (R132, R135, R137, R141): step 6 of the tick of a minute pier, for the minute that it ended. With the
signer refusing, the minute is never sealed (R450). -/
def execMinuteClose (s : State) : Host.Outcome State Fault Refusal :=
  .next (match s.meter.ended with
    | [] => s
    | x :: rest =>
      let t := s.meter
      let leaves := (List.range 1024).map fun i =>
        leafOf t.openFmt t.openMem x i ((List.range 16).map fun j => BitVec.ofNat 8 (Config.freeNat (s.free + 16 * i + j)))
      let s := s.drawnN 16384
      let m : Minute :=
        { minute := x.minute, member := t.openMem, format := t.openFmt
          flags := flagBit (x.holdover && x.receipts) 0 + flagBit x.powerCut 1
          leaves := leaves, root := treeRoot leaves, prev := List.replicate 32 0, sigIdx := 0
          ordinal := t.nClosed }
      let s := { s with meter := { t with
        ended := rest, openFmt := t.fsel.toNat, openMem := t.member.toNat, nClosed := t.nClosed + 1
        closed := if s.hm.refuses then t.closed else t.closed ++ [m] } }
      let s := if s.hm.refuses then s else { s with hm := { s.hm with waitSeal := true } }
      s.signerNext)

/-- METER_CTL_WRITE (R135): an FSEL outside FMIN to FMAX refuses the write. -/
def execMeterCtlWrite (value : W32) (s : State) : Host.Outcome State Fault Refusal :=
  .next (
    let f := value.toNat / 65536 % 4
    if f = 1 ∨ f = 2 then { s with meter := { s.meter with
      fsel := BitVec.ofNat 2 f, member := value.truncate 10 } }
    else s)

/-! ## Readers (R146, R147) -/

/-- METER_RECEIPT_FETCH (R147). -/
def execMeterReceiptFetch (q : Src) (e : Sqe) (s : State) : Host.Outcome State Fault Refusal :=
  .next (s.adminCmd q e 0xCE onManager fun s =>
    let minute := e.cdw10.toNat + 2 ^ 32 * e.cdw11.toNat
    let rcpt := e.cdw12.getLsbD 0
    let len := if rcpt then 147456 else 16384
    if e.cdw13.toNat * 4 < len then s.fail q e.cid 0 scInvalidField
    else if s.meter.closed.any fun m => m.minute = minute then s.fail q e.cid 0 scSequence
    else match s.meter.store.find? fun x => x.min.minute = minute with
      | none => s.fail q e.cid 0 scInvalidField
      | some x =>
        let parts := (0, sealRecord x) :: (if rcpt then x.min.leaves.mapIdx fun i l => (16384 + 128 * i, l) else [])
        s.answer q e { len := len, parts := parts })

/-- Log page D0h of a slice (R146). -/
def State.receiptPage (s : State) (sl : Nat) : Data :=
  let from_ := (s.slice sl).pageFrom
  let mine := s.meter.store.filter fun x => from_ ≤ x.min.ordinal
  let has := mine.filter fun x => (x.min.leaves.getD sl []).headD 0 ≠ 0
  let kept := has.filter fun x => !has.any fun y =>
    y.min.minute % 2880 = x.min.minute % 2880 && x.min.minute < y.min.minute
  let held := kept.map fun x => x.min.minute
  let oldest := held.foldl min (held.headD 0)
  let newest := held.foldl max 0
  let slot (m : Nat) : Nat := 16384 * (1 + m % 2880)
  let entries := kept.map fun x =>
    (slot x.min.minute, x.min.leaves.getD sl [] ++ treePath x.min.leaves sl ++ sealHeader x.min ++ x.sig)
  { len := 2881 * 16384
    parts := (0, [1] ++ List.replicate 7 0 ++ leBytes 8 oldest ++ leBytes 8 newest) :: entries }

end Sys2Proof.Machine
end

