-- ==== Sys2Proof/Machine/Hallmark.lean ====
section
/-! DEFINITION. The Hallmark unit: measurement, the manager's digest window, quotes and signatures, key
import, anti-rollback, tamper records and the locked debug port (chapter 14). -/

namespace Sys2Proof.Machine

/-! ## Measurement (R430) -/

/-- 64 bytes of 00h. -/
def zeros64 : List Byte := List.replicate 64 0

/-- Extend a register's value with a digest. -/
def extendVal (reg d : List Byte) : List Byte := Config.shake256 (reg ++ d) 64

/-- The digest of an event: 8-byte header, then the content. -/
def eventDigest (type : Nat) (content : List Byte) : List Byte :=
  Config.shake256 ([BitVec.ofNat 8 type, 0, 0, 0] ++ leBytes 4 content.length ++ content) 64

/-- A measurement register. -/
def State.mr (s : State) (i : Nat) : List Byte := Tbl.getD s.hm.mrs i zeros64

/-- Extend MR `i` with a digest. -/
def State.extendMr (s : State) (i : Nat) (d : List Byte) : State :=
  { s with hm := { s.hm with mrs := Tbl.set s.hm.mrs i (extendVal (s.mr i) d) } }

/-- Extend MR `i` with an event. -/
def State.eventMr (s : State) (i type : Nat) (content : List Byte) : State :=
  s.extendMr i (eventDigest type content)

/-- Extend a slice's measurement register with an event. -/
def State.eventSmr (s : State) (sl type : Nat) (content : List Byte) : State :=
  let m := Tbl.getD s.hm.smrs sl {}
  let m : Smr := { val := extendVal m.val (eventDigest type content), cnt := m.cnt + 1 }
  { s with hm := { s.hm with smrs := Tbl.set s.hm.smrs sl m } }

/-- The SMR of a slice as read: 0 for an absent slice (R433). -/
def State.smr (s : State) (sl : Nat) : List Byte :=
  if (s.slice sl).st = .absent then zeros64 else (Tbl.getD s.hm.smrs sl {}).val

/-! ## The digest window (R431, R432) -/

/-- K0 xor a pad byte. -/
def padKey (k : List Byte) (p : Byte) : List Byte := (k ++ List.replicate (136 - k.length) 0).map (· ^^^ p)

/-- The digest of a message, keyed or plain (R431). -/
def digestVal (key : Option Nat) (msg : List Byte) : List Byte :=
  match key with
  | none => Config.shake256 msg 64
  | some k =>
    let k0 := leBytes 32 k
    Config.shake256 (padKey k0 0x5C ++ Config.shake256 (padKey k0 0x36 ++ msg) 64) 64

/-- A digest starts under the settings in force; a keyed digest loads its key now. With the slot emptied
since HM.MDCTL was written the key is a free value (log entry 18). -/
def State.mdStart (s : State) : State :=
  let key := if s.hm.mdKeyed then
      some (match Tbl.get? s.hm.slots s.hm.mdSlot.toNat with
        | some k => k.key
        | none => Config.freeNat s.free)
    else none
  { s.drawn with hm := { s.hm with mdState := 1, mdMsg := [], mdKey := key } }

/-- Bytes in the digest so far, and the limit (R432). -/
def mdLimit : Nat := 0xFFFFFFFFFF

/-- A write of HM.MDDATA that is taken. -/
def State.mdTake (s : State) (v : W64) : State :=
  let s := if s.hm.mdState = 0 then s.mdStart else s
  { s with hm := { s.hm with mdMsg := s.hm.mdMsg ++ leBytes 8 v.toNat } }

/-- HM_MDDATA_WRITE (R432): it waits while a finish is in progress. -/
def execHmMddataWrite (value : W64) (s : State) : Host.Outcome State Fault Refusal :=
  .next (if s.hm.mdState = 2 then { s with hm := { s.hm with mdWait := s.hm.mdWait ++ [value] } }
    else if s.hm.mdState = 1 ∧ mdLimit < s.hm.mdMsg.length + 8 then s
    else s.mdTake value)

/-- HM_MDCMD_FINISH (R432): FINISH with DROP; the bytes dropped leave the message. -/
def execHmMdcmdFinish (value : W32) (s : State) : Host.Outcome State Fault Refusal :=
  .next (
    let drop := value.toNat / 2 % 8
    if !value.getLsbD 0 || s.hm.mdState = 2 || (s.hm.mdState = 0 && drop ≠ 0) then s
    else
      let s := if s.hm.mdState = 0 then s.mdStart else s
      { s with hm := { s.hm with
          mdState := 2, mdMsg := s.hm.mdMsg.take (s.hm.mdMsg.length - drop), mdInto := s.hm.mdTarget.toNat } })

/-- HM_DIGEST_FINISH_COMPLETE (R431, R432): TARGET is extended; writes that waited start a new digest. -/
def execHmDigestFinishComplete (s : State) : Host.Outcome State Fault Refusal :=
  .next (if s.hm.mdState ≠ 2 then s
    else
      let s := s.extendMr s.hm.mdInto (digestVal s.hm.mdKey s.hm.mdMsg)
      let w := s.hm.mdWait
      let s := { s with hm := { s.hm with mdState := 0, mdMsg := [], mdKey := none, mdWait := [] } }
      w.foldl (fun s v => s.mdTake v) s)

/-- HM_SVNCMT_WRITE (R440): only the SVN of the running stage-2 image, above FWSVN, blows fuses. -/
def execHmSvncmtWrite (value : W32) (s : State) : Host.Outcome State Fault Refusal :=
  .next (
    let v := value.toNat % 256
    if v = s.hm.imgSvn.toNat ∧ s.hm.fwSvn < v ∧ v ≤ 64 then { s with hm := { s.hm with fwSvn := v } } else s)

/-! ## Certificates and quotes (R426, R441) -/

/-- The ordering suffix, four ASCII characters. -/
def orderSuffix : List Byte := [0x41, 0x32, 0x2D, if Config.variantE then 0x45 else 0x43]

/-- The 128-byte identity statement (R426). -/
def identityStatement : List Byte :=
  [1, 1, 0, 0] ++ Config.serialNumber.take 20 ++ orderSuffix ++ List.replicate 4 0
    ++ (Config.publicKey identityKey).take 68 ++ List.replicate 28 0

/-- The identity certificate as the manufacturer issued it (R426). -/
def identityCertificate : List Byte := identityStatement ++ Config.authoritySignature.take 14824

/-- The 128-byte seal statement (R426). -/
def State.sealStatement (s : State) : List Byte :=
  [1, 2, 0, 0] ++ leBytes 4 s.hm.sealGen ++ leBytes 8 s.hm.sealPier.toNat ++ List.replicate 16 0
    ++ Config.publicKey (sealKey s.hm.sealGen) ++ List.replicate 28 0

/-- The seal certificate (R426). -/
def State.sealCertificate (s : State) : List Byte :=
  s.sealStatement ++ Config.xmssSign identityKey s.hm.certIdx s.sealStatement

/-- The import pair of an owner: a slice, or the manager at 65,535 (R442). -/
def State.importPair (s : State) (o : Nat) : ImportPair := Tbl.getD s.hm.imports o {}

/-- The encapsulation key of an owner. -/
def State.encapsKey (s : State) (o : Nat) : List Byte := Config.mlkemEncapsKey (s.importPair o).seed

/-- The 2,240-byte quote body (R441); `sl` is the slice of a slice quote, `idx` the identity index. -/
def State.quoteBody (s : State) (hpv : Nat) (sl : Option Nat) (idx : Nat) (nonce : List Byte) : List Byte :=
  let smr := (sl.map fun x => Tbl.getD s.hm.smrs x {}).getD {}
  [BitVec.ofNat 8 hpv, if sl.isSome then 1 else 0] ++ leBytes 2 s.meter.member.toNat
    ++ leBytes 2 (sl.getD 0xFFFF) ++ [if s.time.hold then 1 else 0, BitVec.ofNat 8 s.hm.fwSvn]
    ++ leBytes 8 s.time.pier.toNat ++ s.dev.fw.rev ++ [s.hm.imgSvn, 0, 0, 0] ++ leBytes 4 s.hm.sealGen
    ++ leBytes 8 idx ++ nonce ++ leBytes 4 ((sl.map fun x => (s.importPair x).count).getD 0)
    ++ leBytes 4 (if hpv = 2 then smr.cnt else 0)
    ++ ((sl.map fun x => Config.shake256 (s.encapsKey x) 32).getD (List.replicate 32 0)) ++ List.replicate 32 0
    ++ ((List.range 32).flatMap fun i => s.mr i) ++ (if sl.isSome then smr.val else zeros64)

/-- Another quote is being signed or waits. -/
def Hallmark.quoting (h : Hallmark) : Bool :=
  h.waitQuote.isSome || match h.signing with
    | some (.quote _ _ _) => true
    | _ => false

/-- HALLMARK_QUOTE (R425, R438, R441). -/
def execHallmarkQuote (q : Src) (e : Sqe) (s : State) : Host.Outcome State Fault Refusal :=
  .next (s.adminCmd q e 0xCA onManager fun s =>
    let qt := e.cdw10.toNat % 256
    let hpv := e.cdw10.toNat / 256 % 256
    let sl := e.cdw10.toNat / 65536 % 1024
    let len := if qt ≤ 1 then 17064 else if qt = 2 then 30032 else 1568
    let used := (s.slice sl).st ≠ .absent
    let nonce := leBytes 4 e.cdw12.toNat ++ leBytes 4 e.cdw13.toNat ++ leBytes 4 e.cdw14.toNat
      ++ leBytes 4 e.cdw15.toNat
    if 3 < qt ∨ hpv < 1 ∨ 2 < hpv ∨ ((qt = 1 ∨ qt = 3) ∧ ¬ used) ∨ e.cdw11.toNat * 4 < len then
      s.fail q e.cid 0 scInvalidField
    else if qt ≤ 1 ∧ s.hm.unlocked then s.fail q e.cid 0 scDenied
    else if qt ≤ 1 ∧ s.hm.quoting then s.fail q e.cid 0 scSequence
    else if qt = 2 then
      s.answer q e (Data.ofBytes (Config.publicKey identityKey ++ List.replicate 60 0
        ++ identityCertificate ++ s.sealCertificate))
    else if qt = 3 then s.answer q e (Data.ofBytes (s.encapsKey sl))
    else if adminPrpBad e len then s.fail q e.cid 0 scPrpOffset
    else
      let (n, r, w) := takeIndex s.hm.idNext s.hm.idRes
      let body := s.quoteBody hpv (if qt = 1 then some sl else none) s.hm.idNext nonce
      let s := { s with hm := { s.hm with
        idNext := n, idRes := r, nvWrites := s.hm.nvWrites + (if w then 1 else 0)
        waitQuote := some (.quote q e body) } }
      s.signerNext)

/-- The non-volatile store has spent 95 % of its rating (R429): replacement is requested. -/
def State.checkNv (s : State) : State := if 237500000 ≤ s.hm.nvWrites then s.requestRepl 11 else s

/-! ## Key import (R434, R443) -/

/-- Owner of an import's SLICE field. -/
def ownerOf (o : Nat) : KeyOwner := if o = 0xFFFF then .manager else .slice o

/-- Slots that an owner holds. -/
def Hallmark.held (h : Hallmark) (o : KeyOwner) : Nat := (h.slots.filter fun p => p.2.owner = o).length

/-- KSLIMITs promised to slices (R92, R434). -/
def State.promised (s : State) : Nat :=
  s.host.slices.foldl (fun n p => if p.2.st = .absent then n else n + p.2.ksLimit) 0

/-- Owner of a change of the key table that a commit holds. -/
def KeyAct.owner? : KeyAct → Option Nat
  | .keyImport o _ _ _ _ => some o
  | .keyEmpty o _ => some o
  | _ => none

/-- A change of the owner's slots waits for its commit: commands for one slice execute in order (R96). -/
def State.keysBusy (s : State) (o : Nat) : Bool :=
  (s.hm.commit ++ s.hm.joining).any fun w => w.act.owner? = some o

/-- Put a replacement into the commit at hand: it starts one, or joins the next (R214). -/
def State.startCommit (s : State) (w : KeyWork) : State :=
  if s.hm.commit.isEmpty then { s with hm := { s.hm with commit := [w] } }
  else { s with hm := { s.hm with joining := s.hm.joining ++ [w] } }

/-- The checks that Key Import and its emptying share: status and code in Dword 0. -/
def State.keyCheck (s : State) (o slot : Nat) (act : Nat) : Option (Status × Nat) :=
  let st := (s.slice o).st
  if 1 < act ∨ (o ≠ 0xFFFF ∧ (1023 < o ∨ st = .absent)) ∨ 4095 < slot then some ((0, 2), 1)
  else if o ≠ 0xFFFF ∧ (st = .resetting ∨ st = .rebinding ∨ st = .deleting) then some ((7, 0x83), 0)
  else none

/-- The opened WKEY of an import page, none when the tag fails (R443). -/
def State.openKey (s : State) (o : Nat) (d : List Byte) : List Byte × Bool :=
  let hdr := d.take 32
  let ct := (d.drop 32).take 1568
  let wkey := (d.drop 1600).take 64
  let tag := (d.drop 1664).take 16
  let key := leNat (Config.shake256 (Config.mlkemDecaps (s.importPair o).seed ct ++ hdr) 32)
  let iv := List.replicate 12 0
  (Config.gcmDecrypt key iv hdr wkey, Config.gcmTag key iv hdr wkey = tag)

/-- Code 02h of R443. -/
def badImport (o slot : Nat) (d pt : List Byte) : Bool :=
  let b (i : Nat) : Nat := (d.getD i 0).toNat
  let cls := b 1
  b 0 < 1 || 2 < b 0 || b 2 + 256 * b 3 ≠ slot || b 4 + 256 * b 5 ≠ o || b 6 ≠ 0 || b 7 ≠ 0
    || ((d.drop 12).take 20).any (· ≠ 0)
    || (if o = 0xFFFF then cls ≠ 3 else !(cls = 1 || (cls = 2 && b 0 = 2)))
    || (cls = 1 && (pt.drop 32).any (· ≠ 0))

/-- The slot is owned by another owner than this one. -/
def State.slotOther (s : State) (o slot : Nat) : Bool :=
  match Tbl.get? s.hm.slots slot with
  | some k => k.owner ≠ ownerOf o
  | none => false

/-- An import to an empty slot passes no limit of its owner (code 04h). -/
def State.slotLimit (s : State) (o slot : Nat) : Bool :=
  (Tbl.get? s.hm.slots slot).isNone &&
    (if o = 0xFFFF then 64 ≤ s.hm.held .manager || 4096 ≤ 16 + s.hm.held .manager + s.promised
      else (s.slice o).ksLimit ≤ s.hm.held (.slice o))

/-- KEY_IMPORT (R434, R435, R438, R443): ACTION 00b; the change comes into force with its commit. -/
def execKeyImport (q : Src) (e : Sqe) (data : List Byte) (s : State) : Host.Outcome State Fault Refusal :=
  .next (
    let o := e.cdw10.toNat % 65536
    let slot := e.cdw11.toNat % 65536
    let act := e.cdw11.toNat / 65536 % 4
    if act = 1 ∨ s.keysBusy o then s
    else s.adminCmd q e 0xC9 onManager fun s =>
      let bad (st : Status) (code : Nat) : State := s.complete q e.cid st.1 st.2 (BitVec.ofNat 32 code) 0
      match s.keyCheck o slot act with
      | some (st, code) => bad st code
      | none =>
        if adminPrpBad e 4096 then s.fail q e.cid 0 scPrpOffset
        else
          let (pt, ok) := s.openKey o data
          if badImport o slot data pt then bad (0, 2) 2
          else if s.slotOther o slot then bad (0, 2) 3
          else if s.slotLimit o slot then bad (0, 2) 4
          else if leNat ((data.drop 8).take 4) ≠ (s.importPair o).count then bad (0, scSequence) 0
          else if !ok then bad (0, 2) 5
          else (s.moved q e.cid false 4096).startCommit
            { src := some (q, e.cid)
              act := .keyImport o slot (data.getD 1 0).toNat (leNat pt) ((data.drop 32).take 1568) })

/-- KEY_EMPTY (R443): ACTION 01b. -/
def execKeyEmpty (q : Src) (e : Sqe) (s : State) : Host.Outcome State Fault Refusal :=
  .next (
    let o := e.cdw10.toNat % 65536
    let slot := e.cdw11.toNat % 65536
    let act := e.cdw11.toNat / 65536 % 4
    if act ≠ 1 ∨ s.keysBusy o then s
    else s.adminCmd q e 0xC9 onManager fun s =>
      let bad (st : Status) (code : Nat) : State := s.complete q e.cid st.1 st.2 (BitVec.ofNat 32 code) 0
      match s.keyCheck o slot act with
      | some (st, code) => bad st code
      | none =>
        if s.slotOther o slot || (Tbl.get? s.hm.slots slot).isNone then bad (0, 2) 3
        else s.startCommit { src := some (q, e.cid), act := .keyEmpty o slot })

/-- Raise the generation of a slot (R434). -/
def State.bumpSlot (s : State) (slot : Nat) : State :=
  { s with hm := { s.hm with gens := Tbl.set s.hm.gens slot (Tbl.getD s.hm.gens slot 0 + 1) } }

/-- An import comes into force (R443). -/
def State.applyImport (s : State) (o slot cls key : Nat) (ct : List Byte) : State :=
  let s := s.bumpSlot slot
  let p := s.importPair o
  let s := { s with hm := { s.hm with
    slots := Tbl.set s.hm.slots slot { cls := cls, owner := ownerOf o, key := key }
    imports := Tbl.set s.hm.imports o { p with count := p.count + 1 } } }
  if o = 0xFFFF then s
  else
    let s := s.meterUp o fun m => { m with keyOps := m.keyOps + 1 }
    s.eventSmr o 2 (leBytes 2 slot ++ [BitVec.ofNat 8 cls] ++ List.replicate 5 0 ++ leBytes 4 (p.count + 1)
      ++ List.replicate 4 0 ++ Config.shake256 ct 32)

/-- An emptying comes into force (R443). -/
def State.applyEmpty (s : State) (o slot : Nat) : State :=
  let cls := ((Tbl.get? s.hm.slots slot).map (·.cls)).getD 0
  let s := s.bumpSlot slot
  let s := { s with hm := { s.hm with slots := Tbl.del s.hm.slots slot } }
  if o = 0xFFFF then s
  else
    let s := s.meterUp o fun m => { m with keyOps := m.keyOps + 1 }
    s.eventSmr o 3 (leBytes 2 slot ++ [BitVec.ofNat 8 cls] ++ List.replicate 5 0)

/-- Empty every slot of a slice, redraw its import seed, IMPORTCNT to 0 (R435). -/
def State.clearSliceKeys (s : State) (sl : Nat) : State :=
  let mine := (s.hm.slots.filter fun p => p.2.owner = .slice sl).map (·.1)
  let s := mine.foldl (fun s n =>
    let s := s.bumpSlot n
    { s with hm := { s.hm with slots := Tbl.del s.hm.slots n } }) s
  { s.drawn with hm := { s.hm with
      imports := Tbl.set s.hm.imports sl { seed := Config.freeNat s.free, count := 0 } } }

/-! ## JTAG while locked (R448, R553) -/

/-- Words shifted out. -/
def State.jtagOut (s : State) (bs : List Byte) : State :=
  { s with out := { s.out with jtag := bs :: s.out.jtag } }

/-- JTAG_CHALLENGE (R448): the debug challenge, then the hash of the identity public key. -/
def execJtagChallenge (s : State) : Host.Outcome State Fault Refusal :=
  .next (s.jtagOut (s.hm.challenge ++ Config.shake256 (Config.publicKey identityKey) 32))

/-- Draw a debug challenge (R448). -/
def State.newChallenge (s : State) : State :=
  { s.drawnN 32 with hm := { s.hm with challenge := s.freeBytes 32 } }

end Sys2Proof.Machine
end

