-- ==== Sys2Proof/Machine/MediaOps.lean ====
section
/-! DEFINITION. The operations on namespaces, the map, the write buffer and the block sets that the media
commands share (chapters 05 to 07). -/

namespace Sys2Proof.Machine

/-- Change the media part of the state. -/
def State.modMedia (s : State) (f : Media → Media) : State := { s with media := f s.media }

/-! ## Namespaces (R73, R74, R153, R156) -/

/-- The map entry of an indirection unit as bits (R153): 40 of a plain namespace, 64 of a packed one. -/
def Ns.entryBits (n : Ns) (iu : Nat) : Nat :=
  let p := n.spec.packed
  match Tbl.get? n.units iu with
  | some o =>
    let (kind, set, g) := match o.loc with
      | .buffer slot => (1, 0, slot)
      | .flash set goff => (2, set, goff)
    if p then kind * 2 ^ 62 + (if o.raw then 2 ^ 61 else 0) + set * 2 ^ 43 + g * 2 ^ 20 + (o.len - 1) * 2 ^ 14
    else kind * 2 ^ 38 + set * 2 ^ 20 + g / 8
  | none => if n.dealloc.any fun r => r.1 ≤ iu && iu < r.2 then 0 else 3 * 2 ^ (if p then 62 else 38)

/-- Bytes of an LBA without protection information, of an indirection unit, of a map entry. -/
def NsSpec.lba (p : NsSpec) : Nat := if p.fmt = 0 then 512 else 4096
def NsSpec.iuBytes (p : NsSpec) : Nat := if p.iu16 then 16384 else 4096
def NsSpec.entry (p : NsSpec) : Nat := if p.packed then 8 else 5
/-- LBAs in an indirection unit. -/
def NsSpec.lbas (p : NsSpec) : Nat := p.iuBytes / p.lba
/-- Stored units of a plain or RAW indirection unit. -/
def NsSpec.iuUnits (p : NsSpec) : Nat := p.iuBytes / 4096
/-- Indirection units of a namespace, and map bytes (R156). -/
def NsSpec.ius (p : NsSpec) : Nat := (p.nsze * p.lba + p.iuBytes - 1) / p.iuBytes
def NsSpec.mapBytes (p : NsSpec) : Nat := p.ius * p.entry
/-- Cell mode of its units after fold (R151). -/
def NsSpec.mode (p : NsSpec) : Cell := if p.cell = 0 then .qlc else if p.cell = 1 then .plc else .slc
def NsSpec.role (p : NsSpec) : Role := if p.cell = 2 then .fast else .dense

/-- A namespace by its NSX. -/
def State.nsx (s : State) (x : Nat) : Ns := Tbl.getD s.media.ns x { nsid := 0, slice := 0, spec := {} }

/-- Change a namespace. -/
def State.modNs (s : State) (x : Nat) (f : Ns → Ns) : State :=
  s.modMedia fun m => match Tbl.get? m.ns x with
    | some n => { m with ns := Tbl.set m.ns x (f n) }
    | none => m

/-- The namespace exists for its slice: created, not deleted. -/
def Ns.lives (n : Ns) : Bool := !n.pending && !n.deleted

/-- The namespaces of a slice, by NSX. -/
def State.nsOfSlice (s : State) (sl : Nat) : List (Nat × Ns) :=
  s.media.ns.filter fun p => p.2.slice = sl && p.2.lives

/-- A slice's namespace by NSID. -/
def State.findNs (s : State) (sl nsid : Nat) : Option (Nat × Ns) :=
  (s.nsOfSlice sl).find? fun p => p.2.nsid = nsid

/-- Map bytes that count against the budget (R74, R154). -/
def Ns.budget (n : Ns) : Nat := if n.deleted then n.left else n.spec.mapBytes

/-- Dies populated: 32 for each die position. -/
def Media.dies (m : Media) : Nat := 32 * m.dpos

/-- The map budget (R156, R179). -/
def State.mapBudget (s : State) : Nat :=
  if !s.media.formed then 0
  else gib * (s.dramGib - s.dram.btSize - 5) - 2 ^ 20 * s.media.dies

/-- Map bytes in use. -/
def Media.mapUsed (m : Media) : Nat := m.ns.foldl (fun n p => n + p.2.budget) 0

/-! ## Block sets (R150 to R152, R163, R169) -/

/-- A block set. -/
def Media.set (m : Media) (n : Nat) : BlockSet := Tbl.getD m.sets n {}

/-- Change a block set. -/
def Media.modSet (m : Media) (n : Nat) (f : BlockSet → BlockSet) : Media :=
  { m with sets := Tbl.set m.sets n (f (m.set n)) }

/-- A set's equivalent erase count: the highest of its blocks (R169). -/
def BlockSet.eec (b : BlockSet) : Nat := b.eecs.foldl max 0

/-- Value for a cell mode out of four. -/
def Cell.pick (c : Cell) (x : Nat × Nat × Nat × Nat) : Nat :=
  match c with
  | .slc => x.1
  | .tlc => x.2.1
  | .qlc => x.2.2.1
  | .plc => x.2.2.2

/-- Number of a cell mode, bits of a cell, bytes of a codeword (R190, R191). -/
def Cell.num : Cell → Nat
  | .slc => 0
  | .tlc => 1
  | .qlc => 2
  | .plc => 3
def Cell.bits (c : Cell) : Nat := c.pick (1, 3, 4, 5)
def Cell.codeword (c : Cell) : Nat := c.pick (4320, 4384, 4416, 4448)

/-- Codewords of a page, and U_m (R191). -/
def Media.perPage (m : Media) (c : Cell) : Nat := m.planes * (m.pageBytes / c.codeword)
def Media.units (m : Media) (c : Cell) : Nat := m.wordlines * c.bits * m.perPage c

/-- Granules of a whole set in a mode with `out` channels left out (R152, R207). -/
def Media.setGranules (m : Media) (c : Cell) (out : Nat) : Nat := 8 * (31 - out) * m.units c

/-- Granules of a set. -/
def Media.cap (m : Media) (b : BlockSet) : Nat := m.setGranules b.cell b.out.length

/-- Sets formed with a number below `n`: set `s` lies at position `s` mod D (R150). -/
def Media.setsBelow (m : Media) (n : Nat) : Nat :=
  (m.posSets.mapIdx fun p k => min k ((n + m.dpos - 1 - p) / m.dpos)).foldl (· + ·) 0

/-- A number names a block set: one of the first 262,144 formed (R150). -/
def Media.isSet (m : Media) (n : Nat) : Bool :=
  n / m.dpos < m.posSets.getD (n % m.dpos) 0 && m.setsBelow n < 262144

/-- Block sets formed. -/
def Media.nSets (m : Media) : Nat := min 262144 (m.posSets.foldl (· + ·) 0)

/-- N of R157. -/
def Media.inService (m : Media) : Nat := m.nSets - m.retired
/-- Sets of the staging band (R157). -/
def Media.band (m : Media) : Nat := max 32 ((m.inService + 31) / 32)
/-- Staging sets that are not erased. -/
def Media.stagingUsed (m : Media) : Nat :=
  (m.sets.filter fun p => p.2.role = .staging && p.2.st ≠ .erased && p.2.st ≠ .retired).length
/-- Erased sets of the staging band. -/
def Media.stagingErased (m : Media) : Nat := m.band - m.stagingUsed
/-- Erased sets. -/
def Media.erased (m : Media) : Nat := m.nSets - (m.sets.filter fun p => p.2.st ≠ .erased).length
/-- Bytes of a set in a mode. -/
def Media.setBytes (m : Media) (c : Cell) : Nat := 31 * m.units c * 4096
/-- Sets that hold `n` bytes in a mode. -/
def Media.setsFor (m : Media) (c : Cell) (n : Nat) : Nat :=
  if m.setBytes c = 0 then 0 else (n + m.setBytes c - 1) / m.setBytes c
/-- Bytes of the write buffer in use (R492). -/
def Media.wbBytes (m : Media) : Nat := m.wb * 2 ^ 26
/-- Sets of the flush reserve (R157). -/
def Media.reserve (m : Media) : Nat := m.setsFor .slc (m.wbBytes + 2 ^ 26)
/-- Spare staging (R159). -/
def Media.spareStaging (m : Media) : Nat := m.stagingErased - m.reserve
/-- F_min (R163). -/
def Media.fMin (m : Media) : Nat := max 8 (2 * m.setsFor .slc m.wbBytes)
/-- Map sets (R155, R176). -/
def State.mapSets (s : State) : Nat := 2 * s.media.setsFor .tlc s.mapBudget
/-- Map sets that hold segments. -/
def Media.mapUsed_ (m : Media) : Nat :=
  (m.sets.filter fun p => p.2.role = .map && p.2.st ≠ .erased && p.2.st ≠ .retired).length
/-- The free pool: erased sets that are neither in the staging band nor held for the map (R163, R176;
log entry 19). -/
def State.freeSets (s : State) : Nat :=
  s.media.erased - s.media.stagingErased - (s.mapSets - s.media.mapUsed_)

/-- The channel of a page's truss parity: (set + page) mod 32, or the next above that is not left out (R204, R207). -/
def parityChan (set page : Nat) (out : List Nat) : Option Nat :=
  ((List.range 32).map fun i => (set + page + i) % 32).find? fun c => !out.contains c

/-- The channels that carry data of a set, without its parity channel of a page (R152, R204, R207). -/
def dataChans (set page : Nat) (out : List Nat) : List Nat :=
  (List.range 32).filter fun c => !out.contains c && some c ≠ parityChan set page out

/-- Data pages of a stripe of a set, and its units (R152, R207). -/
def BlockSet.width (b : BlockSet) : Nat := 31 - b.out.length
def Media.stripe (m : Media) (b : BlockSet) : Nat := b.width * m.perPage b.cell

/-- The page of a unit offset of a set, its channel, and its codeword in the page (R152, R191, R204). -/
def Media.unitPage (m : Media) (set off : Nat) : Nat := off / m.stripe (m.set set)
def Media.unitChan (m : Media) (set off : Nat) : Nat :=
  let b := m.set set
  (dataChans set (m.unitPage set off) b.out).getD (off / m.perPage b.cell % b.width) 0
def Media.unitWord (m : Media) (set off : Nat) : Nat := off % m.perPage (m.set set).cell

/-- Plane and first byte column of a codeword of a page, numbered plane by plane (R191). -/
def Media.wordPlane (m : Media) (c : Cell) (k : Nat) : Nat := k / (m.pageBytes / c.codeword)
def Media.wordCol (m : Media) (c : Cell) (k : Nat) : Nat := k % (m.pageBytes / c.codeword) * c.codeword

/-- The wordline of a unit, pages of a wordline lying together (log entry 143), and its wordline group (R194). -/
def Media.wordline (m : Media) (set off : Nat) : Nat := m.unitPage set off / (m.set set).cell.bits
def Media.wlGroup (m : Media) (set off : Nat) : Nat := 8 * m.wordline set off / m.wordlines

/-- Die of a set on a channel: position × 32 + channel; die of a unit. -/
def Media.dieOf (m : Media) (set chan : Nat) : Nat := set % max 1 m.dpos * 32 + chan
def Media.unitDie (m : Media) (set off : Nat) : Nat := m.dieOf set (m.unitChan set off)

/-- A flash channel. -/
def Media.chan (m : Media) (c : Nat) : Chan := Tbl.getD m.chans c {}
/-- Change a flash channel. -/
def Media.modChan (m : Media) (c : Nat) (f : Chan → Chan) : Media :=
  { m with chans := Tbl.set m.chans c (f (m.chan c)) }

/-- The die is failed, or its channel is. -/
def Media.dieOut (m : Media) (die : Nat) : Bool := m.dieBad.contains die || (m.chan (die % 32)).failed

/-- The lowest set at a position that no record names. -/
def Media.freshAt (m : Media) (pos : Nat) : Option Nat :=
  ((List.range (m.sets.length + 1)).map fun j => pos + m.dpos * j).find? fun n => m.isSet n && (Tbl.get? m.sets n).isNone

/-- The lowest set that no record names, at a position or anywhere. -/
def Media.firstFresh (m : Media) (pos : Option Nat) : Option Nat :=
  match pos with
  | some p => m.freshAt p
  | none => (List.range m.dpos).foldl (fun b p => match b, m.freshAt p with
    | some x, some y => some (min x y)
    | none, y => y
    | x, none => x) none

/-- The erased set with the lowest EEC, or the highest, at a position or anywhere (R169, R170). -/
def Media.pickErased (m : Media) (pos : Option Nat) (highest : Bool) : Option Nat :=
  let here (n : Nat) : Bool := match pos with
    | some p => n % max 1 m.dpos = p
    | none => true
  let listed := (m.sets.filter fun p => p.2.st = .erased && here p.1).map fun p => (p.1, p.2.eec)
  let all := match m.firstFresh pos with
    | some n => (n, 0) :: listed
    | none => listed
  (all.foldl (fun (b : Option (Nat × Nat)) x => match b with
    | none => some x
    | some y => if (if highest then y.2 < x.2 else x.2 < y.2) || (x.2 = y.2 && x.1 < y.1) then some x else some y)
    none).map (·.1)

/-- Open an erased set (R151, R207): members failed by now are left out. -/
def Media.openSet (m : Media) (n : Nat) (role : Role) (cell : Cell) (p : Purpose) : Media :=
  let out := (List.range 32).filter fun c => m.dieOut (m.dieOf n c)
  m.modSet n fun b => { b with
    st := .open_, role := role, cell := cell, purpose := p, cursor := 0, packed := none, nsx := 0, exts := []
    valid := 0, out := out, degraded := false, naked := [] }

/-- The set open for a role, mode and purpose, at a position for staging. -/
def Media.findOpen (m : Media) (role : Role) (cell : Cell) (p : Purpose) (pos : Option Nat) : Option Nat :=
  (m.sets.find? fun x => x.2.st = .open_ && x.2.role = role && x.2.cell = cell && x.2.purpose = p && match pos with
    | some k => x.1 % max 1 m.dpos = k
    | none => true).map (·.1)

/-- Close a set (R172). -/
def State.closeSet (s : State) (n : Nat) : State :=
  s.modMedia fun m => m.modSet n fun b =>
    if b.st = .open_ then { b with st := .closed, closedAt := s.dev.smart.piers } else b

/-- Programs of a set that are not complete. -/
def Media.setProgs (m : Media) (set : Nat) : Bool := m.progs.any fun p => p.2.set = set

/-- Journal entries not yet sent, over all partitions. -/
def Media.jopen (m : Media) : Nat := m.jparts.foldl (fun n p => n + p.2) 0

/-- Every journal entry is durable (R173): at its commit while hold-up works; while writing through, once programmed. -/
def Media.durable (m : Media) : Bool := !m.wthru || (m.jopen = 0 && m.progs.all fun p => p.2.entries = 0)

/-- Nothing keeps a set from its erase: no valid granule, no program in flight, no journal page, durable entries
(R155, R172). -/
def Media.spent (m : Media) (n : Nat) : Bool :=
  (m.set n).valid = 0 && !m.setProgs n && m.durable && m.jpages.all fun p => p.set ≠ n

/-- A closed or relocating set that is spent goes stale (R172). -/
def State.settle (s : State) (n : Nat) : State :=
  let b := s.media.set n
  if (b.st = .closed ∨ b.st = .relocating) ∧ s.media.spent n then
    s.modMedia fun m => { m.modSet n fun b => { b with st := .stale } with
      moves := m.moves.filter fun v => v.source ≠ n }
  else s

/-- Settle every set, after journal entries have become durable. -/
def State.settleAll (s : State) : State := s.media.sets.foldl (fun s p => s.settle p.1) s

/-! ## Placing units in a set (R152, R226 to R229) -/

/-- The first unit boundary at or above a granule. -/
def upUnit (g : Nat) : Nat := (g + 7) / 8 * 8

/-- Where the next extent of a set begins and the set after it, in granules: `len` granules, of a
compressed extent of a namespace when `comp` holds, else of whole units. -/
def BlockSet.place (b : BlockSet) (comp : Bool) (nsx len : Nat) : Nat × BlockSet :=
  let skip (g : Nat) : Nat := if b.packed = some (g / 512) ∧ 504 ≤ g % 512 then (g / 512 + 1) * 512 else g
  if comp then
    let g := if b.cursor % 8 ≠ 0 ∧ b.nsx ≠ nsx then upUnit b.cursor else b.cursor
    let g := if 504 < g % 512 + len then (g / 512 + 1) * 512 else g
    (g, { b with cursor := g + len, packed := some (g / 512), nsx := nsx })
  else
    let g := skip (upUnit b.cursor)
    let g := if b.packed = some (g / 512) ∧ 504 < g % 512 + len then (g / 512 + 1) * 512 else g
    (g, { b with cursor := g + len })

/-- Where a run of whole units goes, in granules: one with compressed extents stays within a packing group (R228,
R229). -/
def BlockSet.placeRun (b : BlockSet) (comp : Bool) (units : Nat) : Nat × BlockSet :=
  let g := upUnit b.cursor
  if comp then
    let g := if 504 < g % 512 + 8 * units then (g / 512 + 1) * 512 else g
    (g, { b with cursor := g + 8 * units, packed := some (g / 512), nsx := 4096 })
  else b.place false 0 (8 * units)

/-- What is placed at granule `g` of a set lies in it whole; compressed extents take no group that has no room for its
packing unit. -/
def Media.holds (m : Media) (b : BlockSet) (comp : Bool) (g len : Nat) : Bool :=
  (if comp then (g / 512 + 1) * 512 else g + len) ≤ m.cap b

/-! ## The map (R29, R153 to R155) -/

/-- Change a map segment. -/
def Media.modSeg (m : Media) (k : Nat) (f : Segment → Segment) : Media :=
  { m with segs := Tbl.set m.segs k (f (Tbl.getD m.segs k {})) }

/-- The map segment that holds an entry: 4 MiB of the namespace's map (R155). -/
def State.segOf (s : State) (x iu : Nat) : Nat := x * 2 ^ 20 + iu * (s.nsx x).spec.entry / 2 ^ 22

/-- The keeper index that serves a namespace number: its slice modulo 4; 0 for the device's own (R28). -/
def State.nsPair (s : State) (x : Nat) : Nat := if x < 4096 then (s.nsx x).slice % 4 else 0

/-- Enter one more entry in a partition of the journal. -/
def Media.jadd (m : Media) (pair : Nat) : Media :=
  { m with jparts := Tbl.set m.jparts pair (Tbl.getD m.jparts pair 0 + 1) }

/-- A change of a map entry is journalled; it touches its map segment (R155). -/
def State.journal (s : State) (x iu : Nat) : State :=
  let k := s.segOf x iu
  s.modMedia fun m => { (m.modSeg k fun g => { g with touched := g.touched + 1 }).jadd (s.nsPair x) with
    jsegs := insNat k m.jsegs }

/-- Commands that waited for programs and have no item left in the write buffer wait for their journal entries (R495). -/
def State.ownersDone (s : State) (owners : List (Src × W16)) : State :=
  let left := owners.eraseDups.filter fun o => !s.media.buf.any fun b => b.owner = some o
  s.modMedia fun m => { m with jown := m.jown ++ left }

/-- An indirection unit's buffer item that is not yet dispatched is dropped (R160). -/
def State.dropItem (s : State) (x iu : Nat) : State :=
  let gone := s.media.buf.filter fun b => b.nsx = x && b.iu = iu && b.prog.isNone
  (s.modMedia fun m => { m with buf := m.buf.filter fun b => !(b.nsx = x && b.iu = iu && b.prog.isNone) }).ownersDone
    (gone.filterMap (·.owner))

/-- A set gives up granules (R154). -/
def State.dropGranules (s : State) (set n : Nat) : State :=
  (s.modMedia fun m => m.modSet set fun b => { b with valid := b.valid - n }).settle set

/-- The old place of a map entry gives up its granules or its buffer item (R154, R160). -/
def State.releaseLoc (s : State) (o : Iu) (x iu : Nat) : State :=
  match o.loc with
  | .flash set _ => s.dropGranules set o.len
  | .buffer _ => s.dropItem x iu

/-- The entry on flash that a new entry leaves behind: the one it replaces, or the one that one replaced. -/
def Iu.behind (o : Iu) : Option OldIu :=
  match o.loc with
  | .flash set g => some ⟨set, g, o.data, o.tags, o.len, o.raw, o.clen⟩
  | .buffer _ => o.old

/-- Give an indirection unit a new map entry. -/
def State.putIu (s : State) (x iu : Nat) (n : Iu) : State :=
  let before := Tbl.get? (s.nsx x).units iu
  let n := { n with old := match n.loc with
    | .flash _ _ => none
    | .buffer _ => before.bind Iu.behind }
  let s := match n.loc with
    | .flash set _ => s.modMedia fun m => m.modSet set fun b => { b with valid := b.valid + n.len }
    | .buffer _ => s
  let s := (s.modNs x fun y => { y with units := Tbl.set y.units iu n }).journal x iu
  match before with
  | some o => s.releaseLoc o x iu
  | none => s

/-- Deallocate an indirection unit. -/
def State.freeIu (s : State) (x iu : Nat) : State :=
  match Tbl.get? (s.nsx x).units iu with
  | none => s
  | some o => ((s.modNs x fun y => { y with units := Tbl.del y.units iu }).journal x iu).releaseLoc o x iu

/-- Every unit of a namespace reads as deallocated from now on (R76, R154): what is in the write buffer is dropped, and
the entries on media wait for the background windows that free them. -/
def State.freeAllIus (s : State) (x : Nat) : State :=
  let y := s.nsx x
  let on := y.units.filterMap fun p => match p.2.loc with
    | .flash set _ => some (p.1, set, p.2.len)
    | .buffer _ => none
  let s := (y.units.map (·.1)).foldl (fun s iu => s.dropItem x iu) s
  (s.modMedia fun m => { m.jadd (s.nsPair x) with
    freeing := m.freeing ++ [{ units := on, entry := y.spec.entry, left := y.spec.mapBytes }] }).modNs x fun y =>
      { y with units := [], dealloc := [(0, y.spec.ius)] }

/-! ## The write buffer (R157, R164, R166) -/

/-- Granules in the write buffer, and its size. -/
def Media.bufUsed (m : Media) : Nat := m.buf.foldl (fun n b => n + (b.len + 7) / 8 * 8) 0
def Media.bufCap (m : Media) : Nat := m.wbBytes / 512

/-- The lowest place in the write buffer for `n` granules; a multiple of 8 (log entry 20). -/
def Media.bufSlot (m : Media) (n : Nat) : Nat :=
  let free (a : Nat) : Bool := m.buf.all fun b => a + n ≤ b.slot || b.slot + b.len ≤ a
  let ends := 0 :: m.buf.map fun b => (b.slot + b.len + 7) / 8 * 8
  (ends.filter free).foldl min ((ends.foldl max 0))

/-- Granules not valid in all closed dense, fast and staging sets (R166). -/
def Media.notValid (m : Media) : Nat :=
  m.sets.foldl (fun n p =>
    if p.2.st = .closed ∧ p.2.role ≠ .map then n + (m.cap p.2 - p.2.valid) else n) 0

/-- The array is exhausted for a write of a mode (R166). -/
def State.exhaustedFor (s : State) (c : Cell) : Bool :=
  s.freeSets ≤ s.media.fMin && s.media.notValid < s.media.setGranules c 0

/-- Candidates of garbage collection (R162). -/
def Media.candidates (m : Media) : List (Nat × BlockSet) :=
  m.sets.filter fun p => p.2.st = .closed && (p.2.role = .dense || p.2.role = .fast)

/-- The victim (R162): `tight` when the free pool is below 32 sets. -/
def Media.victim (m : Media) (tight : Bool) (now : Nat) : Option (Nat × BlockSet) :=
  let age (b : BlockSet) : Nat := max 1 (now - b.closedAt)
  let better (x y : Nat × BlockSet) : Bool :=
    if tight then
      x.2.valid < y.2.valid || (x.2.valid = y.2.valid && (x.2.closedAt < y.2.closedAt ||
        (x.2.closedAt = y.2.closedAt && x.1 < y.1)))
    else
      let ux := m.cap x.2
      let uy := m.cap y.2
      let l := (ux - x.2.valid) * age x.2 * (uy + y.2.valid)
      let r := (uy - y.2.valid) * age y.2 * (ux + x.2.valid)
      r < l || (l = r && x.1 < y.1)
  m.candidates.foldl (fun b x => match b with
    | none => some x
    | some y => if better x y then some x else some y) none

/-- Verdict of R164 on a write. -/
inductive Verdict where
  | go (credit : Rat)
  | wait
  | full
  deriving DecidableEq, Repr

/-- Admission of `n` granules to the write buffer (R164, R165): with the free pool below 32 sets a victim's
credit is needed; with none to collect, or with F_min at 32 or above, the write waits, as it does for room in the
buffer. -/
def State.admission (s : State) (c : Cell) (n : Nat) : Verdict :=
  let f := s.freeSets
  let m := s.media
  if f < 32 && s.exhaustedFor c then .full
  else if m.bufCap < m.bufUsed + n then .wait
  else if 32 ≤ f then .go m.credit
  else match m.victim true s.dev.smart.piers with
    | none => .wait
    | some (_, b) =>
      let u := m.cap b
      if u ≤ b.valid ∨ 32 ≤ m.fMin ∨ f < m.fMin then .wait
      else
        let need : Rat := (n : Rat) * (b.valid : Rat) / ((u - b.valid : Nat) : Rat)
          * (1 + ((32 - f : Nat) : Rat) / ((32 - m.fMin : Nat) : Rat))
        if need ≤ m.credit then .go (m.credit - need) else .wait

/-- A write meets exhaustion (R167). -/
def State.exhaustion (s : State) (x : Nat) : State :=
  let s := s.modNs x fun n => { n with readOnly := true }
  let s := s.modMedia fun m => { m with exhaust := true }
  (s.setWarn 3 0).requestRepl 0

/-! ## Writing indirection units (R223, R226, R227) -/

/-- The data and tags of an indirection unit as they stand: zeros where it holds no data (R223). -/
def State.iuNow (s : State) (x iu : Nat) : Mem × List W16 :=
  match Tbl.get? (s.nsx x).units iu with
  | some o => (o.data, o.tags)
  | none => ([], List.replicate (if (s.nsx x).spec.fmt = 2 then (s.nsx x).spec.lbas else 0) 0)

/-- Key of a stored unit in the table. -/
def storedKey (set off : Nat) : Nat := set * 2 ^ 20 + off
/-- A stored unit. -/
def Media.storedAt (m : Media) (set off : Nat) : Option Stored := Tbl.get? m.stored (storedKey set off)

/-- Units that granules take. -/
def unitSpan (g len : Nat) : List Nat :=
  if len = 0 then [] else (List.range ((g + len - 1) / 8 + 1 - g / 8)).map fun i => g / 8 + i

/-- A unit that cannot be read: found unrecoverable, or stored no more (R202). -/
def Media.unitLost (m : Media) (set off : Nat) : Bool :=
  match m.storedAt set off with
  | none => true
  | some u => u.lost

/-- An indirection unit holds an unrecoverable or poisoned unit that a merge would have to read (R202). -/
def State.iuLost (s : State) (x iu : Nat) : Bool :=
  match Tbl.get? (s.nsx x).units iu with
  | some o => match o.loc with
    | .flash set g => (unitSpan g o.len).any fun off =>
        s.media.unitLost set off || (s.media.storedAt set off).any fun u => u.kind = 0xF
    | .buffer _ => false
  | none => false

/-- Granules, RAW and compressed length of an indirection unit's data (R226, R227). -/
def iuSize (p : NsSpec) (data : Mem) : Nat × Bool × Nat :=
  if !p.packed then (8 * p.iuUnits, false, 0)
  else
    let c := (Config.compress 1 0 [] (Mem.read data 0 16384)).length
    if 15840 < c then (32, true, 0) else ((32 + c + 511) / 512, false, c)

/-- Write an indirection unit whole into the write buffer (R35, R153). -/
def State.bufferIu (s : State) (x iu : Nat) (data : Mem) (tags : List W16) (owner : Option (Src × W16)) : State :=
  let n := s.nsx x
  let (len, raw, clen) := iuSize n.spec data
  let slot := s.media.bufSlot len
  let s := s.putIu x iu { loc := .buffer slot, data := data, tags := tags, len := len, raw := raw, clen := clen }
  let item : BufItem := { slot := slot, len := len, nsx := x, iu := iu, raw := raw, packed := n.spec.packed
                          data := data, clen := clen, tags := tags, slice := n.slice, owner := owner }
  let s := if n.spec.packed then s.meterUp n.slice fun c => { c with crucible := c.crucible + 16384 } else s
  s.modMedia fun m => { m with buf := m.buf ++ [item] }

/-- Change some LBAs of one indirection unit: `new` gives the bytes of LBA `i` of the unit, and its tag,
where it changes. What a packed unit keeps is decompressed first (R131). -/
def State.mergeIu (s : State) (x iu : Nat) (new : Nat → Option (List Byte × W16)) (owner : Option (Src × W16)) :
    State :=
  let p := (s.nsx x).spec
  let (d, t) := s.iuNow x iu
  let (d, t) := (List.range p.lbas).foldl (fun (a : Mem × List W16) i => match new i with
    | some (bs, tag) => (Mem.write (Mem.clear a.1 (i * p.lba) p.lba) (i * p.lba) bs,
        if p.fmt = 2 then a.2.mapIdx fun j v => if j = i then tag else v else a.2)
    | none => a) (d, t)
  let s := match Tbl.get? (s.nsx x).units iu with
    | some o =>
      if p.packed && !o.raw && (List.range p.lbas).any fun i => (new i).isNone then
        s.meterUp (s.nsx x).slice fun c => { c with crucible := c.crucible + o.clen }
      else s
    | none => s
  s.bufferIu x iu d t owner

/-- Debit a slice's flash balance (R100). -/
def State.chargeFlash (s : State) (sl n : Nat) : State :=
  s.modSlice sl fun x => { x with balFlash := x.balFlash - (n * 65536 : Nat) }

/-- The generation of a namespace's media key (R213). -/
def State.mediaKey (s : State) (x : Nat) : MediaKey := Tbl.getD s.hm.media x {}

/-- The cipher lanes drop keys of older generations that no read carries (R216). -/
def State.purgeKeys (s : State) : State :=
  s.modMedia fun m => { m with chans := Tbl.mapV m.chans fun _ c => { c with
    keys := c.keys.filter fun k => (s.mediaKey k.1).gen = k.2 || m.reads.any fun p => p.2.nsx = k.1 && p.2.gen = k.2 } }

/-- Draw a new media key for an entry and raise its generation (R213, R217). -/
def State.newMediaKey (s : State) (x : Nat) : State :=
  let k := s.mediaKey x
  ({ s.drawn with hm := { s.hm with
      media := Tbl.set s.hm.media x { key := Config.freeNat s.free, gen := k.gen + 1, seq := 0, res := 0 } } }).purgeKeys

/-- The media key table is wrapped under a new table key and written to the system blocks of channels 0 to 2; the copies
before it are erased in the background windows to come (R213, R214, R429). -/
def State.wrapTable (s : State) : State :=
  let key := Config.freeNat s.free
  let table := s.hm.media.filter (·.1 ≤ 4096)
  let s := s.drawn
  { s with
    hm := { s.hm with tableKey := key, nvWrites := s.hm.nvWrites + 1 }
    media := { s.media with
      tables := (s.media.tables.map fun t => { t with stale := true })
        ++ [0, 1, 2].map fun c => { chan := c, key := key, keys := table } } }

/-- A namespace is gone: its map waits to be freed, and what the write buffer holds of it is dropped (R74, R154, R160). -/
def State.deleteNs (s : State) (x : Nat) : State :=
  (((s.nsx x).units.map (·.1)).foldl (fun s iu => s.dropItem x iu) s).modNs x fun y =>
    { y with deleted := true, attached := false, left := y.spec.mapBytes }

/-- A cipher lane takes a key: a miss loads it over the private key bus (R216). -/
def State.laneKey (s : State) (chan x : Nat) (gen : W16) : State :=
  s.modMedia fun m => m.modChan chan fun c => { c with
    keys := ((x, gen) :: c.keys.filter fun k => k ≠ (x, gen)).take 64 }

/-- Take the next SEQ of an entry, journalling a reservation of 65,536 more when it reaches the last (R217). -/
def State.takeSeq (s : State) (x : Nat) : Nat × State :=
  let k := s.mediaKey x
  let fits : Bool := k.seq < k.res
  let s := if fits then s else s.modMedia fun m => m.jadd (s.nsPair x)
  (k.seq, { s with hm := { s.hm with
    media := Tbl.set s.hm.media x { k with seq := k.seq + 1, res := if fits then k.res else k.seq + 65536 } } })

/-- Queue a refresh move of an indirection unit at the place it has (R201). -/
def State.queueRefresh (s : State) (x iu : Nat) : State :=
  match (Tbl.get? (s.nsx x).units iu).map Iu.loc with
  | some (MapLoc.flash set goff) =>
    let r : Refresh := ⟨x, iu, set, goff⟩
    if s.media.refresh.contains r then s else s.modMedia fun m => { m with refresh := m.refresh ++ [r] }
  | _ => s

/-- The indirection units stored in a set, in the order of their namespaces and maps. -/
def Media.extsIn (m : Media) (set : Nat) : List Ext :=
  m.ns.flatMap fun p => if !p.2.lives then [] else p.2.units.filterMap fun u =>
    match u.2.loc with
    | .flash k g => if k = set then some ⟨p.1, u.1, g, u.2.len⟩ else none
    | .buffer _ => none

/-- Queue refresh moves of the valid units of a set in a range of granules. -/
def State.refreshIn (s : State) (set lo hi : Nat) : State :=
  ((s.media.extsIn set).filter fun x => x.goff < hi && lo < x.goff + x.len).foldl (fun s x => s.queueRefresh x.nsx x.iu) s

/-- A stripe of a set is unprotected: its valid units are queued for refresh moves (R205). -/
def State.nakedStripe (s : State) (set page : Nat) : State :=
  let n := 8 * s.media.stripe (s.media.set set)
  (s.modMedia fun m => m.modSet set fun b => { b with naked := insNat page b.naked }).refreshIn set (page * n) ((page + 1) * n)

/-- Key of a stripe. -/
def stripeKey (set page : Nat) : Nat := set * 2 ^ 16 + page

/-- A set takes no more data: the stripe that it was filling gets no parity page, and its packing group no packing unit
(R205, R229; log entry 144). -/
def State.cutSet (s : State) (set : Nat) : State :=
  let b := s.media.set set
  let s := s.closeSet set
  let s := match b.packed with
    | some k => s.refreshIn set (512 * k) (512 * k + 512)
    | none => s
  let page := s.media.unitPage set ((b.cursor - 1) / 8)
  let s := if b.cursor / 8 < (page + 1) * s.media.stripe b && (Tbl.get? s.media.truss (stripeKey set page)).isSome then
      (s.modMedia fun m => { m with truss := Tbl.del m.truss (stripeKey set page) }).nakedStripe set page
    else s
  s.modMedia fun m => m.modSet set fun b => { b with packed := none, exts := [] }

/-! ## Failed members (R205, R207, R462, R463) -/

/-- The fault log's numbers of a channel and die position. -/
def dieUnit (die : Nat) : Nat × Nat := (die % 32, die / 32)

/-- Every set with a page on a failed member is degraded: an open one closes, and its valid units are queued for refresh
moves; reads on the member pass to step 6, those in the soft pool at their next step (R207, R463). -/
def State.degrade (s : State) (hit : Nat → Nat → Bool) : State :=
  let sets := s.media.sets.filter fun p =>
    p.2.st ≠ .erased && p.2.st ≠ .retired && (List.range 32).any fun c =>
      !p.2.out.contains c && hit p.1 c
  let s := sets.foldl (fun s p =>
    let s := s.modMedia fun m => m.modSet p.1 fun b => { b with degraded := true }
    let s := if p.2.st = .open_ then s.cutSet p.1 else s
    s.refreshIn p.1 0 (s.media.cap p.2)) s
  s.modMedia fun m => { m with
    reads := Tbl.mapV m.reads fun _ r =>
      if r.soft.isNone && hit r.set (m.unitChan r.set r.off) then { r with step := 6, issued := true } else r }

/-- A channel is failed (R205). -/
def State.failChannel (s : State) (c cause : Nat) : State :=
  if (s.media.chan c).failed then s
  else
    let s := s.modMedia fun m => m.modChan c fun x => { x with failed := true, rate := 0, next := none, then_ := none }
    let s := s.degrade fun _ k => k = c
    (s.logFault 0x0F 3 [c] none [0] [cause]).requestRepl 8

/-- A die is failed (R462, R463); with more than half the dies of its channel failed, the channel is. -/
def State.failDie (s : State) (die cause : Nat) : State :=
  if s.media.dieOut die then s
  else
    let s := s.modMedia fun m => { m with dieBad := insNat die m.dieBad }
    let s := s.degrade fun n c => s.media.dieOf n c = die
    let s := (s.logFault 0x0E 3 [(dieUnit die).1] none [(dieUnit die).2] [cause]).requestRepl 7
    let n := (s.media.dieBad.filter fun d => d % 32 = die % 32).length
    if s.media.dpos < 2 * n then s.failChannel (die % 32) 4 else s

/-- Degraded sets hold pages on a channel (FL.CHSTAT.DEGR, R189). -/
def Media.degr (m : Media) (c : Nat) : Bool :=
  m.sets.any fun p => p.2.degraded && !p.2.out.contains c && m.dieOut (m.dieOf p.1 c)

/-- Spares left at a die, by their equivalent erase counts. -/
def Media.sparesAt (m : Media) (die : Nat) : List Nat := Tbl.getD m.spares die []

/-- Spares left on a channel. -/
def Media.chanSpares (m : Media) (c : Nat) : Nat :=
  (List.range m.dpos).foldl (fun n p => n + (m.sparesAt (p * 32 + c)).length) 0

/-- Available Spare in per cent (R177). -/
def Media.availableSpare (m : Media) : Nat :=
  (List.range 32).foldl (fun n c =>
    let all := m.spares0.getD c 0
    if all = 0 then 0 else min n (100 * m.chanSpares c / all)) 100

/-- Percentage Used (R177): from the mean EEC of the blocks of the sets in service. -/
def Media.percentUsed (m : Media) : Nat :=
  let sets := m.sets.filter fun p => p.2.st ≠ .retired
  let n := 32 * m.inService - sets.foldl (fun a p => a + p.2.out.length) 0
  let sum := sets.foldl (fun a p => a + (p.2.eecs.mapIdx fun c e => if p.2.out.contains c then 0 else e).foldl (· + ·) 0) 0
  if n = 0 ∨ m.rating.2.2.1 = 0 then 0 else min 255 (100 * sum / (n * 256 * m.rating.2.2.1))

/-- Available Spare has changed: warning while below 10 %, replacement at 0 (R177). -/
def State.checkSpare (s : State) : State :=
  if !s.media.formed then s
  else
    let a := s.media.availableSpare
    let s := if a < 10 then s.setWarn 0 2 else { s with dev := { s.dev with warn := s.dev.warn &&& ~~~1#8 } }
    if a = 0 then s.requestRepl 1 else s

/-- Insert a number into a rising list that may repeat. -/
def insSorted : Nat → List Nat → List Nat
  | n, [] => [n]
  | n, k :: t => if n ≤ k then n :: k :: t else k :: insSorted n t

/-- Take a spare for a block of a die, the least worn: from its own position, else from any die of the channel (R173); 16
exchanges of one die within 1,000 piers fail it (R462). It answers the spare's EEC; none when the channel has no spare. -/
def State.takeSpare (s : State) (die : Nat) : Option (Nat × State) :=
  let m := s.media
  let from_ := (die :: (List.range m.dpos).map fun p => p * 32 + die % 32).findSome? fun d =>
    (m.sparesAt d).head?.map fun e => (d, e)
  from_.map fun (d, e) =>
    let now := s.dev.smart.piers
    let h := (now :: Tbl.getD m.swaps die []).filter fun t => now < t + 1000
    let s := s.modMedia fun m => { m with
      spares := Tbl.set m.spares d ((m.sparesAt d).drop 1)
      swaps := Tbl.set m.swaps die h }
    let s := s.checkSpare
    (e, if 16 ≤ h.length then s.failDie die 3 else s)

/-- A block set has a block to erase for a sanitize: one that holds a unit of the slice, or any that is not erased (R77). -/
def State.setHolds (s : State) (n : Nat) (scope : Option Nat) : Bool :=
  let b := s.media.set n
  b.st ≠ .erased && b.st ≠ .retired && match scope with
    | none => true
    | some sl => s.media.stored.any fun p => p.1 / 2 ^ 20 = n && p.2.slice = sl

/-- The sets that a block erase has still to erase. -/
def State.setsToErase (s : State) (scope : Option Nat) : List Nat :=
  (s.media.sets.filter fun p => s.setHolds p.1 scope).map (·.1)

/-- EXHAUST clears when the free pool holds more than 64 sets (R168). -/
def State.checkExhaust (s : State) : State :=
  if s.media.exhaust && 64 < s.freeSets then s.modMedia fun m => { m with exhaust := false } else s

/-- Critical warning bit 3 stays set while any namespace is read-only (R168). -/
def State.checkReadOnly (s : State) : State :=
  if s.media.ns.any fun p => p.2.lives && p.2.readOnly then s
  else { s with dev := { s.dev with warn := s.dev.warn &&& ~~~8#8 } }

end Sys2Proof.Machine
end

