-- ==== Sys2Proof/Machine/Reads.lean ====
section
/-! DEFINITION. Reads of stored units on their way: the arbiters between slices, the thresholds that the dies are given, the
steps of the retry ladder and the soft pool (R30, R31, R102, R159, R161, R193 to R200, R207). -/

namespace Sys2Proof.Machine

/-! ## The flash arbiters (R102) -/

/-- Distance of a slice number above the last winner's. -/
def above (last n : Nat) : Nat := (n + 1023 - last) % 1024

/-- Of two slices, the one that an arbiter serves: the higher flash balance, then the lowest number above the last
winner. -/
def State.sliceBefore (s : State) (last a b : Nat) : Bool :=
  let x := (s.slice a).balFlash
  let y := (s.slice b).balFlash
  y < x || (x = y && above last a < above last b)

/-- The request that a flash arbiter serves, oldest first of one slice; a slice with share 0 is never chosen. -/
def State.arbPick {α : Type} (s : State) (last : Nat) (slice : α → Nat) (l : List α) : Option α :=
  (l.filter fun x => (s.slice (slice x)).flash ≠ 0).foldl (fun b x => match b with
    | none => some x
    | some y => if s.sliceBefore last (slice x) (slice y) then some x else some y) none

/-! ## Read thresholds (R194, R199, R200) -/

/-- Levels L of a mode, and its soft step δ. -/
def Cell.levels (c : Cell) : Nat := c.pick (1, 7, 15, 31)
def Cell.softStep (c : Cell) : Int := (c.pick (8, 5, 4, 3) : Nat)

/-- Key of the tracked values of a die, mode and wordline group. -/
def trackKey (die : Nat) (c : Cell) (wl : Nat) : Nat := (die * 4 + c.num) * 8 + wl

/-- The offset of read level `k` from the die's default (R194), a half rounded up (log entry 24): o and a hold 8 fraction
bits, and g counts 1/65,536 step per level. -/
def Track.offset (t : Track) (c : Cell) (k : Nat) : Int :=
  (512 * (t.o + if k = 1 then t.a else 0) + t.g * (2 * (k : Int) - (c.levels + 1)) + 65536).fdiv 131072

/-- The offsets of every level. -/
def Track.offsets (t : Track) (c : Cell) : List Int := (List.range c.levels).map fun i => t.offset c (i + 1)

/-- The tracked values of a unit's die, mode and wordline group. -/
def Media.trackKeyOf (m : Media) (set off : Nat) : Nat := trackKey (m.unitDie set off) (m.set set).cell (m.wlGroup set off)
def Media.trackOf (m : Media) (set off : Nat) : Track := Tbl.getD m.track (m.trackKeyOf set off) {}

/-- The tracked values with those of the neighbouring wordline groups averaged in, rounded down (R200). -/
def Media.trackMean (m : Media) (set off : Nat) : Track :=
  let g := m.wlGroup set off
  let l := ([g - 1, g, g + 1].eraseDups.filter (· < 8)).map fun w =>
    Tbl.getD m.track (trackKey (m.unitDie set off) (m.set set).cell w) {}
  let mean (f : Track → Int) : Int := (l.foldl (fun a t => a + f t) 0).fdiv l.length
  { o := mean (·.o), g := mean (·.g), a := mean (·.a) }

/-- The page reads of a ladder step at the offsets it starts from, and `kept`, the sweep's choice at step 5 (R199,
R200). -/
def ladderSenses (c : Cell) (thr : List Int) (kept : Int) (step : Nat) : List (List Int) :=
  let at_ (d : Int) : List Int := thr.map (· + d)
  let four (d : Int) : List (List Int) :=
    [at_ (d - c.softStep), at_ (d + c.softStep), at_ (d - 2 * c.softStep), at_ (d + 2 * c.softStep)]
  if step = 2 then [at_ (-c.softStep), at_ c.softStep]
  else if step = 4 then four 0
  else if step = 5 then ((List.range 7).map fun (i : Nat) => at_ (8 * (i : Int) - 24)) ++ four kept
  else [at_ 0]

/-- Magnitudes of the regions outward from a level (R199): a 2-read, a 4-read, a hard read. -/
def softMags (step : Nat) : List Nat := if step = 2 then [2, 7] else if step = 4 ∨ step = 5 then [0, 4, 7] else [7]

/-- A step of the soft pool. -/
def softStage (step : Nat) : Bool := step = 2 || step = 4 || step = 5

/-! ## The soft pool (R31, R193, R468) -/

/-- The group of soft decoders of a channel's row, and its decoders in service. -/
def softGroup (chan : Nat) : Nat := chan / 16
def State.softUnits (s : State) (g : Nat) : List Nat :=
  ((List.range 6).map (6 * g + ·)).filter fun u => (s.unit .softDecoder u).inService && !(s.unit .softDecoder u).testing

/-- Device work reads for no slice. -/
def MediaRead.device (r : MediaRead) : Bool :=
  match r.reader with
  | .move _ => true
  | .sample => true
  | _ => false

/-- Service class of a read (R23): host path, compute, background. -/
def MediaRead.cls (r : MediaRead) : Nat :=
  match r.reader with
  | .cmd _ => 1
  | .scan _ _ => 2
  | _ => 3

/-- Change a read. -/
def State.modRead (s : State) (n : Nat) (f : MediaRead → MediaRead) : State :=
  match Tbl.get? s.media.reads n with
  | some r => s.modMedia fun m => { m with reads := Tbl.set m.reads n (f r) }
  | none => s

/-- The codewords of a group that wait for a decoder, and the one served next: the lowest class, then the highest
balance, device work last. -/
def Media.softWaiting (m : Media) (g : Nat) : Tbl MediaRead :=
  m.reads.filter fun p => (p.2.soft.any fun j => j.unit.isNone) && softGroup (m.unitChan p.2.set p.2.off) = g
def State.softNext (s : State) (g : Nat) : Option (Nat × MediaRead) :=
  let l := s.media.softWaiting g
  let best := l.foldl (fun b p => min b p.2.cls) 4
  let l := l.filter fun p => p.2.cls = best
  match s.arbPick (Tbl.getD s.media.lastSoft g 1023) (·.2.slice) (l.filter fun p => !p.2.device) with
  | some p => some p
  | none => l.find? fun p => p.2.device

/-- Decoders that are free take waiting codewords. -/
def State.softServe (s : State) (g : Nat) : Nat → State
  | 0 => s
  | fuel + 1 =>
    let used := s.media.reads.filterMap fun p => p.2.soft.bind (·.unit)
    match (s.softUnits g).find? (fun u => !used.contains u), s.softNext g with
    | some u, some (n, r) =>
      let s := (s.modRead n fun r => { r with soft := r.soft.map fun j => { j with unit := some u } }).modMedia fun m =>
        if r.device then m else { m with lastSoft := Tbl.set m.lastSoft g r.slice }
      State.softServe s g fuel
    | _, _ => s

/-! ## The steps of the ladder (R200) -/

/-- A read enters a step of the ladder: its offsets are those of the step, and a soft step's codeword is queued with its
senses. A group with no decoder in service leaves its soft steps out. -/
def State.enterStep (s : State) (n step : Nat) : Nat → State
  | 0 => s
  | fuel + 1 =>
    match Tbl.get? s.media.reads n with
    | none => s
    | some r =>
      let m := s.media
      let g := softGroup (m.unitChan r.set r.off)
      if softStage step && (s.softUnits g).isEmpty then State.enterStep s n (step + 1) fuel
      else
        let c := (m.set r.set).cell
        let thr := if step = 3 then (m.trackMean r.set r.off).offsets c
          else if step = 5 then (m.trackOf r.set r.off).offsets c else r.thr
        let kept : Int := 8 * ((s.freeWord.toNat % 7 : Nat) : Int) - 24
        let s := if step = 5 then s.drawn else s
        let s := s.modRead n fun r => { r with
          step := step, thr := thr, kept := kept
          soft := if softStage step then some { senses := ladderSenses c thr kept step, mags := softMags step } else none }
        if softStage step then s.softServe g 6 else s

/-! ## The arbiters of the dies (R30, R102, R159, R161, R207) -/

/-- Bytes that a channel's read buffer holds. -/
def Media.readBuf (m : Media) (c : Nat) : Nat :=
  m.reads.foldl (fun n p => if p.2.issued && m.unitChan p.2.set p.2.off = c then n + (m.set p.2.set).cell.codeword else n) 0

/-- Reads of a die, waiting or in progress. -/
def Media.dieReads (m : Media) (die : Nat) (issued : Bool) : Tbl MediaRead :=
  m.reads.filter fun p => p.2.issued == issued && p.2.step < 6 && m.unitDie p.2.set p.2.off = die

/-- Device work goes ahead of host work in a window of background fold (R159); outside, a die alternates one operation of
each. -/
def State.deviceFirst (s : State) (die : Nat) : Bool :=
  (s.media.fold = .background && s.time.span % 10 = 9) || !s.media.turn.contains die

/-- The read that a die takes next; device work is not dispatched while PLP_WARN_N is asserted (R175). -/
def State.nextRead (s : State) (die : Nat) : Option (Nat × MediaRead) :=
  let l := s.media.dieReads die false
  let host := s.arbPick (Tbl.getD s.media.lastDie die 1023) (·.2.slice) (l.filter fun p => !p.2.device)
  match l.find? fun p => p.2.device && !s.dev.pwr.plpWarn with
  | none => host
  | some d => if host.isNone || s.deviceFirst die then some d else host

/-- A read is dispatched to its die with the thresholds tracked by now; its slice is charged (R100, R195). -/
def State.sendRead (s : State) (n : Nat) (r : MediaRead) (die : Nat) : State :=
  let s := s.modRead n fun r => { r with
    issued := true, thr := (s.media.trackOf r.set r.off).offsets (s.media.set r.set).cell }
  if r.device then s.modMedia fun m => { m with turn := insNat die m.turn }
  else (s.chargeFlash r.slice 1).modMedia fun m => { m with
    turn := delNat die m.turn, lastDie := Tbl.set m.lastDie die r.slice }

/-- A die that is free takes its next read, if the channel's read buffer of 128 KiB has room. -/
def State.kickDie (s : State) (die : Nat) : State :=
  if !(s.media.dieReads die true).isEmpty then s
  else match s.nextRead die with
    | none => s
    | some (n, r) =>
      let c := die % 32
      if 131072 < s.media.readBuf c + (s.media.set r.set).cell.codeword then s else s.sendRead n r die

/-- Every die with waiting reads is offered one. -/
def State.kickAll (s : State) : State :=
  let waiting := (s.media.reads.filter fun p => !p.2.issued).map fun p => s.media.unitDie p.2.set p.2.off
  waiting.eraseDups.foldl (fun s d => s.kickDie d) s

/-- Queue a read of a unit (R102, R200); one of a failed member goes to step 6 at once. -/
def State.queueRead (s : State) (r : MediaRead) : State :=
  let chan := s.media.unitChan r.set r.off
  let die := s.media.dieOf r.set chan
  let n := s.media.nextRead
  let out : Bool := s.media.dieOut die
  let s := s.modMedia fun m => { m with
    reads := Tbl.set m.reads n (if out then { r with step := 6, issued := true } else r), nextRead := n + 1 }
  if out then (if r.device then s else s.chargeFlash r.slice 1) else s.kickDie die

/-- Queue a read of unit `u` of an indirection unit, under the key its namespace has now (R216). -/
def State.issueRead (s : State) (reader : Reader) (x iu u set goff : Nat) : State :=
  let k := s.mediaKey x
  s.queueRead { reader := reader, nsx := x, iu := iu, unit := u, set := set, off := goff / 8 + u, slice := (s.nsx x).slice
                gen := k.gen, key := k.key }

/-- The read of a unit is over: it leaves the table, and what waited for its die or its decoder goes on. -/
def State.dropRead (s : State) (n : Nat) : State :=
  match Tbl.get? s.media.reads n with
  | none => s
  | some r =>
    let chan := s.media.unitChan r.set r.off
    let s := (s.modMedia fun m => { m with reads := Tbl.del m.reads n }).purgeKeys
    (s.softServe (softGroup chan) 6).kickDie (s.media.dieOf r.set chan)

end Sys2Proof.Machine
end

