-- ==== Sys2Proof/Machine/Stored.lean ====
section
/-! DEFINITION. Stored units: their bytes, their check on read, codewords and truss parity, and the units that the device
writes for itself (R190, R191, R204 to R206, R208 to R212, R217 to R220, R226 to R228). -/

namespace Sys2Proof.Machine

/-! ## Plaintext (R153, R226) -/

/-- The 32-byte header of a compressed extent (R226). -/
def extentHeader (iu len clen crc : Nat) (tags : List W16) : List Byte :=
  leBytes 2 0x0A5C ++ [1, 1] ++ leBytes 5 iu ++ leBytes 1 (len - 1) ++ leBytes 2 clen ++ leBytes 4 crc
    ++ (List.range 4).flatMap (fun i => leBytes 2 (tags.getD i 0).toNat) ++ List.replicate 8 0

/-- The granules of an extent: header, LZ4 stream, then 00h (R226). -/
def Piece.extent (p : Piece) : List Byte :=
  let plain := Mem.read p.data 0 16384
  (extentHeader p.iu p.len p.clen (crc32c plain) p.tags ++ Config.compress 1 0 [] plain
    ++ List.replicate (512 * p.len) 0).take (512 * p.len)

/-- The 4,096 bytes of a unit's plaintext. -/
def Body.plain : Body → List Byte
  | .bytes m => Mem.read m 0 4096
  | .packed l => (List.range 8).flatMap fun g => match l.find? fun p => p.at_ ≤ g && g < p.at_ + p.n with
    | some p => (p.extent.drop (512 * (p.skip + g - p.at_))).take 512
    | none => List.replicate 512 0
  | .map size base l => (List.range 4096).map fun i =>
      let v := (Tbl.get? l ((base + i) / size)).getD (3 * 2 ^ (8 * size - 2))
      BitVec.ofNat 8 (v / 256 ^ ((base + i) % size))
  | .free k => (List.range 4096).map fun i => BitVec.ofNat 8 (Config.freeNat (k + i))

/-! ## Bytes of a unit (R208 to R210, R218, R219) -/

/-- Bytes 31:16 of a unit's metadata; the tag stands before them (R209). -/
def Stored.fields (u : Stored) : List Byte :=
  leBytes 7 u.seq ++ leBytes 5 u.ulba ++ leBytes 2 (u.nsx + 4096 * u.kind) ++ leBytes 2 u.app.toNat

/-- Read bytes 31:16 of a unit's metadata (R209). -/
def Stored.read (m : List Byte) : Stored :=
  let nk := leNat ((m.drop 12).take 2)
  { kind := nk / 4096, nsx := nk % 4096, ulba := leNat ((m.drop 7).take 5), seq := leNat (m.take 7)
    app := BitVec.ofNat 16 (leNat ((m.drop 14).take 2)) }

/-- The initialisation vector of a unit (R218). -/
def Stored.iv (u : Stored) : List Byte := leBytes 7 u.seq ++ leBytes 1 u.kind ++ leBytes 4 0

/-- The additional authenticated data of a unit under an owning slice (R219). -/
def Stored.aad (u : Stored) (slice : Nat) : List Byte :=
  leBytes 2 1 ++ leBytes 1 u.kind ++ leBytes 1 0 ++ leBytes 2 (if 4 ≤ u.kind then 0xFFFF else slice) ++ leBytes 2 u.nsx ++
    leBytes 8 u.ulba ++ leBytes 7 u.seq ++ leBytes 1 0 ++ leBytes 2 u.app.toNat ++ leBytes 6 0

/-- The 4,128 bytes of a unit, payload and metadata, of 4,096 bytes of plaintext under a media key (R208, R209). -/
def Stored.seal (u : Stored) (key slice : Nat) (plain : List Byte) : List Byte :=
  let ct := Config.gcmEncrypt key u.iv (u.aad slice) plain
  ct ++ Config.gcmTag key u.iv (u.aad slice) ct ++ u.fields

/-- A filler unit: payload, tag, SEQ and kind are 0 (R210). -/
def fillerUnit : List Byte := List.replicate 4128 0

/-- The 4,128 bytes of a stored unit: what was found there, a poisoned unit (R225), a filler, or what the cipher lane
writes. -/
def Stored.unit (u : Stored) : List Byte :=
  match u.raw with
  | some b => b
  | none =>
    if u.kind = 0xF then List.replicate 4112 0 ++ u.fields
    else if u.kind = 0 then fillerUnit
    else u.seal u.key u.slice u.body.plain

/-! ## The check of a unit on read (R220) -/

/-- Who asks for a unit, with what R219 takes from the request: a host read of a plain or a packed namespace, or a
device read of a kind. -/
inductive UnitAsk
  | plain (slice nsx index : Nat)
  | packed (slice nsx index : Nat)
  | device (kind : Nat)
  deriving DecidableEq, Repr

/-- Kinds a request allows (R220). -/
def UnitAsk.allows : UnitAsk → List Nat
  | .plain .. => [1]
  | .packed .. => [2, 3]
  | .device k => [k]

/-- The metadata with the slice, namespace and logical position that the request gives (R219): the position of plain
and RAW units, the namespace of every unit. -/
def UnitAsk.binds (a : UnitAsk) (u : Stored) : Nat × Stored :=
  match a with
  | .plain slice nsx index => (slice, { u with nsx := nsx, ulba := index })
  | .packed slice nsx index => (slice, { u with nsx := nsx, ulba := if u.kind = 2 then u.ulba else index })
  | .device _ => (0xFFFF, { u with nsx := 0 })

/-- What the cipher lane finds of a unit it reads (R220). -/
inductive UnitCheck
  | poisoned
  | authFail
  | plain (bytes : List Byte)
  deriving DecidableEq, Repr

/-- The check of R220 on the 4,128 bytes of a unit, under the key of the request. -/
def checkUnit (key : Nat) (a : UnitAsk) (bytes : List Byte) : UnitCheck :=
  let ct := bytes.take 4096
  let tag := (bytes.drop 4096).take 16
  let u := Stored.read (bytes.drop 4112)
  let (slice, v) := a.binds u
  if u.kind = 0xF then .poisoned
  else if !a.allows.contains u.kind then .authFail
  else if Config.gcmTag key v.iv (v.aad slice) ct ≠ tag then .authFail
  else .plain (Config.gcmDecrypt key v.iv (v.aad slice) ct)

/-- What the check of R220 finds of a unit that is as programmed: the tag is the one made over it, so it holds exactly
where the request allows its kind and gives the key, slice, namespace and position it was bound to. -/
def Stored.passes (u : Stored) (key : Nat) (a : UnitAsk) : Bool :=
  a.allows.contains u.kind && u.key = key && a.binds u = (u.slice, u)

/-- What a request finds of a unit: its plaintext, its metadata, and whether it is other than what was programmed; a
poisoned unit; a failed check. -/
inductive Found
  | poisoned
  | authFail
  | good (body : Body) (app : W16) (alien : Bool)
  deriving DecidableEq, Repr

/-- The check of a unit read as `bytes`, none where it is as it is stored. -/
def checkStored (u : Option Stored) (bytes : Option (List Byte)) (key : Nat) (a : UnitAsk) : Found :=
  match bytes <|> u.bind (·.raw) with
  | some b => match checkUnit key a b with
    | .poisoned => .poisoned
    | .authFail => .authFail
    | .plain p => .good (.bytes (Mem.write [] 0 p)) (Stored.read (b.drop 4112)).app true
  | none => match u with
    | none => .authFail
    | some u => if u.kind = 0xF then .poisoned else if u.passes key a then .good u.body u.app false else .authFail

/-! ## Codewords and pages (R190, R191) -/

/-- The parity bytes of a unit: the code is linear and systematic (R190). -/
def ldpcParity (c : Cell) (unit : List Byte) : List Byte :=
  let bit (i : Nat) (b : Byte) (p : Nat) : Nat :=
    (List.range 8).foldl (fun p j => if b.getLsbD j then p ^^^ Config.ldpcRow c.num (8 * i + j) else p) p
  leBytes (c.codeword - 4128) (unit.zipIdx.foldl (fun p x => bit x.2 x.1 p) 0)

/-- The codeword of a unit. -/
def codewordOf (c : Cell) (unit : List Byte) : List Byte := unit ++ ldpcParity c unit

/-- The bytes of a page from its units, plane by plane, each plane filled up with 00h (R191). -/
def Media.pageBytesOf (m : Media) (c : Cell) (units : List (List Byte)) : List Byte :=
  let k := m.pageBytes / c.codeword
  (List.range m.planes).flatMap fun p =>
    (((units.drop (p * k)).take k).flatMap (codewordOf c) ++ List.replicate m.pageBytes 0).take m.pageBytes

/-- The units of data page `i` of a stripe of a set, fillers where none is stored, and the page's bytes. -/
def Media.pageUnits (m : Media) (set page i : Nat) : List (List Byte) :=
  let b := m.set set
  let n := m.perPage b.cell
  (List.range n).map fun k => match m.storedAt set ((page * b.width + i) * n + k) with
    | some u => u.unit
    | none => fillerUnit
def Media.pageData (m : Media) (set page i : Nat) : List Byte := m.pageBytesOf (m.set set).cell (m.pageUnits set page i)

/-- XOR of two byte strings of one length. -/
def xorBytes (a b : List Byte) : List Byte := List.zipWith (· ^^^ ·) a b

/-- The stripe's truss buffer takes a data page as it is sent (R205). -/
def State.trussPage (s : State) (set page i : Nat) : State :=
  s.modMedia fun m =>
    let zero := List.replicate (m.planes * m.pageBytes) (0 : Byte)
    let k := stripeKey set page
    { m with truss := Tbl.set m.truss k (xorBytes (Tbl.getD m.truss k zero) (m.pageData set page i)) }

/-- The stripe's parity page has been programmed from its truss buffer. -/
def State.parityDone (s : State) (set page : Nat) : State :=
  s.modMedia fun m =>
    let k := stripeKey set page
    { m with parity := Tbl.set m.parity k (Tbl.getD m.truss k []), truss := Tbl.del m.truss k }

/-- The parity of a stripe: its parity page, or the truss buffer until that is programmed. -/
def Media.parityOf (m : Media) (set page : Nat) : Option (List Byte) :=
  Tbl.get? m.parity (stripeKey set page) <|> Tbl.get? m.truss (stripeKey set page)

/-- The codeword that truss reconstruction gives for a unit (R206): the XOR, in its byte range, of the parity page and of
the other data pages, a substitute's re-encoded in its place. -/
def Media.rebuild (m : Media) (set off : Nat) : List Byte :=
  let b := m.set set
  let n := m.perPage b.cell
  let k := m.unitWord set off
  let page := m.unitPage set off
  let at_ := m.wordPlane b.cell k * m.pageBytes + m.wordCol b.cell k
  let cut (p : List Byte) : List Byte := (p.drop at_).take b.cell.codeword
  let sent (i : Nat) : Bool := 8 * n * (page * b.width + i) < b.cursor
  ((List.range b.width).filter fun i => sent i && i ≠ off / n % b.width).foldl
    (fun x i => xorBytes x (cut (m.pageData set page i))) (cut ((m.parityOf set page).getD []))

/-- A page of a stripe cannot be read: its member is failed, or its program failed and no substitute is left (R205,
R206). -/
def Media.pageOut (m : Media) (set page chan : Nat) : Bool :=
  m.dieOut (m.dieOf set chan) || m.subs.any fun x => x.set = set && x.page = page && x.chan = chan && x.at_.isNone

/-- Reconstruction has all it needs: a protected stripe with no other page out (R205, R206). -/
def Media.canRebuild (m : Media) (set off : Nat) : Bool :=
  let b := m.set set
  let page := m.unitPage set off
  !b.naked.contains page && (m.parityOf set page).isSome
    && (List.range 32).all fun c => b.out.contains c || c = m.unitChan set off || !m.pageOut set page c

/-! ## Writing units (R210, R211, R217) -/

/-- Write a unit at a place. -/
def State.storeUnit (s : State) (set off : Nat) (u : Stored) : State :=
  s.modMedia fun m => { m with stored := Tbl.set m.stored (storedKey set off) u }

/-- The part of an extent at granule `g`, of `len` granules, that a unit holds. -/
def pieceAt (g len off iu clen : Nat) (data : Mem) (tags : List W16) : Piece :=
  let lo := max g (8 * off)
  { at_ := lo - 8 * off, skip := lo - g, n := min (g + len) (8 * off + 8) - lo
    iu := iu, len := len, clen := clen, data := data, tags := tags }

/-- Write the units of a buffer item placed at granule `g` of a set, each new unit under the next SEQ of its
media key; an extent that begins in a packed unit already there joins it. -/
def State.storeItem (s : State) (set g : Nat) (b : BufItem) : State :=
  let p := (s.nsx b.nsx).spec
  let kind := if !b.packed then 1 else if b.raw then 3 else 2
  (unitSpan g b.len).foldl (fun s off =>
    let piece := pieceAt g b.len off b.iu b.clen b.data b.tags
    let s := s.laneKey (s.media.unitChan set off) b.nsx (s.mediaKey b.nsx).gen
    match kind, (s.media.storedAt set off).map fun u => (u, u.body) with
    | 2, some (u, .packed l) => s.storeUnit set off { u with body := .packed (l ++ [piece]) }
    | _, _ =>
      let i := off - g / 8
      let key := (s.mediaKey b.nsx).key
      let (seq, s) := s.takeSeq b.nsx
      s.storeUnit set off
        { kind := kind, nsx := b.nsx, ulba := if kind = 2 then b.iu else b.iu * p.iuUnits + i, seq := seq
          app := if kind = 2 then 0 else b.tags.getD i 0, slice := b.slice, key := key
          body := if kind = 2 then .packed [piece] else .bytes (Mem.slice b.data (4096 * i) 4096) }) s

/-- A unit of the device's own, under the device media key and its next SEQ. -/
def State.deviceUnit (s : State) (kind ulba : Nat) (body : Body) : Stored × State :=
  let key := (s.mediaKey 4096).key
  let (seq, s) := s.takeSeq 4096
  ({ kind := kind, nsx := 0, ulba := ulba, seq := seq, app := 0, key := key, body := body }, s)

/-- A unit of content that the spec does not lay out. -/
def State.freeUnit (s : State) (kind ulba : Nat) : Stored × State :=
  let k := s.free
  (s.drawnN 4096).deviceUnit kind ulba (.free k)

/-- Keeper data is written to the system blocks under a record number (R210; log entry 146). -/
def State.keeperData (s : State) (record : Nat) : State :=
  let (u, s) := s.freeUnit 0xA record
  s.modMedia fun m => { m with sys := Tbl.set m.sys record [⟨0, u⟩] }

/-- The plaintext of the packing unit of a group (R228). -/
def packingPlain (group : Nat) (l : List Ext) : List Byte :=
  let record (x : Ext) : List Byte :=
    leBytes 8 (x.nsx + x.iu * 2 ^ 12 + x.goff % 8 * 2 ^ 48 + (x.goff / 8 - 64 * group) * 2 ^ 51 + (x.len - 1) * 2 ^ 57)
  leBytes 2 l.length ++ leBytes 6 0 ++ l.flatMap record

/-- The packing unit of a group that holds compressed extents is written once the cursor reaches it (R228). -/
def State.packingUnit (s : State) (set : Nat) : State :=
  let b := s.media.set set
  match b.packed with
  | none => s
  | some k =>
    if b.cursor < k * 512 + 504 then s
    else
      let off := 64 * k + 63
      let (u, s) := s.deviceUnit 4 (set * 2 ^ 20 + off) (.bytes (Mem.write [] 0 (packingPlain k b.exts)))
      let s := s.laneKey (s.media.unitChan set off) 4096 (s.mediaKey 4096).gen
      (s.storeUnit set off u).modMedia fun m => m.modSet set fun b =>
        { b with packed := none, exts := [], cursor := max b.cursor ((k + 1) * 512) }

end Sys2Proof.Machine
end

