-- ==== Sys2Proof/Machine/IoOps.lean ====
section
/-! DEFINITION. What the I/O commands of a slice share: when a command may execute, overlap, sealed transfers
and the protection information of a block (R57 to R64, R105, R224, R256 to R258). -/

namespace Sys2Proof

/-- SLBA of a command. -/
def Sqe.slba (e : Sqe) : Nat := e.cdw10.toNat + 2 ^ 32 * e.cdw11.toNat
/-- NLB + 1. -/
def Sqe.blocks (e : Sqe) : Nat := e.cdw12.toNat % 65536 + 1

/-- Ranges of LBAs that a command covers for R62, in a namespace of an LBA size; none for a command that R62 does not
judge. A Dataset Management covers its listed ranges, and before its list has been read everything. -/
def Sqe.covers (e : Sqe) (lba : Nat) (listed : Option (List (Nat × Nat))) : List (Nat × Nat) :=
  if e.opc = 1 ∨ e.opc = 2 ∨ e.opc = 8 then [(e.slba, e.blocks)]
  else if e.opc = 9 then listed.getD [(0, 2 ^ 64)]
  else if e.opc = 0x82 then [(e.slba, e.cdw12.toNat * (4096 / lba))]
  else []

/-- The bytes of a data pointer in the entry. -/
def DataPtr.bytes : DataPtr → List Byte
  | .prp a b _ => leBytes 8 a.toNat ++ leBytes 8 b.toNat
  | .sgl d => match d with
    | x :: _ => leBytes 8 x.addr.toNat ++ leBytes 4 x.len ++ [0, 0, 0, BitVec.ofNat 8 (16 * x.kind.toNat)]
    | [] => List.replicate 16 0

/-- The 64 bytes of a submission queue entry; CDW2 and CDW3, which the operand does not carry, are 0. -/
def Sqe.bytes (e : Sqe) : List Byte :=
  [e.opc, BitVec.ofNat 8 (64 * e.psdt.toNat)] ++ leBytes 2 e.cid.toNat ++ leBytes 4 e.nsid.toNat
    ++ List.replicate 8 0 ++ leBytes 8 e.mptr.toNat ++ e.dptr.bytes ++ leBytes 4 e.cdw10.toNat
    ++ leBytes 4 e.cdw11.toNat ++ leBytes 4 e.cdw12.toNat ++ leBytes 4 e.cdw13.toNat ++ leBytes 4 e.cdw14.toNat
    ++ leBytes 4 e.cdw15.toNat

/-- All the bytes of data. -/
def Data.bytes (d : Data) : List Byte :=
  let sorted := d.parts.foldl (fun (l : Mem) p => Machine.Mem.write l p.1 p.2) []
  Machine.Mem.read sorted 0 d.len

end Sys2Proof

namespace Sys2Proof.Machine

/-! ## When an I/O command executes (R57, R62, R78, R95, R105) -/

/-- The slice executes commands that need a share: it is not being reset, rebound or deleted, no activation
or fault holds the queues, and the share is not 0 (R85, R96, R105). -/
def State.sliceRuns (s : State) (sl : Nat) (core : Bool) : Bool :=
  let x := s.slice sl
  (x.st = .ready || x.st = .parked) && !s.dev.fw.holding && !s.rel.fault
    && (if core then x.core ≠ 0 else x.flash ≠ 0)

/-- An I/O command of an opcode on a slice controller; one that does not stand, or is held, changes nothing
(log entry 13). -/
def State.ioCmd (s : State) (q : Src) (e : Sqe) (opc : Nat) (core : Bool) (body : Nat → State → State) : State :=
  if !s.stands q e || q.admin || e.opc.toNat ≠ opc then s
  else match q.slice? with
    | none => s
    | some sl => if s.sliceRuns sl core then body sl (s.begin q e.cid) else s

/-- An earlier command of the queue still holds LBAs of a range: a writer until its data is in the map, a
Scan until it has taken its units, a Read until its row has looked them up (R62, R64). -/
def State.holds (s : State) (q : Src) (f : Fetched) (lba a n : Nat) : Bool :=
  (f.e.covers lba f.listed).any fun (b, k) =>
    meets a n b k &&
      if f.e.opc = 2 then !f.begun
      else if f.e.opc = 0x82 then
        !f.begun || s.cpu.scans.any fun p => some p.2.slice = q.slice? && p.2.cid = f.e.cid &&
          (List.range p.2.nunit).any fun u =>
            !p.2.taken.contains u && meets a n (b + u * (4096 / lba)) (4096 / lba)
      else !f.begun || s.media.waits.any fun w => w.src = q && w.e.cid = f.e.cid

/-- An overlapping command fetched earlier from the queue holds this one (R62). -/
def State.overlapHeld (s : State) (q : Src) (e : Sqe) (lba : Nat) (ranges : List (Nat × Nat)) : Bool :=
  (s.earlier q e.cid).any fun f => f.e.nsid = e.nsid && ranges.any fun r => s.holds q f lba r.1 r.2

/-- The slice's sanitize runs (R78). -/
def State.sanitizing (s : State) (sl : Nat) : Bool :=
  (Tbl.getD s.dev.san sl {}).running || (Tbl.getD s.dev.san 1024 {}).running

/-- A command on a namespace: held by an overlap, Sanitize In Progress, Invalid Namespace or Format, else its
body with slice and NSX (R58, R62, R78). -/
def State.nsCmd (s : State) (q : Src) (e : Sqe) (opc : Nat) (n : NsSpec → List (Nat × Nat))
    (body : Nat → Nat → State → State) : State :=
  let lba := match q.slice?.bind fun sl => s.findNs sl e.nsid.toNat with
    | some (_, y) => y.spec.lba
    | none => 512
  let spec := match q.slice?.bind fun sl => s.findNs sl e.nsid.toNat with
    | some (_, y) => y.spec
    | none => {}
  if s.overlapHeld q e lba (n spec) then s
  else s.ioCmd q e opc false fun sl s =>
    if s.sanitizing sl then s.fail q e.cid 0 0x1D
    else match s.findNs sl e.nsid.toNat with
      | some (x, y) => if y.attached then body sl x s else s.fail q e.cid 0 0x0B
      | none => s.fail q e.cid 0 0x0B

/-! ## Sealed transfers (R256 to R258) -/

/-- The sealing in force for a command: the setup, and the entry's CSEQ and queue slot. -/
def State.sealOf (s : State) (q : Src) (cid : W16) : Option (Sealing × Nat × Nat) :=
  match q, s.fetchedAt q cid with
  | .queue i n, some f => match f.cseq, (Tbl.get? (s.ctrl i).sqs n).bind (·.sealing) with
    | some c, some x => some (x, c, f.slot)
    | _, _ => none
  | _, _ => none

/-- The IV of a chunk (R257). -/
def sealIv (x : Sealing) (cseq sqid k : Nat) (out : Bool) : List Byte :=
  leBytes 4 x.salt.toNat ++ leBytes 5 cseq ++ [BitVec.ofNat 8 sqid]
    ++ leBytes 2 (k + if out then 32768 else 0)

/-- Queue number of a source. -/
def srcSq (q : Src) : Nat := match q with
  | .queue _ n => n
  | .sideband => 0

/-- Send the data of an I/O command to its buffer, sealed when its queue is (R257), and count it. -/
def State.sendIo (s : State) (q : Src) (e : Sqe) (d : Data) : State :=
  if d.len = 0 then s
  else
    let s := match s.sealOf q e.cid, q.slice? with
      | some (x, c, slot), some sl =>
        let key := match Tbl.get? s.hm.slots x.slot with
          | some k => k.key
          | none => Config.freeNat s.free
        let bytes := d.bytes
        let n := (d.len + 4095) / 4096
        let chunk (k : Nat) : List Byte :=
          Config.gcmEncrypt key (sealIv x c (srcSq q) k true) e.bytes ((bytes.drop (4096 * k)).take 4096)
        let ct := (List.range n).flatMap chunk
        let s := s.drawn.sendTo q e.dptr (Data.ofBytes ct)
        let before := s.host.paused.length
        let s := (List.range n).foldl (fun (s : State) k =>
          s.hostWrite sl (x.tagBase.toNat + 8192 * slot + 16 * k)
            (Data.ofBytes (Config.gcmTag key (sealIv x c (srcSq q) k true) e.bytes (chunk k)))) s
        let s := s.tagPaused before (srcSq q)
        s.meterUp sl fun m => { m with keyOps := m.keyOps + 1 }
      | _, _ => s.sendTo q e.dptr d
    s.moved q e.cid true d.len

/-- A sealed inbound command of `n` bytes reads the tags of its chunks and counts one cipher pool job (R257). -/
def State.sealCount (s : State) (q : Src) (cid : W16) (n : Nat) : State :=
  match s.sealOf q cid, q.slice? with
  | some (x, _, slot), some sl =>
    (s.hostRead sl (x.tagBase.toNat + 8192 * slot) (16 * ((n + 4095) / 4096))).meterUp sl fun m => { m with keyOps := m.keyOps + 1 }
  | _, _ => s

/-! ## Protection information (R59, R224) -/

/-- The guard of a block: CRC-16, polynomial 8BB7h. -/
def guardOf (bs : List Byte) : W16 := crc16 0x8BB7 0 bs

/-- PRACT and PRCHK of CDW12: guard, application tag, reference tag. -/
def pract (e : Sqe) : Bool := e.cdw12.getLsbD 29
def prchkApp (e : Sqe) : Bool := e.cdw12.getLsbD 27
def prchkRef (e : Sqe) : Bool := e.cdw12.getLsbD 26

/-- The namespace makes protection information checks. -/
def NsSpec.checked (p : NsSpec) : Bool := p.fmt = 2 && p.dps = 1

/-- Bytes per block that the host transfers (R60, R224). -/
def NsSpec.hostBytes (p : NsSpec) (e : Sqe) : Nat :=
  if p.fmt = 2 ∧ ¬ (p.checked ∧ pract e) then 4104 else p.lba

/-- The stored tag differs from the expected one under the mask of CDW15. -/
def appDiffers (e : Sqe) (t : W16) : Bool :=
  (t ^^^ e.cdw15.truncate 16) &&& (e.cdw15.extractLsb' 16 16) ≠ 0

/-- The status of a write's protection information (R59, R224): the reference tag of the first block, then
block by block guard, application tag, reference tag. -/
def piWrite (p : NsSpec) (e : Sqe) (data : List Byte) (pi : List PiTuple) : Option Nat :=
  if !p.checked then none
  else if e.cdw14.toNat ≠ e.slba % 2 ^ 32 then some 0x84
  else if pract e then none
  else (List.range e.blocks).findSome? fun i =>
    let t := pi.getD i ⟨0, 0, 0⟩
    if guardOf ((data.drop (4096 * i)).take 4096) ≠ t.guard then some 0x82
    else if prchkApp e && appDiffers e t.app then some 0x83
    else if t.ref ≠ e.cdw14 + BitVec.ofNat 32 i then some 0x84
    else none

/-- The status of a read's protection information at block `i`, of a stored tag (R224). -/
def piRead (p : NsSpec) (e : Sqe) (i : Nat) (tag : Option W16) : Option Nat :=
  if !p.checked then none
  else match tag with
    | none => none
    | some t =>
      if t = 0xFFFF then none
      else if prchkApp e && appDiffers e t then some 0x83
      else if prchkRef e && (e.cdw14.toNat + i) % 2 ^ 32 ≠ (e.slba + i) % 2 ^ 32 then some 0x84
      else none

/-- The 8 bytes of protection information a read returns for a block (R224), highest byte first as NVMe
stores each field. -/
def piBytes (lba : Nat) (data : List Byte) (tag : Option W16) : List Byte :=
  let be (n k : Nat) : List Byte := (leBytes k n).reverse
  match tag with
  | none => List.replicate 8 0xFF
  | some t => be (guardOf data).toNat 2 ++ be t.toNat 2 ++ be (lba % 2 ^ 32) 4

end Sys2Proof.Machine
end

