-- ==== Sys2Proof/Machine/Nvm.lean ====
section
/-! DEFINITION. Flush, Write, Read, Write Zeroes and Dataset Management (R57 to R64, R223, R224, R254). -/

namespace Sys2Proof.Machine

/-- FLUSH (R35, R57): Success, with no media action. -/
def execFlush (q : Src) (e : Sqe) (s : State) : Host.Outcome State Fault Refusal :=
  .next (s.ioCmd q e 0 false fun _ s => s.succeed q e.cid)

/-! ## Write (R58, R164, R167) -/

/-- Indirection units that a range of LBAs touches. -/
def iuRange (p : NsSpec) (a n : Nat) : List Nat :=
  if n = 0 then [] else (List.range ((a + n - 1) / p.lbas + 1 - a / p.lbas)).map fun i => a / p.lbas + i

/-- The range covers an indirection unit whole. -/
def wholeIu (p : NsSpec) (a n iu : Nat) : Bool := a ≤ iu * p.lbas && (iu + 1) * p.lbas ≤ a + n

/-- Granules an admission is asked for (R164): 8 for each unit of a plain namespace, 32 for a packed unit
before it is compressed (log entry 21). -/
def writeGranules (p : NsSpec) (ius : Nat) : Nat := ius * 8 * p.iuUnits

/-- Part of an indirection unit is set to zeros with a tag. -/
def State.zeroPart (s : State) (x a n iu : Nat) (tag : W16) (owner : Option (Src × W16)) : State :=
  let p := (s.nsx x).spec
  s.mergeIu x iu (fun i =>
    let l := iu * p.lbas + i
    if a ≤ l ∧ l < a + n then some (List.replicate p.lba 0, tag) else none) owner

/-- The partly covered indirection units of a range. -/
def partIus (p : NsSpec) (a n : Nat) : List Nat :=
  let lo := a / p.lbas
  let hi := (a + n - 1) / p.lbas
  ((if lo = hi then [lo] else [lo, hi])).filter fun iu => !wholeIu p a n iu

/-- The indirection units that a command writes or merges. -/
def WaitWrite.ius (w : WaitWrite) (p : NsSpec) : List Nat :=
  match w.body with
  | .write _ _ => iuRange p w.e.slba w.e.blocks
  | .zeros _ => partIus p w.e.slba w.e.blocks
  | .dsm parts => parts.map (·.2)

/-- The indirection units whose present data a command keeps in part. -/
def WaitWrite.merged (w : WaitWrite) (p : NsSpec) : List Nat :=
  match w.body with
  | .write _ _ => (w.ius p).filter fun iu => !wholeIu p w.e.slba w.e.blocks iu
  | _ => w.ius p

/-- The data of a command goes into the write buffer, indirection unit by indirection unit; a deallocation leaves what
holds no data as it is (R223). -/
def State.writeBody (s : State) (w : WaitWrite) (owner : Option (Src × W16)) : State :=
  let p := (s.nsx w.nsx).spec
  let a := w.e.slba
  let n := w.e.blocks
  match w.body with
  | .write data tags => (w.ius p).foldl (fun s iu =>
      s.mergeIu w.nsx iu (fun i =>
        let l := iu * p.lbas + i
        if a ≤ l ∧ l < a + n then some ((data.drop ((l - a) * p.lba)).take p.lba, tags.getD (l - a) 0) else none) owner) s
  | .zeros tag => (w.ius p).foldl (fun s iu => s.zeroPart w.nsx a n iu tag owner) s
  | .dsm parts => parts.foldl (fun s v =>
      if (Tbl.get? (s.nsx w.nsx).units v.2).isSome then s.zeroPart w.nsx v.1.1 v.1.2 v.2 0 owner else s) s

/-- Host data is admitted; the command completes, or when writing through waits for its programs (R35, R495). -/
def State.admitWrite (s : State) (w : WaitWrite) : State :=
  let owner := if s.media.wthru then some (w.src, w.e.cid) else none
  let s := (s.writeBody w owner).modMedia fun m => { m with admitted := true }
  if s.media.buf.any fun b => b.owner.isSome && b.owner = owner then s else s.succeed w.src w.e.cid

/-- Host data that may go on: read-only namespaces and exhaustion fail it, a merge that meets an unrecoverable
unit fails it, and without room or credit, or behind a command that waits, it waits (R157, R164, R167, R202). Read-only
leaves the parts of a Dataset Management unchanged. -/
def State.offerWrite (s : State) (w : WaitWrite) (first : Bool) : State :=
  let y := s.nsx w.nsx
  let p := y.spec
  let keep := if first then s.modMedia fun m => { m with waits := m.waits ++ [w] } else s
  let gone := s.modMedia fun m => { m with waits := m.waits.filter fun v => !(v.src = w.src && v.e.cid = w.e.cid) }
  if y.readOnly then
    match w.body with
    | .dsm _ => gone.succeed w.src w.e.cid
    | _ => gone.fail w.src w.e.cid 0 0x81
  else if (w.merged p).any fun iu => s.iuLost w.nsx iu then gone.fail w.src w.e.cid 2 0x81
  else match s.admission p.mode (writeGranules p (w.ius p).length) with
    | .full => (gone.exhaustion w.nsx).fail w.src w.e.cid 0 0x81
    | .wait => keep
    | .go c => if first ∧ ¬ s.media.waits.isEmpty then keep
      else (gone.modMedia fun m => { m with credit := c }).admitWrite w

/-- The checks of R58 that Read and Write share, in order: DTYPE and STC, MPTR, MDTS, range, data pointer. -/
def rwCheck (p : NsSpec) (e : Sqe) : Option Status :=
  let len := e.blocks * p.hostBytes e
  if e.cdw12.extractLsb' 20 4 ≠ 0 ∨ e.cdw12.getLsbD 24 then some (0, scInvalidField)
  else if e.mptr ≠ 0 then some (0, scInvalidField)
  else if 2 ^ 21 < len then some (0, scInvalidField)
  else if p.nsze < e.slba + e.blocks then some (0, 0x80)
  else (e.dptr.check len).map fun c => (0, c)

/-- WRITE (R58, R59, R164, R223, R224, R258): the checks, the transfer, then admission. -/
def execWrite (q : Src) (e : Sqe) (data : List Byte) (pi : List PiTuple) (sealOk : Bool) (s : State) :
    Host.Outcome State Fault Refusal :=
  .next (s.nsCmd q e 1 (fun _ => [(e.slba, e.blocks)]) fun sl x s =>
    let p := (s.nsx x).spec
    match rwCheck p e with
    | some (t, c) => s.fail q e.cid t c
    | none =>
      let len := e.blocks * p.hostBytes e
      let s := (s.moved q e.cid false len).sealCount q e.cid len
      if (s.sealOf q e.cid).isSome && !sealOk then s.fail q e.cid 0 scDataTransfer
      else
        let n := e.blocks * p.lba
        let bytes := (data ++ s.freeBytes (n - data.length)).take n
        let s := s.drawnN (n - data.length)
        match piWrite p e bytes pi with
        | some c => s.fail q e.cid 2 c
        | none =>
          let tags := if p.fmt ≠ 2 then [] else (List.range e.blocks).map fun i =>
            if p.checked ∧ pract e then e.cdw15.truncate 16 else (pi.getD i ⟨0, 0, 0⟩).app
          s.offerWrite { src := q, e := e, nsx := x, slice := sl, body := .write bytes tags } true)

/-- WRITE_BUFFER_ADMIT (R102, R157, R164 to R167): the waiting command of the slice that the arbiter picks. -/
def execWriteBufferAdmit (s : State) : Host.Outcome State Fault Refusal :=
  .next (match s.arbPick s.media.lastWait (·.slice) s.media.waits with
    | none => s
    | some w => (s.modMedia fun m => { m with lastWait := w.slice }).offerWrite w false)

/-! ## Read (R33, R34, R58, R59, R224) -/

/-- Whether unit `u` of an indirection unit is read for a range, and the units an indirection unit stores. -/
def iuUnitList (p : NsSpec) (o : Iu) (goff a n iu : Nat) : List Nat :=
  if p.packed ∧ ¬ o.raw then List.range ((goff % 8 + o.len + 7) / 8)
  else (List.range p.iuUnits).filter fun u =>
    meets (iu * p.iuBytes + u * 4096) 4096 (a * p.lba) (n * p.lba)

/-- Queue the reads of one indirection unit for a command: it answers how many, and whether the unit has one that is
known to be unrecoverable (R202). -/
def State.readIu (s : State) (io x a n iu : Nat) : State × Nat × Bool :=
  match Tbl.get? (s.nsx x).units iu with
  | none => (s, 0, false)
  | some o => match o.loc with
    | .buffer _ => (s, 0, false)
    | .flash set goff =>
      let us := iuUnitList (s.nsx x).spec o goff a n iu
      if us.any fun u => s.media.unitLost set (goff / 8 + u) then (s, 0, true)
      else (us.foldl (fun s u => s.issueRead (.cmd io) x iu u set goff) s, us.length, false)

/-- The map entries of the compressed extents on media that a range touches. -/
def State.extentsOf (s : State) (x a n : Nat) : Tbl Iu :=
  let y := s.nsx x
  (iuRange y.spec a n).filterMap fun iu => (Tbl.get? y.units iu).bind fun o => match o.loc with
    | .flash _ _ => if y.spec.packed && !o.raw then some (iu, o) else none
    | .buffer _ => none

/-- The blocks of a range as the map leads to them: bytes and tag, none where there is no data. -/
def State.blocksOf (s : State) (x a n : Nat) : List (Option (Mem × W16)) :=
  let y := s.nsx x
  let p := y.spec
  (List.range n).map fun i =>
    let l := a + i
    (Tbl.get? y.units (l / p.lbas)).map fun o =>
      (Mem.slice o.data (l % p.lbas * p.lba) p.lba, o.tags.getD (l % p.lbas) 0)

/-- The data a read returns (R59, R224). -/
def readData (p : NsSpec) (e : Sqe) (blocks : List (Option (Mem × W16))) : Data :=
  let hb := p.hostBytes e
  { len := blocks.length * hb
    parts := (blocks.mapIdx fun i b =>
      let data := match b with
        | some (m, _) => (Mem.parts m).map fun x => (i * hb + x.1, x.2)
        | none => []
      let tail := if hb = 4104 then
          [(i * hb + 4096, piBytes (e.slba + i) (Mem.read ((b.map (·.1)).getD []) 0 4096) (b.map (·.2)))]
        else []
      data ++ tail).flatten }

/-- A unit taken by a Read, and whether units other than those programmed make up an extent. -/
def IoRead.part (r : IoRead) (iu u : Nat) : Option ReadPart := r.parts.find? fun p => p.iu = iu && p.unit = u
def IoRead.alien (r : IoRead) (iu : Nat) : Bool := r.parts.any fun p => p.iu = iu && p.alien

/-- The plaintext and tags of a compressed extent as its units were read; none when its CRC does not hold (R226, R230). -/
def IoRead.unpack (r : IoRead) (iu : Nat) (o : Iu) : Option (Mem × List W16) :=
  let g := match o.loc with
    | .flash _ goff => goff % 8
    | .buffer _ => 0
  let bytes := ((List.range ((g + o.len + 7) / 8)).flatMap fun u =>
    ((r.part iu u).map (·.body.plain)).getD (List.replicate 4096 0)).drop (512 * g)
  let field (a n : Nat) : Nat := leNat ((bytes.drop a).take n)
  match Config.decompress 1 [] ((bytes.drop 32).take (field 10 2)) with
  | .ok p => if crc32c p = field 12 4 then
      some (Mem.write [] 0 p, (List.range 4).map fun i => BitVec.ofNat 16 (field (16 + 2 * i) 2)) else none
  | .error _ => none

/-- Block `i` of a Read: as looked up, or as units that are not those programmed gave it. -/
def IoRead.block (r : IoRead) (p : NsSpec) (i : Nat) (b : Option (Mem × W16)) : Option (Mem × W16) :=
  let l := r.e.slba + i
  let iu := l / p.lbas
  let at_ := l % p.lbas * p.lba
  match Tbl.get? r.ius iu with
  | some o => if r.alien iu then (r.unpack iu o).map fun x => (Mem.slice x.1 at_ p.lba, x.2.getD (l % p.lbas) 0) else b
  | none => match r.part iu (at_ / 4096) with
    | some x => if x.alien then some (Mem.write [] 0 ((x.body.plain.drop (at_ % 4096)).take p.lba), x.app) else b
    | none => b

/-- A Read ends: an error of media, an extent whose CRC does not hold, a protection information check, or its data (R59,
R202, R224, R230). A failed check transfers nothing (log entry 22). -/
def State.endRead (s : State) (r : IoRead) : State :=
  let p := (s.nsx r.nsx).spec
  match r.fail with
  | some (t, c) => s.fail r.src r.e.cid t c
  | none => match r.ius.find? fun x => r.alien x.1 && (r.unpack x.1 x.2).isNone with
    | some (iu, o) =>
      let place := match o.loc with
        | .flash set goff => [set, goff]
        | .buffer _ => []
      (s.logFault 0x06 4 [0] r.src.slice? place [r.nsx, iu]).fail r.src r.e.cid 2 0x81
    | none =>
      let blocks := r.blocks.mapIdx fun i b => r.block p i b
      match (blocks.mapIdx fun i b => piRead p r.e i (b.map (·.2))).findSome? id with
      | some c => s.fail r.src r.e.cid 2 c
      | none => (s.sendIo r.src r.e (readData p r.e blocks)).succeed r.src r.e.cid

/-- READ (R58, R34): the checks, the map lookup, and the media reads; with none it ends at once. -/
def execRead (q : Src) (e : Sqe) (s : State) : Host.Outcome State Fault Refusal :=
  .next (s.nsCmd q e 2 (fun _ => [(e.slba, e.blocks)]) fun _ x s =>
    let p := (s.nsx x).spec
    match rwCheck p e with
    | some (t, c) => s.fail q e.cid t c
    | none =>
      let io := s.media.nextIo
      let r : IoRead := { src := q, e := e, nsx := x, left := 0, blocks := s.blocksOf x e.slba e.blocks
                          ius := s.extentsOf x e.slba e.blocks }
      let (s, n, bad) := (iuRange p e.slba e.blocks).foldl (fun (a : State × Nat × Bool) iu =>
        let (t, k, b) := a.1.readIu io x e.slba e.blocks iu
        (t, a.2.1 + k, a.2.2 || b)) (s, 0, false)
      let r := { r with left := n, fail := if bad then some (2, 0x81) else none }
      if n = 0 then s.endRead r
      else s.modMedia fun m => { m with ios := Tbl.set m.ios io r, nextIo := io + 1 })

/-! ## Write Zeroes and Dataset Management (R57, R167, R223, R224) -/

/-- The records of a namespace in a range of indirection units. -/
def State.iusIn (s : State) (x lo hi : Nat) : List Nat :=
  ((s.nsx x).units.filter fun p => lo ≤ p.1 && p.1 < hi).map (·.1)

/-- Deallocate the indirection units that a range covers whole (R153). -/
def State.freeWhole (s : State) (x a n : Nat) : State :=
  let p := (s.nsx x).spec
  let lo := (a + p.lbas - 1) / p.lbas
  let hi := (a + n) / p.lbas
  let s := (s.iusIn x lo hi).foldl (fun s iu => s.freeIu x iu) s
  if lo < hi then s.modNs x fun y => { y with dealloc := y.dealloc ++ [(lo, hi)] } else s

/-- The whole indirection units of a command are freed and its parts offered to the write buffer (R164): nothing changes
when a part meets exhaustion or an unrecoverable unit now (log entry 147). -/
def State.freeAndMerge (s : State) (w : WaitWrite) (ranges : List (Nat × Nat)) : State :=
  let y := s.nsx w.nsx
  let freed := ranges.foldl (fun s r => s.freeWhole w.nsx r.1 r.2) s
  if (w.ius y.spec).isEmpty then freed.succeed w.src w.e.cid
  else if (w.merged y.spec).any fun iu => s.iuLost w.nsx iu then s.fail w.src w.e.cid 2 0x81
  else match s.admission y.spec.mode (writeGranules y.spec (w.ius y.spec).length) with
    | .full => (s.exhaustion w.nsx).fail w.src w.e.cid 0 0x81
    | _ => freed.offerWrite w true

/-- WRITE_ZEROES (R57, R58, R167, R223, R224): whole indirection units are deallocated, parts merged as zeros. -/
def execWriteZeroes (q : Src) (e : Sqe) (s : State) : Host.Outcome State Fault Refusal :=
  .next (s.nsCmd q e 8 (fun _ => [(e.slba, e.blocks)]) fun sl x s =>
    let y := s.nsx x
    let p := y.spec
    if p.nsze < e.slba + e.blocks then s.fail q e.cid 0 0x80
    else
      let s := s.chargeFlash sl 1
      let tag : W16 := if p.checked && pract e then e.cdw15.truncate 16 else 0
      let w : WaitWrite := { src := q, e := e, nsx := x, slice := sl, body := .zeros tag }
      if y.readOnly ∧ ¬ (w.ius p).isEmpty then s.fail q e.cid 0 0x81
      else s.freeAndMerge w [(e.slba, e.blocks)])

/-- DATASET_MANAGEMENT (R57, R62, R167, R223): attribute Deallocate (CDW11 bit 2); without it nothing is done. Parts
are zeroed where the indirection unit holds data; on a read-only namespace they are left unchanged. -/
def execDatasetManagement (q : Src) (e : Sqe) (ranges : List (Nat × Nat)) (s : State) :
    Host.Outcome State Fault Refusal :=
  .next (
    let nr := e.cdw10.toNat % 256 + 1
    let rs := (ranges.take nr).filter fun r => r.2 ≠ 0
    s.nsCmd q e 9 (fun _ => rs) fun sl x s =>
      let y := s.nsx x
      let p := y.spec
      match e.dptr.check (16 * nr) with
      | some c => s.fail q e.cid 0 c
      | none =>
        let s := ((s.chargeFlash sl 1).moved q e.cid false (16 * nr)).modCmd q e.cid fun f => { f with listed := some rs }
        if rs.any fun r => p.nsze < r.1 + r.2 then s.fail q e.cid 0 0x80
        else if !e.cdw11.getLsbD 2 then s.succeed q e.cid
        else
          let parts := rs.flatMap fun r =>
            ((partIus p r.1 r.2).filter fun iu => (Tbl.get? y.units iu).isSome).map fun iu => (r, iu)
          s.freeAndMerge { src := q, e := e, nsx := x, slice := sl, body := .dsm (if y.readOnly then [] else parts) } rs)

end Sys2Proof.Machine
end

