-- ==== Sys2Proof/Machine/Program.lean ====
section
/-! DEFINITION. Programs into the staging band, the journal pages and parity pages among them (R102, R155, R157, R160, R172,
R173, R183, R204, R205, R217, R228, R404). -/

namespace Sys2Proof.Machine

/-! ## Filling pages (R191, R204, R205, R228) -/

/-- The place of an extent or a run at the cursor of a set; a packing group that the cursor leaves gets its packing unit
first. -/
def State.placeIn (s : State) (set : Nat) (put : BlockSet → Nat × BlockSet) : Nat × State :=
  let b := s.media.set set
  let s := match b.packed with
    | some k => if 512 * k + 504 ≤ (put b).1 then
        (s.modMedia fun m => m.modSet set fun b => { b with cursor := max b.cursor (512 * k + 504) }).packingUnit set
      else s
    | none => s
  let (g, b') := put (s.media.set set)
  (g, s.modMedia fun m => m.modSet set fun _ => b')

/-- A compressed extent that begins in a set is listed for its packing unit. -/
def State.listExt (s : State) (set : Nat) (x : Ext) : State :=
  s.modMedia fun m => m.modSet set fun b => { b with exts := b.exts ++ [x] }

/-- Round a set's cursor up to the end of its page: the rest is filler (R191, R210). -/
def State.padPage (s : State) (set : Nat) : State :=
  let n := 8 * s.media.perPage (s.media.set set).cell
  (s.modMedia fun m => m.modSet set fun b => { b with cursor := (b.cursor + n - 1) / n * n }).packingUnit set

/-- Pages of a set, counted from 0 across channels, that hold units from granule `a` to granule `b`, whole pages only. -/
def Media.pagesOf (m : Media) (set a b : Nat) : List Nat :=
  let n := 8 * m.perPage (m.set set).cell
  (List.range (b / n - a / n)).map fun i => a / n + i

/-- CRC-16 of write CRC, polynomial 1021h, initial value FFFFh, over each 1,024 bytes (R183). -/
def writeCrcs (bs : List Byte) : List W16 :=
  (List.range ((bs.length + 1023) / 1024)).map fun i => crc16 0x1021 0xFFFF ((bs.drop (1024 * i)).take 1024)

/-- Write CRC is in use on a channel: fast deck signalling above 3,600 MT/s (R182). -/
def Media.crcOn (m : Media) (c : Nat) : Bool := m.sig.getLsbD 1 && 3600 < (m.chan c).rate

/-! ## Program buffers (R30, R404) -/

/-- Bytes queued in a channel's program buffer. -/
def Media.pbuf (m : Media) (c : Nat) : Nat :=
  m.progs.foldl (fun n p => if p.2.chans.contains c then n + p.2.bytes / max 1 p.2.chans.length else n) 0

/-- The buffers of channels have room for a page each. -/
def Media.pbufRoom (m : Media) (chans : List Nat) : Bool := chans.all fun c => m.pbuf c + m.planes * m.pageBytes ≤ 262144

/-- A flash channel enters panic: an episode begins at every DRAM controller (R404, R418). -/
def State.enterPanic (s : State) (c : Nat) : State :=
  if s.dram.panic.contains c then s
  else
    (List.range 4).foldl (fun (s : State) k => s.modDchan k fun x => { x with panics := min 0xFFFF (x.panics + 1) })
      { s with dram := { s.dram with panic := insNat c s.dram.panic } }

/-- DRAM scheduling panic of a channel (R404): from below 64 KiB with programs queued, until 128 KiB or none. -/
def State.checkPanic (s : State) (c : Nat) : State :=
  let queued := s.media.progs.any fun p => p.2.chans.contains c
  let n := s.media.pbuf c
  let p := s.dram.panic
  if !queued ∨ 131072 ≤ n then { s with dram := { s.dram with panic := delNat c p } }
  else if n < 65536 then s.enterPanic c
  else s

/-- A program is dispatched. -/
def State.addProg (s : State) (p : Prog) : State :=
  let s := s.modMedia fun m => { m with progs := Tbl.set m.progs m.nextProg p, nextProg := m.nextProg + 1 }
  p.chans.foldl (fun s c => s.checkPanic c) s

/-- Pages sent enter their truss buffers; after a stripe's last, its parity page is dispatched (R205). -/
def State.sendPages (s : State) (set : Nat) (pages : List Nat) : State :=
  let w := (s.media.set set).width
  pages.foldl (fun s k =>
    let s := s.trussPage set (k / w) (k % w)
    match parityChan set (k / w) (s.media.set set).out with
    | some q => if k % w + 1 = w then
        s.addProg { set := set, chans := [q], bytes := s.media.planes * s.media.pageBytes, parity := some (k / w)
                    crcs := if s.media.crcOn q then
                      writeCrcs (Tbl.getD s.media.truss (stripeKey set (k / w)) []) else [] }
      else s
    | none => s) s

/-! ## The journal's pages (R155, R173, R211) -/

/-- The journal entries not yet sent go into a unit at the cursor of a staging set. -/
def State.journalUnit (s : State) (set : Nat) : State :=
  let m := s.media
  let (u, s) := (s.modMedia fun m => { m with jparts := [], jsegs := [], jown := [], jseq := m.jseq + 1 }).freeUnit 9 m.jseq
  let (g, s) := s.placeIn set fun b => b.placeRun false 1
  let s := s.laneKey (s.media.unitChan set (g / 8)) 4096 (s.mediaKey 4096).gen
  (s.storeUnit set (g / 8) u).modMedia fun m' => { m' with jpages := m'.jpages ++ [⟨set, g / 8, m.jsegs⟩] }

/-! ## Programs from the write buffer (R102, R157, R160) -/

/-- The buffer item that goes next (R102); in a power-loss flush the oldest, whatever its share (R490). -/
def State.nextItem (s : State) (flush : Bool) : Option BufItem :=
  let l := s.media.buf.filter fun b => b.prog.isNone
  if flush then l.head? else s.arbPick s.media.lastProg (·.slice) l

/-- Mark an item dispatched in a program; its slice is charged 4 tokens for each unit (R100). -/
def State.sendItem (s : State) (b : BufItem) (prog goff : Nat) : State :=
  let s := s.modMedia fun m => { m with
    lastProg := b.slice
    buf := m.buf.map fun c =>
      if c.slot = b.slot ∧ c.nsx = b.nsx ∧ c.iu = b.iu ∧ c.prog.isNone then { c with prog := some prog, goff := goff } else c }
  s.modSlice b.slice fun x => { x with balFlash := x.balFlash - (b.len * 32768 : Nat) }

/-- Fill a page: at most `fuel` items, up to granule `hi` of the set unless the first is longer (log entry 150). -/
def State.fillPage_ (s : State) (set prog hi : Nat) (flush : Bool) : Nat → Bool → State
  | 0, _ => s
  | fuel + 1, first =>
    match s.nextItem flush with
    | none => s
    | some it =>
      let comp := it.packed && !it.raw
      let (g, t) := s.placeIn set fun b => b.place comp it.nsx it.len
      if !t.media.holds (t.media.set set) comp g it.len ∨ (¬ first ∧ hi < g + it.len) then s
      else
        let t := if comp then t.listExt set ⟨it.nsx, it.iu, g, it.len⟩ else t
        State.fillPage_ ((t.storeItem set g it).sendItem it prog g) set prog hi flush fuel false

/-- The staging set open at a position, or a new one when one is erased beyond the flush reserve (R152,
R157). -/
def State.stagingSet (s : State) (pos : Nat) (flush : Bool) : Option (Nat × State) :=
  match s.media.findOpen .staging .slc .write (some pos) with
  | some n => some (n, s)
  | none =>
    if (if flush then s.media.stagingErased else s.media.spareStaging) = 0 then none
    else (s.media.pickErased (some pos) false).map fun n =>
      (n, s.modMedia fun m => m.openSet n .staging .slc .write)

/-- The units that a program holds, from granule `a` to the set's cursor, are sent: data pages, then what parity pages
they complete. -/
def State.sendProgram (s : State) (set a : Nat) (p : Prog) : State :=
  let pages := s.media.pagesOf set a (s.media.set set).cursor
  let n := s.media.perPage (s.media.set set).cell
  let chans := pages.map fun k => s.media.unitChan set (k * n)
  let w := (s.media.set set).width
  let s := s.addProg { p with
    set := set, first := a / 8, count := pages.length * n, chans := chans
    bytes := pages.length * s.media.planes * s.media.pageBytes
    crcs := pages.flatMap fun k => if s.media.crcOn (s.media.unitChan set (k * n)) then
      writeCrcs (s.media.pageData set (k / w) (k % w)) else [] }
  s.sendPages set pages

/-- One program into the staging band: up to `units` items at the next die position, after the journal entries that are
open; without an item only a flush, or a command that waits for its journal entries, sends one. -/
def State.dispatchProgram (s : State) (units : Nat) (flush : Bool) : State :=
  match s.stagingSet (s.media.nextPos % max 1 s.media.dpos) flush with
  | none => s
  | some (set, t) =>
    let alone := flush || !s.media.jown.isEmpty
    let b := t.media.set set
    let n := t.media.perPage b.cell
    let a := b.cursor
    if t.media.cap b ≤ a then t.cutSet set
    else if ((s.nextItem flush).isNone && !(alone && 0 < s.media.jopen)) || !t.media.pbufRoom [t.media.unitChan set (a / 8)] then s
    else
      let old := t.media
      let t := if 0 < old.jopen then t.journalUnit set else t
      let t := t.fillPage_ set old.nextProg ((a / (8 * n) + 1) * (8 * n)) flush units (old.jopen = 0)
      if (t.media.set set).cursor = a then t.cutSet set
      else ((t.padPage set).sendProgram set a
          { set := set, chans := [], bytes := 0, entries := old.jopen, segs := old.jsegs, owners := old.jown }).modMedia
        fun m => { m with nextPos := (m.nextPos + 1) % max 1 m.dpos }

/-- STAGING_PROGRAM_DISPATCH (R155, R157, R160, R175, R228, R404): held while a power-loss flush runs (R490). -/
def execStagingProgramDispatch (units : Nat) (s : State) : Host.Outcome State Fault Refusal :=
  .next (if s.media.formed ∧ ¬ s.rel.fault ∧ ¬ s.dev.pwr.plpWarn then s.dispatchProgram units false else s)

/-! ## The end of a program (R33, R160, R172, R173, R183, R205) -/

/-- The set's last page has been programmed: it closes (R172). -/
def State.closeFull (s : State) (set : Nat) : State :=
  let b := s.media.set set
  if s.media.cap b ≤ b.cursor && !s.media.setProgs set then (s.closeSet set).settle set else s

/-- A program leaves its buffers; what waits for it goes on. -/
def State.dropProg (s : State) (n : Nat) (p : Prog) : State :=
  let s := s.modMedia fun m => { m with progs := Tbl.del m.progs n }
  p.chans.foldl (fun s c => s.checkPanic c) ((s.closeFull p.set).settleAll)

/-- A program has succeeded: the map entries that still name its buffer slots take the new place, the others
leave orphans; the slots are freed, and commands whose journal entries it held complete (R33, R160, R173, R495). -/
def State.programOk (s : State) (n : Nat) (p : Prog) : State :=
  match p.parity with
  | some page => (s.parityDone p.set page).dropProg n p
  | none =>
    let items := s.media.buf.filter fun b => b.prog = some n
    let s := items.foldl (fun s b =>
      let s := s.meterUp b.slice fun c => { c with mediaWrite := c.mediaWrite + 512 * b.len }
      let ns := s.nsx b.nsx
      match Tbl.get? ns.units b.iu with
      | some o =>
        if o.loc = .buffer b.slot ∧ ns.lives then s.putIu b.nsx b.iu { o with loc := .flash p.set b.goff } else s
      | none => s) s
    let s := (s.modMedia fun m => { m with buf := m.buf.filter fun b => b.prog ≠ some n }).ownersDone (items.filterMap (·.owner))
    p.owners.eraseDups.foldl (fun s o => s.succeed o.1 o.2) (s.dropProg n p)

/-- Extents in the order of their places. -/
def insExt (x : Ext) : List Ext → List Ext
  | [] => [x]
  | y :: l => if x.goff ≤ y.goff then x :: y :: l else y :: insExt x l

/-- Runs of units at consecutive offsets that extents join: first unit, end, extents (R229). -/
def joinRuns (l : List Ext) : List (Nat × Nat × List Ext) :=
  ((l.foldl (fun a x => insExt x a) []).foldl (fun acc x =>
    let e := (x.goff + x.len + 7) / 8
    match acc with
    | (f, e0, xs) :: t => if x.goff / 8 < e0 then (f, max e e0, xs ++ [x]) :: t else (x.goff / 8, e, [x]) :: acc
    | [] => [(x.goff / 8, e, [x])]) []).reverse

/-- An extent is compressed. -/
def State.compressed (s : State) (set : Nat) (x : Ext) : Bool :=
  (s.media.storedAt set (x.goff / 8)).any fun u => u.kind = 2

/-- Copy a run of units to another set at its cursor, as it is stored: ciphertext and metadata stay (R36, R217, R229), and an
unrecoverable unit becomes a poisoned one (R225). It answers the first granule there. -/
def State.copyRun (s : State) (set first count : Nat) (xs : List Ext) (dest : Nat) : Nat × State :=
  let comp := xs.any fun x => s.compressed set x
  let (g, s) := s.placeIn dest fun b => b.placeRun comp count
  let s := (List.range count).foldl (fun s i => match s.media.storedAt set (first + i) with
    | some u => s.storeUnit dest (g / 8 + i)
        (if u.lost then { u with kind := 0xF, app := 0, body := .bytes [], raw := none, lost := false } else u)
    | none => s) s
  (g, if comp then xs.foldl (fun s x => s.listExt dest { x with goff := x.goff + g - 8 * first }) s else s)

/-- The runs of a program: its journal unit, and those of its items. -/
def State.progRuns (s : State) (n : Nat) (p : Prog) : List (Nat × Nat × List Ext) :=
  (if 0 < p.entries then [(p.first, p.first + 1, [])] else [])
    ++ joinRuns ((s.media.buf.filter fun b => b.prog = some n).map fun b => ⟨b.nsx, b.iu, b.goff, b.len⟩)

/-- Copy the runs of a program into a set. -/
def State.copyProg (s : State) (n : Nat) (p : Prog) (set : Nat) : State :=
  (s.progRuns n p).foldl (fun s r =>
    let (g, s) := s.copyRun p.set r.1 (r.2.1 - r.1) r.2.2 set
    s.modMedia fun m => { m with
      jpages := m.jpages.map fun j => if j.set = p.set ∧ j.off = r.1 ∧ r.2.2 = [] then { j with set := set, off := g / 8 } else j
      buf := m.buf.map fun b =>
        if b.prog = some n ∧ r.1 ≤ b.goff / 8 ∧ b.goff / 8 < r.2.1 then { b with goff := b.goff + g - 8 * r.1 } else b }) s

/-- The data of a program is programmed elsewhere, from the program buffer, under the SEQ it has (R172, R217): into an open
staging set with room, or a new one, in a flush also from the reserve; without one it waits. The new place is the substitute of the
failed page (R205). -/
def State.rewriteProgram (s : State) (n : Nat) (p : Prog) (flush : Bool) : State :=
  let d := max 1 s.media.dpos
  let took := ((List.range d).map fun i => (p.set + 1 + i) % d).findSome? fun k =>
    (s.stagingSet k flush).bind fun (set, t) =>
      let a := (t.media.set set).cursor
      let t := (t.copyProg n p set).padPage set
      if t.media.cap (t.media.set set) < (t.media.set set).cursor then none else some (set, a, t)
  match took with
  | none => s.modMedia fun m => { m with progs := Tbl.set m.progs n { p with redo := true } }
  | some (set, a, t) =>
    let sub (m : Media) : List Sub := m.subs.map fun x =>
      if x.set = p.set ∧ x.page = m.unitPage p.set p.first ∧ p.chans.contains x.chan then { x with at_ := some (set, a / 8) } else x
    let k := t.media.nextProg
    (t.sendProgram set a { p with resent := 0, redo := false, waiting := false }).modMedia fun m => { m with
      progs := Tbl.del m.progs n, subs := sub m
      buf := m.buf.map fun b => if b.prog = some n then { b with prog := some k } else b }

/-- A parity page is not programmed: its stripe is unprotected (R205). -/
def State.parityLost (s : State) (n : Nat) (p : Prog) (page : Nat) : State :=
  let s := s.modMedia fun m => { m with truss := Tbl.del m.truss (stripeKey p.set page) }
  (s.nakedStripe p.set page).dropProg n p

/-- A page of a program has failed, or its member has: the set takes no more data, the page stands without a substitute
until its data is elsewhere, and the data is programmed there (R172, R205, R463). -/
def State.redoProgram (s : State) (n : Nat) (p : Prog) : State :=
  let s := s.cutSet p.set
  match p.parity with
  | some page => s.parityLost n p page
  | none =>
    let page := s.media.unitPage p.set p.first
    let s := if p.redo then s
      else s.modMedia fun m => { m with subs := m.subs ++ p.chans.map fun c => ⟨p.set, page, c, none⟩ }
    (s.rewriteProgram n p false).settle p.set

/-- Programs on failed members are rewritten (R463 step 2), and those that wait for room are tried again. -/
def State.sweepProgs (s : State) : State :=
  (s.media.progs.filter fun p => p.2.redo || p.2.chans.any fun c => s.media.dieOut (s.media.dieOf p.2.set c)).foldl
    (fun s p => s.redoProgram p.1 p.2) s

/-- Begin a change of a channel's rate (R187). -/
def State.startRate (s : State) (c r : Nat) : State :=
  s.modMedia fun m => m.modChan c fun x => if x.failed ∨ x.rate = r then x else { x with next := some r }

/-- A CRC mismatch (R183): the data is sent again once, then a third time at 3,200 MT/s; the third failure is a channel
fault. -/
def State.crcFailed (s : State) (n : Nat) (p : Prog) (c : Nat) : State :=
  if p.resent = 2 then (s.failChannel c 2).sweepProgs
  else if !s.media.crcOn c then s
  else
    let s := if p.resent = 1 then
        (s.modMedia fun m => m.modChan c fun x => { x with retrain := x.retrain + 1 }).startRate c 3200 else s
    s.modMedia fun m => { m with progs := Tbl.set m.progs n { p with
      resent := p.resent + 1, waiting := p.resent = 1 && (m.chan c).next.isSome } }

/-- FLASH_PROGRAM_COMPLETE (R172, R183, R205): of a program whose data is at its die. -/
def execFlashProgramComplete (prog : Nat) (result : ProgramEnd) (s : State) : Host.Outcome State Fault Refusal :=
  .next (match Tbl.get? s.media.progs prog with
    | none => s
    | some p =>
      let c := p.chans.headD 0
      if p.redo || p.waiting then s
      else match result with
        | .ok => s.programOk prog p
        | .failed =>
          (s.modMedia fun m => m.modSet p.set fun b => { b with marked := insNat c b.marked }).redoProgram prog p
        | .crcMismatch => s.crcFailed prog p c)

end Sys2Proof.Machine
end

