-- ==== Sys2Proof/Machine/Moves.lean ====
section
/-! DEFINITION. The moves of fold, garbage collection, wear levelling and refresh: units read, held in transit and placed in
a destination set (R36, R158, R160 to R162, R164, R170, R174, R201, R202, R225, R229). -/

namespace Sys2Proof.Machine

/-! ## Destination sets (R152, R161, R205, R229) -/

/-- Pages that moves have filled are programmed with what parity they complete (log entry 148). -/
def State.landPages (s : State) (set a : Nat) : State :=
  let w := (s.media.set set).width
  (s.media.pagesOf set a (s.media.set set).cursor).foldl (fun s k =>
    let s := s.trussPage set (k / w) (k % w)
    if k % w + 1 = w then s.parityDone set (k / w) else s) s

/-- The rest of a set is filled with filler units, and it closes. -/
def State.fillSet (s : State) (set : Nat) : State :=
  let a := (s.media.set set).cursor
  let s := s.padPage set
  let s := s.modMedia fun m => m.modSet set fun b => { b with cursor := max b.cursor (m.cap b), packed := none, exts := [] }
  (s.landPages set a).closeSet set

/-- The destination of a run: the open set of its role, mode and purpose with room for it, or a set drawn from the free
pool with the lowest EEC; a set without room is filled up. -/
def State.destSet (s : State) (role : Role) (cell : Cell) (p : Purpose) (comp : Bool) (units : Nat) :
    Option (Nat × State) :=
  let fits (s : State) (n : Nat) : Bool :=
    let b := s.media.set n
    s.media.holds b comp (b.placeRun comp units).1 (8 * units)
  let draw (s : State) : Option (Nat × State) :=
    if s.freeSets = 0 then none
    else (s.media.pickErased none false).map fun n => (n, s.modMedia fun m => m.openSet n role cell p)
  match s.media.findOpen role cell p none with
  | some n => if fits s n then some (n, s) else draw (s.fillSet n)
  | none => draw s

/-! ## Runs in transit (R36, R160, R201, R229) -/

/-- The map still names the place of an extent. -/
def State.names (s : State) (set : Nat) (x : Ext) : Bool :=
  (s.nsx x.nsx).lives && ((Tbl.get? (s.nsx x.nsx).units x.iu).map Iu.loc) = some (MapLoc.flash set x.goff)

/-- The entries of a run that still name the old place take the new one (R160, R174). -/
def State.remap (s : State) (set dest shift first : Nat) (xs : List Ext) : State :=
  xs.foldl (fun s x => match Tbl.get? (s.nsx x.nsx).units x.iu with
    | some o => s.putIu x.nsx x.iu { o with loc := .flash dest (x.goff + shift - 8 * first) }
    | none => s) s |>.settle set

/-- One run of units whose extents the map names is placed, journalled and counted. -/
def State.placeMoved (s : State) (t : Transit) (r : Nat × Nat × List Ext) : Option State :=
  let count := r.2.1 - r.1
  let spec := (s.nsx ((r.2.2.head?.map (·.nsx)).getD 0)).spec
  let comp := r.2.2.any fun x => s.compressed t.source x
  let at_ := match t.dest with
    | some d =>
      let b := s.media.set d
      if s.media.holds b comp (b.placeRun comp count).1 (8 * count) then some (d, s)
      else s.destSet spec.role spec.mode .gc comp count
    | none => s.destSet spec.role spec.mode t.purpose comp count
  at_.map fun (dest, s) =>
    let a := (s.media.set dest).cursor
    let (g, s) := s.copyRun t.source r.1 count r.2.2 dest
    let s := (s.packingUnit dest).landPages dest a
    let s := if t.foreground then s.modMedia fun m => { m with
        credit := m.credit + (r.2.2.foldl (fun n x => n + x.len) 0 : Nat) } else s
    let s := s.remap t.source dest g r.1 r.2.2
    if s.media.cap (s.media.set dest) ≤ (s.media.set dest).cursor then s.closeSet dest else s

/-- The reads of a run are done: what the map still names of it is placed, the rest was superseded (R160). Without room it
stays in transit. -/
def State.finishRun (s : State) (k : Nat) : State :=
  match Tbl.get? s.media.transit k with
  | none => s
  | some t =>
    if t.left ≠ 0 then s
    else
      let runs := joinRuns (t.ius.filter fun x => s.names t.source x)
      match runs.foldl (fun (o : Option State) r => o.bind fun s => s.placeMoved t r) (some s) with
      | none => s
      | some s => (s.modMedia fun m => { m with transit := Tbl.del m.transit k }).settle t.source

/-- A unit of a run has been read. -/
def State.runRead (s : State) (k : Nat) : State :=
  match Tbl.get? s.media.transit k with
  | none => s
  | some t => (s.modMedia fun m => { m with transit := Tbl.set m.transit k { t with left := t.left - 1 } }).finishRun k

/-- A run of units of a set begins to move: its units are read, but for those known to be unrecoverable. -/
def State.startRun (s : State) (v : Move) (r : Nat × Nat × List Ext) : State :=
  let units := ((List.range (r.2.1 - r.1)).map (r.1 + ·)).filter fun off => !s.media.unitLost v.source off
  let k := s.media.nextRun
  let t : Transit := { purpose := v.purpose, source := v.source, first := r.1, count := r.2.1 - r.1, ius := r.2.2
                       left := units.length, foreground := v.foreground, dest := v.dest }
  let s := s.modMedia fun m => { m with transit := Tbl.set m.transit k t, nextRun := k + 1 }
  let s := units.foldl (fun s off =>
    let x := (r.2.2.find? fun x => x.goff / 8 ≤ off && 8 * off < x.goff + x.len).getD ⟨0, 0, 0, 0⟩
    s.issueRead (.move k) x.nsx x.iu (off - x.goff / 8) v.source x.goff) s
  s.finishRun k

/-- An extent of a set is in transit. -/
def Media.moving (m : Media) (set : Nat) (x : Ext) : Bool :=
  m.transit.any fun p => p.2.source = set && p.2.ius.contains x

/-- The runs of a set that are not in transit. -/
def Media.runsIn (m : Media) (set : Nat) : List (Nat × Nat × List Ext) :=
  (joinRuns (m.extsIn set)).filter fun r => !r.2.2.any fun x => m.moving set x

/-- A move of a set goes on with up to `n` runs; it answers how many are left. -/
def State.runMove (s : State) (v : Move) (n : Nat) : State × Nat :=
  let rs := (s.media.runsIn v.source).take n
  ((rs.foldl (fun s r => s.startRun v r) s).settle v.source, n - rs.length)

/-- A move of a set begins (R158, R162, R170, R172). -/
def State.startMove (s : State) (v : Move) : State :=
  (s.modMedia fun m => { m.modSet v.source fun b => { b with st := .relocating } with
    moves := m.moves ++ [v] }).settle v.source

/-- A refresh move of one indirection unit, with those that extents join to it, while the map names its place (R201). -/
def State.refreshOne (s : State) (x : Refresh) : State :=
  match (s.media.runsIn x.set).find? fun r => r.2.2.any fun e => e.nsx = x.nsx && e.iu = x.iu && e.goff = x.goff with
  | some r => s.startRun { purpose := .gc, source := x.set } r
  | none => s

/-- Run the moves of a span on `n` runs: those that wait for room, then refresh moves, in a window or out of a degraded set
(R207), then the moves of sets. -/
def State.runMoves (s : State) (window : Bool) (n : Nat) : State :=
  let s := (s.media.transit.map (·.1)).foldl (fun s k => s.finishRun k) s
  let now := (s.media.refresh.filter fun u => window || (s.media.set u.set).degraded).take n
  let s := now.foldl (fun s u => s.refreshOne u) s
  let s := s.modMedia fun m => { m with refresh := m.refresh.filter fun u => !now.contains u }
  let go (v : Move) : Bool := window || v.foreground || (v.purpose = .fold && s.media.fold ≠ .none_)
  ((s.media.moves.filter go).foldl (fun (a : State × Nat) v => a.1.runMove v a.2) (s, n - now.length)).1

end Sys2Proof.Machine
end

