-- ==== Sys2Proof/Machine/Flash.lean ====
section
/-! DEFINITION. The flash events: reads through the retry ladder and the authentication check, erases, sample
reads, rate changes, map segments and the commit of media keys (chapters 05 to 07). -/

namespace Sys2Proof

/-- The hard decoder's steps of the ladder (R200). -/
def hardStep (step : Nat) : Bool := step = 1 || step = 3

/-- A codeword with fewer than 64 bits read as 0 is erased, and the hard decoder does not decode it (R192). -/
def Decode.erased (d : Decode) (step : Nat) : Bool := hardStep step && d.zeros < 64

/-- The syndrome is zero within the iterations of the step: 24 of the hard decoder, 40 of a soft decoder (R192, R193). -/
def Decode.good (d : Decode) (step : Nat) : Bool := d.iters.any (· ≤ if Machine.softStage step then 40 else 24)

end Sys2Proof

namespace Sys2Proof.Machine

/-! ## Columns (R196, R198) -/

/-- The mapped defective columns of a unit's codeword. -/
def Media.mappedCols (m : Media) (set off : Nat) : List Nat :=
  let c := (m.set set).cell
  let k := m.unitWord set off
  let lo := m.wordPlane c k * 2 ^ 20 + m.wordCol c k
  (Tbl.getD m.colBad (m.unitDie set off) []).filter fun x => lo ≤ x && x < lo + c.codeword

/-! ## Threshold tracking (R194 to R196, R198) -/

/-- A quotient kept to 8 fraction bits; which way it is rounded the spec does not say, and the free bit
does (log entry 24). -/
def quot (up : Bool) (n d : Int) : Int := if n % d = 0 ∨ ¬ up then n.fdiv d else n.fdiv d + 1

/-- Clamp to a range. -/
def clampInt (lo hi x : Int) : Int := max lo (min hi x)

/-- The update of R195 for n10, n01, on values with 8 fraction bits. -/
def trackUpdate (t : Track) (c : Cell) (sense : Sense) (n10 n01 : Nat) (up : Bool) : Track :=
  let d : Int := (n10 : Int) - n01
  let n : Int := (n10 : Int) + n01
  let l : Int := c.levels
  let o := clampInt (-32768) 32512 (t.o - quot up (32 * d) n)
  if c = .slc then { t with o := o }
  else
    let g := clampInt (-524288) 524032 (t.g - quot up (8192 * d * ((sense.cp2 : Int) - (l + 1))) (n * (l + 1)))
    let a := if sense.p1 then clampInt (-16384) 16128 (t.a - quot up (64 * d) n) else t.a
    { t with o := o, g := g, a := a }

/-- Wordlines of a set and channel in the grown defect list. -/
def State.wlBad (s : State) (set chan wl : Nat) : Bool := (Tbl.getD s.media.wlBad (set * 32 + chan) []).contains wl

/-- Change the tracked values of a unit's wordline group; a read has touched it (R197). -/
def State.track (s : State) (r : MediaRead) (f : Track → Track) : State :=
  let k := s.media.trackKeyOf r.set r.off
  let t := Tbl.getD s.media.track k {}
  s.modMedia fun m => { m with track := Tbl.set m.track k { f t with touched := s.dev.smart.piers } }

/-- A hard decode has succeeded (R195, R196): the tracked values follow unless frozen. -/
def State.tracked (s : State) (r : MediaRead) (d : Decode) (sense : Sense) : State :=
  let m := s.media
  let mapped := m.mappedCols r.set r.off
  let fixes := d.fixes.filter fun x => !mapped.contains x.1
  let n10 := (fixes.filter (·.2)).length
  let n01 := fixes.length - n10
  let frozen := 32 ≤ mapped.length || s.wlBad r.set (m.unitChan r.set r.off) (m.wordline r.set r.off) || n10 + n01 < 4
  let up := s.freeWord.toNat % 2 = 1
  s.drawn.track r fun t => if frozen then t else trackUpdate t (m.set r.set).cell sense n10 n01 up

/-- A byte column enters the defect map of its die; a plane's 257th entry fails the die (R198, R462). -/
def State.enterColumn (s : State) (die col : Nat) : State :=
  let bad := Tbl.getD s.media.colBad die []
  if bad.contains col then s
  else if 256 ≤ (bad.filter fun c => c / 2 ^ 20 = col / 2 ^ 20).length then s.failDie die 2
  else s.modMedia fun m => { m with colBad := Tbl.set m.colBad die (insNat col bad) }

/-- A correction fell on a byte column (R198): the eighth wordline enters it in the defect map. -/
def State.columnHit (s : State) (die col wl : Nat) : State :=
  if (Tbl.getD s.media.colBad die []).contains col then s
  else
    let hits := Tbl.getD s.media.colHits die []
    let h := insNat wl (Tbl.getD hits col [])
    let s := s.modMedia fun m => { m with colHits := Tbl.set m.colHits die (Tbl.set hits col h) }
    if h.length < 8 then s else s.enterColumn die col

/-- Ladder step 4 is needed on a codeword of a wordline: the third different one puts the wordline in the
grown defect list (R196). -/
def State.stepFour (s : State) (r : MediaRead) : State :=
  let k := r.set * 32 + s.media.unitChan r.set r.off
  let wl := s.media.wordline r.set r.off
  let l := Tbl.getD s.media.wlHits k []
  let l := if l.contains (wl, r.off) then l else (wl, r.off) :: l
  let n := (l.filter fun p => p.1 = wl).length
  s.modMedia fun m => { m with
    wlHits := Tbl.set m.wlHits k l
    wlBad := if 3 ≤ n then Tbl.set m.wlBad k (insNat wl (Tbl.getD m.wlBad k [])) else m.wlBad }

/-! ## Delivery (R202, R220, R221, R260, R261) -/

/-- Change a Scan. -/
def State.modScan (s : State) (n : Nat) (f : Scan → Scan) : State :=
  match Tbl.get? s.cpu.scans n with
  | some x => { s with cpu := { s.cpu with scans := Tbl.set s.cpu.scans n (f x) } }
  | none => s

/-- A unit's plaintext enters the filter of a channel for a Scan (R260, R264, R268). -/
def State.feedScan (s : State) (n idx chan : Nat) (unit : List Byte) : State :=
  match Tbl.get? s.cpu.scans n with
  | none => s
  | some x =>
    let init := (progKinds x.prog).map accInit
    let o := filterUnit x.prog (Tbl.getD x.accs chan init) unit
    let s := s.modScan n fun x => { x with
      accs := Tbl.set x.accs chan o.accs
      records := x.records + o.records, matched := x.matched + o.matched
      units := x.units + 1, frameErr := x.frameErr + o.errs
      firstErr := if o.errs = 0 then x.firstErr else some (min idx (x.firstErr.getD idx))
      entries := x.entries ++ o.entries.map fun e => (idx, e.1, e.2)
      taken := insNat idx x.taken }
    s.meterUp x.slice fun c => { c with scanBytes := c.scanBytes + 4096 }

/-- A Read has one unit less to wait for; with none left it ends. A unit of a compressed extent, and one that is not what
was programmed, is kept. -/
def State.ioDone (s : State) (io iu unit : Nat) (got : Option (Body × W16 × Bool)) (fail : Option (Nat × Nat)) : State :=
  match Tbl.get? s.media.ios io with
  | none => s
  | some r =>
    let part := match got with
      | some (b, app, alien) =>
        if alien || (Tbl.get? r.ius iu).isSome then [{ iu := iu, unit := unit, body := b, app := app, alien := alien : ReadPart }] else []
      | none => []
    let r' := { r with
      left := r.left - 1, parts := r.parts ++ part, fail := if r.fail.isSome then r.fail else fail }
    if r'.left = 0 then (s.modMedia fun m => { m with ios := Tbl.del m.ios io }).endRead r'
    else s.modMedia fun m => { m with ios := Tbl.set m.ios io r' }

/-- A unit has been read and checked. -/
def State.unitOk (s : State) (n : Nat) (r : MediaRead) (body : Body) (app : W16) (alien : Bool) : State :=
  let chan := s.media.unitChan r.set r.off
  let s := s.dropRead n
  if r.dropped then s
  else match r.reader with
    | .sample => s
    | .move k => s.runRead k
    | .cmd io =>
      let s := s.meterUp r.slice fun c => { c with
        mediaRead := c.mediaRead + 4096
        crucible := c.crucible + (if r.unit = 0 then
          match Tbl.get? (s.nsx r.nsx).units r.iu with
          | some o => if o.raw then 0 else o.clen
          | none => 0 else 0) }
      s.ioDone io r.iu r.unit (some (body, app, alien)) none
    | .scan k idx => (s.modScan k fun x => { x with waiting := x.waiting - 1 }).feedScan k idx chan body.plain

/-- A unit ends its command with a status (R202, R221, R261). -/
def State.unitFail (s : State) (n : Nat) (r : MediaRead) (sct sc : Nat) : State :=
  let s := s.dropRead n
  if r.dropped then s
  else match r.reader with
    | .sample => s
    | .move k => s.runRead k
    | .cmd io => s.ioDone io r.iu r.unit none (some (sct, sc))
    | .scan k idx => s.modScan k fun x => { x with
        waiting := x.waiting - 1, failed := if x.failed.isSome then x.failed else some (sct, sc, idx) }

/-- The fault log's numbers of the unit that a read is of. -/
def State.unitNumbers (s : State) (r : MediaRead) : List Nat := [r.nsx, r.iu * (s.nsx r.nsx).spec.iuUnits + r.unit]

/-- The unit is unrecoverable (R202): logged, and on record until it is erased, so that every extent with a granule in it
reads as unrecoverable and the move that meets it writes it poisoned (R225). -/
def State.unrecoverable (s : State) (n : Nat) (r : MediaRead) : State :=
  let chan := s.media.unitChan r.set r.off
  let s := s.logFault 0x04 4 [chan] (if r.device then none else some r.slice) [r.set, r.off] (s.unitNumbers r)
  let s := match s.media.storedAt r.set r.off with
    | some u => s.storeUnit r.set r.off { u with lost := true }
    | none => s
  s.unitFail n r 2 0x81

/-! ## The check of a unit (R220, R221, R230) -/

/-- The request that a read makes of its unit. -/
def State.askOf (s : State) (r : MediaRead) : UnitAsk :=
  let p := (s.nsx r.nsx).spec
  let i := r.iu * p.iuUnits + r.unit
  if p.packed then .packed r.slice r.nsx i else .plain r.slice r.nsx i

/-- The header of a compressed extent, in its first unit, matches the request and the map entry (R230). -/
def State.headerOk (s : State) (r : MediaRead) (body : Body) : Bool :=
  match Tbl.get? (s.nsx r.nsx).units r.iu with
  | none => true
  | some o => match o.loc with
    | .buffer _ => true
    | .flash set g =>
      if !(s.nsx r.nsx).spec.packed || o.raw || r.unit ≠ 0 || set ≠ r.set || g / 8 ≠ r.off then true
      else match body with
        | .packed l => l.any fun p => p.at_ = g % 8 && p.skip = 0 && p.iu = r.iu && p.len = o.len
        | b => (b.plain.drop (512 * (g % 8))).take 10 = (extentHeader r.iu o.len 0 0 []).take 10

/-- What the check finds of a unit. Moves and sample reads carry the ciphertext and check nothing. -/
def State.found (s : State) (r : MediaRead) (bytes : Option (List Byte)) : Found :=
  let u := s.media.storedAt r.set r.off
  if r.device then .good (.bytes []) 0 false
  else
    let got := if r.step = 6 ∧ bytes.isNone ∧ u.all (fun u => u.unit ≠ (s.media.rebuild r.set r.off).take 4128)
      then some ((s.media.rebuild r.set r.off).take 4128) else bytes
    match checkStored u got r.key (s.askOf r) with
    | .good b app alien => if s.headerOk r b then .good b app alien else .authFail
    | f => f

/-- The channel whose cipher lane checks a unit: its own, or after reconstruction the parity channel (R206). -/
def State.checkChan (s : State) (r : MediaRead) : Nat :=
  if r.step = 6 then (parityChan r.set (s.media.unitPage r.set r.off) (s.media.set r.set).out).getD 0
  else s.media.unitChan r.set r.off

/-- The check of R220 and R221 on a unit that decoded at its step: after a failed check the unit is read again at steps 4 and
5, then rebuilt; on a failed member it is rebuilt once more (log entry 149). A read that is dropped stops (R203). -/
def State.authCheck (s : State) (n : Nat) (r : MediaRead) (bytes : Option (List Byte)) : State :=
  let s := if r.device then s else s.laneKey (s.checkChan r) r.nsx r.gen
  match s.found r bytes with
  | .poisoned => s.unitFail n r 2 0x81
  | .good body app alien =>
    let s := match bytes, s.media.storedAt r.set r.off with
      | some b, some u => if r.step = 6 then s else s.storeUnit r.set r.off { u with raw := some b }
      | _, _ => s
    (if r.auth ≠ 0 then s.queueRefresh r.nsx r.iu else s).unitOk n r body app alien
  | .authFail =>
    if r.dropped then s.dropRead n
    else if r.auth = 0 ∧ r.step ≠ 6 then (s.modRead n fun r => { r with auth := 1 }).enterStep n 4 5
    else if r.auth ≤ 1 then (s.modRead n fun r => { r with auth := 2, soft := none, step := 6 }).softServe
      (softGroup (s.media.unitChan r.set r.off)) 6
    else
      let kind := ((s.media.storedAt r.set r.off).map (·.kind)).getD 0
      let s := s.logFault 0x05 4 [s.media.unitChan r.set r.off] (some r.slice) [r.set, r.off] (s.unitNumbers r ++ [kind])
      s.unitFail n r 7 0x85

/-- A unit recovered at step 3 or later is counted and queued for a refresh move (R201). -/
def State.recovered (s : State) (r : MediaRead) : State :=
  if r.step < 3 then s
  else
    let c := s.media.unitChan r.set r.off
    (s.modMedia fun m => m.modChan c fun x => { x with recov := min 255 (x.recov + 1) }).queueRefresh r.nsx r.iu

/-- A codeword has been decoded at the read's step (R192, R193, R200): success goes to the check, a failure to the
next step; a dropped read stops at its next step (R203), and one of a failed member goes to step 6, which an unprotected
stripe, or one with another page out, does not pass (R206). -/
def State.decoded (s : State) (n : Nat) (r : MediaRead) (d : Decode) (sense : Sense) (bytes : Option (List Byte)) : State :=
  let m := s.media
  let die := m.unitDie r.set r.off
  if d.erased r.step then (s.track r id).unrecoverable n r
  else if d.good r.step && (r.step < 6 || m.canRebuild r.set r.off) then
    let s := if hardStep r.step then s.tracked r d sense
      else if r.step = 5 then s.track r fun t => { t with o := clampInt (-32768) 32512 (t.o + 256 * r.kept) }
      else s
    let s := if r.step = 6 then s
      else ((d.fixes.map (·.1)).eraseDups).foldl (fun s c => s.columnHit die c (r.set * 2 ^ 16 + m.wordline r.set r.off)) s
    (s.recovered r).authCheck n r bytes
  else if r.step = 6 then s.unrecoverable n r
  else if r.dropped then s.dropRead n
  else
    let s := s.track r id
    let next := if m.dieOut die then 6 else r.step + 1
    let s := if next = 4 then s.stepFour r else s
    let s := s.modRead n fun r => { r with auth := if next = 6 ∧ r.auth = 1 then 2 else r.auth }
    let chan := m.unitChan r.set r.off
    ((s.enterStep n next 5).softServe (softGroup chan) 6)

/-- A die has reported ready: its time-outs are not consecutive (R462). -/
def State.dieReady (s : State) (die : Nat) : State := s.modMedia fun m => { m with late := delNat die m.late }

/-- FLASH_READ_COMPLETE (R192, R195 to R198, R200, R206, R220, R221): of a read its die has taken, at steps 1 and 3 of the
ladder, or of the codewords that step 6 rebuilds a unit from. -/
def execFlashReadComplete (read : Nat) (dec : Decode) (sense : Sense) (bytes : Option (List Byte)) (s : State) :
    Host.Outcome State Fault Refusal :=
  .next (match Tbl.get? s.media.reads read with
    | none => s
    | some r =>
      if r.issued && (hardStep r.step || r.step = 6) then
        ((s.dieReady (s.media.unitDie r.set r.off)).decoded read r dec sense bytes).sweepProgs
      else s)

/-- SOFT_DECODE_COMPLETE (R193, R200): of a codeword that has a decoder, at steps 2, 4 and 5 of the ladder. -/
def execSoftDecodeComplete (read : Nat) (dec : Decode) (sense : Sense) (bytes : Option (List Byte)) (s : State) :
    Host.Outcome State Fault Refusal :=
  .next (match Tbl.get? s.media.reads read with
    | none => s
    | some r => if r.soft.any (·.unit.isSome) then (s.decoded read r dec sense bytes).sweepProgs else s)

/-- A die has an operation in progress: a read, a program or an erase. -/
def Media.dieActive (m : Media) (die : Nat) : Bool :=
  !(m.dieReads die true).isEmpty
    || m.progs.any (fun p => p.2.chans.any fun c => m.dieOf p.2.set c = die)
    || m.sets.any fun p => p.2.st = .erasing && p.1 % max 1 m.dpos = die / 32

/-- DIE_BUSY_TIMEOUT (R13, R203, R462, R463): of a die with an operation in progress; the second in a row fails it. -/
def execDieBusyTimeout (die : Nat) (s : State) : Host.Outcome State Fault Refusal :=
  .next (if s.media.dies ≤ die ∨ ¬ s.media.dieActive die then s
    else if s.media.late.contains die then (s.failDie die 1).sweepProgs
    else s.modMedia fun m => { m with late := insNat die m.late })

/-! ## Erases (R168, R169, R172, R173) -/

/-- Weight of a life cycle in a mode (R169). -/
def Media.weight (m : Media) (c : Cell) : Nat :=
  let e := max 1 (c.pick m.rating)
  (256 * m.rating.2.2.1 + e - 1) / e

/-- The set is retired: its other blocks join their dies' spares (R172, R177). -/
def State.retireSet (s : State) (set bad : Nat) : State :=
  let b := s.media.set set
  let s := s.modMedia fun m => { m.modSet set fun b => { b with st := .retired, marked := [] } with
    retired := m.retired + 1 }
  ((List.range 32).foldl (fun s c =>
    if c = bad ∨ b.out.contains c then s
    else
      let d := s.media.dieOf set c
      s.modMedia fun m => { m with spares := Tbl.set m.spares d (insSorted (b.eecs.getD c 0) (m.sparesAt d)) }) s).checkSpare

/-- Exchange blocks of a set for spares; a channel without one retires the set. -/
def State.exchange (s : State) (set : Nat) (chans : List Nat) : State :=
  chans.foldl (fun s c =>
    if (s.media.set set).st = .retired then s
    else match s.takeSpare (s.media.dieOf set c) with
      | some (e, t) => t.modMedia fun m => m.modSet set fun b => { b with eecs := b.eecs.mapIdx fun i x => if i = c then e else x }
      | none => s.retireSet set c) s

/-- The erase of a stale set is issued, its marked blocks exchanged first. -/
def State.startErase (s : State) (set : Nat) : State :=
  let s := s.exchange set (s.media.set set).marked
  if (s.media.set set).st = .retired then s.sweepProgs
  else (s.modMedia fun m => m.modSet set fun b => { b with st := .erasing, marked := [] }).sweepProgs

/-- STALE_SET_ERASE (R34, R172, R174, R175): no read holds a location in the set; not while PLP_WARN_N is asserted. -/
def execStaleSetErase (set : Nat) (s : State) : Host.Outcome State Fault Refusal :=
  .next (
    if (s.media.set set).st ≠ .stale || s.dev.pwr.plpWarn || s.media.reads.any fun p => p.2.set = set then s
    else s.startErase set)

/-- The blocks of a set are erased: what it held is gone, and their equivalent erase counts rise (R169, R196, R205). -/
def State.wipeSet (s : State) (set : Nat) : State :=
  s.modMedia fun m => { m.modSet set fun b => { b with
      st := .erased, valid := 0, cursor := 0, packed := none, exts := [], degraded := false, naked := []
      eecs := b.eecs.mapIdx fun c e => if b.out.contains c then e else e + m.weight b.cell } with
    stored := m.stored.filter fun p => p.1 / 2 ^ 20 ≠ set
    truss := m.truss.filter fun p => p.1 / 2 ^ 16 ≠ set
    parity := m.parity.filter fun p => p.1 / 2 ^ 16 ≠ set
    subs := (m.subs.filter fun x => x.set ≠ set).map fun x => if x.at_.any (·.1 = set) then { x with at_ := none } else x
    wlHits := m.wlHits.filter fun p => p.1 / 32 ≠ set
    wlBad := m.wlBad.filter fun p => p.1 / 32 ≠ set }

/-- The set is erased and joins the free pool (R164, R168). -/
def State.setErased (s : State) (set : Nat) : State :=
  let s := s.wipeSet set
  (s.modMedia fun m => { m with credit := if 32 ≤ s.freeSets then 0 else m.credit }).checkExhaust

/-- FLASH_ERASE_COMPLETE (R172, R173, R175, R177): a failed block is exchanged and its erase issued again; an erase that
PLP_WARN_N has suspended does not end. -/
def execFlashEraseComplete (set : Nat) (failedChannels : List Nat) (s : State) :
    Host.Outcome State Fault Refusal :=
  .next (if (s.media.set set).st ≠ .erasing ∨ (s.dev.pwr.plpWarn ∧ s.media.suspends) then s
    else if failedChannels.isEmpty then s.setErased set
    else (s.exchange set (failedChannels.filter (· < 32))).sweepProgs)

/-! ## Sample reads, rates and map segments (R155, R187, R197) -/

/-- A valid unit of a die, mode and wordline group: its namespace, indirection unit, unit of it, set and first granule
(R197). -/
def Media.sampleUnit (m : Media) (die : Nat) (mode : Cell) (group : Nat) : Option (Nat × Nat × Nat × Nat × Nat) :=
  m.ns.findSome? fun p => if !p.2.lives then none else p.2.units.findSome? fun u =>
    match u.2.loc with
    | .flash set g =>
      if (m.set set).cell ≠ mode ∨ set % max 1 m.dpos ≠ die / 32 then none
      else (unitSpan g u.2.len).findSome? fun off =>
        if m.unitDie set off = die ∧ m.wlGroup set off = group ∧ ¬ m.unitLost set off
        then some (p.1, u.1, off - g / 8, set, g) else none
    | .buffer _ => none

/-- SAMPLE_READ (R197): of a valid unit of a die, mode and wordline group that no read has touched in 100 piers, in a
background span window. -/
def execSampleRead (die : Nat) (cellMode : Nat) (wlGroup : Nat) (s : State) : Host.Outcome State Fault Refusal :=
  .next (
    let mode : Cell := if cellMode = 0 then .slc else if cellMode = 1 then .tlc else if cellMode = 2 then .qlc else .plc
    let t := Tbl.getD s.media.track (trackKey die mode wlGroup) {}
    if s.dev.smart.piers < t.touched + 100 ∨ s.time.span % 10 ≠ 9 ∨ s.dev.pwr.plpWarn then s
    else match s.media.sampleUnit die mode wlGroup with
      | some (x, iu, u, set, g) => s.issueRead .sample x iu u set g
      | none => s)

/-- The next lower rate step. -/
def lowerRate (r : Nat) : Nat := if 3200 < r then 3200 else if 1600 < r then 1600 else 800

/-- RATE_CHANGE_COMPLETE (R183, R186, R187, R205): data that waited for the rate is sent, and a change that was to follow
begins; failed training falls to the next lower step, and at 800 MT/s fails the
channel. -/
def execRateChangeComplete (chan : Nat) (trained : Bool) (s : State) : Host.Outcome State Fault Refusal :=
  .next (
    let c := s.media.chan chan
    match c.next with
    | none => s
    | some r =>
      if trained then s.modMedia fun m => { m.modChan chan fun c => { c with
            rate := r, next := if c.then_ = some r then none else c.then_, then_ := none, retrain := 0 } with
          progs := Tbl.mapV m.progs fun _ p => if p.chans.contains chan then { p with waiting := false } else p }
      else if r ≤ 800 then (s.failChannel chan 1).sweepProgs
      else
        let s := s.logFault 0x03 2 [chan] none [0] [r, lowerRate r]
        s.modMedia fun m => m.modChan chan fun c => { c with next := some (lowerRate r) })

/-- The plaintext of unit `j` of a map segment: its part of the map of a namespace (R153, R155; log entry 151). -/
def State.mapUnit (s : State) (segment j : Nat) : Body :=
  let y := s.nsx (segment / 2 ^ 20)
  let size := y.spec.entry
  let base := segment % 2 ^ 20 * 2 ^ 22 + 4096 * j
  let ius := ((List.range (4096 / size + 2)).map (base / size + ·)).filter (· < y.spec.ius)
  .map size base ((ius.map fun iu => (iu, y.entryBits iu)).filter fun e => e.2 ≠ 3 * 2 ^ (8 * size - 2))

/-- The map set that is open with room for a unit, or a new one out of the map's quota (R151, R155). -/
def State.mapSet (s : State) : Option (Nat × State) :=
  let draw (s : State) : Option (Nat × State) :=
    if s.mapSets ≤ s.media.mapUsed_ then none
    else (s.media.pickErased none false).map fun n => (n, s.modMedia fun m => m.openSet n .map .tlc .write)
  match s.media.findOpen .map .tlc .write none with
  | some n =>
    if (s.media.set n).cursor + 8 ≤ s.media.cap (s.media.set n) then some (n, s) else draw (s.closeSet n)
  | none => draw s

/-- One unit of a map segment is written; none where no map set has room. -/
def State.writeMapUnit (s : State) (segment j : Nat) : Option (Nat × Nat × State) :=
  s.mapSet.map fun (set, s) =>
    let a := (s.media.set set).cursor
    let (u, s) := s.deviceUnit 8 segment (s.mapUnit segment j)
    let s := s.laneKey (s.media.unitChan set (a / 8)) 4096 (s.mediaKey 4096).gen
    let s := (s.storeUnit set (a / 8) u).modMedia fun m => m.modSet set fun b => { b with
      cursor := b.cursor + 8, valid := b.valid + 8 }
    (set, a / 8, s.landPages set a)

/-- The 1,024 units of a map segment are written: their places, and the state; none where the map sets have no room. -/
def State.writeSegment (s : State) (segment : Nat) : Option (List (Nat × Nat) × State) :=
  (List.range 1024).foldl (fun o j => o.bind fun (l, s) =>
    (s.writeMapUnit segment j).map fun (set, off, t) => (l ++ [(set, off)], t)) (some ([], s))

/-- A segment has been written: its old copy gives up its granules, and the journal pages that it was the last to cover
are released (R155). -/
def State.segmentDone (s : State) (segment : Nat) (at_ : List (Nat × Nat)) : State :=
  let old := (Tbl.getD s.media.segs segment {}).at_
  let s := s.modMedia fun m => { m with
    segs := Tbl.set m.segs segment { touched := 0, written := s.dev.smart.piers, at_ := at_ }
    jpages := (m.jpages.map fun j => { j with segs := j.segs.filter (· ≠ segment) }).filter fun j => !j.segs.isEmpty }
  (old.foldl (fun s p => s.dropGranules p.1 8) s).settleAll

/-- MAP_SEGMENT_REWRITE (R155, R175, R197, R210): after 65,536 journal entries, or 600 piers; the tracked values are written
with it. -/
def execMapSegmentRewrite (segment : Nat) (s : State) : Host.Outcome State Fault Refusal :=
  .next (
    let g := Tbl.getD s.media.segs segment {}
    if (g.touched < 65536 ∧ s.dev.smart.piers < g.written + 600) ∨ s.dev.pwr.plpWarn then s
    else match s.writeSegment segment with
      | none => s
      | some (l, t) => (((t.segmentDone segment l).keeperData 0).modMedia fun m => { m with trackSaved := m.track }))

/-! ## The commit of media keys (R213 to R216) -/

/-- What one replacement changes when it comes into force. -/
def State.applyAct (s : State) : KeyAct → State
  | .nsCreate x =>
    let n := s.dev.nsCount + 1
    let s := { s.newMediaKey x with dev := { (s.newMediaKey x).dev with nsCount := n } }
    s.modNs x fun y => { y with pending := false, number := n }
  | .nsDelete xs => xs.foldl (fun s x => (s.newMediaKey x).deleteNs x) s
  | .format xs fmt dps => xs.foldl (fun s x =>
      ((s.newMediaKey x).freeAllIus x).modNs x fun y =>
        let spec := { y.spec with nsze := y.spec.nsze * y.spec.lba / (if fmt = 0 then 512 else 4096), fmt := fmt, dps := dps }
        { y with spec := spec, readOnly := false, dealloc := [(0, spec.ius)] }) s
  | .sanitize scope =>
    let xs := (s.media.ns.filter fun p => match scope with
      | some sl => p.2.slice = sl && p.2.lives
      | none => true).map (·.1)
    let s := xs.foldl (fun s x => ((s.newMediaKey x).freeAllIus x).modNs x fun y => { y with readOnly := false }) s
    if scope.isNone then s.newMediaKey 4096 else s
  | .keyImport o slot cls key ct => s.applyImport o slot cls key ct
  | .keyEmpty o slot => s.applyEmpty o slot

/-- Dword 0 of the completion of a replacement's command: the NSID created. -/
def State.actDw0 (s : State) : KeyAct → W32
  | .nsCreate x => BitVec.ofNat 32 (s.nsx x).nsid
  | _ => 0

/-- The replacements of the commit come into force together under a new table key (R214, R429, R435), their commands
complete, and the replacements that joined meanwhile form the next commit. A sanitize goes on until SANITIZE_COMPLETE. -/
def State.keyCommit (s : State) : State :=
  if s.hm.commit.isEmpty then s
  else
    let works := s.hm.commit
    let s := { s with hm := { s.hm with commit := s.hm.joining, joining := [] } }
    let s := works.foldl (fun s w =>
      let s := s.applyAct w.act
      match w.src with
      | some (q, cid) => s.complete q cid 0 0 (s.actDw0 w.act) 0
      | none => s) s
    s.wrapTable.checkReadOnly.checkNv

/-- MEDIA_KEY_COMMIT (R214, R216, R429, R435). -/
def execMediaKeyCommit (s : State) : Host.Outcome State Fault Refusal := .next s.keyCommit

/-! ## Signatures (R139, R141, R428) -/

/-- SIGNATURE_COMPLETE (R139, R141, R428): a seal is committed with its leaves and becomes readable, the seal store being keeper data (R210); a quote
completes its command. The next signature begins. -/
def execSignatureComplete (s : State) : Host.Outcome State Fault Refusal :=
  .next (match s.hm.signing with
    | none => s
    | some j =>
      let s := { s with hm := { s.hm with signing := none } }
      let s := match j with
        | .seal =>
          match s.meter.closed with
          | [] => s
          | m :: rest =>
            let x : Seal := ⟨m, Config.xmssSign (sealKey s.hm.sealGen) m.sigIdx (sealHeader m)⟩
            let s := { s with meter := { s.meter with
              closed := rest, store := (x :: s.meter.store).take 2880, chain := true
              last := BitVec.ofNat 64 m.minute } }
            let s := s.keeperData 2
            if rest.isEmpty then s else { s with hm := { s.hm with waitSeal := true } }
        | .quote q e body =>
          let idx := leNat ((body.drop 32).take 8)
          let d := Data.ofBytes (body ++ Config.xmssSign identityKey idx body)
          ((s.sendTo q e.dptr d).moved q e.cid true d.len).succeed q e.cid
      s.signerNext.checkNv)

/-! ## The blank-tracked region's size (R394) -/

/-- DRAM_BTCFG_WRITE (R394). -/
def execDramBtcfgWrite (value : W32) (s : State) : Host.Outcome State Fault Refusal :=
  .next (
    let v := value.toNat / 65536 % 256
    let room := gib * (s.dramGib - 5) - 2 ^ 20 * s.media.dies - s.media.mapUsed
    let held := s.dram.extents.foldl (fun n x => n + 2 ^ 21 * x.2.2) 0
    if v < 2 ∨ 128 < v ∨ room < gib * v ∨ gib * (v - 1) < held then s
    else { s with dram := { s.dram with btNext := v, btSaved := v } })

end Sys2Proof.Machine
end

