-- ==== Sys2Proof/Machine/Namespace.lean ====
section
/-! DEFINITION. Namespace Management and Attachment, Format NVM and Sanitize (R74 to R78, R86, R213, R214). -/

namespace Sys2Proof.Machine

/-- Namespaces of a slice that exist or wait for the commit of their create. -/
def State.nsCreated (s : State) (sl : Nat) : List (Nat × Ns) :=
  s.media.ns.filter fun p => p.2.slice = sl && !p.2.deleted

/-- The lowest number that a predicate does not take, below 4,097. -/
def lowestFree (taken : Nat → Bool) (from_ : Nat) : Nat :=
  (((List.range 4097).map (from_ + ·)).find? fun n => !taken n).getD 0

/-- A command of a slice that touches its namespaces: while a sanitize runs it completes with Sanitize In
Progress (R78). -/
def State.nsAdmin (s : State) (q : Src) (e : Sqe) (opc : Nat) (body : Nat → State → State) : State :=
  s.adminCmd q e opc onSlice fun s =>
    match q.slice? with
    | none => s.fail q e.cid 0 scInvalidOpcode
    | some sl => if s.sanitizing sl then s.fail q e.cid 0 0x1D else body sl s

/-- The fields of the Identify Namespace layout that a create takes (R74): NSZE, NCAP, FLBAS, DPS, NMIC and bytes
3840 to 3842. -/
structure NsArgs where
  nsze   : Nat
  ncap   : Nat
  fmt    : Nat
  dps    : Nat
  nmic   : Nat
  iu     : Nat
  packed : Nat
  cell   : Nat
  deriving DecidableEq, Repr

/-- Read the fields. The format index has its low four bits in FLBAS [3:0] and its high two in [6:5]. -/
def readNsArgs (d : List Byte) : NsArgs :=
  let b (i : Nat) : Nat := (d.getD i 0).toNat
  { nsze := leNat (d.take 8), ncap := leNat ((d.drop 8).take 8), fmt := b 26 % 16 + 16 * (b 26 / 32 % 4)
    dps := b 29, nmic := b 30, iu := b 3840, packed := b 3841, cell := b 3842 }

/-- The checks of a create's fields, in order (R74). -/
def NsArgs.check (a : NsArgs) : Option Status :=
  if a.nsze = 0 ∨ a.ncap ≠ a.nsze then some (0, scInvalidField)
  else if 1 < a.iu ∨ 1 < a.packed ∨ 2 < a.cell ∨ (a.packed = 1 ∧ a.iu = 0) ∨ 2 < a.fmt ∨ a.nmic ≠ 0
      ∨ 1 < a.dps % 8 ∨ a.dps / 8 % 2 = 1 ∨ (a.dps % 8 = 1 ∧ a.fmt ≠ 2) then some (1, 0x0A)
  else none

/-- The namespace's parameters. -/
def NsArgs.spec (a : NsArgs) : NsSpec :=
  { nsze := a.nsze, fmt := a.fmt, dps := a.dps % 8, iu16 := a.iu = 1, packed := a.packed = 1, cell := a.cell }

/-- The slice's capacity grant or the map budget would be exceeded (R74, R91, R156). -/
def State.nsTooBig (s : State) (sl : Nat) (p : NsSpec) : Bool :=
  let used := (s.nsCreated sl).foldl (fun n x => n + x.2.spec.nsze * x.2.spec.lba) 0
  2 ^ 30 * (s.slice sl).capGrant < used + p.nsze * p.lba || s.mapBudget < s.media.mapUsed + p.mapBytes

/-- NAMESPACE_CREATE (R74, R214): SEL 0h; the namespace exists once its media key's commit is in force. Any SEL but
0h and 1h is an invalid field. -/
def execNamespaceCreate (q : Src) (e : Sqe) (data : List Byte) (s : State) : Host.Outcome State Fault Refusal :=
  .next (
    let sel := e.cdw10.toNat % 16
    if sel = 1 then s
    else s.nsAdmin q e 0x0D fun sl s =>
      if sel ≠ 0 then s.fail q e.cid 0 scInvalidField
      else if 4096 ≤ s.media.ns.length ∨ (s.slice sl).nsLimit ≤ (s.nsCreated sl).length then s.fail q e.cid 1 0x16
      else if adminPrpBad e 4096 then s.fail q e.cid 0 scPrpOffset
      else
        let a := readNsArgs data
        let s := s.moved q e.cid false 4096
        match a.check with
        | some (t, c) => s.fail q e.cid t c
        | none =>
          if s.nsTooBig sl a.spec then s.fail q e.cid 1 0x15
          else
            let x := lowestFree (fun n => (Tbl.get? s.media.ns n).isSome) 0
            let nsid := lowestFree (fun n => (s.nsCreated sl).any fun p => p.2.nsid = n) 1
            let s := s.modMedia fun m => { m with
              ns := Tbl.set m.ns x { nsid := nsid, slice := sl, spec := a.spec, pending := true } }
            s.startCommit { src := some (q, e.cid), act := .nsCreate x })

/-- NAMESPACE_DELETE (R74): SEL 1h; one namespace, or all of the slice for NSID FFFF_FFFFh. -/
def execNamespaceDelete (q : Src) (e : Sqe) (s : State) : Host.Outcome State Fault Refusal :=
  .next (
    if e.cdw10.toNat % 16 ≠ 1 then s
    else s.nsAdmin q e 0x0D fun sl s =>
      if e.nsid = 0xFFFFFFFF then
        s.startCommit { src := some (q, e.cid), act := .nsDelete ((s.nsOfSlice sl).map (·.1)) }
      else match s.findNs sl e.nsid.toNat with
        | none => s.fail q e.cid 0 0x0B
        | some (x, _) => s.startCommit { src := some (q, e.cid), act := .nsDelete [x] })

/-- NAMESPACE_ATTACHMENT (R75): SEL 0h attaches, 1h detaches; the controller list holds the slice's own controller
alone. -/
def execNamespaceAttachment (q : Src) (e : Sqe) (data : List Byte) (s : State) : Host.Outcome State Fault Refusal :=
  .next (s.nsAdmin q e 0x15 fun sl s =>
    let sel := e.cdw10.toNat % 16
    if 1 < sel then s.fail q e.cid 0 scInvalidField
    else match s.findNs sl e.nsid.toNat with
      | none => s.fail q e.cid 0 0x0B
      | some (x, n) =>
        if adminPrpBad e 4096 then s.fail q e.cid 0 scPrpOffset
        else
          let k := min (leNat (data.take 2)) 2047
          let ids := (List.range k).map fun i => leNat ((data.drop (2 + 2 * i)).take 2)
          let s := s.moved q e.cid false 4096
          if ids.isEmpty || ids.any fun i => i ≠ sliceCtrl sl then s.fail q e.cid 1 0x1C
          else if sel = 0 ∧ n.attached then s.fail q e.cid 1 0x18
          else if sel = 1 ∧ ¬ n.attached then s.fail q e.cid 1 0x1A
          else (s.modNs x fun y => { y with attached := sel = 0 }).succeed q e.cid)

/-- A format without a new media key (SES 000b): what the blocks then hold the spec does not state, so a free bit
decides whether a namespace keeps its data or deallocates it (log entry 30). -/
def State.formatPlain (s : State) (x fmt dps : Nat) : State :=
  let w := s.freeWord
  let s := if w.getLsbD 0 then s else s.freeAllIus x
  s.drawn.modNs x fun y => { y with
    spec := { y.spec with
      nsze := y.spec.nsze * y.spec.lba / (if fmt = 0 then 512 else 4096), fmt := fmt, dps := dps }
    units := Tbl.mapV y.units fun _ o => { o with
      tags := if fmt = 2 then List.replicate y.spec.iuUnits (w.extractLsb' 16 16) else [] }
    readOnly := false }

/-- FORMAT_NVM (R76, R73): CDW10 LBAF [3:0] and [13:12], MSET [4], PI [7:5], PIL [8], SES [11:9]. -/
def execFormatNvm (q : Src) (e : Sqe) (s : State) : Host.Outcome State Fault Refusal :=
  .next (s.nsAdmin q e 0x80 fun sl s =>
    let w := e.cdw10.toNat
    let fmt := w % 16 + 16 * (w / 4096 % 4)
    let pi := w / 32 % 8
    let ses := w / 512 % 8
    let xs := if e.nsid = 0xFFFFFFFF then (s.nsOfSlice sl).map (·.1)
      else ((s.findNs sl e.nsid.toNat).map (·.1)).toList
    if 2 < fmt ∨ w / 16 % 2 = 1 ∨ 1 < pi ∨ w / 256 % 2 = 1 ∨ 2 < ses ∨ (pi = 1 ∧ fmt ≠ 2) then s.fail q e.cid 1 0x0A
    else if e.nsid ≠ 0xFFFFFFFF ∧ xs = [] then s.fail q e.cid 0 0x0B
    else if ses = 0 then ((xs.foldl (fun s x => s.formatPlain x fmt pi) s).checkReadOnly).succeed q e.cid
    else s.startCommit { src := some (q, e.cid), act := .format xs fmt pi })

/-! ## Sanitize (R77, R78) -/

/-- The scope of a sanitize by its source: a slice, or the device. -/
def State.setSan (s : State) (scope : Option Nat) (x : Sanitize) : State :=
  { s with dev := { s.dev with san := Tbl.set s.dev.san (scope.getD 1024) x } }

/-- A Sanitize command of one SANACT. -/
def State.sanitizeCmd (s : State) (q : Src) (e : Sqe) (take : Nat → Bool) (body : Option Nat → State → State) : State :=
  if !take (e.cdw10.toNat % 8) then s
  else s.adminCmd q e 0x84 (fun k => k ≠ .port) fun s => body q.slice? s

/-- Pages of a slice's local memory return to blank (R396). -/
def State.blankLocal (s : State) (sl : Nat) : State :=
  { s with dram := { s.dram with locals := Tbl.del s.dram.locals sl, clear := Tbl.del s.dram.clear sl } }

/-- A slice exists. -/
def State.anySlice (s : State) : Bool := s.host.slices.any fun p => p.2.st ≠ .absent

/-- A sanitize starts: refused while one runs in the scope, and on the manager controller while a slice exists (R78);
its media keys are replaced by a commit. -/
def State.startSanitize (s : State) (q : Src) (e : Sqe) (scope : Option Nat) : State :=
  if scope.isNone && s.anySlice then s.fail q e.cid 0 scSequence
  else if (Tbl.getD s.dev.san (scope.getD 1024) {}).running then s.fail q e.cid 0 0x1D
  else
    let s := s.setSan scope { act := e.cdw10.toNat % 8, running := true, cdw10 := e.cdw10 }
    let s := match scope with
      | some sl => s.blankLocal sl
      | none => s
    s.startCommit { src := some (q, e.cid), act := .sanitize scope }

/-- SANITIZE_EXIT_FAILURE_MODE (R77). -/
def execSanitizeExitFailureMode (q : Src) (e : Sqe) (s : State) : Host.Outcome State Fault Refusal :=
  .next (s.sanitizeCmd q e (· = 1) fun scope s =>
    let x := Tbl.getD s.dev.san (scope.getD 1024) {}
    if x.running then s.fail q e.cid 0 0x1D
    else (s.setSan scope { x with failed := false }).succeed q e.cid)

/-- SANITIZE_BLOCK_ERASE (R77, R78): also the row of the SANACT values that are refused. -/
def execSanitizeBlockErase (q : Src) (e : Sqe) (s : State) : Host.Outcome State Fault Refusal :=
  .next (s.sanitizeCmd q e (fun a => a ≠ 1 && a ≠ 4) fun scope s =>
    if e.cdw10.toNat % 8 ≠ 2 then s.fail q e.cid 0 scInvalidField else s.startSanitize q e scope)

/-- SANITIZE_CRYPTO_ERASE (R77, R78). -/
def execSanitizeCryptoErase (q : Src) (e : Sqe) (s : State) : Host.Outcome State Fault Refusal :=
  .next (s.sanitizeCmd q e (· = 4) fun scope s => s.startSanitize q e scope)

/-- The media keys of a sanitize are replaced. -/
def State.sanitizeKeyed (s : State) (scope : Option Nat) : Bool :=
  !(s.hm.commit ++ s.hm.joining).any fun w => w.act = .sanitize scope

/-- The journal pages of a set move into the staging band (log entry 152). -/
def State.moveJournal (s : State) (set : Nat) : State :=
  (s.media.jpages.filter fun j => j.set = set).foldl (fun s j =>
    match (List.range (max 1 s.media.dpos)).findSome? fun k => s.stagingSet k false with
    | none => s
    | some (d, t) =>
      let a := (t.media.set d).cursor
      if !t.media.holds (t.media.set d) false ((t.media.set d).placeRun false 1).1 8 then t.cutSet d
      else
        let (g, t) := t.copyRun set j.off 1 [] d
        ((t.padPage d).landPages d a).modMedia fun m => { m with
          jpages := m.jpages.map fun x => if x = j then { x with set := d, off := g / 8 } else x }) s

/-- What the map and its journal still hold of a set that a block erase empties is forgotten. -/
def State.forgetSet (s : State) (set : Nat) : State :=
  let here (o : Iu) : Bool := match o.loc with
    | .flash k _ => k = set
    | .buffer _ => false
  s.modMedia fun m => { m with
    ns := Tbl.mapV m.ns fun _ y => if y.deleted then { y with units := y.units.filter fun u => !here u.2 } else y
    freeing := m.freeing.map fun f => { f with units := f.units.filter fun u => u.2.1 ≠ set }
    jpages := m.jpages.filter fun j => j.set ≠ set
    segs := Tbl.mapV m.segs fun _ g => { g with at_ := g.at_.filter fun p => p.1 ≠ set }
    moves := m.moves.filter fun v => v.source ≠ set }

/-- A block erase works on a set: it takes no more data, the valid units of others move, and once nothing is on its way to
or from it, its erase is issued (R77). -/
def State.clearSet (s : State) (scope : Option Nat) (set : Nat) : State :=
  if (s.media.set set).st = .erasing then s
  else
    let s := if (s.media.set set).st = .open_ then s.cutSet set else s
    let s := if scope.isSome then s.moveJournal set else s
    let s := if s.media.moves.any (fun v => v.source = set) || (s.media.extsIn set).isEmpty then s
      else s.startMove { purpose := .gc, source := set }
    let s := (s.runMove { purpose := .gc, source := set } 65536).1
    if (s.media.extsIn set).isEmpty && !s.media.setProgs set && !s.media.reads.any (fun p => p.2.set = set)
        && !s.media.transit.any (fun p => p.2.source = set)
        && (scope.isNone || s.media.jpages.all fun j => j.set ≠ set) then
      (s.forgetSet set).startErase set
    else s

/-- The block erases that run go on (R77, R175), once their media keys are replaced. -/
def State.sanitizeWork (s : State) : State :=
  if s.dev.pwr.plpWarn ∨ ¬ s.media.formed then s
  else s.dev.san.foldl (fun s p =>
    let scope := if p.1 = 1024 then none else some p.1
    if p.2.running && p.2.act = 2 && s.sanitizeKeyed scope then
      (s.setsToErase scope).foldl (fun s n => s.clearSet scope n) s
    else s) s

/-- SANITIZE_COMPLETE (R77, R78, R86): after the commit of its keys, and for a block erase that has not failed after the
last erase; the Sanitize Operation Completed notice is reported to the controller of its scope. -/
def execSanitizeComplete (scope : Option Nat) (failed : Bool) (s : State) : Host.Outcome State Fault Refusal :=
  .next (
    let x := Tbl.getD s.dev.san (scope.getD 1024) {}
    if !x.running || !s.sanitizeKeyed scope then s
    else if x.act = 2 ∧ ¬ failed ∧ s.setsToErase scope ≠ [] then s.sanitizeWork
    else
      let s := s.setSan scope { x with running := false, failed := failed, done := !failed }
      s.raiseEvent ((scope.map sliceCtrl).getD s.dev.mgrPort) ⟨6, 1, 0x81⟩)

end Sys2Proof.Machine
end

