-- ==== Sys2Proof/Machine/Firmware.lean ====
section
/-! DEFINITION. Firmware download, commit and activation, and Device Self-test (R56, R84, R85, R439, R485). -/

namespace Sys2Proof.Machine

/-! ## Firmware images (R84, R439) -/

/-- Firmware slots, 1 to 4. -/
def Firmware.slot (f : Firmware) (n : Nat) : FwSlot := Tbl.getD f.slots n {}

/-- Both images of a slot's pair are valid under the fused counter (R439). -/
def FwSlot.pair (x : FwSlot) (fwSvn : Nat) : Bool :=
  (x.stage1.any fun i => fwSvn ≤ i.svn) && x.stage2.any fun i => fwSvn ≤ i.svn

/-- Change the firmware part of the state. -/
def State.modFw (s : State) (f : Firmware → Firmware) : State := { s with dev := { s.dev with fw := f s.dev.fw } }

/-- The bytes downloaded, from offset 0, when they leave no gap before `n`. -/
def Firmware.image (f : Firmware) (n : Nat) : Option (List Byte) :=
  let m := f.parts.foldl (fun (m : Mem) p => Mem.write m p.1 p.2) []
  let covered (a : Nat) : Bool := f.parts.any fun p => p.1 ≤ a && a < p.1 + p.2.length
  -- pieces are whole 4 KiB blocks, so a gap shows at a block's first byte
  if (List.range ((n + 4095) / 4096)).all fun k => covered (4096 * k) then some (Mem.read m 0 n) else none

/-- BODYLEN of the image in progress. -/
def Firmware.bodyLen (f : Firmware) : Nat := ((f.image 128).map fun h => leNat ((h.drop 16).take 4)).getD 0

/-- The image in progress, when it is whole (R439). -/
def Firmware.whole (f : Firmware) : Option (List Byte) :=
  let n := 128 + f.bodyLen + 2820
  if (f.image 128).isNone ∨ 32 * 2 ^ 20 < n then none else f.image n

/-- Check an image (R84, R439): the status it is refused with, if any. -/
def checkImage (d : List Byte) (fwSvn : Nat) : Option Nat :=
  let hdr := d.take 128
  let body := (d.drop 128).take (d.length - 128 - 2820)
  let b (i : Nat) : Nat := (d.getD i 0).toNat
  let zeros (a n : Nat) : Bool := ((d.drop a).take n).all (· = 0)
  if d.take 4 ≠ [0x53, 0x58, 0x46, 0x57] ∨ b 4 ≠ 1 ∨ 3 < b 5 ∨ 64 < b 6 ∨ ¬ zeros 7 1 ∨ ¬ zeros 20 44
      ∨ (d.drop 64).take 64 ≠ Config.shake256 body 64
      ∨ ¬ Config.xmssVerify 0 hdr (d.drop (d.length - 2820)) then some 0x07
  else if b 6 < fwSvn then some 0x13
  else none

/-- An image's record, and the stages it holds. -/
def readImage (d : List Byte) : FwImage × Bool × Bool :=
  (⟨(d.getD 6 0).toNat, (d.drop 8).take 8, d.take 128⟩, (d.getD 5 0).getLsbD 0, (d.getD 5 0).getLsbD 1)

/-- A unit of an image copy in the system blocks of a channel, under the image key and its own counter (R210, R211). -/
def State.imageUnit (s : State) (record chan : Nat) (bytes : List Byte) : State :=
  let (seq, s) := s.takeSeq 4097
  let u : Stored := { kind := 0xB, nsx := 0, ulba := record, seq := seq, app := 0, key := Config.imageKey
                      body := .bytes (Mem.write [] 0 bytes) }
  s.modMedia fun m => { m with sys := Tbl.set m.sys record (Tbl.getD m.sys record [] ++ [⟨chan, u⟩]) }

/-- The three copies of an image are written, in the place of those of the record before (R439). -/
def State.imageCopies (s : State) (record : Nat) (d : List Byte) : State :=
  let s := s.modMedia fun m => { m with sys := Tbl.del m.sys record }
  [0, 1, 2].foldl (fun s c => (List.range ((d.length + 4095) / 4096)).foldl (fun s k =>
    s.imageUnit record c ((d.drop (4096 * k)).take 4096)) s) s

/-- Store an image in a slot: the stages it holds, and their copies under record numbers of the slot and stage. -/
def State.storeImage (s : State) (n : Nat) (d : List Byte) : State :=
  let (i, one, two) := readImage d
  let s := if one then s.imageCopies (16 + 2 * n) d else s
  let s := if two then s.imageCopies (17 + 2 * n) d else s
  s.modFw fun f =>
    let x := f.slot n
    let y : FwSlot := ⟨if one then some i else x.stage1, if two then some i else x.stage2⟩
    { f with slots := Tbl.set f.slots n y }

/-- FIRMWARE_IMAGE_DOWNLOAD (R84): NUMD in CDW10, the offset in dwords in CDW11; pieces of whole 4 KiB. -/
def execFirmwareImageDownload (q : Src) (e : Sqe) (data : List Byte) (s : State) :
    Host.Outcome State Fault Refusal :=
  .next (s.adminCmd q e 0x11 onManager fun s =>
    let n := 4 * (e.cdw10.toNat + 1)
    let off := 4 * e.cdw11.toNat
    if n % 4096 ≠ 0 ∨ off % 4096 ≠ 0 ∨ 32 * 2 ^ 20 < off + n then s.fail q e.cid 0 scInvalidField
    else if s.dev.fw.parts.any fun p => off < p.1 + p.2.length && p.1 < off + n then s.fail q e.cid 1 0x14
    else if adminPrpBad e n then s.fail q e.cid 0 scPrpOffset
    else
      let bytes := (data ++ s.freeBytes (n - data.length)).take n
      let s := (s.drawnN (n - data.length)).modFw fun f => { f with parts := f.parts ++ [(off, bytes)] }
      (s.moved q e.cid false n).succeed q e.cid)

/-- The slot is activated at the next reset (R84, R485). -/
def State.activateNext (s : State) (n : Nat) : State :=
  s.modFw fun f => { f with next := some n, act := n, before := f.running }

/-- An activation without reset begins (R85): the notice goes to every controller that has enabled it; the queues
are held until FIRMWARE_ACTIVATION_RESUME. -/
def State.startActivation (s : State) (q : Src) (cid : W16) (n : Nat) : State :=
  let s := s.ctrlIds.foldl (fun (s : State) i =>
    if (s.ctrl i).feat.aec.getLsbD 9 then s.raiseEvent i ⟨2, 1, 3⟩ else s) s
  s.modFw fun f => { f with
    holding := true, into := n, act := n, before := f.running, next := none, waiting := some (q, cid) }

/-- FIRMWARE_COMMIT (R84, R85, R439): FS in CDW10 [2:0], CA in [5:3]. Whether an activation now would exceed 2 s the
spec does not state: a free bit (log entry 31). -/
def execFirmwareCommit (q : Src) (e : Sqe) (s : State) : Host.Outcome State Fault Refusal :=
  .next (s.adminCmd q e 0x10 onManager fun s =>
    let ca := e.cdw10.toNat / 8 % 8
    let fs := e.cdw10.toNat % 8
    let n := if fs = 0 then s.dev.fw.running else fs
    if s.dev.fw.holding then s.fail q e.cid 0 scSequence
    else if 3 < ca then s.fail q e.cid 0 scInvalidField
    else if 4 < fs ∨ (ca = 2 ∧ fs = 0) then s.fail q e.cid 1 0x06
    else if ca = 2 then
      let x := s.dev.fw.slot n
      if x.pair s.hm.fwSvn then (s.activateNext n).succeed q e.cid
      else s.fail q e.cid 1 (if x.pair 0 then 0x13 else 0x07)
    else
      let img := s.dev.fw.whole
      let s := s.modFw fun f => { f with parts := [] }
      match img with
      | none => s.fail q e.cid 1 0x07
      | some d => match checkImage d s.hm.fwSvn with
        | some c => s.fail q e.cid 1 c
        | none =>
          let s := s.storeImage n d
          if ca = 0 then s.succeed q e.cid
          else if ca = 1 then (s.activateNext n).succeed q e.cid
          else if (readImage d).2.1 then (s.activateNext n).fail q e.cid 1 0x0B
          else if s.freeWord.getLsbD 0 then s.drawn.fail q e.cid 1 0x12
          else s.drawn.startActivation q e.cid n)

/-- The running stage-2 image is measured (R430). -/
def State.measureStage2 (s : State) (n : Nat) : State :=
  match (s.dev.fw.slot n).stage2 with
  | none => s
  | some i =>
    let s := s.eventMr 2 0x12 i.header
    { s with
      hm := { s.hm with imgSvn := BitVec.ofNat 8 i.svn }
      dev := { s.dev with fw := { s.dev.fw with rev := i.rev } } }

/-- FIRMWARE_ACTIVATION_RESUME (R85, R430): the slot's stage-2 image runs; the commit completes and the completions
held are posted. -/
def execFirmwareActivationResume (s : State) : Host.Outcome State Fault Refusal :=
  .next (if !s.dev.fw.holding then s
    else
      let f := s.dev.fw
      let s := s.modFw fun f => { f with holding := false, running := f.into, waiting := none }
      let s := s.measureStage2 f.into
      let s := match f.waiting with
        | some (q, cid) => s.succeed q cid
        | none => s
      s.ctrlIds.foldl (fun s i => s.drainCqes i) s)

/-! ## Device Self-test (R56) -/

/-- The test in progress ends with a result. -/
def State.endTest (s : State) (result : Nat) : State :=
  match s.dev.test with
  | none => s
  | some (stc, _) =>
    let r : TestResult := ⟨stc, result, s.dev.smart.piers⟩
    { s with dev := { s.dev with test := none, results := (r :: s.dev.results).take 20 } }

/-- DEVICE_SELF_TEST (R56): STC in CDW10 [3:0]; every value but 1h, 2h and Fh is refused. -/
def execDeviceSelfTest (q : Src) (e : Sqe) (s : State) : Host.Outcome State Fault Refusal :=
  .next (
    let stc := e.cdw10.toNat % 16
    if stc = 15 then s
    else s.adminCmd q e 0x14 onManager fun s =>
      if stc ≠ 1 ∧ stc ≠ 2 then s.fail q e.cid 0 scInvalidField
      else if s.dev.test.isSome then s.fail q e.cid 1 0x1D
      else ({ s with dev := { s.dev with test := some (stc, q) } }).succeed q e.cid)

/-- DEVICE_SELF_TEST_ABORT (R56): STC Fh. -/
def execDeviceSelfTestAbort (q : Src) (e : Sqe) (s : State) : Host.Outcome State Fault Refusal :=
  .next (if e.cdw10.toNat % 16 ≠ 15 then s
    else s.adminCmd q e 0x14 onManager fun s => (s.endTest 1).succeed q e.cid)

/-- DEVICE_SELF_TEST_COMPLETE (R56). -/
def execDeviceSelfTestComplete (passed : Bool) (s : State) : Host.Outcome State Fault Refusal :=
  .next (s.endTest (if passed then 0 else 6))

end Sys2Proof.Machine
end

