-- ==== Sys2Proof/Machine/Iaber.lean ====
section
/-! DEFINITION. How an Iaber long instruction executes: its word, its legality, the order of its
exceptions and its completion (R283 to R290, R301 to R304). -/

namespace Sys2Proof.Machine

/-- A row of the group tables: the opcode with size field 00b, the size fields it is defined with, and
the use of each specifier (R301, R302). -/
structure Form where
  opc   : Nat
  sizes : List Nat
  d     : Use := .none
  s1    : Use := .none
  s2    : Use := .none
  /-- Supervisor-only (R318). -/
  priv  : Bool := false
  deriving DecidableEq, Repr

/-- Opcode of a group and operation (R284). -/
def opcOf (group op : Nat) : Nat := group * 256 + op * 4

end Sys2Proof.Machine

namespace Sys2Proof
open Machine

/-- A specifier's 17 bits (R285). -/
def Specifier.bits (p : Specifier) : BitVec 17 := p.mode ++ p.r ++ p.f

end Sys2Proof

namespace Sys2Proof.Machine

/-- The first word of a long instruction (R284). -/
def longWord (opc : Nat) (w : LongWord) : W64 :=
  (0#1 ++ (BitVec.ofNat 11 opc ||| w.size.zeroExtend 11) ++ w.d.bits ++ w.s1.bits ++ w.s2.bits)
    ++ BitVec.ofBool w.bit0

end Sys2Proof.Machine

namespace Sys2Proof
open Machine

/-- Operand bytes of the size field. -/
def LongWord.z (w : LongWord) : Nat := 2 ^ w.size.toNat

/-- Extension words of a long instruction (R288). -/
def LongWord.exts (w : LongWord) : Nat :=
  (if w.d.hasExt then 1 else 0) + (if w.s1.hasExt then 1 else 0) + (if w.s2.hasExt then 1 else 0)

/-- Length in bytes. -/
def LongWord.len (w : LongWord) : Nat := 8 + 8 * w.exts

end Sys2Proof

namespace Sys2Proof.Machine

/-- The word is legal for its row (R283, R285, R286, R301, R302). -/
def Form.legal (f : Form) (w : LongWord) : Bool :=
  !w.bit0 && f.sizes.contains w.size.toNat && w.d.legal f.d && w.s1.legal f.s1 && w.s2.legal f.s2

/-- The first fault on the fetch of the extension words (R304 step 4). -/
def extFault (s : State) (c : Nat) (pc : W64) : Nat → Option Exc
  | 0 => none
  | k + 1 => match extFault s c pc k with
    | some e => some e
    | none => fetchFault s c (pc + BitVec.ofNat 64 (8 * (k + 1)))

/-- The checks of R304 before the operands are read: steps 1 to 3 and the extension words. `extra` is
what a row requires beyond its table entry. -/
def preCheck (s : State) (c : Nat) (w : LongWord) (f : Form) (extra : Bool) : Option (Exc × W64) :=
  let pc := (s.core c).ctx.pc
  let word := longWord f.opc w
  match fetchFault s c pc with
  | some e => some (e, 0)
  | none =>
    if !(f.legal w && extra) then some ({ num := excIllegal }, word)
    else if f.priv && !(s.core c).sup then some ({ num := excPrivilege }, word)
    else (extFault s c pc w.exts).map fun e => (e, word)

/-- What a long instruction's body leaves: the next PC of a control transfer, nothing, or a wait at the
same PC without completion. -/
inductive Next where
  | seq
  | go (a : W64)
  | stay
  deriving DecidableEq, Repr

/-- Execute a long instruction: a core that does not execute does nothing; the first exception by R304
is taken; else the body's changes stand and the instruction completes. -/
def State.long (s : State) (c : Nat) (w : LongWord) (f : Form) (extra : Bool) (body : CM Next) : State :=
  if !s.coreRuns c then s
  else match preCheck s c w f extra with
    | some (e, word) => s.takeSync c e 8 word
    | none => match body s with
      | .error e => s.takeSync c e w.len (longWord f.opc w)
      | .ok (.seq, t) => t.finish c (s.core c).ctx.regs.rp w.len none
      | .ok (.go a, t) => t.finish c (s.core c).ctx.regs.rp w.len (some a)
      | .ok (.stay, t) => t

/-! ## Common bodies -/

/-- All four sizes, and the shorter lists of the tables. -/
def szAll : List Nat := [0, 1, 2, 3]
def szHWD : List Nat := [1, 2, 3]
def szWD : List Nat := [2, 3]
def szD : List Nat := [3]
def szH : List Nat := [1]
def szB : List Nat := [0]

/-- Write the condition flags an instruction sets. -/
def putFlags (c : Nat) (f : FlagSet) : CM Unit := fun s => .ok ((), s.modCtx c fun x => x.setFlags f)

/-- Locate, check and write the destination (R289 step 5, R304 step 5); `mid` raises the exceptions of
the operation between the check and the write. -/
def putDest (c : Nat) (align : Bool) (p : Specifier) (z : Nat) (mid : CM (Nat × FlagSet)) : CM Next := do
  let l ← locate c false p z
  checkDest c align l z
  let (v, fl) ← mid
  writeLoc c align l z v
  putFlags c fl
  pure .seq

/-- d = f(s1, s2), flags g. -/
def alu2 (c : Nat) (w : LongWord) (u2 : Use) (f : Ctx → Nat → Nat → Nat × FlagSet) : CM Next := do
  let a ← readSrc c false true w.s1 .r w.z
  let b ← readSrc c false true w.s2 u2 w.z
  putDest c true w.d w.z (fun s => .ok (f (s.core c).ctx a b, s))

/-- d = f(s1), flags g. -/
def alu1 (c : Nat) (w : LongWord) (u1 : Use) (f : Nat → Nat × FlagSet) : CM Next := do
  let a ← readSrc c false true w.s1 u1 w.z
  putDest c true w.d w.z (fun s => .ok (f a, s))

/-- A division: Divide by Zero after every operand check (R304 step 6, R307). -/
def divide (c : Nat) (w : LongWord) (f : Nat → Nat → Nat × FlagSet) : CM Next := do
  let a ← readSrc c false true w.s1 .r w.z
  let b ← readSrc c false true w.s2 .r w.z
  putDest c true w.d w.z (if b = 0 then raise { num := excDivide } else pure (f a b))

end Sys2Proof.Machine
end

