-- ==== Sys2Proof/Machine/IaberMove.lean ====
section
/-! DEFINITION. Group 0 of the Iaber instructions: move and convert (R305, R306). -/

namespace Sys2Proof.Machine

/-- MOV (R305): d = s1. -/
def execIMov (c : Nat) (w : LongWord) (s : State) : Host.Outcome State Fault Refusal :=
  .next (s.long c w { opc := opcOf 0 0x00, sizes := szAll, d := .w, s1 := .r } true
    (alu1 c w .r fun a => (a, {})))

/-- CLR (R305): d = 0. -/
def execIClr (c : Nat) (w : LongWord) (s : State) : Host.Outcome State Fault Refusal :=
  .next (s.long c w { opc := opcOf 0 0x01, sizes := szAll, d := .w } true
    (putDest c true w.d w.z (pure (0, {}))))

/-- The D address of an address-only operand (R302 code a). -/
def addrOf (c : Nat) (p : Specifier) (z : Nat) : CM W64 := do
  let l ← locate c false p z
  match l with
  | .mem a => pure a
  | _ => raise { num := excIllegal }

/-- LEA (R305, R306): d = the D address of S1. -/
def execILea (c : Nat) (w : LongWord) (s : State) : Host.Outcome State Fault Refusal :=
  .next (s.long c w { opc := opcOf 0 0x02, sizes := szD, d := .w, s1 := .a } true
    (do
      let a ← addrOf c w.s1 8
      putDest c true w.d w.z (pure (a.toNat, {}))))

/-- SEL (R305, R306): both sources are read, C chooses. -/
def execISel (c : Nat) (w : LongWord) (s : State) : Host.Outcome State Fault Refusal :=
  .next (s.long c w { opc := opcOf 0 0x03, sizes := szAll, d := .w, s1 := .r, s2 := .r } true
    (alu2 c w .r fun x a b => (if x.c then a else b, {})))

/-- BSWAP (R305). -/
def execIBswap (c : Nat) (w : LongWord) (s : State) : Host.Outcome State Fault Refusal :=
  .next (s.long c w { opc := opcOf 0 0x04, sizes := szHWD, d := .w, s1 := .r } true
    (alu1 c w .r fun a => (bswapVal w.z a, {})))

/-- SEXB (R305): sign-extends 8 bits. -/
def execISexb (c : Nat) (w : LongWord) (s : State) : Host.Outcome State Fault Refusal :=
  .next (s.long c w { opc := opcOf 0 0x08, sizes := szHWD, d := .w, s1 := .rB } true
    (alu1 c w .rB fun a => (sextVal 8 (8 * w.z) a, {})))

/-- SEXH (R305): sign-extends 16 bits. -/
def execISexh (c : Nat) (w : LongWord) (s : State) : Host.Outcome State Fault Refusal :=
  .next (s.long c w { opc := opcOf 0 0x09, sizes := szWD, d := .w, s1 := .rH } true
    (alu1 c w .rH fun a => (sextVal 16 (8 * w.z) a, {})))

/-- SEXW (R305): sign-extends 32 bits. -/
def execISexw (c : Nat) (w : LongWord) (s : State) : Host.Outcome State Fault Refusal :=
  .next (s.long c w { opc := opcOf 0 0x0A, sizes := szD, d := .w, s1 := .rW } true
    (alu1 c w .rW fun a => (sextVal 32 (8 * w.z) a, {})))

/-- ZEXB (R305): zero-extends 8 bits. -/
def execIZexb (c : Nat) (w : LongWord) (s : State) : Host.Outcome State Fault Refusal :=
  .next (s.long c w { opc := opcOf 0 0x0C, sizes := szHWD, d := .w, s1 := .rB } true
    (alu1 c w .rB fun a => (a, {})))

/-- ZEXH (R305): zero-extends 16 bits. -/
def execIZexh (c : Nat) (w : LongWord) (s : State) : Host.Outcome State Fault Refusal :=
  .next (s.long c w { opc := opcOf 0 0x0D, sizes := szWD, d := .w, s1 := .rH } true
    (alu1 c w .rH fun a => (a, {})))

/-- ZEXW (R305): zero-extends 32 bits. -/
def execIZexw (c : Nat) (w : LongWord) (s : State) : Host.Outcome State Fault Refusal :=
  .next (s.long c w { opc := opcOf 0 0x0E, sizes := szD, d := .w, s1 := .rW } true
    (alu1 c w .rW fun a => (a, {})))

end Sys2Proof.Machine
end

