-- ==== Sys2Proof/Machine/IaberArith.lean ====
section
/-! DEFINITION. Group 1 of the Iaber instructions: arithmetic (R307, R308). -/

namespace Sys2Proof.Machine

/-- Operand width in bits. -/
def bitsOf (w : LongWord) : Nat := 8 * w.z

/-- ADD (R307): d = s1 + s2, flags add. -/
def execIAdd (c : Nat) (w : LongWord) (s : State) : Host.Outcome State Fault Refusal :=
  .next (s.long c w { opc := opcOf 1 0x00, sizes := szAll, d := .w, s1 := .r, s2 := .r } true
    (alu2 c w .r fun _ a b => ((a + b) % 2 ^ bitsOf w, addFlags (bitsOf w) a b 0)))

/-- ADC (R307): d = s1 + s2 + C. -/
def execIAdc (c : Nat) (w : LongWord) (s : State) : Host.Outcome State Fault Refusal :=
  .next (s.long c w { opc := opcOf 1 0x01, sizes := szAll, d := .w, s1 := .r, s2 := .r } true
    (alu2 c w .r fun x a b => ((a + b + x.c.toNat) % 2 ^ bitsOf w, addFlags (bitsOf w) a b x.c.toNat)))

/-- SUB (R307): d = s1 − s2, flags sub. -/
def execISub (c : Nat) (w : LongWord) (s : State) : Host.Outcome State Fault Refusal :=
  .next (s.long c w { opc := opcOf 1 0x02, sizes := szAll, d := .w, s1 := .r, s2 := .r } true
    (alu2 c w .r fun _ a b => (subVal (bitsOf w) a b 0, subFlags (bitsOf w) a b 0)))

/-- SBC (R307): d = s1 − s2 − C. -/
def execISbc (c : Nat) (w : LongWord) (s : State) : Host.Outcome State Fault Refusal :=
  .next (s.long c w { opc := opcOf 1 0x03, sizes := szAll, d := .w, s1 := .r, s2 := .r } true
    (alu2 c w .r fun x a b => (subVal (bitsOf w) a b x.c.toNat, subFlags (bitsOf w) a b x.c.toNat)))

/-- NEG (R307): d = 0 − s1, flags sub with s1 = 0. -/
def execINeg (c : Nat) (w : LongWord) (s : State) : Host.Outcome State Fault Refusal :=
  .next (s.long c w { opc := opcOf 1 0x04, sizes := szAll, d := .w, s1 := .r } true
    (alu1 c w .r fun a => (subVal (bitsOf w) 0 a 0, subFlags (bitsOf w) 0 a 0)))

/-- MUL (R308): the low w bits; C and V of the products. -/
def execIMul (c : Nat) (w : LongWord) (s : State) : Host.Outcome State Fault Refusal :=
  .next (s.long c w { opc := opcOf 1 0x08, sizes := szAll, d := .w, s1 := .r, s2 := .r } true
    (alu2 c w .r fun _ a b => (mulVal (bitsOf w) a b, mulFlags (bitsOf w) a b)))

/-- MULHU (R308): the high w bits of the unsigned product. -/
def execIMulhu (c : Nat) (w : LongWord) (s : State) : Host.Outcome State Fault Refusal :=
  .next (s.long c w { opc := opcOf 1 0x09, sizes := szAll, d := .w, s1 := .r, s2 := .r } true
    (alu2 c w .r fun _ a b => (mulhuVal (bitsOf w) a b, zncv (bitsOf w) (mulhuVal (bitsOf w) a b) false false)))

/-- MULHS (R308): the high w bits of the signed product. -/
def execIMulhs (c : Nat) (w : LongWord) (s : State) : Host.Outcome State Fault Refusal :=
  .next (s.long c w { opc := opcOf 1 0x0A, sizes := szAll, d := .w, s1 := .r, s2 := .r } true
    (alu2 c w .r fun _ a b => (mulhsVal (bitsOf w) a b, zncv (bitsOf w) (mulhsVal (bitsOf w) a b) false false)))

/-- DIVU (R307, R308): unsigned quotient; Divide by Zero on a zero divisor. -/
def execIDivu (c : Nat) (w : LongWord) (s : State) : Host.Outcome State Fault Refusal :=
  .next (s.long c w { opc := opcOf 1 0x0C, sizes := szAll, d := .w, s1 := .r, s2 := .r } true
    (divide c w fun a b => (a / b, zncv (bitsOf w) (a / b) false false)))

/-- DIVS (R308): signed quotient toward zero; V on −2^(w−1) by −1. -/
def execIDivs (c : Nat) (w : LongWord) (s : State) : Host.Outcome State Fault Refusal :=
  .next (s.long c w { opc := opcOf 1 0x0D, sizes := szAll, d := .w, s1 := .r, s2 := .r } true
    (divide c w fun a b => (divsVal (bitsOf w) a b,
        zncv (bitsOf w) (divsVal (bitsOf w) a b) false (divOverflow (bitsOf w) a b))))

/-- REMU (R308): unsigned remainder. -/
def execIRemu (c : Nat) (w : LongWord) (s : State) : Host.Outcome State Fault Refusal :=
  .next (s.long c w { opc := opcOf 1 0x0E, sizes := szAll, d := .w, s1 := .r, s2 := .r } true
    (divide c w fun a b => (a % b, zncv (bitsOf w) (a % b) false false)))

/-- REMS (R308): signed remainder, with the sign of s1. -/
def execIRems (c : Nat) (w : LongWord) (s : State) : Host.Outcome State Fault Refusal :=
  .next (s.long c w { opc := opcOf 1 0x0F, sizes := szAll, d := .w, s1 := .r, s2 := .r } true
    (divide c w fun a b => (remsVal (bitsOf w) a b,
        zncv (bitsOf w) (remsVal (bitsOf w) a b) false (divOverflow (bitsOf w) a b))))

/-- MINU (R307). -/
def execIMinu (c : Nat) (w : LongWord) (s : State) : Host.Outcome State Fault Refusal :=
  .next (s.long c w { opc := opcOf 1 0x10, sizes := szAll, d := .w, s1 := .r, s2 := .r } true
    (alu2 c w .r fun _ a b => (min a b, znFlags (bitsOf w) (min a b))))

/-- MAXU (R307). -/
def execIMaxu (c : Nat) (w : LongWord) (s : State) : Host.Outcome State Fault Refusal :=
  .next (s.long c w { opc := opcOf 1 0x11, sizes := szAll, d := .w, s1 := .r, s2 := .r } true
    (alu2 c w .r fun _ a b => (max a b, znFlags (bitsOf w) (max a b))))

/-- The lesser of two numbers read as signed. -/
def minsVal (w a b : Nat) : Nat := if sgn w a ≤ sgn w b then a else b
/-- The greater of two numbers read as signed. -/
def maxsVal (w a b : Nat) : Nat := if sgn w a ≤ sgn w b then b else a

/-- MINS (R307). -/
def execIMins (c : Nat) (w : LongWord) (s : State) : Host.Outcome State Fault Refusal :=
  .next (s.long c w { opc := opcOf 1 0x12, sizes := szAll, d := .w, s1 := .r, s2 := .r } true
    (alu2 c w .r fun _ a b => (minsVal (bitsOf w) a b, znFlags (bitsOf w) (minsVal (bitsOf w) a b))))

/-- MAXS (R307). -/
def execIMaxs (c : Nat) (w : LongWord) (s : State) : Host.Outcome State Fault Refusal :=
  .next (s.long c w { opc := opcOf 1 0x13, sizes := szAll, d := .w, s1 := .r, s2 := .r } true
    (alu2 c w .r fun _ a b => (maxsVal (bitsOf w) a b, znFlags (bitsOf w) (maxsVal (bitsOf w) a b))))

end Sys2Proof.Machine
end

