-- ==== Sys2Proof/Machine/IaberLogic.lean ====
section
/-! DEFINITION. Group 2 of the Iaber instructions: logic and shift (R309, R310). -/

namespace Sys2Proof.Machine

/-- AND (R309): d = s1 and s2; zn, V = 0. -/
def execIAnd (c : Nat) (w : LongWord) (s : State) : Host.Outcome State Fault Refusal :=
  .next (s.long c w { opc := opcOf 2 0x00, sizes := szAll, d := .w, s1 := .r, s2 := .r } true
    (alu2 c w .r fun _ a b => (a &&& b, znv0 (bitsOf w) (a &&& b))))

/-- OR (R309): d = s1 or s2; zn, V = 0. -/
def execIOr (c : Nat) (w : LongWord) (s : State) : Host.Outcome State Fault Refusal :=
  .next (s.long c w { opc := opcOf 2 0x01, sizes := szAll, d := .w, s1 := .r, s2 := .r } true
    (alu2 c w .r fun _ a b => (a ||| b, znv0 (bitsOf w) (a ||| b))))

/-- XOR (R309): d = s1 xor s2; zn, V = 0. -/
def execIXor (c : Nat) (w : LongWord) (s : State) : Host.Outcome State Fault Refusal :=
  .next (s.long c w { opc := opcOf 2 0x02, sizes := szAll, d := .w, s1 := .r, s2 := .r } true
    (alu2 c w .r fun _ a b => (a ^^^ b, znv0 (bitsOf w) (a ^^^ b))))

/-- ANDN (R309): d = s1 and not s2; zn, V = 0. -/
def execIAndn (c : Nat) (w : LongWord) (s : State) : Host.Outcome State Fault Refusal :=
  .next (s.long c w { opc := opcOf 2 0x03, sizes := szAll, d := .w, s1 := .r, s2 := .r } true
    (alu2 c w .r fun _ a b => (andnVal (bitsOf w) a b, znv0 (bitsOf w) (andnVal (bitsOf w) a b))))

/-- NOT (R309). -/
def execINot (c : Nat) (w : LongWord) (s : State) : Host.Outcome State Fault Refusal :=
  .next (s.long c w { opc := opcOf 2 0x04, sizes := szAll, d := .w, s1 := .r } true
    (alu1 c w .r fun a => (notVal (bitsOf w) a, znv0 (bitsOf w) (notVal (bitsOf w) a))))

/-- SHL (R310). -/
def execIShl (c : Nat) (w : LongWord) (s : State) : Host.Outcome State Fault Refusal :=
  .next (s.long c w { opc := opcOf 2 0x08, sizes := szAll, d := .w, s1 := .r, s2 := .rB } true
    (alu2 c w .rB fun _ a b => (shlVal (bitsOf w) a b, shiftFlags (bitsOf w) (shlVal (bitsOf w) a b) b (shlCarry (bitsOf w) a b))))

/-- SHR (R310). -/
def execIShr (c : Nat) (w : LongWord) (s : State) : Host.Outcome State Fault Refusal :=
  .next (s.long c w { opc := opcOf 2 0x09, sizes := szAll, d := .w, s1 := .r, s2 := .rB } true
    (alu2 c w .rB fun _ a b => (shrVal a b, shiftFlags (bitsOf w) (shrVal a b) b (shrCarry (bitsOf w) a b))))

/-- SAR (R310). -/
def execISar (c : Nat) (w : LongWord) (s : State) : Host.Outcome State Fault Refusal :=
  .next (s.long c w { opc := opcOf 2 0x0A, sizes := szAll, d := .w, s1 := .r, s2 := .rB } true
    (alu2 c w .rB fun _ a b => (sarVal (bitsOf w) a b, shiftFlags (bitsOf w) (sarVal (bitsOf w) a b) b (sarCarry (bitsOf w) a b))))

/-- ROL (R310): C is bit 0 of the result. -/
def execIRol (c : Nat) (w : LongWord) (s : State) : Host.Outcome State Fault Refusal :=
  .next (s.long c w { opc := opcOf 2 0x0B, sizes := szAll, d := .w, s1 := .r, s2 := .rB } true
    (alu2 c w .rB fun _ a b => (rolVal (bitsOf w) a b, shiftFlags (bitsOf w) (rolVal (bitsOf w) a b) b (bitOf (rolVal (bitsOf w) a b) 0))))

/-- ROR (R310): C is the top bit of the result. -/
def execIRor (c : Nat) (w : LongWord) (s : State) : Host.Outcome State Fault Refusal :=
  .next (s.long c w { opc := opcOf 2 0x0C, sizes := szAll, d := .w, s1 := .r, s2 := .rB } true
    (alu2 c w .rB fun _ a b => (rorVal (bitsOf w) a b, shiftFlags (bitsOf w) (rorVal (bitsOf w) a b) b (bitOf (rorVal (bitsOf w) a b) (bitsOf w - 1)))))

/-- POPC (R309). -/
def execIPopc (c : Nat) (w : LongWord) (s : State) : Host.Outcome State Fault Refusal :=
  .next (s.long c w { opc := opcOf 2 0x10, sizes := szAll, d := .w, s1 := .r } true
    (alu1 c w .r fun a => (popVal (bitsOf w) a, znFlags (bitsOf w) (popVal (bitsOf w) a))))

/-- CLZ (R309). -/
def execIClz (c : Nat) (w : LongWord) (s : State) : Host.Outcome State Fault Refusal :=
  .next (s.long c w { opc := opcOf 2 0x11, sizes := szAll, d := .w, s1 := .r } true
    (alu1 c w .r fun a => (clzVal (bitsOf w) a, znFlags (bitsOf w) (clzVal (bitsOf w) a))))

/-- CTZ (R309). -/
def execICtz (c : Nat) (w : LongWord) (s : State) : Host.Outcome State Fault Refusal :=
  .next (s.long c w { opc := opcOf 2 0x12, sizes := szAll, d := .w, s1 := .r } true
    (alu1 c w .r fun a => (ctzVal (bitsOf w) a, znFlags (bitsOf w) (ctzVal (bitsOf w) a))))

end Sys2Proof.Machine
end

