-- ==== Sys2Proof/Machine/IaberBranch.lean ====
section
/-! DEFINITION. Group 3 of the Iaber instructions: compare and branch (R311, R312). -/

namespace Sys2Proof.Machine

/-- CMP (R311): flags of s1 − s2. -/
def execICmp (c : Nat) (w : LongWord) (s : State) : Host.Outcome State Fault Refusal :=
  .next (s.long c w { opc := opcOf 3 0x00, sizes := szAll, s1 := .r, s2 := .r } true
    (do
      let a ← readSrc c false true w.s1 .r w.z
      let b ← readSrc c false true w.s2 .r w.z
      putFlags c (subFlags (bitsOf w) a b 0)
      pure .seq))

/-- TST (R311): zn of s1, C = 0, V = 0. -/
def execITst (c : Nat) (w : LongWord) (s : State) : Host.Outcome State Fault Refusal :=
  .next (s.long c w { opc := opcOf 3 0x01, sizes := szAll, s1 := .r } true
    (do
      let a ← readSrc c false true w.s1 .r w.z
      putFlags c (zncv (bitsOf w) a false false)
      pure .seq))

/-- BR (R311): pc = target. -/
def execIBr (c : Nat) (w : LongWord) (s : State) : Host.Outcome State Fault Refusal :=
  .next (s.long c w { opc := opcOf 3 0x08, sizes := szD, s1 := .t } true
    (do
      let a ← readTarget c w.s1
      pure (.go a)))

/-- The operation number of a conditional branch (R311). -/
def Cond.op : Cond → Nat
  | .eq => 0x10
  | .ne => 0x11
  | .lo => 0x12
  | .hs => 0x13
  | .mi => 0x14
  | .pl => 0x15
  | .vs => 0x16
  | .vc => 0x17
  | .hi => 0x18
  | .ls => 0x19
  | .ge => 0x1A
  | .lt => 0x1B
  | .gt => 0x1C
  | .le => 0x1D

/-- Bcc (R311, R312): the target is read whether or not the condition holds. -/
def execIBcc (c : Nat) (cc : Cond) (w : LongWord) (s : State) : Host.Outcome State Fault Refusal :=
  .next (s.long c w { opc := opcOf 3 (Cond.op cc), sizes := szD, s1 := .t } true
    (do
      let a ← readTarget c w.s1
      fun s => .ok (if cc.holds (s.core c).ctx then .go a else .seq, s)))

/-- DJNZ (R300, R312): the counter is read first, written before the transfer; no flag. -/
def execIDjnz (c : Nat) (w : LongWord) (s : State) : Host.Outcome State Fault Refusal :=
  .next (s.long c w { opc := opcOf 3 0x20, sizes := szAll, d := .m, s1 := .t } true
    (do
      let l ← locate c false w.d w.z
      let v ← readLoc c false true l w.z
      let a ← readTarget c w.s1
      let r := subVal (bitsOf w) v 1 0
      writeLoc c true l w.z r
      pure (if r = 0 then .seq else .go a)))

/-- CALL (R311, R312): LK = the next instruction, once the target has been read. -/
def execICall (c : Nat) (w : LongWord) (s : State) : Host.Outcome State Fault Refusal :=
  .next (s.long c w { opc := opcOf 3 0x21, sizes := szD, s1 := .t } true
    (do
      let a ← readTarget c w.s1
      fun s => .ok (.go a, s.modCtx c fun x =>
        { x with regs := { x.regs with lk := x.pc + BitVec.ofNat 64 w.len } })))

/-- RET (R311, R312): pc = LK. -/
def execIRet (c : Nat) (w : LongWord) (s : State) : Host.Outcome State Fault Refusal :=
  .next (s.long c w { opc := opcOf 3 0x22, sizes := szD } true
    (fun s => .ok (.go (s.core c).ctx.regs.lk, s)))

end Sys2Proof.Machine
end

