-- ==== Sys2Proof/Machine/IaberString.lean ====
section
/-! DEFINITION. Group 4 of the Iaber instructions: string and block (R297 to R299, R313 to R315). -/

namespace Sys2Proof.Machine

/-- How the elements of a string instruction ended. -/
inductive StrOut where
  /-- Count exhausted or stopped on its condition. -/
  | done (s : State) (stopped : Bool)
  /-- Interrupted between two elements. -/
  | more (s : State)
  /-- An element raised an exception; the elements before it stand. -/
  | fault (e : Exc) (s : State)
  deriving DecidableEq, Repr

/-- Process at most `n` elements (R297): `elem` does one whole element and says whether it stops. -/
def strLoop (c : Nat) (elem : CM Bool) : Nat → State → StrOut
  | n, s =>
    if (s.core c).ctx.regs.bc = 0 then .done s false
    else match n with
      | 0 => .more s
      | k + 1 => match elem s with
        | .error e => .fault e s
        | .ok (true, t) => .done t true
        | .ok (false, t) => strLoop c elem k t

/-- Change the program's registers on a core. -/
def State.modRegs (s : State) (c : Nat) (f : Regs → Regs) : State := s.modCtx c fun x => { x with regs := f x.regs }

/-- BS or BD after one element (R297 step 3). -/
def strMove (g : Regs) (z : Nat) (a : W64) : W64 :=
  if g.dir then a - BitVec.ofNat 64 z else a + BitVec.ofNat 64 z

/-- Steps 2 and 3 of R297: BC down, BS and BD moved where used. -/
def strStep (c z : Nat) (src dst : Bool) : CM Unit := fun s =>
  .ok ((), s.modRegs c fun g => { g with
    bc := g.bc - 1
    bs := if src then strMove g z g.bs else g.bs
    bd := if dst then strMove g z g.bd else g.bd })

/-- The block registers of a core. -/
def getRegs (c : Nat) : CM Regs := fun s => .ok ((s.core c).ctx.regs, s)

/-- Set BX.STOP. -/
def setStop (c : Nat) (v : BitVec 2) : CM Unit := fun s => .ok ((), s.modRegs c fun g => { g with stop := v })

/-- A string instruction as a body: at most `limit` elements before an interruption; those done stand
when one raises an exception. A scan that ends without a stop, and processed an element, sets STOP to
00b when `scan` holds (R314). -/
def strBody (c limit : Nat) (scan : Bool) (elem : CM Bool) : CM Next := fun s =>
  let bc := (s.core c).ctx.regs.bc
  match strLoop c elem (min limit bc.toNat) s with
  | .done t stopped =>
    if scan && !stopped && bc ≠ 0 then .ok (.seq, t.modRegs c fun g => { g with stop := 0 })
    else .ok (.seq, t)
  | .more t => .ok (.stay, t)
  | .fault e t => .error { e with stands := some t }

/-- Specifiers of a string instruction: S1 takes no mode 5h or 6h (R315). -/
def strS1 (w : LongWord) : Bool := w.s1.mode ≠ 5 && w.s1.mode ≠ 6

/-- MOVS (R314). -/
def execIMovs (c : Nat) (w : LongWord) (limit : Nat) (s : State) : Host.Outcome State Fault Refusal :=
  .next (s.long c w { opc := opcOf 4 0x00, sizes := szAll } true
    (strBody c limit false (do
      let g ← getRegs c
      let b ← memRead c true false g.bs w.z
      memWrite c true false g.bd b
      strStep c w.z true true
      pure false)))

/-- CMPS (R314): stops on a mismatch. -/
def execICmps (c : Nat) (w : LongWord) (limit : Nat) (s : State) : Host.Outcome State Fault Refusal :=
  .next (s.long c w { opc := opcOf 4 0x01, sizes := szAll } true
    (strBody c limit true (do
      let g ← getRegs c
      let a ← memRead c true false g.bs w.z
      let b ← memRead c true false g.bd w.z
      putFlags c (subFlags (bitsOf w) (leNat a) (leNat b) 0)
      strStep c w.z true true
      if leNat a ≠ leNat b then do
        setStop c 2
        pure true
      else pure false)))

/-- SCANS (R314, R315): stops on a match. -/
def execIScans (c : Nat) (w : LongWord) (limit : Nat) (s : State) : Host.Outcome State Fault Refusal :=
  .next (s.long c w { opc := opcOf 4 0x02, sizes := szAll, s1 := .r } (strS1 w)
    (do
      let v ← readSrc c true true w.s1 .r w.z
      strBody c limit true (do
        let g ← getRegs c
        let a ← memRead c true false g.bs w.z
        putFlags c (subFlags (bitsOf w) (leNat a) v 0)
        strStep c w.z true false
        if leNat a = v then do
          setStop c 1
          pure true
        else pure false)))

/-- SCANSN (R314, R315): stops on a mismatch. -/
def execIScansn (c : Nat) (w : LongWord) (limit : Nat) (s : State) : Host.Outcome State Fault Refusal :=
  .next (s.long c w { opc := opcOf 4 0x03, sizes := szAll, s1 := .r } (strS1 w)
    (do
      let v ← readSrc c true true w.s1 .r w.z
      strBody c limit true (do
        let g ← getRegs c
        let a ← memRead c true false g.bs w.z
        putFlags c (subFlags (bitsOf w) (leNat a) v 0)
        strStep c w.z true false
        if leNat a ≠ v then do
          setStop c 2
          pure true
        else pure false)))

/-- FILLS (R314, R315). -/
def execIFills (c : Nat) (w : LongWord) (limit : Nat) (s : State) : Host.Outcome State Fault Refusal :=
  .next (s.long c w { opc := opcOf 4 0x04, sizes := szAll, s1 := .r } (strS1 w)
    (do
      let v ← readSrc c true true w.s1 .r w.z
      strBody c limit false (do
        let g ← getRegs c
        memWrite c true false g.bd (leBytes w.z v)
        strStep c w.z false true
        pure false)))

/-- XLTS (R314, R315): each byte through the table at S1. -/
def execIXlts (c : Nat) (w : LongWord) (limit : Nat) (s : State) : Host.Outcome State Fault Refusal :=
  .next (s.long c w { opc := opcOf 4 0x05, sizes := szB, s1 := .rD } (strS1 w)
    (do
      let v ← readSrc c true true w.s1 .rD w.z
      strBody c limit false (do
        let g ← getRegs c
        let a ← memRead c true false g.bs 1
        let b ← memRead c true false (BitVec.ofNat 64 (v + leNat a)) 1
        memWrite c true false g.bd b
        strStep c 1 true true
        pure false)))

/-- CRCS (R314): the reflected CRC-32C step over BX.ACC. -/
def execICrcs (c : Nat) (w : LongWord) (limit : Nat) (s : State) : Host.Outcome State Fault Refusal :=
  .next (s.long c w { opc := opcOf 4 0x06, sizes := szB } true
    (strBody c limit false (do
      let g ← getRegs c
      let a ← memRead c true false g.bs 1
      strStep c 1 true false
      fun s => .ok (false, s.modRegs c fun x => { x with
        acc := BitVec.ofNat 32 (crcStep 0x82F63B78 g.acc.toNat (BitVec.ofNat 8 (leNat a))) }))))

/-- Group, operation and the length of the instruction a word begins. -/
def wordGroup (v : W64) : Nat := (v.extractLsb' 60 3).toNat
def wordOp (v : W64) : Nat := (v.extractLsb' 54 6).toNat
def wordLen (v : W64) : Nat :=
  if v.getLsbD 63 then 8
  else
    let ext (lo : Nat) : Nat := let m := (v.extractLsb' lo 4).toNat; if m = 8 ∨ m = 9 ∨ m = 12 then 8 else 0
    8 + ext 48 + ext 31 + ext 14

/-- A short opcode is a control transfer (R293). -/
def shortControl (op : Nat) : Bool := (0x32 ≤ op && op ≤ 0x3D) || (0x58 ≤ op && op ≤ 0x5A)

/-- RPT may not repeat the instruction a word begins (R299): a control transfer or a pair with one in
slot B, a string or block instruction, RPT, MFS or MTS of BC. The word's size field is one the row is
defined with (R301); an undefined opcode is none of these (log entry 130). -/
def rptRefuses (v : W64) : Bool :=
  if v.getLsbD 63 then shortControl (v.extractLsb' 25 7).toNat
  else
    let g := wordGroup v
    let o := wordOp v
    let z := (v.extractLsb' 52 2).toNat
    (g = 3 && (o = 0x20 || (z = 3 && (o = 8 || (0x10 ≤ o && o ≤ 0x1D) || o = 0x21 || o = 0x22))))
      || (g = 4 && (o ≤ 4 || (z = 0 && (o = 5 || o = 6 || o = 8)))) || (g = 5 && z = 1 && 8 ≤ o && o ≤ 0xA)
      || (g = 6 && z = 3 && (o = 8 || o = 9) && v.extractLsb' 1 10 = 1)

/-- RPT (R299): `next` is the word that follows it. With BC at 0 the repeated instruction is passed over;
else ST.RP is set and the pc goes to it. -/
def execIRpt (c : Nat) (w : LongWord) (next : W64) (s : State) : Host.Outcome State Fault Refusal :=
  .next (s.long c w { opc := opcOf 4 8, sizes := szB } (!rptRefuses next)
    (fun s =>
      let k := s.core c
      let at8 := k.ctx.pc + 8
      let s := if k.sup then s else s.modCore c fun x => { x with wdCount := 0 }
      match fetchFault s c at8 with
      | some e => .error e
      | none =>
        if k.ctx.regs.bc = 0 then .ok (.stay, s.modCtx c fun x => { x with pc := at8 + BitVec.ofNat 64 (wordLen next) })
        else .ok (.stay, s.modCtx c fun x => { x with pc := at8, regs := { x.regs with rp := true } })))

end Sys2Proof.Machine
end

