-- ==== Sys2Proof/Machine/IaberBit.lean ====
section
/-! DEFINITION. Group 5 of the Iaber instructions: bit (R316, R317). -/

namespace Sys2Proof.Machine

/-- A bit operand: its address is read as rH (R278, R316). -/
def bitSrc (c : Nat) (p : Specifier) : CM Nat := readSrc c false true p .rH 2

/-- A bit variable of a core. -/
def getBit (c b : Nat) : CM Bool := fun s => .ok ((s.core c).ctx.bit b, s)

/-- BSET (R316, R317). -/
def execIBset (c : Nat) (w : LongWord) (s : State) : Host.Outcome State Fault Refusal :=
  .next (s.long c w { opc := opcOf 5 0x00, sizes := szH, s1 := .rH } true
    (do
      let b ← bitSrc c w.s1
      writeBit c b true
      pure .seq))

/-- BCLR (R316, R317). -/
def execIBclr (c : Nat) (w : LongWord) (s : State) : Host.Outcome State Fault Refusal :=
  .next (s.long c w { opc := opcOf 5 0x01, sizes := szH, s1 := .rH } true
    (do
      let b ← bitSrc c w.s1
      writeBit c b false
      pure .seq))

/-- BNOT (R316, R317). -/
def execIBnot (c : Nat) (w : LongWord) (s : State) : Host.Outcome State Fault Refusal :=
  .next (s.long c w { opc := opcOf 5 0x02, sizes := szH, s1 := .rH } true
    (do
      let b ← bitSrc c w.s1
      let x ← getBit c b
      writeBit c b (!x)
      pure .seq))

/-- BMOV (R316, R317). -/
def execIBmov (c : Nat) (w : LongWord) (s : State) : Host.Outcome State Fault Refusal :=
  .next (s.long c w { opc := opcOf 5 0x03, sizes := szH, s1 := .rH, s2 := .rH } true
    (do
      let b ← bitSrc c w.s1
      let d ← bitSrc c w.s2
      let y ← getBit c d
      writeBit c b y
      pure .seq))

/-- BAND (R316, R317). -/
def execIBand (c : Nat) (w : LongWord) (s : State) : Host.Outcome State Fault Refusal :=
  .next (s.long c w { opc := opcOf 5 0x04, sizes := szH, s1 := .rH, s2 := .rH } true
    (do
      let b ← bitSrc c w.s1
      let d ← bitSrc c w.s2
      let x ← getBit c b
      let y ← getBit c d
      writeBit c b (x && y)
      pure .seq))

/-- BOR (R316, R317). -/
def execIBor (c : Nat) (w : LongWord) (s : State) : Host.Outcome State Fault Refusal :=
  .next (s.long c w { opc := opcOf 5 0x05, sizes := szH, s1 := .rH, s2 := .rH } true
    (do
      let b ← bitSrc c w.s1
      let d ← bitSrc c w.s2
      let x ← getBit c b
      let y ← getBit c d
      writeBit c b (x || y)
      pure .seq))

/-- BXOR (R316, R317). -/
def execIBxor (c : Nat) (w : LongWord) (s : State) : Host.Outcome State Fault Refusal :=
  .next (s.long c w { opc := opcOf 5 0x06, sizes := szH, s1 := .rH, s2 := .rH } true
    (do
      let b ← bitSrc c w.s1
      let d ← bitSrc c w.s2
      let x ← getBit c b
      let y ← getBit c d
      writeBit c b (x != y)
      pure .seq))

/-- BT (R316, R317): the target is read whether or not the branch is taken. -/
def execIBt (c : Nat) (w : LongWord) (s : State) : Host.Outcome State Fault Refusal :=
  .next (s.long c w { opc := opcOf 5 0x08, sizes := szH, s1 := .rH, s2 := .t } true
    (do
      let b ← bitSrc c w.s1
      let a ← readTarget c w.s2
      let x ← getBit c b
      pure (if x then .go a else .seq)))

/-- BF (R316, R317): the target is read whether or not the branch is taken. -/
def execIBf (c : Nat) (w : LongWord) (s : State) : Host.Outcome State Fault Refusal :=
  .next (s.long c w { opc := opcOf 5 0x09, sizes := szH, s1 := .rH, s2 := .t } true
    (do
      let b ← bitSrc c w.s1
      let a ← readTarget c w.s2
      let x ← getBit c b
      pure (if x then .seq else .go a)))

/-- BTCLR (R316, R317): the target is read whether or not the branch is taken. -/
def execIBtclr (c : Nat) (w : LongWord) (s : State) : Host.Outcome State Fault Refusal :=
  .next (s.long c w { opc := opcOf 5 0x0A, sizes := szH, s1 := .rH, s2 := .t } true
    (do
      let b ← bitSrc c w.s1
      let a ← readTarget c w.s2
      let x ← getBit c b
      if x then do
        writeBit c b false
        pure (.go a)
      else pure .seq))

/-- BLD (R316): d = the bit, zero-extended. -/
def execIBld (c : Nat) (w : LongWord) (s : State) : Host.Outcome State Fault Refusal :=
  .next (s.long c w { opc := opcOf 5 0x0C, sizes := szAll, d := .w, s1 := .rH } true
    (do
      let b ← bitSrc c w.s1
      let x ← getBit c b
      putDest c true w.d w.z (pure (x.toNat, {}))))

/-- BST (R316): the bit = s2[0]. -/
def execIBst (c : Nat) (w : LongWord) (s : State) : Host.Outcome State Fault Refusal :=
  .next (s.long c w { opc := opcOf 5 0x0D, sizes := szAll, s1 := .rH, s2 := .r } true
    (do
      let b ← bitSrc c w.s1
      let v ← readSrc c false true w.s2 .r w.z
      writeBit c b (bitOf v 0)
      pure .seq))

end Sys2Proof.Machine
end

