-- ==== Sys2Proof/Machine/IaberSystem.lean ====
section
/-! DEFINITION. Group 6 of the Iaber instructions: I/O and system (R318 to R322, R350). -/

namespace Sys2Proof.Machine

/-- A port address: S1 read as rW (R302). -/
def portSrc (c : Nat) (p : Specifier) : CM Nat := readSrc c false true p .rW 4

/-- IN (R318, R319): the destination address is checked before the port is touched. -/
def execIIn (c : Nat) (w : LongWord) (s : State) : Host.Outcome State Fault Refusal :=
  .next (s.long c w { opc := opcOf 6 0x00, sizes := szAll, d := .w, s1 := .rW } true
    (do
      let p ← portSrc c w.s1
      putDest c true w.d w.z (fun s => do
        let r ← portCheck s c p w.z .inp
        pure ((portIn s c r, {}), s))))

/-- OUT (R318, R319). -/
def execIOut (c : Nat) (w : LongWord) (s : State) : Host.Outcome State Fault Refusal :=
  .next (s.long c w { opc := opcOf 6 0x01, sizes := szAll, s1 := .rW, s2 := .r } true
    (do
      let p ← portSrc c w.s1
      let v ← readSrc c false true w.s2 .r w.z
      fun s => do
        let r ← portCheck s c p w.z .out
        pure (.seq, portOut s c r v)))

/-- IOX (R318, R319): one exchange; when the destination write then meets Bus Error, the exchange stands
and nothing else does (R343). `s0` is the state before the instruction. -/
def ioxBody (c : Nat) (w : LongWord) (s0 : State) : CM Next := do
  let p ← portSrc c w.s1
  let _ ← readSrc c false true w.s2 .r w.z
  let l ← locate c false w.d w.z
  checkDest c true l w.z
  fun s => do
    let r ← portCheck s c p w.z .iox
    let (v, t) := portIox s c r
    match writeLoc c true l w.z v t with
    | .ok (_, t) => pure (.seq, t)
    | .error e => .error { e with stands := some (portIox s0 c r).2 }

/-- IOX (R318, R319, R364). -/
def execIIox (c : Nat) (w : LongWord) (s : State) : Host.Outcome State Fault Refusal :=
  .next (s.long c w { opc := opcOf 6 0x02, sizes := szAll, d := .w, s1 := .rW, s2 := .r } true
    (ioxBody c w s))

/-- A special register by its number (R320). -/
def specialGet (k : Core) (n : Nat) : W64 :=
  if n = 0 then k.ctx.regs.lk else if n = 1 then k.ctx.regs.bc else if n = 2 then k.ctx.regs.bs
  else if n = 3 then k.ctx.regs.bd else if n = 4 then k.ctx.regs.bx else k.st

/-- Write a special register (R320, R281): in user mode a change of S is refused with Privilege. -/
def specialSet (c n : Nat) (v : W64) : CM Next := fun s =>
  let g (f : Regs → Regs) : Except Exc (Next × State) := .ok (.seq, s.modCtx c fun x => { x with regs := f x.regs })
  if n = 0 then g fun r => { r with lk := v }
  else if n = 1 then g fun r => { r with bc := v }
  else if n = 2 then g fun r => { r with bs := v }
  else if n = 3 then g fun r => { r with bd := v }
  else if n = 4 then g fun r => r.setBx v
  else if !(s.core c).sup && v.getLsbD 0 then .error { num := excPrivilege }
  else .ok (.seq, (s.modCtx c fun x => { x with regs := { x.regs with dir := v.getLsbD 2 } }).modCore c
    fun k => { k with sup := v.getLsbD 0 })

/-- MFS (R320): d = special register n, n at most 5. -/
def execIMfs (c : Nat) (w : LongWord) (s : State) : Host.Outcome State Fault Refusal :=
  .next (s.long c w { opc := opcOf 6 0x08, sizes := szD, d := .w, s2 := .n } (w.s2.f.toNat ≤ 5)
    (putDest c true w.d w.z (fun s => .ok (((specialGet (s.core c) w.s2.f.toNat).toNat, {}), s))))

/-- MTS (R320, R281). -/
def execIMts (c : Nat) (w : LongWord) (s : State) : Host.Outcome State Fault Refusal :=
  .next (s.long c w { opc := opcOf 6 0x09, sizes := szD, s1 := .r, s2 := .n } (w.s2.f.toNat ≤ 5)
    (do
      let v ← readSrc c false true w.s1 .r w.z
      specialSet c w.s2.f.toNat (BitVec.ofNat 64 v)))

/-- The entries that cache maintenance reaches (R345): the executing mode's mask and OCM.STRM. -/
def Core.reach (k : Core) : BitVec 48 := (if k.sup then k.oc.supv else k.oc.user) ||| k.oc.strm

/-- Write back, invalidate, or both, one entry (R350). Writing back a dirty word with an uncorrectable
error raises Bus Error and leaves the line dirty (R352). -/
def ocEntry (c i : Nat) (wb inv : Bool) : CM Unit := fun s =>
  match Tbl.get? (s.core c).oc.lines i with
  | none => .ok ((), s)
  | some l =>
    if wb && (s.core c).oc.lost.contains i && l.dirty ≠ 0 then
      .error { num := excBus, addr := BitVec.ofNat 64 l.addr }
    else
      let s := if wb then s.writeBack c i else s
      .ok ((), if inv then s.invalidate c i else s)

/-- The line that holds an address, if an entry it may reach holds it (R350). -/
def ocLine (c : Nat) (w : LongWord) (wb inv : Bool) : CM Next := do
  let a ← addrOf c w.s1 8
  fun s => match (s.core c).oc.find a.toNat with
    | some (i, _) => 
      if (s.core c).reach.getLsbD i then (ocEntry c i wb inv s).map fun r => (Next.seq, r.2)
      else .ok (.seq, s)
    | none => .ok (.seq, s)

/-- The same action on every entry reached. -/
def ocEach (c : Nat) (wb inv : Bool) : List Nat → CM Unit
  | [] => pure ()
  | i :: is => do
    ocEntry c i wb inv
    ocEach c wb inv is

/-- OCWB (R318, R350): writes the line back. -/
def execIOcwb (c : Nat) (w : LongWord) (s : State) : Host.Outcome State Fault Refusal :=
  .next (s.long c w { opc := opcOf 6 0x0C, sizes := szD, s1 := .a } true
    (ocLine c w true false))

/-- OCINV (R318, R350): invalidates the line and discards its dirty words. -/
def execIOcinv (c : Nat) (w : LongWord) (s : State) : Host.Outcome State Fault Refusal :=
  .next (s.long c w { opc := opcOf 6 0x0D, sizes := szD, s1 := .a } true
    (ocLine c w false true))

/-- OCWBI (R318, R350): writes the line back, then invalidates it. -/
def execIOcwbi (c : Nat) (w : LongWord) (s : State) : Host.Outcome State Fault Refusal :=
  .next (s.long c w { opc := opcOf 6 0x0E, sizes := szD, s1 := .a } true
    (ocLine c w true true))

/-- OCALL (R318, R350): action n on every entry reached, n at most 2. -/
def execIOcall (c : Nat) (w : LongWord) (s : State) : Host.Outcome State Fault Refusal :=
  .next (s.long c w { opc := opcOf 6 0x0F, sizes := szD, s1 := .n } (w.s1.f.toNat ≤ 2)
    (do
      let n := w.s1.f.toNat
      (fun s => ocEach c (n ≠ 1) (n ≠ 0) (maskEntries (s.core c).reach) s)
      pure .seq))

/-- WAITB (R322): completes once the bit reads 1; until then the pc stays. -/
def execIWaitb (c : Nat) (w : LongWord) (s : State) : Host.Outcome State Fault Refusal :=
  .next (s.long c w { opc := opcOf 6 0x10, sizes := szH, s1 := .rH } true
    (fun s => do
      let (b, t) ← bitSrc c w.s1 s
      pure (if (t.core c).ctx.bit b then (.seq, t) else (.stay, s))))

/-- TRAP (R318): raises Trap with code s1. -/
def execITrap (c : Nat) (w : LongWord) (s : State) : Host.Outcome State Fault Refusal :=
  .next (s.long c w { opc := opcOf 6 0x14, sizes := szB, s1 := .rB } true
    (do
      let v ← readSrc c false true w.s1 .rB w.z
      raise { num := excTrap, code := v }))

/-- BKPT (R318): raises Breakpoint. -/
def execIBkpt (c : Nat) (w : LongWord) (s : State) : Host.Outcome State Fault Refusal :=
  .next (s.long c w { opc := opcOf 6 0x15, sizes := szB } true
    (raise { num := excBreakpoint }))

/-- IST (R321): one 8-byte word of the forge's instruction store. -/
def execIIst (c : Nat) (w : LongWord) (s : State) : Host.Outcome State Fault Refusal :=
  .next (s.long c w { opc := opcOf 6 0x20, sizes := szD, s1 := .rD, s2 := .r, priv := true } true
    (do
      let a ← readSrc c false true w.s1 .rD w.z
      let v ← readSrc c false true w.s2 .r w.z
      fun s =>
        if a % 8 ≠ 0 ∨ 0x100000 ≤ a then .error { num := excData, addr := BitVec.ofNat 64 a, ispace := true }
        else
          let f := s.forge (c / 9)
          .ok (.seq, s.setForge (c / 9) { f with istore := Mem.write f.istore a (leBytes 8 v) })))

/-- RFE (R332): return from exception. -/
def execIRfe (c : Nat) (w : LongWord) (s : State) : Host.Outcome State Fault Refusal :=
  .next (s.long c w { opc := opcOf 6 0x21, sizes := szD, priv := true } true
    (fun s => .ok (.stay, s.rfe c)))

/-- HALT (R318): stops fetching until the billet runtime supervisor releases the core. -/
def execIHalt (c : Nat) (w : LongWord) (s : State) : Host.Outcome State Fault Refusal :=
  .next (s.long c w { opc := opcOf 6 0x22, sizes := szB, priv := true } true
    (fun s => .ok (.seq, s.modCore c fun k => { k with halted := true })))

/-- WDR (R318, R338): restarts the watchdog. -/
def execIWdr (c : Nat) (w : LongWord) (s : State) : Host.Outcome State Fault Refusal :=
  .next (s.long c w { opc := opcOf 6 0x23, sizes := szB, priv := true } true
    (fun s => .ok (.seq, s.modCore c fun k => { k with wdCount := 0 })))

end Sys2Proof.Machine
end

