-- ==== Sys2Proof/Machine/IaberRecord.lean ====
section
/-! DEFINITION. Group 7 of the Iaber instructions: record and field (R323 to R327). -/

namespace Sys2Proof.Machine

/-- EXTU (R324). -/
def execIExtu (c : Nat) (w : LongWord) (s : State) : Host.Outcome State Fault Refusal :=
  .next (s.long c w { opc := opcOf 7 0x00, sizes := szAll, d := .w, s1 := .r, s2 := .rH } true
    (do
      let a ← readSrc c false false w.s1 .r w.z
      let b ← readSrc c false false w.s2 .rH w.z
      putDest c false w.d w.z (pure (extuVal (bitsOf w) a b, {}))))

/-- EXTS (R324). -/
def execIExts (c : Nat) (w : LongWord) (s : State) : Host.Outcome State Fault Refusal :=
  .next (s.long c w { opc := opcOf 7 0x01, sizes := szAll, d := .w, s1 := .r, s2 := .rH } true
    (do
      let a ← readSrc c false false w.s1 .r w.z
      let b ← readSrc c false false w.s2 .rH w.z
      putDest c false w.d w.z (pure (extsVal (bitsOf w) a b, {}))))

/-- INS (R324): the destination is read first. -/
def execIIns (c : Nat) (w : LongWord) (s : State) : Host.Outcome State Fault Refusal :=
  .next (s.long c w { opc := opcOf 7 0x02, sizes := szAll, d := .m, s1 := .r, s2 := .rH } true
    (do
      let l ← locate c false w.d w.z
      let v ← readLoc c false false l w.z
      let a ← readSrc c false false w.s1 .r w.z
      let b ← readSrc c false false w.s2 .rH w.z
      writeLoc c false l w.z (insVal (bitsOf w) v a b)
      pure .seq))

/-- LDBE (R323): the lowest-addressed byte is the most significant. -/
def execILdbe (c : Nat) (w : LongWord) (s : State) : Host.Outcome State Fault Refusal :=
  .next (s.long c w { opc := opcOf 7 0x04, sizes := szHWD, d := .w, s1 := .r } true
    (do
      let a ← readSrc c false false w.s1 .r w.z
      putDest c false w.d w.z (pure (bswapVal w.z a, {}))))

/-- STBE (R323): the most significant byte goes to the lowest address. -/
def execIStbe (c : Nat) (w : LongWord) (s : State) : Host.Outcome State Fault Refusal :=
  .next (s.long c w { opc := opcOf 7 0x05, sizes := szHWD, d := .w, s1 := .r } true
    (do
      let a ← readSrc c false false w.s1 .r w.z
      putDest c false w.d w.z (pure (bswapVal w.z a, {}))))

/-- The bytes of a varint (R325): from the value and the count so far, at most ten bytes. Answers the
value and the count of bytes, or none on a failing encoding. -/
def varintLoop (c : Nat) (a : W64) : Nat → Nat → Nat → CM (Option (Nat × Nat))
  | 0, _, _ => pure none
  | fuel + 1, v, k => do
    let bs ← memRead c false false (a + BitVec.ofNat 64 k) 1
    let b := leNat bs
    let v := v + b % 128 * 2 ^ (7 * k)
    if b < 128 then pure (if k + 1 = 10 ∧ 1 < b then none else some (v, k + 1))
    else varintLoop c a fuel v (k + 1)

/-- The zigzag reading of a varint as a signed number (R325). -/
def zigzag (v : Nat) : Int := if v % 2 = 0 then (v / 2 : Nat) else -((v / 2 : Nat) : Int) - 1

/-- A varint fits: unsigned in w bits, or signed in w bits. -/
def varintFits (signed : Bool) (w v : Nat) : Bool :=
  if signed then -(2 ^ (w - 1) : Nat) ≤ zigzag v && zigzag v < (2 ^ (w - 1) : Nat) else v < 2 ^ w

/-- VDEC and VDECZ (R325): the value to D and the register past it, together; a failing decode sets V and
writes nothing else. D's address is computed after the bytes have been read. -/
def varint (c : Nat) (w : LongWord) (signed : Bool) : CM Next := do
  let a ← (fun s => .ok (s.rega c w.s1.r, s) : CM W64)
  let r ← varintLoop c a 10 0 0
  let bad : CM Next := fun s => .ok (.seq, s.modCtx c fun x => { x with v := true })
  match r with
  | none => bad
  | some (v, k) =>
    if !varintFits signed (bitsOf w) v then bad
    else do
      let res := if signed then wrapInt (bitsOf w) (zigzag v) else v
      let l ← locate c false w.d w.z
      writeLoc c false l w.z res
      fun s => .ok (.seq, (s.setRega c w.s1.r (a + BitVec.ofNat 64 k)).modCtx c fun x =>
        { x with z := res = 0, v := false })

/-- D names the register of S1 (R325): as a register, as a base, or as the index of mode 7h. -/
def varintD (w : LongWord) : Bool :=
  let m := w.d.mode.toNat
  !((((2 ≤ m && m ≤ 8) || m = 10) && w.d.r = w.s1.r) || (m = 7 && w.d.f.extractLsb' 7 3 = w.s1.r))

/-- VDEC (R325). -/
def execIVdec (c : Nat) (w : LongWord) (s : State) : Host.Outcome State Fault Refusal :=
  .next (s.long c w { opc := opcOf 7 0x08, sizes := szAll, d := .w, s1 := .reg } (varintD w)
    (varint c w false))

/-- VDECZ (R325). -/
def execIVdecz (c : Nat) (w : LongWord) (s : State) : Host.Outcome State Fault Refusal :=
  .next (s.long c w { opc := opcOf 7 0x09, sizes := szAll, d := .w, s1 := .reg } (varintD w)
    (varint c w true))

/-- The bounds lo and hi: the z bytes at S2's address and the z bytes that follow (R326). -/
def readBounds (c : Nat) (p : Specifier) (z : Nat) : CM (Nat × Nat) := do
  let l ← locate c false p z
  match l with
  | .mem a => do
    let lo ← memRead c false false a z
    let hi ← memRead c false false (a + BitVec.ofNat 64 z) z
    pure (leNat lo, leNat hi)
  | .code a => do
    let lo ← iRead c a z
    let hi ← iRead c (a + BitVec.ofNat 64 z) z
    pure (leNat lo, leNat hi)
  | _ => raise { num := excIllegal }

/-- RNGU (R326): C = lo ≤ s1 ≤ hi, unsigned. -/
def execIRngu (c : Nat) (w : LongWord) (s : State) : Host.Outcome State Fault Refusal :=
  .next (s.long c w { opc := opcOf 7 0x10, sizes := szAll, s1 := .r, s2 := .bounds } true
    (do
      let a ← readSrc c false false w.s1 .r w.z
      let b ← readBounds c w.s2 w.z
      putFlags c { c := some (b.1 ≤ a && a ≤ b.2) }
      pure .seq))

/-- RNGS (R326): C = lo ≤ s1 ≤ hi, signed. -/
def execIRngs (c : Nat) (w : LongWord) (s : State) : Host.Outcome State Fault Refusal :=
  .next (s.long c w { opc := opcOf 7 0x11, sizes := szAll, s1 := .r, s2 := .bounds } true
    (do
      let a ← readSrc c false false w.s1 .r w.z
      let b ← readBounds c w.s2 w.z
      putFlags c { c := some (sgn (bitsOf w) b.1 ≤ sgn (bitsOf w) a && sgn (bitsOf w) a ≤ sgn (bitsOf w) b.2) }
      pure .seq))

/-- HSTEP (R327): the state is the 8-byte D. -/
def execIHstep (c : Nat) (w : LongWord) (s : State) : Host.Outcome State Fault Refusal :=
  .next (s.long c w { opc := opcOf 7 0x18, sizes := szAll, d := .md, s1 := .r } true
    (do
      let l ← locate c false w.d 8
      let v ← readLoc c false false l 8
      let a ← readSrc c false false w.s1 .r w.z
      writeLoc c false l 8 (hstepVal v a)
      pure .seq))

end Sys2Proof.Machine
end

