-- ==== Sys2Proof/Machine/IaberPair.lean ====
section
/-! DEFINITION. Pairs of short operations (R291 to R296, R328, R329). -/

namespace Sys2Proof.Machine

/-! ## The short opcode table (R328) -/

/-- The use of X and Y and whether only slot B may hold it, of a short opcode; none where undefined. -/
def shortForm (op : Nat) : Option (SUse × SUse × Bool) :=
  match op with
  | 0x00 => some (.none, .none, false)
  | 0x01 => some (.w, .r, false)
  | 0x02 => some (.w, .none, false)
  | 0x03 => some (.w, .a, false)
  | 0x04 => some (.w, .r, false)
  | 0x30 => some (.r, .r, false)
  | 0x31 => some (.r, .none, false)
  | 0x32 => some (.m, .t, true)
  | 0x33 => some (.none, .t, true)
  | 0x34 => some (.none, .none, true)
  | 0x35 => some (.none, .t, true)
  | 0x50 => some (.b, .none, false)
  | 0x51 => some (.b, .none, false)
  | 0x52 => some (.b, .none, false)
  | 0x58 => some (.b, .t, true)
  | 0x59 => some (.b, .t, true)
  | 0x5A => some (.b, .t, true)
  | 0x60 => some (.w, .r, false)
  | 0x61 => some (.r, .r, false)
  | 0x70 => some (.m, .r, false)
  | n =>
    if 0x10 ≤ n ∧ n ≤ 0x16 then some (.m, .r, false)
    else if 0x20 ≤ n ∧ n ≤ 0x26 then some (.m, .r, false)
    else if 0x36 ≤ n ∧ n ≤ 0x3D then some (.none, .t, true)
    else if 0x53 ≤ n ∧ n ≤ 0x56 then some (.b, .b, false)
    else none

/-- The condition of short opcodes 36h to 3Dh. -/
def shortCond (op : Nat) : Option Cond :=
  match op with
  | 0x36 => some .eq
  | 0x37 => some .ne
  | 0x38 => some .lo
  | 0x39 => some .hs
  | 0x3A => some .lt
  | 0x3B => some .ge
  | 0x3C => some .hi
  | 0x3D => some .ls
  | _ => none

/-- A short operation is legal in its slot (R291 to R293). -/
def shortLegal (o : ShortOp) (slotB : Bool) : Bool :=
  match shortForm o.opc.toNat with
  | none => false
  | some (ux, uy, bOnly) => o.x.legal ux && o.y.legal uy && (slotB || !bOnly)

/-! ## Locations and hazards (R295) -/

/-- A location of R295. -/
inductive SLoc where
  | reg (r : BitVec 3)
  | lk
  | bit (b : Nat)
  | mem (a : Nat)
  deriving DecidableEq, Repr

/-- Two locations meet: memory locations are 8 bytes from their address. -/
def SLoc.meets : SLoc → SLoc → Bool
  | .mem a, .mem b => a < b + 8 && b < a + 8
  | x, y => x = y

/-- A short operation with its operands located on the state before the pair: X and Y, and the registers
after its own postincrements. -/
structure SOp where
  op  : Nat
  ux  : SUse
  uy  : SUse
  ox  : ShortOperand
  oy  : ShortOperand
  lx  : Loc
  ly  : Loc
  deriving DecidableEq, Repr

/-- A postincrement's step of one operand. -/
def stepReg (s : State) (c : Nat) (p : ShortOperand) (u : SUse) : State :=
  if u = .none then s
  else match p.steps with
    | some r => s.setRega c r (s.rega c r + 8)
    | none => s

/-- Locate the operands of a short operation: X first when it is read, else Y first; a register that X's
postincrement has stepped is read by Y stepped, and stands as that value (R289, log entry 9). -/
def sopLocate (s : State) (c : Nat) (o : ShortOp) : SOp :=
  let f := (shortForm o.opc.toNat).getD (.none, .none, false)
  let (ux, uy) := (f.1, f.2.1)
  if ux = .w then
    let ly := o.y.loc s c
    let s := stepReg s c o.y uy
    { op := o.opc.toNat, ux := ux, uy := uy, ox := o.x, oy := o.y, lx := o.x.loc s c, ly := ly }
  else
    let lx := o.x.loc s c
    let s := stepReg s c o.x ux
    let ly := if ux ≠ .none ∧ o.y.mode = 1 ∧ o.x.steps = some o.y.r then .imm (s.rega c o.y.r) else o.y.loc s c
    { op := o.opc.toNat, ux := ux, uy := uy, ox := o.x, oy := o.y, lx := lx, ly := ly }

/-- The registers after a short operation's postincrements. -/
def sopSteps (s : State) (c : Nat) (o : SOp) : State :=
  if o.ux = .w then stepReg (stepReg s c o.oy o.uy) c o.ox o.ux
  else stepReg (stepReg s c o.ox o.ux) c o.oy o.uy

/-- The register an address mode uses. -/
def baseLoc (p : ShortOperand) (u : SUse) : List SLoc :=
  if u ≠ .none ∧ (p.mode = 2 ∨ p.mode = 3 ∨ p.mode = 4) then [.reg p.r] else []

/-- The location an operand names. -/
def locLoc : Loc → List SLoc
  | .reg r => [.reg r]
  | .mem a => [.mem a.toNat]
  | _ => []

/-- The flags a short conditional branch tests. -/
def condBits (op : Nat) : List SLoc :=
  match shortCond op with
  | some .eq | some .ne => [.bit 0]
  | some .lo | some .hs => [.bit 2]
  | some .lt | some .ge => [.bit 1, .bit 3]
  | some .hi | some .ls => [.bit 2, .bit 0]
  | _ => []

/-- The bit variable an operand names when its value needs no memory (R295). -/
def bitName (s : State) (c : Nat) (l : Loc) : List SLoc :=
  match l with
  | .imm v => [.bit (v.toNat % 65536)]
  | .reg r => [.bit ((s.rega c r).toNat % 65536)]
  | _ => []

/-- The read set of a short operation (R295); `bx` and `by'` are the bit variables it names. -/
def readSet (o : SOp) (bx by' : List SLoc) : List SLoc :=
  let src (u : SUse) (l : Loc) : List SLoc := if u = .m ∨ u = .r ∨ u = .t ∨ u = .b then locLoc l else []
  src o.ux o.lx ++ src o.uy o.ly ++ baseLoc o.ox o.ux ++ baseLoc o.oy o.uy ++ condBits o.op
    ++ (if o.op = 0x34 then [.lk] else [])
    ++ (if o.op = 0x52 ∨ (0x54 ≤ o.op ∧ o.op ≤ 0x5A) then bx else []) ++ by'

/-- The write set of a short operation (R295). -/
def writeSet (o : SOp) (bx : List SLoc) : List SLoc :=
  (if o.ux = .w ∨ o.ux = .m then locLoc o.lx else [])
    ++ (if o.ux ≠ .none ∧ o.ox.mode = 4 then [.reg o.ox.r] else [])
    ++ (if o.uy ≠ .none ∧ o.oy.mode = 4 then [.reg o.oy.r] else [])
    ++ (if o.op = 0x30 ∨ o.op = 0x31 then [.bit 0, .bit 1, .bit 2, .bit 3] else [])
    ++ (if 0x50 ≤ o.op ∧ o.op ≤ 0x5A ∧ o.op ≠ 0x58 ∧ o.op ≠ 0x59 then bx else [])
    ++ (if o.op = 0x33 then [.lk] else [])

/-- Two sets meet. -/
def meet (a b : List SLoc) : Bool := a.any fun x => b.any fun y => x.meets y

/-- The pair has a dependency (R295). -/
def hazard (a b : SOp) (ax ay bx by' : List SLoc) : Bool :=
  meet (writeSet a ax) (readSet b bx by') || meet (writeSet a ax) (writeSet b bx)
    || meet (writeSet b bx) (readSet a ax ay)

/-! ## Execution (R294, R296, R328, R329) -/

/-- Mark an exception as raised by slot B. -/
def inSlot {α : Type} (b : Bool) (m : CM α) : CM α := fun s =>
  match m s with
  | .error e => .error { e with slot := b }
  | .ok r => .ok r

/-- Read the operands of a short operation and check its destination address: the values of X and Y. -/
def sopRead (c : Nat) (o : SOp) : CM (Nat × Nat) := do
  let x ← if o.ux = .m ∨ o.ux = .r ∨ o.ux = .b then readLoc c false true o.lx 8 else pure 0
  let y ← match o.uy with
    | .r | .b => readLoc c false true o.ly 8
    | .a => (match o.ly with
        | .mem a => pure a.toNat
        | _ => pure 0)
    | .t => (match o.ly with
        | .imm v => fun s => .ok ((if o.oy.mode = 1 then v else (s.core c).ctx.pc + v * 8).toNat, s)
        | l => readLoc c false true l 8)
    | _ => pure 0
  if o.ux = .w ∨ o.ux = .m then checkDest c true o.lx 8 else pure ()
  pure (x, y)

/-- What a short operation writes, and where it transfers. -/
structure SRes where
  dest   : Option Nat := none
  flags  : FlagSet := {}
  bit    : Option (Nat × Bool) := none
  link   : Bool := false
  target : Option Nat := none
  /-- A port access: port, value sent (OUT) or none (IN). -/
  port   : Option (Nat × Option Nat) := none
  deriving DecidableEq, Repr

/-- The result of a short operation on the values of X and Y and the context before the pair (R328). -/
def sopResult (o : SOp) (k : Ctx) (x y : Nat) : SRes :=
  let sh := y % 64
  let bx := x % 65536
  let b := y % 65536
  match o.op with
  | 0x01 => { dest := some y }
  | 0x02 => { dest := some 0 }
  | 0x03 => { dest := some y }
  | 0x04 => { dest := some (bswapVal 8 y) }
  | 0x10 => { dest := some ((x + y) % 2 ^ 64) }
  | 0x11 => { dest := some (subVal 64 x y 0) }
  | 0x12 => { dest := some (mulVal 64 x y) }
  | 0x13 => { dest := some (min x y) }
  | 0x14 => { dest := some (max x y) }
  | 0x15 => { dest := some (minsVal 64 x y) }
  | 0x16 => { dest := some (maxsVal 64 x y) }
  | 0x20 => { dest := some (x &&& y) }
  | 0x21 => { dest := some (x ||| y) }
  | 0x22 => { dest := some (x ^^^ y) }
  | 0x23 => { dest := some (shlVal 64 x sh) }
  | 0x24 => { dest := some (shrVal x sh) }
  | 0x25 => { dest := some (sarVal 64 x sh) }
  | 0x26 => { dest := some (rolVal 64 x sh) }
  | 0x30 => { flags := subFlags 64 x y 0 }
  | 0x31 => { flags := zncv 64 x false false }
  | 0x32 =>
    let r := subVal 64 x 1 0
    { dest := some r, target := if r = 0 then none else some y }
  | 0x33 => { link := true, target := some y }
  | 0x34 => { target := some k.regs.lk.toNat }
  | 0x35 => { target := some y }
  | 0x50 => { bit := some (bx, true) }
  | 0x51 => { bit := some (bx, false) }
  | 0x52 => { bit := some (bx, !k.bit bx) }
  | 0x53 => { bit := some (bx, k.bit b) }
  | 0x54 => { bit := some (bx, k.bit bx && k.bit b) }
  | 0x55 => { bit := some (bx, k.bit bx || k.bit b) }
  | 0x56 => { bit := some (bx, k.bit bx != k.bit b) }
  | 0x58 => { target := if k.bit bx then some y else none }
  | 0x59 => { target := if k.bit bx then none else some y }
  | 0x5A => if k.bit bx then { bit := some (bx, false), target := some y } else {}
  | 0x60 => { port := some (y % 2 ^ 32, none) }
  | 0x61 => { port := some (x % 2 ^ 32, some y) }
  | 0x70 => { dest := some (hstepVal x y) }
  | n => match shortCond n with
    | some cc => { target := if cc.holds k then some y else none }
    | none => {}

/-- The exceptions of a short operation itself (R296 step 5): Bit-Space Fault, I/O Fault. -/
def sopCheck (s : State) (c : Nat) (r : SRes) : Except Exc Unit := do
  match r.bit with
  | some (b, v) => if bitFaults b v then .error { num := excBitSpace, addr := BitVec.ofNat 64 b } else pure ()
  | none => pure ()
  match r.port with
  | some (p, some _) => do let _ ← portCheck s c p 8 .out
  | some (p, none) => do let _ ← portCheck s c p 8 .inp
  | none => pure ()

/-- The port access of a short operation: the value read, if it is an IN (R329). -/
def sopPort (s : State) (c : Nat) (r : SRes) : Option Nat × State :=
  match r.port with
  | some (p, some v) =>
    match portFind s c p 8 .out with
    | some q => (none, portOut s c q v)
    | none => (none, s)
  | some (p, none) =>
    match portFind s c p 8 .inp with
    | some q => (some (portIn s c q), s)
    | none => (none, s)
  | none => (none, s)

/-- The writes of a short operation (R294). `v` is the value an IN has read. -/
def sopWrite (c : Nat) (o : SOp) (r : SRes) (v : Option Nat) : CM Unit := do
  (fun s => .ok ((), sopSteps s c o))
  match (if r.port.isSome then v else r.dest) with
  | some d => if o.ux = .w ∨ o.ux = .m then writeLoc c true o.lx 8 d else pure ()
  | none => pure ()
  fun s => .ok ((), s.modCtx c fun x =>
    let x := x.setFlags r.flags
    let x := match r.bit with
      | some (b, bv) => x.setBit b bv
      | none => x
    if r.link then { x with regs := { x.regs with lk := x.pc + 8 } } else x)

/-- The body of a pair that has passed its legality checks. -/
def pairBody (c : Nat) (a b : ShortOp) : CM Next := fun s => do
  let oa := sopLocate s c a
  let ob := sopLocate s c b
  let nm (u : SUse) (l : Loc) : List SLoc := if u = .b then bitName s c l else []
  let k := (s.core c).ctx
  if hazard oa ob (nm oa.ux oa.lx) (nm oa.uy oa.ly) (nm ob.ux ob.lx) (nm ob.uy ob.ly) then
    .error { num := excHazard }
  else do
    let ((xa, ya), t) ← inSlot false (sopRead c oa) s
    let ((xb, yb), t) ← inSlot true (sopRead c ob) t
    let bv (u : SUse) (v : Nat) : List SLoc := if u = .b then [.bit (v % 65536)] else []
    if hazard oa ob (bv oa.ux xa) (bv oa.uy ya) (bv ob.ux xb) (bv ob.uy yb) then .error { num := excHazard }
    else do
      let ra := sopResult oa k xa ya
      let rb := sopResult ob k xb yb
      let _ ← inSlot false (fun s => (sopCheck s c ra).map fun u => (u, s)) t
      let _ ← inSlot true (fun s => (sopCheck s c rb).map fun u => (u, s)) t
      let (va, t) := sopPort t c ra
      let (vb, t) := sopPort t c rb
      -- the state in which only the port accesses stand (R329, R343)
      let ports := (sopPort (sopPort s c ra).2 c rb).2
      let stand {α : Type} (m : CM α) : CM α := fun s => match m s with
        | .error e => .error { e with stands := if ra.port.isSome || rb.port.isSome then some ports else none }
        | .ok r => .ok r
      let (_, t) ← stand (inSlot false (sopWrite c oa ra va)) t
      let (_, t) ← stand (inSlot true (sopWrite c ob rb vb)) t
      pure (match rb.target with
        | some p => .go (BitVec.ofNat 64 p)
        | none => .seq, t)

/-- A short operation's 31 bits (R291). -/
def shortBits (o : ShortOp) : BitVec 31 :=
  o.opc ++ (o.x.mode ++ o.x.r ++ o.x.f) ++ (o.y.mode ++ o.y.r ++ o.y.f)

/-- A pair word (R291). -/
def pairWord (a b : ShortOp) (bit0 : Bool) : W64 := 1#1 ++ shortBits a ++ shortBits b ++ BitVec.ofBool bit0

/-- PAIR (R283, R291 to R296): in the order of R296, then both operations as one whole word. A word with
bit 0 at 1, or a pair in a billet of format 01h, is illegal (R239). -/
def execIPair (c : Nat) (a b : ShortOp) (bit0 : Bool) (s : State) : Host.Outcome State Fault Refusal :=
  let word := pairWord a b bit0
  let fmt1 := match s.runOn c with
    | some r => !(s.core c).sup && (s.billetOf r).fmt = 1
    | none => false
  .next (if !s.coreRuns c then s
    else match fetchFault s c (s.core c).ctx.pc with
      | some e => s.takeSync c e 8 0
      | none =>
        if bit0 || fmt1 || !shortLegal a false then s.takeSync c { num := excIllegal } 8 word
        else if !shortLegal b true then s.takeSync c { num := excIllegal, slot := true } 8 word
        else match pairBody c a b s with
          | .error e => s.takeSync c e 8 word
          | .ok (.go p, t) => t.finish c (s.core c).ctx.regs.rp 8 (some p)
          | .ok (_, t) => t.finish c (s.core c).ctx.regs.rp 8 none)

end Sys2Proof.Machine
end

