-- ==== Sys2Proof/Machine/CoreEvents.lean ====
section
/-! DEFINITION. The events of a core that no instruction is: reset, the watchdog, asynchronous exceptions,
an undefined opcode, and the operand cache's own steps (R330 to R338, R345 to R351). -/

namespace Sys2Proof.Machine

/-- The state reset leaves in a core (R335): registers, bit variables, cache entries and the core control
block at their reset values, supervisor mode, the supervisor address 0. The bench is not named there and
keeps its bytes (log entry 6). -/
def Core.reset (k : Core) : Core :=
  { k with
    ctx := { bench := k.ctx.bench }
    sup := true, ctl := {}, oc := {}, pendWd := false, pendSpan := false, pendEng := false
    halted := false, stopped := false, wdCount := 0, busErr := [] }

/-- CORE_RESET (R334, R335): taken at once, discarding the instruction in progress. -/
def execCoreReset (c : Nat) (s : State) : Host.Outcome State Fault Refusal :=
  .next (if c < builtCores then s.modCore c Core.reset else s)

/-- WATCHDOG_EXPIRY (R338, R250): the count reaches CORE.WDT.PERIOD. In user mode Watchdog is raised and
the run ends with cause 0Bh; in supervisor mode it is an Iaber core fault, and the core stops. A halted
core's watchdog does not count. -/
def execWatchdogExpiry (c : Nat) (s : State) : Host.Outcome State Fault Refusal :=
  .next (if !s.coreRuns c then s
    else
      let k := s.core c
      let s := s.modCore c fun x => { x with wdCount := x.ctl.wdt.toNat }
      if k.sup then s.modCore c fun x => { x with stopped := true }
      else match k.run with
        | some i => match s.runAt i with
          | some r =>
            (s.enterExc c { num := excWatchdog }).billetFault c i r k excWatchdog k.ctx.pc 0 (s.wordAt c)
          | none => s.enterExc c { num := excWatchdog }
        | none => s.enterExc c { num := excWatchdog })

/-- The number of an asynchronous exception (R330). -/
def AsyncExc.num : AsyncExc → Nat
  | .watchdog => excWatchdog
  | .spanExpiry => excSpan
  | .engineCompletion => excEngine

/-- The exception is pending. -/
def Core.pends (k : Core) : AsyncExc → Bool
  | .watchdog => k.pendWd
  | .spanExpiry => k.pendSpan
  | .engineCompletion => k.pendEng

/-- An exception may be taken now: it is pending, EXL allows it, and none of higher priority is pending
(R333, R334). -/
def Core.takes (k : Core) (e : AsyncExc) : Bool :=
  Core.pends k e && !k.ctl.exl && match e with
    | .watchdog => true
    | .spanExpiry => !k.pendWd
    | .engineCompletion => !k.pendWd && !k.pendSpan

/-- Taking an asynchronous exception clears what made it pending: SXP with Span Expiry, ECP with Engine
Completion (R336). -/
def Core.clearPend (k : Core) : AsyncExc → Core
  | .watchdog => { k with pendWd := false }
  | .spanExpiry => { k with pendSpan := false, ctx := { k.ctx with sxp := false } }
  | .engineCompletion => { k with pendEng := false, ctx := { k.ctx with ecp := false } }

/-- ASYNC_EXCEPTION_ENTRY (R331, R334, R336, R337): the exception is entered at the instruction boundary.
The runtime takes Span Expiry and Engine Completion of a run and returns to it by RFE (R248, R337); the
watchdog ends the run (R338). -/
def execAsyncExceptionEntry (c : Nat) (exc : AsyncExc) (s : State) : Host.Outcome State Fault Refusal :=
  .next (if !s.coreRuns c || !Core.takes (s.core c) exc then s
    else
      let k := s.core c
      let word := s.wordAt c
      let s := (s.modCore c fun x => Core.clearPend x exc).enterExc c { num := AsyncExc.num exc }
      if k.sup then s
      else match k.run with
        | none => s
        | some i => match s.runAt i with
          | none => s
          | some r => match exc with
            | .watchdog => s.billetFault c i r k excWatchdog k.ctx.pc 0 word
            | _ => s.rfe c)

/-- A word is undefined or reserved as a whole (R283, R301): its own check is the row's; the row stands
for a word that no other row names. -/
def execIllegalOpcode (c : Nat) (word : W64) (s : State) : Host.Outcome State Fault Refusal :=
  .next (if !s.coreRuns c then s
    else match fetchFault s c (s.core c).ctx.pc with
      | some e => s.takeSync c e 8 0
      | none => s.takeSync c { num := excIllegal } 8 word)

/-! ## Operand cache events -/

/-- OC_EN_WRITE (R351): a supervisor write of OC.EN. -/
def execOcEnWrite (c : Nat) (value : W32) (s : State) : Host.Outcome State Fault Refusal :=
  .next (if c < builtCores then s.ocEn c value.toNat else s)

/-- OC_DRAIN_COMPLETE (R349, R351, R352): every dirty line is written back, the words of the entries in
`lost` are lost and set WBERR; then every entry is invalidated and EN and DRAIN read 0. -/
def execOcDrainComplete (c : Nat) (lost : List Nat) (s : State) : Host.Outcome State Fault Refusal :=
  .next (if c < builtCores && (s.core c).oc.drain then
      let s := s.modOc c fun o => { o with lost := lost.foldl (fun l i => insNat i l) o.lost }
      let s := (List.range 48).foldl (fun s i => s.writeBack c i) s
      s.modOc c fun o => { o with lines := [], lost := [], en := false, drain := false }
    else s)

/-- OCM_MASK_WRITE (R345): `port` is 0048h, 0050h or 0058h; other ports are not a mask. -/
def execOcmMaskWrite (c port : Nat) (value : W64) (s : State) : Host.Outcome State Fault Refusal :=
  .next (if c < builtCores ∧ (port = 0x48 ∨ port = 0x50 ∨ port = 0x58) then s.ocMask c port value.toNat else s)

/-- An entry ages (R348). -/
def CacheLine.aged (l : CacheLine) : CacheLine :=
  if l.r then { l with r := false, age := 0 } else { l with age := if l.age = 3 then 3 else l.age + 1 }

/-- OC_AGING (R348): after 64 cache accesses every valid entry ages. -/
def execOcAging (c : Nat) (s : State) : Host.Outcome State Fault Refusal :=
  .next (if c < builtCores ∧ 64 ≤ (s.core c).oc.accesses then
      s.modOc c fun o => { o with accesses := o.accesses - 64, lines := Tbl.mapV o.lines fun _ l => l.aged }
    else s)

end Sys2Proof.Machine
end

