-- ==== Sys2Proof/Machine/Faults.lean ====
section
/-! DEFINITION. Fault containment: poisoned requests, Iaber core faults, keeper failover, the deck and the
correctable errors of on-chip SRAM (chapters 01 and 15). -/

namespace Sys2Proof

/-- A command that the command front executes itself (R26): Read, Write or Flush from an I/O queue. -/
def Sqe.ofFront (e : Sqe) (sq : Nat) : Bool := sq ≠ 0 && e.opc.toNat < 3

/-- The parity of 64 bytes, one bit for each (R24): even parity (log entry 138). -/
def deckParity (body : List Byte) : BitVec 64 :=
  BitVec.ofNat 64 (body.foldr (fun b n => (if (List.range 8).foldl (fun p i => p ^^ b.getLsbD i) false then 1 else 0) + 2 * n) 0)

/-- The parity that its source made still fits the flit's bytes. -/
def Flit.parityOk (f : Flit) : Bool := deckParity f.body = f.parity

/-- A source's flits to a destination in one class, and a transaction between them. -/
def Flit.stream (f : Flit) : Nat := (f.src * 36 + f.dst) * 4 + f.cls.toNat
def Flit.txnKey (f : Flit) : Nat := f.txn * 1296 + f.src * 36 + f.dst

end Sys2Proof

namespace Sys2Proof.Machine

/-! ## A request that fails (R24, R517) -/

/-- What a command in hand has set going is dropped: media reads that their dies have not taken, the delivery of the others
(R203), a waiting write, the hold on its buffered data and its journal entries. -/
def State.dropWork (s : State) (q : Src) (cid : W16) : State :=
  let mine (r : MediaRead) : Bool := match r.reader with
    | .cmd io => match Tbl.get? s.media.ios io with
      | some x => x.src = q && x.e.cid = cid
      | none => false
    | _ => false
  let orphan (w : KeyWork) : KeyWork := if w.src = some (q, cid) then { w with src := none } else w
  let s := { s with hm := { s.hm with commit := s.hm.commit.map orphan, joining := s.hm.joining.map orphan } }
  s.modMedia fun m => { m with
    reads := Tbl.mapV (m.reads.filter fun p => p.2.issued || !mine p.2) fun _ r => if mine r then { r with dropped := true } else r
    jown := m.jown.filter fun o => o ≠ (q, cid)
    progs := Tbl.mapV m.progs fun _ p => { p with owners := p.owners.filter fun o => o ≠ (q, cid) }
    ios := m.ios.filter fun p => !(p.2.src = q && p.2.e.cid = cid)
    waits := m.waits.filter fun w => !(w.src = q && w.e.cid = cid)
    buf := m.buf.map fun b => if b.owner = some (q, cid) then { b with owner := none } else b }

/-- A controller stops for good until CC.EN is written to 0: CSTS.CFS (R49, R517). -/
def State.setCfs (s : State) (i : Nat) : State := s.modCtrl i fun c => { c with cfs := true }

/-- The requester is told of a poisoned transaction (R24, R517): a queue fetch sets CSTS.CFS and enters the error
with CID FFFFh; a command completes with Data Transfer Error; a core's access meets Bus Error; an engine job
ends with DATA. -/
def State.poisoned (s : State) (who : HostReader) : State :=
  match who with
  | .sqFetch i n => if s.ctrlExists i then (s.setCfs i).logError i n 0xFFFF 0 scDataTransfer 0 0 else s
  | .command q cid =>
    match q with
    | .sideband => if s.dev.side.cmd.isSome then s.fail q cid 0 scDataTransfer else s
    | .queue _ _ => if (s.fetchedAt q cid).isSome then (s.dropWork q cid).fail q cid 0 scDataTransfer else s
  | .core c a => if c < builtCores then s.modCore c fun k => { k with busErr := insNat (a.toNat / 8) k.busErr } else s
  | .engine c n => match s.runningJob c n with
    | some (u, q) => (s.endJob q (some u) { code := 0x0B }).dispatchJobs q.cls
    | none => match s.waitingJob c n with
      | some q => s.endJob q none { code := 0x0B }
      | none => s

/-! ## Iaber cores (R458 to R460) -/

/-- An enabled core (R16, R460): built, not faulted, one of the first 8 of its forge or its mapped spare. -/
def State.coreEnabled (s : State) (c : Nat) : Bool :=
  c < builtCores && !s.rel.badCores.contains c && (c % 9 < 8 || s.rel.spared.contains (c / 9))

/-- Enabled cores. -/
def State.enabledCores (s : State) : Nat := ((List.range builtCores).filter s.coreEnabled).length

/-- The forge's spare is unused and sound. -/
def State.spareFree (s : State) (f : Nat) : Bool := !s.rel.spared.contains f && !s.rel.badCores.contains (9 * f + 8)

/-- Numbers of the causes of R458. -/
def coreCause : CoreFaultCause → Nat
  | .parity => 1
  | .doubleFault => 2
  | .watchdog => 3
  | .selfTest => 4

/-- An Iaber core fault (R459, R460): the core stops, its cache is discarded, its run ends with Internal Error
and no output; the forge's spare takes its place, else replacement is requested. -/
def State.coreFault (s : State) (c cause : Nat) : State :=
  if builtCores ≤ c ∨ s.rel.badCores.contains c then s
  else
    let f := c / 9
    let was := s.coreEnabled c
    let map := was && s.spareFree f
    let s := s.modOc c fun o => { o with lines := [], lost := [] }
    let s := match (s.core c).run with
      | none => s
      | some i => match s.runAt i with
        | none => s
        | some r => s.endRun c i r { sct := 0, sc := scInternal, dw0 := 0, dw1 := 0, output := { len := 0, parts := [] } }
    let s := s.modCore c fun k => { k with stopped := true }
    let s := { s with rel := { s.rel with
      badCores := insNat c s.rel.badCores
      spared := if map then insNat f s.rel.spared else s.rel.spared } }
    let s := s.logFault 0x0D (if map then 2 else 3) [f, c % 9] none [0] [cause, if map then 1 else 0]
    if was && !map then s.requestRepl 6 else s

/-- IABER_CORE_FAULT (R458 to R460). -/
def execIaberCoreFault (c : Nat) (cause : CoreFaultCause) (s : State) : Host.Outcome State Fault Refusal :=
  .next (s.coreFault c (coreCause cause))

/-! ## Keeper pairs (R454 to R457) -/

/-- The pair that adopts index `i`: the spare, else the next working pair. -/
def Rel.adopter (r : Rel) (i : Nat) : Option Nat :=
  match r.pairs.find? fun p => !r.serves.any fun x => x.2 = p with
  | some p => some p
  | none => ([1, 2, 3].map fun j => Tbl.getD r.serves ((i + j) % 4) 0).find? fun p => r.pairs.contains p

/-- The command front has handed a command over (R27): a read of it has left steps 1 and 2 of the ladder or has failed
its check, or its write waits for room or credit. -/
def State.handedOver (s : State) (q : Src) (cid : W16) : Bool :=
  (s.media.reads.any fun r => (3 ≤ r.2.step || r.2.auth ≠ 0) && match r.2.reader with
    | .cmd io => match Tbl.get? s.media.ios io with
      | some x => x.src = q && x.e.cid = cid
      | none => false
    | _ => false) || s.media.waits.any fun w => w.src = q && w.e.cid = cid

/-- Commands in flight on the pair that serves index `i` (R26 to R28): those of its slices that the keeper complex
executes, with those of the port controllers and the sideband for index 0. -/
def State.inFlight (s : State) (i : Nat) : Nat :=
  let mine (c : Nat) : Bool := ((ctrlSlice c).map fun sl => sl % 4).getD 0 = i
  let side := if i = 0 ∧ s.dev.side.cmd.isSome ∧ s.dev.side.begun then 1 else 0
  (s.host.ctrls.filter fun p => mine p.1).foldl (fun (n : Nat) p =>
    n + p.2.sqs.foldl (fun (k : Nat) x => k + (x.2.fetched.filter fun f =>
      f.begun && (!f.e.ofFront x.1 || s.handedOver (.queue p.1 x.1) f.e.cid)).length) 0) side

/-- A mismatch on a pair (R455 to R457): another pair takes its indices and settles its commands, which end as they
would have ended; the first use of the spare requests replacement; with no pair left, fault state. -/
def State.keeperFail (s : State) (pair : Nat) : State :=
  if !s.rel.pairs.contains pair then s
  else
    let s := { s with rel := { s.rel with pairs := delNat pair s.rel.pairs } }
    let mine := (s.rel.serves.filter fun x => x.2 = pair).map (·.1)
    if s.rel.pairs.isEmpty then
      (s.logFault 0x0C 3 [pair] none [pair] [0, 0]).enterFault 5
    else
      let spare : Bool := s.rel.pairs.any fun p => !s.rel.serves.any fun x => x.2 = p
      let s := mine.foldl (fun (s : State) i => match s.rel.adopter i with
        | none => s
        | some p =>
          let s := { s with rel := { s.rel with serves := Tbl.set s.rel.serves i p } }
          s.logFault 0x0C (if spare then 3 else 2) [pair] none [p] [0, s.inFlight i]) s
      if spare ∧ mine ≠ [] then s.requestRepl 5 else s

/-- LOCKSTEP_MISMATCH (R454 to R457): the output that differed is not issued; when it was a journal commit its
command is executed again, with the same result. -/
def execLockstepMismatch (pair : Nat) (_commitDiffers : Bool) (s : State) : Host.Outcome State Fault Refusal :=
  .next (s.keeperFail pair)

/-- KEEPER_HEARTBEAT_TIMEOUT (R454, R455): treated as a mismatch. -/
def execKeeperHeartbeatTimeout (pair : Nat) (s : State) : Host.Outcome State Fault Refusal :=
  .next (s.keeperFail pair)

/-! ## The deck (R16 to R24, R464) -/

/-- Stops are numbered row × 6 + column. Links 0 to 29 join (r, k) and (r, k + 1) as r × 5 + k; links 30 to 59 join
(r, k) and (r + 1, k) as 30 + r × 6 + k. -/
def linkEnds (l : Nat) : Nat × Nat :=
  if l < 30 then (l / 5 * 6 + l % 5, l / 5 * 6 + l % 5 + 1) else (l - 30, l - 30 + 6)

/-- The link between two neighbouring stops. -/
def linkOf (a b : Nat) : Option Nat := (List.range 60).find? fun l => linkEnds l = (a, b) || linkEnds l = (b, a)

/-- The links that a walk over stops uses. -/
def walkLinks : List Nat → List Nat
  | a :: b :: t => (linkOf a b).toList ++ walkLinks (b :: t)
  | _ => []

/-- Numbers from `a` to `b`, either way, both included. -/
def upDown (a b : Nat) : List Nat :=
  if a ≤ b then (List.range (b - a + 1)).map (a + ·) else (List.range (a - b + 1)).map (a - ·)

/-- The row from one stop to another column, and the column from one stop to another row. -/
def alongRow (r a b : Nat) : List Nat := (upDown a b).map fun k => r * 6 + k
def alongCol (k a b : Nat) : List Nat := (upDown a b).map fun r => r * 6 + k

/-- The primary route (R19). -/
def primaryRoute (a b : Nat) : List Nat :=
  alongRow (a / 6) (a % 6) (b % 6) ++ (alongCol (b % 6) (a / 6) (b / 6)).drop 1

/-- One row or column toward the centre. -/
def toCentre (n : Nat) : Nat := if n < 2 then n + 1 else if n = 2 then 3 else n - 1

/-- The alternate route (R19). -/
def alternateRoute (a b : Nat) : List Nat :=
  let (ra, ka, rb, kb) := (a / 6, a % 6, b / 6, b % 6)
  if a = b then [a]
  else if ra = rb then a :: alongRow (toCentre ra) ka kb ++ [b]
  else if ka = kb then a :: alongCol (toCentre ka) ra rb ++ [b]
  else alongCol ka ra rb ++ (alongRow rb ka kb).drop 1

/-- A deck link. -/
def Rel.link (r : Rel) (l : Nat) : Link := Tbl.getD r.links l {}

/-- Links marked failed. -/
def Rel.linksBad (r : Rel) : List Nat := (r.links.filter fun p => p.2.failed).map (·.1)

/-- Neighbours of a stop over links that have not failed. -/
def Rel.near (r : Rel) (a : Nat) : List Nat :=
  (List.range 60).filterMap fun l =>
    if (r.link l).failed then none
    else if (linkEnds l).1 = a then some (linkEnds l).2
    else if (linkEnds l).2 = a then some (linkEnds l).1 else none

/-- Walks of growing length from a stop, one to each stop reached: the first to reach `b`. -/
def Rel.search (r : Rel) (b : Nat) : Nat → List (List Nat) → List Nat → Option (List Nat)
  | 0, _, _ => none
  | fuel + 1, walks, seen =>
    match walks.find? fun w => w.head? = some b with
    | some w => some w.reverse
    | none =>
      let (next, seen) := walks.foldl (fun (p : List (List Nat) × List Nat) w =>
        (r.near (w.headD 0)).foldl (fun (p : List (List Nat) × List Nat) n =>
          if p.2.contains n then p else (p.1 ++ [n :: w], n :: p.2)) p) ([], seen)
      Rel.search r b fuel next seen

/-- The route in force (R19, R464): primary, alternate with one link failed, else the shortest one that avoids
every failed link. -/
def Rel.route (r : Rel) (a b : Nat) : List Nat :=
  let bad := r.linksBad
  let clear (w : List Nat) : Bool := (walkLinks w).all fun l => !bad.contains l
  if clear (primaryRoute a b) then primaryRoute a b
  else if bad.length = 1 then alternateRoute a b
  else (r.search b 37 [[a]] [a]).getD []

/-- The stop after one on a walk. -/
def nextStop (w : List Nat) (a : Nat) : Option Nat := (w.drop (w.idxOf a + 1)).head?

/-- The sending and the receiving stop of a direction of a link. -/
def laneEnds (l : Nat) (back : Bool) : Nat × Nat := if back then ((linkEnds l).2, (linkEnds l).1) else linkEnds l

/-- The direction of a link that leads from a stop to its neighbour. -/
def laneOf (a b : Nat) : Option (Nat × Bool) := (linkOf a b).map fun l => (l, decide ((linkEnds l).1 ≠ a))

/-- A direction of a link. -/
def Rel.lane (r : Rel) (l : Nat) (back : Bool) : Lane := if back then (r.link l).back else (r.link l).out

/-- Change a link. -/
def State.modLink (s : State) (l : Nat) (f : Link → Link) : State :=
  { s with rel := { s.rel with links := Tbl.set s.rel.links l (f (s.rel.link l)) } }

/-- Change a direction of a link. -/
def State.modLane (s : State) (l : Nat) (back : Bool) (f : Lane → Lane) : State :=
  s.modLink l fun x => if back then { x with back := f x.back } else { x with out := f x.out }

/-- The blocks of a stop are lost (R464): of a forge its cores, a flash stop its channels, a crucible
stop its engines, the assay and cipher pool stop its units; any other puts the device in fault state. -/
def State.blocksLost (s : State) (a : Nat) : State :=
  let (r, k) := (a / 6, a % 6)
  if 1 ≤ r ∧ r ≤ 4 ∧ k ≤ 3 then
    (List.range 9).foldl (fun s i => s.coreFault (((r - 1) * 4 + k) * 9 + i) 5) s
  else if k ≤ 3 then
    (List.range 4).foldl (fun s i => (s.failChannel (((if r = 0 then 0 else 4) + k) * 4 + i) 5).sweepProgs) s
  else if k = 4 ∧ (r = 1 ∨ r = 4) then
    (List.range 8).foldl (fun s i => s.retireUnit .crucible ((if r = 1 then 0 else 8) + i)) s
  else if a = 23 then
    (List.range 8).foldl (fun s i => (s.retireUnit .assay i).retireUnit .cipher i) s
  else s.enterFault 6

/-- A stop has lost every link (R464). -/
def State.lostStop (s : State) (a : Nat) : State :=
  ({ s with rel := { s.rel with lost := insNat a s.rel.lost } }).blocksLost a

/-- Stops that have lost every link now. -/
def Rel.cutOff (r : Rel) : List Nat := (List.range 36).filter fun a => (r.near a).isEmpty && !r.lost.contains a

/-- A flit is sent again from a stop, ahead of later ones (R21). -/
def State.resendFlit (s : State) (a : Nat) (f : Flit) : State :=
  match (nextStop (s.rel.route a f.dst) a).bind (laneOf a) with
  | some (n, b) => s.modLane n b fun y => { y with sent := f :: y.sent }
  | none => s

/-- A link is marked failed (R20, R21, R464): cause 1 a late acknowledgement, 2 the link check. The flits in the replay
buffer of each direction are resent on the route in force, ahead of later ones; a copy of them that still waits at the
failed input is dropped. -/
def State.failLink (s : State) (l cause : Nat) : State :=
  let x := s.rel.link l
  if 60 ≤ l ∨ x.failed then s
  else
    let cut (y : Lane) : Lane := { y with
      sent := [], bad := 0, held := y.held.filter fun f => !y.sent.any fun g => g.tag = f.tag }
    let s := s.modLink l fun x => { x with failed := true, out := cut x.out, back := cut x.back }
    let second := 2 ≤ s.rel.linksBad.length
    let s := s.logFault 0x10 (if second then 3 else 2) [(linkEnds l).1] none [(linkEnds l).2] [cause]
    let s := if second then s.requestRepl 9 else s
    let s := x.out.sent.reverse.foldl (fun (s : State) f => s.resendFlit (linkEnds l).1 f) s
    let s := x.back.sent.reverse.foldl (fun (s : State) f => s.resendFlit (linkEnds l).2 f) s
    s.rel.cutOff.foldl (fun s a => s.lostStop a) s

/-! ### At the destination (R22, R24, R465) -/

/-- Who made a request, as event 11h names it (R472). -/
def requester : Option HostReader → List Nat
  | none => [0]
  | some (.sqFetch c q) => [1, c, q]
  | some (.command _ cid) => [2, cid.toNat]
  | some (.core c _) => [3, c]
  | some (.engine c n) => [4, c, n]

/-- The destination takes a flit (R24, R465): a parity error poisons the whole transaction, whose data is discarded and
whose requester is told once; the later flits of a poisoned transaction are discarded. -/
def State.takeFlit (s : State) (f : Flit) : State :=
  let k := f.txnKey
  let held := Tbl.getD s.rel.inbox k []
  if s.rel.spoiled.contains k then
    { s with rel := { s.rel with spoiled := if f.last then delNat k s.rel.spoiled else s.rel.spoiled } }
  else if f.parityOk then
    { s with rel := { s.rel with
      inbox := if f.last then Tbl.del s.rel.inbox k else Tbl.set s.rel.inbox k (held ++ f.body) } }
  else
    let n := Tbl.getD s.rel.parity f.src 0 + 1
    let s := { s with rel := { s.rel with
      inbox := Tbl.del s.rel.inbox k
      spoiled := if f.last then s.rel.spoiled else insNat k s.rel.spoiled
      parity := Tbl.set s.rel.parity f.src n
      testing := if n = 16 then insNat f.src s.rel.testing else s.rel.testing } }
    let s := s.logFault 0x11 1 [f.dst] none [f.src] (requester f.who)
    match f.who with
    | some w => s.poisoned w
    | none => s

/-- Flits that arrived before their turn are taken as it comes, at most `fuel`. -/
def State.takeEarly (s : State) (stream : Nat) : Nat → State
  | 0 => s
  | fuel + 1 =>
    match s.rel.early.find? fun f => f.stream = stream ∧ f.ord = Tbl.getD s.rel.turn stream 0 with
    | none => s
    | some f =>
      let s := { s with rel := { s.rel with
        early := s.rel.early.filter fun g => !(g.stream = stream && g.ord = f.ord)
        turn := Tbl.set s.rel.turn stream (f.ord + 1) } }
      State.takeEarly (s.takeFlit f) stream fuel

/-- A flit arrives at its destination (R21, R22): flits of one source and class are taken in the order they were sent, over a
change of route too; a second copy of one is dropped. -/
def State.arriveFlit (s : State) (f : Flit) : State :=
  let t := Tbl.getD s.rel.turn f.stream 0
  if f.ord < t ∨ s.rel.early.any (fun g => g.stream = f.stream ∧ g.ord = f.ord) then s
  else
    let s := { s with rel := { s.rel with early := s.rel.early ++ [f] } }
    s.takeEarly f.stream s.rel.early.length

/-- A flit is granted at the input of the stop it has reached (R23): at its destination it arrives; elsewhere it goes out on
its next link. -/
def State.grantFlit (s : State) (l : Nat) (back : Bool) (f : Flit) : State :=
  let here := (laneEnds l back).2
  let s := s.modLane l back fun x => { x with held := x.held.filter fun g => g.tag ≠ f.tag, credit := x.credit + 1 }
  if here = f.dst then s.arriveFlit f
  else
    let w := s.rel.route f.src f.dst
    let next := if w.contains here then nextStop w here else nextStop (s.rel.route here f.dst) here
    match next.bind (laneOf here) with
    | some (n, b) => s.modLane n b fun y => { y with sent := y.sent ++ [f] }
    | none => s

/-- The flit a link input grants: the lowest class waiting, the earliest of it (R22, R23). -/
def Lane.pick (x : Lane) : Option Flit :=
  x.held.foldl (fun b f => match b with
    | none => some f
    | some g => if f.cls.toNat < g.cls.toNat then some f else some g) none

/-- DECK_FLIT_RECEIVE (R17, R20 to R24): the third flit in a row that fails its link check fails the link; a good one
waits at the input until it is granted. `grant` says whether the input grants in this cycle. -/
def execDeckFlitReceive (way : Way) (f : Flit) (crcOk grant : Bool) (s : State) : Host.Outcome State Fault Refusal :=
  .next (
    let x := s.rel.lane way.link way.back
    if 60 ≤ way.link ∨ (s.rel.link way.link).failed then s
    else
      let s := s.modLane way.link way.back fun x => { x with
        sent := if x.sent.any fun g => g.tag = f.tag then x.sent else x.sent ++ [f]
        bad := if crcOk then 0 else x.bad + 1
        held := if crcOk then x.held ++ [f] else x.held }
      if !crcOk then (if 2 ≤ x.bad then s.failLink way.link 2 else s)
      else if grant then
        match (s.rel.lane way.link way.back).pick with
        | some g => s.grantFlit way.link way.back g
        | none => s
      else s)

/-- DECK_ACK (R20): the oldest flits leave the replay buffer. -/
def execDeckAck (way : Way) (count : Nat) (s : State) : Host.Outcome State Fault Refusal :=
  .next (if 60 ≤ way.link then s else s.modLane way.link way.back fun x => { x with sent := x.sent.drop count })

/-- DECK_ACK_TIMEOUT (R20, R21, R464): an acknowledgement is 64 deck cycles late. -/
def execDeckAckTimeout (way : Way) (s : State) : Host.Outcome State Fault Refusal :=
  .next (if (s.rel.lane way.link way.back).sent.isEmpty then s else s.failLink way.link 1)

/-- FLIT_WAIT_LIMIT (R23): the flit is granted next, whatever its class. -/
def execFlitWaitLimit (way : Way) (tag : Nat) (s : State) : Host.Outcome State Fault Refusal :=
  .next (match (s.rel.lane way.link way.back).held.find? fun f => f.tag = tag with
    | some f => s.grantFlit way.link way.back f
    | none => s)

/-! ## On-chip SRAM (R466) -/

/-- SRAM groups: forges 0 to 15, keeper SRAM 16, flash stops 17 to 24, engine contexts 25, the key store 26, the
blank-page bits of each DRAM controller 27 to 30. -/
def sramGroups : Nat := 31

/-- An SRAM group. -/
def State.sramAt (s : State) (g : Nat) : SramGroup := Tbl.getD s.rel.sram g {}

/-- Change an SRAM group. -/
def State.modSram (s : State) (g : Nat) (f : SramGroup → SramGroup) : State :=
  { s with rel := { s.rel with sram := Tbl.set s.rel.sram g (f (s.sramAt g)) } }

/-- Spare rows left of a macro. -/
def SramGroup.left (g : SramGroup) (m : Nat) : Nat := 8 - Tbl.getD g.used m 0

/-- Enter a correction in a log of 16 entries: the word's entry, or a new one in place of the entry not flagged with
the fewest hits, oldest first; none when all are flagged. -/
def SramGroup.entry (g : SramGroup) (word : Nat) : Option (List SramEntry × SramEntry) :=
  match g.log.find? fun e => e.word = word with
  | some e => some (g.log.filter fun x => x.word ≠ word, e)
  | none =>
    let new : SramEntry := { word := word, age := g.next }
    if g.log.length < 16 then some (g.log, new)
    else
      ((g.log.filter fun e => !e.flag).foldl (fun (b : Option SramEntry) e => match b with
        | none => some e
        | some y => if e.hits < y.hits ∨ (e.hits = y.hits ∧ e.age < y.age) then some e else some y) none).map
        fun v => (g.log.filter fun x => x.word ≠ v.word, new)

/-- SRAM_CORRECTION (R466): the word is scrubbed on its 2nd hit, and a correction after the scrub flags its row. -/
def execSramCorrection (group word : Nat) (s : State) : Host.Outcome State Fault Refusal :=
  .next (if sramGroups ≤ group then s
    else match (s.sramAt group).entry word with
      | none => s
      | some (l, e) =>
        let e' : SramEntry := if e.scrub then { e with flag := true } else
          { e with hits := min (e.hits + 1) 15, scrub := 2 ≤ e.hits + 1 }
        let s := s.modSram group fun g => { g with log := l ++ [e'], next := g.next + 1 }
        let m := Config.sramMacro group word
        if e'.flag && !e.flag then
          s.logFault 0x0A 1 [group] none [m, Config.sramRow group word] [0, (s.sramAt group).left m]
        else s)

/-- The flagged rows of a group are soft-repaired in a background span window; the repair that spends a macro's last spare
row requests replacement, and a macro with none left keeps its row, with a request too (R466, R472, R473). -/
def State.repairSram (s : State) (g : Nat) : State :=
  ((s.sramAt g).log.filter fun e => e.flag).foldl (fun (s : State) e =>
    let m := Config.sramMacro g e.word
    let row := Config.sramRow g e.word
    let n := Tbl.getD (s.sramAt g).used m 0
    if !(s.sramAt g).log.any fun y => y.flag && y.word = e.word then s
    else if n < 8 then
      let s := s.modSram g fun x => { x with
        used := Tbl.set x.used m (n + 1)
        mapped := x.mapped ++ [(m, row)]
        log := x.log.filter fun y => !(y.flag && Config.sramMacro g y.word = m && Config.sramRow g y.word = row) }
      if n = 7 then (s.logFault 0x0A 3 [g] none [m, row] [1, 0]).requestRepl 4
      else s.logFault 0x0A 1 [g] none [m, row] [1, 7 - n]
    else
      let s := s.modSram g fun x => { x with log := x.log.map fun y => if y.word = e.word then { y with flag := false } else y }
      (s.logFault 0x0A 3 [g] none [m, row] [2, 0]).requestRepl 4) s

/-- In a background span window the blocks at the stops named by R465 are self-tested; one that fails is handled as
the fault of its kind. -/
def State.selfTests (s : State) (bad : List Nat) : State :=
  let now := s.rel.testing
  let s := { s with rel := { s.rel with testing := [] } }
  (now.filter fun a => bad.contains a).foldl (fun s a => s.blocksLost a) s

end Sys2Proof.Machine
end

