-- ==== Sys2Proof/Machine/Identify.lean ====
section
/-! DEFINITION. Identify and Get Log Page (R56, R71 to R73, R79, R81, R84, R86, R471). The places of fields that
the spec takes from NVMe Base 2.1 without restating them are PRESUMED (log entry 28). -/

namespace Sys2Proof.Machine

/-- A field of a data structure: offset and bytes. -/
abbrev Field := Nat × List Byte

/-- A number as a field of `k` bytes. -/
def fieldN (off k n : Nat) : Field := (off, leBytes k n)

/-- A data structure of `n` bytes given by its fields. -/
def layout (n : Nat) (l : List Field) : Data := { len := n, parts := l }

/-- ASCII text. -/
def ascii (t : String) : List Byte := t.toList.map fun c => BitVec.ofNat 8 c.toNat

/-! ## Identify Controller (R44, R72, R81, R502) -/

/-- Controller that a source speaks for, with the port of its function. -/
def State.idCtrl (s : State) (q : Src) : Nat := s.srcCtrl q

/-- A power state descriptor (R81). -/
def psd (mp : Nat) (nops : Bool) (enlat exlat rank : Nat) : List Byte :=
  leBytes 3 mp ++ [if nops then 2 else 0] ++ leBytes 4 enlat ++ leBytes 4 exlat
    ++ List.replicate 4 (BitVec.ofNat 8 rank) ++ List.replicate 16 0

/-- The five power state descriptors. -/
def psds : List Byte :=
  psd 7500 false 50 50 0 ++ psd 4500 false 50 50 1 ++ psd 2500 false 50 50 2 ++ psd 600 true 1000 2000 3
    ++ psd 150 true 10000 40000 4

/-- The subsystem name. -/
def subNqn : List Byte := ascii "nqn.2021-06.com.porob:salynu-sx640:" ++ Config.serialNumber.take 20

/-- OACS by kind (R72). -/
def oacs : CtrlKind → Nat
  | .slice => 0x000A
  | .manager => 0x0014
  | .sideband => 0x0014
  | .port => 0

/-- Identify Controller (R72). -/
def State.identifyCtrl (s : State) (q : Src) : Data :=
  let k := q.kind s
  layout 4096 [fieldN 0 2 0x1F42, fieldN 2 2 Config.subsystemVendor.toNat, (4, Config.serialNumber.take 20)
    , (24, ascii "SALYNU SX-640" ++ List.replicate 27 0x20), (64, s.dev.fw.rev), fieldN 72 1 3, fieldN 76 1 3
    , fieldN 77 1 9, fieldN 78 2 (s.idCtrl q), fieldN 80 4 0x00020100, fieldN 84 4 10000000, fieldN 88 4 1000
    , fieldN 92 4 0x300, fieldN 111 1 (if k = .slice then 1 else 3), fieldN 256 2 (oacs k), fieldN 259 1 3
    , fieldN 260 1 0x18, fieldN 261 1 6, fieldN 262 1 63, fieldN 263 1 4, fieldN 264 1 1, fieldN 265 1 1
    , fieldN 266 2 wctemp, fieldN 268 2 cctemp, fieldN 270 2 20, fieldN 319 1 1, fieldN 328 4 0x40000003, fieldN 512 1 0x66
    , fieldN 513 1 0x44, fieldN 516 4 4096, fieldN 520 2 0x000C, fieldN 524 1 4, fieldN 530 1 1, fieldN 536 4 1
    , fieldN 540 4 4096, (768, subNqn), (2048, psds), (3072, orderSuffix)]

/-! ## Identify Namespace (R73) -/

/-- NGUID: the creation count, then the Device Serial Number. -/
def Ns.nguid (n : Ns) : List Byte := leBytes 8 n.number ++ leBytes 8 Config.deviceSerial.toNat

/-- EUI64: the company identifier of the Device Serial Number, followed by the low 40 bits of shake256(NGUID, 32), highest
byte first (log entry 29). -/
def Ns.eui (n : Ns) : List Byte :=
  (leBytes 8 (Config.deviceSerial.toNat / 2 ^ 40 * 2 ^ 40 + leNat (Config.shake256 n.nguid 32) % 2 ^ 40)).reverse

/-- LBAs of an indirection unit inside the namespace. -/
def NsSpec.lbasAt (p : NsSpec) (iu : Nat) : Nat := min p.nsze ((iu + 1) * p.lbas) - iu * p.lbas

/-- NUSE: blocks whose map entry is KIND 01b or 10b. -/
def Ns.nuse (n : Ns) : Nat := n.units.foldl (fun k u => k + n.spec.lbasAt u.1) 0

/-- The fields that every namespace has alike. -/
def nsCommon : List Field :=
  [fieldN 25 1 2, fieldN 27 1 1, fieldN 28 1 0x11, fieldN 33 1 9, fieldN 128 4 0x02090000, fieldN 132 4 0x000C0000
    , fieldN 136 4 0x010C0008]

/-- Identify Namespace of a namespace. -/
def Ns.identify (n : Ns) : Data :=
  let p := n.spec
  let au := p.lbas - 1
  layout 4096 (nsCommon ++ [fieldN 0 8 p.nsze, fieldN 8 8 p.nsze, fieldN 16 8 n.nuse
    , fieldN 24 1 (if p.packed then 0x13 else 0x12), fieldN 26 1 (p.fmt + 16), fieldN 29 1 p.dps]
    ++ [34, 36, 64, 66, 68, 70, 72].map (fun o => fieldN o 2 au)
    ++ [(104, n.nguid), (120, n.eui), fieldN 3840 1 (if p.iu16 then 1 else 0), fieldN 3841 1 (if p.packed then 1 else 0)
      , fieldN 3842 1 p.cell, fieldN 3844 8 p.mapBytes])

/-- Insert into a rising list of NSIDs; the list of a slice's NSIDs above one, attached ones alone or all. -/
def State.nsids (s : State) (sl above : Nat) (all : Bool) : List Nat :=
  (((s.nsOfSlice sl).filter fun p => (all || p.2.attached) && above < p.2.nsid).foldl
    (fun l p => insNat p.2.nsid l) []).take 1024

/-- A controller list that holds one controller or none. -/
def ctrlList (ids : List Nat) : Data := layout 4096 [(0, leBytes 2 ids.length ++ ids.flatMap (leBytes 2))]

/-- What Identify answers: a status of the generic type, or its data (R71). -/
def State.identifyData (s : State) (q : Src) (e : Sqe) : Except Nat Data :=
  let cns := e.cdw10.toNat % 256
  let nsid := e.nsid.toNat
  let id := s.idCtrl q
  let zero := layout 4096 []
  let list (l : List Nat) : Data := layout 4096 [(0, l.flatMap (leBytes 4))]
  let own : Bool := e.cdw10.toNat / 65536 ≤ id
  if (cns = 5 ∨ cns = 6) ∧ e.cdw11.toNat / 2 ^ 24 ≠ 0 then .error scInvalidField
  else if cns = 1 then .ok (s.identifyCtrl q)
  else if cns = 6 then .ok zero
  else if cns = 0x1C then .ok (layout 4096 (if (q.kind s) = .slice then [fieldN 0 1 1] else []))
  else match q.slice? with
    | none =>
      if cns = 0 ∨ cns = 0x11 then .error 0x0B
      else if cns = 2 ∨ cns = 0x10 then .ok (list [])
      else if cns = 0x12 ∨ cns = 0x13 then .ok (ctrlList (if own then [id] else []))
      else .error scInvalidField
    | some sl =>
      if cns = 0x13 then .ok (ctrlList (if own then [id] else []))
      else if cns = 0x12 then
        .ok (ctrlList (match s.findNs sl nsid with
          | some (_, n) => if own && n.attached then [id] else []
          | none => []))
      else if cns = 2 ∨ cns = 0x10 then
        if 0xFFFFFFFE ≤ nsid then .error 0x0B else .ok (list (s.nsids sl nsid (cns = 0x10)))
      else if ¬ [0, 3, 5, 8, 0x11].contains cns then .error scInvalidField
      else if nsid = 0xFFFFFFFF then
        if cns = 3 ∨ cns = 0x11 then .error 0x0B else .ok (if cns = 0 then layout 4096 nsCommon else zero)
      else if nsid = 0 ∨ 4096 < nsid then .error 0x0B
      else match (s.findNs sl nsid).filter fun p => p.2.attached || cns = 0x11 with
        | none => if cns = 3 then .error 0x0B else .ok zero
        | some (_, n) =>
          if cns = 0 ∨ cns = 0x11 then .ok n.identify
          else if cns = 3 then .ok (layout 4096 [(0, [1, 8, 0, 0] ++ n.eui ++ [2, 16, 0, 0] ++ n.nguid)])
          else if cns = 8 then .ok (layout 4096 [fieldN 8 1 (if n.readOnly then 1 else 0), fieldN 14 1 1])
          else .ok zero

/-- IDENTIFY (R71 to R73). -/
def execIdentify (q : Src) (e : Sqe) (s : State) : Host.Outcome State Fault Refusal :=
  .next (s.adminCmd q e 6 onAll fun s =>
    match s.identifyData q e with
    | .error c => s.fail q e.cid 0 c
    | .ok d => s.answer q e d)

/-! ## Log pages (R79) -/

/-- The pages of a kind of controller. -/
def logPages (k : CtrlKind) : List Nat :=
  match k with
  | .slice => [0, 1, 2, 3, 4, 5, 0x81, 0xD0]
  | .port => [0, 1, 2, 3, 5]
  | _ => [0, 1, 2, 3, 5, 6, 0x81, 0xD2]

/-- Page 01h: the errors of a controller. The parameter error location is not stated: a free value (log entry 1). -/
def State.errorPage (s : State) (i : Nat) : Data :=
  let l := (Tbl.getD s.host.logs i {}).errors
  layout 4096 (l.mapIdx fun k x => (64 * k, leBytes 8 x.count ++ leBytes 2 x.sqid ++ leBytes 2 x.cid.toNat
    ++ leBytes 2 (2 * x.sc + 512 * x.sct) ++ s.freeBytes 2 ++ leBytes 8 x.lba ++ leBytes 4 x.nsid))

/-- The counts that page 02h reports to a source. -/
def State.smartCounts (s : State) (q : Src) : CtrlLog :=
  let one := Tbl.getD s.host.logs (s.idCtrl q) {}
  if onManager (q.kind s) then
    s.host.logs.foldl (fun a p => { a with
      hostRead := a.hostRead + p.2.hostRead, hostWrite := a.hostWrite + p.2.hostWrite
      bytesRead := a.bytesRead + p.2.bytesRead, bytesWritten := a.bytesWritten + p.2.bytesWritten })
      { errCount := one.errCount }
  else one

/-- Thousands of 512-byte units, rounded up. -/
def dataUnits (n : Nat) : Nat := (n + 511999) / 512000

/-- Composite temperature in kelvin. -/
def State.kelvin (s : State) : Nat := (s.dev.temp + 273).toNat

/-- Available Spare; 100 before an array is formed. -/
def State.sparePct (s : State) : Nat := if s.media.formed then s.media.availableSpare else 100

/-- Page 02h. The busy time is not stated: a free value. -/
def State.smartPage (s : State) (q : Src) : Data :=
  let c := s.smartCounts q
  let m := s.dev.smart
  layout 512 [fieldN 0 1 s.dev.warn.toNat, fieldN 1 2 s.kelvin, fieldN 3 1 s.sparePct, fieldN 4 1 10
    , fieldN 5 1 s.media.percentUsed, fieldN 32 16 (dataUnits c.bytesRead), fieldN 48 16 (dataUnits c.bytesWritten)
    , fieldN 64 16 c.hostRead, fieldN 80 16 c.hostWrite, (96, s.freeBytes 16), fieldN 112 16 m.cycles
    , fieldN 128 16 (m.piers / 3600), fieldN 144 16 m.unsafe_, fieldN 160 16 m.mediaErr, fieldN 176 16 c.errCount
    , fieldN 192 4 ((m.warnPiers - m.critPiers) / 60), fieldN 196 4 (m.critPiers / 60)]

/-- Revision of the image a firmware slot holds. -/
def FwSlot.rev (x : FwSlot) : List Byte :=
  ((x.stage2.orElse fun _ => x.stage1).map (·.rev)).getD (List.replicate 8 0)

/-- Page 03h (R84, R485). -/
def State.fwPage (s : State) : Data :=
  let f := s.dev.fw
  layout 512 (fieldN 0 1 (f.running + 16 * f.next.getD 0) :: (List.range 4).map fun k =>
    (8 + 8 * k, (Tbl.getD f.slots (k + 1) {}).rev))

/-- Page 04h. -/
def State.changedPage (s : State) (i : Nat) : Data :=
  layout 4096 [(0, ((s.ctrl i).changed.take 1024).flatMap (leBytes 4))]

/-- Admin and I/O opcodes that a controller supports (R45, R54, R57, R99). -/
def adminOpcodes (k : CtrlKind) : List Nat :=
  match k with
  | .slice => [0, 1, 2, 4, 5, 6, 8, 9, 0x0A, 0x0C, 0x0D, 0x15, 0x80, 0x84]
  | .port => [2, 6, 8, 9, 0x0A, 0x0C]
  | _ => [2, 6, 8, 9, 0x0A, 0x0C, 0x10, 0x11, 0x14, 0x84, 0xC0, 0xC1, 0xC4, 0xC5, 0xC9, 0xCA, 0xCD, 0xCE, 0xD1]

def ioOpcodes (s : State) (q : Src) : List Nat :=
  match q.slice? with
  | none => []
  | some sl => [0, 1, 2, 8, 9, 0x80, 0x81, 0x82, 0x83, 0x85, 0x86] ++
    (if (s.slice sl).verSel = 2 then [0x89] else [])

/-- Page 05h: the supported bit; the effects the spec does not state are free bits. -/
def State.effectsPage (s : State) (q : Src) : Data :=
  let w := s.freeWord.toNat
  let mark (base op : Nat) : Field := fieldN (base + 4 * op) 4 (1 + ((w / 2 ^ (op % 16)) &&& 0xF001E))
  layout 4096 ((adminOpcodes (q.kind s)).map (mark 0) ++ (ioOpcodes s q).map (mark 1024))

/-- Page 06h (R56): what runs, and the last 20 results. How far the test has come is a free value. -/
def State.testPage (s : State) : Data :=
  let now := (s.dev.test.map (·.1)).getD 0
  let pct := if s.dev.test.isSome then s.freeWord.toNat % 128 else 0
  layout 564 ([fieldN 0 1 now, fieldN 1 1 pct] ++ (List.range 20).map fun k =>
    match s.dev.results[k]? with
    | none => fieldN (4 + 28 * k) 1 0x0F
    | some r => (4 + 28 * k, [BitVec.ofNat 8 (16 * r.stc + r.result), 0, 0, 0] ++ leBytes 8 (r.piers / 3600)))

/-- Estimated seconds of a block erase (R78): 10 ms for each block, dies in parallel. A set has one block on each die of
its position. -/
def State.eraseSecs (s : State) (scope : Option Nat) : Nat :=
  let per := (List.range s.media.dpos).map fun d =>
    ((s.setsToErase scope).filter fun n => n % max 1 s.media.dpos = d).length
  (10 * per.foldl max 0 + 999) / 1000

/-- Page 81h (R78). Progress while it runs, and the Global Data Erased bit, are free values. -/
def State.sanPage (s : State) (scope : Option Nat) : Data :=
  let x := Tbl.getD s.dev.san (scope.getD 1024) {}
  let st := if x.running then 2 else if x.failed then 3 else if x.done then 1 else 0
  let w := s.freeWord.toNat
  layout 512 [fieldN 0 2 (if x.running then w else 0xFFFF), fieldN 2 2 (st + 256 * (w / 65536 % 2))
    , fieldN 4 4 x.cdw10.toNat, fieldN 8 4 0xFFFFFFFF, fieldN 12 4 (s.eraseSecs scope), fieldN 16 4 1
    , fieldN 20 4 0xFFFFFFFF, fieldN 24 4 0xFFFFFFFF, fieldN 28 4 0xFFFFFFFF]

/-- UNIT of an entry: one number as it is; two numbers, and the core of event 13h, are packed as no rule says (log entry 12). -/
def LogEntry.unitBytes (x : LogEntry) : List Byte :=
  match x.unit with
  | [n] => if x.event = 0x13 then leBytes 2 (Config.logUnit x.event x.unit).toNat else leBytes 2 n
  | _ => leBytes 2 (Config.logUnit x.event x.unit).toNat

/-- ADDR of an entry, in the same way; no rule gives a direction of the deck (event 10h) its number. -/
def LogEntry.addrBytes (x : LogEntry) : List Byte :=
  match x.addr with
  | [n] => if x.event = 0x10 then leBytes 8 (Config.logAddr x.event x.addr).toNat else leBytes 8 n
  | _ => leBytes 8 (Config.logAddr x.event x.addr).toNat

/-- DETAIL of an entry: the record of event 15h, the cause bit of event 17h, 0 where the table says so; what else it holds is packed
as no rule says. -/
def LogEntry.detailBytes (x : LogEntry) : List Byte :=
  if x.event = 0x15 then (x.detail.map (BitVec.ofNat 8) ++ List.replicate 32 0).take 32
  else if x.event = 0x17 then leBytes 32 (x.detail.headD 0)
  else if x.event = 0x13 ∨ x.event = 0x14 then List.replicate 32 0
  else (Config.logDetail x.event x.detail).toList

/-- The 64 bytes of a fault log entry (R471). -/
def LogEntry.bytes (x : LogEntry) : List Byte :=
  leBytes 8 x.seq ++ leBytes 8 x.pier.toNat ++ leBytes 2 x.span ++ leBytes 1 x.event ++ leBytes 1 x.sev
    ++ x.unitBytes ++ leBytes 2 (x.slice.getD 0xFFFF)
    ++ x.addrBytes ++ x.detailBytes

/-- Page D2h (R471). -/
def State.faultPage (s : State) : Data :=
  let l := s.rel.log
  layout 65600 ((0, [1] ++ List.replicate 7 0 ++ leBytes 8 ((l.head?.map (·.seq)).getD 0)
    ++ leBytes 8 ((l.getLast?.map (·.seq)).getD 0)) :: l.map fun x => (64 + 64 * (x.seq % 1024), x.bytes))

/-- A log page as a source reads it. -/
def State.logPageData (s : State) (q : Src) (lid : Nat) : Data :=
  let i := s.idCtrl q
  if lid = 0 then layout 1024 ((logPages (q.kind s)).map fun l => fieldN (4 * l) 1 1)
  else if lid = 1 then s.errorPage i
  else if lid = 2 then s.smartPage q
  else if lid = 3 then s.fwPage
  else if lid = 4 then s.changedPage i
  else if lid = 5 then s.effectsPage q
  else if lid = 6 then s.testPage
  else if lid = 0x81 then s.sanPage q.slice?
  else if lid = 0xD0 then s.receiptPage (q.slice?.getD 0)
  else s.faultPage

/-- A read of a page with RAE 0 clears its events; a read of page 04h clears its list (R86). -/
def State.logRead (s : State) (q : Src) (lid : Nat) (rae : Bool) : State :=
  match q with
  | .sideband => s
  | .queue i _ => s.modCtrl i fun c => { c with
      masked := if rae then c.masked else delNat lid c.masked
      changed := if lid = 4 && !rae then [] else c.changed }

/-- GET_LOG_PAGE (R79, R86, R146, R471): NUMD in CDW10 and CDW11, the offset in CDW12 and CDW13. An offset beyond the
page is an invalid field; bytes beyond the page's end read 0. -/
def execGetLogPage (q : Src) (e : Sqe) (s : State) : Host.Outcome State Fault Refusal :=
  .next (s.adminCmd q e 2 onAll fun s =>
    let lid := e.cdw10.toNat % 256
    let n := 4 * (e.cdw10.toNat / 65536 + 65536 * (e.cdw11.toNat % 65536) + 1)
    let off := e.cdw12.toNat + 2 ^ 32 * e.cdw13.toNat
    let d := s.logPageData q lid
    if !(logPages (q.kind s)).contains lid then s.fail q e.cid 1 0x09
    else if off % 4 ≠ 0 ∨ d.len ≤ off ∨ (lid = 2 ∧ e.nsid ≠ 0 ∧ e.nsid ≠ 0xFFFFFFFF) then s.fail q e.cid 0 scInvalidField
    else if adminPrpBad e n then s.fail q e.cid 0 scPrpOffset
    else ((s.drawnN 16).logRead q lid (e.cdw10.getLsbD 15)).answer q e { Data.sub d off n with len := n })

end Sys2Proof.Machine
end

