-- ==== Sys2Proof/Machine/Controller.lean ====
section
/-! DEFINITION. The command front's fetch, commands without a meaning of their own, queue deletion, enabling,
resetting and shutting down a controller (R46 to R54, R66 to R70, R97, R98, R102, R512, R549). -/

namespace Sys2Proof.Machine

/-! ## Fetching (R53, R102, R105, R257) -/

/-- Entries wait in a submission queue. -/
def Sq.waits (q : Sq) : Bool := q.head ≠ q.tail

/-- The command front fetches for a controller (R49, R70, R85, R96, R119, R477, R490, R516, R517). -/
def State.fetches (s : State) (i : Nat) : Bool :=
  let c := s.ctrl i
  c.en && c.rdy && !c.cfs && c.shst = 0 && s.ctrlExists i && s.portIssues (s.ctrlPort i) && !s.dev.fw.holding
    && !s.rel.fault && !s.dev.pwr.plpWarn && match ctrlSlice i with
      | some sl => (s.slice sl).st = .ready || (s.slice sl).st = .parked
      | none => true

/-- A controller has an entry that can be fetched. -/
def State.fetchable (s : State) (i : Nat) : Bool := s.fetches i && (s.ctrl i).sqs.any fun q => q.2.waits

/-- Rank of a slice at an arbiter: a share of 0 below every other, then the balance; of equals, the lowest number
above the previous winner (R102). -/
def State.fetchBefore (s : State) (last : Nat) (a b : Nat) : Bool :=
  let x := s.slice a
  let y := s.slice b
  let turn (n : Nat) : Nat := (n + 1023 - last) % 1024
  if (x.flash = 0) ≠ (y.flash = 0) then y.flash = 0
  else if x.balFlash ≠ y.balFlash then y.balFlash < x.balFlash
  else turn a < turn b

/-- The controller fetched for next: a port controller first, the lowest of them; then the slice ranked first. -/
def State.pickCtrl (s : State) : Option Nat :=
  match (List.range (splitPorts s.dev.split)).find? fun i => s.fetchable i with
  | some i => some i
  | none =>
    ((s.host.slices.filter fun p => s.fetchable (sliceCtrl p.1)).foldl (fun (b : Option Nat) p => match b with
      | none => some p.1
      | some y => if s.fetchBefore s.host.lastFetch p.1 y then some p.1 else some y) none).map sliceCtrl

/-- The arbitration burst (R53). -/
def Ctrl.burst (c : Ctrl) : Nat := if c.feat.ab.toNat ≤ 3 then 2 ^ c.feat.ab.toNat else 8

/-- The queue that takes the next entry and how many it has then taken in its turn: plain round robin (R53). -/
def Ctrl.pickSq (c : Ctrl) : Option (Nat × Nat) :=
  let waiting := (c.sqs.filter fun q => q.2.waits).map (·.1)
  if waiting.contains c.turn && c.taken < c.burst then some (c.turn, c.taken + 1)
  else match waiting.find? fun n => c.turn < n with
    | some n => some (n, 1)
    | none => waiting.head?.map fun n => (n, 1)

/-- ACT_N goes low, for 50 ms at least (R549). -/
def State.actLow (s : State) : State :=
  if s.busyDevice then s else { s with dev := { s.dev with pwr := { s.dev.pwr with actHold := true } } }

/-- An entry is taken from a queue. One whose CID a command of the queue still holds ends with Command ID Conflict
(log entry 32). -/
def State.fetchEntry (s : State) (i n : Nat) (e : Sqe) : State :=
  match Tbl.get? (s.ctrl i).sqs n with
  | none => s
  | some q =>
    let f : Fetched := { e := e, slot := q.head, cseq := q.sealing.map (·.cseq) }
    let clash : Bool := q.fetched.any fun x => x.e.cid = e.cid
    let s := s.actLow.modSq i n fun q => { q with
      head := (q.head + 1) % q.size
      sealing := q.sealing.map fun x => { x with cseq := x.cseq + 1 }
      fetched := if clash then q.fetched else q.fetched ++ [f] }
    if clash then (s.logError i n e.cid 0 3 e.nsid.toNat 0).post ⟨i, q.cqid, n, e.cid, 0, 3, 0, 0⟩ else s

/-- SQ_ENTRY_FETCH (R53, R102, R105, R257, R549): the chosen queue's next entry. -/
def execSqEntryFetch (e : Sqe) (s : State) : Host.Outcome State Fault Refusal :=
  .next (match s.pickCtrl with
    | none => s
    | some i => match (s.ctrl i).pickSq with
      | none => s
      | some (n, k) =>
        let at_ := match Tbl.get? (s.ctrl i).sqs n with
          | some x => (x.base + BitVec.ofNat 64 (64 * x.head)).toNat
          | none => 0
        let s := s.request true (s.ctrlPort i) (ctrlSlice i) at_ 64 false
        let s := s.modCtrl i fun c => { c with turn := n, taken := k }
        let s := match ctrlSlice i with
          | some sl => { s with host := { s.host with lastFetch := sl } }
          | none => s
        s.fetchEntry i n e)

/-! ## Commands that no row of their own takes (R45, R54, R57, R80, R533, R535) -/

/-- Opcodes that the sideband carries: the vendor tunnel those of R45, NVMe-MI those of R533. -/
def Sideband.opcodes (x : Sideband) : List Nat :=
  if x.tunnel then [0xC0, 0xC1, 0xC4, 0xC5, 0xC9, 0xCA, 0xCD, 0xCE, 0xD1] else [2, 6, 0x0A, 0x10, 0x11, 0x14, 0x84]

/-- The opcode is one that the source supports. -/
def State.supports (s : State) (q : Src) (opc : Nat) : Bool :=
  match q with
  | .sideband => s.dev.side.opcodes.contains opc
  | .queue _ n => if n = 0 then (adminOpcodes (q.kind s)).contains opc else (ioOpcodes s q).contains opc

/-- UNSUPPORTED_OPCODE (R45, R54, R57, R87, R99): Invalid Command Opcode. A Set Features of an identifier that R80 does
not list, which has no row of its own, ends here with Invalid Field. -/
def execUnsupportedOpcode (q : Src) (e : Sqe) (s : State) : Host.Outcome State Fault Refusal :=
  .next (
    let opc := e.opc.toNat
    if !s.stands q e then s
    else if !s.supports q opc then (s.begin q e.cid).fail q e.cid 0 scInvalidOpcode
    else if q.admin && opc = 9 && !featureKnown (e.cdw10.toNat % 256) then (s.begin q e.cid).fail q e.cid 0 scInvalidField
    else s)

/-! ## Deleting queues (R66 to R68) -/

/-- A waiting write or completion belongs to a queue. -/
def Paused.ofQueue (i n : Nat) : Paused → Bool
  | .data sl _ sq _ => sliceCtrl sl = i && sq = some n
  | .cqe sl p => sliceCtrl sl = i && p.sq = n
  | .port j _ _ => j = i && n = 0

/-- Commands of a queue that have not posted their completions (R66, R67). -/
def State.unposted (s : State) (i n : Nat) : Nat :=
  let c := s.ctrl i
  ((Tbl.get? c.sqs n).map (·.fetched.length)).getD 0 + (c.backlog.filter fun p => p.sq = n).length
    + (s.host.paused.filter fun p => match p with
      | .cqe sl p => sliceCtrl sl = i && p.sq = n
      | .data _ _ _ _ => false
      | .port _ _ _ => false).length

/-- A submission queue is deleted: its commands are discarded (R66). Runs and Scans stop later, at their span boundary. -/
def State.discardQueue (s : State) (i n : Nat) : State :=
  let cmds := ((Tbl.get? (s.ctrl i).sqs n).map (·.fetched)).getD []
  let s := cmds.foldl (fun (s : State) f => s.dropWork (.queue i n) f.e.cid) s
  let s := { s with
    cpu := { s.cpu with
      runs := Tbl.mapV s.cpu.runs fun _ r => if r.ctrl = i ∧ r.sq = n then { r with discarded := true } else r
      scans := Tbl.mapV s.cpu.scans fun _ r => if r.ctrl = i ∧ r.sq = n then { r with discarded := true } else r }
    host := { s.host with paused := s.host.paused.filter fun p => !p.ofQueue i n } }
  s.modCtrl i fun c => { c with
    sqs := Tbl.del c.sqs n, backlog := c.backlog.filter fun p => p.sq ≠ n }

/-- DELETE_IO_SUBMISSION_QUEUE (R66 to R68). -/
def execDeleteIoSubmissionQueue (q : Src) (e : Sqe) (s : State) : Host.Outcome State Fault Refusal :=
  .next (s.adminCmd q e 0 onSlice fun s =>
    let i := s.srcCtrl q
    let n := e.cdw10.toNat % 65536
    if n = 0 ∨ (Tbl.get? (s.ctrl i).sqs n).isNone then s.fail q e.cid 1 0x01
    else
      let k := s.unposted i n
      (s.discardQueue i n).complete q e.cid 0 0 (BitVec.ofNat 32 (k % 65536)) 0)

/-! ## Controller reset (R69) -/

/-- Reset a controller: its queues are deleted and its registers and features return to their reset values; AQA, ASQ,
ACQ and CC but EN stay, and so does SLICE.VER.SEL. -/
def State.ctrlReset (s : State) (i : Nat) : State :=
  let s := (((s.ctrl i).sqs.map (·.1))).foldl (fun (s : State) n => s.discardQueue i n) s
  let c := s.ctrl i
  let s := { s with host := { s.host with
    poolSq := s.host.poolSq + c.grantSq, poolCq := s.host.poolCq + c.grantCq } }
  s.setCtrl i { iocqes := c.iocqes, iosqes := c.iosqes, shn := c.shn, ams := c.ams, mps := c.mps, css := c.css
                aqa := c.aqa, asq := c.asq, acq := c.acq }

/-- The fields of CC that a write sets (R48). -/
def Ctrl.withCc (c : Ctrl) (v : W32) : Ctrl :=
  { c with
    iocqes := v.extractLsb' 20 4, iosqes := v.extractLsb' 16 4, shn := v.extractLsb' 14 2, ams := v.extractLsb' 11 3
    mps := v.extractLsb' 7 4, css := v.extractLsb' 4 3 }

/-- The settings of CC are accepted (R48, R513). -/
def State.ccValid (s : State) (i : Nat) (c : Ctrl) : Bool :=
  c.ams = 0 && c.mps = 0 && match ctrlSlice i with
    | some sl => c.css = 0 && (s.port (s.slice sl).port).pasidEn
    | none => c.css = 7

/-- The admin queues of AQA, ASQ and ACQ. -/
def Ctrl.adminSq (c : Ctrl) : Sq := { size := c.aqa.toNat % 4096 + 1, base := c.asq, cqid := 0 }
def Ctrl.adminCq (c : Ctrl) : Cq := { size := c.aqa.toNat / 65536 % 4096 + 1, base := c.acq, vector := 0 }

/-- SHN 01b or 10b starts a shutdown (R70). -/
def Ctrl.notified (c : Ctrl) : Bool := c.shn = 1 || c.shn = 2

/-- CC_EN_ENABLE (R48, R49, R97, R98, R484, R513): RDY follows once the device is ready. -/
def execCcEnEnable (ctrl : Nat) (value : W32) (s : State) : Host.Outcome State Fault Refusal :=
  .next (
    if !s.ctrlOpen ctrl || (s.ctrl ctrl).en || !value.getLsbD 0 then s
    else
      let s := match ctrlSlice ctrl with
        | some sl => s.modSlice sl fun x => { x with verSel := if x.verSel = 0 then 1 else x.verSel }
        | none => s
      let c := (s.ctrl ctrl).withCc value
      let c := { c with en := true }
      if !s.ccValid ctrl c || s.rel.fault then s.setCtrl ctrl { c with cfs := true }
      else
        let s := { s with dev := { s.dev with pwr := { s.dev.pwr with shut := false } } }
        s.setCtrl ctrl { c with
          rdy := s.dev.pwr.phase = 5, shst := if c.notified then 1 else 0
          sqs := [(0, c.adminSq)], cqs := [(0, c.adminCq)] })

/-- CC_EN_DISABLE (R49, R69). -/
def execCcEnDisable (ctrl : Nat) (value : W32) (s : State) : Host.Outcome State Fault Refusal :=
  .next (
    if !s.ctrlOpen ctrl || !(s.ctrl ctrl).en || value.getLsbD 0 then s
    else
      let s := (s.modCtrl ctrl fun c => c.withCc value).ctrlReset ctrl
      if s.rel.fault then s.setCfs ctrl else s)

/-- CC_SHUTDOWN_NOTIFICATION (R70): fetching stops. -/
def execCcShutdownNotification (ctrl : Nat) (value : W32) (s : State) : Host.Outcome State Fault Refusal :=
  .next (
    let c := (s.ctrl ctrl).withCc value
    if !s.ctrlOpen ctrl || (s.ctrl ctrl).en != value.getLsbD 0 || !c.notified then s
    else s.setCtrl ctrl { c with shst := if c.shst = 0 then 1 else c.shst })

/-- A controller has an outstanding command, beside Asynchronous Event Requests (R70). -/
def State.outstanding (s : State) (i : Nat) : Bool :=
  let c := s.ctrl i
  c.sqs.any (fun q => q.2.fetched.any fun f => !(q.1 = 0 && f.e.opc = 0x0C)) || !c.backlog.isEmpty
    || s.host.paused.any fun p => match p with
      | .cqe sl _ => sliceCtrl sl = i
      | .data _ _ _ _ => false
      | .port _ _ _ => false

/-- SHUTDOWN_COMPLETE (R70, R497). -/
def execShutdownComplete (ctrl : Nat) (s : State) : Host.Outcome State Fault Refusal :=
  .next (
    if (s.ctrl ctrl).shst ≠ 1 || s.outstanding ctrl then s
    else
      let s := s.modCtrl ctrl fun c => { c with shst := 2 }
      { s with dev := { s.dev with pwr := { s.dev.pwr with shut := true } } })

end Sys2Proof.Machine
end

