-- ==== Sys2Proof/Machine/Compute.lean ====
section
/-! DEFINITION. Billets, runs, local memory commands, sealed transfers and scans (R234 to R264). -/

namespace Sys2Proof.Machine

/-! ## Billets (R236 to R243) -/

/-- The header fields of a billet; entries and handlers that are absent read FFFF_FFFFh. -/
def readBillet (d : List Byte) : Billet :=
  let w (o : Nat) : Nat := leNat ((d.drop o).take 4)
  { bytes := d, fmt := (d.getD 4 0).toNat, codeLen := w 12, dataLen := w 16, benchSz := w 20, clusterSz := w 24
    entries := (List.range 16).map fun i => w (32 + 4 * i)
    handlers := (List.range 4).map fun i => w (96 + 4 * i) }

/-- The code and the initial data of a billet. -/
def Billet.code (b : Billet) : List Byte := (b.bytes.drop 128).take b.codeLen
def Billet.initial (b : Billet) : List Byte := (b.bytes.drop (128 + b.codeLen)).take b.dataLen

/-- SIGNED and KEYSLOT. -/
def billetSigned (d : List Byte) : Bool := bitOf (d.getD 5 0).toNat 0
def billetSlot (d : List Byte) : Nat := leNat ((d.drop 6).take 2)

/-- The status and code of the content checks of R241 that need no key, in their order. -/
def billetCheck (d : List Byte) : Option (Status × Nat) :=
  let b := readBillet d
  let w (o : Nat) : Nat := leNat ((d.drop o).take 4)
  let sg := billetSigned d
  let absent (x : Nat) : Bool := x = 0xFFFFFFFF
  let badOff (x : Nat) : Bool := !absent x && (x % 8 ≠ 0 || b.codeLen ≤ x)
  if d.take 4 ≠ [0x49, 0x42, 0x4C, 0x54] then some ((7, 0x81), 1)
  else if b.fmt < 1 ∨ 2 < b.fmt then some ((7, 0x82), 0)
  else if w 8 ≠ d.length then some ((7, 0x81), 2)
  else if w 8 ≠ 128 + b.codeLen + b.dataLen + (if sg then 32 else 0) then some ((7, 0x81), 3)
  else if b.codeLen % 8 ≠ 0 ∨ b.codeLen < 8 ∨ b.dataLen % 8 ≠ 0 ∨ b.benchSz < b.dataLen ∨ b.benchSz % 4096 ≠ 0
      ∨ b.benchSz < 4096 ∨ 262144 < b.benchSz ∨ b.clusterSz % 4096 ≠ 0 ∨ 196608 < b.clusterSz then some ((7, 0x81), 4)
  else if (b.entries ++ b.handlers).any badOff || absent (b.entries.headD 0xFFFFFFFF) then some ((7, 0x81), 5)
  else if 2 ≤ (d.getD 5 0).toNat || (!sg && billetSlot d ≠ 0) || w 28 ≠ 0 || ((d.drop 112).take 16).any (· ≠ 0)
      || (sg && ((d.drop (d.length - 20)).take 4).any (· ≠ 0)) then some ((7, 0x81), 6)
  else if b.fmt = 1 && (131072 < b.benchSz || b.clusterSz ≠ 0 || (b.entries.drop 1).any (fun x => !absent x)
      || !absent (b.handlers.headD 0)) then some ((7, 0x81), 7)
  else none

/-- The checks of a signed billet's key, of class 1h, and of its tag (R241, R242, R434): the code, if one fails. -/
def State.billetSeal (s : State) (sl : Nat) (d : List Byte) : Option Nat :=
  if !billetSigned d then none
  else match Tbl.get? s.hm.slots (billetSlot d) with
    | none => some 9
    | some k =>
      if k.owner ≠ .slice sl ∨ k.cls ≠ 1 then some 9
      else
        let iv := (d.drop (d.length - 32)).take 12
        let aad := d.take (d.length - 32)
        if Config.gcmTag k.key iv aad [] = d.drop (d.length - 16) then none else some 8

/-- Pages of a length, in bytes. -/
def pageUp (n : Nat) : Nat := (n + 4095) / 4096 * 4096

/-- Bytes of the slice's billet images in the pool. -/
def State.billetPool (s : State) (sl : Nat) : Nat :=
  (s.cpu.billets.filter fun p => p.1 / 16 = sl).foldl (fun n p => n + pageUp p.2.bytes.length) 0

/-- BILLET_LOAD (R240 to R242, R258): reservation, checks, measurement and load are one step. -/
def execBilletLoad (q : Src) (e : Sqe) (data : List Byte) (sealOk : Bool) (s : State) :
    Host.Outcome State Fault Refusal :=
  .next (s.ioCmd q e 0x81 false fun sl s =>
    let bid := e.cdw10.toNat % 16
    let n := e.cdw11.toNat
    if (Tbl.get? s.cpu.billets (sl * 16 + bid)).isSome then s.fail q e.cid 0 scSequence
    else if n < 128 ∨ 524288 < n ∨ n % 8 ≠ 0 then s.fail q e.cid 0 scInvalidField
    else if 524288 < s.billetPool sl + pageUp n then s.fail q e.cid 0 scInvalidField
    else match e.dptr.check n with
      | some c => s.fail q e.cid 0 c
      | none =>
        let d := data ++ s.freeBytes (n - data.length)
        let d := d.take n
        let s := (((s.drawnN (n - data.length)).moved q e.cid false n).sealCount q e.cid n).chargeFlash sl ((n + 4095) / 4096)
        if (s.sealOf q e.cid).isSome ∧ ¬ sealOk then s.fail q e.cid 0 scDataTransfer
        else match billetCheck d with
          | some ((t, c), code) => s.complete q e.cid t c (BitVec.ofNat 32 code) 0
          | none =>
            let bad := s.billetSeal sl d
            let s := if billetSigned d ∧ bad ≠ some 9 then s.meterUp sl fun m => { m with keyOps := m.keyOps + 1 } else s
            match bad with
            | some code => s.complete q e.cid 7 0x81 (BitVec.ofNat 32 code) 0
            | none =>
              let s := s.eventSmr sl 1 (BitVec.ofNat 8 bid :: List.replicate 7 0 ++ d)
              ({ s with cpu := { s.cpu with
                  billets := Tbl.set s.cpu.billets (sl * 16 + bid) (readBillet d) } }).succeed q e.cid)

/-- A Run that names a billet has been fetched and is not completed (R243). -/
def State.billetUsed (s : State) (sl bid : Nat) : Bool :=
  s.cpu.runs.any (fun p => p.2.slice = sl && p.2.bid = bid)
    || (s.ctrl (sliceCtrl sl)).sqs.any fun x => x.2.fetched.any fun f =>
      f.e.opc = 0x83 && f.e.cdw10.toNat % 16 = bid

/-- BILLET_RELEASE (R243): a forge's copy of the code is no longer resident. -/
def execBilletRelease (q : Src) (e : Sqe) (s : State) : Host.Outcome State Fault Refusal :=
  .next (s.ioCmd q e 0x80 false fun sl s =>
    let bid := e.cdw10.toNat % 16
    let s := s.chargeFlash sl 1
    if (Tbl.get? s.cpu.billets (sl * 16 + bid)).isNone then s.fail q e.cid 0 scInvalidField
    else if s.billetUsed sl bid then s.fail q e.cid 0 scSequence
    else
      ({ s with cpu := { s.cpu with
          billets := Tbl.del s.cpu.billets (sl * 16 + bid)
          forges := Tbl.mapV s.cpu.forges fun _ f => { f with
            residents := f.residents.filter fun r => !(r.slice = sl && r.bid = bid) } } }).succeed q e.cid)

/-! ## Runs (R244 to R253) -/

/-- RUN (R244, R251): the run waits for a save area and a core. -/
def execRun (q : Src) (e : Sqe) (s : State) : Host.Outcome State Fault Refusal :=
  .next (s.ioCmd q e 0x83 true fun sl s =>
    let bid := e.cdw10.toNat % 16
    let ent := e.cdw10.toNat / 16 % 16
    let out := e.cdw14.toNat
    match Tbl.get? s.cpu.billets (sl * 16 + bid) with
    | none => s.fail q e.cid 0 scInvalidField
    | some b =>
      if b.entries.getD ent 0xFFFFFFFF = 0xFFFFFFFF then s.fail q e.cid 0 scInvalidField
      else if 2097152 < out then s.fail q e.cid 0 scInvalidField
      else match (if out = 0 then none else e.dptr.check out) with
        | some c => s.fail q e.cid 0 c
        | none =>
          let r : Run :=
            { slice := sl, ctrl := sliceCtrl sl, sq := srcSq q, cid := e.cid, bid := bid, entry := ent
              arg0 := e.cdw12 ++ e.cdw11, arg1 := e.cdw13, outLen := out, spanLim := e.cdw15.toNat % 2 ^ 24 }
          { s with cpu := { s.cpu with
              runs := Tbl.set s.cpu.runs s.cpu.nextRun r, nextRun := s.cpu.nextRun + 1 } })

/-- Save areas held by a slice, and in all (R236, R251). -/
def State.areas (s : State) (sl : Nat) : Nat := (s.cpu.runs.filter fun p => p.2.saveArea && p.2.slice = sl).length
def State.areasAll (s : State) : Nat := (s.cpu.runs.filter fun p => p.2.saveArea).length

/-- A run holds a save area or can take one. -/
def State.canArea (s : State) (r : Run) : Bool := r.saveArea || (s.areas r.slice < 64 && s.areasAll < 1024)

/-- RUN_SAVE_AREA_ACQUIRE (R251): a waiting run takes a save area that has been freed. -/
def execRunSaveAreaAcquire (run : Nat) (s : State) : Host.Outcome State Fault Refusal :=
  .next (match s.runAt run with
    | none => s
    | some r => if r.ended.isNone ∧ s.canArea r then s.setRun run { r with saveArea := true } else s)

/-- What a run holds at its first instruction (R246). -/
def firstCtx (s : State) (r : Run) : Ctx :=
  let b := s.billetOf r
  let lm : W64 := BitVec.ofNat 64 (0x100000 * (s.slice r.slice).lmLimit)
  { regs := { a := #v[r.arg0, r.arg1.zeroExtend 64, BitVec.ofNat 64 r.outLen, lm, 0, 0, 0, BitVec.ofNat 64 b.benchSz]
              lk := exitAddr }
    pc := BitVec.ofNat 64 (b.entries.getD r.entry 0)
    bench := Mem.write [] 0 b.initial }

/-- The place in a forge's instruction store for `n` bytes of code: the lowest that fits between the residents kept. -/
def codePlace (l : List Resident) (n : Nat) : Option Nat :=
  let free (a : Nat) : Bool := a + n ≤ 0x100000 && l.all fun r => a + n ≤ r.base || r.base + r.len ≤ a
  (0 :: l.map fun r => r.base + r.len).filter free |>.foldl (fun b a => some (min a (b.getD a))) none

/-- The billet's code in a forge's instruction store (R251): where it is, or copied there; copies that no run of the
forge uses give way when there is no room (log entry 25). -/
def State.placeCode (s : State) (f : Nat) (r : Run) : Nat × State :=
  let b := s.billetOf r
  let g := s.forge f
  match g.residents.find? fun x => x.slice = r.slice && x.bid = r.bid with
  | some x => (x.base, s)
  | none =>
    let used (x : Resident) : Bool := s.cpu.runs.any fun p =>
      p.2.slice = x.slice && p.2.bid = x.bid && (p.2.core.map fun c => c / 9) = some f
    let kept := g.residents.filter used
    let (l, base) := match codePlace g.residents b.codeLen with
      | some a => (g.residents, a)
      | none => (kept, (codePlace kept b.codeLen).getD 0)
    (base, s.setForge f { g with
      istore := Mem.write g.istore base b.code
      residents := ⟨r.slice, r.bid, base, b.codeLen⟩ :: l })

/-- The settings of R347 and R353 for a run's operand cache. -/
def runCache (o : OpCache) (b : Billet) (lmLimit : Nat) : OpCache :=
  let v1 := b.fmt = 1
  let low (n : Nat) : BitVec 48 := BitVec.ofNat 48 (2 ^ n - 1)
  let page (n : Nat) : BitVec 52 := BitVec.ofNat 52 n
  let region (b n pol : Nat) : RatEntry := if n = 0 then {} else ⟨page b, BitVec.ofNat 3 pol, page (b + n - 1)⟩
  { o with
    en := true, drain := false, lines := [], lost := []
    user := if v1 then low 32 else low 40
    strm := if v1 then 0 else ~~~(low 40)
    supv := low 48
    rat := #v[region 0x100000 (b.clusterSz / 4096) 1, region 0x10000000 (lmLimit * 256) (if v1 then 2 else 1),
      ⟨page (2 ^ 51), 2, page (2 ^ 52 - 1)⟩, {}, {}, {}, {}, {}] }

/-- A run takes a core (R246, R252, R253, R337): its first state, or its saved one with the completions kept for it. -/
def State.giveCore (s : State) (c i : Nat) : State :=
  match s.runAt i with
  | none => s
  | some r =>
    let b := s.billetOf r
    let (base, s) := s.placeCode (c / 9) r
    let x := if r.begun then r.saved else firstCtx s r
    let x := r.kept.foldl (fun (x : Ctx) n => { x.setBit (64 + n) true with ecp := true }) x
    let f := s.forge (c / 9)
    let s := s.setForge (c / 9) { f with
      cluster := Mem.splice f.cluster (clusterBase c) b.clusterSz (if r.begun then r.savedCl else []) }
    let all (n : Nat) : List Nat := if r.begun then [] else List.range (n / 4096)
    let s := s.modCore c fun k => { k with
      ctx := x, sup := false, halted := false, run := some i, wdCount := 0, busErr := []
      pendWd := false, pendSpan := false, pendEng := x.ecp
      wBench := all b.benchSz, wCluster := all b.clusterSz
      oc := runCache k.oc b (s.slice r.slice).lmLimit
      ctl := { k.ctl with
        exl := false, ibase := BitVec.ofNat 17 (base / 8), ilim := BitVec.ofNat 18 (b.codeLen / 8) } }
    s.setRun i { r with core := some c, begun := true, saveArea := true, kept := [] }

/-- A run loses its core (R252): Span Expiry is raised and taken by the runtime, dirty lines are written back, and the
run's state goes to its save area. -/
def State.takeCore (s : State) (c : Nat) : State :=
  match (s.core c).run with
  | none => s
  | some i => match s.runAt i with
    | none => s.modCore c fun k => { k with run := none, sup := true }
    | some r =>
      let x := (s.core c).ctx
      let s := (s.enterExc c { num := excSpan }).flushCache c
      let b := s.billetOf r
      let cl := Mem.slice (s.forge (c / 9)).cluster (clusterBase c) b.clusterSz
      let s := s.modCore c fun k => { k with
        run := none, pendSpan := false, pendEng := false, pendWd := false, ctl := { k.ctl with exl := false } }
      s.setRun i { r with
        core := none, saved := { x with sxp := false }, savedCl := cl }

/-- The run has used its SPANLIM core-spans (R250). -/
def Run.atLimit (r : Run) : Bool := r.spanLim ≠ 0 && r.spanLim ≤ r.spans && r.ended.isNone

/-- The first instruction word at the saved PC of a run off its core. -/
def State.savedWord (s : State) (r : Run) : W64 :=
  let b := s.billetOf r
  let pc := r.saved.pc.toNat
  if pc % 8 = 0 ∧ pc < b.codeLen then BitVec.ofNat 64 (leNat ((b.code.drop pc).take 8)) else 0

/-- A run at its limit ends with Billet Fault, cause 20h (R250). -/
def State.endAtLimit (s : State) (i : Nat) : State :=
  match s.runAt i with
  | none => s
  | some r =>
    if !r.atLimit then s
    else match r.core with
      | some c => s.billetFault c i r (s.core c) 0x20 (s.core c).ctx.pc 0 (s.wordAt c)
      | none =>
        let k : Core := { ctx := r.saved, sup := false }
        s.setRun i { r with ended := some (faultEnd r k 0x20 r.saved.pc 0 (s.savedWord r)), eng := Tbl.mapV r.eng fun _ => abortCtx }

/-- SPANLIM_EXPIRY (R250). -/
def execSpanlimExpiry (run : Nat) (s : State) : Host.Outcome State Fault Refusal := .next (s.endAtLimit run)

/-- A discarded run stops (R66, R253, R374): no output and no completion. -/
def State.stopDiscarded (s : State) (i : Nat) : State :=
  match s.runAt i with
  | none => s
  | some r =>
    if !r.discarded ∨ r.ended.isSome then s
    else
      let e : RunEnd := { sct := 0, sc := 0, dw0 := 0, dw1 := 0, output := { len := 0, parts := [] } }
      match r.core with
      | some c => s.endRun c i r e
      | none => s.setRun i { r with ended := some e, eng := Tbl.mapV r.eng fun _ => abortCtx }

/-- RUN_COMPLETE (R247, R249, R374): once every job of the run has stopped, its output is copied, its completion is
posted and its save area is freed. A discarded run posts nothing. -/
def execRunComplete (run : Nat) (s : State) : Host.Outcome State Fault Refusal :=
  .next (match s.runAt run with
    | none => s
    | some r => match r.ended with
      | none => s
      | some x =>
        if r.eng.any fun p => p.2.busy then s
        else
          let q : Src := .queue r.ctrl r.sq
          let s := { s with cpu := { s.cpu with runs := Tbl.del s.cpu.runs run } }
          if r.discarded then s
          else match s.fetchedAt q r.cid with
            | none => s
            | some f =>
              (s.sendIo q f.e x.output).complete q r.cid x.sct x.sc (BitVec.ofNat 32 x.dw0) (BitVec.ofNat 32 x.dw1))

/-! ## Local Write and Local Read (R254, R255) -/

/-- The range and data pointer checks of R254. -/
def State.localCheck (s : State) (sl : Nat) (e : Sqe) : Option Nat :=
  let off := e.cdw10.toNat + 2 ^ 32 * e.cdw11.toNat
  let n := e.cdw12.toNat
  if off % 64 ≠ 0 ∨ n % 64 ≠ 0 ∨ n < 64 ∨ 2097152 < n ∨ 0x100000 * (s.slice sl).lmLimit < off + n then some scInvalidField
  else e.dptr.check n

/-- LOCAL_WRITE (R254, R258). -/
def execLocalWrite (q : Src) (e : Sqe) (data : List Byte) (sealOk : Bool) (s : State) :
    Host.Outcome State Fault Refusal :=
  .next (s.ioCmd q e 0x85 false fun sl s =>
    match s.localCheck sl e with
    | some c => s.fail q e.cid 0 c
    | none =>
      let n := e.cdw12.toNat
      let d := (data ++ s.freeBytes (n - data.length)).take n
      let s := (((s.drawnN (n - data.length)).moved q e.cid false n).sealCount q e.cid n).chargeFlash sl ((n + 4095) / 4096)
      if (s.sealOf q e.cid).isSome ∧ ¬ sealOk then s.fail q e.cid 0 scDataTransfer
      else (s.localWrite sl (e.cdw10.toNat + 2 ^ 32 * e.cdw11.toNat) d).succeed q e.cid)

/-- LOCAL_READ (R254): blank pages read as zeros. -/
def execLocalRead (q : Src) (e : Sqe) (s : State) : Host.Outcome State Fault Refusal :=
  .next (s.ioCmd q e 0x86 false fun sl s =>
    match s.localCheck sl e with
    | some c => s.fail q e.cid 0 c
    | none =>
      let n := e.cdw12.toNat
      let m := Mem.slice (s.localMem sl) (e.cdw10.toNat + 2 ^ 32 * e.cdw11.toNat) n
      ((s.chargeFlash sl ((n + 4095) / 4096)).sendIo q e { len := n, parts := Mem.parts m }).succeed q e.cid)

/-! ## Sealed Transfer Setup (R256) -/

/-- SEALED_TRANSFER_SETUP (R99, R256, R434): in slice interface version 2 alone; SLOT is one of class 1h. -/
def execSealedTransferSetup (q : Src) (e : Sqe) (data : List Byte) (s : State) :
    Host.Outcome State Fault Refusal :=
  .next (s.ioCmd q e 0x89 false fun sl s =>
    let n := e.cdw10.toNat % 128
    let on := e.cdw10.getLsbD 16
    let slot := e.cdw11.toNat % 65536
    let tag := leNat (data.take 8)
    let salt := leNat ((data.drop 8).take 4)
    let i := sliceCtrl sl
    let mine : Bool := match Tbl.get? s.hm.slots slot with
      | some k => k.owner = .slice sl && k.cls = 1
      | none => false
    if (s.slice sl).verSel ≠ 2 then s.fail q e.cid 0 scInvalidOpcode
    else match e.dptr.check 4096 with
      | some c => s.fail q e.cid 0 c
      | none =>
        let s := s.moved q e.cid false 4096
        if n = 0 || 64 < n || (Tbl.get? (s.ctrl i).sqs n).isNone || !mine || (on && tag % 4096 ≠ 0) then
          s.fail q e.cid 0 scInvalidField
        else
          let x : Sealing := { slot := slot, tagBase := BitVec.ofNat 64 tag, salt := BitVec.ofNat 32 salt }
          ((s.modSq i n fun y => { y with sealing := if on then some x else none }).meterUp sl fun m =>
            { m with keyOps := m.keyOps + 1 }).succeed q e.cid)

/-! ## Scans (R259 to R264) -/

/-- The filter program in a slice's local memory at a byte offset. -/
def State.progAt (s : State) (sl off : Nat) : List Byte :=
  let h := Mem.read (s.localMem sl) off 64
  Mem.read (s.localMem sl) off (progLen h)

/-- SCAN (R62, R259, R265): the checks, in their order; the Scan then waits for its program slots. -/
def execScan (q : Src) (e : Sqe) (s : State) : Host.Outcome State Fault Refusal :=
  .next (s.nsCmd q e 0x82 (fun p => [(e.slba, e.cdw12.toNat * (4096 / p.lba))]) fun sl x s =>
    let p := (s.nsx x).spec
    let out := e.cdw14.toNat
    let off := e.cdw13.toNat * 4096
    let win := 0x100000 * (s.slice sl).lmLimit
    let prog := s.progAt sl off
    let n := e.cdw12.toNat
    if p.packed then s.fail q e.cid 0 0x0B
    else if e.slba * p.lba % 4096 ≠ 0 ∨ p.nsze * p.lba < e.slba * p.lba + n * 4096 then s.fail q e.cid 0 0x80
    else if n = 0 ∨ out < 64 ∨ 2097152 < out ∨ out % 64 ≠ 0 ∨ win < off + 64 ∨ win < off + prog.length then
      s.fail q e.cid 0 scInvalidField
    else match e.dptr.check out with
      | some c => s.fail q e.cid 0 c
      | none => match progCheck prog with
        | some (code, step) => s.complete q e.cid 0 scInvalidField (BitVec.ofNat 32 (code + 256 * step)) 0
        | none =>
          let r : Scan :=
            { slice := sl, ctrl := sliceCtrl sl, sq := srcSq q, cid := e.cid, nsid := x, unit0 := e.slba * p.lba / 4096
              nunit := n, prog := prog, outLen := out }
          { s with cpu := { s.cpu with
              scans := Tbl.set s.cpu.scans s.cpu.nextScan r, nextScan := s.cpu.nextScan + 1 } })

/-- Channels that hold a unit of a Scan's range: of units on flash their channel, of units in the write buffer their
index mod 32 (R260). -/
def State.scanUnit (s : State) (r : Scan) (idx : Nat) : Option (Iu × Nat × Nat) :=
  let p := (s.nsx r.nsid).spec
  let u := r.unit0 + idx
  match Tbl.get? (s.nsx r.nsid).units (u / p.iuUnits) with
  | none => none
  | some o => match o.loc with
    | .flash set g => some (o, u % p.iuUnits, s.media.unitChan set (g / 8 + u % p.iuUnits))
    | .buffer _ => some (o, u % p.iuUnits, u % 32)

/-- The units of a Scan's range that hold data: those of the indirection units with a record. -/
def State.scanUnits (s : State) (r : Scan) : List Nat :=
  let p := (s.nsx r.nsid).spec
  (s.nsx r.nsid).units.flatMap fun y => (List.range p.iuUnits).filterMap fun k =>
    let u := y.1 * p.iuUnits + k
    if r.unit0 ≤ u ∧ u < r.unit0 + r.nunit then some (u - r.unit0) else none

/-- The channels whose filters a Scan needs, and it waits for a program slot that is free on every one. -/
def State.scanChans (s : State) (r : Scan) : List Nat :=
  ((s.scanUnits r).filterMap fun i => (s.scanUnit r i).map fun y => y.2.2).eraseDups
def State.scanCan (s : State) (r : Scan) : Bool :=
  !r.slot && !r.discarded && (s.scanChans r).all fun c => Tbl.getD s.cpu.progSlots c 0 < 8

/-- One unit of a Scan that has its slots: from the write buffer it is fed to its filter, from media its read is queued; one
known to be unrecoverable fails the Scan (R202, R260, R261). -/
def State.scanTake (s : State) (scan : Nat) (r : Scan) (i : Nat) : State :=
  match s.scanUnit r i with
  | none => s
  | some (o, k, c) => match o.loc with
    | .buffer _ => s.feedScan scan i c (Mem.read (Mem.slice o.data (k * 4096) 4096) 0 4096)
    | .flash set g =>
      if s.media.unitLost set (g / 8 + k) then
        s.modScan scan fun x => { x with failed := if x.failed.isSome then x.failed else some (2, 0x81, i) }
      else (s.modScan scan fun x => { x with waiting := x.waiting + 1 }).issueRead (.scan scan i) r.nsid
        ((r.unit0 + i) / (s.nsx r.nsid).spec.iuUnits) k set g

/-- SCAN_SLOT_ACQUIRE (R102, R260): of the Scans that can take their slots the one whose slice the arbiter picks takes
them. -/
def execScanSlotAcquire (scan : Nat) (s : State) : Host.Outcome State Fault Refusal :=
  .next (match s.arbPick s.cpu.lastSlot (·.2.slice) (s.cpu.scans.filter fun p => s.scanCan p.2) with
    | none => s
    | some (n, r) =>
      if n ≠ scan then s
      else
        let chans := s.scanChans r
        let slots := chans.foldl (fun (t : Tbl Nat) c => Tbl.set t c (Tbl.getD t c 0 + 1)) s.cpu.progSlots
        let t := { s with cpu := { s.cpu with progSlots := slots, lastSlot := r.slice } }
        let t := t.modScan scan fun x => { x with slot := true, accs := chans.foldl (fun (t : Tbl (List Nat)) c =>
          Tbl.set t c ((progKinds r.prog).map accInit)) [] }
        (s.scanUnits r).foldl (fun t i => t.scanTake scan r i) t)

/-- The output of a Scan (R262): the summary, then the entries, each padded to 8 bytes. -/
def Scan.output (r : Scan) : List Byte :=
  let kinds := progKinds r.prog
  let merged := (List.range 4).map fun j => r.accs.foldl (fun a p =>
    accMerge (kinds.getD j 0) a (p.2.getD j 0)) (accInit (kinds.getD j 0))
  let entry (x : Nat × Nat × List Byte) : List Byte :=
    leBytes 2 x.2.2.length ++ leBytes 4 x.1 ++ leBytes 2 x.2.1 ++ x.2.2
      ++ List.replicate ((8 - x.2.2.length % 8) % 8) 0
  let body := r.entries.flatMap entry
  (merged.flatMap fun a => leBytes 8 a) ++ leBytes 8 r.records ++ leBytes 8 r.matched ++ leBytes 4 r.units
    ++ leBytes 4 (min r.frameErr 0xFFFFFFFF) ++ leBytes 4 (64 + body.length) ++ [r.prog.getD 4 0, 0, 0, 0] ++ body

/-- A Scan leaves: its program slots are freed. -/
def State.dropScan (s : State) (n : Nat) (r : Scan) : State :=
  let slots := if r.slot then r.accs.foldl (fun (t : Tbl Nat) p => Tbl.set t p.1 (Tbl.getD t p.1 0 - 1)) s.cpu.progSlots
    else s.cpu.progSlots
  { s with cpu := { s.cpu with scans := Tbl.del s.cpu.scans n, progSlots := slots } }

/-- SCAN_COMPLETE (R261 to R264): after the last unit. A unit that ended in error fails the Scan; then STRICT with a
framing error; then the output's length. A discarded Scan posts nothing. -/
def execScanComplete (scan : Nat) (s : State) : Host.Outcome State Fault Refusal :=
  .next (match Tbl.get? s.cpu.scans scan with
    | none => s
    | some r =>
      if r.discarded then s.dropScan scan r
      else if !r.slot || r.waiting ≠ 0 then s
      else
        let q : Src := .queue r.ctrl r.sq
        let s := s.dropScan scan r
        match r.failed with
        | some (t, c, i) => s.complete q r.cid t c (BitVec.ofNat 32 i) 0
        | none =>
          let out := r.output
          if progStrict r.prog ∧ 0 < r.frameErr then
            s.complete q r.cid 7 0x86 (BitVec.ofNat 32 (r.firstErr.getD 0)) 0
          else if r.outLen < out.length then s.complete q r.cid 7 0x80 (BitVec.ofNat 32 out.length) 0
          else match s.fetchedAt q r.cid with
            | none => s
            | some f =>
              (s.sendIo q f.e (Data.ofBytes out)).complete q r.cid 0 0 (BitVec.ofNat 32 out.length)
                (BitVec.ofNat 32 (min r.frameErr 0xFFFFFFFF)))

end Sys2Proof.Machine
end

