-- ==== Sys2Proof/Machine/Tick.lean ====
section
/-! DEFINITION. The span tick and the pier: metering, credits, core grants, background work and the steps of a
minute (R100 to R118, R131, R154 to R171, R184, R185, R252, R406, R413, R414, R564). -/

namespace Sys2Proof.Machine

/-! ## Step 2: meters (R131) -/

/-- Bytes of the slice's LBAs whose map entry is KIND 01b or 10b. -/
def State.storedBytes (s : State) (sl : Nat) : Nat :=
  (s.nsOfSlice sl).foldl (fun n p =>
    let q := p.2.spec
    p.2.units.foldl (fun n u => n + (min (q.nsze * q.lba) ((u.1 + 1) * q.iuBytes) - u.1 * q.iuBytes)) n) 0

/-- The counts of the ended span enter the minute's totals (R116, R131). -/
def State.sampleMeters (s : State) : State :=
  { s with meter := { s.meter with slices := s.meter.slices.map fun p =>
      if p.2.closed then p
      else (p.1, { p.2 with
        spans := p.2.spans + 1
        total := p.2.total.add p.2.cur, cur := {}
        stored := p.2.stored + s.storedBytes p.1
        local4k := p.2.local4k + (Tbl.getD s.dram.clear p.1 []).length
        closed := p.2.closing }) } }

/-! ## Step 3: shares, throttle level, credits (R101, R104, R105, R563, R564) -/

/-- Accepted shares take effect, and a slice is Parked while both are 0. -/
def State.applyShares (s : State) : State :=
  { s with host := { s.host with slices := Tbl.mapV s.host.slices fun _ x =>
      let x := match x.newShares with
        | some (f, c, p) => { x with flash := f, core := c, park := p, newShares := none }
        | none => x
      let idle := x.flash = 0 ∧ x.core = 0
      let go (st : SliceSt) : SliceSt :=
        if st = .ready ∨ st = .parked then (if idle then .parked else .ready) else st
      { x with st := go x.st, before := go x.before } } }

/-- Entry temperatures of levels 1 to 3 (R563). -/
def levelEntry (l : Nat) : Int :=
  if l ≤ 1 then 105 else if l = 2 then (if Config.variantE then 110 else 108) else if Config.variantE then 114 else 112

/-- The level after a reading: entered at its value, left 2 °C below it. -/
def nextLevel (now : Nat) (t : Int) : Nat :=
  [1, 2, 3].foldl (fun l k => if levelEntry k ≤ t ∨ (k ≤ now ∧ levelEntry k - 2 < t) then k else l) 0

/-- A slice has flash work pending or executing. -/
def State.flashWork (s : State) (sl : Nat) : Bool :=
  s.media.reads.any (fun p => p.2.slice = sl && !p.2.device) || s.media.buf.any (fun b => b.slice = sl)
    || s.media.waits.any (fun w => w.slice = sl) || s.cpu.scans.any (fun p => p.2.slice = sl)
    || (s.ctrl (sliceCtrl sl)).sqs.any fun q => q.1 ≠ 0 && q.2.fetched.any fun f => !f.begun && f.e.opc ≠ 0x83

/-- A slice has compute work pending or executing. -/
def State.coreWork (s : State) (sl : Nat) : Bool :=
  s.cpu.runs.any (fun p => p.2.slice = sl && p.2.ended.isNone)
    || (s.ctrl (sliceCtrl sl)).sqs.any fun q => q.1 ≠ 0 && q.2.fetched.any fun f => !f.begun && f.e.opc = 0x83

/-- Numerator over 153,600 of capacity_flash (R101): 34,179 tokens at 4,800 MT/s on 32 channels. -/
def State.flashCap (s : State) : Nat :=
  34179 * (List.range 32).foldl (fun n c => n + (s.media.chan c).rate) 0

/-- Compute cap in 1/32 of core-spans: the lower of the power state's and the level's (R81, R563). -/
def State.capShare (s : State) : Nat :=
  let p := if s.dev.ps = 0 then 32 else if s.dev.ps = 1 then 4 else if s.dev.ps = 2 then 2 else 0
  if s.dev.level = 0 then p else if s.dev.level = 1 then p / 2 else if s.dev.level = 2 then min p 2 else 0

/-- capacity_compute (R101). -/
def State.coreCap (s : State) : Nat := s.enabledCores * s.capShare / 32

/-- A balance after a tick: credited for an active slice, no credit kept for another. -/
def creditBal (active : Bool) (bal : Int) (credit : Nat) : Int :=
  if active then min (bal + credit) (2 * credit) else min bal 0

/-- Credits of every slice (R101), with 16 fraction bits. -/
def State.creditAll (s : State) : State :=
  let fa (p : Nat × Slice) : Bool := p.2.flash ≠ 0 && s.flashWork p.1
  let ca (p : Nat × Slice) : Bool := p.2.core ≠ 0 && s.coreWork p.1
  let ft := (s.host.slices.filter fa).foldl (fun n p => n + p.2.flash) 0
  let ct := (s.host.slices.filter ca).foldl (fun n p => n + p.2.core) 0
  let fc := s.flashCap
  let cc := s.coreCap
  { s with host := { s.host with slices := s.host.slices.map fun p =>
      (p.1, { p.2 with
        balFlash := creditBal (fa p) p.2.balFlash (fc * 65536 * p.2.flash / (153600 * ft))
        balCore := creditBal (ca p) p.2.balCore (cc * 65536 * p.2.core / ct) }) } }

/-! ## Step 4: core grants (R103, R250 to R253) -/

/-- A run may be given a core: not ended, its slice has a compute share and executes, and it has or can take a save
area. -/
def State.runnable (s : State) (r : Run) : Bool :=
  r.ended.isNone && !r.discarded && s.sliceRuns r.slice true && s.canArea r

/-- The runs of a rank order that have a save area, or get one of those left (R251). -/
def State.withAreas (s : State) (l : List (Nat × Run)) : List (Nat × Run) :=
  (l.foldl (fun (a : List (Nat × Run)) p =>
    let fresh := a.filter fun x => !x.2.saveArea
    if p.2.saveArea || (s.areas p.2.slice + (fresh.filter fun x => x.2.slice = p.2.slice).length < 64
        && s.areasAll + fresh.length < 1024) then p :: a else a) []).reverse

/-- Rank of runs: the slice's compute balance; of equals, one that holds a core; then the earlier. -/
def State.runBefore (s : State) (a b : Nat × Run) : Bool :=
  let x := (s.slice a.2.slice).balCore
  let y := (s.slice b.2.slice).balCore
  if x ≠ y then y < x
  else if a.2.core.isSome ≠ b.2.core.isSome then a.2.core.isSome
  else a.1 < b.1

/-- Insert a run in rank order. -/
def State.rankIn (s : State) (a : Nat × Run) : List (Nat × Run) → List (Nat × Run)
  | [] => [a]
  | b :: l => if s.runBefore a b then a :: b :: l else b :: State.rankIn s a l

/-- A core is charged for the coming span (R100, R131). -/
def State.chargeCore (s : State) (i : Nat) : State :=
  match s.runAt i with
  | none => s
  | some r =>
    let s := s.setRun i { r with spans := r.spans + 1 }
    let s := s.meterUp r.slice fun m => { m with coreSpans := m.coreSpans + 1 }
    s.modSlice r.slice fun x => { x with balCore := x.balCore - 65536 }

/-- Cores given for the coming span: the highest-ranked runs, at most 48 changes; incoming runs first, into the cores
of the lowest-ranked outgoing runs and then into cores without a run. -/
def State.grantCores (s : State) : State :=
  let order := (s.cpu.runs.filter fun p => s.runnable p.2).foldl (fun l p => s.rankIn p l) []
  let chosen := (s.withAreas order).take s.coreCap
  let keeps (i : Nat) : Bool := chosen.any fun p => p.1 = i
  let incoming := (chosen.filter fun p => p.2.core.isNone).map (·.1)
  let held := (List.range builtCores).filterMap fun c => (s.core c).run.map fun i => (c, i)
  let ranked := (order.filterMap fun p => p.2.core).reverse
  let out := (held.filter fun x => !keeps x.2).map (·.1)
  let leaving := (out.filter fun c => !ranked.contains c) ++ ranked.filter fun c => out.contains c
  let idle := (List.range builtCores).filter fun c =>
    s.coreEnabled c && (s.core c).run.isNone && !(s.core c).stopped
  let pairs := (incoming.zip (leaving ++ idle)).take 48
  let taken := pairs.map (·.2)
  let rest := (leaving.filter fun c => !taken.contains c).take (48 - pairs.length)
  let s := (taken ++ rest).foldl (fun s c => s.takeCore c) s
  let s := pairs.foldl (fun (s : State) p => match s.runAt p.1 with
    | some r => if s.canArea r then s.giveCore p.2 p.1 else s
    | none => s) s
  ((List.range builtCores).filterMap fun c => (s.core c).run).foldl (fun s i => s.chargeCore i) s

/-- Step 4 of R116: runs at their limit, and discarded runs and scans, end (R66), then cores are given. -/
def State.stepCores (s : State) : State :=
  let s := (s.cpu.scans.filter fun p => p.2.discarded).foldl (fun s p => s.dropScan p.1 p.2) s
  let s := (s.cpu.runs.map (·.1)).foldl (fun s i => (s.stopDiscarded i).endAtLimit i) s
  s.grantCores

/-! ## Step 5: media management (R117, R154, R158 to R171, R185, R201) -/

/-- Free map entries of deleted namespaces, from 64 MiB of room in a window; a namespace freed whole leaves the table. It
answers the room left (R154). -/
def State.freeDeleted (s : State) (room : Nat) : State × Nat :=
  s.media.ns.foldl (fun (a : State × Nat) p =>
    let (s, room) := a
    if !p.2.deleted then a
    else
      let n := min room p.2.left
      let left := p.2.left - n
      let keep := left / p.2.spec.entry
      let s := ((s.nsx p.1).units.filter fun u => u.1 + keep < p.2.spec.ius).foldl (fun s u => s.freeIu p.1 u.1) s
      if left = 0 then
        let s := ((s.nsx p.1).units.map (·.1)).foldl (fun s u => s.freeIu p.1 u) s
        (s.modMedia fun m => { m with ns := Tbl.del m.ns p.1 }, room - n)
      else (s.modNs p.1 fun y => { y with left := left }, room - n)) (s, room)

/-- Free the entries that namespaces held before they were formatted or sanitized (R154). -/
def State.freeFormatted (s : State) (room : Nat) : State :=
  let old := s.media.freeing
  (old.foldl (fun (a : State × Nat) f =>
    let n := min a.2 f.left
    let keep := (f.left - n) / f.entry
    let s := (f.units.filter fun u => keep ≤ u.1).foldl (fun s u => s.dropGranules u.2.1 u.2.2) a.1
    let rest : List Freeing := if n = f.left then [] else
      [{ f with units := f.units.filter fun u => u.1 < keep, left := f.left - n }]
    (s.modMedia fun m => { m with freeing := m.freeing ++ rest }, a.2 - n))
    (s.modMedia fun m => { m with freeing := [] }, room)).1

/-- The map is freed, 64 MiB of it in a window; superseded copies of the media key table are erased (R154, R214). -/
def State.freeMap (s : State) : State :=
  let (s, room) := s.freeDeleted (2 ^ 26)
  (s.freeFormatted room).modMedia fun m => { m with tables := m.tables.filter fun t => !t.stale }

/-- Closed staging sets at a position, the one that closed first (R159). -/
def Media.oldestStaging (m : Media) (pos : Nat) : Option Nat :=
  ((m.sets.filter fun p => p.2.st = .closed && p.2.role = .staging && p.1 % max 1 m.dpos = pos).foldl
    (fun (b : Option (Nat × BlockSet)) p => match b with
      | none => some p
      | some x => if p.2.closedAt < x.2.closedAt then some p else some x) none).map (·.1)

/-- The fold level and new folds (R159). -/
def State.foldStep (s : State) (window : Bool) : State :=
  let m := s.media
  let closed := m.sets.any fun p => p.2.st = .closed && p.2.role = .staging
  let level : FoldLevel :=
    if m.spareStaging < 4 then .urgent
    else if window && closed && (m.spareStaging < 16 || !m.admitted) then .background else .none_
  let s := s.modMedia fun m => { m with fold := level }
  if level = .none_ then s
  else (List.range m.dpos).foldl (fun (s : State) pos =>
    if s.media.moves.any fun v => v.purpose = .fold && v.source % max 1 m.dpos = pos then s
    else match s.media.oldestStaging pos with
      | some n => s.startMove { purpose := .fold, source := n }
      | none => s) s

/-- Garbage collection (R161 to R163): a victim when none is being collected. -/
def State.gcStep (s : State) (window : Bool) : State :=
  let free := s.freeSets
  let fg : Bool := free < 32
  let s := s.modMedia fun m => { m with moves := m.moves.map fun v =>
    if v.purpose = .gc then { v with foreground := fg } else v }
  let quarter := s.media.candidates.any fun p => 4 * p.2.valid ≤ s.media.cap p.2
  if s.media.moves.any (fun v => v.purpose = .gc) || !(fg || (window && (free < 64 || quarter))) then s
  else match s.media.victim fg s.dev.smart.piers with
    | some (n, _) => s.startMove { purpose := .gc, source := n, foreground := fg }
    | none => s

/-- Static wear levelling (R170, R171): the destination of a move that has ended closes. -/
def State.wearStep (s : State) : State :=
  let s := if s.media.moves.any (fun v => v.purpose = .level) || s.media.transit.any (fun t => t.2.purpose = .level) then s
    else (s.media.sets.filter fun p => p.2.st = .open_ && p.2.purpose = .level).foldl (fun s p => s.fillSet p.1) s
  let m := s.media
  if m.moves.any fun v => v.purpose = .level then s
  else
    let used := m.sets.filter fun p => p.2.st ≠ .retired
    let hi := used.foldl (fun n p => max n (p.2.eec / 256)) 0
    let low := m.candidates.foldl (fun (b : Option (Nat × Nat)) p => match b with
      | none => some (p.1, p.2.eec / 256)
      | some x => if p.2.eec / 256 < x.2 then some (p.1, p.2.eec / 256) else some x) none
    match low with
    | none => s
    | some (src, lo) =>
      if hi - lo ≤ m.spread.toNat ∨ s.freeSets = 0 then s
      else match m.pickErased none true with
        | none => s
        | some dest =>
          let b := m.set src
          (s.modMedia fun m => m.openSet dest b.role b.cell .level).startMove
            { purpose := .level, source := src, dest := some dest }

/-! ## Rate steps (R184, R185) -/

/-- The highest step that the power state and the level allow: 0 when the channel idles. -/
def State.rateCap (s : State) : Nat :=
  let p := if s.dev.ps = 0 then s.media.top else if s.dev.ps = 1 then 3200 else if s.dev.ps = 2 then 800 else 0
  let l := if s.dev.level = 2 then 3200 else if s.dev.level = 3 then 800 else s.media.top
  min p l

/-- The next higher and next lower steps. -/
def upRate (top r : Nat) : Nat := if r < 800 then 800 else if r < 1600 then 1600 else if r < 3200 then 3200 else max r top
def downRate (r : Nat) : Nat := if 3200 < r then 3200 else if 1600 < r then 1600 else 800

/-- Per mille busy over the last 10 spans, `i` spans ago. -/
def busyAt (hist : List Nat) (i : Nat) : Nat := ((hist.drop i).take 10).foldl (· + ·) 0 / 10

/-- The step that busy asks for (R185): a channel that idled starts at the lowest step (log entry 26). -/
def State.rateTarget (s : State) (rate : Nat) (hist : List Nat) : Nat :=
  let cap := s.rateCap
  let up := upRate s.media.top rate
  let low := downRate rate
  let calm : Bool := 100 ≤ hist.length && (List.range 100).all fun i => busyAt hist i * rate < 600 * low
  min cap (if rate = 0 then 800
    else if 7500 < ((hist.take 10).foldl (· + ·) 0) ∧ rate < up ∧ up ≤ cap then up
    else if 800 < rate ∧ calm then low else rate)

/-- One channel's step at a tick (R185, R186): the top step while a power-loss flush is pending. -/
def State.rateStep (s : State) (c busy : Nat) : State :=
  let x := s.media.chan c
  if x.failed then s
  else
    let hist := (min busy 1000 :: x.busy).take 109
    let target := if s.dev.pwr.plpWarn then s.media.top else s.rateTarget x.rate hist
    let s := s.modMedia fun m => m.modChan c fun y => { y with busy := hist }
    if x.next.isSome ∨ target = x.rate then s
    else if target = 0 then s.modMedia fun m => m.modChan c fun y => { y with rate := 0 }
    else s.startRate c target

/-- The retraining of a pier fails on a channel (R184, R187): the next lower step, and at 800 MT/s a channel fault. -/
def State.retrainFail (s : State) (c : Nat) : State :=
  let x := s.media.chan c
  if x.failed ∨ x.next.isSome ∨ x.rate = 0 then s
  else if x.rate ≤ 800 then (s.failChannel c 1).sweepProgs
  else (s.logFault 0x03 2 [c] none [0] [x.rate, downRate x.rate]).startRate c (downRate x.rate)

/-! ## DRAM and SRAM upkeep (R392, R406, R413, R414, R466) -/

/-- One finding of the patrol scrub. -/
def State.scrubHit (s : State) (h : ScrubHit) : State :=
  if h.correctable then s.logCorrection h.cw h.dev else s.dramUncorr (h.cw * 64) 3 1

/-- Bank group of a codeword. -/
def cwGroup (cw : Nat) : Nat := dramBank (cw * 64) / 4

/-- Soft repairs used in a device's bank group. -/
def State.softUsed (s : State) (r : FlagRow) : Nat :=
  (s.dram.rows.filter fun x => x.soft && x.chan = r.chan && x.dev = r.dev && cwGroup x.cw = cwGroup r.cw
    && s.markIdx (x.cw * 64) = s.markIdx (r.cw * 64)).length

/-- Flagged rows are soft-repaired while their bank group has a resource (R414). -/
def State.softRepair (s : State) : State :=
  (s.dram.rows.filter fun r => !r.soft).foldl (fun (s : State) r =>
    let n := s.softUsed r
    if Config.softRepairs ≤ n then s
    else
      let s := { s with dram := { s.dram with rows := s.dram.rows.map fun x => if x = r then { x with soft := true } else x } }
      let s := s.modDchan r.chan fun x => { x with
        sppr := x.sppr + 1, log := x.log.filter fun e => e.cw ≠ r.cw }
      s.logFault 0x09 1 [r.chan] none [s.dramRank (r.cw * 64), dramSub (r.cw * 64), s.dramRow (r.cw * 64)]
        [0, Config.softRepairs - n - 1]) s

/-- What a background span window does beside media management. -/
def State.windowUpkeep (s : State) (env : TickEnv) : State :=
  let s := env.scrub.foldl (fun s h => s.scrubHit h) s
  let s := s.softRepair
  let s := (List.range 4).foldl (fun s c => s.modDchan c fun x => { x with relevel := false }) s
  let s := (List.range sramGroups).foldl (fun s g => s.repairSram g) s
  let s := s.selfTests env.selfTestBad
  if s.media.trained then s
  else (env.trainFail.filter (· < 32)).foldl (fun s c => s.retrainFail c) (s.modMedia fun m => { m with trained := true })

/-- The moves of a span: none while PLP_WARN_N is asserted (R175). -/
def State.stepMoves (s : State) (window : Bool) (n : Nat) : State :=
  if s.dev.pwr.plpWarn then s
  else
    let s := (s.foldStep window).gcStep window
    let s := if window then s.wearStep else s
    (s.runMoves window n).sanitizeWork

/-- Step 5 of R116. -/
def State.stepMedia (s : State) (env : TickEnv) : State :=
  let window := s.time.span % 10 = 9
  let s := (List.range 32).foldl (fun s c => s.rateStep c (env.busy.getD c 0)) s
  let s := { s with dram := { s.dram with hot := env.mr4Hot } }
  let s := if window then s.freeMap.windowUpkeep env else s
  if !s.media.formed then s
  else
    let s := (env.chanBad.filter (· < 32)).foldl (fun s c => (s.failChannel c 3).sweepProgs) s
    let s := (s.stepMoves window env.moveUnits).sweepProgs.kickAll.checkExhaust
    s.modMedia fun m => { m with admitted := false }

/-! ## The tick (R116) -/

/-- Steps 2 to 5 of a tick; nothing runs before the device is ready or in fault state. -/
def State.tick (s : State) (env : TickEnv) : State :=
  let s := { s with dev := { s.dev with side := { s.dev.side with fresh := false } } }
  if s.dev.pwr.phase ≠ 5 ∨ s.rel.fault then s
  else
    let s := s.sampleMeters.applyShares
    let s := { s with dev := { s.dev with level := nextLevel s.dev.level s.dev.temp } }
    let s := s.creditAll.stepCores
    let s := [EngineClass.crucible, .assay, .cipher, .softDecoder].foldl (fun s k => s.dispatchJobs k) s
    s.stepMedia env

/-- SPAN_TICK (R107, R115, R116): a tick inside a pier interval. Span 999 ends at the pier, whose row has its tick. -/
def execSpanTick (env : TickEnv) (s : State) : Host.Outcome State Fault Refusal :=
  .next (if 999 ≤ s.time.span ∨ !s.dev.pwr.rails ∨ s.dev.pwr.perst then s
    else
      let s := { s with
        time := { s.time with span := s.time.span + 1 }
        dev := { s.dev with pwr := { s.dev.pwr with pierOut := false } } }
      s.tick env)

/-! ## The pier (R107 to R115, R130, R132) -/

/-- A fetched command is held on a zero share of its slice, an admin command on both (R105). -/
def heldOnShare (x : Slice) (sq : Nat) (f : Fetched) : Bool :=
  !f.begun && (if sq = 0 then x.st = .parked else if f.e.opc = 0x83 then x.core = 0 else x.flash = 0)

/-- A pier passes for the commands of a controller (R105): a held command is due at its slice's park limit. -/
def State.pierCmds (s : State) (i : Nat) (c : Ctrl) : Ctrl :=
  let due (n : Nat) (f : Fetched) : Bool := match ctrlSlice i with
    | some sl =>
      let x := s.slice sl
      x.park ≠ 0 && x.verSel = 2 && heldOnShare x n f && x.park ≤ f.piers + 1
    | none => false
  { c with sqs := Tbl.mapV c.sqs fun n q => { q with fetched := q.fetched.map fun f =>
      { f with piers := f.piers + 1, due := due n f } } }

/-- One pier of upkeep: held commands, error-driven entries, parity counts, retraining, totals. -/
def State.pierUpkeep (s : State) : State :=
  let warm := if (wctemp : Int) - 273 ≤ s.dev.temp then 1 else 0
  let hot := if (cctemp : Int) - 273 ≤ s.dev.temp then 1 else 0
  let port (p : Port) : Port := { p with entries := 0, quiet := if p.entries = 0 then p.quiet + 1 else 0 }
  let s := { s with
    host := { s.host with ctrls := Tbl.mapV s.host.ctrls s.pierCmds }
    rel := { s.rel with parity := [] }
    dev := { s.dev with
      ports := Tbl.mapV s.dev.ports fun _ p => port p
      smart := { s.dev.smart with
        piers := s.dev.smart.piers + 1
        warnPiers := s.dev.smart.warnPiers + warm
        critPiers := s.dev.smart.critPiers + hot } } }
  s.modMedia fun m => { m with trained := false }

/-- A phase step is recorded and logged (R110, R112, R113). -/
def State.phaseStep (s : State) (us : Int) (src : Nat) : State :=
  let s := { s with time := { s.time with step := us, stepFlag := true } }
  s.logFault 0x02 0 [0] none [0] [(us % 2 ^ 32).toNat, src]

/-- The seconds count of a pier not taken from PTM (R111). -/
def Time.nextPier (t : Time) : W64 :=
  match t.write with
  | some w => w
  | none => if t.begun then t.pier + 1 else 0

/-- The spans of the interval that a pier cuts short: none is skipped (R112). -/
def State.cutSpans (s : State) : State :=
  (List.range (999 - s.time.span)).foldl (fun (s : State) _ =>
    State.tick { s with time := { s.time with span := s.time.span + 1 } }
      { busy := [], mr4Hot := s.dram.hot, scrub := [], trainFail := [], moveUnits := 0, selfTestBad := [] }) s

/-- A pier (R107, R108, R110, R111, R114): `act` is its source, 1 PTM, 2 TIMEPULSE, 3 made by the device; `secs` the
PTM seconds; `step` the phase step it makes. Spans left are cut short; then its tick, after which a minute pier ends the
open minute. -/
def State.takePier (s : State) (act : Nat) (secs : Option W64) (step : Option Int) (env : TickEnv) : State :=
  let s := s.cutSpans
  let t := s.time
  let ext : Bool := act ≠ 3
  let free : Bool := !ext && (t.src = 3 || (t.src = 0 && !t.extern))
  let coasted := if ext || free then 0 else t.coasted + 1
  let hold := if ext then false else t.hold || free || 10 ≤ coasted
  let s := { s with time := { t with
    span := 0
    pier := secs.getD t.nextPier
    write := none
    origin := t.origin || secs.isSome
    begun := true
    extern := t.extern || ext
    grid := if ext then BitVec.ofNat 2 act else if free then 0 else t.grid
    act := BitVec.ofNat 2 act
    lock := ext
    miss := if ext || free then 0 else min 15 (t.miss + 1)
    coasted := coasted
    hold := hold } }
  let s := match step with
    | some us => s.phaseStep us act
    | none => s
  let s := { s with dev := { s.dev with pwr := { s.dev.pwr with pierOut := t.src = 1 || t.src = 3 } } }
  (s.pierUpkeep.tick env).meterPier step.isSome

/-- TIMEPULSE is the source in play (R108). -/
def Time.pulse (t : Time) : Bool := t.src = 2 || (t.src = 0 && !t.ptm)

/-- PTM is the source in play (R108, R113). -/
def Time.byPtm (t : Time) : Bool := t.ptm && (t.src = 0 || t.src = 1)

/-- The device makes its piers at the expected time of the grid (R108): free-running, or coasting on a grid that is not
TIMEPULSE's, while the source that SRC names, or the first of its list, is not usable. -/
def Time.makes (t : Time) : Bool :=
  t.src = 3 || (t.src = 1 && !t.ptm) || (t.src = 0 && !t.ptm && t.grid ≠ 2)

/-- A pier at time `at_` less the nearest pier of the grid so far, in µs (R110). -/
def Time.offset (t : Time) (at_ : Nat) : Int := (((at_ : Int) - t.expected + 500000) % 1000000) - 500000

/-- A change to source `act` moves the phase (R113). -/
def Time.changed (t : Time) (act at_ : Nat) : Option Int :=
  if t.begun && t.grid ≠ BitVec.ofNat 2 act && t.offset at_ ≠ 0 then some (t.offset at_) else none

/-- Two times lie within the window of each other (R112). -/
def near (a b : Nat) : Bool := a ≤ b + 250 && b ≤ a + 250

/-- What an edge of TIMEPULSE at a time does while it is the source (R112): `some none` is a pier in its window, with
the step of a change of source inside; a relock carries its step; `none` is a spurious edge. -/
def Time.edge (t : Time) (at_ : Nat) : Option (Option Int) :=
  if near at_ t.expected then some (t.changed 2 at_)
  else match t.edges with
    | [a, _] => if near at_ (a + 1000000) then some (some (t.offset at_)) else none
    | _ => none

/-- The pier that an external source marks at a time; one of TIMEPULSE ends a chain of spurious edges. -/
def State.pierAt (s : State) (at_ act : Nat) (secs : Option W64) (step : Option Int) (env : TickEnv) : State :=
  State.takePier { s with time := { s.time with
    expected := at_ + 1000000, edges := if act = 2 then [] else s.time.edges } } act secs step env

/-- PIER (R108, R112 to R114): taken from PTM or TIMEPULSE where SRC and the source's state allow it, else made by the
device. -/
def execPier (src : PierSource) (env : TickEnv) (s : State) : Host.Outcome State Fault Refusal :=
  .next (
    let t := s.time
    if !s.dev.pwr.rails ∨ s.dev.pwr.perst then s
    else match src with
      | .ptm secs at_ => if t.byPtm then s.pierAt at_ 1 (some secs) (t.changed 1 at_) env else s
      | .timepulse at_ => if !t.pulse then s else match t.edge at_ with
        | some step => s.pierAt at_ 2 none step env
        | none => s
      | .own => if t.makes then
          State.takePier { s with time := { t with expected := t.expected + 1000000 } } 3 none none env else s)

/-- TIMEPULSE_EDGE (R112, R115): `t` is the edge's time in µs since reset. -/
def execTimepulseEdge (t : Nat) (env : TickEnv) (s : State) : Host.Outcome State Fault Refusal :=
  .next (
    let x := s.time
    let chain := t :: (x.edges.take 1).filter fun a => near t (a + 1000000)
    if !s.dev.pwr.rails || s.dev.pwr.perst || x.src = 1 || x.src = 3 then s
    else if !x.pulse then { s with time := { x with edges := chain } }
    else match x.edge t with
      | some step => s.pierAt t 2 none step env
      | none => { s with time := { x with spur := min 0xFFFF (x.spur + 1), edges := chain } })

/-- TIMEPULSE_WINDOW_CLOSE (R108, R112, R114): TIMEPULSE named by SRC, or the grid its own, and no edge in the window of
the expected pier: the device coasts, and the grid does not move. -/
def execTimepulseWindowClose (t : Nat) (env : TickEnv) (s : State) : Host.Outcome State Fault Refusal :=
  .next (
    let x := s.time
    if !s.dev.pwr.rails || s.dev.pwr.perst || !x.pulse || (x.src = 0 && x.grid ≠ 2) || t < x.expected + 250 then s
    else ({ s with time := { x with expected := x.expected + 1000000 } }).takePier 3 none none env)

/-! ## PTM dialogues (R113, R520) -/

/-- A dialogue has ended: three failures in a row make PTM unusable, three successes usable. -/
def Time.dialogueEnd (t : Time) (good : Bool) : Time :=
  let okN := if good then min 3 (t.ptmOk + 1) else 0
  let badN := if good then 0 else min 3 (t.ptmFail + 1)
  { t with dialogue := false, ptmOk := okN, ptmFail := badN
           ptm := if 3 ≤ okN then true else if 3 ≤ badN then false else t.ptm }

/-- PTM_DIALOGUE_START (R113, R520): with the manager port's link down the dialogue fails. -/
def execPtmDialogueStart (s : State) : Host.Outcome State Fault Refusal :=
  .next (if (s.port s.dev.mgrPort).linkUp then { s with time := { s.time with dialogue := true } }
    else { s with time := s.time.dialogueEnd false })

/-- PTM_RESPONSE (R520): its adjusted time departs from the local divider by so many µs. -/
def execPtmResponse (departureUs : Nat) (s : State) : Host.Outcome State Fault Refusal :=
  .next (if s.time.dialogue then { s with time := s.time.dialogueEnd (departureUs ≤ 250) } else s)

/-- PTM_RESPONSE_TIMEOUT (R520). -/
def execPtmResponseTimeout (s : State) : Host.Outcome State Fault Refusal :=
  .next (if s.time.dialogue then { s with time := s.time.dialogueEnd false } else s)

/-! ## Park limits and time registers (R105, R109, R111, R550) -/

/-- PARK_LIMIT_EXPIRY (R13, R99, R105): with slice interface version 2 and PARKLIM not 0, every command that had waited for
PARKLIM piers at the last pier, and is still held, completes with Share Parked. -/
def execParkLimitExpiry (slice : Nat) (s : State) : Host.Outcome State Fault Refusal :=
  .next (
    let x := s.slice slice
    if x.park = 0 ∨ x.verSel ≠ 2 ∨ (x.st ≠ .ready ∧ x.st ≠ .parked) then s
    else
      let i := sliceCtrl slice
      (s.ctrl i).sqs.foldl (fun (s : State) q =>
        (q.2.fetched.filter fun f => f.due && heldOnShare x q.1 f && x.park ≤ f.piers).foldl (fun (s : State) f =>
          s.fail (.queue i q.1) f.e.cid 7 0x84) s) s)

/-- TIME_PIER_WRITE (R111): the seconds count of the next pier; ignored while PTM is the source. -/
def execTimePierWrite (value : W64) (s : State) : Host.Outcome State Fault Refusal :=
  .next (if s.time.byPtm then s
    else { s with time := { s.time with write := some value, origin := true } })

/-- TIME_CTL_WRITE (R109, R550): a change to 00b or 10b ends a pulse of PIER_OUT. -/
def execTimeCtlWrite (value : W32) (s : State) : Host.Outcome State Fault Refusal :=
  .next (
    let v : BitVec 2 := value.truncate 2
    { s with
      time := { s.time with src := v }
      dev := { s.dev with pwr := { s.dev.pwr with pierOut := s.dev.pwr.pierOut && (v = 1 || v = 3) } } })

end Sys2Proof.Machine
end

