-- ==== Sys2Proof/Machine/Registers.lean ====
section
/-! DEFINITION. Reads and writes of registers over PCI Express: the controller registers of BAR0 and of the
slice pages, and the device control registers of BAR4 (R10, R11, R46 to R49, R97, R106, R507 to R512, R522 and
the register rules of each chapter). -/

namespace Sys2Proof.Machine

/-- A bit as a number. -/
def bit (b : Bool) : Nat := if b then 1 else 0

/-! ## Controller registers (R46 to R49) -/

/-- CTL.CAP (R47). -/
def State.capReg (s : State) (i : Nat) : Nat :=
  2 ^ 59 + (if s.kindOf i = .slice then 1 else 0x80) * 2 ^ 37 + 0x14 * 2 ^ 24 + 2 ^ 16 + 0x0FFF

/-- CTL.CC (R48). -/
def Ctrl.ccReg (c : Ctrl) : Nat :=
  c.iocqes.toNat * 2 ^ 20 + c.iosqes.toNat * 2 ^ 16 + c.shn.toNat * 2 ^ 14 + c.ams.toNat * 2 ^ 11
    + c.mps.toNat * 2 ^ 7 + c.css.toNat * 2 ^ 4 + bit c.en

/-- CTL.CSTS (R49): PP reads 1 during firmware activation without reset. -/
def State.cstsReg (s : State) (i : Nat) : Nat :=
  let c := s.ctrl i
  bit s.dev.fw.holding * 32 + c.shst.toNat * 4 + bit c.cfs * 2 + bit c.rdy

/-- The controller registers by offset: width in bytes and value (R46). -/
def State.ctlReg (s : State) (i off : Nat) : Option (Nat × Nat) :=
  let c := s.ctrl i
  match off with
  | 0x00 => some (8, s.capReg i)
  | 0x08 => some (4, 0x00020100)
  | 0x0C => some (4, c.intm.toNat)
  | 0x10 => some (4, c.intm.toNat)
  | 0x14 => some (4, c.ccReg)
  | 0x1C => some (4, s.cstsReg i)
  | 0x24 => some (4, c.aqa.toNat)
  | 0x28 => some (8, c.asq.toNat)
  | 0x30 => some (8, c.acq.toNat)
  | 0x68 => some (4, 0x14)
  | _ => none

/-- One entry of an interrupt message table as 16 bytes (R518). -/
def MsgEntry.reg (m : MsgEntry) : Nat :=
  m.lo.toNat + m.hi.toNat * 2 ^ 32 + m.data.toNat * 2 ^ 64 + bit m.mask * 2 ^ 96

/-- An interrupt message table of `n` entries and its pending bits, at their offsets in a page (R507, R509). -/
def Ctrl.msgReg (c : Ctrl) (table pba n off : Nat) : Option (Nat × Nat) :=
  if table ≤ off ∧ off < table + 16 * n ∧ off % 8 = 0 then
    some (8, (Tbl.getD c.store ((off - table) / 16) {}).reg / 2 ^ (8 * ((off - table) % 16)) % 2 ^ 64)
  else if off = pba then some (8, c.pend.foldl (fun v k => v + 2 ^ k) 0)
  else none

/-- The registers of BAR0 (R507) and of a slice page (R97, R234, R509). -/
def State.bar0Reg (s : State) (i off : Nat) : Option (Nat × Nat) :=
  (s.ctlReg i off).orElse fun _ => (s.ctrl i).msgReg 0x8000 0x9000 1 off

/-- See `bar0Reg`. -/
def State.sliceReg (s : State) (sl off : Nat) : Option (Nat × Nat) :=
  if off = 0xE80 then some (4, 0x02010000 + (s.slice sl).verSel.toNat)
  else if off = 0xE84 then some (4, 0x02010201)
  else (s.ctlReg (sliceCtrl sl) off).orElse fun _ => (s.ctrl (sliceCtrl sl)).msgReg 0x2000 0x3000 64 off

/-- A slice page decodes on a port (R96, R509). -/
def State.pageDecodes (s : State) (port sl : Nat) : Bool :=
  let x := s.slice sl
  x.st ≠ .absent && !x.rebinding && x.port = port && sl < 1024

/-! ## Device control registers: BAR4 (R510) -/

/-- DEV.ID (R512). -/
def State.devId (s : State) : Nat :=
  let n := splitPorts s.dev.split
  0xA2 * 2 ^ 32 + (if Config.variantE then 0x45 else 0x43) * 2 ^ 24 + s.dev.mgrPort % 4 * 2 ^ 18
    + (if n = 2 then 1 else if n = 4 then 2 else 0) * 2 ^ 16 + 0x0640

/-- TIME.STAT (R110). -/
def Time.stat (t : Time) : Nat :=
  min t.spur 0xFFFF * 2 ^ 16 + min t.miss 15 * 2 ^ 8 + bit t.hold * 128 + t.act.toNat * 8 + bit t.stepFlag * 4
    + bit t.lock * 2

/-- Number of a slice state (R106). -/
def SliceSt.num : SliceSt → Nat
  | .absent => 0
  | .ready => 1
  | .parked => 2
  | .resetting => 3
  | .rebinding => 4
  | .deleting => 5

/-- SLC.SHARE of a slice (R106). -/
def Slice.shareReg (x : Slice) : Nat :=
  if x.st = .absent then 0
  else x.st.num * 2 ^ 48 + x.park * 2 ^ 32 + x.core * 2 ^ 16 + x.flash

/-- MIG.TAIL: the index of the next record to be written (R128). -/
def MigLog.tail (l : MigLog) : Nat := if l.size = 0 then 0 else l.sent % l.size

/-- METER.CTL (R135) and METER.STAT (R142). -/
def Meter.ctl (m : Meter) : Nat := 0x02100000 + m.fsel.toNat * 2 ^ 16 + m.member.toNat
/-- See `Meter.ctl`. -/
def Meter.stat (m : Meter) : Nat := bit (!m.closed.isEmpty) * 2 + bit m.held

/-- MM.STAT (R178). -/
def State.mmStat (s : State) : Nat :=
  let m := s.media
  if !m.formed then 0
  else
    (List.range 32).foldl (fun n c => min n (m.chanSpares c)) 0xFFFF * 2 ^ 48 + bit m.exhaust * 2 ^ 43
      + bit (s.freeSets < 32) * 2 ^ 42 + bit (m.fold = .urgent) * 2 ^ 41
      + bit (m.moves.any fun v => v.purpose = .level) * 2 ^ 40
      + m.spareStaging % 2 ^ 20 * 2 ^ 20 + s.freeSets % 2 ^ 20

/-- MM.MAP (R179). -/
def State.mmMap (s : State) : Nat :=
  s.mapBudget / 2 ^ 20 * 2 ^ 32 + (s.mapBudget - s.media.mapUsed) / 2 ^ 20

/-- RATE of FL.CHSTAT (R189). -/
def rateCode (r : Nat) : Nat :=
  if r = 0 then 0 else if r ≤ 800 then 1 else if r ≤ 1600 then 2 else if r ≤ 3200 then 3 else if r ≤ 3600 then 4 else 5

/-- FL.CHSTAT of the channel that FL.CHSEL names (R189). -/
def State.chStat (s : State) : Nat :=
  let c := s.media.chSel.toNat
  let x := s.media.chan c
  min x.recov 255 * 2 ^ 16 + rateCode x.rate * 2 ^ 10 + s.media.sig.toNat * 2 ^ 8 + bit x.failed * 2 ^ 7
    + bit (s.media.degr c) * 2 ^ 6 + (s.media.dieBad.filter fun d => d % 32 = c).length

/-- DRAM.CFG (R390). -/
def State.dramCfg (s : State) : Nat :=
  s.dev.dRate.toNat * 2 ^ 9 + s.dev.dDens.toNat * 2 ^ 7 + bit s.dev.dRanks * 2 ^ 6 + bit s.dram.trained

/-- DRAM.CEL (R417). -/
def CelEntry.reg (e : CelEntry) : Nat :=
  2 ^ 63 + bit e.scrub * 2 ^ 62 + bit e.flag * 2 ^ 61 + min e.hits 15 * 2 ^ 56 + e.dev * 2 ^ 36 + e.cw % 2 ^ 32

/-- Hard repairs taken from the bank group of a row (R415). -/
def State.hardUsed (s : State) (r : FlagRow) : Nat :=
  (s.dram.hardRows.filter fun x => x.chan = r.chan && x.dev = r.dev && cwGroup x.cw = cwGroup r.cw
    && s.markIdx (x.cw * 64) = s.markIdx (r.cw * 64)).length

/-- DRAM.STAT of the channel that DRAM.CELSEL names (R418). -/
def State.dramStat (s : State) : Nat :=
  let c := s.dram.selCh.toNat
  let x := s.dchan c
  let most := (s.dram.hardRows.filter fun r => r.chan = c).foldl (fun n r => max n (s.hardUsed r)) 0
  min x.panics 0xFFFF * 2 ^ 32 + x.sppr % 256 * 2 ^ 24 + (Config.hardRepairs - most) % 256 * 2 ^ 16
    + min x.uncorr 255 * 2 ^ 8 + x.marks.foldl (fun v p => v + 2 ^ p.1) 0

/-- ECC.TEST (R419). -/
def Dram.testReg (d : Dram) : Nat :=
  bit d.busy * 2 ^ 31 + d.res.toNat * 2 ^ 26 + d.nsym.toNat * 2 ^ 21 + d.taddr.toNat * 2 ^ 4

/-- HM.STAT (R447). -/
def Hallmark.stat (h : Hallmark) : Nat :=
  h.fwSvn * 2 ^ 56 + h.imgSvn.toNat * 2 ^ 48 + h.sealGen % 2 ^ 16 * 2 ^ 32 + 2 * 2 ^ 24 + 1 * 2 ^ 16
    + min h.tampers 15 * 2 ^ 8 + bit (237500000 ≤ h.nvWrites) * 8 + bit h.signing.isSome * 4 + bit h.unlocked * 2
    + bit h.ready

/-- HM.MDCTL and HM.MDSTAT (R432). -/
def Hallmark.mdCtl (h : Hallmark) : Nat := h.mdSlot.toNat * 2 ^ 16 + bit h.mdKeyed * 2 ^ 8 + h.mdTarget.toNat
/-- See `mdCtl`. -/
def Hallmark.mdStat (h : Hallmark) : Nat := h.mdState.toNat * 2 ^ 62 + h.mdMsg.length % 2 ^ 40

/-- The register that HM.MRSEL names (R433). -/
def State.selectedMr (s : State) : List Byte :=
  let i := s.hm.mrSel.toNat
  if i < 32 then s.mr i else if 0x400 ≤ i then s.smr (i - 0x400) else zeros64

/-- Units out of service of a class (R475). -/
def State.unitsOut (s : State) (cls : EngineClass) : Nat :=
  ((List.range (classUnits cls)).filter fun u => !(s.unit cls u).inService).length

/-- Marked devices of all channels (R475). -/
def State.marked (s : State) : Nat := (List.range 4).foldl (fun n c => n + (s.dchan c).marks.length) 0

/-- Engine units of every class out of service (R475). -/
def State.enginesOut (s : State) : Nat :=
  s.unitsOut .crucible + s.unitsOut .assay + s.unitsOut .cipher + s.unitsOut .softDecoder

/-- Failed channels. -/
def Media.chansFailed (m : Media) : Nat := (m.chans.filter fun p => p.2.failed).length

/-- REL.STAT (R475): its fields take their values at the end of power-up. -/
def State.relStat (s : State) : Nat :=
  if s.dev.pwr.phase ≠ 5 then 0
  else
    s.enabledCores * 2 ^ 50 + ((List.range 16).filter s.spareFree).length * 2 ^ 45 + s.rel.pairs.length * 2 ^ 42
      + s.rel.linksBad.length * 2 ^ 36 + s.enginesOut * 2 ^ 30 + s.media.chansFailed * 2 ^ 24
      + s.media.dieBad.length * 2 ^ 13 + s.marked * 2 ^ 8 + bit (s.rel.repl ≠ 0)

/-- PWR.STAT (R498): step 2 of R495 runs while the write buffer holds anything. -/
def State.pwrStat (s : State) : Nat :=
  let p := s.dev.pwr
  s.media.wb * 2 ^ 24 + p.lastDown.toNat * 2 ^ 16 + p.phase.toNat * 32 + bit p.plpWarn * 16 + bit p.holdup * 8
    + bit s.media.wthru * 4 + bit (s.media.wthru && !s.media.buf.isEmpty) * 2

/-- PORT.STAT of the port that PORT.SEL names (R522). -/
def State.portStat (s : State) : Nat :=
  let p := s.dev.portSel.toNat
  let x := s.port p
  if splitPorts s.dev.split ≤ p then 0
  else
    min x.recov 0xFFFF * 2 ^ 32 + min x.downsh 255 * 2 ^ 16 + (if x.linkUp then x.width * 2 ^ 8 + x.speed * 2 ^ 5 else 0)
      + bit (x.linkUp && x.flit) * 16 + bit (p = s.dev.mgrPort && s.time.ptm) * 8 + bit (x.cap < 6) * 4 + bit x.linkUp

/-- A migration log by index: running, or stopped with its positions standing (R125, R128). -/
def HostSide.migAt (h : HostSide) (n : Nat) : Option MigLog :=
  (Tbl.get? h.mig n).orElse fun _ => Tbl.get? h.migOld n

/-- The device control registers by offset: width in bytes and value (R510). Write-only registers read 0. -/
def State.bar4Reg (s : State) (off : Nat) : Option (Nat × Nat) :=
  match off with
  | 0x0000 => some (8, s.devId)
  | 0x1000 => some (4, s.time.src.toNat)
  | 0x1004 => some (4, s.time.stat)
  | 0x1008 => some (4, (BitVec.ofInt 32 s.time.step).toNat)
  | 0x100C => some (4, s.time.span % 1024)
  | 0x1010 => some (8, s.time.pier.toNat)
  | 0x2000 => some (4, s.host.slcSel.toNat)
  | 0x2008 => some (8, (s.slice s.host.slcSel.toNat).shareReg)
  | 0x4000 => some (4, s.meter.ctl)
  | 0x4004 => some (4, s.meter.stat)
  | 0x4008 => some (8, s.meter.last.toNat)
  | 0x5000 => some (8, s.mmStat)
  | 0x5008 => some (8, s.mmMap)
  | 0x5010 => some (4, s.media.spread.toNat)
  | 0x6000 => some (4, s.media.chSel.toNat)
  | 0x6004 => some (4, s.chStat)
  | 0x7000 => some (4, s.dramCfg)
  | 0x7004 => some (4, s.dram.btNext % 256 * 2 ^ 16 + s.dram.btSize % 256)
  | 0x7008 => some (4, s.dram.rfmTh.toNat * 2 ^ 16 + s.dram.age.toNat)
  | 0x700C => some (4, s.dram.selCh.toNat * 32 + s.dram.selIdx.toNat)
  | 0x7010 => some (8, (((s.dchan s.dram.selCh.toNat).log[s.dram.selIdx.toNat]?).map CelEntry.reg).getD 0)
  | 0x7018 => some (8, s.dramStat)
  | 0x8000 => some (4, s.dram.testReg)
  | 0x8008 => some (8, s.dram.flip.toNat)
  | 0x9000 => some (8, s.hm.stat)
  | 0x9008 => some (4, s.hm.mdCtl)
  | 0x9018 => some (8, s.hm.mdStat)
  | 0x9020 => some (4, s.hm.mrSel.toNat)
  | 0xA000 => some (4, s.rel.repl.toNat)
  | 0xA008 => some (8, s.relStat)
  | 0xB000 => some (4, s.pwrStat)
  | 0xC000 => some (4, s.dev.portSel.toNat)
  | 0xC008 => some (8, s.portStat)
  | off =>
    if 0x3000 ≤ off ∧ off < 0x3080 ∧ off % 4 = 0 then
      (s.host.migAt ((off - 0x3000) / 8)).map fun l => (4, if off % 8 = 0 then l.head else l.tail)
    else if 0x8040 ≤ off ∧ off < 0x8090 ∧ off % 8 = 0 then some (8, (s.dram.tbuf.toList.getD ((off - 0x8040) / 8) 0).toNat)
    else if 0x9040 ≤ off ∧ off < 0x9080 ∧ off % 8 = 0 then
      some (8, leNat ((s.selectedMr.drop (off - 0x9040)).take 8))
    else if 0x9080 ≤ off ∧ off < 0x90A0 ∧ off % 8 = 0 then
      some (8, leNat ((s.hm.challenge.drop (off - 0x9080)).take 8))
    else none

/-! ## Reads (R508, R511) -/

/-- The byte at an offset of a register map. -/
def mapByte (f : Nat → Option (Nat × Nat)) (o : Nat) : Byte :=
  match f (o / 8 * 8) with
  | some (8, v) => BitVec.ofNat 8 (v / 2 ^ (8 * (o % 8)))
  | _ => match f (o / 4 * 4) with
    | some (4, v) => BitVec.ofNat 8 (v / 2 ^ (8 * (o % 4)))
    | _ => 0

/-- The register map that a window's offset lies in, and the offset in it; doorbells, whose read values NVMe
leaves to the vendor, have none (log entry 33). -/
def State.windowMap (s : State) (win : Window) (o : Nat) : Nat → Option (Nat × Nat) :=
  match win with
  | .bar0 p => if p < splitPorts s.dev.split then s.bar0Reg p else fun _ => none
  | .bar2 p =>
    if s.pageDecodes p (o / 0x10000) then s.sliceReg (o / 0x10000) else fun _ => none
  | .bar4 => s.bar4Reg

/-- Size of the page that a window's registers repeat in. -/
def windowSize : Window → Nat
  | .bar0 _ => 0x10000
  | .bar2 _ => 0x10000
  | .bar4 => 0x100000

/-- An offset is in the doorbells of a controller that exists. -/
def State.isDoorbell (s : State) (win : Window) (o : Nat) : Bool :=
  match win with
  | .bar0 p => p < splitPorts s.dev.split && 0x1000 ≤ o && o < 0x1208
  | .bar2 p => s.pageDecodes p (o / 0x10000) && 0x1000 ≤ o % 0x10000 && o % 0x10000 < 0x1208
  | .bar4 => false

/-- One byte of a read; `k` numbers it for a free value. -/
def State.regByte (s : State) (win : Window) (o k : Nat) : Byte :=
  if s.isDoorbell win o then BitVec.ofNat 8 (Config.freeNat (s.free + k))
  else mapByte (s.windowMap win o) (o % windowSize win)

/-- A read of `n` bytes from `o` addresses one of `k` bytes from `a`. -/
def touches (o n a k : Nat) : Bool := o < a + k && a < o + n

/-- A read clears the RC fields that it addresses (R10, R511; log entry 34). -/
def State.clearRc (s : State) (o n : Nat) : State :=
  let s := if touches o n 0x1006 2 then { s with time := { s.time with spur := 0 } } else s
  let s := if touches o n 0x6006 1 then
      s.modMedia fun m => m.modChan m.chSel.toNat fun c => { c with recov := 0 }
    else s
  let s := if touches o n 0x701C 2 then s.modDchan s.dram.selCh.toNat fun x => { x with panics := 0 } else s
  let s := if touches o n 0x7019 1 then s.modDchan s.dram.selCh.toNat fun x => { x with uncorr := 0 } else s
  let p := s.dev.portSel.toNat
  let modPort (s : State) (f : Port → Port) : State :=
    if p < splitPorts s.dev.split then
      { s with dev := { s.dev with ports := Tbl.set s.dev.ports p (f (s.port p)) } }
    else s
  let s := if touches o n 0xC00C 2 then modPort s fun x => { x with recov := 0 } else s
  if touches o n 0xC00A 1 then modPort s fun x => { x with downsh := 0 } else s

/-- RC_REGISTER_READ (R10, R46, R507 to R511): a read of any register, RC or not; the bytes return eight at a
time. -/
def execRcRegisterRead (win : Window) (off size : Nat) (s : State) : Host.Outcome State Fault Refusal :=
  .next (
    let bs := (List.range size).map fun k => s.regByte win (off + k) k
    let words := (List.range ((size + 7) / 8)).map fun j =>
      (off + 8 * j, BitVec.ofNat 64 (leNat ((bs.drop (8 * j)).take 8)))
    let s := { s.drawnN size with out := { s.out with reads := words.reverse ++ s.out.reads } }
    match win with
    | .bar4 => s.clearRc off size
    | _ => s)

/-! ## Writes (R10, R11, R46, R48, R97, R508, R511) -/

/-- Replace the low or high half of a 64-bit register. -/
def setHalf (w : W64) (high : Bool) (v : W32) : W64 :=
  if high then (v ++ w.extractLsb' 0 32 : BitVec 64) else (w.extractLsb' 32 32 ++ v : BitVec 64)

/-- A base address of a queue: bits 11:0 are reserved. -/
def queueBase (w : W64) : W64 := w &&& 0xFFFFFFFFFFFFF000#64

/-- A 4-byte write of a controller register. A write of CC that changes EN or gives a shutdown notification is
a command of its own. -/
def State.ctlPut (s : State) (i off : Nat) (v : W32) : State :=
  let c := s.ctrl i
  match off with
  | 0x0C => s.setCtrl i { c with intm := c.intm ||| v }
  | 0x10 => s.setCtrl i { c with intm := c.intm &&& ~~~v }
  | 0x14 =>
    let d := c.withCc v
    if v.getLsbD 0 != c.en || d.notified then s
    else if c.en && !s.ccValid i d then s.setCtrl i { d with cfs := true } else s.setCtrl i d
  | 0x24 => s.setCtrl i { c with aqa := v &&& 0x0FFF0FFF#32 }
  | 0x28 => s.setCtrl i { c with asq := queueBase (setHalf c.asq false v) }
  | 0x2C => s.setCtrl i { c with asq := queueBase (setHalf c.asq true v) }
  | 0x30 => s.setCtrl i { c with acq := queueBase (setHalf c.acq false v) }
  | 0x34 => s.setCtrl i { c with acq := queueBase (setHalf c.acq true v) }
  | _ => s

/-- A 4-byte write in a slice page: SLICE.VER.SEL is locked while CC.EN is 1 (R97). -/
def State.slicePut (s : State) (sl off : Nat) (v : W32) : State :=
  if off = 0xE80 then
    if (s.ctrl (sliceCtrl sl)).en || 2 < v.toNat % 256 then s
    else s.modSlice sl fun x => { x with verSel := v.truncate 8 }
  else s.ctlPut (sliceCtrl sl) off v

/-- HM.MDCTL (R432): refused while STATE is not idle, for a TARGET outside MR24 to MR31, and for a keyed digest
of a slot that is not a class 3h slot of the manager. -/
def State.putMdCtl (s : State) (v : W32) : State :=
  let slot := v.extractLsb' 16 12
  let keyed := v.getLsbD 8
  let good := match Tbl.get? s.hm.slots slot.toNat with
    | some k => k.cls = 3 && k.owner = .manager
    | none => false
  if s.hm.mdState ≠ 0 || v.toNat % 32 < 0x18 || (keyed && !good) then s
  else { s with hm := { s.hm with mdSlot := slot, mdKeyed := keyed, mdTarget := v.truncate 5 } }

/-- A 4-byte write of a 32-bit register of BAR4 with no command of its own. -/
def State.bar4Put (s : State) (off : Nat) (v : W32) : State :=
  match off with
  | 0x1004 => if v.getLsbD 2 then { s with time := { s.time with stepFlag := false } } else s
  | 0x2000 => { s with host := { s.host with slcSel := v.truncate 10 } }
  | 0x5010 => if v.truncate 16 = (0 : W16) then s else s.modMedia fun m => { m with spread := v.truncate 16 }
  | 0x6000 => s.modMedia fun m => { m with chSel := v.truncate 5 }
  | 0x7008 =>
    let th := v.extractLsb' 16 12
    let age := v.extractLsb' 0 12
    if th.toNat < 0x40 ∨ age = 0 then s else { s with dram := { s.dram with rfmTh := th, age := age } }
  | 0x700C => { s with dram := { s.dram with selCh := v.extractLsb' 5 2, selIdx := v.truncate 5 } }
  | 0x8000 => if v.toNat % 8 = 0 then { s with dram := { s.dram with taddr := v.extractLsb' 4 14 } } else s
  | 0x9008 => s.putMdCtl v
  | 0x9020 =>
    let i := v.toNat % 2048
    if 0x20 ≤ i ∧ i < 0x400 then s else { s with hm := { s.hm with mrSel := BitVec.ofNat 11 i } }
  | 0xC000 => { s with dev := { s.dev with portSel := v.truncate 2 } }
  | _ => s

/-- An 8-byte write of a 64-bit register of BAR4 with no command of its own; over two 32-bit registers it
writes both. -/
def State.bar4Put8 (s : State) (off : Nat) (v : W64) : State :=
  if off = 0x8008 then { s with dram := { s.dram with flip := v } }
  else if 0x8040 ≤ off ∧ off < 0x8090 then
    { s with dram := { s.dram with tbuf := s.dram.tbuf.mapIdx fun i x => if i = (off - 0x8040) / 8 then v else x } }
  else (s.bar4Put off (v.extractLsb' 0 32)).bar4Put (off + 4) (v.extractLsb' 32 32)

/-- A 4-byte write in a window. -/
def State.put4 (s : State) (win : Window) (off : Nat) (v : W32) : State :=
  match win with
  | .bar0 p => if p < splitPorts s.dev.split then s.ctlPut p off v else s
  | .bar2 p =>
    let sl := off / 0x10000
    if s.pageDecodes p sl then s.slicePut sl (off % 0x10000) v else s
  | .bar4 => s.bar4Put off v

/-- REGISTER_WRITE (R10, R11, R508): a write to a register with no command of its own, 4 bytes at a 4-byte
boundary or 8 bytes at an 8-byte boundary. -/
def execRegisterWrite (win : Window) (off size : Nat) (value : W64) (s : State) :
    Host.Outcome State Fault Refusal :=
  .next (
    if size = 4 ∧ off % 4 = 0 then s.put4 win off (value.extractLsb' 0 32)
    else if size = 8 ∧ off % 8 = 0 then
      match win with
      | .bar4 => s.bar4Put8 off value
      | w => (s.put4 w off (value.extractLsb' 0 32)).put4 w (off + 4) (value.extractLsb' 32 32)
    else s)

end Sys2Proof.Machine
end

