-- ==== Sys2Proof/Machine/Slices.lean ====
section
/-! DEFINITION. Slices: create, delete, reset, shares and rebind, and the migration logs (R88 to R106, R119 to
R128, R395, R434, R435, R442). -/

namespace Sys2Proof.Machine

/-- Slice number of a manager command: CDW10 [9:0]. -/
def sliceArg (e : Sqe) : Nat := e.cdw10.toNat % 1024

/-- Slice Resetting, a command specific status (R96). -/
def scSliceResetting : Nat := 0x83

/-- The slice is in Resetting, Rebinding or Deleting (R96). -/
def SliceSt.moving (x : SliceSt) : Bool := x = .resetting || x = .rebinding || x = .deleting

/-- Ready, or Parked with both shares 0 (R93, R95, R105). -/
def readyOrParked (flash core : Nat) : SliceSt := if flash = 0 ∧ core = 0 then .parked else .ready

/-! ## Slice Create (R91 to R93, R395) -/

/-- Extents of 2 MiB for local memory below the runtime pool. -/
def State.extentsTotal (s : State) : Nat := (s.dram.btSize - 1) * 512

/-- The lowest run of `n` extents that no slice holds. -/
def State.placeExtents (s : State) (n : Nat) : Option Nat :=
  let used := s.dram.extents.map fun x => x.2
  let fits (a : Nat) : Bool := a + n ≤ s.extentsTotal && used.all fun u => a + n ≤ u.1 || u.1 + u.2 ≤ a
  ((0 :: used.map fun u => u.1 + u.2).filter fits).foldl (fun (b : Option Nat) a => some (min a (b.getD a))) none

/-- The slice number is in use: a slice holds it, or a deleted one still has a leaf in the open minute (R92). -/
def State.sliceTaken (s : State) (sl : Nat) : Bool :=
  (s.slice sl).st ≠ .absent || (Tbl.get? s.meter.slices sl).isSome
    || s.meter.ended.any fun x => ((Tbl.get? x.slices sl).map (·.closed)).getD false

/-- Another slice holds the PASID on the port, or moves to it. -/
def State.pasidTaken (s : State) (sl port pasid : Nat) : Bool :=
  s.host.slices.any fun p => p.1 ≠ sl && p.2.st ≠ .absent &&
    ((p.2.port = port && p.2.pasid = pasid)
      || (p.2.rebinds && p.2.seqSrc.isSome && p.2.newPort = port && p.2.newPasid = pasid))

/-- The fields of a Slice Create page as the slice they describe (R91). -/
def readSlice (d : List Byte) : Slice :=
  let n (i k : Nat) : Nat := leNat ((d.drop i).take k)
  { port := n 0 1, qpairs := n 2 2, pasid := n 4 4 % 2 ^ 20, capGrant := n 8 8, lmLimit := n 16 4
    ksLimit := n 20 2, nsLimit := n 22 2, flash0 := n 24 2, core0 := n 26 2, park0 := n 28 2
    flash := n 24 2, core := n 26 2, park := n 28 2 }

/-- A field lies outside its range (R91, R92). -/
def State.sliceRange (s : State) (x : Slice) : Bool :=
  splitPorts s.dev.split ≤ x.port || x.qpairs < 1 || 64 < x.qpairs || x.pasid = 0 || x.capGrant = 0
    || 65536 < x.lmLimit || 4096 < x.ksLimit || x.nsLimit < 1 || 4096 < x.nsLimit

/-- A key for a memory domain is drawn, and every DRAM controller latches it (R400, R436). -/
def State.drawDomain (s : State) (d : Nat) : State :=
  let k := Config.freeNat s.free
  let s := { s.drawn with hm := { s.hm with domains := Tbl.set s.hm.domains d k } }
  (List.range 4).foldl (fun s c => s.modDchan c fun x => { x with keys := Tbl.set x.keys d k }) s

/-- SLICE_CREATE (R91 to R93, R395, R430, R442). -/
def execSliceCreate (q : Src) (e : Sqe) (data : List Byte) (s : State) : Host.Outcome State Fault Refusal :=
  .next (s.adminCmd q e 0xC1 onManager fun s =>
    let sl := sliceArg e
    if s.sliceTaken sl then s.fail q e.cid 0 scSequence
    else if adminPrpBad e 4096 then s.fail q e.cid 0 scPrpOffset
    else
      let s := s.moved q e.cid false 4096
      let x := readSlice data
      let ext := (x.lmLimit + 1) / 2
      let place := if ext = 0 then some 0 else s.placeExtents ext
      if s.sliceRange x || s.pasidTaken sl x.port x.pasid || place.isNone
          || 4096 < 16 + s.hm.held .manager + s.promised + x.ksLimit then s.fail q e.cid 0 scInvalidField
      else
        let x := { x with st := readyOrParked x.flash x.core, pageFrom := s.meter.nClosed }
        let s := (s.setSlice sl x).drawDomain sl
        let s := { s.drawn with
          hm := { s.hm with
            smrs := Tbl.set s.hm.smrs sl {}
            imports := Tbl.set s.hm.imports sl { seed := Config.freeNat s.free } }
          meter := { s.meter with slices := Tbl.set s.meter.slices sl { opened := true } }
          dram := { s.dram with
            extents := if ext = 0 then s.dram.extents else Tbl.set s.dram.extents sl (place.getD 0, ext) }
          host := { s.host with ctrls := Tbl.del s.host.ctrls (sliceCtrl sl) } }
        s.succeed q e.cid)

/-! ## The reset sequence (R119, R120) -/

/-- The replacement concerns namespaces or a sanitize of the slice. -/
def State.workOf (s : State) (sl : Nat) (w : KeyWork) : Bool :=
  match w.act with
  | .nsCreate x => (s.nsx x).slice = sl
  | .nsDelete xs => xs.all fun x => (s.nsx x).slice = sl
  | .format xs _ _ => xs.all fun x => (s.nsx x).slice = sl
  | .sanitize scope => scope = some sl
  | .keyImport _ _ _ _ _ => false
  | .keyEmpty _ _ => false

/-- Take replacements out of the commits; what had joined starts when nothing is left ahead of it. -/
def State.dropKeyWork (s : State) (p : KeyWork → Bool) : State :=
  let c := s.hm.commit.filter fun w => !p w
  let j := s.hm.joining.filter fun w => !p w
  { s with hm := { s.hm with
    commit := if c.isEmpty then j else c, joining := if c.isEmpty then [] else j } }

/-- The slice's cores stop and their benches are zeroed (R119 step 1, R335). -/
def State.stopCores (s : State) (sl : Nat) : State :=
  let mine (k : Core) : Bool := match k.run.bind s.runAt with
    | some r => r.slice = sl
    | none => false
  { s with cpu := { s.cpu with
    cores := Tbl.mapV s.cpu.cores fun _ k => if mine k then
        { k with
          run := none, sup := true, ctx := {}, halted := false, wdCount := 0, busErr := []
          pendWd := false, pendSpan := false, pendEng := false
          oc := { k.oc with lines := [], lost := [] }, ctl := { k.ctl with exl := false } }
      else k
    runs := Tbl.mapV s.cpu.runs fun _ r => if r.slice = sl then { r with core := none, discarded := true } else r } }

/-- ATS translations of a PASID are dropped (R119 step 2, R122 step 3). -/
def State.dropAts (s : State) (port pasid : Nat) : State :=
  { s with dev := { s.dev with ats := s.dev.ats.filter fun a => !(a.port = port && a.pasid = pasid) } }

/-- DMA for the slice's PASID is fenced; the writes that wait are discarded (R119 step 2, R120). -/
def State.fence (s : State) (sl : Nat) : State :=
  let x := s.slice sl
  let s := (s.dropAts x.port x.pasid).modSlice sl fun x => { x with fenced := true }
  { s with host := { s.host with paused := s.host.paused.filter fun p => match p with
    | .data a _ _ _ => a ≠ sl
    | .cqe a _ => a ≠ sl
    | .port _ _ _ => true } }

/-- The slice's engine contexts are dropped at a block boundary, with its runs (R119 step 3, R374). -/
def State.dropContexts (s : State) (sl : Nat) : State :=
  let free (t : Tbl EngUnit) : Tbl EngUnit := Tbl.mapV t fun _ u =>
    match u.running with
    | some q => if q.slice = some sl then { u with running := none } else u
    | none => u
  let g := s.cpu.engines
  let s := { s with cpu := { s.cpu with
    runs := s.cpu.runs.filter fun p => p.2.slice ≠ sl
    engines := { g with
      crucible := free g.crucible, assay := free g.assay, cipher := free g.cipher, soft := free g.soft
      queue := g.queue.filter fun q => q.slice ≠ some sl } } }
  [EngineClass.crucible, .assay, .cipher, .softDecoder].foldl (fun s c => s.dispatchJobs c) s

/-- Reads in flight for the slice are discarded, with its Scans and the commands that wait on them (R119 step 4). -/
def State.dropReads (s : State) (sl : Nat) : State :=
  let s := (s.cpu.scans.filter fun p => p.2.slice = sl).foldl (fun (s : State) p =>
    let slots := if p.2.slot then
        p.2.accs.foldl (fun (t : Tbl Nat) a => Tbl.set t a.1 (Tbl.getD t a.1 0 - 1)) s.cpu.progSlots
      else s.cpu.progSlots
    { s with cpu := { s.cpu with scans := Tbl.del s.cpu.scans p.1, progSlots := slots } }) s
  let mine (r : MediaRead) : Bool := r.slice = sl && !r.device
  let theirs (o : Src × W16) : Bool := o.1.slice? ≠ some sl
  s.modMedia fun m => { m with
    reads := Tbl.mapV (m.reads.filter fun p => p.2.issued || !mine p.2) fun _ r => if mine r then { r with dropped := true } else r
    jown := m.jown.filter theirs
    progs := Tbl.mapV m.progs fun _ p => { p with owners := p.owners.filter theirs }
    ios := m.ios.filter fun p => p.2.src.slice? ≠ some sl
    waits := m.waits.filter fun w => w.slice ≠ sl
    buf := m.buf.map fun b => if b.slice = sl then { b with owner := none } else b }

/-- Its namespaces lose their media keys in one commit of the media key table, and their map is freed later (R119, R154,
R214, R217); what it kept read-only is gone (R168). -/
def State.dropNamespaces (s : State) (sl : Nat) : State :=
  let s := s.dropKeyWork (s.workOf sl)
  let mine := s.media.ns.filter fun p => p.2.slice = sl && !p.2.deleted
  let s := mine.foldl (fun (s : State) p =>
    if p.2.pending then s.modMedia fun m => { m with ns := Tbl.del m.ns p.1 }
    else (s.newMediaKey p.1).deleteNs p.1) s
  if mine.all fun p => p.2.pending then s else s.wrapTable.checkReadOnly.checkNv

/-- Local memory blank, memory domain key, media keys and key slots replaced, billets released, SMR at its initial
value (R119 step 5, R396, R400, R430, R435). -/
def State.wipeSlice (s : State) (sl : Nat) : State :=
  let s := ((s.dropNamespaces sl).drawDomain sl).clearSliceKeys sl
  { s with
    hm := { s.hm with smrs := Tbl.set s.hm.smrs sl {} }
    dram := { s.dram with locals := Tbl.del s.dram.locals sl, clear := Tbl.del s.dram.clear sl }
    dev := { s.dev with san := Tbl.del s.dev.san sl }
    cpu := { s.cpu with
      billets := s.cpu.billets.filter fun p => p.1 / 16 ≠ sl
      forges := Tbl.mapV s.cpu.forges fun _ f => { f with residents := f.residents.filter fun r => r.slice ≠ sl } } }

/-- The slice's migration log ends; its positions stand (R125). -/
def State.endLog (s : State) (sl : Nat) : State :=
  match findLog s.host.mig sl with
  | none => s
  | some (i, l) => { s with host := { s.host with
    mig := Tbl.del s.host.mig i, migOld := Tbl.set s.host.migOld i { l with produced := l.sent } } }

/-- All of the slice's queues are deleted and its controller returns to its reset state, with its logs (R119 step 6). -/
def State.clearCtrl (s : State) (sl : Nat) : State :=
  let i := sliceCtrl sl
  let s := s.ctrlReset i
  { s with host := { s.host with ctrls := Tbl.del s.host.ctrls i, logs := Tbl.del s.host.logs i } }

/-- One step of the reset sequence, 1 to 6 (R119). -/
def State.resetStep (s : State) (sl : Nat) : Nat → State
  | 1 => s.stopCores sl
  | 2 => s.fence sl
  | 3 => s.dropContexts sl
  | 4 => s.dropReads sl
  | 5 => s.wipeSlice sl
  | 6 => (s.clearCtrl sl).endLog sl
  | _ => s

/-- Step 7 without its completion: the slice as just after its creation, in the meter of the same life. A deletion
that waits keeps its state. -/
def State.resetEnd (s : State) (sl : Nat) : State :=
  let x := s.slice sl
  let m := Tbl.getD s.meter.slices sl {}
  let s := { s with meter := { s.meter with slices := Tbl.set s.meter.slices sl { m with opened := true } } }
  s.setSlice sl { port := x.port, pasid := x.pasid, qpairs := x.qpairs, capGrant := x.capGrant, lmLimit := x.lmLimit
                  ksLimit := x.ksLimit, nsLimit := x.nsLimit, flash0 := x.flash0, core0 := x.core0, park0 := x.park0
                  flash := x.flash0, core := x.core0, park := x.park0, pageFrom := x.pageFrom, delSrc := x.delSrc
                  st := if x.st = .deleting then .deleting else readyOrParked x.flash0 x.core0 }

/-- Steps of a sequence after `k` up to `n`. -/
def stepsAfter (k n : Nat) : List Nat := (List.range (n + 1)).filter fun j => k < j

/-- Run the reset sequence on to a step; at step 7 the completion is posted. -/
def State.runReset (s : State) (sl n : Nat) : State :=
  let x := s.slice sl
  let s := (stepsAfter x.seqStep (min n 6)).foldl (fun s k => s.resetStep sl k) s
  if n < 7 then s.modSlice sl fun x => { x with seqStep := max x.seqStep n }
  else
    let src := (s.slice sl).seqSrc
    let s := s.resetEnd sl
    match src with
    | some (q, cid) => s.succeed q cid
    | none => s

/-- The state check of a manager command for one slice (R96): a number not in use, or a slice being moved. -/
def State.sliceCmd (s : State) (q : Src) (e : Sqe) (body : Nat → State → State) : State :=
  let sl := sliceArg e
  let st := (s.slice sl).st
  if st = .absent then s.fail q e.cid 0 scInvalidField
  else if st.moving then s.fail q e.cid 7 scSliceResetting
  else body sl s

/-- A sequence of the slice that this command started is in progress. -/
def Slice.runs (x : Slice) (q : Src) (e : Sqe) (rebind : Bool) : Bool :=
  x.seqSrc = some (q, e.cid) && x.rebinds = rebind && x.st.moving

/-- SLICE_RESET (R95, R96, R119, R120): `steps` is the step of R119 that the sequence has reached, 0 at acceptance; the
row executes again with a higher step while the sequence runs. Key changes accepted earlier for the slice go
first (R96). -/
def execSliceReset (q : Src) (e : Sqe) (steps : Nat) (s : State) : Host.Outcome State Fault Refusal :=
  .next (
    let sl := sliceArg e
    if (s.slice sl).runs q e false && e.opc.toNat = 0xC4 then s.runReset sl steps
    else if s.keysBusy sl then s
    else s.adminCmd q e 0xC4 onManager fun s => s.sliceCmd q e fun sl s =>
      (s.modSlice sl fun x => { x with
        st := .resetting, seqStep := 0, seqSrc := some (q, e.cid), rebinds := false
        pageFrom := s.meter.nClosed }).runReset sl steps)

/-! ## Slice Delete (R94 to R96) -/

/-- Release the slice: its limits and binding, its local memory, its meter at the end of the span (R94). -/
def State.removeSlice (s : State) (sl : Nat) : State :=
  let m := Tbl.getD s.meter.slices sl {}
  { s with
    host := { s.host with slices := Tbl.del s.host.slices sl }
    meter := { s.meter with slices := Tbl.set s.meter.slices sl { m with closing := true } }
    dram := { s.dram with extents := Tbl.del s.dram.extents sl } }

/-- The whole deletion: the reset sequence, then the release. -/
def State.deleteSlice (s : State) (sl : Nat) : State :=
  ([1, 2, 3, 4, 5, 6].foldl (fun (s : State) k => s.resetStep sl k) s).removeSlice sl

/-- SLICE_DELETE (R94 to R96): with a reset or rebind in progress it is accepted and waits. -/
def execSliceDelete (q : Src) (e : Sqe) (s : State) : Host.Outcome State Fault Refusal :=
  .next (
    if s.keysBusy (sliceArg e) then s
    else s.adminCmd q e 0xC0 onManager fun s =>
      let sl := sliceArg e
      let st := (s.slice sl).st
      if st = .absent then s.fail q e.cid 0 scInvalidField
      else if st = .deleting then s.fail q e.cid 7 scSliceResetting
      else if st = .resetting ∨ st = .rebinding then
        s.modSlice sl fun x => { x with st := .deleting, delSrc := some (q, e.cid) }
      else (s.deleteSlice sl).succeed q e.cid)

/-- DELETE_AFTER_RESET (R95): the deletion that waited, once the reset or rebind has completed. -/
def execDeleteAfterReset (slice : Nat) (s : State) : Host.Outcome State Fault Refusal :=
  .next (
    let x := s.slice slice
    match x.delSrc with
    | none => s
    | some (q, cid) => if x.st ≠ .deleting ∨ x.seqSrc.isSome then s else (s.deleteSlice slice).succeed q cid)

/-! ## Shares and rebind (R104, R121, R122) -/

/-- SLICE_SET_SHARES (R96, R104): accepted now, in effect at step 3 of a span tick. -/
def execSliceSetShares (q : Src) (e : Sqe) (s : State) : Host.Outcome State Fault Refusal :=
  .next (
    if s.keysBusy (sliceArg e) then s
    else s.adminCmd q e 0xC5 onManager fun s => s.sliceCmd q e fun sl s =>
      (s.modSlice sl fun x => { x with
        newShares := some (e.cdw11.toNat % 65536, e.cdw11.toNat / 65536, e.cdw12.toNat % 65536) }).succeed q e.cid)

/-- One step of a rebind (R122). -/
def State.rebindStep (s : State) (sl : Nat) : Nat → State
  | 2 => s.ctrlReset (sliceCtrl sl)
  | 3 => s.fence sl
  | _ => s

/-- The last step of a rebind, without its completion. -/
def State.rebindEnd (s : State) (sl : Nat) : State :=
  let m := Tbl.getD s.meter.slices sl {}
  let s := { s with meter := { s.meter with slices := Tbl.set s.meter.slices sl { m with rebound := true } } }
  s.modSlice sl fun x => { x with
    port := x.newPort, pasid := x.newPasid, fenced := false, verSel := 0, seqStep := 0, seqSrc := none, rebinds := false
    st := if x.st = .deleting then .deleting else x.before }

/-- Run a rebind on to a step; at step 5 the completion is posted. -/
def State.runRebind (s : State) (sl n : Nat) : State :=
  let x := s.slice sl
  let s := (stepsAfter x.seqStep (min n 4)).foldl (fun s k => s.rebindStep sl k) s
  if n < 5 then s.modSlice sl fun x => { x with seqStep := max x.seqStep n }
  else
    let src := (s.slice sl).seqSrc
    let s := s.rebindEnd sl
    match src with
    | some (q, cid) => s.succeed q cid
    | none => s

/-- SLICE_REBIND (R95, R96, R121, R122): `steps` is the step of R122 that it has reached; the row executes again with
a higher step while the rebind runs. -/
def execSliceRebind (q : Src) (e : Sqe) (data : List Byte) (steps : Nat) (s : State) :
    Host.Outcome State Fault Refusal :=
  .next (
    let sl := sliceArg e
    if (s.slice sl).runs q e true && e.opc.toNat = 0xD1 then s.runRebind sl steps
    else if s.keysBusy sl then s
    else s.adminCmd q e 0xD1 onManager fun s => s.sliceCmd q e fun sl s =>
      if adminPrpBad e 4096 then s.fail q e.cid 0 scPrpOffset
      else
        let s := s.moved q e.cid false 4096
        let port := (data.getD 0 0).toNat
        let pasid := leNat ((data.drop 4).take 4) % 2 ^ 20
        if splitPorts s.dev.split ≤ port ∨ pasid = 0 ∨ s.pasidTaken sl port pasid then s.fail q e.cid 0 scInvalidField
        else
          (s.modSlice sl fun x => { x with
            before := x.st, st := .rebinding, seqStep := 0, seqSrc := some (q, e.cid), rebinds := true
            newPort := port, newPasid := pasid }).runRebind sl steps)

/-! ## Migration logs (R123 to R128) -/

/-- Writes of a slice that waited are offered again, oldest first (R126, R127, R516); a completion only while its controller
posts (R85, R120). -/
def State.releasePaused (s : State) (sl : Nat) : State :=
  let mine (p : Paused) : Bool := s.portIssues (s.slice sl).port && match p with
    | .data a _ _ _ => a = sl
    | .cqe a c => a = sl && s.posts c.ctrl
    | .port _ _ _ => false
  let l := s.host.paused.filter mine
  let s := { s with host := { s.host with paused := s.host.paused.filter fun p => !mine p } }
  l.foldl (fun (s : State) p => match p with
    | .data a iova sq d =>
      let k := s.host.paused.length
      let s := s.dmaPage a iova d
      match sq with
      | some n => s.tagPaused k n
      | none => s
    | .cqe _ c => s.cqePast c
    | .port _ _ _ => s) s

/-- MIGRATION_LOG_START (R96, R123): the lowest free log; Dword 0 is its index. -/
def execMigrationLogStart (q : Src) (e : Sqe) (data : List Byte) (s : State) : Host.Outcome State Fault Refusal :=
  .next (
    let act := e.cdw10.toNat / 65536 % 4
    if act = 1 ∨ s.keysBusy (sliceArg e) then s
    else s.adminCmd q e 0xCD onManager fun s =>
      if act ≠ 0 then s.fail q e.cid 0 scInvalidField
      else s.sliceCmd q e fun sl s =>
        if (findLog s.host.mig sl).isSome ∨ 16 ≤ s.host.mig.length then s.fail q e.cid 0 scSequence
        else if adminPrpBad e 4096 then s.fail q e.cid 0 scPrpOffset
        else
          let s := s.moved q e.cid false 4096
          let base := leNat (data.take 8)
          let size := leNat ((data.drop 8).take 4)
          if base % 4096 ≠ 0 ∨ !((List.range 15).any fun k => size = 256 * 2 ^ k) then s.fail q e.cid 0 scInvalidField
          else
            let n := ((List.range 16).find? fun k => (Tbl.get? s.host.mig k).isNone).getD 0
            let log : MigLog := { slice := sl, base := BitVec.ofNat 64 base, size := size }
            let s := { s with host := { s.host with
              mig := Tbl.set s.host.mig n log, migOld := Tbl.del s.host.migOld n } }
            s.complete q e.cid 0 0 (BitVec.ofNat 32 n) 0)

/-- MIGRATION_LOG_STOP (R96, R123, R126, R127): records not yet sent are discarded and counted in Dword 0, and writes
that wait proceed. -/
def execMigrationLogStop (q : Src) (e : Sqe) (s : State) : Host.Outcome State Fault Refusal :=
  .next (
    if e.cdw10.toNat / 65536 % 4 ≠ 1 ∨ s.keysBusy (sliceArg e) then s
    else s.adminCmd q e 0xCD onManager fun s => s.sliceCmd q e fun sl s =>
      match findLog s.host.mig sl with
      | none => s.fail q e.cid 0 scSequence
      | some (_, l) =>
        let s := (s.endLog sl).releasePaused sl
        s.complete q e.cid 0 0 (BitVec.ofNat 32 ((l.produced - l.sent) % 65536)) 0)

/-- A log after the manager's HEAD has moved to an index: what it passes is consumed, up to what has been produced. -/
def MigLog.advance (l : MigLog) (v : Nat) : MigLog :=
  { l with head := v, consumed := min l.produced (l.consumed + (v + l.size - l.head) % l.size) }

/-- MIG_HEAD_WRITE (R125, R126, R128): a value at or above LOGSIZE is refused. -/
def execMigHeadWrite (n : Nat) (value : W32) (s : State) : Host.Outcome State Fault Refusal :=
  .next (
    let v := value.toNat % 2 ^ 23
    match Tbl.get? s.host.mig n with
    | some l =>
      if l.size ≤ v then s
      else ({ s with host := { s.host with mig := Tbl.set s.host.mig n (l.advance v) } }).releasePaused l.slice
    | none => match Tbl.get? s.host.migOld n with
      | some l => if l.size ≤ v then s
        else { s with host := { s.host with migOld := Tbl.set s.host.migOld n (l.advance v) } }
      | none => s)

/-- One log catches up: buffered records that had been sent are written again, then those not sent (R127). -/
def State.resendLog (s : State) (n : Nat) (l : MigLog) : State :=
  let old := (l.recent.filter fun r => r.num < l.sent).reverse
  let new := (l.recent.filter fun r => l.sent ≤ r.num).reverse
  let s := (old ++ new).foldl (fun (s : State) r => s.sendRec l r) s
  ({ s with host := { s.host with mig := Tbl.set s.host.mig n { l with sent := l.produced } } }).releasePaused l.slice

/-- MANAGER_PORT_RESTORED (R127). -/
def execManagerPortRestored (s : State) : Host.Outcome State Fault Refusal :=
  .next (if s.mgrCarries then s.host.mig.foldl (fun (s : State) p => s.resendLog p.1 p.2) s else s)

end Sys2Proof.Machine
end

