-- ==== Sys2Proof/Machine/Power.lean ====
section
/-! DEFINITION. Supplies, the power-loss flush, resets that take the device down, tamper responses and the hold-up
monitor (R69, R444 to R446, R470, R478 to R483, R489 to R498, R552, R554). -/

namespace Sys2Proof.Machine

/-- Change the power part of the state. -/
def State.modPwr (s : State) (f : Power → Power) : State := { s with dev := { s.dev with pwr := f s.dev.pwr } }

/-- The device has booted and serves. -/
def State.serving (s : State) : Bool := s.dev.pwr.rails && !s.dev.pwr.perst && s.dev.pwr.phase = 5

/-! ## The flush (R174, R175, R186, R490) -/

/-- The map still names the buffer slot of an item. -/
def State.named (s : State) (b : BufItem) : Bool :=
  match Tbl.get? (s.nsx b.nsx).units b.iu with
  | some o => o.loc = .buffer b.slot && (s.nsx b.nsx).lives
  | none => false

/-- Programs dispatched complete, those that waited for room elsewhere after they have been sent there. -/
def State.landPrograms (s : State) : State :=
  let s := s.media.progs.foldl (fun (s : State) p => if p.2.redo then s.rewriteProgram p.1 p.2 true else s) s
  s.media.progs.foldl (fun (s : State) p => if p.2.redo then s else s.programOk p.1 p.2) s

/-- Program what is left of the journal and the write buffer into the flush reserve, position by position, while sets are
left. -/
def State.drainBuffer : Nat → State → State
  | 0, s => s
  | fuel + 1, s =>
    if s.media.buf.isEmpty then s
    else
      let t := s.dispatchProgram (2 ^ 20) true
      State.drainBuffer fuel (if t.media.nextProg = s.media.nextProg then
          t.modMedia fun m => { m with nextPos := (m.nextPos + 1) % max 1 m.dpos }
        else t.landPrograms)

/-- The journal's open entries are programmed first (R490 step 4). -/
def State.flushJournal (s : State) : Nat → State
  | 0 => s
  | fuel + 1 =>
    if s.media.jopen = 0 then s
    else State.flushJournal ((s.dispatchProgram 0 true).landPrograms.modMedia fun m =>
      { m with nextPos := if m.jopen = 0 then m.nextPos else (m.nextPos + 1) % max 1 m.dpos }) fuel

/-- The stripes that are left open get their parity pages (R490 step 5; log entry 153). -/
def State.flushParity (s : State) : State :=
  s.media.truss.foldl (fun s p => s.parityDone (p.1 / 2 ^ 16) (p.1 % 2 ^ 16)) s

/-- The journal, and every slot that a map entry of KIND 01b names, become durable (R490 steps 4 to 6); no command is
completed by it. -/
def State.flushBuffer (s : State) : State :=
  let s := s.modMedia fun m => { m with
    waits := [], jown := [], progs := Tbl.mapV m.progs fun _ p => { p with owners := [], waiting := false }
    buf := (m.buf.filter fun b => b.prog.isSome || s.named b).map fun b => { b with owner := none } }
  let s := s.landPrograms
  let s := s.flushJournal (s.media.dpos + 1)
  let s := State.drainBuffer (2 * (s.media.buf.length + 1) * (s.media.dpos + 1)) s
  let s := if s.media.formed then s.flushParity.keeperData 1 else s
  s.modMedia fun m => { m with jparts := [], jsegs := [] }

/-- The volatile keys are zeroized (R445), in the Hallmark unit and where the private key bus has brought them: the wrapped
copies of the media key table and the slot table stay on flash. -/
def State.zeroize (s : State) : State :=
  let s := s.modMedia fun m => { m with chans := Tbl.mapV m.chans fun _ c => { c with keys := [] } }
  { s with
    dram := { s.dram with chans := Tbl.mapV s.dram.chans fun _ c => { c with keys := [] } }
    cpu := { s.cpu with engines := { s.cpu.engines with
      cipher := Tbl.mapV s.cpu.engines.cipher fun _ u => { u with keyReg := none } } }
    hm := { s.hm with
      wrapKey := 0, domains := [], challenge := List.replicate 32 0, ready := false, zeroized := true } }

/-- Commands in flight end with no completion: queues keep their registers and lose their commands, and runs, Scans,
reads and moves stop (R483). -/
def State.dropInFlight (s : State) : State :=
  let s := { s with
    cpu := { s.cpu with
      runs := [], scans := [], progSlots := []
      cores := Tbl.mapV s.cpu.cores fun _ k => { k with run := none }
      engines := { s.cpu.engines with
        crucible := Tbl.mapV s.cpu.engines.crucible fun _ u => { u with running := none }
        assay := Tbl.mapV s.cpu.engines.assay fun _ u => { u with running := none }
        cipher := Tbl.mapV s.cpu.engines.cipher fun _ u => { u with running := none }
        soft := Tbl.mapV s.cpu.engines.soft fun _ u => { u with running := none }
        queue := [] } }
    host := { s.host with
      paused := []
      ctrls := Tbl.mapV s.host.ctrls fun _ c => { c with
        backlog := [], sqs := Tbl.mapV c.sqs fun _ q => { q with fetched := [] } } }
    dev := { s.dev with side := { s.dev.side with
      cmd := none, begun := false, owed := false, busy := false, held := false, parts := none } } }
  s.modMedia fun m => { m with
    reads := [], ios := [], waits := [], moves := [], transit := [], jown := []
    progs := Tbl.mapV m.progs fun _ p => { p with owners := [] } }

/-- The flush of R490 to its end: runs are saved, the write buffer is programmed, the marker is made and the keys are
zeroized; the device idles. -/
def State.powerFlush (s : State) : State :=
  let s := (s.cpu.cores.map (·.1)).foldl (fun (s : State) c => s.takeCore c) s
  let s := (List.range 32).foldl (fun (s : State) c =>
    if s.media.progs.any fun p => p.2.chans.contains c then s.enterPanic c else s) s
  let s := s.flushBuffer
  (s.dropInFlight.zeroize).modPwr fun p => { p with marker := s.media.buf.isEmpty, wpLow := true }

/-- The flush, once, while the device serves. -/
def State.flushOnce (s : State) : State := if s.serving && !s.dev.pwr.marker then s.powerFlush else s

/-- Every channel begins its change to the top step, after one that is in progress (R186). -/
def State.topRates (s : State) : State :=
  if !s.media.formed then s
  else (List.range 32).foldl (fun (s : State) c =>
    let x := s.media.chan c
    if x.failed then s
    else match x.next with
      | some _ => s.modMedia fun m => m.modChan c fun y => { y with then_ := some m.top }
      | none => s.startRate c s.media.top) s

/-- PLP_WARN_ASSERT (R175, R186, R488 to R490, R559): fetching stops, every channel goes to the top step and the flush runs
to its end. -/
def execPlpWarnAssert (s : State) : Host.Outcome State Fault Refusal :=
  .next (if !s.dev.pwr.rails || s.dev.pwr.plpWarn then s
    else
      let s := s.modPwr fun p => { p with
        plpWarn := true, warned := true, vidTo := if s.serving then Config.vidOperating else p.vidTo }
      (if s.serving then s.topRates else s).flushOnce)

/-! ## Data that was not flushed (R497) -/

/-- An entry of KIND 01b returns to the last one of KIND 10b. -/
def OldIu.iu (w : OldIu) : Iu :=
  { loc := .flash w.set w.goff, data := w.data, tags := w.tags, len := w.len, raw := w.raw, clen := w.clen }

/-- One indirection unit of the write buffer is lost. -/
def State.loseIu (s : State) (x iu : Nat) : State :=
  match Tbl.get? (s.nsx x).units iu with
  | none => s
  | some o => match o.loc with
    | .flash _ _ => s
    | .buffer _ => match o.old with
      | none => s.modNs x fun y => { y with units := Tbl.del y.units iu }
      | some w =>
        (s.modNs x fun y => { y with units := Tbl.set y.units iu w.iu }).modMedia fun m =>
          m.modSet w.set fun b => if b.st = .erased then b else { b with valid := b.valid + w.len }

/-- Every entry of KIND 01b returns to what flash holds, with the write buffer gone. -/
def State.loseBuffer (s : State) : State :=
  let s := s.media.ns.foldl (fun (s : State) p => p.2.units.foldl (fun (s : State) u => s.loseIu p.1 u.1) s) s
  s.modMedia fun m => { m with buf := [], progs := [] }

/-! ## The device goes down (R481, R483) -/

/-- The compute side after a device reset. -/
def State.downCompute (s : State) : State :=
  { s with cpu := { nextRun := s.cpu.nextRun, nextScan := s.cpu.nextScan } }

/-- Controllers, queues, migration logs and BAR4 settings return to their reset values; slices stay. -/
def State.downHost (s : State) : State :=
  { s with
    host := {
      logs := s.host.logs, slices := Tbl.mapV s.host.slices fun _ x => { x with verSel := 0, balFlash := 0, balCore := 0 } }
    time := {}
    meter := { s.meter with fsel := 1, member := 0 } }

/-- DRAM content is lost; marks, flagged rows and repairs are on record (R411, R414). -/
def State.downDram (s : State) : State :=
  let d := s.dram
  { s with dram := {
      extents := d.extents, btSaved := d.btSaved, nextReq := d.nextReq, replies := d.replies, hardRows := d.hardRows
      rows := d.rows.map fun r => { r with soft := false }
      chans := Tbl.mapV d.chans fun _ c => { marks := c.marks } } }

/-- The board side after a device reset. -/
def State.downDevice (s : State) : State :=
  let s := s.endTest 2
  let d := s.dev
  { s with dev := { d with
      ports := Tbl.mapV d.ports fun _ p => { inReset := p.inReset }, ats := [], ps := 0, psOper := 0, psNext := none
      apste := true, apst := ({} : Device).apst, tOver := none, tUnder := 0, level := 0, warn := 0, portSel := 0
      fw := { d.fw with parts := [], holding := false, waiting := none }
      side := { eid := d.side.eid, i3cAddr := d.side.i3cAddr, cfg := d.side.cfg }
      pwr := { d.pwr with phase := 0, pierOut := false, actHold := false, wpLow := true } } }

/-- The Hallmark unit after a device reset (R421, R430, R432, R448). -/
def State.downHallmark (s : State) : State :=
  let h := s.hm
  { s with hm := { h with
      mrs := [], mdTarget := 0x18, mdKeyed := false, mdSlot := 0, mdState := 0, mdMsg := [], mdKey := none
      mdInto := 0, mdWait := [], mrSel := 0, imgSvn := 0, unlocked := false, ready := false, signing := none
      waitSeal := false, waitQuote := none, refuses := false, challenge := List.replicate 32 0, refusals := 0
      scope := 0, busFails := 0 } }

/-- Links, keeper pairs and engines are tested again; logs of corrections start afresh (R464, R466, R468). -/
def State.downRel (s : State) : State :=
  { s with rel := { s.rel with
      links := [], lost := [], turn := [], early := [], inbox := [], spoiled := []
      parity := [], testing := [], engFault := []
      sram := Tbl.mapV s.rel.sram fun _ g => { used := g.used, mapped := g.mapped } } }

/-- Channels and work in progress of the flash array; the array's tables stay (R197, R483). -/
def State.downMedia (s : State) : State :=
  s.modMedia fun m => { m with
    buf := [], waits := [], progs := [], reads := [], ios := [], moves := [], transit := [], refresh := [], credit := 0
    admitted := false, jparts := [], jsegs := [], jown := [], chSel := 0, late := [], track := m.trackSaved, spread := 0x00C8
    wthru := false, fold := .none_, trained := false
    lastDie := [], lastProg := 1023, lastWait := 1023, lastSoft := [], turn := []
    sets := Tbl.mapV m.sets fun _ b => if b.st = .relocating then { b with st := .closed } else b
    chans := Tbl.mapV m.chans fun _ c => { failed := c.failed } }

/-- A device reset takes the device down (R483): what the write buffer holds and no flush has saved is lost; slices,
stored data, keys, meters and logs stay. -/
def State.deviceDown (s : State) : State :=
  let s := if s.dev.pwr.marker then s else s.loseBuffer
  (s.dropInFlight.downCompute.downHost.downDram.downHallmark.downRel.downMedia).downDevice

/-! ## Resets and supplies (R478 to R482, R491, R497, R552) -/

/-- POWER_ON (R479, R552, R558): VID is driven to its boot code; after a class P response FAULT_N is low at once. -/
def execPowerOn (s : State) : Host.Outcome State Fault Refusal :=
  .next (if s.dev.pwr.rails then s
    else
      let s := s.modPwr fun p => { p with rails := true, perst := true, vid := 0x64, vidTo := 0x64 }
      { s with
        dev := { s.dev with smart := { s.dev.smart with cycles := s.dev.smart.cycles + 1 } }
        rel := { s.rel with fault := s.hm.dead } })

/-- How the power-down ended (R498). -/
def Power.ending (p : Power) : BitVec 2 := if p.marker then 0 else if p.warned then 1 else 2

/-- POWER_REMOVED (R144, R473, R474, R477, R497, R498): a loss with no completed shutdown is an unsafe one, in a reset
too (log entry 132). -/
def execPowerRemoved (s : State) : Host.Outcome State Fault Refusal :=
  .next (if !s.dev.pwr.rails then s
    else
      let p := s.dev.pwr
      let s := if p.made then
          { s with
            dev := { s.dev with smart := { s.dev.smart with
              unsafe_ := s.dev.smart.unsafe_ + (if p.shut then 0 else 1) } }
            meter := { s.meter with powerCut := true } }
        else s
      let s := s.deviceDown
      let s := s.modPwr fun q => { q with
        rails := false, perst := true, reboot := false, plpWarn := false, holdup := false, shut := false
        lastDown := if p.made then p.ending else q.lastDown }
      { s with
        rel := { s.rel with fault := false, repl := 0, replaceN := false }
        dev := { s.dev with side := { s.dev.side with eid := 0, i3cAddr := 0 } }
        hm := { s.hm with response := none } })

/-- PERST_N_ASSERT (R481): the flush, then the reset; the links go down. -/
def execPerstNAssert (s : State) : Host.Outcome State Fault Refusal :=
  .next (if !s.dev.pwr.rails || s.dev.pwr.perst then s
    else s.flushOnce.deviceDown.modPwr fun p => { p with perst := true, reboot := false })

/-- An internal or tamper reset: the device waits for its boot (log entry 35). -/
def State.internalReset (s : State) : State := s.deviceDown.modPwr fun p => { p with reboot := true }

/-- PLP_WARN_RELEASE (R488, R491): after a flush the device resets, for it cannot resume in place. -/
def execPlpWarnRelease (s : State) : Host.Outcome State Fault Refusal :=
  .next (if !s.dev.pwr.plpWarn then s
    else
      let s := s.modPwr fun p => { p with plpWarn := false }
      if s.serving then s.internalReset else s)

/-! ## Writing through (R494, R495) -/

/-- The SX-640 writes through: warning bit 4; buffered data goes to flash as ordinary programs. -/
def State.writeThrough (s : State) : State :=
  (s.modMedia fun m => { m with wthru := true }).setWarn 4 0

/-- HOLDUP_OK_DROP (R494, R495, R498). -/
def execHoldupOkDrop (s : State) : Host.Outcome State Fault Refusal :=
  .next (
    let s := s.modPwr fun p => { p with holdup := false }
    if s.serving && !s.rel.fault then s.writeThrough.requestRepl 12 else s)

/-! ## Tamper responses (R444 to R446, R470) -/

/-- Number of a class. -/
def TamperClass.num : TamperClass → Nat
  | .e => 1
  | .g => 2
  | .p => 3

/-- Class of a sensor and its place in the table of R444. -/
def sensorClass : TamperSensor → TamperClass
  | .railLong _ => .e
  | .railShort _ => .g
  | .clockFreq => .e
  | .clockGlitch => .g
  | .junction => .e
  | .hallmarkLockstep => .g
  | .light => .p
  | .mesh => .p

/-- See `sensorClass`. -/
def sensorIdx : TamperSensor → Nat
  | .railLong _ => 0
  | .railShort _ => 1
  | .clockFreq => 2
  | .clockGlitch => 3
  | .junction => 4
  | .hallmarkLockstep => 5
  | .light => 6
  | .mesh => 7

/-- A tamper record of 16 bytes is written to the non-volatile store (R429, R446). -/
def State.tamperRecord (s : State) (c : TamperClass) (sensor : Byte) : State :=
  let r := [BitVec.ofNat 8 c.num, sensor] ++ List.replicate 6 0 ++ leBytes 8 s.time.pier.toNat
  { s with hm := { s.hm with records := s.hm.records ++ [r], nvWrites := s.hm.nvWrites + 1 } }

/-- The response of a class (R445): E flushes first and G does not, and both reset the device; P destroys the keys and
leaves it in fault state. -/
def State.respond (s : State) (c : TamperClass) (sensor : Byte) : State :=
  let s := { s with hm := { s.hm with response := some c } }
  match c with
  | .e => (s.flushOnce.zeroize.tamperRecord .e sensor).internalReset
  | .g => (s.zeroize.tamperRecord .g sensor).internalReset
  | .p =>
    let s := s.zeroize.tamperRecord .p sensor
    ({ s with hm := { s.hm with dead := true } }).enterFault 1

/-- A rail below its rating is not acted on once a flush has zeroized the volatile keys (R490). -/
def State.railQuiet (s : State) (sensor : TamperSensor) : Bool :=
  s.hm.zeroized && (sensor = .railLong true || sensor = .railShort true)

/-- A sensor trips: only a more severe class takes over a response that runs (R445). Sensors are armed from the start of
the boot (R484). -/
def State.trip (s : State) (c : TamperClass) (sensor : TamperSensor) : State :=
  let armed := s.dev.pwr.rails && !s.dev.pwr.perst && !s.hm.dead
  let above := match s.hm.response with
    | some r => r.num < c.num
    | none => true
  if sensorClass sensor = c && armed && above && !s.railQuiet sensor then s.respond c (Config.sensorNumber (sensorIdx sensor)) else s

/-- TAMPER_CLASS_E (R444 to R446). -/
def execTamperClassE (sensor : TamperSensor) (s : State) : Host.Outcome State Fault Refusal := .next (s.trip .e sensor)

/-- TAMPER_CLASS_G (R444 to R446). -/
def execTamperClassG (sensor : TamperSensor) (s : State) : Host.Outcome State Fault Refusal := .next (s.trip .g sensor)

/-- TAMPER_CLASS_P (R444 to R446, R476). -/
def execTamperClassP (sensor : TamperSensor) (s : State) : Host.Outcome State Fault Refusal := .next (s.trip .p sensor)

/-- A Hallmark fault takes the class G response and is reported at the power-up that follows (R470); the sensor number of
its record is not stated: a free value. -/
def State.hallmarkFault (s : State) : State :=
  let b := BitVec.ofNat 8 s.freeWord.toNat
  let s := { s.drawn with rel := { s.rel with hmFault := true } }
  s.respond .g b

/-- KEY_BUS_TRANSFER (R216, R436, R470): a good transfer is latched, into the cache of a cipher lane or the registers of its
destination; the third failure in a row is a Hallmark fault. -/
def execKeyBusTransfer (dest : KeyDest) (parityOk : Bool) (s : State) : Host.Outcome State Fault Refusal :=
  .next (if !s.hm.ready then s
    else if parityOk then
      let s := { s with hm := { s.hm with busFails := 0 } }
      match dest with
      | .cipherLane c x =>
        let k := (x, (s.mediaKey x).gen)
        if c < 32 ∧ x ≤ 4096 then
          s.modMedia fun m => m.modChan c fun y => { y with keys := (k :: y.keys.filter (· ≠ k)).take 64 }
        else s
      | .dramXts c d => match Tbl.get? s.hm.domains d with
        | some k => if c < 4 then s.modDchan c fun y => { y with keys := Tbl.set y.keys d k } else s
        | none => s
      | .cipherPool u n => match Tbl.get? s.hm.slots n with
        | some k => s.setUnit .cipher u { s.unit .cipher u with keyReg := some (n, Tbl.getD s.hm.gens n 0, k.key) }
        | none => s
    else if 2 ≤ s.hm.busFails then ({ s with hm := { s.hm with busFails := 0 } }).hallmarkFault
    else { s with hm := { s.hm with busFails := s.hm.busFails + 1 } })

/-! ## The locked debug port (R448 to R450, R553) -/

/-- JTAG_IDCODE (R448, R553). -/
def execJtagIdcode (s : State) : Host.Outcome State Fault Refusal := .next (s.jtagOut (leBytes 4 0x2064045D))

/-- JTAG_BYPASS (R448, R553): the one-bit register of every code that names no instruction. -/
def execJtagBypass (code : Byte) (s : State) : Host.Outcome State Fault Refusal :=
  .next (if code = 0x01 ∨ code = 0x30 ∨ code = 0x31 then s else s.jtagOut [0])

/-- A token meets every rule of R449. -/
def State.tokenGood (s : State) (t : List Byte) : Bool :=
  let part (a n : Nat) : List Byte := (t.drop a).take n
  let scope := (t.getD 5 0).toNat
  t.length = 2948 && part 0 4 = [0x44, 0x42, 0x54, 0x4B] && t.getD 4 0 = 1 && 1 ≤ scope && scope < 8
    && part 6 2 = [0, 0] && part 8 32 = Config.shake256 (Config.publicKey identityKey) 32
    && part 40 32 = s.hm.challenge && (part 72 56).all (· = 0) && Config.xmssVerify 1 (part 0 128) (t.drop 128)

/-- Every slice is reset by R119; a reset or rebind in progress ends with it. -/
def State.resetAll (s : State) : State :=
  (s.host.slices.filter fun p => p.2.st ≠ .absent).foldl (fun (s : State) p =>
    let s := if (s.slice p.1).rebinds then s.runRebind p.1 5 else s
    s.runReset p.1 7) s

/-- Every media key and key slot is replaced or emptied, with the manager's import seed (R450 step 2). -/
def State.eraseKeys (s : State) : State :=
  let s := (insNat 4096 ((s.hm.media.map (·.1)).filter (· < 4096))).foldl (fun (s : State) x => s.newMediaKey x) s
  let s := (s.hm.slots.map (·.1)).foldl (fun (s : State) n => s.bumpSlot n) s
  ({ s.drawn with hm := { s.hm with
      slots := [], commit := [], joining := []
      imports := Tbl.set s.hm.imports 0xFFFF { s.importPair 0xFFFF with seed := Config.freeNat s.free } } }).wrapTable.checkNv

/-- JTAG_UNLOCK (R448 to R450): an accepted token erases every key, after the commits that were asked for before it (R214), and
opens the blocks of its SCOPE; a refused one redraws the challenge, and after 8 refusals every token is refused. -/
def execJtagUnlock (token : List Byte) (s : State) : Host.Outcome State Fault Refusal :=
  .next (if 8 ≤ s.hm.refusals || !s.tokenGood token then
      ({ s with hm := { s.hm with refusals := s.hm.refusals + 1 } }).newChallenge
    else
      let s := (s.resetAll.keyCommit.keyCommit.eraseKeys).eventMr 5 0x15 (token.take 128)
      { s with hm := { s.hm with unlocked := true, erased := true, refuses := true, scope := token.getD 5 0 } })

end Sys2Proof.Machine
end

