-- ==== Sys2Proof/Machine/Boot.lean ====
section
/-! DEFINITION. The boot sequence: straps, the choice of firmware, self-tests, DRAM and flash formation, tinning, the
strap and population record, replay, and errors of on-chip SRAM that take it (R148 to R150, R215, R388, R400, R425 to
R430, R439, R446, R450, R467, R470, R473, R480 to R488, R492, R494 to R498, R546). -/

namespace Sys2Proof.Machine

/-! ## Straps (R545, R546) -/

/-- Latch the strap balls: PORTCFG, MGRPORT, SBSEL, DRATE, DDENS, DRANKS from bit 0 up. A manager port that the split does
not create is port 0 (R500). -/
def State.latchStraps (s : State) (v : BitVec 10) : State :=
  let split := v.extractLsb' 0 2
  let port := (v.extractLsb' 2 2).toNat
  { s with dev := { s.dev with
      split := split, mgrPort := if port < splitPorts split then port else 0
      dRate := v.extractLsb' 5 2, dDens := v.extractLsb' 7 2, dRanks := v.getLsbD 9, latched := true
      pwr := { s.dev.pwr with sbsel := v.getLsbD 4 } } }

/-! ## The Hallmark unit (R423 to R430, R446, R448, R450, R470) -/

/-- Keys that are drawn at every boot, and reservations at which the signer resumes. -/
def State.bootKeys (s : State) : State :=
  let h := s.hm
  let s := { s.drawn with hm := { h with
    ready := true, zeroized := false, response := none, wrapKey := Config.freeNat s.free
    idNext := h.idRes, slNext := h.slRes, erased := false } }
  s.newChallenge

/-- After a debug unlock SEALGEN rises with a new seal key and certificate, MR7 is extended, and no slice, namespace or
array exists (R427, R450). -/
def State.afterUnlock (s : State) : State :=
  let (n, r, w) := takeIndex s.hm.idNext s.hm.idRes
  let s := { s with
    hm := { s.hm with
      sealGen := s.hm.sealGen + 1, slNext := 0, slRes := 0, certIdx := s.hm.idNext, idNext := n, idRes := r
      sealPier := s.time.pier, nvWrites := s.hm.nvWrites + 1 + (if w then 1 else 0), smrs := [] }
    meter := { s.meter with chain := false, slices := Tbl.mapV s.meter.slices fun _ m => { m with closing := true } }
    host := { s.host with slices := [] }
    dram := { s.dram with extents := [] }
    dev := { s.dev with san := [] }
    media := { nextProg := s.media.nextProg, nextRead := s.media.nextRead, nextIo := s.media.nextIo
               nextRun := s.media.nextRun, sys := s.media.sys, tables := s.media.tables } }
  s.eventMr 7 0x17 s.sealStatement

/-- The tamper records are extended into MR6, counted and logged; class G raises the warning (R445, R446). -/
def State.tamperReport (s : State) : State :=
  let rs := s.hm.records
  let s := { s with hm := { s.hm with records := [], tampers := s.hm.tampers + rs.length } }
  rs.foldl (fun (s : State) r =>
    let s := (s.eventMr 6 0x16 r).logFault 0x15 2 [0] none [0] (r.map (·.toNat))
    if r.head? = some 2 then s.setWarn 2 0 else s) s

/-! ## Firmware (R439, R485) -/

/-- The slot that boots: the one activated last, the one that ran before it, then the others. -/
def State.chooseSlot (s : State) (env : BootEnv) : Option (Nat × Nat × List Byte) :=
  [s.dev.fw.act, s.dev.fw.before, 1, 2, 3, 4].findSome? fun n =>
    env.validSlots.find? fun v => v.1 = n && match Tbl.get? s.dev.fw.slots n with
      | some x => x.pair s.hm.fwSvn
      | none => s.hm.fwSvn ≤ v.2.1

/-- The images of a slot that no Firmware Commit has stored: their headers are free values. -/
def State.knowSlot (s : State) (n svn : Nat) (rev : List Byte) : State :=
  if (Tbl.get? s.dev.fw.slots n).isSome then s
  else
    let i : FwImage := ⟨svn, (rev ++ List.replicate 8 0x20).take 8, s.freeBytes 128⟩
    (s.drawnN 128).modFw fun f => { f with slots := Tbl.set f.slots n ⟨some i, some i⟩ }

/-- Stage 1 and stage 2 are measured and run; MR1 takes the hand-over and MR3 the configuration block (R430). -/
def State.runSlot (s : State) (n : Nat) : State :=
  let one := (((s.dev.fw.slot n).stage1).map (·.header)).getD []
  let record := orderSuffix ++ [BitVec.ofNat 8 s.hm.fwSvn, 0, 0, 0] ++ leBytes 4 s.hm.sealGen ++ leBytes 4 0
    ++ Config.shake256 (Config.publicKey identityKey) 32
  let s := ((s.eventMr 0 0x10 one).eventMr 1 0x11 record).modFw fun f => { f with running := n, next := none }
  (s.measureStage2 n).eventMr 3 0x13 Config.configBlock

/-! ## Self-tests (R454, R460, R464, R468) -/

/-- An engine class by its number. -/
def classOf (n : Nat) : EngineClass :=
  if n = 0 then .crucible else if n = 1 then .assay else if n = 2 then .cipher else .softDecoder

/-- Keeper pairs, links, cores and engines are tested. -/
def State.selfTest (s : State) (env : BootEnv) : State :=
  let n := min 5 env.keeperPairsOk
  let s := { s with rel := { s.rel with
    pairs := List.range n, serves := (List.range 4).map fun i => (i, if i < n then i else i % max 1 n) } }
  let s := env.badLinks.foldl (fun (s : State) l => s.failLink l 2) s
  let s := env.badCores.foldl (fun (s : State) c => s.coreFault c 4) s
  env.badEngines.foldl (fun (s : State) u =>
    if u / 100 < 4 ∧ u % 100 < classUnits (classOf (u / 100)) then s.retireUnit (classOf (u / 100)) (u % 100) else s) s

/-! ## Flash formation (R148 to R150, R185, R191) -/

/-- A chip's U_m in a mode (R191). -/
def chipUnits (p : Chip) (c : Cell) : Nat := p.wordlines * c.bits * (p.planes * (p.pageBytes / c.codeword))

/-- The rules of R148 that a chip breaks beside the first one, by their place in the table (log entry 154): part, chip
enables, LUNs, die size, cell modes, blocks, block size with the limit of R191, signalling (R180). -/
def chipBroken (p first : Chip) (ces : List Nat) : List Nat :=
  let has (k : Nat) : Bool := ces.contains k
  let modes := [Cell.slc, .tlc, .qlc, .plc]
  (if p.part ≠ first.part then [2] else [])
    ++ (if 8 ≤ p.ce ∨ ¬ (List.range p.ce).all has then [3] else [])
    ++ (if p.luns.length ≠ first.luns.length ∨ ¬ [1, 2, 4].contains p.luns.length then [4] else [])
    ++ (if 4096 < p.dieGb then [5] else [])
    ++ (if p.rated.length ≠ 4 ∨ p.rated.any fun e => e.all (· = 0) then [6] else [])
    ++ (if 8192 < p.blocks then [7] else [])
    ++ (if modes.any fun c => 32768 < chipUnits p c then [8] else [])
    ++ (if p.toggle.isNone ∨ p.toggle ≠ first.toggle ∨ p.maxRate < 3200 then [9] else [])

/-- What breaks R148: channel, chip enable and rule; a channel with no chip, or without a chip enable that the first
channel with one has, breaks too. -/
def populationFaults (chips : List Chip) : List (Nat × Nat × Nat) :=
  let ces (c : Nat) : List Nat := (chips.filter fun p => p.chan = c).map (·.ce)
  match chips with
  | [] => (List.range 32).map fun c => (c, 0, 1)
  | first :: _ =>
    (List.range 32).flatMap fun c =>
      if (ces c).isEmpty then [(c, 0, 1)]
      else ((ces first.chan).filter fun k => !(ces c).contains k).map (fun k => (c, k, 3))
        ++ (chips.filter fun p => p.chan = c).flatMap fun p =>
          ((if (ces first.chan).contains p.ce then [] else [3]) ++ chipBroken p first (ces c)).eraseDups.map fun r => (c, p.ce, r)

/-- The read preamble, where bytes 200 to 209 declare fast deck signalling (R181). -/
def fastPreamble (b : List Byte) : Option Nat :=
  let n := (b.getD 6 0).toNat
  if b.length = 10 ∧ b.take 6 = [0x46, 0x44, 0x53, 0x01, 0x0C, 0x07] ∧ 2 ≤ n ∧ n ≤ 8 ∧ b.getD 7 0 = 0
      ∧ leNat (b.drop 8) = (crc16 0x8005 0x4F4E (b.take 8)).toNat
  then some n else none

/-- Spare blocks of a die at formation: 2 % of its good blocks, rounded up, and at least 8. -/
def spareBlocks (good : Nat) : Nat := max 8 ((good + 49) / 50)

/-- The LUN at a position of a channel. A position is a chip enable's LUN. -/
def lunAt (chips : List Chip) (luns chan pos : Nat) : Option Lun :=
  (chips.find? fun p => p.chan = chan && p.ce = pos / max 1 luns).bind fun p => p.luns[pos % max 1 luns]?

/-- The signalling mode and the top step that every chip declares (R180, R181, R185), with training at it. -/
def State.trainFlash (s : State) (env : BootEnv) : State :=
  let fast := !env.chips.isEmpty && env.chips.all fun p => (fastPreamble p.fast).isSome
  let toggle := env.chips.any fun p => p.toggle = some true
  let top := if fast then 4800 else if !env.chips.isEmpty && env.chips.all fun p => 3600 ≤ p.maxRate then 3600 else 3200
  s.modMedia fun m => { m with
    sig := BitVec.ofNat 2 ((if fast then 2 else 0) + if toggle then 1 else 0), top := top
    preamble := if fast then (env.chips.foldl (fun n p => max n ((fastPreamble p.fast).getD 0)) 0) else 0
    ppHash := Config.shake256 env.paramPage 32
    chans := (List.range 32).map fun c => (c, { failed := (m.chan c).failed, rate := if (m.chan c).failed then 0 else top }) }

/-- The array that a population forms (R150, R191, R198): the sets of each position, the spares of each die with the good
blocks beyond, and the byte columns that the factory or the formation test marks. -/
def State.formArray (s : State) (chips : List Chip) (first : Chip) : State :=
  let luns := first.luns.length
  let ces := (chips.filter fun p => p.chan = first.chan).length
  let d := ces * luns
  let good (c p : Nat) : Nat := ((lunAt chips luns c p).map (·.good)).getD 0
  let sets (p : Nat) : Nat :=
    ((List.range 32).map fun c => good c p - spareBlocks (good c p)).foldl min (good 0 p)
  let left (c p : Nat) : Nat := good c p - sets p
  let rate (i : Nat) : Nat := ((first.rated[i]?).join).getD 1
  let s := s.modMedia fun m => { m with
    formed := true, dpos := d, ces := ces, luns := luns, posSets := (List.range d).map sets
    planes := first.planes, pageBytes := first.pageBytes, wordlines := first.wordlines
    rating := (rate 0, rate 1, rate 2, rate 3), suspends := chips.all fun p => p.suspends
    spares0 := (List.range 32).map fun c => ((List.range d).map (left c)).foldl (· + ·) 0
    spares := (List.range d).flatMap fun p => (List.range 32).map fun c => (p * 32 + c, List.replicate (left c p) 0) }
  (List.range (32 * d)).foldl (fun s die =>
    (((lunAt chips luns (die % 32) (die / 32)).map (·.badCols)).getD []).foldl (fun s k => s.enterColumn die k) s) s

/-- The flash is identified, and the array is formed once; a population that breaks a rule forms none, and is logged
(R149). -/
def State.formFlash (s : State) (env : BootEnv) : State :=
  let chips := env.chips.filter fun p => p.chan < 32
  let s := s.trainFlash env
  if s.media.formed then s
  else match populationFaults chips, chips with
    | [], first :: _ => s.formArray chips first
    | l, _ => l.foldl (fun s (c, k, r) => s.logFault 0x01 2 [c] none [k] [r]) s

/-! ## DRAM (R394, R400, R411, R414, R415, R486) -/

/-- Two rounds of hard repair: at most two rows of a device in one boot. -/
def State.hardRepair (s : State) : State :=
  (s.dram.rows.foldl (fun (p : State × List FlagRow) r =>
    let (s, done) := p
    let now := (done.filter fun x => x.chan = r.chan && x.dev = r.dev
      && s.markIdx (x.cw * 64) = s.markIdx (r.cw * 64)).length
    if 2 ≤ now then (s, done)
    else if Config.hardRepairs ≤ s.hardUsed r then (s.requestRepl 3, done)
    else
      let left := Config.hardRepairs - s.hardUsed r - 1
      let s := { s with dram := { s.dram with
        hardRows := s.dram.hardRows ++ [r], rows := s.dram.rows.filter fun x => x ≠ r } }
      (s.logFault 0x09 1 [r.chan] none
        [s.dramRank (r.cw * 64), dramSub (r.cw * 64), s.dramRow (r.cw * 64)] [1, left], r :: done)) (s, [])).1

/-- Tinning: the size in force is the one stored, every page is blank, and the domain keys are drawn afresh. -/
def State.tin (s : State) : State :=
  let s := { s with dram := { s.dram with btSize := s.dram.btSaved, btNext := s.dram.btSaved } }
  ((s.host.slices.filter fun p => p.2.st ≠ .absent).map (·.1) ++ [1024]).foldl (fun (s : State) d => s.drawDomain d) s

/-- The 64-byte strap and population record (R488). -/
def State.populationRecord (s : State) : List Byte :=
  let n := splitPorts s.dev.split
  let m := s.media
  [1, if n = 2 then 1 else if n = 4 then 2 else 0] ++ leBytes 1 s.dev.mgrPort ++ [if s.dev.pwr.sbsel then 1 else 0]
    ++ leBytes 2 s.dramCfg ++ leBytes 1 s.dram.btSize ++ leBytes 1 m.sig.toNat ++ leBytes 1 m.ces ++ leBytes 1 m.luns
    ++ leBytes 2 0 ++ leBytes 4 (m.dies - ((List.range m.dies).filter m.dieOut).length) ++ m.ppHash
    ++ leBytes 8 ({ s with dev := { s.dev with pwr := { s.dev.pwr with phase := 5 } } } : State).relStat ++ leBytes 8 0

/-! ## Write buffer size (R492) -/

/-- WB in units of 64 MiB. -/
def State.bufferUnits (s : State) (env : BootEnv) : Nat :=
  let m := s.media
  let tProg := env.chips.foldl (fun n p => max n p.tProg) 0
  let dies := ((List.range m.dies).filter fun d => !m.dieOut d).length
  let capDie := dies * 31 * (32000 / max 1 tProg) * m.perPage .slc * 4096 / 32
  let capBus := 31 * (32000 * m.top / 4320) * 4096
  if m.formed then min 32 ((min capDie capBus - 2 ^ 26) / 2 ^ 26) else 0

/-! ## Replay (R145, R174, R205, R214, R215, R483, R496, R497) -/

/-- A change that replay finds is listed and noticed (R86, R215). -/
def State.noticeNs (s : State) (x : Nat) : State :=
  let n := s.nsx x
  s.modCtrl (sliceCtrl n.slice) fun c => { c with
    changed := insNat n.nsid c.changed
    events := if c.events.contains ⟨2, 0, 4⟩ then c.events else c.events ++ [⟨2, 0, 4⟩] }

/-- One replacement that a commit had brought into force (R215). -/
def State.replayAct (s : State) (a : KeyAct) : State :=
  let s := s.applyAct a
  match a with
  | .nsCreate x => s.noticeNs x
  | .nsDelete xs => xs.foldl (fun (s : State) x => s.noticeNs x) s
  | _ => s

/-- The commit that ran at the loss is in force or is not: a free bit. What had joined the next one is not; a namespace
whose create did not come into force was not created (R214, R215). -/
def State.replayKeys (s : State) : State :=
  let works := s.hm.commit
  let s := { s with hm := { s.hm with commit := [], joining := [] } }
  let s := if works.isEmpty then s
    else if s.freeWord.getLsbD 0 then (works.foldl (fun (s : State) w => s.replayAct w.act) s.drawn).wrapTable else s.drawn
  let s := s.modMedia fun m => { m with ns := m.ns.filter fun p => !p.2.pending }
  { s with hm := { s.hm with media := Tbl.mapV s.hm.media fun _ k => { k with seq := k.res } } }

/-- Slice commands pending from before the reset complete, and post nothing (R483). -/
def State.replaySlice (s : State) (sl : Nat) : State :=
  let deleting : Bool := (s.slice sl).st = .deleting
  let s := s.modSlice sl fun x => { x with seqSrc := none, delSrc := none }
  let x := s.slice sl
  let s := if !x.st.moving then s
    else if x.rebinds then s.runRebind sl 5
    else if deleting then s
    else s.runReset sl 7
  if deleting then s.deleteSlice sl else s

/-- One set at replay (R172, R174): an open one closes, with its stripe and packing group unprotected; one that holds no
valid granule is erased, its marked blocks exchanged. A set cut off in its erase that the map names again keeps its units
unreadable. -/
def State.replaySet (s : State) (n : Nat) : State :=
  let s := if (s.media.set n).st = .open_ then s.cutSet n else s
  let b := s.media.set n
  if b.st = .erased ∨ b.st = .retired then s
  else if s.media.spent n then
    let s := s.startErase n
    if (s.media.set n).st = .erasing then s.setErased n else s
  else if b.st = .erasing then
    s.modMedia fun m => { m.modSet n fun b => { b with st := .closed } with
      stored := m.stored.filter fun p => p.1 / 2 ^ 20 ≠ n }
  else s.modMedia fun m => m.modSet n fun b => { b with st := .closed }

/-- The block sets at replay; the stripes whose parity pages were not programmed are unprotected (R205, R496). -/
def State.replaySets (s : State) : State :=
  let s := s.media.sets.foldl (fun (s : State) p => s.replaySet p.1) s
  s.media.truss.foldl (fun (s : State) p =>
    (s.modMedia fun m => { m with truss := Tbl.del m.truss p.1 }).nakedStripe (p.1 / 2 ^ 16) (p.1 % 2 ^ 16)) s

/-- Replay in the order of R496, as far as it shows. -/
def State.replay (s : State) : State :=
  let s := s.replaySets.replayKeys
  let closed := s.meter.closed.map fun (m : Minute) => { m with flags := m.flags % 4 }
  let s := { s with
    meter := { s.meter with closed := closed }
    hm := { s.hm with waitSeal := !closed.isEmpty } }
  let s := s.signerNext
  let s := (s.host.slices.filter fun p => p.2.st ≠ .absent).foldl (fun (s : State) p => s.replaySlice p.1) s
  (s.dev.san.filter fun p => p.2.running).foldl (fun (s : State) p =>
    s.startCommit { src := none, act := .sanitize (if p.1 = 1024 then none else some p.1) }) s

/-! ## Replacement causes and warnings that hold again (R168, R177, R473, R474, R494, R495) -/

/-- Bits of REL.REPL whose condition holds are set. -/
def State.recheck (s : State) : State :=
  let forges := (List.range 16).any fun f => ((List.range 9).filter fun k => s.coreEnabled (9 * f + k)).length < 8
  let holds : List (Nat × Bool) :=
    [(0, s.media.exhaust), (2, s.marked ≠ 0), (4, s.rel.sram.any fun g => g.2.used.any fun u => 8 ≤ u.2),
     (5, s.rel.pairs.length < 5), (6, forges), (7, !s.media.dieBad.isEmpty), (8, s.media.chansFailed ≠ 0)]
  let s := holds.foldl (fun (s : State) p => if p.2 then s.requestRepl p.1 else s) s
  let s := s.checkSpare.checkNv
  let s := if s.rel.repl ≠ 0 then s.setWarn 2 0 else s
  if s.media.ns.any fun p => p.2.lives && p.2.readOnly then s.setWarn 3 0 else s

/-- HOLDUP_OK at the end of replay, and a write buffer below 256 MiB (R492, R494, R495). -/
def State.holdupCheck (s : State) (high : Bool) : State :=
  let s := s.modPwr fun p => { p with holdup := high }
  if !high then s.writeThrough.requestRepl 12
  else if s.media.formed ∧ s.media.wb < 4 then s.writeThrough
  else s

/-- The device is ready: RDY is set on every enabled controller (R484 step 12). -/
def State.ready (s : State) : State :=
  let s := s.modPwr fun p => { p with
    phase := 5, wpLow := false, lastDown := if p.made then p.lastDown else 3, made := true, marker := false, warned := false }
  { s with host := { s.host with ctrls := Tbl.mapV s.host.ctrls fun _ c => { c with rdy := c.rdy || (c.en && !c.cfs) } } }

/-- Steps 7 to 12 of the boot sequence. -/
def State.bootStage2 (s : State) (env : BootEnv) : State :=
  if !env.dramTrained || s.dev.dDens = 3 then (s.modPwr fun p => { p with phase := 1 }).enterFault 3
  else
    let s := { s with dram := { s.dram with trained := true } }
    let s := ((s.formFlash env).hardRepair).tin
    let s := s.eventMr 4 0x14 s.populationRecord
    let wb := s.bufferUnits env
    let s := (s.modMedia fun m => { m with wb := wb }).replay
    (s.recheck.holdupCheck env.holdup).ready

/-- The boot sequence (R484). A Hallmark fault now, no valid image pair, or no keeper pair that passes puts the device in
fault state; with PLP_WARN_N asserted it waits, and begins again when that is released (R488). -/
def State.boot (s : State) (env : BootEnv) : State :=
  if s.rel.fault || s.hm.dead then s
  else if s.dev.pwr.plpWarn then s.modPwr fun p => { p with reboot := true, phase := 3 }
  else
    let unlocked := s.hm.erased
    let s := s.bootKeys
    let s := (if unlocked then s.afterUnlock else s).tamperReport
    let s := if s.rel.hmFault then
        ({ s with rel := { s.rel with hmFault := false } }).logFault 0x16 3 [0] none [0] [0] |>.requestRepl 13
      else s
    if !env.hallmarkOk then s.enterFault 4
    else match s.chooseSlot env with
      | none => s.enterFault 2
      | some (n, svn, rev) =>
        let s := env.validSlots.foldl (fun (s : State) v => s.knowSlot v.1 v.2.1 v.2.2) (s.knowSlot n svn rev)
        let s := (s.runSlot n).selfTest env
        if s.rel.pairs.isEmpty then s.enterFault 5
        else if s.rel.fault then s
        else (s.modPwr fun p => { p with vidTo := Config.vidOperating }).bootStage2 env

/-- PERST_N_DEASSERT (R480, R481, R484 to R488, R546): the straps are latched and the device boots; with PERST_N high
already, the boot that an internal or tamper reset has left pending runs with the old straps (log entry 35). -/
def execPerstNDeassert (straps : BitVec 10) (env : BootEnv) (s : State) : Host.Outcome State Fault Refusal :=
  .next (if !s.dev.pwr.rails then s
    else if s.dev.pwr.perst then
      ((s.latchStraps straps).modPwr fun p => { p with perst := false, reboot := false }).boot env
    else if s.dev.pwr.reboot then (s.modPwr fun p => { p with reboot := false }).boot env
    else s)

/-! ## Uncorrectable errors of on-chip SRAM (R467, R470) -/

/-- An uncorrectable error is logged (R467, R472): SEV 01h where another copy makes it good, else 04h (log entry 115). -/
def State.sramLogged (s : State) (group sev : Nat) (result : Nat) : State :=
  s.logFault 0x0B sev [group] none [0, 0] [result]

/-- SRAM_UNCORRECTABLE (R352, R386, R467, R470, R481). For a core, the address and the instruction it meets the error at are
free values; an entry of its operand cache is met by the access or the write-back that comes to it. -/
def execSramUncorrectable (place : SramPlace) (s : State) : Host.Outcome State Fault Refusal :=
  .next (match place with
    | .core c =>
      let s := if c < builtCores then s.sramLogged (c / 9) 4 1 else s
      let t := s.drawn
      if s.coreRuns c then t.drawn.takeSync c { num := Sys2Proof.Machine.excBus, addr := s.freeWord } 8 t.freeWord else s
    | .cacheEntry c i => match Tbl.get? (s.core c).oc.lines i with
      | none => s
      | some _ => (s.sramLogged (c / 9) 4 1).modOc c fun o => { o with lost := insNat i o.lost }
    | .journalOne => s.sramLogged 16 1 2
    | .journalBoth => (s.sramLogged 16 4 3).flushOnce.internalReset
    | .keeper => s.sramLogged 16 1 4
    | .readBuffer n => match Tbl.get? s.media.reads n with
      | none => s
      | some r =>
        let s := s.sramLogged (17 + s.media.unitChan r.set r.off / 4) 1 5
        { s with rel := { s.rel with repaired := s.rel.repaired + 1 } }
    | .programBuffer n => match Tbl.get? s.media.progs n with
      | none => s
      | some p =>
        let s := s.sramLogged (17 + p.chans.headD 0 / 4) 1 6
        { s with rel := { s.rel with repaired := s.rel.repaired + 1 } }
    | .engineContext c n => (s.sramLogged 25 4 7).poisoned (.engine c n)
    | .keyStore => (s.sramLogged 26 4 8).hallmarkFault
    | .blankBits k => s.sramLogged (27 + k % 4) 1 9)

end Sys2Proof.Machine
end

