-- ==== Sys2Proof/Machine/DramAccess.lean ====
section
/-! DEFINITION. Requests at a DRAM controller, with what becomes of a requester whose access fails (chapter 13). -/

namespace Sys2Proof.Machine

/-- The access met an uncorrectable codeword: its reply is poisoned, and its requester learns of it (R24, R27, R409). -/
def State.dramFails (s : State) (a : Nat) (who : Option HostReader) : State :=
  let s := s.dramReply ⟨a, true, []⟩
  match who with
  | some w => s.poisoned w
  | none => s

/-- The domain that a request names (R399): a core in user mode, its run's slice, and in supervisor mode, for pages of the
runtime pool, the slice it serves; a command or an engine job of a slice, that slice; any other requester names its own. -/
def State.requestDomain (s : State) (place : DramAt) (who : Option HostReader) : Nat :=
  let run (c : Nat) : Nat := match s.runOn c with
    | some r => r.slice
    | none => place.domain
  match who with
  | some (.core c _) => if !(s.core c).sup || s.dramPlace place.addr = .other true then run c else place.domain
  | some (.command q _) => q.slice?.getD place.domain
  | some (.engine c n) =>
    match (s.runningJob c n).map (·.2) <|> s.waitingJob c n with
    | some q => q.slice.getD place.domain
    | none => place.domain
  | _ => place.domain

/-- DRAM_READ (R27, R396, R397, R398, R399, R409 to R412): one codeword. -/
def execDramRead (place : DramAt) (cls : BitVec 2) (flash : Option Nat) (who : Option HostReader) (err : DramErrors)
    (s : State) : Host.Outcome State Fault Refusal :=
  .next (if s.dramCap ≤ place.addr then s
    else
      let a := place.addr / 64 * 64
      if s.dramBlank a then s.dramReply ⟨a, false, List.replicate 64 0⟩
      else
        let domain := s.requestDomain place who
        let s := s.enqueue a false cls flash
        match s.dramFetch a domain cls.toNat err with
        | (some bs, t) => t.dramReply ⟨a, false, bs⟩
        | (none, t) => t.dramFails a who)

/-- The first write to a blank page: its 64 codewords are written under the write's domain (R396, R412). -/
def State.fillPage (s : State) (a domain : Nat) (bs : List Byte) : State :=
  let s := s.dramStore a bs
  let s := (List.range 64).foldl (fun s i => (s.setDomain (a / 4096 * 64 + i) domain).celWritten (a / 4096 * 64 + i)) s
  { s with dram := { s.dram with filling := Tbl.set s.dram.filling (a / 4096) [] } }

/-- DRAM_WRITE (R27, R396, R397, R399, R403, R409, R412): bytes within one codeword; a part of one is merged by a
read, and an uncorrectable merge read leaves the codeword and answers a bus error. -/
def execDramWrite (place : DramAt) (cls : BitVec 2) (bytes : List Byte) (who : Option HostReader) (err : DramErrors)
    (s : State) : Host.Outcome State Fault Refusal :=
  .next (
    let addr := place.addr
    let domain := s.requestDomain place who
    let bs := bytes.take (64 - addr % 64)
    if s.dramCap ≤ addr ∨ bs = [] then s
    else if s.dramBlank addr then (s.enqueue addr true cls none).fillPage addr domain bs
    else
      let s := s.enqueue addr true cls none
      let a := addr / 64 * 64
      if bs.length = 64 then ((s.dramStore a bs).setDomain (a / 64) domain).celWritten (a / 64)
      else match s.dramFetch a domain cls.toNat err with
        | (none, t) => t.dramFails a who
        | (some old, t) =>
          let o := addr % 64
          let all := old.take o ++ bs ++ old.drop (o + bs.length)
          ((t.dramStore a all).setDomain (a / 64) domain).celWritten (a / 64))

end Sys2Proof.Machine
end

