-- ==== Sys2Proof/Machine/Pcie.lean ====
section
/-! DEFINITION. The PCI Express ports: function and link resets, Bus Master Enable and power states, PASID and address
translation, host reads in error, link training and degradation, and the interrupt message stores (R69, R482, R499 to
R523, R548). -/

namespace Sys2Proof.Machine

/-! ## Function and link resets (R69, R482, R511, R516, R523, R548) -/

/-- The split creates the port (R499). -/
def State.isPort (s : State) (p : Nat) : Bool := p < splitPorts s.dev.split

/-- Change a port. -/
def State.modPort (s : State) (p : Nat) (f : Port → Port) : State :=
  { s with dev := { s.dev with ports := Tbl.set s.dev.ports p (f (s.port p)) } }

/-- Slices bound to a port. -/
def State.slicesOn (s : State) (p : Nat) : List Nat :=
  (s.host.slices.filter fun x => x.2.st ≠ .absent && x.2.port = p).map (·.1)

/-- Controllers of a port's function: its own, and those of the slices bound to it (R482). -/
def State.ctrlsOn (s : State) (p : Nat) : List Nat := p :: (s.slicesOn p).map sliceCtrl

/-- Translations of a port are dropped. -/
def State.dropPortAts (s : State) (p : Nat) : State :=
  { s with dev := { s.dev with ats := s.dev.ats.filter fun a => a.port ≠ p } }

/-- The writes of a port's slices that wait are discarded. -/
def State.dropPortPaused (s : State) (p : Nat) : State :=
  let on := s.slicesOn p
  { s with host := { s.host with paused := s.host.paused.filter fun x => match x with
    | .data a _ _ _ => !on.contains a
    | .cqe a _ => !on.contains a
    | .port i _ _ => i ≠ p } }

/-- A reset of a port function (R69, R482): its controllers are reset, and its configuration space returns to the values
of PCI Express (log entry 37); BAR4 keeps its contents. -/
def State.functionReset (s : State) (p : Nat) : State :=
  let s := (s.ctrlsOn p).foldl (fun (s : State) i =>
    let s := s.ctrlReset i
    if s.rel.fault then s.setCfs i else s) s
  let s := { s with out := { s.out with np := Tbl.del s.out.np p, held := s.out.held.filter fun r => r.port ≠ p } }
  ((s.dropPortAts p).dropPortPaused p).modPort p fun x => { x with
    bme := false, pasidEn := false, atsEn := false, msixEn := false, funcMask := false, d3hot := false
    mps := 128, mrrs := 512, tags10 := false, relaxed := true, ido := false }

/-- A port's link goes down; on the manager port PTM is usable no longer (R113, R523). -/
def State.linkLost (s : State) (p : Nat) : State :=
  let s := (s.functionReset p).modPort p fun x => { x with linkUp := false, width := 0, speed := 0, flit := false, reversed := false }
  if p = s.dev.mgrPort then { s with time := { s.time with ptm := false, dialogue := false, ptmOk := 0 } } else s

/-- PORT_RST_ASSERT (R548): a port that the split does not create is not reset. -/
def execPortRstAssert (port : Nat) (s : State) : Host.Outcome State Fault Refusal :=
  .next (if 4 ≤ port then s
    else
      let s := s.modPort port fun x => { x with inReset := true }
      if s.isPort port then s.linkLost port else s)

/-- PORT_RST_DEASSERT (R548): the port may train. -/
def execPortRstDeassert (port : Nat) (s : State) : Host.Outcome State Fault Refusal :=
  .next (if 4 ≤ port then s else s.modPort port fun x => { x with inReset := false })

/-- HOT_RESET (R482, R523). -/
def execHotReset (port : Nat) (s : State) : Host.Outcome State Fault Refusal :=
  .next (if s.isPort port then s.functionReset port else s)

/-- LINK_DOWN (R482, R523). -/
def execLinkDown (port : Nat) (s : State) : Host.Outcome State Fault Refusal :=
  .next (if s.isPort port then s.linkLost port else s)

/-- FUNCTION_LEVEL_RESET (R482, R516). -/
def execFunctionLevelReset (port : Nat) (s : State) : Host.Outcome State Fault Refusal :=
  .next (if s.isPort port then s.functionReset port else s)

/-- D3HOT_ENTRY (R516). -/
def execD3hotEntry (port : Nat) (s : State) : Host.Outcome State Fault Refusal :=
  .next (if s.isPort port then s.modPort port fun x => { x with d3hot := true } else s)

/-- D3HOT_TO_D0 (R516): No_Soft_Reset is 0. -/
def execD3hotToD0 (port : Nat) (s : State) : Host.Outcome State Fault Refusal :=
  .next (if s.isPort port && (s.port port).d3hot then s.functionReset port else s)

/-! ## Bus Master Enable and PASID Enable (R513, R516) -/

/-- What waited on a port for its function goes on: writes, completions, interrupt messages. -/
def State.resumePort (s : State) (p : Nat) : State :=
  if !s.portIssues p then s
  else
    let s := (s.slicesOn p).foldl (fun (s : State) sl => s.releasePaused sl) s
    let l := s.host.paused
    let s := { s with host := { s.host with paused := l.filter fun x => match x with
      | .port i _ _ => i ≠ p
      | _ => true } }
    let s := l.foldl (fun (s : State) x => match x with
      | .port i a d => if i = p then s.portWrite p a d else s
      | _ => s) s
    (s.ctrlsOn p).foldl (fun (s : State) i => (s.drainCqes i).flushMsi i) s

/-- BUS_MASTER_ENABLE_SET (R505, R506, R513, R514, R516): with what the host has set of the function's configuration, for
whose setting the table has no row (log entry 38). -/
def execBusMasterEnableSet (port : Nat) (pasid : Bool) (conf : PortConf) (s : State) : Host.Outcome State Fault Refusal :=
  .next (if !s.isPort port then s
    else
      let s := s.modPort port fun x => { x with
        bme := true, pasidEn := x.pasidEn || pasid, atsEn := conf.ats
        mps := min 512 conf.mps, mrrs := min 4096 conf.mrrs, tags10 := conf.tags10, relaxed := conf.relaxed, ido := conf.ido }
      (if conf.ats then s else s.dropPortAts port).resumePort port)

/-- BUS_MASTER_ENABLE_CLEAR (R516). -/
def execBusMasterEnableClear (port : Nat) (s : State) : Host.Outcome State Fault Refusal :=
  .next (if s.isPort port then s.modPort port fun x => { x with bme := false } else s)

/-- PASID_ENABLE_CLEAR (R513): every enabled slice controller of the port sets CSTS.CFS. -/
def execPasidEnableClear (port : Nat) (s : State) : Host.Outcome State Fault Refusal :=
  .next (if !s.isPort port then s
    else
      let s := s.modPort port fun x => { x with pasidEn := false }
      (s.slicesOn port).foldl (fun (s : State) sl =>
        if (s.ctrl (sliceCtrl sl)).en then s.setCfs (sliceCtrl sl) else s) s)

/-! ## Address translation (R514, R515) -/

/-- Keep an answer in the translation cache of the stop that its page's requests leave through, 4,096 entries, the newest
first. -/
def State.keepAts (s : State) (a : Ats) : State :=
  let same (x : Ats) : Bool := x.port = a.port && x.pasid = a.pasid && x.page = a.page
  let rest := s.dev.ats.filter fun x => !same x
  let stop (x : Ats) : Nat := s.reqStop x.port (4096 * x.page)
  let mine (x : Ats) : Bool := stop x = stop a
  { s with dev := { s.dev with ats := (a :: rest.filter mine).take 4096 ++ rest.filter fun x => !mine x } }

/-- A translation that an access needed is refused, or grants too little (R245, R367, R514, R517): a command ends with Data
Transfer Error, an engine job with ADDR; a queue fetch sets CSTS.CFS; a core's access meets Data Fault when it is made. -/
def State.refusedFor (s : State) (who : HostReader) : State :=
  match who with
  | .sqFetch _ _ => s.poisoned who
  | .command _ _ => s.poisoned who
  | .core _ _ => s
  | .engine c n => match s.runningJob c n with
    | some (u, q) => (s.endJob q (some u) { code := 0x05 }).dispatchJobs q.cls
    | none => match s.waitingJob c n with
      | some q => s.endJob q none { code := 0x05 }
      | none => s

/-- ATS_TRANSLATION_RESPONSE (R514). -/
def execAtsTranslationResponse (port pasid : Nat) (iova : W64) (reader : HostReader) (granted : Bool) (s : State) :
    Host.Outcome State Fault Refusal :=
  .next (if !s.isPort port || !(s.port port).atsEn then s
    else
      let s := s.keepAts ⟨port, pasid, iova.toNat / 4096, granted⟩
      if granted then s else s.refusedFor reader)

/-- ATS_INVALIDATE (R515): `page` is the address of the page divided by 4,096. -/
def execAtsInvalidate (port pasid : Nat) (page : W64) (s : State) : Host.Outcome State Fault Refusal :=
  .next { s with dev := { s.dev with
    ats := s.dev.ats.filter fun a => !(a.port = port && a.pasid = pasid && a.page = page.toNat) } }

/-! ## Host reads (R517) -/

/-- The port that a requester's reads leave through. -/
def State.readerPort (s : State) (who : HostReader) : Option Nat :=
  let ofRun (k : Option Nat) : Option Nat := (k.bind s.runAt).map fun r => (s.slice r.slice).port
  match who with
  | .sqFetch i _ => some (s.ctrlPort i)
  | .command (.queue i _) _ => some (s.ctrlPort i)
  | .command .sideband _ => none
  | .core c _ => ofRun (s.core c).run
  | .engine c _ => ofRun (s.core c).run

/-- A read of a requester is outstanding no longer (R505). -/
def State.readEnds (s : State) (who : HostReader) : State :=
  match s.readerPort who with
  | some p => s.reqDone p
  | none => s

/-- HOST_READ_COMPLETION (R24, R505, R517): a good completion brings data to its requester; any other reaches it as a
poisoned transaction. -/
def execHostReadCompletion (reader : HostReader) (reply : HostReply) (s : State) : Host.Outcome State Fault Refusal :=
  .next (match reply with
    | .good => s.readEnds reader
    | .poisoned => (s.readEnds reader).poisoned reader
    | .unsupported => (s.readEnds reader).poisoned reader
    | .abort => (s.readEnds reader).poisoned reader)

/-- COMPLETION_TIMEOUT (R517). -/
def execCompletionTimeout (reader : HostReader) (s : State) : Host.Outcome State Fault Refusal :=
  .next ((s.readEnds reader).poisoned reader)

/-! ## Links (R501, R504, R521, R522) -/

/-- Lanes of a port (R499). -/
def State.portLanes (s : State) : Nat := 16 / splitPorts s.dev.split

/-- The widest link width, x1 to x16, over a number of lanes. -/
def widest (n : Nat) : Nat := ([16, 8, 4, 2, 1].find? fun w => w ≤ n).getD 0

/-- LINK_TRAINING (R501, R504, R521, R522): `lanes` remain; `speed`, 1 for 2.5 GT/s to 6 for 64.0 GT/s, is the highest rate
of both partners; the rate in force is not above the cap. FLIT mode is always in use at 64.0 GT/s. -/
def execLinkTraining (port : Nat) (lanes : LaneUse) (speed : Nat) (flit : Bool) (s : State) : Host.Outcome State Fault Refusal :=
  .next (
    let x := s.port port
    let w := widest (min lanes.width s.portLanes)
    let v := min (min speed 6) x.cap
    if !s.isPort port || x.inReset || !s.dev.pwr.rails || s.dev.pwr.perst || w = 0 || v = 0 then s
    else (s.modPort port fun x => { x with
      linkUp := true, width := w, reversed := lanes.reversed, speed := v, flit := flit || v = 6 }).resumePort port)

/-- LINK_RECOVERY_ENTRY (R521): an error-driven entry; the eighth of a pier interval lowers the cap, not below 8.0 GT/s. -/
def execLinkRecoveryEntry (port : Nat) (s : State) : Host.Outcome State Fault Refusal :=
  .next (if !s.isPort port || !(s.port port).linkUp then s
    else s.modPort port fun x =>
      let x := { x with recov := min 0xFFFF (x.recov + 1), entries := x.entries + 1, quiet := 0 }
      if x.entries = 8 ∧ 3 < x.cap then
        { x with cap := x.cap - 1, speed := min x.speed (x.cap - 1), downsh := min 0xFF (x.downsh + 1) }
      else x)

/-- RATE_CAP_RAISE (R521): after 600 consecutive piers with no error-driven entry; the count begins anew. -/
def execRateCapRaise (port : Nat) (s : State) : Host.Outcome State Fault Refusal :=
  .next (if !s.isPort port || 6 ≤ (s.port port).cap || (s.port port).quiet < 600 then s
    else s.modPort port fun x => { x with cap := x.cap + 1, quiet := 0 })

/-! ## Interrupt message stores (R518, R519) -/

/-- Entries of a controller's interrupt message table (R507, R509). -/
def ctrlVectors (i : Nat) : Nat := if (ctrlSlice i).isSome then 64 else 1

/-- One dword of an entry. -/
def MsgEntry.put (m : MsgEntry) (word : Nat) (v : W32) : MsgEntry :=
  match word with
  | 0 => { m with lo := v &&& ~~~3#32 }
  | 1 => { m with hi := v }
  | 2 => { m with data := v }
  | _ => { m with mask := v.getLsbD 0 }

/-- MSIX_ENTRY_WRITE (R518, R519): 4 bytes at an offset in the table; a pending message is sent when its MASK is cleared. -/
def execMsixEntryWrite (ctrl : Nat) (off : Nat) (value : W32) (s : State) : Host.Outcome State Fault Refusal :=
  .next (if !s.ctrlOpen ctrl || off % 4 ≠ 0 || ctrlVectors ctrl ≤ off / 16 then s
    else
      let k := off / 16
      (s.modCtrl ctrl fun c =>
        { c with store := Tbl.set c.store k ((Tbl.getD c.store k {}).put (off / 4 % 4) value) }).flushMsi ctrl)

/-- MSIX_FUNCTION_MASK_CHANGE (R519): MSI-X Enable and Function Mask as written. -/
def execMsixFunctionMaskChange (port : Nat) (enable mask : Bool) (s : State) : Host.Outcome State Fault Refusal :=
  .next (if !s.isPort port then s
    else
      let s := s.modPort port fun x => { x with msixEn := enable, funcMask := mask }
      (s.ctrlsOn port).foldl (fun (s : State) i => s.flushMsi i) s)

end Sys2Proof.Machine
end

