-- ==== Sys2Proof/Machine/PowerStates.lean ====
section
/-! DEFINITION. Power state entry, autonomous transitions, the composite temperature, VID and ACT_N (R79 to R83, R86,
R549, R558, R559, R562). -/

namespace Sys2Proof.Machine

/-- APST_IDLE_EXPIRY (R13, R82, R83): the idle time of the state's entry has passed; a doorbell written in that tick wins. -/
def execApstIdleExpiry (s : State) : Host.Outcome State Fault Refusal :=
  .next (
    let (itps, itpt) := s.dev.apst.getD s.dev.ps (0, 0)
    if !s.dev.apste || s.keepsAwake || s.dev.psNext.isSome || itpt = 0 then s
    else { s with dev := { s.dev with psNext := some itps } })

/-- POWER_STATE_ENTRY (R82): PS3 or PS4 is entered once nothing keeps the device awake. -/
def execPowerStateEntry (s : State) : Host.Outcome State Fault Refusal :=
  .next (match s.dev.psNext with
    | none => s
    | some n => if s.keepsAwake then s else s.setPs n)

/-- Celsius as kelvin. -/
def toKelvin (t : Int) : Int := t + 273

/-- TEMPERATURE_SAMPLE (R79, R80, R86, R562): critical warning bit 1 follows WCTEMP; a reading that reaches a
threshold of feature 04h from the other side reports a temperature event. -/
def execTemperatureSample (celsius : Int) (s : State) : Host.Outcome State Fault Refusal :=
  .next (
    let old := toKelvin s.dev.temp
    let new := toKelvin celsius
    let high : Int := (s.dev.tOver.getD wctemp : Nat)
    let low : Int := (s.dev.tUnder : Nat)
    let s := { s with dev := { s.dev with temp := celsius } }
    let s := if (old < high ∧ high ≤ new) ∨ (low < old ∧ new ≤ low) then s.raiseHealth 1 1 else s
    if (wctemp : Int) < new then s.setWarn 1 1
    else { s with dev := { s.dev with warn := s.dev.warn &&& ~~~2#8 } })

/-- VID_STEP (R559): one code toward the set point of the state. -/
def execVidStep (s : State) : Host.Outcome State Fault Refusal :=
  .next (
    let p := s.dev.pwr
    let v := if p.vid.toNat < p.vidTo.toNat then p.vid + 1 else if p.vidTo.toNat < p.vid.toNat then p.vid - 1 else p.vid
    { s with dev := { s.dev with pwr := { p with vid := v } } })

/-- ACT_N_MIN_LOW_EXPIRY (R549): the 50 ms of a low period have passed. -/
def execActNMinLowExpiry (s : State) : Host.Outcome State Fault Refusal :=
  .next { s with dev := { s.dev with pwr := { s.dev.pwr with actHold := false } } }

end Sys2Proof.Machine
end

