-- ==== Sys2Proof/Machine/Sideband.lean ====
section
/-! DEFINITION. The sideband: MCTP reassembly and control commands, NVMe-MI, Porob vendor messages and the one-command rule
(R82, R524 to R536). Layouts that MCTP and NVMe-MI give are log entry 39. -/

namespace Sys2Proof.Machine

/-- Change the sideband. -/
def State.modSide (s : State) (f : Sideband → Sideband) : State :=
  { s with dev := { s.dev with side := f s.dev.side } }

/-- A message leaves on the sideband. -/
def State.sideSend (s : State) (m : List Byte) : State := { s with out := { s.out with side := m :: s.out.side } }

/-- The endpoint is powered and out of reset. -/
def State.sideUp (s : State) : Bool := s.dev.pwr.rails && !s.dev.pwr.perst

/-! ## Transport (R524, R525, R527) -/

/-- Longest request message. -/
def mctpLimit : Nat := 4200

/-- MCTP_REASSEMBLY_TIMEOUT (R13, R525): a packet that arrived in this span tick wins. -/
def execMctpReassemblyTimeout (s : State) : Host.Outcome State Fault Refusal :=
  .next (if s.dev.side.fresh then s else s.modSide fun x => { x with parts := none })

/-- I3C_DYNAMIC_ADDRESS_ASSIGNMENT (R524): ENTDAA or SETDASA, with the I3C transport strapped. -/
def execI3cDynamicAddressAssignment (addr : BitVec 7) (s : State) : Host.Outcome State Fault Refusal :=
  .next (if s.sideUp && !s.dev.pwr.sbsel then s.modSide fun x => { x with i3cAddr := addr } else s)

/-! ## MCTP control commands (R526) -/

/-- A control response: command, completion code, data. It never makes the sideband busy. -/
def State.controlReply (s : State) (cmd code : Nat) (data : List Byte) : State :=
  if s.sideUp then s.sideSend ([0, 0, BitVec.ofNat 8 cmd, BitVec.ofNat 8 code] ++ data) else s

/-- SET_ENDPOINT_ID (R526): 00h and FFh are no endpoint IDs. -/
def execSetEndpointId (eid : Byte) (s : State) : Host.Outcome State Fault Refusal :=
  .next (if !s.sideUp then s
    else if eid = 0 ∨ eid = 0xFF then s.controlReply 1 2 []
    else (s.modSide fun x => { x with eid := eid }).controlReply 1 0 [0, eid, 0])

/-- GET_ENDPOINT_ID (R526). -/
def execGetEndpointId (s : State) : Host.Outcome State Fault Refusal := .next (s.controlReply 2 0 [s.dev.side.eid, 0, 0])

/-- GET_ENDPOINT_UUID (R526). -/
def execGetEndpointUuid (s : State) : Host.Outcome State Fault Refusal := .next (s.controlReply 3 0 Config.endpointUuid)

/-- GET_MCTP_VERSION_SUPPORT (R526): base 1.3.x, whose x is a free value; NVMe-MI 1.2; any other type is not supported. -/
def execGetMctpVersionSupport (msgType : Byte) (s : State) : Host.Outcome State Fault Refusal :=
  .next (
    if msgType = 0 ∨ msgType = 0xFF then s.drawn.controlReply 4 0 ([1, 0xF1, 0xF3] ++ s.freeBytes 1 ++ [0])
    else if msgType = 4 then s.controlReply 4 0 [1, 0xF1, 0xF2, 0xFF, 0]
    else s.controlReply 4 0x80 [])

/-- GET_MESSAGE_TYPE_SUPPORT (R526). -/
def execGetMessageTypeSupport (s : State) : Host.Outcome State Fault Refusal :=
  .next (s.controlReply 5 0 [3, 0x00, 0x04, 0x7E])

/-- GET_VENDOR_DEFINED_MESSAGE_SUPPORT (R526): one set, PCI vendor ID 1F42h, version 0002h. -/
def execGetVendorDefinedMessageSupport (s : State) : Host.Outcome State Fault Refusal :=
  .next (s.controlReply 6 0 [0xFF, 0, 0x1F, 0x42, 0, 2])

/-! ## The one-command rule (R527 to R529) -/

/-- A message with its integrity check. -/
def withMic (m : List Byte) : List Byte := m ++ leBytes 4 (crc32c m)

/-- An NVMe-MI response: `nmimt` 1 for a Management Interface command, 2 for an admin command. -/
def miMessage (nmimt status : Nat) (mgmt data : List Byte) : List Byte :=
  withMic ([0x84, BitVec.ofNat 8 (0x80 + 8 * nmimt), 0, 0, BitVec.ofNat 8 status] ++ mgmt ++ data)

/-- A vendor response (R534). -/
def vendorMessage (vver : Byte) (vcmd status : Nat) (payload : List Byte) : List Byte :=
  withMic ([0xFE, 0x1F, 0x42, vver, BitVec.ofNat 8 vcmd, 0, BitVec.ofNat 8 status, 0] ++ payload)

/-- Requests are refused as R529 lays down: a health poll is served from step 6 of the boot and in fault state. -/
def State.sideShut (s : State) (poll : Bool) : Bool :=
  let p := s.dev.pwr
  (if poll then !s.rel.fault && p.phase = 0 else s.rel.fault || p.phase ≠ 5) || p.plpWarn
    || (s.media.wthru && !s.media.buf.isEmpty)

/-- Why a request is refused as busy, if it is: RETRYMS 0 for the cases of R529, an estimate that nothing fixes while a
command is in hand. -/
def State.sideRefusal (s : State) (poll : Bool) : Option (List Byte) :=
  if s.sideShut poll then some [0, 0]
  else if s.dev.side.busy then some (s.freeBytes 2)
  else none

/-- An NVMe-MI command: refused with Status E0h, or accepted, which makes the sideband busy. -/
def State.miCmd (s : State) (nmimt : Nat) (poll : Bool) (body : State → State) : State :=
  if !s.sideUp then s
  else match s.sideRefusal poll with
    | some r => (s.drawnN 2).sideSend (miMessage nmimt 0xE0 [0, 0, 0] r)
    | none => body (s.modSide fun x => { x with busy := true })

/-- A vendor message: refused with STATUS 01h, or accepted. -/
def State.vendorCmd (s : State) (vver : Byte) (vcmd : Nat) (body : State → State) : State :=
  if !s.sideUp then s
  else match s.sideRefusal false with
    | some r => (s.drawnN 2).sideSend (vendorMessage vver vcmd 1 r)
    | none => body (s.modSide fun x => { x with busy := true })

/-- The completion of a tunnelled command becomes its response (R533, R535): DLEN is 0 when the command failed. -/
def State.sideResult (s : State) : State :=
  let x := s.dev.side
  let ok : Bool := x.sct = 0 && x.sc = 0
  let data := if ok then x.data.bytes else []
  let entry := leBytes 2 (2 * x.sc + 512 * x.sct)
  let v := BitVec.ofNat 8 x.ver
  let m := if !x.tunnel then
      miMessage 2 0 [0, 0, 0] (leBytes 4 x.dw0.toNat ++ leBytes 4 x.dw1.toNat ++ leBytes 2 x.cid.toNat ++ entry ++ data)
    else vendorMessage v 1 0 (leBytes 4 data.length ++ leBytes 4 x.dw0.toNat ++ leBytes 4 x.dw1.toNat ++ leBytes 4 0
      ++ leBytes 2 x.cid.toNat ++ entry ++ (if x.ver = 1 then data else []))
  (s.sideSend m).modSide fun y => { y with
    owed := false, held := x.tunnel && x.ver = 2 && !data.isEmpty
    busy := x.tunnel && x.ver = 2 && !data.isEmpty }

/-- SIDEBAND_RESPONSE_SENT (R528, R536): the last packet of the response has been sent; the sideband is free, but for the
data of a version 2 response. -/
def execSidebandResponseSent (s : State) : Host.Outcome State Fault Refusal :=
  .next (
    let x := s.dev.side
    if !x.busy || x.cmd.isSome || x.held then s
    else if x.owed then s.sideResult
    else s.modSide fun y => { y with busy := false })

/-! ## NVMe-MI (R531 to R533) -/

/-- A response of a Management Interface command. -/
def State.miReply (s : State) (status : Nat) (mgmt data : List Byte) : State := s.sideSend (miMessage 1 status mgmt data)

/-- Invalid Parameter. -/
def State.miBad (s : State) : State := s.miReply 4 [0, 0, 0] []

/-- Bytes of a data structure, with its length in the management response. -/
def State.miData (s : State) (d : List Byte) : State := s.miReply 0 (leBytes 2 d.length ++ [0]) d

/-- Port controllers. -/
def State.portIds (s : State) : List Nat := List.range (splitPorts s.dev.split)

/-- READ_NVME_MI_DATA_STRUCTURE (R502, R524, R531): `dtyp` 00h subsystem, 01h port, 02h the controllers from `ctrl` on, 03h
controller `ctrl`. -/
def execReadNvmeMiDataStructure (dtyp : Byte) (ctrl : Nat) (s : State) : Host.Outcome State Fault Refusal :=
  .next (s.miCmd 1 false fun s =>
    if dtyp = 0 then s.miData ([0, 1, 2] ++ List.replicate 29 0)
    else if dtyp = 1 then
      let freq := ((Tbl.get? s.dev.side.cfg 1).getD 1).toNat
      s.miData ([2, 0] ++ leBytes 2 64 ++ List.replicate 4 0 ++ [0, 0, 0x3A] ++ leBytes 1 freq ++ List.replicate 20 0)
    else if dtyp = 2 then
      let l := s.portIds.filter fun i => ctrl ≤ i
      s.miData (leBytes 2 l.length ++ l.flatMap fun i => leBytes 2 i)
    else if dtyp = 3 ∧ s.portIds.contains ctrl then
      s.miData (List.replicate 8 0 ++ leBytes 2 0x1F42 ++ leBytes 2 (if ctrl = s.dev.mgrPort then 0x0640 else 0x0641)
        ++ leBytes 2 Config.subsystemVendor.toNat ++ leBytes 2 Config.subsystemId.toNat ++ List.replicate 16 0)
    else s.miBad)

/-- The composite temperature as the poll gives it, in degrees Celsius. -/
def pollTemp (t : Int) : Byte := BitVec.ofInt 8 (max (-60) (min 127 t))

/-- Bits of the composite controller status that hold now: RDY, CFS, and a critical warning. -/
def State.healthBits (s : State) : Nat :=
  (if s.portIds.any fun i => (s.ctrl i).rdy then 1 else 0) ||| (if s.portIds.any fun i => (s.ctrl i).cfs then 2 else 0)
    ||| (if s.dev.warn = 0 then 0 else 4096)

/-- NVM_SUBSYSTEM_HEALTH_STATUS_POLL (R529, R532): Reset Not Required reads 1, and Drive Functional 0 in fault state. -/
def execNvmSubsystemHealthStatusPoll (s : State) : Host.Outcome State Fault Refusal :=
  .next (s.miCmd 1 true fun s =>
    let up (p : Nat) : Nat := if (s.port p).linkUp then 1 else 0
    let nss := (if s.rel.fault then 0 else 32) + 16 + 8 * up 0 + 4 * up 1
    let s := s.modSide fun x => { x with ccs := x.ccs ||| s.healthBits }
    s.miReply 0 [0, 0, 0] ([BitVec.ofNat 8 nss, s.dev.warn, pollTemp s.dev.temp]
      ++ leBytes 1 s.media.percentUsed ++ leBytes 2 s.dev.side.ccs ++ [0, 0]))

/-- CONTROLLER_HEALTH_STATUS_POLL (R531): one port controller; a slice controller is absent. -/
def execControllerHealthStatusPoll (ctrl : Nat) (s : State) : Host.Outcome State Fault Refusal :=
  .next (s.miCmd 1 false fun s =>
    if !s.portIds.contains ctrl then s.miReply 0 [0, 0, 0] []
    else s.miReply 0 [0, 0, 1] (leBytes 2 ctrl ++ leBytes 2 (s.cstsReg ctrl) ++ leBytes 2 s.kelvin
      ++ leBytes 1 s.media.percentUsed ++ leBytes 1 s.sparePct ++ [s.dev.warn] ++ List.replicate 7 0))

/-- CONFIGURATION_SET (R531): 1 the SMBus frequency, 2 Health Status Change, 3 the MCTP transmission unit. -/
def execConfigurationSet (cfg : Byte) (value : W32) (s : State) : Host.Outcome State Fault Refusal :=
  .next (s.miCmd 1 false fun s =>
    if cfg = 1 ∧ (value = 1 ∨ value = 2) then
      (s.modSide fun x => { x with cfg := Tbl.set x.cfg 1 value }).miReply 0 [0, 0, 0] []
    else if cfg = 2 then
      (s.modSide fun x => { x with ccs := x.ccs - (x.ccs &&& value.toNat) }).miReply 0 [0, 0, 0] []
    else if cfg = 3 ∧ value = 64 then s.miReply 0 [0, 0, 0] []
    else s.miBad)

/-- CONFIGURATION_GET (R531). -/
def execConfigurationGet (cfg : Byte) (s : State) : Host.Outcome State Fault Refusal :=
  .next (s.miCmd 1 false fun s =>
    if cfg = 1 then s.miReply 0 (leBytes 3 ((Tbl.get? s.dev.side.cfg 1).getD 1).toNat) []
    else if cfg = 2 then s.miReply 0 [0, 0, 0] []
    else if cfg = 3 then s.miReply 0 (leBytes 3 64) []
    else s.miBad)

/-- A tunnelled command is taken: it acts on power states as a doorbell write does (R82, R530, R535). -/
def State.tunnel (s : State) (e : Sqe) (vendor : Bool) (ver : Nat) : State :=
  s.psExit.modSide fun x => { x with
    cmd := some { e with dptr := .prp 0 0 [] }, begun := false, tunnel := vendor, ver := ver, cid := e.cid, owed := true
    sct := 0, sc := 0, dw0 := 0, dw1 := 0, data := { len := 0, parts := [] } }

/-- The command of an NVMe-MI admin message needs more data than a message carries (R533). -/
def tooLong (e : Sqe) (dlen : Nat) : Bool :=
  let page := 4 * (e.cdw10.toNat / 65536 + 65536 * (e.cdw11.toNat % 65536) + 1)
  4096 < dlen || (e.opc = 0x02 && 4096 < page) || (e.opc = 0x11 && 4 * (e.cdw10.toNat + 1) ≠ dlen)

/-- NVME_MI_ADMIN_COMMAND (R530, R533): the accepted command executes by its own row, with the sideband as its source. -/
def execNvmeMiAdminCommand (ctrlId : Nat) (e : Sqe) (dlen : Nat) (s : State) : Host.Outcome State Fault Refusal :=
  .next (s.miCmd 2 false fun s =>
    let bad (c : Nat) : State := s.sideSend (miMessage 2 c [0, 0, 0] [])
    if ctrlId ≠ s.dev.mgrPort then bad 4
    else if !({ s.dev.side with tunnel := false } : Sideband).opcodes.contains e.opc.toNat then bad 3
    else if tooLong e dlen then bad 6
    else s.tunnel e false 1)

/-! ## Porob vendor messages (R534 to R536) -/

/-- MINV and MAXV. -/
def versions : List Byte := [1, 2]

/-- A vendor response at once. -/
def State.vendorReply (s : State) (vver : Byte) (vcmd status : Nat) (payload : List Byte) : State :=
  s.sideSend (vendorMessage vver vcmd status payload)

/-- GET_VERSION (R534, R536). -/
def execGetVersion (vver : Byte) (s : State) : Host.Outcome State Fault Refusal :=
  .next (s.vendorCmd vver 0 fun s => s.vendorReply vver 0 0 versions)

/-- Bytes that a tunnelled command brings from the sideband manager (R535). -/
def tunnelData (e : Sqe) : Nat :=
  let opc := e.opc.toNat
  if opc = 0xC1 ∨ opc = 0xD1 ∨ (opc = 0xC9 ∧ e.cdw11.toNat / 65536 % 4 = 0) ∨ (opc = 0xCD ∧ e.cdw10.toNat / 65536 % 4 = 0)
  then 4096 else 0

/-- The vendor tunnel carries the opcode (R45). -/
def tunnelled (e : Sqe) : Bool := [0xC0, 0xC1, 0xC4, 0xC5, 0xC9, 0xCA, 0xCD, 0xCE, 0xD1].contains e.opc.toNat

/-- ADMIN_TUNNEL (R535): lengths first; an opcode that R45 does not list ends in the completion entry. -/
def execAdminTunnel (vver : Byte) (e : Sqe) (dlen msgLen : Nat) (s : State) : Host.Outcome State Fault Refusal :=
  .next (s.vendorCmd vver 1 fun s =>
    if vver ≠ 1 ∧ vver ≠ 2 then s.vendorReply vver 1 2 versions
    else if msgLen ≠ 80 + dlen ∨ (tunnelled e ∧ dlen ≠ tunnelData e) then s.vendorReply vver 1 4 []
    else s.tunnel e true vver.toNat)

/-- The held data is let go, and the sideband is free. -/
def State.releaseHeld (s : State) : State :=
  s.modSide fun x => { x with held := false, busy := false, data := { len := 0, parts := [] } }

/-- READ_RESPONSE_PART (R534, R536): the part that reaches the end of the data frees the sideband (R528). -/
def execReadResponsePart (vver : Byte) (off len : Nat) (s : State) : Host.Outcome State Fault Refusal :=
  .next (if s.sideUp && s.dev.side.held && !s.sideShut false then
      if vver = 1 then s.vendorReply vver 2 3 []
      else if vver ≠ 2 then s.vendorReply vver 2 2 versions
      else if len = 0 ∨ 4096 < len then s.vendorReply vver 2 4 []
      else
        let d := (s.dev.side.data.bytes.drop off).take len
        let t := s.vendorReply vver 2 0 (leBytes 4 off ++ d)
        if s.dev.side.data.len ≤ off + len then t.releaseHeld else t
    else s.vendorCmd vver 2 fun s =>
      if vver = 1 then s.vendorReply vver 2 3 []
      else if vver ≠ 2 then s.vendorReply vver 2 2 versions
      else s.vendorReply vver 2 5 [])

/-- RELEASE_RESPONSE (R534, R536). -/
def execReleaseResponse (vver : Byte) (s : State) : Host.Outcome State Fault Refusal :=
  .next (if s.sideUp && s.dev.side.held && !s.sideShut false then
      if vver = 1 then s.vendorReply vver 3 3 []
      else if vver ≠ 2 then s.vendorReply vver 3 2 versions
      else (s.vendorReply vver 3 0 []).releaseHeld
    else s.vendorCmd vver 3 fun s =>
      if vver = 1 then s.vendorReply vver 3 3 []
      else if vver ≠ 2 then s.vendorReply vver 3 2 versions
      else s.vendorReply vver 3 5 [])

/-! ## Requests with no row of their own, and packets (R525 to R527, R531, R534) -/

/-- A whole message is kept (R527): a control message, or one with IC and the right check in its last four bytes. -/
def messageGood (m : List Byte) : Bool :=
  let n := m.length - 4
  m.getD 0 0 = 0 || ((m.getD 0 0).getLsbD 7 && 4 < m.length && leNat (m.drop n) = crc32c (m.take n))

/-- A whole request whose command no row stands for: any other control command is not supported (R526), any other Management
Interface command is an invalid opcode (R531), any other vendor command is invalid (R534, R536). -/
def State.otherRequest (s : State) (m : List Byte) : State :=
  let b (i : Nat) : Byte := m.getD i 0
  if b 0 = 0 then
    if (b 1).getLsbD 7 && ((b 2).toNat = 0 || 6 < (b 2).toNat) then s.controlReply (b 2).toNat 5 [] else s
  else if b 0 = 0x84 ∧ (b 1).toNat / 8 = 1 ∧ 4 < (b 4).toNat then s.miCmd 1 false fun s => s.miReply 3 [0, 0, 0] []
  else if b 0 = 0xFE ∧ b 1 = 0x1F ∧ b 2 = 0x42 ∧ b 5 = 0x80 ∧ 3 < (b 4).toNat then
    s.vendorCmd (b 3) (b 4).toNat fun s =>
      if b 3 ≠ 1 ∧ b 3 ≠ 2 then s.vendorReply (b 3) (b 4).toNat 2 versions else s.vendorReply (b 3) (b 4).toNat 3 []
  else s

/-- MCTP_PACKET_RECEIVE (R525 to R527, R531, R534): a packet of the endpoint `src` under a message tag; `som` and `eom` mark a
message's first and last packet. A request that is whole executes by its own row, or is answered here when it has none. -/
def execMctpPacketReceive (src : Byte) (som eom : Bool) (seq : BitVec 2) (pecOk : Bool) (bytes : List Byte)
    (tag : BitVec 3) (s : State) : Host.Outcome State Fault Refusal :=
  .next (
    let x := s.dev.side
    if pecOk && !som && x.parts.isSome && !(x.src = src && x.tag = tag) then s
    else
      let before := if som then some [] else if x.nextSeq = seq then x.parts else none
      let keep : Option (List Byte) := if !s.sideUp || !pecOk || 64 < bytes.length then none
        else (before.map fun b => b ++ bytes).filter fun b => b.length ≤ mctpLimit
      let s := s.modSide fun x => { x with
        parts := if eom then none else keep, src := src, tag := tag, nextSeq := seq + 1, fresh := true }
      match keep with
      | some b => if eom && messageGood b then (s.modSide fun x => { x with rx := some b }).otherRequest b else s
      | none => s)

/-- RESPONSE_HOLD_TIMEOUT (R536): 1 s with no part read. -/
def execResponseHoldTimeout (s : State) : Host.Outcome State Fault Refusal :=
  .next (if s.dev.side.held then s.releaseHeld else s)

end Sys2Proof.Machine
end

