-- ==== Sys2Proof/Machine/Dispatch.lean ====
section
/-! DEFINITION. The effect of each command on everything but the queue: one arm per constructor. -/

namespace Sys2Proof.Machine

/-- One arm per constructor of `Instr`, each one call of its meaning. -/
def exec (i : Instr) (s : State) : Host.Outcome State Fault Refusal :=
  match i with
  | .deckFlitReceive way f crcOk grant => Sys2Proof.Machine.execDeckFlitReceive way f crcOk grant s
  | .deckAck way count => Sys2Proof.Machine.execDeckAck way count s
  | .deckAckTimeout way => Sys2Proof.Machine.execDeckAckTimeout way s
  | .flitWaitLimit way tag => Sys2Proof.Machine.execFlitWaitLimit way tag s
  | .sqTailDoorbell ctrl qid value => Sys2Proof.Machine.execSqTailDoorbell ctrl qid value s
  | .cqHeadDoorbell ctrl qid value => Sys2Proof.Machine.execCqHeadDoorbell ctrl qid value s
  | .sqEntryFetch e => Sys2Proof.Machine.execSqEntryFetch e s
  | .unsupportedOpcode q e => Sys2Proof.Machine.execUnsupportedOpcode q e s
  | .registerWrite win off size value => Sys2Proof.Machine.execRegisterWrite win off size value s
  | .ccEnEnable ctrl value => Sys2Proof.Machine.execCcEnEnable ctrl value s
  | .ccEnDisable ctrl value => Sys2Proof.Machine.execCcEnDisable ctrl value s
  | .ccShutdownNotification ctrl value => Sys2Proof.Machine.execCcShutdownNotification ctrl value s
  | .shutdownComplete ctrl => Sys2Proof.Machine.execShutdownComplete ctrl s
  | .deleteIoSubmissionQueue q e => Sys2Proof.Machine.execDeleteIoSubmissionQueue q e s
  | .createIoSubmissionQueue q e => Sys2Proof.Machine.execCreateIoSubmissionQueue q e s
  | .getLogPage q e => Sys2Proof.Machine.execGetLogPage q e s
  | .deleteIoCompletionQueue q e => Sys2Proof.Machine.execDeleteIoCompletionQueue q e s
  | .createIoCompletionQueue q e => Sys2Proof.Machine.execCreateIoCompletionQueue q e s
  | .identify q e => Sys2Proof.Machine.execIdentify q e s
  | .abort q e => Sys2Proof.Machine.execAbort q e s
  | .setFeaturesArbitration q e => Sys2Proof.Machine.execSetFeaturesArbitration q e s
  | .setFeaturesPowerManagement q e => Sys2Proof.Machine.execSetFeaturesPowerManagement q e s
  | .setFeaturesTemperatureThreshold q e => Sys2Proof.Machine.execSetFeaturesTemperatureThreshold q e s
  | .setFeaturesErrorRecovery q e => Sys2Proof.Machine.execSetFeaturesErrorRecovery q e s
  | .setFeaturesNumberOfQueues q e => Sys2Proof.Machine.execSetFeaturesNumberOfQueues q e s
  | .setFeaturesInterruptCoalescing q e => Sys2Proof.Machine.execSetFeaturesInterruptCoalescing q e s
  | .setFeaturesInterruptVectorConfig q e => Sys2Proof.Machine.execSetFeaturesInterruptVectorConfig q e s
  | .setFeaturesWriteAtomicity q e => Sys2Proof.Machine.execSetFeaturesWriteAtomicity q e s
  | .setFeaturesAsyncEventConfig q e => Sys2Proof.Machine.execSetFeaturesAsyncEventConfig q e s
  | .setFeaturesApst q e data => Sys2Proof.Machine.execSetFeaturesApst q e data s
  | .setFeaturesTimestamp q e => Sys2Proof.Machine.execSetFeaturesTimestamp q e s
  | .getFeatures q e => Sys2Proof.Machine.execGetFeatures q e s
  | .asynchronousEventRequest q e => Sys2Proof.Machine.execAsynchronousEventRequest q e s
  | .namespaceCreate q e data => Sys2Proof.Machine.execNamespaceCreate q e data s
  | .namespaceDelete q e => Sys2Proof.Machine.execNamespaceDelete q e s
  | .namespaceAttachment q e data => Sys2Proof.Machine.execNamespaceAttachment q e data s
  | .firmwareImageDownload q e data => Sys2Proof.Machine.execFirmwareImageDownload q e data s
  | .firmwareCommit q e => Sys2Proof.Machine.execFirmwareCommit q e s
  | .firmwareActivationResume => Sys2Proof.Machine.execFirmwareActivationResume s
  | .deviceSelfTest q e => Sys2Proof.Machine.execDeviceSelfTest q e s
  | .deviceSelfTestAbort q e => Sys2Proof.Machine.execDeviceSelfTestAbort q e s
  | .deviceSelfTestComplete passed => Sys2Proof.Machine.execDeviceSelfTestComplete passed s
  | .formatNvm q e => Sys2Proof.Machine.execFormatNvm q e s
  | .sanitizeExitFailureMode q e => Sys2Proof.Machine.execSanitizeExitFailureMode q e s
  | .sanitizeBlockErase q e => Sys2Proof.Machine.execSanitizeBlockErase q e s
  | .sanitizeCryptoErase q e => Sys2Proof.Machine.execSanitizeCryptoErase q e s
  | .sanitizeComplete scope failed => Sys2Proof.Machine.execSanitizeComplete scope failed s
  | .sliceCreate q e data => Sys2Proof.Machine.execSliceCreate q e data s
  | .sliceDelete q e => Sys2Proof.Machine.execSliceDelete q e s
  | .deleteAfterReset slice => Sys2Proof.Machine.execDeleteAfterReset slice s
  | .sliceReset q e steps => Sys2Proof.Machine.execSliceReset q e steps s
  | .sliceSetShares q e => Sys2Proof.Machine.execSliceSetShares q e s
  | .sliceRebind q e data steps => Sys2Proof.Machine.execSliceRebind q e data steps s
  | .keyImport q e data => Sys2Proof.Machine.execKeyImport q e data s
  | .keyEmpty q e => Sys2Proof.Machine.execKeyEmpty q e s
  | .hallmarkQuote q e => Sys2Proof.Machine.execHallmarkQuote q e s
  | .migrationLogStart q e data => Sys2Proof.Machine.execMigrationLogStart q e data s
  | .migrationLogStop q e => Sys2Proof.Machine.execMigrationLogStop q e s
  | .meterReceiptFetch q e => Sys2Proof.Machine.execMeterReceiptFetch q e s
  | .flush q e => Sys2Proof.Machine.execFlush q e s
  | .write q e data pi sealOk => Sys2Proof.Machine.execWrite q e data pi sealOk s
  | .read q e => Sys2Proof.Machine.execRead q e s
  | .writeZeroes q e => Sys2Proof.Machine.execWriteZeroes q e s
  | .datasetManagement q e ranges => Sys2Proof.Machine.execDatasetManagement q e ranges s
  | .billetLoad q e data sealOk => Sys2Proof.Machine.execBilletLoad q e data sealOk s
  | .billetRelease q e => Sys2Proof.Machine.execBilletRelease q e s
  | .scan q e => Sys2Proof.Machine.execScan q e s
  | .run q e => Sys2Proof.Machine.execRun q e s
  | .localWrite q e data sealOk => Sys2Proof.Machine.execLocalWrite q e data sealOk s
  | .localRead q e => Sys2Proof.Machine.execLocalRead q e s
  | .sealedTransferSetup q e data => Sys2Proof.Machine.execSealedTransferSetup q e data s
  | .writeBufferAdmit => Sys2Proof.Machine.execWriteBufferAdmit s
  | .stagingProgramDispatch units => Sys2Proof.Machine.execStagingProgramDispatch units s
  | .flashProgramComplete prog result => Sys2Proof.Machine.execFlashProgramComplete prog result s
  | .flashReadComplete read dec sense bytes => Sys2Proof.Machine.execFlashReadComplete read dec sense bytes s
  | .softDecodeComplete read dec sense bytes => Sys2Proof.Machine.execSoftDecodeComplete read dec sense bytes s
  | .dieBusyTimeout die => Sys2Proof.Machine.execDieBusyTimeout die s
  | .flashEraseComplete set failedChannels => Sys2Proof.Machine.execFlashEraseComplete set failedChannels s
  | .staleSetErase set => Sys2Proof.Machine.execStaleSetErase set s
  | .mapSegmentRewrite segment => Sys2Proof.Machine.execMapSegmentRewrite segment s
  | .sampleRead die cellMode wlGroup => Sys2Proof.Machine.execSampleRead die cellMode wlGroup s
  | .rateChangeComplete chan trained => Sys2Proof.Machine.execRateChangeComplete chan trained s
  | .mediaKeyCommit => Sys2Proof.Machine.execMediaKeyCommit s
  | .scanSlotAcquire scan => Sys2Proof.Machine.execScanSlotAcquire scan s
  | .scanComplete scan => Sys2Proof.Machine.execScanComplete scan s
  | .spanTick env => Sys2Proof.Machine.execSpanTick env s
  | .pier src env => Sys2Proof.Machine.execPier src env s
  | .timepulseEdge t env => Sys2Proof.Machine.execTimepulseEdge t env s
  | .timepulseWindowClose t env => Sys2Proof.Machine.execTimepulseWindowClose t env s
  | .ptmDialogueStart => Sys2Proof.Machine.execPtmDialogueStart s
  | .ptmResponse departureUs => Sys2Proof.Machine.execPtmResponse departureUs s
  | .ptmResponseTimeout => Sys2Proof.Machine.execPtmResponseTimeout s
  | .parkLimitExpiry slice => Sys2Proof.Machine.execParkLimitExpiry slice s
  | .timePierWrite value => Sys2Proof.Machine.execTimePierWrite value s
  | .timeCtlWrite value => Sys2Proof.Machine.execTimeCtlWrite value s
  | .migHeadWrite n value => Sys2Proof.Machine.execMigHeadWrite n value s
  | .managerPortRestored => Sys2Proof.Machine.execManagerPortRestored s
  | .minuteClose => Sys2Proof.Machine.execMinuteClose s
  | .signatureComplete => Sys2Proof.Machine.execSignatureComplete s
  | .meterCtlWrite value => Sys2Proof.Machine.execMeterCtlWrite value s
  | .apstIdleExpiry => Sys2Proof.Machine.execApstIdleExpiry s
  | .powerStateEntry => Sys2Proof.Machine.execPowerStateEntry s
  | .temperatureSample celsius => Sys2Proof.Machine.execTemperatureSample celsius s
  | .vidStep => Sys2Proof.Machine.execVidStep s
  | .actNMinLowExpiry => Sys2Proof.Machine.execActNMinLowExpiry s
  | .runSaveAreaAcquire run => Sys2Proof.Machine.execRunSaveAreaAcquire run s
  | .spanlimExpiry run => Sys2Proof.Machine.execSpanlimExpiry run s
  | .runComplete run => Sys2Proof.Machine.execRunComplete run s
  | .dramRead place cls flash who err => Sys2Proof.Machine.execDramRead place cls flash who err s
  | .dramWrite place cls bytes who err => Sys2Proof.Machine.execDramWrite place cls bytes who err s
  | .blankPageFillComplete page => Sys2Proof.Machine.execBlankPageFillComplete page s
  | .dramCommandIssue chan sub => Sys2Proof.Machine.execDramCommandIssue chan sub s
  | .requestAgeLimit chan sub req => Sys2Proof.Machine.execRequestAgeLimit chan sub req s
  | .refreshDue chan sub bankIndex idle => Sys2Proof.Machine.execRefreshDue chan sub bankIndex idle s
  | .refreshPostponeLimit chan sub bankIndex => Sys2Proof.Machine.execRefreshPostponeLimit chan sub bankIndex s
  | .rowActivationThreshold chan sub bank row => Sys2Proof.Machine.execRowActivationThreshold chan sub bank row s
  | .rfmTableClear => Sys2Proof.Machine.execRfmTableClear s
  | .dqsOscillatorCheck chan drift => Sys2Proof.Machine.execDqsOscillatorCheck chan drift s
  | .zqCalibration chan => Sys2Proof.Machine.execZqCalibration chan s
  | .dramBtcfgWrite value => Sys2Proof.Machine.execDramBtcfgWrite value s
  | .eccTestWriteDataAndCheck value => Sys2Proof.Machine.execEccTestWriteDataAndCheck value s
  | .eccTestWriteComputedCheck value => Sys2Proof.Machine.execEccTestWriteComputedCheck value s
  | .eccTestWriteCheckOnly value => Sys2Proof.Machine.execEccTestWriteCheckOnly value s
  | .eccTestWriteDataOnly value => Sys2Proof.Machine.execEccTestWriteDataOnly value s
  | .eccTestReadRaw value => Sys2Proof.Machine.execEccTestReadRaw value s
  | .eccTestReadDecoded value => Sys2Proof.Machine.execEccTestReadDecoded value s
  | .eccTestComplete => Sys2Proof.Machine.execEccTestComplete s
  | .tamperClassE sensor => Sys2Proof.Machine.execTamperClassE sensor s
  | .tamperClassG sensor => Sys2Proof.Machine.execTamperClassG sensor s
  | .tamperClassP sensor => Sys2Proof.Machine.execTamperClassP sensor s
  | .keyBusTransfer dest parityOk => Sys2Proof.Machine.execKeyBusTransfer dest parityOk s
  | .hmMddataWrite value => Sys2Proof.Machine.execHmMddataWrite value s
  | .hmMdcmdFinish value => Sys2Proof.Machine.execHmMdcmdFinish value s
  | .hmSvncmtWrite value => Sys2Proof.Machine.execHmSvncmtWrite value s
  | .jtagIdcode => Sys2Proof.Machine.execJtagIdcode s
  | .jtagBypass code => Sys2Proof.Machine.execJtagBypass code s
  | .jtagChallenge => Sys2Proof.Machine.execJtagChallenge s
  | .jtagUnlock token => Sys2Proof.Machine.execJtagUnlock token s
  | .lockstepMismatch pair commitDiffers => Sys2Proof.Machine.execLockstepMismatch pair commitDiffers s
  | .keeperHeartbeatTimeout pair => Sys2Proof.Machine.execKeeperHeartbeatTimeout pair s
  | .iaberCoreFault c cause => Sys2Proof.Machine.execIaberCoreFault c cause s
  | .sramCorrection group word => Sys2Proof.Machine.execSramCorrection group word s
  | .sramUncorrectable place => Sys2Proof.Machine.execSramUncorrectable place s
  | .engineKatComplete cls unit passed => Sys2Proof.Machine.execEngineKatComplete cls unit passed s
  | .powerOn => Sys2Proof.Machine.execPowerOn s
  | .perstNAssert => Sys2Proof.Machine.execPerstNAssert s
  | .perstNDeassert straps env => Sys2Proof.Machine.execPerstNDeassert straps env s
  | .plpWarnAssert => Sys2Proof.Machine.execPlpWarnAssert s
  | .plpWarnRelease => Sys2Proof.Machine.execPlpWarnRelease s
  | .holdupOkDrop => Sys2Proof.Machine.execHoldupOkDrop s
  | .portRstAssert port => Sys2Proof.Machine.execPortRstAssert port s
  | .portRstDeassert port => Sys2Proof.Machine.execPortRstDeassert port s
  | .hotReset port => Sys2Proof.Machine.execHotReset port s
  | .linkDown port => Sys2Proof.Machine.execLinkDown port s
  | .functionLevelReset port => Sys2Proof.Machine.execFunctionLevelReset port s
  | .d3hotToD0 port => Sys2Proof.Machine.execD3hotToD0 port s
  | .busMasterEnableSet port pasid conf => Sys2Proof.Machine.execBusMasterEnableSet port pasid conf s
  | .pasidEnableClear port => Sys2Proof.Machine.execPasidEnableClear port s
  | .atsTranslationResponse port pasid iova reader granted => Sys2Proof.Machine.execAtsTranslationResponse port pasid iova reader granted s
  | .atsInvalidate port pasid page => Sys2Proof.Machine.execAtsInvalidate port pasid page s
  | .hostReadCompletion reader reply => Sys2Proof.Machine.execHostReadCompletion reader reply s
  | .completionTimeout reader => Sys2Proof.Machine.execCompletionTimeout reader s
  | .linkTraining port lanes speed flit => Sys2Proof.Machine.execLinkTraining port lanes speed flit s
  | .linkRecoveryEntry port => Sys2Proof.Machine.execLinkRecoveryEntry port s
  | .rateCapRaise port => Sys2Proof.Machine.execRateCapRaise port s
  | .msixEntryWrite ctrl off value => Sys2Proof.Machine.execMsixEntryWrite ctrl off value s
  | .mctpPacketReceive src som eom seq pecOk bytes tag => Sys2Proof.Machine.execMctpPacketReceive src som eom seq pecOk bytes tag s
  | .mctpReassemblyTimeout => Sys2Proof.Machine.execMctpReassemblyTimeout s
  | .sidebandResponseSent => Sys2Proof.Machine.execSidebandResponseSent s
  | .setEndpointId eid => Sys2Proof.Machine.execSetEndpointId eid s
  | .getEndpointId => Sys2Proof.Machine.execGetEndpointId s
  | .getEndpointUuid => Sys2Proof.Machine.execGetEndpointUuid s
  | .getMctpVersionSupport msgType => Sys2Proof.Machine.execGetMctpVersionSupport msgType s
  | .getMessageTypeSupport => Sys2Proof.Machine.execGetMessageTypeSupport s
  | .getVendorDefinedMessageSupport => Sys2Proof.Machine.execGetVendorDefinedMessageSupport s
  | .readNvmeMiDataStructure dtyp ctrl => Sys2Proof.Machine.execReadNvmeMiDataStructure dtyp ctrl s
  | .nvmSubsystemHealthStatusPoll => Sys2Proof.Machine.execNvmSubsystemHealthStatusPoll s
  | .controllerHealthStatusPoll ctrl => Sys2Proof.Machine.execControllerHealthStatusPoll ctrl s
  | .configurationSet cfg value => Sys2Proof.Machine.execConfigurationSet cfg value s
  | .configurationGet cfg => Sys2Proof.Machine.execConfigurationGet cfg s
  | .nvmeMiAdminCommand ctrlId e dlen => Sys2Proof.Machine.execNvmeMiAdminCommand ctrlId e dlen s
  | .getVersion vver => Sys2Proof.Machine.execGetVersion vver s
  | .adminTunnel vver e dlen msgLen => Sys2Proof.Machine.execAdminTunnel vver e dlen msgLen s
  | .readResponsePart vver off len => Sys2Proof.Machine.execReadResponsePart vver off len s
  | .releaseResponse vver => Sys2Proof.Machine.execReleaseResponse vver s
  | .responseHoldTimeout => Sys2Proof.Machine.execResponseHoldTimeout s
  | .engGo c ctx input aux => Sys2Proof.Machine.execEngGo c ctx input aux s
  | .engCtlClose c ctx => Sys2Proof.Machine.execEngCtlClose c ctx s
  | .engCtlAbort c ctx => Sys2Proof.Machine.execEngCtlAbort c ctx s
  | .engineJobEnd c ctx code => Sys2Proof.Machine.execEngineJobEnd c ctx code s
  | .engineSwitchBoundary cls unit unwrapOk => Sys2Proof.Machine.execEngineSwitchBoundary cls unit unwrapOk s
  | .engineJobWaitLimit c ctx => Sys2Proof.Machine.execEngineJobWaitLimit c ctx s
  | .engineNoBoundaryTimeout cls unit => Sys2Proof.Machine.execEngineNoBoundaryTimeout cls unit s
  | .ocEnWrite c value => Sys2Proof.Machine.execOcEnWrite c value s
  | .ocDrainComplete c lost => Sys2Proof.Machine.execOcDrainComplete c lost s
  | .ocmMaskWrite c port value => Sys2Proof.Machine.execOcmMaskWrite c port value s
  | .ocAging c => Sys2Proof.Machine.execOcAging c s
  | .coreReset c => Sys2Proof.Machine.execCoreReset c s
  | .watchdogExpiry c => Sys2Proof.Machine.execWatchdogExpiry c s
  | .asyncExceptionEntry c exc => Sys2Proof.Machine.execAsyncExceptionEntry c exc s
  | .illegalOpcode c word => Sys2Proof.Machine.execIllegalOpcode c word s
  | .iMov c w => Sys2Proof.Machine.execIMov c w s
  | .iClr c w => Sys2Proof.Machine.execIClr c w s
  | .iLea c w => Sys2Proof.Machine.execILea c w s
  | .iSel c w => Sys2Proof.Machine.execISel c w s
  | .iBswap c w => Sys2Proof.Machine.execIBswap c w s
  | .iSexb c w => Sys2Proof.Machine.execISexb c w s
  | .iSexh c w => Sys2Proof.Machine.execISexh c w s
  | .iSexw c w => Sys2Proof.Machine.execISexw c w s
  | .iZexb c w => Sys2Proof.Machine.execIZexb c w s
  | .iZexh c w => Sys2Proof.Machine.execIZexh c w s
  | .iZexw c w => Sys2Proof.Machine.execIZexw c w s
  | .iAdd c w => Sys2Proof.Machine.execIAdd c w s
  | .iAdc c w => Sys2Proof.Machine.execIAdc c w s
  | .iSub c w => Sys2Proof.Machine.execISub c w s
  | .iSbc c w => Sys2Proof.Machine.execISbc c w s
  | .iNeg c w => Sys2Proof.Machine.execINeg c w s
  | .iMul c w => Sys2Proof.Machine.execIMul c w s
  | .iMulhu c w => Sys2Proof.Machine.execIMulhu c w s
  | .iMulhs c w => Sys2Proof.Machine.execIMulhs c w s
  | .iDivu c w => Sys2Proof.Machine.execIDivu c w s
  | .iDivs c w => Sys2Proof.Machine.execIDivs c w s
  | .iRemu c w => Sys2Proof.Machine.execIRemu c w s
  | .iRems c w => Sys2Proof.Machine.execIRems c w s
  | .iMinu c w => Sys2Proof.Machine.execIMinu c w s
  | .iMaxu c w => Sys2Proof.Machine.execIMaxu c w s
  | .iMins c w => Sys2Proof.Machine.execIMins c w s
  | .iMaxs c w => Sys2Proof.Machine.execIMaxs c w s
  | .iAnd c w => Sys2Proof.Machine.execIAnd c w s
  | .iOr c w => Sys2Proof.Machine.execIOr c w s
  | .iXor c w => Sys2Proof.Machine.execIXor c w s
  | .iAndn c w => Sys2Proof.Machine.execIAndn c w s
  | .iNot c w => Sys2Proof.Machine.execINot c w s
  | .iShl c w => Sys2Proof.Machine.execIShl c w s
  | .iShr c w => Sys2Proof.Machine.execIShr c w s
  | .iSar c w => Sys2Proof.Machine.execISar c w s
  | .iRol c w => Sys2Proof.Machine.execIRol c w s
  | .iRor c w => Sys2Proof.Machine.execIRor c w s
  | .iPopc c w => Sys2Proof.Machine.execIPopc c w s
  | .iClz c w => Sys2Proof.Machine.execIClz c w s
  | .iCtz c w => Sys2Proof.Machine.execICtz c w s
  | .iCmp c w => Sys2Proof.Machine.execICmp c w s
  | .iTst c w => Sys2Proof.Machine.execITst c w s
  | .iBr c w => Sys2Proof.Machine.execIBr c w s
  | .iBcc c cc w => Sys2Proof.Machine.execIBcc c cc w s
  | .iDjnz c w => Sys2Proof.Machine.execIDjnz c w s
  | .iCall c w => Sys2Proof.Machine.execICall c w s
  | .iRet c w => Sys2Proof.Machine.execIRet c w s
  | .iMovs c w limit => Sys2Proof.Machine.execIMovs c w limit s
  | .iCmps c w limit => Sys2Proof.Machine.execICmps c w limit s
  | .iScans c w limit => Sys2Proof.Machine.execIScans c w limit s
  | .iScansn c w limit => Sys2Proof.Machine.execIScansn c w limit s
  | .iFills c w limit => Sys2Proof.Machine.execIFills c w limit s
  | .iXlts c w limit => Sys2Proof.Machine.execIXlts c w limit s
  | .iCrcs c w limit => Sys2Proof.Machine.execICrcs c w limit s
  | .iRpt c w next => Sys2Proof.Machine.execIRpt c w next s
  | .iBset c w => Sys2Proof.Machine.execIBset c w s
  | .iBclr c w => Sys2Proof.Machine.execIBclr c w s
  | .iBnot c w => Sys2Proof.Machine.execIBnot c w s
  | .iBmov c w => Sys2Proof.Machine.execIBmov c w s
  | .iBand c w => Sys2Proof.Machine.execIBand c w s
  | .iBor c w => Sys2Proof.Machine.execIBor c w s
  | .iBxor c w => Sys2Proof.Machine.execIBxor c w s
  | .iBt c w => Sys2Proof.Machine.execIBt c w s
  | .iBf c w => Sys2Proof.Machine.execIBf c w s
  | .iBtclr c w => Sys2Proof.Machine.execIBtclr c w s
  | .iBld c w => Sys2Proof.Machine.execIBld c w s
  | .iBst c w => Sys2Proof.Machine.execIBst c w s
  | .iIn c w => Sys2Proof.Machine.execIIn c w s
  | .iOut c w => Sys2Proof.Machine.execIOut c w s
  | .iIox c w => Sys2Proof.Machine.execIIox c w s
  | .iMfs c w => Sys2Proof.Machine.execIMfs c w s
  | .iMts c w => Sys2Proof.Machine.execIMts c w s
  | .iOcwb c w => Sys2Proof.Machine.execIOcwb c w s
  | .iOcinv c w => Sys2Proof.Machine.execIOcinv c w s
  | .iOcwbi c w => Sys2Proof.Machine.execIOcwbi c w s
  | .iOcall c w => Sys2Proof.Machine.execIOcall c w s
  | .iWaitb c w => Sys2Proof.Machine.execIWaitb c w s
  | .iTrap c w => Sys2Proof.Machine.execITrap c w s
  | .iBkpt c w => Sys2Proof.Machine.execIBkpt c w s
  | .iIst c w => Sys2Proof.Machine.execIIst c w s
  | .iRfe c w => Sys2Proof.Machine.execIRfe c w s
  | .iHalt c w => Sys2Proof.Machine.execIHalt c w s
  | .iWdr c w => Sys2Proof.Machine.execIWdr c w s
  | .iExtu c w => Sys2Proof.Machine.execIExtu c w s
  | .iExts c w => Sys2Proof.Machine.execIExts c w s
  | .iIns c w => Sys2Proof.Machine.execIIns c w s
  | .iLdbe c w => Sys2Proof.Machine.execILdbe c w s
  | .iStbe c w => Sys2Proof.Machine.execIStbe c w s
  | .iVdec c w => Sys2Proof.Machine.execIVdec c w s
  | .iVdecz c w => Sys2Proof.Machine.execIVdecz c w s
  | .iRngu c w => Sys2Proof.Machine.execIRngu c w s
  | .iRngs c w => Sys2Proof.Machine.execIRngs c w s
  | .iHstep c w => Sys2Proof.Machine.execIHstep c w s
  | .iPair c a b bit0 => Sys2Proof.Machine.execIPair c a b bit0 s
  | .powerRemoved => Sys2Proof.Machine.execPowerRemoved s
  | .busMasterEnableClear port => Sys2Proof.Machine.execBusMasterEnableClear port s
  | .d3hotEntry port => Sys2Proof.Machine.execD3hotEntry port s
  | .msixFunctionMaskChange port enable mask => Sys2Proof.Machine.execMsixFunctionMaskChange port enable mask s
  | .rcRegisterRead win off size => Sys2Proof.Machine.execRcRegisterRead win off size s
  | .hmDigestFinishComplete => Sys2Proof.Machine.execHmDigestFinishComplete s
  | .i3cDynamicAddressAssignment addr => Sys2Proof.Machine.execI3cDynamicAddressAssignment addr s
  | .interruptAggregationTimeExpiry ctrl vector => Sys2Proof.Machine.execInterruptAggregationTimeExpiry ctrl vector s

end Sys2Proof.Machine
end

