-- ==== Sys2Proof/Machine/Pins.lean ====
section
/-! DEFINITION. What the balls of the package show of the state: the general-purpose balls, FAULT_N, write protect, the DRAM
resets and the core voltage (R474, R476, R549 to R552, R554, R558). -/

namespace Sys2Proof.Machine

/-- A level: an open-drain or three-state ball that nothing drives is `hiZ`. -/
inductive Level where
  | low | high | hiZ
  deriving DecidableEq, Repr

/-- Balls whose level the state sets. `ac2` is GPIO3 or TIMEPULSE, `ad2` is GPIO5 or REPLACE_N. -/
inductive Pin where
  | actN | thermN | wthruN | ac2 | linkN | ad2 | lowPwrN | gpio7 | faultN | flashWpN | dramResetN
  deriving DecidableEq, Repr

/-- An open-drain output. -/
def openDrain (low : Bool) : Level := if low then .low else .hiZ

/-- The outputs have left their reset levels: step 12 of the boot has ended (R554). -/
def State.outputsLive (s : State) : Bool := s.dev.pwr.rails && s.dev.pwr.phase = 5

/-- DEGR_N is low: REL.STAT shows a degradation (R549). -/
def State.degraded (s : State) : Bool :=
  !s.rel.linksBad.isEmpty || 0 < s.enginesOut || 0 < s.media.chansFailed || !s.media.dieBad.isEmpty || 0 < s.marked
    || s.rel.pairs.length < 5 || ((List.range 16).filter s.spareFree).length < 16

/-- PIER_OUT owns ball AC2 (R550): only while TIME.CTL.SRC is 01b or 11b. -/
def Time.ownsAc2 (t : Time) : Bool := t.src = 1 || t.src = 3

/-- The level of a ball (R549 to R552, R554); a ball that is an input, or that has no supply, is not driven. -/
def State.pin (s : State) (p : Pin) : Level :=
  let p_ := s.dev.pwr
  if !p_.rails then .hiZ
  else match p with
    | .actN => openDrain (s.outputsLive && (s.busyDevice || p_.actHold))
    | .thermN => openDrain (s.outputsLive && (wctemp : Int) < toKelvin s.dev.temp)
    | .wthruN => openDrain (s.outputsLive && s.media.wthru)
    | .ac2 => if s.outputsLive && s.time.ownsAc2 then (if p_.pierOut then .high else .low) else .hiZ
    | .linkN => openDrain (s.outputsLive && (s.port s.dev.mgrPort).linkUp)
    | .ad2 => openDrain (s.rel.replaceN || (s.outputsLive && s.degraded))
    | .lowPwrN => openDrain (s.outputsLive && 3 ≤ s.dev.ps)
    | .gpio7 => .hiZ
    | .faultN => openDrain s.rel.fault
    | .flashWpN => if p_.wpLow then .low else .high
    | .dramResetN => if s.dev.pwr.perst || p_.phase = 0 then .low else .high

/-- The VCORE set point in tenths of a millivolt (R558). -/
def vcoreSetPoint (vid : Byte) : Nat := 5000 + 25 * vid.toNat

end Sys2Proof.Machine
end

