-- ==== Sys2Proof/WellFormed.lean ====
section
/-! DEFINITION. Which commands are well formed: every number an operand carries names something the SX-640 has. A command
that is not well formed is one that nothing outside the block can send. -/

namespace Sys2Proof

/-- A built Iaber core: 16 forges of 9 (R16, R25). -/
def coreOk (c : Nat) : Bool := c < 144

/-- A controller ID: a port's, or a slice's (R44). -/
def ctrlOk (i : Nat) : Bool := i < 4 || (256 ≤ i && i < 1280)

/-- A source of NVMe commands: a queue of a controller, 0 to 64 (R44, R50), or the sideband. -/
def srcOk : Src → Bool
  | .queue i n => ctrlOk i && n ≤ 64
  | .sideband => true

/-- A flit between two of the 36 stops (R16). -/
def flitOk (f : Flit) : Bool := f.src < 36 && f.dst < 36 && f.body.length == 64

/-- Who reads host memory: an engine context is one of 64 (R361). -/
def readerOk : HostReader → Bool
  | .sqFetch i n => ctrlOk i && n ≤ 64
  | .command q _ => srcOk q
  | .core c _ => coreOk c
  | .engine c n => coreOk c && n < 64

/-- A place in on-chip SRAM. -/
def placeOk : SramPlace → Bool
  | .core c => coreOk c
  | .cacheEntry c i => coreOk c && i < 48
  | .engineContext c n => coreOk c && n < 64
  | .blankBits k => k < 4
  | .journalOne | .journalBoth | .keeper | .readBuffer _ | .programBuffer _ | .keyStore => true

/-- A destination of the private key bus (R436). -/
def destOk : KeyDest → Bool
  | .dramXts c d => c < 4 && d ≤ 1024
  | .cipherLane c x => c < 32 && x ≤ 4096
  | .cipherPool u _ => u < 8

/-- A flash read brings the bytes of one unit, and its page type senses levels 1 to 31 (R194, R195, R208). -/
def unitOk (sense : Sense) (bytes : Option (List Byte)) : Bool :=
  2 ≤ sense.cp2 && sense.cp2 ≤ 62 && bytes.all fun b => b.length = 4128

/-- Byte differences of a codeword of 80 bytes, and devices of 10 (R408, R410). -/
def errorsOk (x : DramErrors) : Bool := x.diffs.all (fun d => d.1 < 80) && x.testBad.all (· < 10)

/-- A register access inside its window (R507). -/
def windowOk (win : Window) (off size : Nat) : Bool :=
  match win with
  | .bar0 p => p < 4 && off + size ≤ 0x10000
  | .bar2 p => p < 4 && off + size ≤ 0x4000000
  | .bar4 => off + size ≤ 0x100000

/-- What a span tick is told: busy fractions per mille, channels that exist. -/
def tickOk (e : TickEnv) : Bool :=
  e.busy.all (· ≤ 1000) && e.trainFail.all (· < 32) && e.selfTestBad.all (· < 36) && e.chanBad.all (· < 32)

/-- Units of an engine class (R360). -/
def unitsOf : EngineClass → Nat
  | .crucible => 16
  | .assay => 8
  | .cipher => 8
  | .softDecoder => 12

/-- A command is well formed. -/
def Instr.wf : Instr → Bool
  | .deckFlitReceive way f _ _ => way.link < 60 && flitOk f
  | .deckAck way _ => way.link < 60
  | .deckAckTimeout way => way.link < 60
  | .flitWaitLimit way _ => way.link < 60
  | .sqTailDoorbell ctrl qid _ => ctrlOk ctrl && qid ≤ 64
  | .cqHeadDoorbell ctrl qid _ => ctrlOk ctrl && qid ≤ 64
  | .sqEntryFetch _ => true
  | .unsupportedOpcode q _ => srcOk q
  | .registerWrite win off size _ => windowOk win off size
  | .ccEnEnable ctrl _ => ctrlOk ctrl
  | .ccEnDisable ctrl _ => ctrlOk ctrl
  | .ccShutdownNotification ctrl _ => ctrlOk ctrl
  | .shutdownComplete ctrl => ctrlOk ctrl
  | .deleteIoSubmissionQueue q _ => srcOk q
  | .createIoSubmissionQueue q _ => srcOk q
  | .getLogPage q _ => srcOk q
  | .deleteIoCompletionQueue q _ => srcOk q
  | .createIoCompletionQueue q _ => srcOk q
  | .identify q _ => srcOk q
  | .abort q _ => srcOk q
  | .setFeaturesArbitration q _ => srcOk q
  | .setFeaturesPowerManagement q _ => srcOk q
  | .setFeaturesTemperatureThreshold q _ => srcOk q
  | .setFeaturesErrorRecovery q _ => srcOk q
  | .setFeaturesNumberOfQueues q _ => srcOk q
  | .setFeaturesInterruptCoalescing q _ => srcOk q
  | .setFeaturesInterruptVectorConfig q _ => srcOk q
  | .setFeaturesWriteAtomicity q _ => srcOk q
  | .setFeaturesAsyncEventConfig q _ => srcOk q
  | .setFeaturesApst q _ _ => srcOk q
  | .setFeaturesTimestamp q _ => srcOk q
  | .getFeatures q _ => srcOk q
  | .asynchronousEventRequest q _ => srcOk q
  | .namespaceCreate q _ _ => srcOk q
  | .namespaceDelete q _ => srcOk q
  | .namespaceAttachment q _ _ => srcOk q
  | .firmwareImageDownload q _ _ => srcOk q
  | .firmwareCommit q _ => srcOk q
  | .firmwareActivationResume => true
  | .deviceSelfTest q _ => srcOk q
  | .deviceSelfTestAbort q _ => srcOk q
  | .deviceSelfTestComplete _ => true
  | .formatNvm q _ => srcOk q
  | .sanitizeExitFailureMode q _ => srcOk q
  | .sanitizeBlockErase q _ => srcOk q
  | .sanitizeCryptoErase q _ => srcOk q
  | .sanitizeComplete scope _ => scope.all (· < 1024)
  | .sliceCreate q _ _ => srcOk q
  | .sliceDelete q _ => srcOk q
  | .deleteAfterReset slice => slice < 1024
  | .sliceReset q _ steps => srcOk q && steps ≤ 7
  | .sliceSetShares q _ => srcOk q
  | .sliceRebind q _ _ steps => srcOk q && steps ≤ 7
  | .keyImport q _ _ => srcOk q
  | .keyEmpty q _ => srcOk q
  | .hallmarkQuote q _ => srcOk q
  | .migrationLogStart q _ _ => srcOk q
  | .migrationLogStop q _ => srcOk q
  | .meterReceiptFetch q _ => srcOk q
  | .flush q _ => srcOk q
  | .write q _ _ _ _ => srcOk q
  | .read q _ => srcOk q
  | .writeZeroes q _ => srcOk q
  | .datasetManagement q _ _ => srcOk q
  | .billetLoad q _ _ _ => srcOk q
  | .billetRelease q _ => srcOk q
  | .scan q _ => srcOk q
  | .run q _ => srcOk q
  | .localWrite q _ _ _ => srcOk q
  | .localRead q _ => srcOk q
  | .sealedTransferSetup q _ _ => srcOk q
  | .writeBufferAdmit => true
  | .stagingProgramDispatch _ => true
  | .flashProgramComplete _ _ => true
  | .flashReadComplete _ _ sense bytes => unitOk sense bytes
  | .softDecodeComplete _ _ sense bytes => unitOk sense bytes
  | .dieBusyTimeout die => die < 1024
  | .flashEraseComplete set failedChannels => set < 262144 && failedChannels.all (· < 32)
  | .staleSetErase set => set < 262144
  | .mapSegmentRewrite _ => true
  | .sampleRead die cellMode wlGroup => die < 1024 && cellMode < 4 && wlGroup < 8
  | .rateChangeComplete chan _ => chan < 32
  | .mediaKeyCommit => true
  | .scanSlotAcquire _ => true
  | .scanComplete _ => true
  | .spanTick env => tickOk env
  | .pier _ env => tickOk env
  | .timepulseEdge _ env => tickOk env
  | .timepulseWindowClose _ env => tickOk env
  | .ptmDialogueStart => true
  | .ptmResponse _ => true
  | .ptmResponseTimeout => true
  | .parkLimitExpiry slice => slice < 1024
  | .timePierWrite _ => true
  | .timeCtlWrite _ => true
  | .migHeadWrite n _ => n < 16
  | .managerPortRestored => true
  | .minuteClose => true
  | .signatureComplete => true
  | .meterCtlWrite _ => true
  | .apstIdleExpiry => true
  | .powerStateEntry => true
  | .temperatureSample celsius => -128 ≤ celsius && celsius ≤ 255
  | .vidStep => true
  | .actNMinLowExpiry => true
  | .runSaveAreaAcquire _ => true
  | .spanlimExpiry _ => true
  | .runComplete _ => true
  | .dramRead at_ _ flash who err => at_.addr < 2 ^ 38 && at_.domain ≤ 1024 && flash.all (· < 32) && who.all readerOk && errorsOk err
  | .dramWrite at_ _ _ who err => at_.addr < 2 ^ 38 && at_.domain ≤ 1024 && who.all readerOk && errorsOk err
  | .blankPageFillComplete _ => true
  | .dramCommandIssue chan sub => chan < 4 && sub < 2
  | .requestAgeLimit chan sub _ => chan < 4 && sub < 2
  | .refreshDue chan sub bankIndex _ => chan < 4 && sub < 2 && bankIndex < 4
  | .refreshPostponeLimit chan sub bankIndex => chan < 4 && sub < 2 && bankIndex < 4
  | .rowActivationThreshold chan sub bank _ => chan < 4 && sub < 2 && bank < 32
  | .rfmTableClear => true
  | .dqsOscillatorCheck chan _ => chan < 4
  | .zqCalibration chan => chan < 4
  | .dramBtcfgWrite _ => true
  | .eccTestWriteDataAndCheck _ => true
  | .eccTestWriteComputedCheck _ => true
  | .eccTestWriteCheckOnly _ => true
  | .eccTestWriteDataOnly _ => true
  | .eccTestReadRaw _ => true
  | .eccTestReadDecoded _ => true
  | .eccTestComplete => true
  | .tamperClassE _ => true
  | .tamperClassG _ => true
  | .tamperClassP _ => true
  | .keyBusTransfer dest _ => destOk dest
  | .hmMddataWrite _ => true
  | .hmMdcmdFinish _ => true
  | .hmSvncmtWrite _ => true
  | .jtagIdcode => true
  | .jtagBypass _ => true
  | .jtagChallenge => true
  | .jtagUnlock _ => true
  | .lockstepMismatch pair _ => pair < 5
  | .keeperHeartbeatTimeout pair => pair < 5
  | .iaberCoreFault c _ => coreOk c
  | .sramCorrection group _ => group < 31
  | .sramUncorrectable place => placeOk place
  | .engineKatComplete cls unit _ => unit < unitsOf cls
  | .powerOn => true
  | .perstNAssert => true
  | .perstNDeassert _ _ => true
  | .plpWarnAssert => true
  | .plpWarnRelease => true
  | .holdupOkDrop => true
  | .portRstAssert port => port < 4
  | .portRstDeassert port => port < 4
  | .hotReset port => port < 4
  | .linkDown port => port < 4
  | .functionLevelReset port => port < 4
  | .d3hotToD0 port => port < 4
  | .busMasterEnableSet port _ c => port < 4 && [128, 256, 512].contains c.mps && [128, 256, 512, 1024, 2048, 4096].contains c.mrrs
  | .pasidEnableClear port => port < 4
  | .atsTranslationResponse port pasid _ reader _ => port < 4 && pasid < 2 ^ 20 && readerOk reader
  | .atsInvalidate port pasid _ => port < 4 && pasid < 2 ^ 20
  | .hostReadCompletion reader _ => readerOk reader
  | .completionTimeout reader => readerOk reader
  | .linkTraining port _ _ _ => port < 4
  | .linkRecoveryEntry port => port < 4
  | .rateCapRaise port => port < 4
  | .msixEntryWrite ctrl off _ => ctrlOk ctrl && off < 1024
  | .mctpPacketReceive _ _ _ _ _ bytes _ => bytes.length ≤ 64
  | .mctpReassemblyTimeout => true
  | .sidebandResponseSent => true
  | .setEndpointId _ => true
  | .getEndpointId => true
  | .getEndpointUuid => true
  | .getMctpVersionSupport _ => true
  | .getMessageTypeSupport => true
  | .getVendorDefinedMessageSupport => true
  | .readNvmeMiDataStructure _ ctrl => ctrl < 65536
  | .nvmSubsystemHealthStatusPoll => true
  | .controllerHealthStatusPoll ctrl => ctrl < 65536
  | .configurationSet _ _ => true
  | .configurationGet _ => true
  | .nvmeMiAdminCommand ctrlId _ _ => ctrlId < 65536
  | .getVersion _ => true
  | .adminTunnel _ _ _ _ => true
  | .readResponsePart _ _ _ => true
  | .releaseResponse _ => true
  | .responseHoldTimeout => true
  | .engGo c ctx _ _ => coreOk c && ctx < 64
  | .engCtlClose c ctx => coreOk c && ctx < 64
  | .engCtlAbort c ctx => coreOk c && ctx < 64
  | .engineJobEnd c ctx _ => coreOk c && ctx < 64
  | .engineSwitchBoundary cls unit _ => unit < unitsOf cls
  | .engineJobWaitLimit c ctx => coreOk c && ctx < 64
  | .engineNoBoundaryTimeout cls unit => unit < unitsOf cls
  | .ocEnWrite c _ => coreOk c
  | .ocDrainComplete c _ => coreOk c
  | .ocmMaskWrite c port _ => coreOk c && port < 4
  | .ocAging c => coreOk c
  | .coreReset c => coreOk c
  | .watchdogExpiry c => coreOk c
  | .asyncExceptionEntry c _ => coreOk c
  | .illegalOpcode c _ => coreOk c
  | .iMov c _ => coreOk c
  | .iClr c _ => coreOk c
  | .iLea c _ => coreOk c
  | .iSel c _ => coreOk c
  | .iBswap c _ => coreOk c
  | .iSexb c _ => coreOk c
  | .iSexh c _ => coreOk c
  | .iSexw c _ => coreOk c
  | .iZexb c _ => coreOk c
  | .iZexh c _ => coreOk c
  | .iZexw c _ => coreOk c
  | .iAdd c _ => coreOk c
  | .iAdc c _ => coreOk c
  | .iSub c _ => coreOk c
  | .iSbc c _ => coreOk c
  | .iNeg c _ => coreOk c
  | .iMul c _ => coreOk c
  | .iMulhu c _ => coreOk c
  | .iMulhs c _ => coreOk c
  | .iDivu c _ => coreOk c
  | .iDivs c _ => coreOk c
  | .iRemu c _ => coreOk c
  | .iRems c _ => coreOk c
  | .iMinu c _ => coreOk c
  | .iMaxu c _ => coreOk c
  | .iMins c _ => coreOk c
  | .iMaxs c _ => coreOk c
  | .iAnd c _ => coreOk c
  | .iOr c _ => coreOk c
  | .iXor c _ => coreOk c
  | .iAndn c _ => coreOk c
  | .iNot c _ => coreOk c
  | .iShl c _ => coreOk c
  | .iShr c _ => coreOk c
  | .iSar c _ => coreOk c
  | .iRol c _ => coreOk c
  | .iRor c _ => coreOk c
  | .iPopc c _ => coreOk c
  | .iClz c _ => coreOk c
  | .iCtz c _ => coreOk c
  | .iCmp c _ => coreOk c
  | .iTst c _ => coreOk c
  | .iBr c _ => coreOk c
  | .iBcc c _ _ => coreOk c
  | .iDjnz c _ => coreOk c
  | .iCall c _ => coreOk c
  | .iRet c _ => coreOk c
  | .iMovs c _ _ => coreOk c
  | .iCmps c _ _ => coreOk c
  | .iScans c _ _ => coreOk c
  | .iScansn c _ _ => coreOk c
  | .iFills c _ _ => coreOk c
  | .iXlts c _ _ => coreOk c
  | .iCrcs c _ _ => coreOk c
  | .iRpt c _ _ => coreOk c
  | .iBset c _ => coreOk c
  | .iBclr c _ => coreOk c
  | .iBnot c _ => coreOk c
  | .iBmov c _ => coreOk c
  | .iBand c _ => coreOk c
  | .iBor c _ => coreOk c
  | .iBxor c _ => coreOk c
  | .iBt c _ => coreOk c
  | .iBf c _ => coreOk c
  | .iBtclr c _ => coreOk c
  | .iBld c _ => coreOk c
  | .iBst c _ => coreOk c
  | .iIn c _ => coreOk c
  | .iOut c _ => coreOk c
  | .iIox c _ => coreOk c
  | .iMfs c _ => coreOk c
  | .iMts c _ => coreOk c
  | .iOcwb c _ => coreOk c
  | .iOcinv c _ => coreOk c
  | .iOcwbi c _ => coreOk c
  | .iOcall c _ => coreOk c
  | .iWaitb c _ => coreOk c
  | .iTrap c _ => coreOk c
  | .iBkpt c _ => coreOk c
  | .iIst c _ => coreOk c
  | .iRfe c _ => coreOk c
  | .iHalt c _ => coreOk c
  | .iWdr c _ => coreOk c
  | .iExtu c _ => coreOk c
  | .iExts c _ => coreOk c
  | .iIns c _ => coreOk c
  | .iLdbe c _ => coreOk c
  | .iStbe c _ => coreOk c
  | .iVdec c _ => coreOk c
  | .iVdecz c _ => coreOk c
  | .iRngu c _ => coreOk c
  | .iRngs c _ => coreOk c
  | .iHstep c _ => coreOk c
  | .iPair c _ _ _ => coreOk c
  | .powerRemoved => true
  | .busMasterEnableClear port => port < 4
  | .d3hotEntry port => port < 4
  | .msixFunctionMaskChange port _ _ => port < 4
  | .rcRegisterRead win off size => windowOk win off size
  | .hmDigestFinishComplete => true
  | .i3cDynamicAddressAssignment _ => true
  | .interruptAggregationTimeExpiry ctrl vector => ctrlOk ctrl && vector < 64

end Sys2Proof
end

