-- ==== Sys2Proof/Safety.lean ====
section
/-! DEFINITION. What every reachable state satisfies: the values that the spec says a register or a memory never leaves;
and the words that statements about instructions are made in. -/

namespace Sys2Proof.Machine

/-- The local memories of the slices and the filled region are byte memories in canonical form (log entry 5). -/
def Dram.sound (d : Dram) : Prop := (∀ p ∈ d.locals, Mem.wf p.2 = true) ∧ Mem.wf d.filled = true

/-- At most 64 fuses count firmware security versions (R439, R447). -/
def Hallmark.sound (h : Hallmark) : Prop := h.fwSvn ≤ 64

/-- PHASE never reads 110b or 111b, and the device is ready only while its rails are up and PERST_N is high (R484,
R498). -/
def Power.sound (p : Power) : Prop := p.phase.toNat ≤ 5 ∧ (p.phase = 5 → p.rails = true ∧ p.perst = false)

/-- The manager port is a port of the split (R500); the power state is PS0 to PS4, the last operational one PS0 to PS2,
and a transition leads to PS0 to PS4 (R81 to R83). -/
def Device.sound (d : Device) : Prop :=
  d.mgrPort < splitPorts d.split ∧ d.ps ≤ 4 ∧ d.psOper ≤ 2 ∧ (∀ n ∈ d.psNext, n ≤ 4)
    ∧ (∀ x ∈ d.apst, x.2 ≠ 0 → x.1 = 3 ∨ x.1 = 4) ∧ d.pwr.sound

/-- The invariant of the block. -/
def State.sound (s : State) : Prop := s.dram.sound ∧ s.hm.sound ∧ s.dev.sound

/-- A step ends in a next state. -/
def goesOn (o : Host.Outcome State Fault Refusal) : Prop := ∃ t, o = .next t

/-- The next state of an outcome, the state given where there is none. -/
def nextOr (o : Host.Outcome State Fault Refusal) (s : State) : State :=
  match o with
  | .next t => t
  | .fault _ => s
  | .refused _ => s

/-! ## What a long instruction of a core does when nothing stops it -/

/-- The core executes and the word passes steps 1 to 4 of R304 up to its operands, for a row with these sizes and uses. -/
def State.longOk (s : State) (c : Nat) (w : LongWord) (sizes : List Nat) (d s1 s2 : Use) (priv extra : Bool) : Prop :=
  s.coreRuns c = true ∧ ∀ opc, preCheck s c w ⟨opc, sizes, d, s1, s2, priv⟩ extra = none

/-- An instruction leaves this: `u` with the pc moved on and the repeat counted (R299). -/
def State.completes (s u : State) (c : Nat) (w : LongWord) (target : Option W64) : State :=
  u.finish c (s.core c).ctx.regs.rp w.len target

/-- The instruction `i` writes `v` to the destination `l`, whose address passed its checks in `u`, and sets `fl`. -/
def LeavesDest (i : Instr) (s u : State) (c : Nat) (w : LongWord) (align : Bool) (l : Loc) (z v : Nat) (fl : FlagSet) : Prop :=
  ∀ t, writeLoc c align l z v u = .ok ((), t) →
    exec i s = .next (s.completes (t.modCtx c fun x => x.setFlags fl) c w none)

/-- One source of use `u1` and a destination: the word passes its checks, the source reads `a`, the destination is `l`. -/
structure OneSource (s u : State) (c : Nat) (w : LongWord) (sizes : List Nat) (u1 : Use) (align : Bool) (a : Nat) (l : Loc) : Prop where
  ok  : s.longOk c w sizes .w u1 .none false true
  src : ∃ t, readSrc c false align w.s1 u1 w.z s = .ok (a, t) ∧ locate c false w.d w.z t = .ok (l, u)
  dst : checkDest c align l w.z u = .ok ((), u)

/-- Two sources and a destination: the sources read `a` and `b`. -/
structure TwoSources (s u : State) (c : Nat) (w : LongWord) (sizes : List Nat) (u2 : Use) (align : Bool) (a b : Nat) (l : Loc) :
    Prop where
  ok  : s.longOk c w sizes .w .r u2 false true
  src : ∃ t1 t2, readSrc c false align w.s1 .r w.z s = .ok (a, t1) ∧ readSrc c false align w.s2 u2 w.z t1 = .ok (b, t2)
          ∧ locate c false w.d w.z t2 = .ok (l, u)
  dst : checkDest c align l w.z u = .ok ((), u)

/-- The instruction `i` completes in `u`, with the control transfer `target` if any. -/
def Completes (i : Instr) (s u : State) (c : Nat) (w : LongWord) (target : Option W64) : Prop :=
  exec i s = .next (s.completes u c w target)

/-! ## What an access of the D space leaves alone -/

/-- A core without its bench, its cache lines and its written bits. -/
def Core.bare (k : Core) : Core :=
  { k with
    ctx := { k.ctx with bench := [] }, oc := { k.oc with lines := [], accesses := 0, lost := [], wberr := false }
    wBench := [], wCluster := [] }

/-- A state without the cores and forges, the slices' local memories and meters, the migration logs, the requests that go out and
the entries of the fault and repair log. -/
def State.bare (s : State) : State :=
  { s with
    cpu := { s.cpu with cores := [], forges := [] }, host := { s.host with mig := [], paused := [] }
    dram := { s.dram with locals := [], clear := [] }, rel := { s.rel with seq := 0, log := [] }, meter := { s.meter with slices := [] }
    out := { s.out with dma := [], reqs := [], np := [], held := [] }, free := 0 }

/-- A slice's meter without the counts of host traffic of the span that runs. -/
def SliceMeter.bare (m : SliceMeter) : SliceMeter := { m with cur := { m.cur with hostIn := 0, hostOut := 0 } }

/-- `t` differs from `s` only in what accesses of the D space by core `c` may change: its bench, cache lines and written
bits, cluster SRAM, local memories, and requests to the host with their migration records and their counts, and the log of a cache line that was lost (R352). Every register, flag, bit variable
and control register stands, and every other core. -/
structure AccessOnly (c : Nat) (s t : State) : Prop where
  other : ∀ x, x ≠ c → t.core x = s.core x
  core  : (t.core c).bare = (s.core c).bare
  forge : ∀ f, { t.forge f with cluster := [] } = { s.forge f with cluster := [] }
  meter : ∀ sl, (Tbl.get? t.meter.slices sl).map SliceMeter.bare = (Tbl.get? s.meter.slices sl).map SliceMeter.bare
  bare  : t.bare = s.bare

/-- `n` steps of a relation, one after another. -/
def Steps (r : State → State → Prop) : Nat → State → State → Prop
  | 0, s, t => t = s
  | n + 1, s, t => ∃ u, r s u ∧ Steps r n u t

/-! ## What an admin command does when its first checks pass it -/

/-- The admin command `e` stands in `q`, has the opcode and is one of its controller's kind, and its PSDT is 00b (R54, R55). -/
structure State.AdminOk (s : State) (q : Src) (e : Sqe) (opc : Nat) (allow : CtrlKind → Bool) : Prop where
  stands : s.stands q e = true
  admin  : q.admin = true
  opc    : e.opc.toNat = opc
  kind   : allow (q.kind (s.begin q e.cid)) = true
  psdt   : e.psdt = 0

/-- The command is answered in `s` with this status, Dword 0 and Dword 1, its row having begun. -/
def Ends (i : Instr) (s u : State) (q : Src) (e : Sqe) (sct sc : Nat) (dw0 dw1 : W32) : Prop :=
  exec i s = .next (u.complete q e.cid sct sc dw0 dw1)

/-- The Set Features command `e` of feature `fid` passes the checks that precede its own: SV 0, and it may be set on its
controller (R54, R55, R80). -/
def State.Settable (s : State) (q : Src) (e : Sqe) (fid : Nat) : Prop :=
  s.AdminOk q e 9 onAll ∧ e.cdw10.toNat % 256 = fid ∧ e.cdw10.getLsbD 31 = false
    ∧ featureRefusal fid (q.kind (s.begin q e.cid)) = none

/-! ## What an I/O command does when it executes -/

/-- The I/O command `e` stands in `q`, has the opcode, and its slice `sl` executes commands that need the share (R95, R105). -/
structure State.IoOk (s : State) (q : Src) (e : Sqe) (opc sl : Nat) (core : Bool) : Prop where
  stands : s.stands q e = true
  io     : q.admin = false
  opc    : e.opc.toNat = opc
  slice  : q.slice? = some sl
  runs   : s.sliceRuns sl core = true

/-- It names the attached namespace `ns`, number `x` of the device, and no command before it holds LBAs of its ranges `rs` (R58, R62, R78). -/
structure State.NsOk (s : State) (q : Src) (e : Sqe) (opc sl x : Nat) (ns : Ns)
    (rs : List (Nat × Nat)) : Prop where
  io   : s.IoOk q e opc sl false
  name : s.findNs sl e.nsid.toNat = some (x, ns)
  nsx  : s.nsx x = ns
  att  : ns.attached = true
  free : s.overlapHeld q e ns.spec.lba rs = false
  san  : s.sanitizing sl = false

end Sys2Proof.Machine
end

