-- ==== Sys2Proof/Certificates/Slice0/Obligations.lean ====
section
/-! DEFINITION. The statements for the provers. -/

section Statements
open Sys2Proof Sys2Proof.Machine

/-! ## IABER: instructions (chapters 09 to 11) -/

/-- R305, R306: group 0 writes the moved, selected, reversed or extended source to the destination and sets no flag. -/
def Obligations.MoveAndConvertWriteTheirResult : Prop :=
  ∀ (s u : State) (c : Nat) (w : LongWord) (a b : Nat) (l : Loc),
    (OneSource s u c w szAll .r true a l → LeavesDest (.iMov c w) s u c w true l w.z a {})
    ∧ (s.longOk c w szAll .w .none .none false true → locate c false w.d w.z s = .ok (l, u) →
        checkDest c true l w.z u = .ok ((), u) → LeavesDest (.iClr c w) s u c w true l w.z 0 {})
    ∧ (∀ (m : W64) (t : State), s.longOk c w szD .w .a .none false true → locate c false w.s1 8 s = .ok (.mem m, t) →
        locate c false w.d w.z t = .ok (l, u) → checkDest c true l w.z u = .ok ((), u) →
        LeavesDest (.iLea c w) s u c w true l w.z m.toNat {})
    ∧ (TwoSources s u c w szAll .r true a b l →
        LeavesDest (.iSel c w) s u c w true l w.z (if (u.core c).ctx.c then a else b) {})
    ∧ (OneSource s u c w szHWD .r true a l → LeavesDest (.iBswap c w) s u c w true l w.z (leNat (leBytes w.z a).reverse) {})
    ∧ (OneSource s u c w szHWD .rB true a l → LeavesDest (.iSexb c w) s u c w true l w.z (sextVal 8 (8 * w.z) a) {}
        ∧ LeavesDest (.iZexb c w) s u c w true l w.z a {})
    ∧ (OneSource s u c w szWD .rH true a l → LeavesDest (.iSexh c w) s u c w true l w.z (sextVal 16 (8 * w.z) a) {}
        ∧ LeavesDest (.iZexh c w) s u c w true l w.z a {})
    ∧ (OneSource s u c w szD .rW true a l → LeavesDest (.iSexw c w) s u c w true l w.z (sextVal 32 (8 * w.z) a) {}
        ∧ LeavesDest (.iZexw c w) s u c w true l w.z a {})

/-- R303, R307, R308: group 1 writes its result and sets the flags of its row. Carry of an addition, borrow of a
subtraction; the carry in of ADC and SBC is C once the operands have been read. -/
def Obligations.ArithmeticWritesResultAndFlags : Prop :=
  ∀ (s u : State) (c : Nat) (w : LongWord) (a b : Nat) (l : Loc),
    let n := 8 * w.z
    let k := (u.core c).ctx.c.toNat
    let top (r : Nat) : Bool := r / 2 ^ (n - 1) % 2 = 1
    let zn (r : Nat) : FlagSet := { z := some (r = 0), n := some (top r) }
    let add (cin : Nat) : FlagSet :=
      { zn ((a + b + cin) % 2 ^ n) with
        c := some (2 ^ n ≤ a + b + cin)
        v := some (top a == top b && top ((a + b + cin) % 2 ^ n) != top a) }
    let sub (x y cin : Nat) : FlagSet :=
      { zn (subVal n x y cin) with
        c := some (x < y + cin)
        v := some (top x != top y && top (subVal n x y cin) != top x) }
    let does (i : Instr) (v : Nat) (fl : FlagSet) : Prop := LeavesDest i s u c w true l w.z v fl
    (TwoSources s u c w szAll .r true a b l →
      does (.iAdd c w) ((a + b) % 2 ^ n) (add 0) ∧ does (.iAdc c w) ((a + b + k) % 2 ^ n) (add k)
      ∧ does (.iSub c w) (subVal n a b 0) (sub a b 0) ∧ does (.iSbc c w) (subVal n a b k) (sub a b k)
      ∧ does (.iMul c w) (a * b % 2 ^ n) { zn (a * b % 2 ^ n) with
          c := some (2 ^ n ≤ a * b)
          v := some (sgn n a * sgn n b < -(2 ^ (n - 1) : Nat) || (2 ^ (n - 1) : Nat) ≤ sgn n a * sgn n b) }
      ∧ does (.iMulhu c w) (a * b / 2 ^ n) { zn (a * b / 2 ^ n) with c := some false, v := some false }
      ∧ (let r := ((sgn n a * sgn n b / (2 ^ n : Nat)) % (2 ^ n : Nat)).toNat;
          does (.iMulhs c w) r { zn r with c := some false, v := some false })
      ∧ (b ≠ 0 → does (.iDivu c w) (a / b) { zn (a / b) with c := some false, v := some false }
          ∧ does (.iRemu c w) (a % b) { zn (a % b) with c := some false, v := some false }
          ∧ (let o : Bool := a = 2 ^ (n - 1) && b = 2 ^ n - 1
              let q := if o then a else (Int.tdiv (sgn n a) (sgn n b) % (2 ^ n : Nat)).toNat
              let r := if o then 0 else (Int.tmod (sgn n a) (sgn n b) % (2 ^ n : Nat)).toNat
              does (.iDivs c w) q { zn q with c := some false, v := some o }
              ∧ does (.iRems c w) r { zn r with c := some false, v := some o }))
      ∧ does (.iMinu c w) (min a b) (zn (min a b)) ∧ does (.iMaxu c w) (max a b) (zn (max a b))
      ∧ (let r := if sgn n a ≤ sgn n b then a else b;
          does (.iMins c w) r (zn r))
      ∧ (let r := if sgn n a ≤ sgn n b then b else a;
          does (.iMaxs c w) r (zn r)))
    ∧ (OneSource s u c w szAll .r true a l → does (.iNeg c w) (subVal n 0 a 0) (sub 0 a 0))

/-- R309, R310: group 2 writes its result, sets zn, clears V, and C by the bit a shift or rotation moves out. -/
def Obligations.LogicAndShiftWriteResultAndFlags : Prop :=
  ∀ (s u : State) (c : Nat) (w : LongWord) (a b : Nat) (l : Loc),
    let n := 8 * w.z
    let bit (r k : Nat) : Bool := r / 2 ^ k % 2 = 1
    let zn (r : Nat) : FlagSet := { z := some (r = 0), n := some (bit r (n - 1)) }
    let does (i : Instr) (r : Nat) (fl : FlagSet) : Prop := LeavesDest i s u c w true l w.z r fl
    let lg (i : Instr) (r : Nat) : Prop := does i r { zn r with v := some false }
    let sh (i : Instr) (r : Nat) (cy : Bool) : Prop :=
      does i r { zn r with v := some false, c := if b = 0 then none else some cy }
    (TwoSources s u c w szAll .r true a b l →
      lg (.iAnd c w) (a &&& b) ∧ lg (.iOr c w) (a ||| b) ∧ lg (.iXor c w) (a ^^^ b) ∧ lg (.iAndn c w) (a &&& (2 ^ n - 1 - b)))
    ∧ (TwoSources s u c w szAll .rB true a b l →
      sh (.iShl c w) (a * 2 ^ b % 2 ^ n) (b ≤ n && bit a (n - b))
      ∧ sh (.iShr c w) (a / 2 ^ b) (b ≤ n && bit a (b - 1))
      ∧ sh (.iSar c w) ((sgn n a / (2 ^ min b n : Nat)) % (2 ^ n : Nat)).toNat (if b ≤ n then bit a (b - 1) else bit a (n - 1))
      ∧ (let r := (a * 2 ^ (b % n) + a / 2 ^ (n - b % n)) % 2 ^ n;
          sh (.iRol c w) r (bit r 0))
      ∧ (let r := (a / 2 ^ (b % n) + a * 2 ^ (n - b % n)) % 2 ^ n;
          sh (.iRor c w) r (bit r (n - 1))))
    ∧ (OneSource s u c w szAll .r true a l →
      lg (.iNot c w) (2 ^ n - 1 - a)
      ∧ (let r := ((List.range n).filter (bit a)).length;
          does (.iPopc c w) r (zn r))
      ∧ (let r := if a = 0 then n else n - 1 - Nat.log2 a;
          does (.iClz c w) r (zn r))
      ∧ (let r := ((List.range n).find? (bit a)).getD n;
          does (.iCtz c w) r (zn r)))

/-- R300, R303, R311, R312: group 3 compares, tests and transfers control; the conditions of R311's table; CALL leaves
the address of the next instruction in LK; DJNZ counts its counter down and branches unless it reaches 0. -/
def Obligations.CompareAndBranchFollowTheirTable : Prop :=
  ∀ (s t u : State) (c : Nat) (w : LongWord) (a b v : Nat) (p : W64) (l : Loc),
    let n := 8 * w.z
    let top (r : Nat) : Bool := r / 2 ^ (n - 1) % 2 = 1
    let flags (x : FlagSet) : State := u.modCtx c fun k => k.setFlags x
    let x := (u.core c).ctx
    (s.longOk c w szAll .none .r .r false true → readSrc c false true w.s1 .r w.z s = .ok (a, t) →
        readSrc c false true w.s2 .r w.z t = .ok (b, u) →
        Completes (.iCmp c w) s (flags
          { z := some (subVal n a b 0 = 0), n := some (top (subVal n a b 0)), c := some (a < b)
            v := some (top a != top b && top (subVal n a b 0) != top a) }) c w none)
    ∧ (s.longOk c w szAll .none .r .none false true → readSrc c false true w.s1 .r w.z s = .ok (a, u) →
        Completes (.iTst c w) s (flags { z := some (a = 0), n := some (top a), c := some false, v := some false }) c w none)
    ∧ (s.longOk c w szD .none .t .none false true → readTarget c w.s1 s = .ok (p, u) →
        Completes (.iBr c w) s u c w (some p)
        ∧ Completes (.iCall c w) s (u.modCtx c fun k => { k with regs := { k.regs with lk := k.pc + BitVec.ofNat 64 w.len } }) c w (some p)
        ∧ ∀ (cc : Cond) (yes : Bool),
            yes = (match cc with
              | .eq => x.z | .ne => !x.z | .lo => x.c | .hs => !x.c | .mi => x.n | .pl => !x.n | .vs => x.v | .vc => !x.v
              | .hi => !x.c && !x.z | .ls => x.c || x.z | .ge => x.n == x.v | .lt => x.n != x.v
              | .gt => !x.z && x.n == x.v | .le => x.z || x.n != x.v) →
            Completes (.iBcc c cc w) s u c w (if yes then some p else none))
    ∧ (s.longOk c w szD .none .none .none false true → Completes (.iRet c w) s s c w (some (s.core c).ctx.regs.lk))
    ∧ (∀ t1 t2 t3 : State, s.longOk c w szAll .m .t .none false true → locate c false w.d w.z s = .ok (l, t1) →
        readLoc c false true l w.z t1 = .ok (v, t2) → readTarget c w.s1 t2 = .ok (p, t3) →
        writeLoc c true l w.z (subVal n v 1 0) t3 = .ok ((), u) →
        Completes (.iDjnz c w) s u c w (if subVal n v 1 0 = 0 then none else some p))

/-- R277, R278, R316, R317: bit instructions write the bit variable they name, or raise Bit-Space Fault where the bit may
not be written so; they branch on it, and load and store it. -/
def Obligations.BitInstructionsWriteTheirBit : Prop :=
  ∀ (s t u : State) (c : Nat) (w : LongWord) (a b v : Nat) (p : W64) (l : Loc),
    let bit (k : Nat) : Bool := (u.core c).ctx.bit k
    -- a bit from 0004h to 00FFh may be written only with 0, and only EDONE0 to EDONE63
    let writes (i : Instr) (x : Bool) : Prop :=
      if 4 ≤ a ∧ a < 256 ∧ (x = true ∨ ¬(64 ≤ a ∧ a < 128)) then
        ∃ word, exec i s = .next (s.takeSync c { num := 5, addr := BitVec.ofNat 64 a } w.len word)
      else Completes i s (u.modCtx c fun k => k.setBit a x) c w none
    (s.longOk c w szH .none .rH .none false true → readSrc c false true w.s1 .rH 2 s = .ok (a, u) →
      writes (.iBset c w) true ∧ writes (.iBclr c w) false ∧ writes (.iBnot c w) (!bit a))
    ∧ (s.longOk c w szH .none .rH .rH false true → readSrc c false true w.s1 .rH 2 s = .ok (a, t) →
      readSrc c false true w.s2 .rH 2 t = .ok (b, u) →
      writes (.iBmov c w) (bit b) ∧ writes (.iBand c w) (bit a && bit b) ∧ writes (.iBor c w) (bit a || bit b)
      ∧ writes (.iBxor c w) (bit a != bit b))
    ∧ (s.longOk c w szH .none .rH .t false true → readSrc c false true w.s1 .rH 2 s = .ok (a, t) →
      readTarget c w.s2 t = .ok (p, u) →
      Completes (.iBt c w) s u c w (if bit a then some p else none)
      ∧ Completes (.iBf c w) s u c w (if bit a then none else some p)
      ∧ (bit a = false → Completes (.iBtclr c w) s u c w none)
      ∧ (bit a = true → bitFaults a false = false →
          Completes (.iBtclr c w) s (u.modCtx c fun k => k.setBit a false) c w (some p)))
    ∧ (s.longOk c w szAll .w .rH .none false true → readSrc c false true w.s1 .rH 2 s = .ok (a, t) →
      locate c false w.d w.z t = .ok (l, u) → checkDest c true l w.z u = .ok ((), u) →
      LeavesDest (.iBld c w) s u c w true l w.z ((t.core c).ctx.bit a).toNat {})
    ∧ (s.longOk c w szAll .none .rH .r false true → readSrc c false true w.s1 .rH 2 s = .ok (a, t) →
      readSrc c false true w.s2 .r w.z t = .ok (v, u) → writes (.iBst c w) (v % 2 = 1))

/-- R323 to R327: group 7 extracts and inserts fields, moves big-endian data, decodes varints, tests bounds and makes
hash steps; its operands take no alignment fault. -/
def Obligations.RecordInstructionsWriteTheirResult : Prop :=
  ∀ (s t u : State) (c : Nat) (w : LongWord) (a b v : Nat) (l : Loc),
    let n := 8 * w.z
    let pos := b % 64
    let len := b / 256 % 64 + 1
    (TwoSources s u c w szAll .rH false a b l →
      LeavesDest (.iExtu c w) s u c w false l w.z (a / 2 ^ pos % 2 ^ len % 2 ^ n) {}
      ∧ LeavesDest (.iExts c w) s u c w false l w.z (wrapInt n (sgn len (a / 2 ^ pos % 2 ^ len))) {})
    ∧ (∀ t1 t2 t3 : State, s.longOk c w szAll .m .r .rH false true → locate c false w.d w.z s = .ok (l, t1) →
        readLoc c false false l w.z t1 = .ok (v, t2) → readSrc c false false w.s1 .r w.z t2 = .ok (a, t3) →
        readSrc c false false w.s2 .rH w.z t3 = .ok (b, t) →
        writeLoc c false l w.z (let mask := (2 ^ len - 1) * 2 ^ pos % 2 ^ n;
          (v &&& (2 ^ n - 1 - mask)) ||| (a * 2 ^ pos % 2 ^ n &&& mask)) t = .ok ((), u) →
        Completes (.iIns c w) s u c w none)
    ∧ (OneSource s u c w szHWD .r false a l →
      LeavesDest (.iLdbe c w) s u c w false l w.z (leNat (leBytes w.z a).reverse) {}
      ∧ LeavesDest (.iStbe c w) s u c w false l w.z (leNat (leBytes w.z a).reverse) {})
    ∧ (∀ signed : Bool, s.longOk c w szAll .w .reg .none false (varintD w) →
        let i := if signed then Instr.iVdecz c w else Instr.iVdec c w
        let fails := Completes i s (t.modCtx c fun x => { x with v := true }) c w none
        let res := if signed then wrapInt n (zigzag v) else v
        (varintLoop c (s.rega c w.s1.r) 10 0 0 s = .ok (none, t) → fails)
        ∧ (∀ k, varintLoop c (s.rega c w.s1.r) 10 0 0 s = .ok (some (v, k), t) →
            (varintFits signed n v = false → fails)
            ∧ (varintFits signed n v = true → ∀ t1, locate c false w.d w.z t = .ok (l, t1) →
                writeLoc c false l w.z res t1 = .ok ((), u) →
                Completes i s ((u.setRega c w.s1.r (s.rega c w.s1.r + BitVec.ofNat 64 k)).modCtx c fun x =>
                  { x with z := res = 0, v := false }) c w none)))
    ∧ (∀ lo hi : Nat, s.longOk c w szAll .none .r .bounds false true → readSrc c false false w.s1 .r w.z s = .ok (a, t) →
        readBounds c w.s2 w.z t = .ok ((lo, hi), u) →
        Completes (.iRngu c w) s (u.modCtx c fun x => { x with c := lo ≤ a && a ≤ hi }) c w none
        ∧ Completes (.iRngs c w) s (u.modCtx c fun x => { x with c := sgn n lo ≤ sgn n a && sgn n a ≤ sgn n hi }) c w none)
    ∧ (∀ t1 t2 : State, s.longOk c w szAll .md .r .none false true → locate c false w.d 8 s = .ok (l, t1) →
        readLoc c false false l 8 t1 = .ok (v, t2) → readSrc c false false w.s1 .r w.z t2 = .ok (a, t) →
        (let h := (v ^^^ a) * 0x9E3779B97F4A7C15 % 2 ^ 64;
          writeLoc c false l 8 (h ^^^ (h / 2 ^ 32)) t = .ok ((), u)) →
        Completes (.iHstep c w) s u c w none)

/-- R318 to R322, R331, R332, R338, R350: group 6. Ports, special registers, one cache line, WAITB, TRAP and BKPT, and the
supervisor rows. -/
def Obligations.SystemInstructionsHaveTheirEffect : Prop :=
  ∀ (s t u : State) (c : Nat) (w : LongWord) (a v : Nat) (l : Loc) (r : PortReg),
    let special (k : Core) (n : Nat) : Option W64 :=
      match n with
      | 0 => some k.ctx.regs.lk | 1 => some k.ctx.regs.bc | 2 => some k.ctx.regs.bs | 3 => some k.ctx.regs.bd
      | 4 => some k.ctx.regs.bx | 5 => some k.st | _ => none
    let regs (f : Regs → Regs) : State := u.modCtx c fun x => { x with regs := f x.regs }
    let n := w.s2.f.toNat
    (s.longOk c w szAll .w .rW .none false true → readSrc c false true w.s1 .rW 4 s = .ok (a, t) →
        locate c false w.d w.z t = .ok (l, u) → checkDest c true l w.z u = .ok ((), u) → portFind u c a w.z .inp = some r →
        LeavesDest (.iIn c w) s u c w true l w.z (portIn u c r) {})
    ∧ (s.longOk c w szAll .none .rW .r false true → readSrc c false true w.s1 .rW 4 s = .ok (a, t) →
        readSrc c false true w.s2 .r w.z t = .ok (v, u) → portFind u c a w.z .out = some r →
        Completes (.iOut c w) s (portOut u c r v) c w none)
    ∧ (∀ t1 t2 : State, s.longOk c w szAll .w .rW .r false true → readSrc c false true w.s1 .rW 4 s = .ok (a, t) →
        readSrc c false true w.s2 .r w.z t = .ok (v, t1) → locate c false w.d w.z t1 = .ok (l, t2) →
        checkDest c true l w.z t2 = .ok ((), t2) → portFind t2 c a w.z .iox = some r →
        writeLoc c true l w.z (portIox t2 c r).1 (portIox t2 c r).2 = .ok ((), u) → Completes (.iIox c w) s u c w none)
    ∧ (∀ x : W64, s.longOk c w szD .w .none .n false (n ≤ 5) → locate c false w.d w.z s = .ok (l, u) →
        checkDest c true l w.z u = .ok ((), u) → special (u.core c) n = some x →
        LeavesDest (.iMfs c w) s u c w true l w.z x.toNat {})
    ∧ (∀ x : W64, s.longOk c w szD .none .r .n false (n ≤ 5) → readSrc c false true w.s1 .r w.z s = .ok (x.toNat, u) →
        (n = 0 → Completes (.iMts c w) s (regs fun g => { g with lk := x }) c w none)
        ∧ (n = 1 → Completes (.iMts c w) s (regs fun g => { g with bc := x }) c w none)
        ∧ (n = 2 → Completes (.iMts c w) s (regs fun g => { g with bs := x }) c w none)
        ∧ (n = 3 → Completes (.iMts c w) s (regs fun g => { g with bd := x }) c w none)
        ∧ (n = 4 → Completes (.iMts c w) s
            (regs fun g => { g with acc := x.extractLsb' 32 32, stop := x.extractLsb' 0 2 }) c w none)
        ∧ (n = 5 → (u.core c).sup = true ∨ x.getLsbD 0 = false →
            Completes (.iMts c w) s ((regs fun g => { g with dir := x.getLsbD 2 }).modCore c fun k =>
              { k with sup := x.getLsbD 0 }) c w none))
    ∧ (s.longOk c w szH .none .rH .none false true → readSrc c false true w.s1 .rH 2 s = .ok (a, u) →
        ((u.core c).ctx.bit a = true → Completes (.iWaitb c w) s u c w none)
        ∧ ((u.core c).ctx.bit a = false → exec (.iWaitb c w) s = .next s))
    ∧ (s.longOk c w szB .none .rB .none false true → readSrc c false true w.s1 .rB w.z s = .ok (v, u) →
        ∃ word, exec (.iTrap c w) s = .next (s.takeSync c { num := 12, code := v } w.len word))
    ∧ (s.longOk c w szB .none .none .none false true →
        ∃ word, exec (.iBkpt c w) s = .next (s.takeSync c { num := 13 } w.len word))
    ∧ (s.longOk c w szD .none .rD .r true true → readSrc c false true w.s1 .rD w.z s = .ok (a, t) →
        readSrc c false true w.s2 .r w.z t = .ok (v, u) → a % 8 = 0 → a < 0x100000 →
        Completes (.iIst c w) s (u.setForge (c / 9)
          { u.forge (c / 9) with istore := Mem.write (u.forge (c / 9)).istore a (leBytes 8 v) }) c w none)
    ∧ (s.longOk c w szD .none .none .none true true → exec (.iRfe c w) s = .next (s.modCore c fun k => { k with
        ctl := { k.ctl with exl := false }
        sup := k.ctl.est.getLsbD 0
        wdCount := 0
        ctx := { k.ctx with pc := k.ctl.epc, regs := { k.ctx.regs with dir := k.ctl.est.getLsbD 2, rp := k.ctl.est.getLsbD 1 } } }))
    ∧ (s.longOk c w szB .none .none .none true true →
        Completes (.iHalt c w) s (s.modCore c fun k => { k with halted := true }) c w none
        ∧ Completes (.iWdr c w) s (s.modCore c fun k => { k with wdCount := 0 }) c w none)

/-- Reading an operand changes nothing but the register that modes 5h and 6h step, and what its memory accesses may change
(R285, R289): every other register, flag, bit variable and control register of every core stands. -/
def Obligations.OperandReadsChangeOnlySteppedRegisters : Prop :=
  ∀ (s t : State) (c a z : Nat) (stream align : Bool) (p : Specifier) (u : Use),
    readSrc c stream align p u z s = .ok (a, t) →
    (p.mode = 5 → AccessOnly c (s.setRega c p.r (s.rega c p.r + BitVec.ofNat 64 (u.bytes z))) t)
    ∧ (p.mode = 6 → AccessOnly c (s.setRega c p.r (s.rega c p.r - BitVec.ofNat 64 (u.bytes z))) t)
    ∧ (p.mode ≠ 5 → p.mode ≠ 6 → AccessOnly c s t)

/-- Writing a destination (R280): a register takes the value zero-extended and nothing else changes; a store in the bench
changes exactly its bytes, of all memory; any store leaves every register, flag and control register and every other core
as they are. -/
def Obligations.DestinationWritesChangeOnlyTheirPlace : Prop :=
  ∀ (s t : State) (c z v : Nat) (align : Bool) (l : Loc), writeLoc c align l z v s = .ok ((), t) →
    (∀ r, l = .reg r → t = s.setRega c r (BitVec.ofNat 64 (v % 2 ^ (8 * z))))
    ∧ (∀ m, l = .mem m → AccessOnly c s t
        ∧ (∀ o, s.place c m.toNat = some (.bench o) →
            (∀ x, x < o ∨ o + z ≤ x → Mem.get (t.core c).ctx.bench x = Mem.get (s.core c).ctx.bench x)
            ∧ (t.core c).ctx.bench = Mem.write (s.core c).ctx.bench o (leBytes z v)
            ∧ t.cpu.forges = s.cpu.forges ∧ t.dram = s.dram ∧ t.out = s.out ∧ t.host = s.host ∧ (t.core c).oc = (s.core c).oc))

/-- R299, R338: completion moves the pc past the instruction or to its target, or counts a repeat down in BC; in user mode
the watchdog restarts; nothing else of the state changes while control does not reach the exit or resume address. RPT goes to the
instruction it repeats with ST.RP at 1, or passes over it when BC is 0; it refuses control transfers, string instructions,
itself, and MFS and MTS of BC. -/
def Obligations.CompletionMovesThePcOrCountsARepeat : Prop :=
  ∀ (s : State) (c len : Nat) (target : Option W64) (w : LongWord) (word : W64),
    let dog (k : Core) : Nat := if k.sup then k.wdCount else 0
    let at8 := (s.core c).ctx.pc + 8
    let next := (s.core c).ctx.pc + BitVec.ofNat 64 len
    (s.finish c true len target = s.modCore c fun k => { k with
        wdCount := dog k
        ctx := if k.ctx.regs.bc = 1 then { k.ctx with pc := next, regs := { k.ctx.regs with bc := 0, rp := false } }
          else { k.ctx with regs := { k.ctx.regs with bc := k.ctx.regs.bc - 1 } } })
    ∧ (s.finish c false len none = s.modCore c fun k => { k with wdCount := dog k, ctx := { k.ctx with pc := next } })
    ∧ (∀ a, (s.core c).sup = true ∨ (s.core c).run = none ∨ (a ≠ exitAddr ∧ a ≠ resumeAddr) →
        s.finish c false len (some a) = s.modCore c fun k => { k with wdCount := dog k, ctx := { k.ctx with pc := a } })
    ∧ (s.longOk c w szB .none .none .none false (!rptRefuses word) → fetchFault s c at8 = none →
      exec (.iRpt c w word) s = .next (s.modCore c fun k => { k with
        wdCount := dog k
        ctx := if k.ctx.regs.bc = 0 then { k.ctx with pc := at8 + BitVec.ofNat 64 (wordLen word) }
          else { k.ctx with pc := at8, regs := { k.ctx.regs with rp := true } } }))
    ∧ (s.coreRuns c = true → fetchFault s c (s.core c).ctx.pc = none → rptRefuses word = true →
        ∃ saved, exec (.iRpt c w word) s = .next (s.takeSync c { num := 1 } 8 saved))

/-- R297, R314, R315: a string instruction handles its elements one by one, at most `limit` before an interruption: with BC
elements done it completes; else it stops between two elements with its pc unmoved. -/
def Obligations.BlockMovesFillsTranslationsAndChecksumsGoElementByElement : Prop :=
  ∀ (s t u : State) (c : Nat) (w : LongWord) (limit v : Nat),
    let g (x : State) : Regs := (x.core c).ctx.regs
    let move (x : State) (z : Nat) (a : W64) : W64 := if (g x).dir then a - BitVec.ofNat 64 z else a + BitVec.ofNat 64 z
    let upTo (i : Instr) (r : State → State → Prop) (u : State) : Prop :=
      (Steps r (g u).bc.toNat u t → (g u).bc.toNat ≤ limit → Completes i s t c w none)
      ∧ (Steps r limit u t → limit < (g u).bc.toNat → exec i s = .next t)
    (s.longOk c w szAll .none .none .none false true → upTo (.iMovs c w limit) (fun x y => ∃ b x1 x2,
        memRead c true false (g x).bs w.z x = .ok (b, x1) ∧ memWrite c true false (g x).bd b x1 = .ok ((), x2)
        ∧ y = x2.modRegs c fun k => { k with
            bc := (g x).bc - 1, bs := move x w.z (g x).bs, bd := move x w.z (g x).bd }) s)
    ∧ (s.longOk c w szB .none .none .none false true → upTo (.iCrcs c w limit) (fun x y => ∃ b x1,
        memRead c true false (g x).bs 1 x = .ok ([b], x1)
        ∧ y = x1.modRegs c fun k => { k with
            bc := (g x).bc - 1, bs := move x 1 (g x).bs
            acc := BitVec.ofNat 32 ((List.range 8).foldl (fun a _ => if a % 2 = 1 then (a / 2) ^^^ 0x82F63B78 else a / 2)
              ((g x).acc.toNat ^^^ b.toNat)) }) s)
    ∧ (s.longOk c w szAll .none .r .none false (strS1 w) → readSrc c true true w.s1 .r w.z s = .ok (v, u) →
        upTo (.iFills c w limit) (fun x y => ∃ x1,
          memWrite c true false (g x).bd (leBytes w.z v) x = .ok ((), x1)
          ∧ y = x1.modRegs c fun k => { k with bc := (g x).bc - 1, bd := move x w.z (g x).bd }) u)
    ∧ (s.longOk c w szB .none .rD .none false (strS1 w) → readSrc c true true w.s1 .rD w.z s = .ok (v, u) →
        upTo (.iXlts c w limit) (fun x y => ∃ b e x1 x2 x3,
          memRead c true false (g x).bs 1 x = .ok ([b], x1)
          ∧ memRead c true false (BitVec.ofNat 64 (v + b.toNat)) 1 x1 = .ok (e, x2)
          ∧ memWrite c true false (g x).bd e x2 = .ok ((), x3)
          ∧ y = x3.modRegs c fun k => { k with bc := (g x).bc - 1, bs := move x 1 (g x).bs, bd := move x 1 (g x).bd }) u)

/-- R314, R315: CMPS, SCANS and SCANSN stop at the first element that meets their condition, with BX.STOP saying which; with
BC run out they write 00b there, unless they handled no element. -/
def Obligations.BlockComparesAndScansStopAtTheirElement : Prop :=
  ∀ (s t t' u : State) (c : Nat) (w : LongWord) (limit n v : Nat),
    let g (x : State) : Regs := (x.core c).ctx.regs
    let move (x : State) (z : Nat) (a : W64) : W64 := if (g x).dir then a - BitVec.ofNat 64 z else a + BitVec.ofNat 64 z
    let go (i : Instr) (r stops : State → State → Prop) (stop : BitVec 2) (u : State) : Prop :=
      (Steps r n u t → (g u).bc.toNat = n → n ≤ limit →
        Completes i s (if n = 0 then u else t.modRegs c fun k => { k with stop := 0 }) c w none)
      ∧ (Steps r n u t → stops t t' → n < (g u).bc.toNat → n < limit →
          Completes i s (t'.modRegs c fun k => { k with stop := stop }) c w none)
      ∧ (Steps r limit u t → limit < (g u).bc.toNat → exec i s = .next t)
    (s.longOk c w szAll .none .none .none false true →
      let el (eq : Bool) (x y : State) : Prop := ∃ a b x1 x2,
        memRead c true false (g x).bs w.z x = .ok (a, x1) ∧ memRead c true false (g x).bd w.z x1 = .ok (b, x2)
        ∧ decide (leNat a = leNat b) = eq
        ∧ y = (x2.modCtx c fun k => k.setFlags (subFlags (8 * w.z) (leNat a) (leNat b) 0)).modRegs c fun k => { k with
            bc := (g x).bc - 1, bs := move x w.z (g x).bs, bd := move x w.z (g x).bd }
      go (.iCmps c w limit) (el true) (el false) 2 s)
    ∧ (s.longOk c w szAll .none .r .none false (strS1 w) → readSrc c true true w.s1 .r w.z s = .ok (v, u) →
        let el (eq : Bool) (x y : State) : Prop := ∃ a x1,
          memRead c true false (g x).bs w.z x = .ok (a, x1) ∧ decide (leNat a = v) = eq
          ∧ y = (x1.modCtx c fun k => k.setFlags (subFlags (8 * w.z) (leNat a) v 0)).modRegs c fun k => { k with
              bc := (g x).bc - 1, bs := move x w.z (g x).bs }
        go (.iScans c w limit) (el false) (el true) 1 u ∧ go (.iScansn c w limit) (el true) (el false) 2 u)

/-- R350, R352: cache instructions act on the line that holds their address, when an entry they reach holds it; writing
back a lost dirty line raises Bus Error. OCALL acts on every entry reached. -/
def Obligations.CacheInstructionsActOnReachedEntries : Prop :=
  ∀ (s u : State) (c : Nat) (w : LongWord) (m : W64) (i : Nat) (l : CacheLine),
    let k := u.core c
    (s.longOk c w szD .none .a .none false true → locate c false w.s1 8 s = .ok (.mem m, u) →
      (k.oc.find m.toNat = none ∨ (k.oc.find m.toNat = some (i, l) ∧ (Core.reach k).getLsbD i = false) →
        Completes (.iOcwb c w) s u c w none ∧ Completes (.iOcinv c w) s u c w none ∧ Completes (.iOcwbi c w) s u c w none)
      ∧ (k.oc.find m.toNat = some (i, l) → Tbl.get? k.oc.lines i = some l → (Core.reach k).getLsbD i = true →
          Completes (.iOcinv c w) s (u.invalidate c i) c w none
          ∧ (k.oc.lost.contains i = false ∨ l.dirty = 0 →
              Completes (.iOcwb c w) s (u.writeBack c i) c w none
              ∧ Completes (.iOcwbi c w) s ((u.writeBack c i).invalidate c i) c w none)
          ∧ (k.oc.lost.contains i = true → l.dirty ≠ 0 → ∃ w1 w2,
              exec (.iOcwb c w) s = .next (s.takeSync c { num := 9, addr := BitVec.ofNat 64 l.addr } w.len w1)
              ∧ exec (.iOcwbi c w) s = .next (s.takeSync c { num := 9, addr := BitVec.ofNat 64 l.addr } w.len w2))))
    ∧ (s.longOk c w szD .none .n .none false (w.s1.f.toNat ≤ 2) → (s.core c).oc.lost = [] →
        let act (x : State) (i : Nat) : State :=
          if Tbl.get? (x.core c).oc.lines i = none then x
          else if w.s1.f = 0 then x.writeBack c i
          else if w.s1.f = 1 then x.invalidate c i
          else (x.writeBack c i).invalidate c i
        Completes (.iOcall c w) s (((List.range 48).filter fun i => (Core.reach (s.core c)).getLsbD i).foldl act s) c w none)

/-- R291 to R296, R328, R329: a legal pair without a hazard executes both operations on the values its operands had before
it, slot A's writes first; a hazard or an illegal slot raises its exception instead. -/
def Obligations.PairsExecuteBothOperations : Prop :=
  ∀ (s t1 t2 t3 t4 : State) (c : Nat) (a b : ShortOp) (xa ya xb yb : Nat),
    let k := (s.core c).ctx
    let oa := sopLocate s c a
    let ob := sopLocate s c b
    let nm (u : SUse) (l : Loc) : List SLoc := if u = .b then bitName s c l else []
    let bv (u : SUse) (v : Nat) : List SLoc := if u = .b then [.bit (v % 65536)] else []
    let ra := sopResult oa k xa ya
    let rb := sopResult ob k xb yb
    let word := pairWord a b false
    let early := hazard oa ob (nm oa.ux oa.lx) (nm oa.uy oa.ly) (nm ob.ux ob.lx) (nm ob.uy ob.ly)
    let late := hazard oa ob (bv oa.ux xa) (bv oa.uy ya) (bv ob.ux xb) (bv ob.uy yb)
    s.coreRuns c = true → fetchFault s c k.pc = none →
    (∀ r, s.runOn c = some r → (s.core c).sup = true ∨ (s.billetOf r).fmt ≠ 1) →
    (shortLegal a false = false → exec (.iPair c a b false) s = .next (s.takeSync c { num := 1 } 8 word))
    ∧ (shortLegal a false = true → shortLegal b true = false →
        exec (.iPair c a b false) s = .next (s.takeSync c { num := 1, slot := true } 8 word))
    ∧ (shortLegal a false = true → shortLegal b true = true →
        (early = true → exec (.iPair c a b false) s = .next (s.takeSync c { num := 2 } 8 word))
        ∧ (early = false → sopRead c oa s = .ok ((xa, ya), t1) → sopRead c ob t1 = .ok ((xb, yb), t2) →
            (late = true → exec (.iPair c a b false) s = .next (s.takeSync c { num := 2 } 8 word))
            ∧ (late = false → sopCheck t2 c ra = .ok () → sopCheck t2 c rb = .ok () →
                let pa := sopPort t2 c ra
                let pb := sopPort pa.2 c rb
                sopWrite c oa ra pa.1 pb.2 = .ok ((), t3) → sopWrite c ob rb pb.1 t3 = .ok ((), t4) →
                exec (.iPair c a b false) s = .next (t4.finish c k.regs.rp 8 (rb.target.map (BitVec.ofNat 64))))))

/-- R328: what each short operation writes and where it transfers, from its 8-byte operands x and y and the flags and bits
before the pair. Only CMP and TST set flags. -/
def Obligations.ShortOperationsComputeTheirTable : Prop :=
  ∀ (o : SOp) (k : Ctx) (x y : Nat),
    let r := sopResult o k x y
    let writes (v : Nat) : Prop := r = { dest := some v }
    let sets (v : Bool) : Prop := r = { bit := some (x % 65536, v) }
    let goes (b : Bool) : Prop := r = { target := if b then some y else none }
    let bx := k.bit (x % 65536)
    let b_y := k.bit (y % 65536)
    match o.op with
    | 0x00 => r = {}
    | 0x01 => writes y | 0x02 => writes 0 | 0x03 => writes y | 0x04 => writes (leNat (leBytes 8 y).reverse)
    | 0x10 => writes ((x + y) % 2 ^ 64) | 0x11 => writes ((x + 2 * 2 ^ 64 - y) % 2 ^ 64) | 0x12 => writes (x * y % 2 ^ 64)
    | 0x13 => writes (min x y) | 0x14 => writes (max x y)
    | 0x15 => writes (if sgn 64 x ≤ sgn 64 y then x else y) | 0x16 => writes (if sgn 64 x ≤ sgn 64 y then y else x)
    | 0x20 => writes (x &&& y) | 0x21 => writes (x ||| y) | 0x22 => writes (x ^^^ y)
    | 0x23 => writes (x * 2 ^ (y % 64) % 2 ^ 64) | 0x24 => writes (x / 2 ^ (y % 64))
    | 0x25 => writes (sarVal 64 x (y % 64)) | 0x26 => writes (rolVal 64 x (y % 64))
    | 0x30 => r = { flags := subFlags 64 x y 0 }
    | 0x31 => r = { flags := { z := some (x = 0), n := some (x / 2 ^ 63 % 2 = 1), c := some false, v := some false } }
    | 0x32 => r = { dest := some (subVal 64 x 1 0), target := if subVal 64 x 1 0 = 0 then none else some y }
    | 0x33 => r = { link := true, target := some y } | 0x34 => r = { target := some k.regs.lk.toNat }
    | 0x35 => goes true
    | 0x36 => goes k.z | 0x37 => goes (!k.z) | 0x38 => goes k.c | 0x39 => goes (!k.c)
    | 0x3A => goes (k.n != k.v) | 0x3B => goes (k.n == k.v) | 0x3C => goes (!k.c && !k.z) | 0x3D => goes (k.c || k.z)
    | 0x50 => sets true | 0x51 => sets false | 0x52 => sets (!bx) | 0x53 => sets b_y
    | 0x54 => sets (bx && b_y) | 0x55 => sets (bx || b_y) | 0x56 => sets (bx != b_y)
    | 0x58 => goes bx | 0x59 => goes (!bx)
    | 0x5A => r = if bx then { bit := some (x % 65536, false), target := some y } else {}
    | 0x60 => r = { port := some (y % 2 ^ 32, none) } | 0x61 => r = { port := some (x % 2 ^ 32, some y) }
    | 0x70 => writes (hstepVal x y)
    | _ => True

/-- R331, R333: a synchronous exception saves PC, ST, its cause and its address, enters supervisor mode at its vector and
sets EXL; while EXL is 1 it stops the core instead. A word that no row names raises Illegal Instruction. -/
def Obligations.SynchronousExceptionsAreEntered : Prop :=
  ∀ (s : State) (c len : Nat) (word : W64) (e : Exc), e.stands = none →
    ((s.core c).ctl.exl = true → s.takeSync c e len word = s.modCore c fun k => { k with stopped := true })
    ∧ ((s.core c).ctl.exl = false → (s.core c).sup = true ∨ (s.core c).run = none →
        s.takeSync c e len word = s.modCore c fun k => { k with
          ctl := { k.ctl with
            epc := k.ctx.pc, est := k.st, num := BitVec.ofNat 8 e.num, code := BitVec.ofNat 8 e.code, slot := e.slot
            eaddr := e.addr, exl := true }
          sup := true, wdCount := 0
          ctx := { k.ctx with
            pc := (k.ctl.vbase ++ 0#9) + BitVec.ofNat 64 (32 * e.num), regs := { k.ctx.regs with dir := false, rp := false } } })
    ∧ (s.coreRuns c = true → fetchFault s c (s.core c).ctx.pc = none →
        exec (.illegalOpcode c word) s = .next (s.takeSync c { num := 1 } 8 word))

/-- R249, R331: an exception of a run in user mode that its billet does not handle ends the run with Billet Fault: status
7/81h, the cause in the low byte of DW0 with bit 8 for a fault record of 128 bytes, and the core falls to the runtime. -/
def Obligations.UnhandledExceptionsEndTheRun : Prop :=
  ∀ (s : State) (c i len : Nat) (word : W64) (e : Exc) (r : Run),
    e.stands = none → (s.core c).ctl.exl = false → (s.core c).sup = false → (s.core c).run = some i → s.runAt i = some r →
    r.handler = true ∨ (s.billetOf r).handler e.num = none →
    let k := s.core c
    let t := s.takeSync c e len word
    (t.core c).run = none ∧ (t.core c).sup = true ∧ (t.core c).ctl.exl = false
    ∧ t.runAt i = some { r with
        core := none, eng := Tbl.mapV r.eng fun _ => abortCtx
        ended := some
          { sct := 7, sc := 0x81, dw0 := e.num + (if 128 ≤ r.outLen then 256 else 0), dw1 := 0
            output := if 128 ≤ r.outLen then
                Data.ofBytes (faultRecord r k e.num k.ctx.pc (if e.num = 3 ∨ e.num = 5 ∨ e.num = 6 ∨ e.num = 9 then e.addr else 0) word)
              else { len := 0, parts := [] } } }
    ∧ ∀ x, x ≠ c → t.core x = s.core x

/-- R339, R340: an exception the billet handles is delivered: 160 bytes of frame below A7 in the bench hold the address
registers and the rest, and the handler starts in user mode with the frame's address in A0 and A7 and the resume address in
LK. -/
def Obligations.HandledExceptionsReachTheBilletHandler : Prop :=
  ∀ (s : State) (c i len h : Nat) (word : W64) (e : Exc) (r : Run),
    let k := s.core c
    let a7 := (k.ctx.regs.geta 7).toNat
    let t := s.takeSync c e len word
    let fa := a7 - 160
    e.stands = none → k.ctl.exl = false → k.sup = false → k.run = some i → s.runAt i = some r → r.handler = false →
    ¬ (e.num = 3 ∧ (e.ispace = true ∨ 0x40000 ≤ e.addr.toNat)) → (s.billetOf r).handler e.num = some h →
    160 ≤ a7 → fa % 8 = 0 → a7 ≤ (s.billetOf r).benchSz →
    t.runAt i = some { r with handler := true, frame := fa }
    ∧ (t.core c).sup = false ∧ (t.core c).ctl.exl = false ∧ (t.core c).run = some i
    ∧ (t.core c).ctx.pc = BitVec.ofNat 64 h
    ∧ (t.core c).ctx.regs = { k.ctx.regs with
        a := (((k.ctx.regs.a.set 0 (BitVec.ofNat 64 fa)).set 7 (BitVec.ofNat 64 fa)).set 1 (BitVec.ofNat 64 e.num)).set 2
          (if e.num = 12 then BitVec.ofNat 64 e.code else if e.num = 3 then e.addr else 0)
        lk := 0xFFFFFFFFFFFFFFF0, dir := false, rp := false }
    ∧ (∀ x, x < fa ∨ fa + 160 ≤ x → Mem.get (t.core c).ctx.bench x = Mem.get k.ctx.bench x)
    ∧ (t.core c).ctx.bench = Mem.write k.ctx.bench fa (excFrame k e len)
    ∧ (excFrame k e len).length = 160

/-- R330 to R338, R345, R348, R351: core reset, the watchdog, asynchronous exceptions in their priority, and the operand
cache's own events. That the bench keeps its bytes at a core reset is the model's choice (log entry 6). -/
def Obligations.CoreEventsHaveTheirEffect : Prop :=
  ∀ (s : State) (c : Nat),
    let k := s.core c
    (c < 144 → exec (.coreReset c) s = .next (s.modCore c fun k => { k with
      ctx := { bench := k.ctx.bench }, sup := true, ctl := {}, oc := {}, pendWd := false, pendSpan := false, pendEng := false
      halted := false, stopped := false, wdCount := 0, busErr := [] }))
    ∧ (s.coreRuns c = true → k.sup = true →
        exec (.watchdogExpiry c) s = .next (s.modCore c fun k => { k with wdCount := k.ctl.wdt.toNat, stopped := true }))
    ∧ (∀ i r, s.coreRuns c = true → k.sup = false → k.run = some i → s.runAt i = some r →
        ∃ t x, exec (.watchdogExpiry c) s = .next t ∧ (t.core c).run = none ∧ (t.core c).sup = true
          ∧ t.runAt i = some { r with core := none, ended := some x, eng := Tbl.mapV r.eng fun _ => abortCtx }
          ∧ x.sct = 7 ∧ x.sc = 0x81 ∧ x.dw0 % 256 = 0x0B)
    ∧ (∀ e : AsyncExc, s.coreRuns c = true → k.ctl.exl = false → k.sup = true →
        (match e with
          | .watchdog => k.pendWd
          | .spanExpiry => k.pendSpan && !k.pendWd
          | .engineCompletion => k.pendEng && !k.pendSpan && !k.pendWd) = true →
        ∃ t, exec (.asyncExceptionEntry c e) s = .next t
          ∧ (t.core c).ctx.pc = (k.ctl.vbase ++ 0#9) + (match e with | .watchdog => (352 : W64) | .spanExpiry => 224 | .engineCompletion => 256)
          ∧ (t.core c).ctl.epc = k.ctx.pc ∧ (t.core c).ctl.est = k.st ∧ (t.core c).ctl.exl = true ∧ (t.core c).sup = true
          ∧ (t.core c).ctx.regs = { k.ctx.regs with dir := false, rp := false }
          ∧ (e = .spanExpiry → (t.core c).pendSpan = false ∧ (t.core c).ctx.sxp = false)
          ∧ (e = .engineCompletion → (t.core c).pendEng = false ∧ (t.core c).ctx.ecp = false))
    ∧ (∀ v : W32, c < 144 → exec (.ocEnWrite c v) s = .next (s.modOc c fun o =>
        if o.drain then o else if v.getLsbD 0 then { o with en := true } else if o.en then { o with drain := true } else o))
    ∧ (∀ lost, c < 144 → k.oc.drain = true → ∃ t, exec (.ocDrainComplete c lost) s = .next t
        ∧ (t.core c).oc.lines = [] ∧ (t.core c).oc.lost = [] ∧ (t.core c).oc.en = false ∧ (t.core c).oc.drain = false
        ∧ AccessOnly c (s.modOc c fun o => { o with en := false, drain := false }) t)
    ∧ (∀ (port : Nat) (v : W64), c < 144 → port = 0x48 ∨ port = 0x50 ∨ port = 0x58 →
        ∃ t, exec (.ocmMaskWrite c port v) s = .next t
          ∧ (t.core c).oc.user = (if port = 0x48 then v.truncate 48 else k.oc.user)
          ∧ (t.core c).oc.supv = (if port = 0x50 then v.truncate 48 else k.oc.supv)
          ∧ (t.core c).oc.strm = (if port = 0x58 then v.truncate 48 else k.oc.strm)
          ∧ (∀ i, ((t.core c).oc.user ||| (t.core c).oc.supv ||| (t.core c).oc.strm).getLsbD i = true →
              Tbl.get? (t.core c).oc.lines i = Tbl.get? k.oc.lines i)
          ∧ (let m := (t.core c).oc.user ||| (t.core c).oc.supv ||| (t.core c).oc.strm
             t = ((List.range 48).filter fun i => !m.getLsbD i).foldl (fun x i => (x.writeBack c i).invalidate c i)
               (s.modOc c fun o =>
                 if port = 0x48 then { o with user := v.truncate 48 }
                 else if port = 0x50 then { o with supv := v.truncate 48 }
                 else { o with strm := v.truncate 48 })))
    ∧ (c < 144 → 64 ≤ k.oc.accesses → exec (.ocAging c) s = .next (s.modOc c fun o => { o with
        accesses := o.accesses - 64
        lines := Tbl.mapV o.lines fun _ l =>
          if l.r then { l with r := false, age := 0 } else { l with age := if l.age = 3 then 3 else l.age + 1 } }))

/-! ## The deck, keepers, cores and on-chip SRAM (chapters 01 and 15) -/

/-- R16 to R24, R465: a flit received on a direction of a link is kept by its sender until acknowledged; one that fails its
link check is counted, a good one waits at the input, which grants the lowest class waiting, the earliest of it, and at the
limit of 256 cycles the flit that waited. A granted flit goes out on its next link, or arrives: its destination takes the flits
of a source and class in the order they were sent, keeps one that is early, and drops a copy. A parity error there discards the
transaction's data, is counted and logged, and reaches the requester once. How the parity bits are formed, and that the
destination puts flits in order, are the model's choices (log entries 138, 139). -/
def Obligations.DeckFlitsMoveByTheLinkProtocol : Prop :=
  (∀ (s : State) (l : Nat) (back : Bool) (f g : Flit) (grant : Bool) (pre post : List Flit), l < 60 → (s.rel.link l).failed = false →
     let x := s.rel.lane l back
     let kept := if x.sent.any fun y => y.tag = f.tag then x.sent else x.sent ++ [f]
     let got := s.modLane l back fun _ => { x with sent := kept, bad := 0, held := x.held ++ [f] }
     (x.bad < 2 → exec (.deckFlitReceive ⟨l, back⟩ f false grant) s = .next (s.modLane l back fun _ => { x with sent := kept, bad := x.bad + 1 }))
     ∧ exec (.deckFlitReceive ⟨l, back⟩ f true false) s = .next got
     ∧ (x.held ++ [f] = pre ++ g :: post → (∀ y ∈ pre, g.cls.toNat < y.cls.toNat) → (∀ y ∈ post, g.cls.toNat ≤ y.cls.toNat) →
         exec (.deckFlitReceive ⟨l, back⟩ f true true) s = .next (got.grantFlit l back g))
     ∧ (x.held = pre ++ g :: post → (∀ y ∈ pre, y.tag ≠ g.tag) → exec (.flitWaitLimit ⟨l, back⟩ g.tag) s = .next (s.grantFlit l back g))
     ∧ (∀ n, exec (.deckAck ⟨l, back⟩ n) s = .next (s.modLane l back fun _ => { x with sent := x.sent.drop n }))
     ∧ ∀ y, ((s.modLane l back fun _ => y).rel.lane l back = y) ∧ (s.modLane l back fun _ => y).rel.lane l (!back) = s.rel.lane l (!back))
  ∧ (∀ (s : State) (l n : Nat) (back : Bool) (f : Flit),
       let here := (laneEnds l back).2
       let out := s.modLane l back fun x => { x with held := x.held.filter fun g => g.tag ≠ f.tag, credit := x.credit + 1 }
       let route := out.rel.route f.src f.dst
       (here = f.dst → s.grantFlit l back f = out.arriveFlit f)
       ∧ (∀ stop b, here ≠ f.dst → here ∈ route → nextStop route here = some stop → laneOf here stop = some (n, b) →
           s.grantFlit l back f = out.modLane n b fun y => { y with sent := y.sent ++ [f] }))
  ∧ (∀ (s : State) (f : Flit),
       let turn := Tbl.getD s.rel.turn f.stream 0
       let kept : State := { s with rel := { s.rel with early := s.rel.early ++ [f] } }
       let took : State := { s with rel := { s.rel with turn := Tbl.set s.rel.turn f.stream (f.ord + 1) } }
       (f.ord < turn ∨ (∃ g ∈ s.rel.early, g.stream = f.stream ∧ g.ord = f.ord) → s.arriveFlit f = s)
       ∧ (turn < f.ord → (∀ g ∈ s.rel.early, g.stream = f.stream → turn < g.ord ∧ g.ord ≠ f.ord) → s.arriveFlit f = kept)
       ∧ (f.ord = turn → s.rel.early = [] → s.arriveFlit f = took.takeFlit f))
  ∧ (∀ (s : State) (f : Flit),
       let k := f.txnKey
       let count := Tbl.getD s.rel.parity f.src 0 + 1
       let bad : State := ({ s with rel := { s.rel with
           inbox := Tbl.del s.rel.inbox k
           spoiled := if f.last then s.rel.spoiled else insNat k s.rel.spoiled
           parity := Tbl.set s.rel.parity f.src count
           testing := if count = 16 then insNat f.src s.rel.testing else s.rel.testing } }).logFault 0x11 1 [f.dst] none [f.src] (requester f.who)
       (f.parityOk = true ↔ deckParity f.body = f.parity)
       ∧ (k ∈ s.rel.spoiled → s.takeFlit f =
           { s with rel := { s.rel with spoiled := if f.last then delNat k s.rel.spoiled else s.rel.spoiled } })
       ∧ (k ∉ s.rel.spoiled → f.parityOk = true → s.takeFlit f = { s with rel := { s.rel with
           inbox := if f.last then Tbl.del s.rel.inbox k else Tbl.set s.rel.inbox k (Tbl.getD s.rel.inbox k [] ++ f.body) } })
       ∧ (k ∉ s.rel.spoiled → f.parityOk = false → f.who = none → s.takeFlit f = bad)
       ∧ (∀ w, k ∉ s.rel.spoiled → f.parityOk = false → f.who = some w → s.takeFlit f = bad.poisoned w)
       ∧ (∀ c a, c < 144 → bad.poisoned (.core c a) = bad.modCore c fun k => { k with busErr := insNat (a.toNat / 8) k.busErr }))

/-- R20, R21, R464: a late acknowledgement, or the third flit in a row that fails its check, marks the link failed, empties
its replay buffer into the links of the routes now in force, ahead of what stands there, and is logged; a second failed
link requests replacement; stops cut off lose their blocks.

R454, R455, R457: a mismatch or a missed heartbeat takes the pair out of service. The spare pair takes the index it
served, which requests replacement; with no spare, the pair of the next index in service takes it; with no pair left,
the device enters fault state. -/
def Obligations.DeckLinksAndKeepersFailOver : Prop :=
  (∀ (s : State) (l : Nat) (back : Bool) (f : Flit) (grant : Bool), l < 60 → (s.rel.link l).failed = false →
     let fails (i : Instr) (before : State) (cause : Nat) : Prop :=
       let cut (y : Lane) : Lane := { y with
         sent := [], bad := 0, held := y.held.filter fun g => !y.sent.any fun h => h.tag = g.tag }
       let gone := before.modLink l fun x => { x with failed := true, out := cut x.out, back := cut x.back }
       let second : Prop := 2 ≤ gone.rel.linksBad.length
       let noted := gone.logFault 0x10 (if second then 3 else 2) [(linkEnds l).1] none [(linkEnds l).2] [cause]
       let told := if second then noted.requestRepl 9 else noted
       let resent (a : Nat) (g : Flit) (t : State) : State :=
         match (nextStop (t.rel.route a g.dst) a).bind (laneOf a) with
         | some (n, b) => t.modLane n b fun y => { y with sent := g :: y.sent }
         | none => t
       let half := (before.rel.link l).out.sent.foldr (resent (linkEnds l).1) told
       let done := (before.rel.link l).back.sent.foldr (resent (linkEnds l).2) half
       exec i s = .next (done.rel.cutOff.foldl (fun t a => t.lostStop a) done)
     let counted := s.modLane l back fun x => { x with
       sent := if x.sent.any fun y => y.tag = f.tag then x.sent else x.sent ++ [f], bad := x.bad + 1 }
     ((s.rel.lane l back).sent ≠ [] → fails (.deckAckTimeout ⟨l, back⟩) s 1)
     ∧ (2 ≤ (s.rel.lane l back).bad → fails (.deckFlitReceive ⟨l, back⟩ f false grant) counted 2))
  ∧ (∀ (s : State) (p q i : Nat) (differs : Bool), p ∈ s.rel.pairs → (s.rel.serves.filter fun x => x.2 = p) = [(i, p)] →
       let left := delNat p s.rel.pairs
       let out : State := { s with rel := { s.rel with pairs := left } }
       let taken (sev : Nat) : State := ({ out with rel := { out.rel with serves := Tbl.set s.rel.serves i q } }).logFault
         0x0C sev [p] none [q] [0, s.inFlight i]
       let both (t : State) : Prop :=
         exec (.lockstepMismatch p differs) s = .next t ∧ exec (.keeperHeartbeatTimeout p) s = .next t
       (q ∈ left → (∀ x ∈ s.rel.serves, x.2 ≠ q) → (∀ y ∈ left, y ≠ q → ∃ x ∈ s.rel.serves, x.2 = y) →
         both ((taken 3).requestRepl 5))
       ∧ ((∀ y ∈ left, ∃ x ∈ s.rel.serves, x.2 = y) → q ∈ left →
           (q = Tbl.getD s.rel.serves ((i + 1) % 4) 0
             ∨ (Tbl.getD s.rel.serves ((i + 1) % 4) 0 ∉ left ∧ q = Tbl.getD s.rel.serves ((i + 2) % 4) 0)
             ∨ (Tbl.getD s.rel.serves ((i + 1) % 4) 0 ∉ left ∧ Tbl.getD s.rel.serves ((i + 2) % 4) 0 ∉ left
                 ∧ q = Tbl.getD s.rel.serves ((i + 3) % 4) 0)) →
           both (taken 2))
       ∧ (left = [] → both ((out.logFault 0x0C 3 [p] none [p] [0, 0]).enterFault 5)))

/-- R458 to R460: a core fault stops the core and drops its operand cache unwritten; its run ends with Internal Error
(00h/06h) and no output. The forge's spare is mapped when it is free and the core was in service; when it is not, the forge
goes on with one core fewer and replacement is requested. A core that has faulted already faults no more.

R466, R467, R470: the second hit of a word of on-chip SRAM has it scrubbed, and a correction after the scrub flags its
row, which is logged. An uncorrectable error is made good from its other copy and logged: a core meets Bus Error, an
engine job ends with DATA, two lost journal copies reset the device as a power loss does, and the key store is a Hallmark
fault. Which macro and row a word has is fixed by the design and not stated. -/
def Obligations.CoreAndSramFaultsAreContained : Prop :=
  (∀ (s : State) (c : Nat) (cause : CoreFaultCause), c < 144 →
     let f := c / 9
     let n := match cause with
       | .parity => 1
       | .doubleFault => 2
       | .watchdog => 3
       | .selfTest => 4
     let clean := s.modOc c fun o => { o with lines := [], lost := [] }
     let ended := match (clean.core c).run with
       | none => clean
       | some i => match clean.runAt i with
         | none => clean
         | some r => clean.endRun c i r { sct := 0, sc := 6, dw0 := 0, dw1 := 0, output := { len := 0, parts := [] } }
     let stopped := ended.modCore c fun k => { k with stopped := true }
     let spare := s.coreEnabled c && s.spareFree f
     let out (mapped : List Nat) (sev m : Nat) : State := ({ stopped with rel := { stopped.rel with
       badCores := insNat c stopped.rel.badCores, spared := mapped } }).logFault 0x0D sev [f, c % 9] none [0] [n, m]
     (c ∉ s.rel.badCores → spare = true → exec (.iaberCoreFault c cause) s = .next (out (insNat f stopped.rel.spared) 2 1))
     ∧ (c ∉ s.rel.badCores → spare = false → s.coreEnabled c = true →
         exec (.iaberCoreFault c cause) s = .next ((out stopped.rel.spared 3 0).requestRepl 6))
     ∧ (c ∉ s.rel.badCores → s.coreEnabled c = false → exec (.iaberCoreFault c cause) s = .next (out stopped.rel.spared 3 0))
     ∧ (c ∈ s.rel.badCores → exec (.iaberCoreFault c cause) s = .next s))
  ∧ (∀ (s : State) (g w c n : Nat) (e : SramEntry) (rest : List SramEntry),
       let log (t : State) (grp sev result : Nat) : State := t.logFault 0x0B sev [grp] none [0, 0] [result]
       let enter (y : SramEntry) : State := s.modSram g fun x => { x with log := rest ++ [y], next := x.next + 1 }
       let macro_ := Config.sramMacro g w
       (g < 31 → (s.sramAt g).entry w = some (rest, e) → e.scrub = false →
           exec (.sramCorrection g w) s = .next (enter { e with hits := min (e.hits + 1) 15, scrub := 2 ≤ e.hits + 1 }))
       ∧ (g < 31 → (s.sramAt g).entry w = some (rest, e) → e.scrub = true → e.flag = false →
           exec (.sramCorrection g w) s = .next ((enter { e with flag := true }).logFault 0x0A 1 [g] none
             [macro_, Config.sramRow g w] [0, (s.sramAt g).left macro_]))
       ∧ (g < 31 → (s.sramAt g).entry w = some (rest, e) → e.scrub = true → e.flag = true →
           exec (.sramCorrection g w) s = .next (enter e))
       ∧ (c < 144 → s.coreRuns c = true → ∃ addr word,
           exec (.sramUncorrectable (.core c)) s =
             .next ((log s (c / 9) 4 1).drawn.drawn.takeSync c { num := 9, addr := addr } 8 word))
       ∧ (∀ l, Tbl.get? (s.core c).oc.lines n = some l → exec (.sramUncorrectable (.cacheEntry c n)) s =
           .next ((log s (c / 9) 4 1).modOc c fun o => { o with lost := insNat n o.lost }))
       ∧ exec (.sramUncorrectable .journalOne) s = .next (log s 16 1 2)
       ∧ exec (.sramUncorrectable .journalBoth) s = .next (log s 16 4 3).flushOnce.internalReset
       ∧ exec (.sramUncorrectable .keeper) s = .next (log s 16 1 4)
       ∧ (∀ r, Tbl.get? s.media.reads n = some r →
           let t := log s (17 + s.media.unitChan r.set r.off / 4) 1 5
           exec (.sramUncorrectable (.readBuffer n)) s = .next { t with rel := { t.rel with repaired := t.rel.repaired + 1 } })
       ∧ (∀ r, Tbl.get? s.media.progs n = some r →
           let t := log s (17 + r.chans.headD 0 / 4) 1 6
           exec (.sramUncorrectable (.programBuffer n)) s = .next { t with rel := { t.rel with repaired := t.rel.repaired + 1 } })
       ∧ exec (.sramUncorrectable (.engineContext c n)) s = .next ((log s 25 4 7).poisoned (.engine c n))
       ∧ exec (.sramUncorrectable .keyStore) s = .next (log s 26 4 8).hallmarkFault
       ∧ exec (.sramUncorrectable (.blankBits n)) s = .next (log s (27 + n % 4) 1 9))

/-! ## Engines (chapter 12, R468, R469) -/

/-- R361, R362, R364, R366, R371: ENG.GO takes the descriptor whole and queues the job of a context that is not BUSY, with
reply 0; on a BUSY context it replies 1 and changes nothing. A run's crucible job counts its SRCLEN and its cipher job one
key operation at once. CLOSE discards the message of a context that is not BUSY, and ABORT asks the job of a BUSY one to
stop.

R371 to R373, R387, R468, R469: at a switch boundary an ABORT stops the job; else the job yields to the one picked,
and its saved state waits to resume; a job that has waited 1 ms is marked so that it goes first. A job that reaches no
boundary in 1 ms ends with ENGINE and its engine is tested; an engine that passes returns to service, and one that fails
leaves it. -/
def Obligations.EnginePortsStartControlAndTestJobs : Prop :=
  (∀ (s : State) (c n : Nat) (input aux : List Byte), c < 144 → n < 64 →
     let run := if n < 32 then (s.core c).run else none
     let k := s.ctxOf c run n
     let cls : EngineClass := if n % 32 < 8 then .crucible else if n % 32 < 16 then .assay else .cipher
     let reply (v : W64) (t : State) : State :=
       { t with out := { t.out with reads := (0x10040 + 0x400 * n, v) :: t.out.reads } }
     let taken := s.setCtxOf c run n { k with
       busy := true, abort := false, job := some { desc := k.desc, input := input, aux := aux } }
     let queued (slice : Option Nat) (t : State) : State := { t with cpu := { t.cpu with engines := { t.cpu.engines with
       queue := t.cpu.engines.queue ++ [{ cls := cls, core := c, ctx := n, run := run, svc := 2, slice := slice }] } } }
     let asked := (s.core c).sup = true ∨ (n < 32 ∧ (s.core c).run.isSome = true)
     (asked → k.busy = true → exec (.engGo c n input aux) s = .next (reply 1 s))
     ∧ (32 ≤ n → (s.core c).sup = true → k.busy = false →
         exec (.engGo c n input aux) s = .next (reply 0 ((queued none taken).dispatchJobs cls)))
     ∧ (∀ i r, n < 32 → (s.core c).run = some i → s.runAt i = some r → k.busy = false →
         let count (m : Counts) : Counts := match cls with
           | .crucible => { m with crucible := m.crucible + (readDesc k.desc).srcLen }
           | .cipher => { m with keyOps := m.keyOps + 1 }
           | _ => m
         exec (.engGo c n input aux) s =
           .next (reply 0 ((queued (some r.slice) (taken.meterUp r.slice count)).dispatchJobs cls)))
     ∧ (asked → exec (.engCtlClose c n) s =
         .next (s.setCtxOf c run n (if k.busy then k else { k with opn := false, msg := none })))
     ∧ (asked → exec (.engCtlAbort c n) s = .next (s.setCtxOf c run n (if k.busy then { k with abort := true } else k)))
     ∧ (¬ asked → exec (.engGo c n input aux) s = .next s ∧ exec (.engCtlClose c n) s = .next s
         ∧ exec (.engCtlAbort c n) s = .next s))
  ∧ (∀ (s : State) (cls : EngineClass) (u c n : Nat) (ok : Bool) (q b : EngReq),
       let unit := s.unit cls u
       let k := s.ctxOf q.core q.run q.ctx
       (unit.running = some q → k.abort = true →
         exec (.engineSwitchBoundary cls u ok) s = .next ((s.endJob q (some u) { code := 0x0D }).dispatchJobs cls))
       ∧ (unit.running = some q → k.abort = false → s.pickReq cls unit.lastWinner = none →
           exec (.engineSwitchBoundary cls u ok) s = .next s)
       ∧ (unit.running = some q → k.abort = false → s.pickReq cls unit.lastWinner = some b → s.yields u q b = false →
           exec (.engineSwitchBoundary cls u ok) s = .next s.drawn)
       ∧ (unit.running = some q → k.abort = false → s.pickReq cls unit.lastWinner = some b → s.yields u q b = true →
           (ok = true ∨ cls ≠ .cipher ∨ b.run = none) →
           let t := s.drawn.startJob cls u b
           exec (.engineSwitchBoundary cls u ok) s = .next { t with cpu := { t.cpu with engines := { t.cpu.engines with
             queue := t.cpu.engines.queue ++ [{ q with aged := false }]
             wrapIv := if cls = .cipher ∧ q.run.isSome then t.cpu.engines.wrapIv + 1 else t.cpu.engines.wrapIv } } })
       ∧ (q.svc < b.svc → b.aged = false → s.yields u q b = false) ∧ (b.svc < q.svc → s.yields u q b = true)
       ∧ (b.aged = true → s.yields u q b = true)
       ∧ exec (.engineJobWaitLimit c n) s = .next { s with cpu := { s.cpu with engines := { s.cpu.engines with
           queue := s.cpu.engines.queue.map fun x => { x with aged := x.aged || (x.core = c && x.ctx = n) } } } }
       ∧ (unit.running = some q → exec (.engineNoBoundaryTimeout cls u) s =
           .next (((s.endJob q (some u) { code := 0x0C }).engineFault cls u 1).dispatchJobs cls))
       ∧ (unit.testing = true → exec (.engineKatComplete cls u true) s =
             .next ((s.setUnit cls u { unit with testing := false }).dispatchJobs cls)
           ∧ exec (.engineKatComplete cls u false) s =
             .next ((s.logFault 0x12 2 [classNum cls, u] none [0] [2, 1]).retireUnit cls u)))

/-- R364, R367, R368, R371, R379, R383, R468: a job that ends in an engine ends with the first of codes 01h to 05h that
holds, before it reads its input; else with what it met on its way, else as its function computes. The code, OUT, CHECK and
the message are recorded, BUSY is cleared, and a failed job reads OUT 0, CHECK 0 and OPEN 0. ENGINE is an engine fault, and
DATA is logged. A job that waits ends at once with such a code, or with DROPPED when an ABORT stands. -/
def Obligations.EngineJobsEndWithTheirOutcome : Prop :=
  ∀ (s : State) (c n u : Nat) (code : Byte) (q : EngReq) (j : EngJob),
    let k := s.ctxOf q.core q.run q.ctx
    let pre := s.preCode q k j
    let ends (o : JobOut) : State :=
      let t := s.endJob q (some u) o
      (if o.code = 12 then t.engineFault q.cls u 12 else if o.code = 11 then t.logData q else t).dispatchJobs q.cls
    let moved := j.held.map (·.1) ≠ (s.jobKey q (readDesc j.desc)).map (·.1)
    (s.runningJob c n = some (u, q) → k.job = some j →
      (pre ≠ 0 → exec (.engineJobEnd c n code) s = .next (ends { code := pre, ran := pre = 4 && moved }))
      ∧ (pre = 0 → code = 0x05 ∨ code = 0x0B ∨ code = 0x0C ∨ (code = 0x0D ∧ k.abort = true) →
          exec (.engineJobEnd c n code) s = .next (ends { code := code.toNat, ran := true }))
      ∧ (pre = 0 → code ≠ 0x05 → code ≠ 0x0B → code ≠ 0x0C → code ≠ 0x0D →
          exec (.engineJobEnd c n code) s = .next (ends (s.runJob q k j))))
    ∧ (s.runningJob c n = none → s.waitingJob c n = some q → k.job = some j → j.begun = false →
        (pre ≠ 0 → exec (.engineJobEnd c n code) s = .next (s.endJob q none { code := pre }))
        ∧ (pre = 0 → k.abort = true → exec (.engineJobEnd c n code) s = .next (s.endJob q none { code := 0x0D })))
    ∧ (∀ (o : JobOut) (w : Option Nat), (∀ i ∈ q.run, (s.runAt i).isSome = true) →
        let x := (s.endJob q w o).ctxOf q.core q.run q.ctx
        let gone : Bool := match q.run.bind s.runAt with
          | some r => r.ended.isSome || r.discarded
          | none => false
        x.code = BitVec.ofNat 8 o.code ∧ x.busy = false ∧ x.job = none ∧ x.abort = false
        ∧ (o.code ≠ 0 → x.out = 0 ∧ x.check = 0 ∧ x.opn = false ∧ x.msg = none)
        ∧ (o.code = 0 → x.out = BitVec.ofNat 64 o.bytes.length ∧ x.check = BitVec.ofNat 32 o.check
            ∧ x.opn = (o.msg.isSome && !gone) ∧ x.msg = if gone then none else o.msg))

/-! ## The command front and the controllers (chapters 02, 03 and 17) -/

/-- R46, R50, R82: a doorbell write to a queue that exists moves its tail or head by bits 15:0, and completions that waited for room are
posted; a write for no queue, or of a value at or beyond the size, changes no queue and raises an asynchronous error event.
Each first leaves PS3 or PS4, or abandons an entry in progress. -/
def Obligations.DoorbellsMoveTheirQueue : Prop :=
  ∀ (s : State) (i n : Nat) (v : W32) (sq : Sq) (cq : Cq), s.doorbellOpen i = true → n ≤ 64 →
    let m := v.toNat % 65536
    (Tbl.get? (s.ctrl i).sqs n = some sq →
      (m < sq.size → exec (.sqTailDoorbell i n v) s = .next (s.psExit.modSq i n fun x => { x with tail := m }))
      ∧ (sq.size ≤ m → exec (.sqTailDoorbell i n v) s = .next (s.psExit.raiseEvent i ⟨0, 1, 1⟩)))
    ∧ (Tbl.get? (s.ctrl i).cqs n = some cq →
      (m < cq.size → exec (.cqHeadDoorbell i n v) s = .next
        ((s.psExit.modCtrl i fun c => { c with cqs := Tbl.set c.cqs n { cq with head := m } }).drainCqes i))
      ∧ (cq.size ≤ m → exec (.cqHeadDoorbell i n v) s = .next (s.psExit.raiseEvent i ⟨0, 1, 1⟩)))
    ∧ (Tbl.get? (s.ctrl i).sqs n = none → exec (.sqTailDoorbell i n v) s = .next (s.psExit.raiseEvent i ⟨0, 0, 1⟩))
    ∧ (Tbl.get? (s.ctrl i).cqs n = none → exec (.cqHeadDoorbell i n v) s = .next (s.psExit.raiseEvent i ⟨0, 0, 1⟩))
    ∧ (3 ≤ s.dev.ps → s.psExit.dev.ps = s.dev.psOper ∧ s.psExit.dev.psNext = none)
    ∧ (s.dev.ps < 3 → s.keepsAwake = false → s.psExit.dev.ps = s.dev.ps ∧ s.psExit.dev.psNext = none)

/-- R45, R53, R54, R57, R65, R102, R257: the entry fetched is that of the controller and queue whose turn it is: a queue
with entries, after at most its burst in a row; a read of 64 bytes goes out for it. It is a command in hand from then on, with the count of its sealed
transfer. A command whose opcode its controller does not support ends with Invalid Command Opcode. That a CID already in
hand ends with Command ID Conflict is the model's choice (log entry 32). -/
def Obligations.EntriesAreFetchedInTurn : Prop :=
  ∀ (s : State) (i n k : Nat) (x : Sq) (q : Src) (e : Sqe),
    let c := s.ctrl i
    let asked := s.request true (s.ctrlPort i) (ctrlSlice i) (x.base + BitVec.ofNat 64 (64 * x.head)).toNat 64 false
    let turned := asked.modCtrl i fun c => { c with turn := n, taken := k }
    let noted (t : State) : State := match ctrlSlice i with
      | some sl => { t with host := { t.host with lastFetch := sl } }
      | none => t
    let taken (fresh : List Fetched) : State := (noted turned).actLow.modSq i n fun y => { y with
      head := (y.head + 1) % y.size
      sealing := y.sealing.map fun z => { z with cseq := z.cseq + 1 }
      fetched := y.fetched ++ fresh }
    (s.pickCtrl = some i → c.pickSq = some (n, k) → Tbl.get? c.sqs n = some x →
      ((∀ f ∈ x.fetched, f.e.cid ≠ e.cid) → exec (.sqEntryFetch e) s =
        .next (taken [{ e := e, slot := x.head, cseq := x.sealing.map (·.cseq) }]))
      ∧ ((∃ f ∈ x.fetched, f.e.cid = e.cid) → exec (.sqEntryFetch e) s =
        .next (((taken []).logError i n e.cid 0 3 e.nsid.toNat 0).post ⟨i, x.cqid, n, e.cid, 0, 3, 0, 0⟩)))
    ∧ (s.pickCtrl = some i → s.fetchable i = true)
    ∧ (∀ p, p < splitPorts s.dev.split → s.fetchable p = true → (∀ m, m < p → s.fetchable m = false) → s.pickCtrl = some p)
    ∧ (c.pickSq = some (n, k) → (∃ y, (n, y) ∈ c.sqs ∧ y.head ≠ y.tail)
        ∧ ((k = 1) ∨ (n = c.turn ∧ k = c.taken + 1 ∧ c.taken < c.burst)))
    ∧ (s.stands q e = true → s.supports q e.opc.toNat = false →
        Ends (.unsupportedOpcode q e) s (s.begin q e.cid) q e 0 1 0 0)

/-- R48, R49, R69, R70, R97: enabling a controller whose settings are accepted makes its admin queues of AQA, ASQ and ACQ
and sets RDY when the device is ready; other settings set CFS. Disabling deletes its queues, keeps AQA, ASQ, ACQ and CC but
EN, returns its reservation to the pool and resets the rest. A shutdown notification reports that shutdown processing
occurs, and that it is complete once no command is outstanding. -/
def Obligations.ControllersAreEnabledResetAndShutDown : Prop :=
  ∀ (s : State) (i : Nat) (v : W32), s.ctrlOpen i = true →
    let picked := match ctrlSlice i with
      | some sl => s.modSlice sl fun x => { x with verSel := if x.verSel = 0 then 1 else x.verSel }
      | none => s
    let c := { s.ctrl i with
      iocqes := v.extractLsb' 20 4, iosqes := v.extractLsb' 16 4, shn := v.extractLsb' 14 2, ams := v.extractLsb' 11 3
      mps := v.extractLsb' 7 4, css := v.extractLsb' 4 3 }
    let shuts := c.notified
    let old := s.ctrl i
    ((s.ctrl i).en = false → v.getLsbD 0 = true → s.rel.fault = false →
      (picked.ccValid i { c with en := true } = true → exec (.ccEnEnable i v) s = .next
        (({ picked with dev := { picked.dev with pwr := { picked.dev.pwr with shut := false } } }).setCtrl i { c with
          en := true, rdy := s.dev.pwr.phase = 5, shst := if shuts then 1 else 0
          sqs := [(0, { size := c.aqa.toNat % 4096 + 1, base := c.asq, cqid := 0 })]
          cqs := [(0, { size := c.aqa.toNat / 65536 % 4096 + 1, base := c.acq, vector := 0 })] }))
      ∧ (picked.ccValid i { c with en := true } = false →
          exec (.ccEnEnable i v) s = .next (picked.setCtrl i { c with en := true, cfs := true })))
    ∧ ((s.ctrl i).en = true → v.getLsbD 0 = false → s.rel.fault = false → ∃ t, exec (.ccEnDisable i v) s = .next t
        ∧ t.ctrl i = ({ iocqes := c.iocqes, iosqes := c.iosqes, shn := c.shn, ams := c.ams, mps := c.mps, css := c.css
                        aqa := c.aqa, asq := c.asq, acq := c.acq } : Ctrl)
        ∧ t.host.poolSq = s.host.poolSq + old.grantSq ∧ t.host.poolCq = s.host.poolCq + old.grantCq
        ∧ t.host.slices = s.host.slices ∧ t.media.ns = s.media.ns ∧ t.cpu.billets = s.cpu.billets
        ∧ t.hm.slots = s.hm.slots ∧ t.dram.locals = s.dram.locals ∧ t.meter = s.meter)
    ∧ ((s.ctrl i).en = v.getLsbD 0 → shuts = true →
        exec (.ccShutdownNotification i v) s = .next (s.setCtrl i { c with shst := if c.shst = 0 then 1 else c.shst }))
    ∧ ((s.ctrl i).shst = 1 → s.outstanding i = false → exec (.shutdownComplete i) s =
        .next { (s.setCtrl i { s.ctrl i with shst := 2 }) with
          dev := { s.dev with pwr := { s.dev.pwr with shut := true } } })

/-- R10, R11, R46, R48, R97, R507 to R511: what a 4-byte write of each register without a row of its own leaves; an 8-byte
write is the two 4-byte writes, and to the 64-bit registers of BAR4 it is taken whole; another size, or an offset off its
boundary, writes nothing; nothing is written where no register stands. -/
def Obligations.RegisterWritesReachTheirField : Prop :=
  ∀ (s : State) (w : Window) (p sl off size : Nat) (v : W32) (x : W64),
    let put (win : Window) (o : Nat) (t : State) : Prop := ∀ y : W64, y.extractLsb' 0 32 = v → exec (.registerWrite win o 4 y) s = .next t
    let c := s.ctrl p
    (p < splitPorts s.dev.split →
      put (.bar0 p) 0x0C (s.setCtrl p { c with intm := c.intm ||| v })
      ∧ put (.bar0 p) 0x10 (s.setCtrl p { c with intm := c.intm &&& ~~~v })
      ∧ put (.bar0 p) 0x24 (s.setCtrl p { c with aqa := v &&& 0x0FFF0FFF#32 })
      ∧ put (.bar0 p) 0x28 (s.setCtrl p { c with asq := (c.asq.extractLsb' 32 32 ++ v : BitVec 64) &&& 0xFFFFFFFFFFFFF000#64 })
      ∧ put (.bar0 p) 0x34 (s.setCtrl p { c with acq := (v ++ c.acq.extractLsb' 0 32 : BitVec 64) &&& 0xFFFFFFFFFFFFF000#64 })
      ∧ (v.getLsbD 0 = c.en → (c.withCc v).notified = false → (c.en = false ∨ s.ccValid p (c.withCc v) = true) →
          put (.bar0 p) 0x14 (s.setCtrl p (c.withCc v)))
      ∧ (off ∉ [0x0C, 0x10, 0x14, 0x24, 0x28, 0x2C, 0x30, 0x34] → off % 4 = 0 → put (.bar0 p) off s))
    ∧ (s.pageDecodes p sl = true →
      ((s.ctrl (sliceCtrl sl)).en = false → v.toNat % 256 ≤ 2 →
          put (.bar2 p) (sl * 0x10000 + 0xE80) (s.modSlice sl fun z => { z with verSel := v.truncate 8 }))
      ∧ ((s.ctrl (sliceCtrl sl)).en = true ∨ 2 < v.toNat % 256 → put (.bar2 p) (sl * 0x10000 + 0xE80) s))
    ∧ put .bar4 0x1004 (if v.getLsbD 2 then { s with time := { s.time with stepFlag := false } } else s)
    ∧ put .bar4 0x2000 { s with host := { s.host with slcSel := v.truncate 10 } }
    ∧ ((v.truncate 16 : W16) ≠ 0 → put .bar4 0x5010 { s with media := { s.media with spread := v.truncate 16 } })
    ∧ ((v.truncate 16 : W16) = 0 → put .bar4 0x5010 s)
    ∧ put .bar4 0x6000 { s with media := { s.media with chSel := v.truncate 5 } }
    ∧ (0x40 ≤ v.toNat / 65536 % 4096 → v.toNat % 4096 ≠ 0 → put .bar4 0x7008
        { s with dram := { s.dram with rfmTh := v.extractLsb' 16 12, age := v.extractLsb' 0 12 } })
    ∧ (v.toNat / 65536 % 4096 < 0x40 ∨ v.toNat % 4096 = 0 → put .bar4 0x7008 s)
    ∧ put .bar4 0x700C { s with dram := { s.dram with selCh := v.extractLsb' 5 2, selIdx := v.truncate 5 } }
    ∧ (v.toNat % 2048 < 0x20 ∨ 0x400 ≤ v.toNat % 2048 → put .bar4 0x9020 { s with hm := { s.hm with mrSel := v.truncate 11 } })
    ∧ put .bar4 0xC000 { s with dev := { s.dev with portSel := v.truncate 2 } }
    ∧ (off ∉ [0x1004, 0x2000, 0x5010, 0x6000, 0x7008, 0x700C, 0x8000, 0x9008, 0x9020, 0xC000] → off % 4 = 0 → put .bar4 off s)
    ∧ exec (.registerWrite .bar4 0x8008 8 x) s = .next { s with dram := { s.dram with flip := x } }
    ∧ (∀ k (h : k < 10), exec (.registerWrite .bar4 (0x8040 + 8 * k) 8 x) s =
        .next { s with dram := { s.dram with tbuf := s.dram.tbuf.set k x } })
    ∧ (¬(size = 4 ∧ off % 4 = 0) → ¬(size = 8 ∧ off % 8 = 0) → exec (.registerWrite w off size x) s = .next s)

/-- R10, R508, R511: a read returns what the register holds, lowest byte first, and clears the RC fields it addresses and
no other state. -/
def Obligations.RegisterReadsReturnAndClear : Prop :=
  ∀ (s : State) (off n v p : Nat),
    let back (w : W64) (k : Nat) : State := { s.drawnN k with out := { s.out with reads := (off, w) :: s.out.reads } }
    (s.bar4Reg off = some (8, v) → off % 8 = 0 → v < 2 ^ 64 →
      exec (.rcRegisterRead .bar4 off 8) s = .next ((back (BitVec.ofNat 64 v) 8).clearRc off 8))
    ∧ (s.bar4Reg off = some (4, v) → off % 4 = 0 → v < 2 ^ 32 → (∀ x, s.bar4Reg (off / 8 * 8) ≠ some (8, x)) →
      exec (.rcRegisterRead .bar4 off 4) s = .next ((back (BitVec.ofNat 64 v) 4).clearRc off 4))
    ∧ (p < splitPorts s.dev.split → s.bar0Reg p off = some (4, v) → off < 0x1000 → off % 4 = 0 → v < 2 ^ 32 →
        (∀ x, s.bar0Reg p (off / 8 * 8) ≠ some (8, x)) →
        exec (.rcRegisterRead (.bar0 p) off 4) s = .next (back (BitVec.ofNat 64 v) 4))
    ∧ s.clearRc 0x1004 4 = { s with time := { s.time with spur := 0 } }
    ∧ s.clearRc 0x6004 4 = (s.modMedia fun m => m.modChan m.chSel.toNat fun c => { c with recov := 0 })
    ∧ s.clearRc 0x7018 8 = (s.modDchan s.dram.selCh.toNat fun x => { x with panics := 0, uncorr := 0 })
    ∧ (s.dev.portSel.toNat < splitPorts s.dev.split → s.clearRc 0xC008 8 = { s with dev := { s.dev with
        ports := Tbl.set s.dev.ports s.dev.portSel.toNat { s.port s.dev.portSel.toNat with recov := 0, downsh := 0 } } })
    ∧ (0 < n → (∀ a ∈ [0x1006, 0x1007, 0x6006, 0x7019, 0x701C, 0x701D, 0xC00A, 0xC00C, 0xC00D], a < off ∨ off + n ≤ a) →
        s.clearRc off n = s)

/-- R48, R50 to R53, R65 to R68, R86: I/O queues are created within the grant and deleted; deleting a submission queue
discards its commands and reports how many; Abort cancels nothing and answers Dword 0 bit 0 as 1; up to 4 Asynchronous
Event Requests stay outstanding until an event completes one. -/
def Obligations.AdminCommandsManageQueues : Prop :=
  ∀ (s : State) (q : Src) (e : Sqe) (p1 p2 : W64) (l : List W64),
    let b := s.begin q e.cid
    let i := s.srcCtrl q
    let c := b.ctrl i
    let qid := e.cdw10.toNat % 65536
    let size := e.cdw10.toNat / 65536 + 1
    let high := e.cdw11.toNat / 65536
    let free (t : Tbl Cq) : Prop := Tbl.get? t qid = none
    (s.AdminOk q e 5 onSlice → c.iocqes = 4 →
      (qid = 0 ∨ c.grantCq < qid → Ends (.createIoCompletionQueue q e) s b q e 1 0x01 0 0)
      ∧ (0 < qid → qid ≤ c.grantCq → free c.cqs →
          (size < 2 ∨ 4096 < size → Ends (.createIoCompletionQueue q e) s b q e 1 0x02 0 0)
          ∧ (2 ≤ size → size ≤ 4096 → 63 < high → Ends (.createIoCompletionQueue q e) s b q e 1 0x08 0 0)
          ∧ (2 ≤ size → size ≤ 4096 → high ≤ 63 → e.cdw11.getLsbD 0 = true → e.dptr = .prp p1 p2 l → p1.toNat % 4096 = 0 →
              Ends (.createIoCompletionQueue q e) s (b.modCtrl i fun c => { c with
                cqs := Tbl.set c.cqs qid { size := size, base := p1, vector := high, ien := e.cdw11.getLsbD 1 } }) q e 0 0 0 0)))
    ∧ (s.AdminOk q e 1 onSlice → c.iosqes = 6 → 0 < qid → qid ≤ c.grantSq → Tbl.get? c.sqs qid = none → 2 ≤ size → size ≤ 4096 →
        (high = 0 ∨ Tbl.get? c.cqs high = none → Ends (.createIoSubmissionQueue q e) s b q e 1 0x00 0 0)
        ∧ (0 < high → (Tbl.get? c.cqs high).isSome = true → e.cdw11.getLsbD 0 = true → e.dptr = .prp p1 p2 l → p1.toNat % 4096 = 0 →
            Ends (.createIoSubmissionQueue q e) s (b.modCtrl i fun c => { c with
              sqs := Tbl.set c.sqs qid { size := size, base := p1, cqid := high } }) q e 0 0 0 0))
    ∧ (s.AdminOk q e 0 onSlice → 0 < qid → (Tbl.get? c.sqs qid).isSome = true → Ends (.deleteIoSubmissionQueue q e) s
        (b.discardQueue i qid) q e 0 0 (BitVec.ofNat 32 (b.unposted i qid % 65536)) 0)
    ∧ (s.AdminOk q e 0 onSlice → qid = 0 → Ends (.deleteIoSubmissionQueue q e) s b q e 1 0x01 0 0)
    ∧ (s.AdminOk q e 4 onSlice → 0 < qid → (Tbl.get? c.cqs qid).isSome = true →
        ((∃ x ∈ c.sqs, x.1 ≠ 0 ∧ x.2.cqid = qid) → Ends (.deleteIoCompletionQueue q e) s b q e 1 0x0C 0 0)
        ∧ ((∀ x ∈ c.sqs, x.1 = 0 ∨ x.2.cqid ≠ qid) → Ends (.deleteIoCompletionQueue q e) s (b.modCtrl i fun c => { c with
            cqs := Tbl.del c.cqs qid, backlog := c.backlog.filter fun p => p.cq ≠ qid }) q e 0 0 0 0))
    ∧ (s.AdminOk q e 4 onSlice → qid = 0 → Ends (.deleteIoCompletionQueue q e) s b q e 1 0x01 0 0)
    ∧ (s.AdminOk q e 8 onAll →
        ((∀ f ∈ b.earlier q e.cid, f.e.opc ≠ 8) → Ends (.abort q e) s b q e 0 0 1 0)
        ∧ ((∃ f ∈ b.earlier q e.cid, f.e.opc = 8) → Ends (.abort q e) s b q e 1 0x03 0 0))
    ∧ (∀ k, s.AdminOk (.queue k 0) e 0x0C onAll →
        let u := s.begin (.queue k 0) e.cid
        let x := u.ctrl k
        let kept := u.modCtrl k fun c => { c with aers := c.aers ++ [e.cid] }
        let cmd := Instr.asynchronousEventRequest (.queue k 0) e
        (4 ≤ x.aers.length → Ends cmd s u (.queue k 0) e 1 0x05 0 0)
        ∧ (x.aers.length < 4 → (∀ v ∈ x.events, v.lid ∈ x.masked) → exec cmd s = .next kept)
        ∧ (∀ v rest, x.aers.length < 4 → (x.events.filter fun v => !x.masked.contains v.lid) = v :: rest →
            exec cmd s = .next ((kept.modCtrl k fun c => { c with events := c.events.filter fun w => w ≠ v }).raiseEvent k v)))

/-- R51, R80 to R83, R86, R118: each Set Features leaves what it sets where the table lets its controller set it, and is
refused by the table's status elsewhere; SV 1 is refused everywhere; Timestamp cannot be set.

R80, R83, R118: Get Features answers the current value for Select 000b and 010b, the default for 001b, and the
capabilities for 011b; the APST table and the timestamp go to the host. Aggregated completions raise their vector when the
aggregation time has passed. -/
def Obligations.FeaturesAreSetAndReadBack : Prop :=
  (∀ (s : State) (q : Src) (e : Sqe) (data : List Byte),
     let b := s.begin q e.cid
     let i := s.srcCtrl q
     let c := b.ctrl i
     let v := e.cdw11
     let put (f : Features → Features) : State := b.modCtrl i fun c => { c with feat := f c.feat }
     let done (cmd : Instr) (t : State) : Prop := Ends cmd s t q e 0 0 0 0
     let word (k : Nat) : Nat := leNat ((data.drop (8 * k)).take 8)
     let entry (k : Nat) : Nat × Nat := (word k / 8 % 32, word k / 256 % 2 ^ 24)
     let fits (k : Nat) : Prop := if k < 5 then entry k = (0, 0) ∨ (entry k).1 = 3 ∨ (entry k).1 = 4 else word k = 0
     (s.Settable q e 1 → done (.setFeaturesArbitration q e) (put fun f => { f with ab := v.truncate 3 }))
     ∧ (s.Settable q e 2 → v.toNat % 32 ≤ 4 → done (.setFeaturesPowerManagement q e) (if v.toNat % 32 < 3 then b.setPs (v.toNat % 32)
         else { b with dev := { b.dev with psNext := some (v.toNat % 32) } }))
     ∧ (s.Settable q e 2 → 4 < v.toNat % 32 → Ends (.setFeaturesPowerManagement q e) s b q e 0 2 0 0)
     ∧ (s.Settable q e 4 → v.toNat / 65536 % 16 = 0 ∨ v.toNat / 65536 % 16 = 15 →
         (v.toNat / 2 ^ 20 % 4 = 0 → done (.setFeaturesTemperatureThreshold q e)
           { b with dev := { b.dev with tOver := some (v.toNat % 65536) } })
         ∧ (v.toNat / 2 ^ 20 % 4 = 1 → done (.setFeaturesTemperatureThreshold q e)
           { b with dev := { b.dev with tUnder := v.toNat % 65536 } }))
     ∧ (s.Settable q e 5 → v.getLsbD 16 = false → done (.setFeaturesErrorRecovery q e) (put fun f => { f with tler := v.truncate 16 }))
     ∧ (s.Settable q e 5 → v.getLsbD 16 = true → Ends (.setFeaturesErrorRecovery q e) s b q e 0 2 0 0)
     ∧ (∀ sl gs gc, s.Settable q e 7 → ctrlSlice i = some sl → (∀ x ∈ c.sqs, x.1 = 0) → (∀ x ∈ c.cqs, x.1 = 0) →
         v.toNat % 65536 ≠ 65535 → v.toNat / 65536 ≠ 65535 →
         gs = min (min (v.toNat % 65536 + 1) (b.slice sl).qpairs) (b.host.poolSq + c.grantSq) →
         gc = min (min (v.toNat / 65536 + 1) (b.slice sl).qpairs) (b.host.poolCq + c.grantCq) → 0 < gs → 0 < gc →
         let taken : State := { b with host := { b.host with
           poolSq := b.host.poolSq + c.grantSq - gs, poolCq := b.host.poolCq + c.grantCq - gc } }
         Ends (.setFeaturesNumberOfQueues q e) s (taken.modCtrl i fun c => { c with grantSq := gs, grantCq := gc }) q e 0 0
           (BitVec.ofNat 32 (gs - 1 + 65536 * (gc - 1))) 0)
     ∧ (s.Settable q e 7 → (∃ x ∈ c.sqs, x.1 ≠ 0) ∨ (∃ x ∈ c.cqs, x.1 ≠ 0) →
         Ends (.setFeaturesNumberOfQueues q e) s b q e 0 0x0C 0 0)
     ∧ (s.Settable q e 8 → done (.setFeaturesInterruptCoalescing q e)
         (put fun f => { f with thr := v.truncate 8, time := v.extractLsb' 8 8 }))
     ∧ (s.Settable q e 9 → v.toNat % 65536 < b.vectors i → done (.setFeaturesInterruptVectorConfig q e) (put fun f => { f with
         cd := if v.getLsbD 16 then insNat (v.toNat % 65536) f.cd else delNat (v.toNat % 65536) f.cd }))
     ∧ (s.Settable q e 0x0A → done (.setFeaturesWriteAtomicity q e) (put fun f => { f with dn := v.getLsbD 0 }))
     ∧ (s.Settable q e 0x0B → done (.setFeaturesAsyncEventConfig q e) (put fun f => { f with aec := v &&& 0x3FF#32 }))
     ∧ (s.Settable q e 0x0C → adminPrpBad e 256 = false → (∀ k, k < 32 → fits k) →
         done (.setFeaturesApst q e data) (({ b with dev := { b.dev with
           apste := v.getLsbD 0, apst := (List.range 32).map entry } }).moved q e.cid false 256))
     ∧ (∀ k, s.Settable q e 0x0C → adminPrpBad e 256 = false → k < 32 → ¬fits k →
         Ends (.setFeaturesApst q e data) s b q e 0 2 0 0)
     ∧ (s.AdminOk q e 9 onAll → e.cdw10.toNat % 256 = 0x0E → e.cdw10.getLsbD 31 = false →
         Ends (.setFeaturesTimestamp q e) s b q e 1 0x0E 0 0)
     ∧ (s.AdminOk q e 9 onAll → e.cdw10.getLsbD 31 = true → e.cdw10.toNat % 256 = 1 →
         Ends (.setFeaturesArbitration q e) s b q e 1 0x0D 0 0)
     ∧ (∀ kind : CtrlKind, featureRefusal 2 kind = (if kind = .manager ∨ kind = .sideband then none else some (1, 0x0E))
         ∧ featureRefusal 4 kind = featureRefusal 2 kind ∧ featureRefusal 0x0C kind = featureRefusal 2 kind
         ∧ featureRefusal 7 kind = (if kind = .slice then none else some (0, 2)) ∧ featureRefusal 0x0A kind = featureRefusal 7 kind
         ∧ ∀ fid ∈ [1, 5, 8, 9, 0x0B], featureRefusal fid kind = none))
  ∧ (∀ (s : State) (q : Src) (e : Sqe) (ctrl vec : Nat),
       let b := s.begin q e.cid
       let f := (b.ctrl (s.srcCtrl q)).feat
       let d := b.dev
       let now (fid v : Nat) : Prop := e.cdw10.toNat % 256 = fid → e.cdw10.toNat / 256 % 8 = 0 ∨ e.cdw10.toNat / 256 % 8 = 2 →
         Ends (.getFeatures q e) s b q e 0 0 (BitVec.ofNat 32 v) 0
       let dflt (fid v : Nat) : Prop := e.cdw10.toNat % 256 = fid → e.cdw10.toNat / 256 % 8 = 1 →
         Ends (.getFeatures q e) s b q e 0 0 (BitVec.ofNat 32 v) 0
       let th := e.cdw11.toNat / 2 ^ 20 % 4
       let vector := e.cdw11.toNat % 65536
       let page (fid : Nat) (bytes : List Byte) (v : Nat) : Prop :=
         e.cdw10.toNat % 256 = fid → e.cdw10.toNat / 256 % 8 = 0 → adminPrpBad e bytes.length = false →
           Ends (.getFeatures q e) s ((b.sendTo q e.dptr (Data.ofBytes bytes)).moved q e.cid true bytes.length) q e 0 0
             (BitVec.ofNat 32 v) 0
       (s.AdminOk q e 0x0A onAll →
         now 1 f.ab.toNat ∧ dflt 1 3 ∧ now 2 d.ps ∧ dflt 2 0
         ∧ now 4 (if th = 1 then d.tUnder else d.tOver.getD wctemp) ∧ dflt 4 (if th = 1 then 0 else wctemp)
         ∧ now 5 f.tler.toNat ∧ now 8 (f.thr.toNat + 256 * f.time.toNat) ∧ now 0x0B f.aec.toNat
         ∧ (vector < b.vectors (s.srcCtrl q) → now 9 (vector + if f.cd.contains vector then 65536 else 0))
         ∧ (q.kind b = .slice → now 0x0A (if f.dn then 1 else 0))
         ∧ page 0x0C (apstBytes d.apst) (if d.apste then 1 else 0) ∧ page 0x0E b.timestamp 0
         ∧ (q.kind b ≠ .slice → e.cdw10.toNat % 256 = 7 ∨ e.cdw10.toNat % 256 = 0x0A → Ends (.getFeatures q e) s b q e 0 2 0 0)
         ∧ (featureKnown (e.cdw10.toNat % 256) = false → Ends (.getFeatures q e) s b q e 0 2 0 0))
       ∧ (Tbl.getD (s.ctrl ctrl).coal vec 0 ≠ 0 → exec (.interruptAggregationTimeExpiry ctrl vec) s =
           .next ((s.modCtrl ctrl fun c => { c with coal := Tbl.set c.coal vec 0 }).raiseMsi ctrl vec)))

/-- R54, R71 to R73, R79, R471: Identify answers its data structure, or Invalid Namespace or Format or Invalid Field; Get Log Page
answers a page of its controller's kind, padded with 0 to the length asked, and with RAE 0 lets the page's events be reported
again; another page is Invalid Log Page. Page D2h gives each entry of the fault and repair log its slot and its fields. The fields of Identify Controller that the table gives as numbers stand at their
bytes. The byte places of NVMe are log entry 28. -/
def Obligations.IdentifyAndLogPagesAnswer : Prop :=
  ∀ (s : State) (q : Src) (e : Sqe) (d : Data) (code : Nat) (x : LogEntry) (k : Nat) (old : List LogEntry),
    let b := s.begin q e.cid
    let lid := e.cdw10.toNat % 256
    let n := 4 * (e.cdw10.toNat / 65536 + 65536 * (e.cdw11.toNat % 65536) + 1)
    let off := e.cdw12.toNat + 2 ^ 32 * e.cdw13.toNat
    let page := b.logPageData q lid
    let given (t : State) (x : Data) : State := (t.sendTo q e.dptr x).moved q e.cid true x.len
    let answered (t : State) (x : Data) : State := (given t x).complete q e.cid 0 0 0 0
    (s.AdminOk q e 6 onAll → b.identifyData q e = .ok d → adminPrpBad e d.len = false → exec (.identify q e) s = .next (answered b d))
    ∧ (s.AdminOk q e 6 onAll → b.identifyData q e = .error code → Ends (.identify q e) s b q e 0 code 0 0)
    ∧ (s.AdminOk q e 2 onAll → lid ∉ logPages (q.kind b) → Ends (.getLogPage q e) s b q e 1 0x09 0 0)
    ∧ (s.AdminOk q e 2 onAll → lid ∈ logPages (q.kind b) → off % 4 = 0 → off < page.len →
        (lid = 2 → e.nsid = 0 ∨ e.nsid = 0xFFFFFFFF) → adminPrpBad e n = false →
        exec (.getLogPage q e) s =
          .next (answered ((b.drawnN 16).logRead q lid (e.cdw10.getLsbD 15)) { Data.sub page off n with len := n }))
    ∧ (∀ f ∈ [(72, 1, 3), (76, 1, 3), (77, 1, 9), (80, 4, 0x00020100), (84, 4, 10000000), (88, 4, 1000), (92, 4, 0x300), (259, 1, 3),
          (260, 1, 0x18), (261, 1, 6), (262, 1, 63), (263, 1, 4), (264, 1, 1), (265, 1, 1), (270, 2, 20), (319, 1, 1), (328, 4, 0x40000003),
          (512, 1, 0x66), (513, 1, 0x44), (516, 4, 4096), (520, 2, 0x000C), (524, 1, 4), (530, 1, 1), (536, 4, 1), (540, 4, 4096)],
        (f.1, leBytes f.2.1 f.2.2) ∈ (b.identifyCtrl q).parts)
    ∧ (lid = 0xD2 → page.len = 65600 ∧ (x ∈ b.rel.log → (64 + 64 * (x.seq % 1024), x.bytes) ∈ page.parts)
        ∧ (b.rel.log = x :: old → (0, [1, 0, 0, 0, 0, 0, 0, 0] ++ leBytes 8 x.seq ++ leBytes 8 ((b.rel.log.getLastD x).seq)) ∈ page.parts))
    ∧ x.bytes.take 20 = leBytes 8 x.seq ++ leBytes 8 x.pier.toNat ++ leBytes 2 x.span ++ leBytes 1 x.event ++ leBytes 1 x.sev
    ∧ (x.bytes.drop 22).take 2 = leBytes 2 (x.slice.getD 0xFFFF)
    ∧ (x.unit = [k] → x.event ≠ 0x13 → (x.bytes.drop 20).take 2 = leBytes 2 k)
    ∧ (x.addr = [k] → x.event ≠ 0x10 → (x.bytes.drop 24).take 8 = leBytes 8 k)
    ∧ (x.event = 0x17 → x.detail = [k] → x.bytes.drop 32 = leBytes 32 k) ∧ (x.event = 0x15 → x.detail.length = 16 →
        x.bytes.drop 32 = x.detail.map (BitVec.ofNat 8) ++ List.replicate 16 0)
    ∧ logPages .slice = [0, 1, 2, 3, 4, 5, 0x81, 0xD0] ∧ logPages .port = [0, 1, 2, 3, 5]
    ∧ logPages .manager = [0, 1, 2, 3, 5, 6, 0x81, 0xD2]

/-- R74, R75, R78: a create checks its limits, its fields and its capacity in the order of the table and then has its media
key committed; a delete has the keys of its namespaces replaced; attachment is to the slice's own controller alone; while a
sanitize of the slice or the device runs each ends with Sanitize In Progress. -/
def Obligations.NamespacesAreCreatedDeletedAttached : Prop :=
  ∀ (s : State) (q : Src) (e : Sqe) (data : List Byte) (sl x : Nat) (ns : Ns), q.slice? = some sl →
    let b := s.begin q e.cid
    let sel := e.cdw10.toNat % 16
    let a := readNsArgs data
    let m := b.moved q e.cid false 4096
    let full : Prop := 4096 ≤ b.media.ns.length ∨ (b.slice sl).nsLimit ≤ (b.nsCreated sl).length
    let nsx := lowestFree (fun n => (Tbl.get? m.media.ns n).isSome) 0
    let nsid := lowestFree (fun n => (m.nsCreated sl).any fun p => p.2.nsid = n) 1
    let own : Prop := ∃ k, leNat (data.take 2) = k ∧ 0 < k ∧ k ≤ 2047
      ∧ ∀ j, j < k → leNat ((data.drop (2 + 2 * j)).take 2) = sliceCtrl sl
    (s.AdminOk q e 0x0D onSlice → sel = 0 → b.sanitizing sl = false →
      (full → Ends (.namespaceCreate q e data) s b q e 1 0x16 0 0)
      ∧ (¬full → adminPrpBad e 4096 = false →
        (a.nsze = 0 ∨ a.ncap ≠ a.nsze → Ends (.namespaceCreate q e data) s m q e 0 2 0 0)
        ∧ (a.nsze ≠ 0 → a.ncap = a.nsze → a.check = some (1, 0x0A) → Ends (.namespaceCreate q e data) s m q e 1 0x0A 0 0)
        ∧ (a.check = none → m.nsTooBig sl a.spec = true → Ends (.namespaceCreate q e data) s m q e 1 0x15 0 0)
        ∧ (a.check = none → m.nsTooBig sl a.spec = false → exec (.namespaceCreate q e data) s =
            .next (({ m with media := { m.media with
              ns := Tbl.set m.media.ns nsx { nsid := nsid, slice := sl, spec := a.spec, pending := true } } }).startCommit
                { src := some (q, e.cid), act := .nsCreate nsx }))))
    ∧ (s.AdminOk q e 0x0D onSlice → sel = 1 → b.sanitizing sl = false →
      (e.nsid = 0xFFFFFFFF → exec (.namespaceDelete q e) s =
          .next (b.startCommit { src := some (q, e.cid), act := .nsDelete ((b.nsOfSlice sl).map (·.1)) }))
      ∧ (e.nsid ≠ 0xFFFFFFFF → b.findNs sl e.nsid.toNat = some (x, ns) → exec (.namespaceDelete q e) s =
          .next (b.startCommit { src := some (q, e.cid), act := .nsDelete [x] }))
      ∧ (e.nsid ≠ 0xFFFFFFFF → b.findNs sl e.nsid.toNat = none → Ends (.namespaceDelete q e) s b q e 0 0x0B 0 0))
    ∧ (s.AdminOk q e 0x15 onSlice → sel ≤ 1 → b.sanitizing sl = false → b.findNs sl e.nsid.toNat = some (x, ns) →
        adminPrpBad e 4096 = false →
      (own → (sel = 0 ↔ ns.attached = false) → Ends (.namespaceAttachment q e data) s
          (m.modNs x fun y => { y with attached := sel = 0 }) q e 0 0 0 0)
      ∧ (leNat (data.take 2) = 0 → Ends (.namespaceAttachment q e data) s m q e 1 0x1C 0 0))
    ∧ (b.sanitizing sl = true →
      (s.AdminOk q e 0x0D onSlice → sel = 0 → Ends (.namespaceCreate q e data) s b q e 0 0x1D 0 0)
      ∧ (s.AdminOk q e 0x0D onSlice → sel = 1 → Ends (.namespaceDelete q e) s b q e 0 0x1D 0 0)
      ∧ (s.AdminOk q e 0x15 onSlice → Ends (.namespaceAttachment q e data) s b q e 0 0x1D 0 0))

/-- R76 to R78, R86, R213, R214, R216: Format NVM refuses the values the rule does not list; with a new key it, and each sanitize,
waits for the commit of its keys. Every replacement whose commit has begun comes into force at once, with its command's
completion: an entry draws a key and raises its generation, cipher lanes drop the keys that no read carries, and the table is
wrapped under a new table key in three copies. A sanitize of the device runs only while no slice exists; a block erase works on
the sets that are not erased and hold a unit of its scope, and ends when none is left. Its end is reported to the controller of
its scope. -/
def Obligations.FormatSanitizeAndKeyCommits : Prop :=
  ∀ (s : State) (q : Src) (e : Sqe) (sl : Nat) (scope : Option Nat) (failed : Bool),
    let b := s.begin q e.cid
    let w := e.cdw10.toNat
    let fmt := w % 16 + 16 * (w / 4096 % 4)
    let pi := w / 32 % 8
    let ses := w / 512 % 8
    let legal : Prop := fmt ≤ 2 ∧ w / 16 % 2 = 0 ∧ pi ≤ 1 ∧ w / 256 % 2 = 0 ∧ ses ≤ 2 ∧ (pi = 1 → fmt = 2)
    let san (z : Option Nat) : Sanitize := Tbl.getD s.dev.san (z.getD 1024) {}
    let put (t : State) (z : Option Nat) (y : Sanitize) : State := { t with dev := { t.dev with san := Tbl.set t.dev.san (z.getD 1024) y } }
    let bsan : Sanitize := Tbl.getD b.dev.san (q.slice?.getD 1024) {}
    let begun : State := put b q.slice? { act := w % 8, running := true, cdw10 := e.cdw10 }
    let blanked : State := match q.slice? with
      | some z => { begun with dram := { begun.dram with locals := Tbl.del begun.dram.locals z, clear := Tbl.del begun.dram.clear z } }
      | none => begun
    let mine : KeyWork := { src := some (q, e.cid), act := .sanitize q.slice? }
    (q.slice? = some sl → s.AdminOk q e 0x80 onSlice → b.sanitizing sl = false →
      (¬legal → Ends (.formatNvm q e) s b q e 1 0x0A 0 0)
      ∧ (legal → e.nsid = 0xFFFFFFFF → ses ≠ 0 → exec (.formatNvm q e) s =
          .next (b.startCommit { src := some (q, e.cid), act := .format ((b.nsOfSlice sl).map (·.1)) fmt pi }))
      ∧ (∀ x ns, legal → e.nsid ≠ 0xFFFFFFFF → ses ≠ 0 → b.findNs sl e.nsid.toNat = some (x, ns) → exec (.formatNvm q e) s =
          .next (b.startCommit { src := some (q, e.cid), act := .format [x] fmt pi }))
      ∧ (∀ x ns, legal → e.nsid ≠ 0xFFFFFFFF → ses = 0 → b.findNs sl e.nsid.toNat = some (x, ns) →
          Ends (.formatNvm q e) s (b.formatPlain x fmt pi).checkReadOnly q e 0 0 0 0))
    ∧ (s.AdminOk q e 0x84 (fun k => k ≠ .port) →
      (w % 8 = 1 → bsan.running = false → Ends (.sanitizeExitFailureMode q e) s (put b q.slice? { bsan with failed := false }) q e 0 0 0 0)
      ∧ (w % 8 = 3 → Ends (.sanitizeBlockErase q e) s b q e 0 2 0 0)
      ∧ (q.slice? = none → b.anySlice = true → (w % 8 = 2 → Ends (.sanitizeBlockErase q e) s b q e 0 0x0C 0 0)
          ∧ (w % 8 = 4 → Ends (.sanitizeCryptoErase q e) s b q e 0 0x0C 0 0))
      ∧ ((q.slice?.isSome = true ∨ b.anySlice = false) → bsan.running = false →
          (w % 8 = 2 → exec (.sanitizeBlockErase q e) s = .next (blanked.startCommit mine))
          ∧ (w % 8 = 4 → exec (.sanitizeCryptoErase q e) s = .next (blanked.startCommit mine))))
    ∧ ((san scope).running = true → (∀ k ∈ s.hm.commit ++ s.hm.joining, k.act ≠ .sanitize scope) →
        ((san scope).act ≠ 2 ∨ failed = true ∨ s.setsToErase scope = [] → exec (.sanitizeComplete scope failed) s =
          .next ((put s scope { san scope with running := false, failed := failed, done := !failed }).raiseEvent
            ((scope.map sliceCtrl).getD s.dev.mgrPort) ⟨6, 1, 0x81⟩))
        ∧ ((san scope).act = 2 → failed = false → s.setsToErase scope ≠ [] →
            exec (.sanitizeComplete scope failed) s = .next s.sanitizeWork)
        ∧ (∀ n, n ∈ s.setsToErase scope ↔ (∃ y, (n, y) ∈ s.media.sets) ∧ (s.media.set n).st ≠ .erased ∧ (s.media.set n).st ≠ .retired
            ∧ ∀ z, scope = some z → ∃ u ∈ s.media.stored, u.1 / 2 ^ 20 = n ∧ u.2.slice = z)
        ∧ (∀ z y, s.dev.san = [(z, y)] → y.running = true → y.act = 2 → scope = (if z = 1024 then none else some z) →
            s.dev.pwr.plpWarn = false → s.media.formed = true →
            s.sanitizeWork = (s.setsToErase scope).foldl (fun t n => t.clearSet scope n) s))
    ∧ (s.hm.commit ≠ [] →
        let next : State := { s with hm := { s.hm with commit := s.hm.joining, joining := [] } }
        let done := s.hm.commit.foldl (fun (z : State) k =>
          let y := z.applyAct k.act
          match k.src with
          | some (r, cid) => y.complete r cid 0 0 (y.actDw0 k.act) 0
          | none => y) next
        exec .mediaKeyCommit s = .next done.wrapTable.checkReadOnly.checkNv)
    ∧ (∀ x : Nat,
        let t := s.newMediaKey x
        let live (k : Nat × W16) : Bool := (t.mediaKey k.1).gen = k.2 || s.media.reads.any fun p => p.2.nsx = k.1 && p.2.gen = k.2
        t.mediaKey x = { key := Config.freeNat s.free, gen := (s.mediaKey x).gen + 1, seq := 0, res := 0 }
        ∧ (∀ y, y ≠ x → t.mediaKey y = s.mediaKey y)
        ∧ t.media = { s.media with chans := Tbl.mapV s.media.chans fun _ c => { c with keys := c.keys.filter live } })
    ∧ (let t := s.wrapTable
       t.hm.tableKey = Config.freeNat s.free ∧ t.hm.nvWrites = s.hm.nvWrites + 1 ∧ t.hm.media = s.hm.media
       ∧ t.media.tables = (s.media.tables.map fun y => { y with stale := true })
           ++ [0, 1, 2].map fun c => { chan := c, key := Config.freeNat s.free, keys := s.hm.media.filter fun p => p.1 ≤ 4096 })

/-- R84, R85, R439, R485: a download adds a piece that overlaps none received; a commit takes the whole image received, checks
it and stores it, with three copies in the system blocks under the image key and its counter, and activates it at the next reset
or now as CA says; an activation now holds every queue until its resume,
which runs and measures the slot's stage 2 and completes the commit. That an activation now would exceed 2 s is a free bit
(log entry 31). -/
def Obligations.FirmwareIsDownloadedCommittedActivated : Prop :=
  ∀ (s : State) (q : Src) (e : Sqe) (data img : List Byte) (code : Nat),
    let b := s.begin q e.cid
    let n := 4 * (e.cdw10.toNat + 1)
    let off := 4 * e.cdw11.toNat
    let ca := e.cdw10.toNat / 8 % 8
    let fs := e.cdw10.toNat % 8
    let fw := b.dev.fw
    let slot := if fs = 0 then fw.running else fs
    let set (t : State) (f : Firmware) : State := { t with dev := { t.dev with fw := f } }
    let next (t : State) : State := set t { t.dev.fw with next := some slot, act := slot, before := t.dev.fw.running }
    let taken := set b { fw with parts := [] }
    let image := (readImage img).1
    let old := fw.slot slot
    let pair : FwSlot :=
      ⟨if (readImage img).2.1 then some image else old.stage1, if (readImage img).2.2 then some image else old.stage2⟩
    let one := if (readImage img).2.1 then taken.imageCopies (16 + 2 * slot) img else taken
    let two := if (readImage img).2.2 then one.imageCopies (17 + 2 * slot) img else one
    let stored := set two { two.dev.fw with slots := Tbl.set two.dev.fw.slots slot pair }
    let commit := Instr.firmwareCommit q e
    (s.AdminOk q e 0x11 onManager → n % 4096 = 0 → off % 4096 = 0 → off + n ≤ 32 * 2 ^ 20 → adminPrpBad e n = false →
      (data.length = n → (∀ p ∈ fw.parts, p.1 + p.2.length ≤ off ∨ off + n ≤ p.1) → Ends (.firmwareImageDownload q e data) s
          ((set b { fw with parts := fw.parts ++ [(off, data)] }).moved q e.cid false n) q e 0 0 0 0)
      ∧ ((∃ p ∈ fw.parts, off < p.1 + p.2.length ∧ p.1 < off + n) → Ends (.firmwareImageDownload q e data) s b q e 1 0x14 0 0))
    ∧ (s.AdminOk q e 0x10 onManager →
      (fw.holding = true → Ends commit s b q e 0 0x0C 0 0)
      ∧ (fw.holding = false → 3 < ca → Ends commit s b q e 0 2 0 0)
      ∧ (fw.holding = false → ca = 2 → fs = 0 → Ends commit s b q e 1 0x06 0 0)
      ∧ (fw.holding = false → ca = 2 → 1 ≤ fs → fs ≤ 4 → old.pair b.hm.fwSvn = true → Ends commit s (next b) q e 0 0 0 0)
      ∧ (fw.holding = false → ca ≤ 3 → ca ≠ 2 → fs ≤ 4 →
        (fw.whole = none → Ends commit s taken q e 1 0x07 0 0)
        ∧ (fw.whole = some img → checkImage img b.hm.fwSvn = some code → Ends commit s taken q e 1 code 0 0)
        ∧ (fw.whole = some img → checkImage img b.hm.fwSvn = none →
          (ca = 0 → Ends commit s stored q e 0 0 0 0)
          ∧ (ca = 1 → Ends commit s (next stored) q e 0 0 0 0)
          ∧ (ca = 3 → (readImage img).2.1 = true → Ends commit s (next stored) q e 1 0x0B 0 0)
          ∧ (ca = 3 → (readImage img).2.1 = false → Ends commit s stored.drawn q e 1 0x12 0 0
              ∨ exec commit s = .next (stored.drawn.startActivation q e.cid slot)))))
    ∧ (∀ r cid, s.dev.fw.holding = true → s.dev.fw.waiting = some (r, cid) →
        let now := (set s { s.dev.fw with holding := false, running := s.dev.fw.into, waiting := none }).measureStage2 s.dev.fw.into
        let done := now.complete r cid 0 0 0 0
        exec .firmwareActivationResume s = .next (done.ctrlIds.foldl (fun t i => t.drainCqes i) done))
    ∧ (∀ record chan,
        let t := s.imageUnit record chan data
        let unit : Stored := { kind := 0xB, nsx := 0, ulba := record, seq := (s.mediaKey 4097).seq, app := 0, key := Config.imageKey
                               body := .bytes (Mem.write [] 0 data) }
        Tbl.get? t.media.sys record = some (Tbl.getD s.media.sys record [] ++ [⟨chan, unit⟩])
        ∧ (t.mediaKey 4097).seq = (s.mediaKey 4097).seq + 1 ∧ t.dev = s.dev
        ∧ ∀ r, r ≠ record → Tbl.get? t.media.sys r = Tbl.get? s.media.sys r)

/-- R56: a self-test starts unless one runs; its end, or the abort, records its result, newest first, of the last 20. -/
def Obligations.SelfTestsStartAndEnd : Prop :=
  ∀ (s : State) (q src : Src) (e : Sqe) (stc : Nat) (passed : Bool),
    let b := s.begin q e.cid
    let put (t : State) (x : Option (Nat × Src)) (r : List TestResult) : State := { t with dev := { t.dev with test := x, results := r } }
    let ended (t : State) (result : Nat) : State := put t none ((⟨stc, result, t.dev.smart.piers⟩ :: t.dev.results).take 20)
    (s.AdminOk q e 0x14 onManager → e.cdw10.toNat % 16 = 1 ∨ e.cdw10.toNat % 16 = 2 →
      (b.dev.test = none → Ends (.deviceSelfTest q e) s (put b (some (e.cdw10.toNat % 16, q)) b.dev.results) q e 0 0 0 0)
      ∧ (b.dev.test ≠ none → Ends (.deviceSelfTest q e) s b q e 1 0x1D 0 0))
    ∧ (s.AdminOk q e 0x14 onManager → e.cdw10.toNat % 16 ∉ [1, 2, 15] → Ends (.deviceSelfTest q e) s b q e 0 2 0 0)
    ∧ (s.AdminOk q e 0x14 onManager → e.cdw10.toNat % 16 = 15 →
      (b.dev.test = some (stc, src) → Ends (.deviceSelfTestAbort q e) s (ended b 1) q e 0 0 0 0)
      ∧ (b.dev.test = none → Ends (.deviceSelfTestAbort q e) s b q e 0 0 0 0))
    ∧ (s.dev.test = some (stc, src) → exec (.deviceSelfTestComplete passed) s = .next (ended s (if passed then 0 else 6)))

/-- R91 to R96, R104, R119 to R122, R395, R434, R442: the manager creates a slice when the checks of the table pass, in their
order, and sets its shares from a span tick on; reset, rebind and delete take it through the states of the table, and their last
step answers the command. What a reset returns the slice to is its state just after creation. A command for a slice on the move
is refused with Slice Resetting, and a delete of one waits. That the sequence reaches its steps by its row executing again, and
that a change of the slice's keys that waits goes first, are the model's (log entries 48 and 52). -/
def Obligations.SlicesAreCreatedResetReboundDeleted : Prop :=
  ∀ (s : State) (q : Src) (e : Sqe) (data : List Byte) (n : Nat) (r : Src) (cid : W16),
    let b := s.begin q e.cid
    let m := b.moved q e.cid false 4096
    let sl := e.cdw10.toNat % 1024
    let field (i k : Nat) : Nat := leNat ((data.drop i).take k)
    let flash := field 24 2
    let core := field 26 2
    let ext := (field 16 4 + 1) / 2
    let pasid := field 4 4 % 2 ^ 20
    let rangeBad : Prop := splitPorts m.dev.split ≤ field 0 1 ∨ field 2 2 < 1 ∨ 64 < field 2 2 ∨ pasid = 0 ∨ field 8 8 = 0
      ∨ 65536 < field 16 4 ∨ 4096 < field 20 2 ∨ field 22 2 < 1 ∨ 4096 < field 22 2
    let noRoom : Prop := ext ≠ 0 ∧ m.placeExtents ext = none
    let noSlots : Prop := 4096 < 16 + m.hm.held .manager + m.promised + field 20 2
    let st : SliceSt := if flash = 0 ∧ core = 0 then .parked else .ready
    let used : Prop := (s.slice sl).st ≠ .absent
    let still (x : SliceSt) : Prop := x = .ready ∨ x = .parked
    let moving (x : SliceSt) : Prop := x = .resetting ∨ x = .rebinding ∨ x = .deleting
    let create := Instr.sliceCreate q e data
    let mgr (opc : Nat) : Prop := s.AdminOk q e opc onManager
    (mgr 0xC1 → (b.sliceTaken sl = true → Ends create s b q e 0 0x0C 0 0)
      ∧ (b.sliceTaken sl = false → adminPrpBad e 4096 = true → Ends create s b q e 0 0x13 0 0)
      ∧ (b.sliceTaken sl = false → adminPrpBad e 4096 = false →
        (rangeBad ∨ m.pasidTaken sl (field 0 1) pasid = true ∨ noRoom ∨ noSlots → Ends create s m q e 0 2 0 0)
        ∧ (¬rangeBad → m.pasidTaken sl (field 0 1) pasid = false → ¬noRoom → ¬noSlots →
          ∃ t : State, Ends create s t q e 0 0 0 0
            ∧ t.slice sl = { st := st, port := field 0 1, qpairs := field 2 2, pasid := pasid, capGrant := field 8 8,
                             lmLimit := field 16 4, ksLimit := field 20 2, nsLimit := field 22 2, flash0 := flash, core0 := core,
                             park0 := field 28 2, flash := flash, core := core, park := field 28 2, pageFrom := m.meter.nClosed }
            ∧ (∀ x, x ≠ sl → t.slice x = m.slice x)
            ∧ Tbl.get? t.hm.domains sl = some (Config.freeNat m.free)
            ∧ Tbl.get? t.hm.smrs sl = some {} ∧ Tbl.get? t.hm.imports sl = some { seed := Config.freeNat (m.free + 1) }
            ∧ Tbl.get? t.meter.slices sl = some { opened := true }
            ∧ (ext ≠ 0 → Tbl.get? t.dram.extents sl = some ((m.placeExtents ext).getD 0, ext)))))
    ∧ (mgr 0xC5 → s.keysBusy sl = false →
      (¬used → Ends (.sliceSetShares q e) s b q e 0 2 0 0)
      ∧ (moving (s.slice sl).st → Ends (.sliceSetShares q e) s b q e 7 0x83 0 0)
      ∧ (still (s.slice sl).st → Ends (.sliceSetShares q e) s (b.modSlice sl fun x => { x with
          newShares := some (e.cdw11.toNat % 65536, e.cdw11.toNat / 65536, e.cdw12.toNat % 65536) }) q e 0 0 0 0))
    ∧ (mgr 0xC4 → s.keysBusy sl = false →
      (¬used → Ends (.sliceReset q e n) s b q e 0 2 0 0)
      ∧ (moving (s.slice sl).st → (s.slice sl).seqSrc ≠ some (q, e.cid) → Ends (.sliceReset q e n) s b q e 7 0x83 0 0)
      ∧ (still (s.slice sl).st → exec (.sliceReset q e n) s = .next ((b.modSlice sl fun x => { x with
          st := .resetting, seqStep := 0, seqSrc := some (q, e.cid), rebinds := false, pageFrom := b.meter.nClosed }).runReset sl n)))
    ∧ (e.opc.toNat = 0xC4 → (s.slice sl).runs q e false = true → exec (.sliceReset q e n) s = .next (s.runReset sl n))
    ∧ (mgr 0xD1 → s.keysBusy sl = false →
      (¬used → Ends (.sliceRebind q e data n) s b q e 0 2 0 0)
      ∧ (moving (s.slice sl).st → (s.slice sl).seqSrc ≠ some (q, e.cid) → Ends (.sliceRebind q e data n) s b q e 7 0x83 0 0)
      ∧ (still (s.slice sl).st → adminPrpBad e 4096 = false →
        (splitPorts m.dev.split ≤ (data.getD 0 0).toNat ∨ pasid = 0 ∨ m.pasidTaken sl (data.getD 0 0).toNat pasid = true →
          Ends (.sliceRebind q e data n) s m q e 0 2 0 0)
        ∧ ((data.getD 0 0).toNat < splitPorts m.dev.split → pasid ≠ 0 → m.pasidTaken sl (data.getD 0 0).toNat pasid = false →
          exec (.sliceRebind q e data n) s = .next ((m.modSlice sl fun x => { x with
            before := x.st, st := .rebinding, seqStep := 0, seqSrc := some (q, e.cid), rebinds := true
            newPort := (data.getD 0 0).toNat, newPasid := pasid }).runRebind sl n))))
    ∧ (e.opc.toNat = 0xD1 → (s.slice sl).runs q e true = true → exec (.sliceRebind q e data n) s = .next (s.runRebind sl n))
    ∧ (∀ i k, k < 7 → s.runReset i k =
        (((List.range (min k 6 + 1)).filter fun j => (s.slice i).seqStep < j).foldl (fun (t : State) j => t.resetStep i j) s).modSlice i
          fun x => { x with seqStep := max x.seqStep k })
    ∧ (∀ i, (s.slice i).seqStep = 6 → (s.slice i).seqSrc = some (r, cid) → ∃ t : State,
        s.runReset i 7 = t.complete r cid 0 0 0 0
        ∧ (t.slice i).st = (if (s.slice i).st = .deleting then .deleting
            else if (s.slice i).flash0 = 0 ∧ (s.slice i).core0 = 0 then .parked else .ready)
        ∧ (t.slice i).flash = (s.slice i).flash0 ∧ (t.slice i).core = (s.slice i).core0 ∧ (t.slice i).park = (s.slice i).park0
        ∧ (t.slice i).port = (s.slice i).port ∧ (t.slice i).pasid = (s.slice i).pasid ∧ (t.slice i).capGrant = (s.slice i).capGrant
        ∧ (t.slice i).fenced = false ∧ (t.slice i).seqSrc = none ∧ (t.slice i).newShares = none
        ∧ ∀ x, x ≠ i → t.slice x = s.slice x)
    ∧ (∀ i, (s.slice i).seqStep = 4 → (s.slice i).seqSrc = some (r, cid) → ∃ t : State,
        s.runRebind i 5 = t.complete r cid 0 0 0 0
        ∧ t.slice i = { s.slice i with
            port := (s.slice i).newPort, pasid := (s.slice i).newPasid, fenced := false, verSel := 0, seqStep := 0, seqSrc := none
            rebinds := false, st := if (s.slice i).st = .deleting then .deleting else (s.slice i).before }
        ∧ ∀ x, x ≠ i → t.slice x = s.slice x)
    ∧ (mgr 0xC0 → s.keysBusy sl = false →
      (¬used → Ends (.sliceDelete q e) s b q e 0 2 0 0)
      ∧ ((s.slice sl).st = .deleting → Ends (.sliceDelete q e) s b q e 7 0x83 0 0)
      ∧ ((s.slice sl).st = .resetting ∨ (s.slice sl).st = .rebinding → exec (.sliceDelete q e) s =
          .next (b.modSlice sl fun x => { x with st := .deleting, delSrc := some (q, e.cid) }))
      ∧ (still (s.slice sl).st → Ends (.sliceDelete q e) s (b.deleteSlice sl) q e 0 0 0 0))
    ∧ (∀ i, (s.slice i).delSrc = some (r, cid) → (s.slice i).st = .deleting → (s.slice i).seqSrc = none →
        exec (.deleteAfterReset i) s = .next ((s.deleteSlice i).complete r cid 0 0 0 0))
    ∧ (∀ i, (s.slice i).delSrc = none → exec (.deleteAfterReset i) s = .next s)

/-- R146, R147, R434 to R443: a quote, a receipt fetch and a key import complete with the first status that applies; a signed
quote takes its values and its index at once and its signer begins when it is free; an import or emptying that passes comes into
force with its commit. -/
def Obligations.QuotesReceiptsAndKeyImportsAnswer : Prop :=
  ∀ (s : State) (q : Src) (e : Sqe) (data pt : List Byte) (x : Seal),
    let b := s.begin q e.cid
    let qt := e.cdw10.toNat % 256
    let hpv := e.cdw10.toNat / 256 % 256
    let sl := e.cdw10.toNat / 65536 % 1024
    let len := if qt ≤ 1 then 17064 else if qt = 2 then 30032 else 1568
    let nonce := leBytes 4 e.cdw12.toNat ++ leBytes 4 e.cdw13.toNat ++ leBytes 4 e.cdw14.toNat ++ leBytes 4 e.cdw15.toNat
    let quote := Instr.hallmarkQuote q e
    let shapeBad : Prop := 3 < qt ∨ hpv < 1 ∨ 2 < hpv ∨ ((qt = 1 ∨ qt = 3) ∧ (b.slice sl).st = .absent) ∨ e.cdw11.toNat * 4 < len
    let given (d : Data) : State := (b.sendTo q e.dptr d).moved q e.cid true d.len
    let minute := e.cdw10.toNat + 2 ^ 32 * e.cdw11.toNat
    let fetch := Instr.meterReceiptFetch q e
    let need := if e.cdw12.getLsbD 0 = true then 147456 else 16384
    let o := e.cdw10.toNat % 65536
    let slot := e.cdw11.toNat % 65536
    let act := e.cdw11.toNat / 65536 % 4
    let imp := Instr.keyImport q e data
    let emp := Instr.keyEmpty q e
    let stranger : Prop := o ≠ 0xFFFF ∧ (1023 < o ∨ (b.slice o).st = .absent)
    let moving : Prop := o ≠ 0xFFFF ∧ ((b.slice o).st = .resetting ∨ (b.slice o).st = .rebinding ∨ (b.slice o).st = .deleting)
    let theirs : Prop := ∃ k, Tbl.get? b.hm.slots slot = some k ∧ k.owner ≠ ownerOf o
    (s.AdminOk q e 0xCA onManager →
      (shapeBad → Ends quote s b q e 0 2 0 0)
      ∧ (¬shapeBad → qt ≤ 1 → b.hm.unlocked = true → Ends quote s b q e 0 0x15 0 0)
      ∧ (¬shapeBad → qt ≤ 1 → b.hm.unlocked = false → b.hm.quoting = true → Ends quote s b q e 0 0x0C 0 0)
      ∧ (¬shapeBad → qt ≤ 1 → b.hm.unlocked = false → b.hm.quoting = false → adminPrpBad e len = false →
          let body := b.quoteBody hpv (if qt = 1 then some sl else none) b.hm.idNext nonce
          exec quote s = .next (State.signerNext { b with hm := { b.hm with
            idNext := b.hm.idNext + 1, idRes := if b.hm.idNext < b.hm.idRes then b.hm.idRes else b.hm.idNext + 64
            nvWrites := b.hm.nvWrites + (if b.hm.idNext < b.hm.idRes then 0 else 1), waitQuote := some (.quote q e body) } }))
      ∧ (¬shapeBad → qt = 2 → adminPrpBad e (Data.ofBytes (Config.publicKey identityKey ++ List.replicate 60 0
            ++ identityCertificate ++ b.sealCertificate)).len = false →
          Ends quote s (given (Data.ofBytes (Config.publicKey identityKey ++ List.replicate 60 0 ++ identityCertificate
            ++ b.sealCertificate))) q e 0 0 0 0)
      ∧ (¬shapeBad → qt = 3 → adminPrpBad e (Data.ofBytes (b.encapsKey sl)).len = false →
          Ends quote s (given (Data.ofBytes (b.encapsKey sl))) q e 0 0 0 0))
    ∧ (s.AdminOk q e 0xCE onManager →
      (e.cdw13.toNat * 4 < need → Ends fetch s b q e 0 2 0 0)
      ∧ (need ≤ e.cdw13.toNat * 4 →
        ((∃ m ∈ b.meter.closed, m.minute = minute) → Ends fetch s b q e 0 0x0C 0 0)
        ∧ ((∀ m ∈ b.meter.closed, m.minute ≠ minute) →
          ((∀ y ∈ b.meter.store, y.min.minute ≠ minute) → Ends fetch s b q e 0 2 0 0)
          ∧ ((b.meter.store.find? fun y => y.min.minute = minute) = some x → adminPrpBad e need = false →
            Ends fetch s (given { len := need, parts := (0, sealHeader x.min ++ x.sig) ::
              (if e.cdw12.getLsbD 0 = true then x.min.leaves.mapIdx fun i l => (16384 + 128 * i, l) else []) }) q e 0 0 0 0))))
    ∧ (s.AdminOk q e 0xC9 onManager → act ≠ 1 → s.keysBusy o = false →
      (1 < act ∨ stranger ∨ 4095 < slot → Ends imp s b q e 0 2 1 0)
      ∧ (act = 0 → ¬stranger → slot ≤ 4095 → moving → Ends imp s b q e 7 0x83 0 0)
      ∧ (act = 0 → ¬stranger → slot ≤ 4095 → ¬moving → adminPrpBad e 4096 = false →
        (badImport o slot data (b.openKey o data).1 = true → Ends imp s b q e 0 2 2 0)
        ∧ (badImport o slot data (b.openKey o data).1 = false → theirs → Ends imp s b q e 0 2 3 0)
        ∧ (badImport o slot data (b.openKey o data).1 = false → ¬theirs → b.slotLimit o slot = true → Ends imp s b q e 0 2 4 0)
        ∧ (badImport o slot data (b.openKey o data).1 = false → ¬theirs → b.slotLimit o slot = false →
          (leNat ((data.drop 8).take 4) ≠ (b.importPair o).count → Ends imp s b q e 0 0x0C 0 0)
          ∧ (leNat ((data.drop 8).take 4) = (b.importPair o).count →
            ((b.openKey o data).2 = false → Ends imp s b q e 0 2 5 0)
            ∧ (b.openKey o data = (pt, true) → exec imp s = .next ((b.moved q e.cid false 4096).startCommit
                { src := some (q, e.cid)
                  act := .keyImport o slot (data.getD 1 0).toNat (leNat pt) ((data.drop 32).take 1568) }))))))
    ∧ (s.AdminOk q e 0xC9 onManager → act = 1 → s.keysBusy o = false →
      (stranger ∨ 4095 < slot → Ends emp s b q e 0 2 1 0)
      ∧ (¬stranger → slot ≤ 4095 → moving → Ends emp s b q e 7 0x83 0 0)
      ∧ (¬stranger → slot ≤ 4095 → ¬moving → theirs ∨ Tbl.get? b.hm.slots slot = none → Ends emp s b q e 0 2 3 0)
      ∧ (¬stranger → slot ≤ 4095 → ¬moving → ¬theirs → (Tbl.get? b.hm.slots slot).isSome = true →
          exec emp s = .next (b.startCommit { src := some (q, e.cid), act := .keyEmpty o slot })))
    ∧ (∀ cls key ct,
        let t := s.applyImport o slot cls key ct
        t.hm.gens = Tbl.set s.hm.gens slot (Tbl.getD s.hm.gens slot 0 + 1)
        ∧ t.hm.slots = Tbl.set s.hm.slots slot { cls := cls, owner := ownerOf o, key := key }
        ∧ t.importPair o = { s.importPair o with count := (s.importPair o).count + 1 })

/-- R123 to R128: a migration log starts at the lowest free index and a stop ends it, reporting the records it discards; the
manager's head moves below LOGSIZE and consumes what it passes; when the port carries again each log sends what it holds. A
migration command is refused in the order of the model's checks (log entry 50). -/
def Obligations.MigrationLogsStartStopAndAdvance : Prop :=
  ∀ (s : State) (q : Src) (e : Sqe) (data : List Byte) (n i : Nat) (l : MigLog) (v : W32),
    let b := s.begin q e.cid
    let sl := e.cdw10.toNat % 1024
    let act := e.cdw10.toNat / 65536 % 4
    let m := b.moved q e.cid false 4096
    let size := leNat ((data.drop 8).take 4)
    let base := leNat (data.take 8)
    let start := Instr.migrationLogStart q e data
    let stop := Instr.migrationLogStop q e
    let still : Prop := (b.slice sl).st = .ready ∨ (b.slice sl).st = .parked
    let sized : Prop := ∃ k, k < 15 ∧ size = 256 * 2 ^ k
    let index := v.toNat % 2 ^ 23
    let old : MigLog := { l with head := index, consumed := min l.produced (l.consumed + (index + l.size - l.head) % l.size) }
    (s.AdminOk q e 0xCD onManager → s.keysBusy sl = false → 1 < act → Ends start s b q e 0 2 0 0)
    ∧ (s.AdminOk q e 0xCD onManager → s.keysBusy sl = false → act = 0 → still →
      (findLog b.host.mig sl).isSome = true ∨ 16 ≤ b.host.mig.length → Ends start s b q e 0 0x0C 0 0)
    ∧ (s.AdminOk q e 0xCD onManager → s.keysBusy sl = false → act = 0 → still → findLog b.host.mig sl = none → b.host.mig.length < 16 →
      adminPrpBad e 4096 = false →
        (base % 4096 ≠ 0 ∨ ¬sized → Ends start s m q e 0 2 0 0)
        ∧ (base % 4096 = 0 → sized → n < 16 → Tbl.get? m.host.mig n = none → (∀ k, k < n → Tbl.get? m.host.mig k ≠ none) →
            Ends start s { m with host := { m.host with
              mig := Tbl.set m.host.mig n { slice := sl, base := BitVec.ofNat 64 base, size := size }
              migOld := Tbl.del m.host.migOld n } } q e 0 0 (BitVec.ofNat 32 n) 0))
    ∧ (s.AdminOk q e 0xCD onManager → s.keysBusy sl = false → act = 1 → still →
      (findLog b.host.mig sl = none → Ends stop s b q e 0 0x0C 0 0)
      ∧ (findLog b.host.mig sl = some (i, l) →
          Ends stop s (State.releasePaused { b with host := { b.host with
            mig := Tbl.del b.host.mig i, migOld := Tbl.set b.host.migOld i { l with produced := l.sent } } } sl)
            q e 0 0 (BitVec.ofNat 32 ((l.produced - l.sent) % 65536)) 0))
    ∧ (Tbl.get? s.host.mig n = some l →
      (l.size ≤ index → exec (.migHeadWrite n v) s = .next s)
      ∧ (index < l.size → exec (.migHeadWrite n v) s =
          .next (State.releasePaused { s with host := { s.host with mig := Tbl.set s.host.mig n old } } l.slice)))
    ∧ (Tbl.get? s.host.mig n = none → Tbl.get? s.host.migOld n = some l → index < l.size →
        exec (.migHeadWrite n v) s = .next { s with host := { s.host with migOld := Tbl.set s.host.migOld n old } })
    ∧ (Tbl.get? s.host.mig n = none → Tbl.get? s.host.migOld n = none → exec (.migHeadWrite n v) s = .next s)
    ∧ (s.mgrCarries = false → exec .managerPortRestored s = .next s)
    ∧ (s.mgrCarries = true → s.host.mig = [(n, l)] → exec .managerPortRestored s = .next (
        let again := ((l.recent.filter fun r => r.num < l.sent).reverse ++ (l.recent.filter fun r => l.sent ≤ r.num).reverse).foldl
          (fun (t : State) r => t.sendRec l r) s
        State.releasePaused { again with host := { again.host with mig := Tbl.set again.host.mig n { l with sent := l.produced } } }
          l.slice))

/-- R35, R57 to R64, R78, R102, R157, R164, R167, R202, R223, R224, R230, R254: Flush, Write, Read, Write Zeroes and Dataset Management
end with the first status of their checks; a write's data enters the write buffer when it is admitted, and waits otherwise; a
read looks up the map and ends when its last unit has been read; deallocation frees whole indirection units at once and writes
zeros over parts as a write does. A waiting command is offered again, of the slice with the highest flash balance. What is
admitted of a packed unit, a failed check of protection information, and what stays unfreed when a part fails at once are the
model's (log entries 21, 22, 147). -/
def Obligations.NvmCommandsMoveTheirBlocks : Prop :=
  ∀ (s : State) (q : Src) (e : Sqe) (data : List Byte) (pi : List PiTuple) (sealOk first : Bool) (sl x code k : Nat) (ns : Ns)
    (ranges : List (Nat × Nat)) (w : WaitWrite) (r : IoRead) (v : State) (lost : Bool),
    let b := s.begin q e.cid
    let p := ns.spec
    let len := e.blocks * p.hostBytes e
    let n := e.blocks * p.lba
    let bad : Prop := e.cdw12.extractLsb' 20 4 ≠ 0 ∨ e.cdw12.getLsbD 24 = true ∨ e.mptr ≠ 0 ∨ 2 ^ 21 < len
    let past : Prop := p.nsze < e.slba + e.blocks
    let got := (b.moved q e.cid false len).sealCount q e.cid len
    let bytes := (data ++ got.freeBytes (n - data.length)).take n
    let u := got.drawnN (n - data.length)
    let write := Instr.write q e data pi sealOk
    let tags := if p.fmt ≠ 2 then [] else (List.range e.blocks).map fun i =>
      if p.checked ∧ pract e then e.cdw15.truncate 16 else (pi.getD i ⟨0, 0, 0⟩).app
    let read := Instr.read q e
    let zero := Instr.writeZeroes q e
    let dsm := Instr.datasetManagement q e ranges
    let mine (body : WaitBody) : WaitWrite := { src := q, e := e, nsx := x, slice := sl, body := body }
    let parts := partIus p e.slba e.blocks
    let charged := b.chargeFlash sl 1
    let tag : W16 := if p.checked && pract e then e.cdw15.truncate 16 else 0
    let nr := e.cdw10.toNat % 256 + 1
    let rs := (ranges.take nr).filter fun y => y.2 ≠ 0
    let ds := (charged.moved q e.cid false (16 * nr)).modCmd q e.cid fun f => { f with listed := some rs }
    let cut := rs.flatMap fun y => ((partIus p y.1 y.2).filter fun iu => (Tbl.get? ns.units iu).isSome).map fun iu => (y, iu)
    let freed := rs.foldl (fun (t : State) y => t.freeWhole x y.1 y.2) ds
    let asked (t : State) (m : Nat) : Verdict := t.admission p.mode (m * 8 * p.iuUnits)
    (s.IoOk q e 0 sl false → Ends (.flush q e) s b q e 0 0 0 0)
    ∧ (s.NsOk q e 1 sl x ns [(e.slba, e.blocks)] →
      (bad → Ends write s b q e 0 2 0 0)
      ∧ (¬bad → past → Ends write s b q e 0 0x80 0 0)
      ∧ (¬bad → ¬past → e.dptr.check len = some code → Ends write s b q e 0 code 0 0)
      ∧ (¬bad → ¬past → e.dptr.check len = none →
        ((got.sealOf q e.cid).isSome = true → sealOk = false → Ends write s got q e 0 4 0 0)
        ∧ (got.sealOf q e.cid = none ∨ sealOk = true →
          (piWrite p e bytes pi = some code → Ends write s u q e 2 code 0 0)
          ∧ (piWrite p e bytes pi = none → exec write s = .next (u.offerWrite (mine (.write bytes tags)) true)))))
    ∧ (let y := s.nsx w.nsx
       let keep : State := if first = true then { s with media := { s.media with waits := s.media.waits ++ [w] } } else s
       let gone : State := { s with media := { s.media with
         waits := s.media.waits.filter fun z => !(z.src = w.src && z.e.cid = w.e.cid) } }
       let blocked : Prop := ∃ iu ∈ w.merged y.spec, s.iuLost w.nsx iu = true
       let can (g : Verdict) : Prop := y.readOnly = false ∧ ¬blocked
         ∧ s.admission y.spec.mode ((w.ius y.spec).length * 8 * y.spec.iuUnits) = g
       (y.readOnly = true → (∀ z, w.body ≠ .dsm z) → s.offerWrite w first = gone.complete w.src w.e.cid 0 0x81 0 0)
       ∧ (y.readOnly = true → (∃ z, w.body = .dsm z) → s.offerWrite w first = gone.complete w.src w.e.cid 0 0 0 0)
       ∧ (y.readOnly = false → blocked → s.offerWrite w first = gone.complete w.src w.e.cid 2 0x81 0 0)
       ∧ (can .wait → s.offerWrite w first = keep)
       ∧ (can .full → s.offerWrite w first = (gone.exhaustion w.nsx).complete w.src w.e.cid 0 0x81 0 0)
       ∧ (∀ credit : Rat, can (.go credit) →
           (first = true → s.media.waits ≠ [] → s.offerWrite w first = keep)
           ∧ (first = false ∨ s.media.waits = [] → s.offerWrite w first =
               ({ gone with media := { gone.media with credit := credit } } : State).admitWrite w)))
    ∧ (let owner := if s.media.wthru then some (w.src, w.e.cid) else none
       let t := s.writeBody w owner
       let done : State := { t with media := { t.media with admitted := true } }
       ((∃ y ∈ t.media.buf, y.owner.isSome = true ∧ y.owner = owner) → s.admitWrite w = done)
       ∧ ((∀ y ∈ t.media.buf, y.owner = none ∨ y.owner ≠ owner) → s.admitWrite w = done.complete w.src w.e.cid 0 0 0 0))
    ∧ (s.arbPick s.media.lastWait (·.slice) s.media.waits = none → exec .writeBufferAdmit s = .next s)
    ∧ (s.arbPick s.media.lastWait (·.slice) s.media.waits = some w →
        exec .writeBufferAdmit s = .next
          (({ s with media := { s.media with lastWait := w.slice } } : State).offerWrite w false) ∧ w ∈ s.media.waits
        ∧ (s.slice w.slice).flash ≠ 0
        ∧ ∀ z ∈ s.media.waits, (s.slice z.slice).flash ≠ 0 → (s.slice z.slice).balFlash ≤ (s.slice w.slice).balFlash
            ∧ ((s.slice z.slice).balFlash = (s.slice w.slice).balFlash →
                above s.media.lastWait w.slice ≤ above s.media.lastWait z.slice))
    ∧ (s.NsOk q e 2 sl x ns [(e.slba, e.blocks)] →
      (bad → Ends read s b q e 0 2 0 0)
      ∧ (¬bad → past → Ends read s b q e 0 0x80 0 0)
      ∧ (¬bad → ¬past → e.dptr.check len = some code → Ends read s b q e 0 code 0 0)
      ∧ (¬bad → ¬past → e.dptr.check len = none →
        ((iuRange p e.slba e.blocks).foldl (fun (a : State × Nat × Bool) iu =>
          let z := a.1.readIu b.media.nextIo x e.slba e.blocks iu
          (z.1, a.2.1 + z.2.1, a.2.2 || z.2.2)) (b, 0, false)) = (v, k, lost) →
        let rd : IoRead := { src := q, e := e, nsx := x, left := k, blocks := b.blocksOf x e.slba e.blocks
                             ius := b.extentsOf x e.slba e.blocks, fail := if lost then some (2, 0x81) else none }
        (k = 0 → exec read s = .next (v.endRead rd))
        ∧ (k ≠ 0 → exec read s = .next { v with media := { v.media with
            ios := Tbl.set v.media.ios b.media.nextIo rd, nextIo := b.media.nextIo + 1 } })))
    ∧ (let z := (s.nsx r.nsx).spec
       let blocks := r.blocks.mapIdx fun i y => r.block z i y
       let pis := blocks.mapIdx fun i y => piRead z r.e i (y.map (·.2))
       let torn := r.ius.find? fun y => r.alien y.1 && (r.unpack y.1 y.2).isNone
       (∀ t c, r.fail = some (t, c) → s.endRead r = s.complete r.src r.e.cid t c 0 0)
       ∧ (∀ iu o, r.fail = none → torn = some (iu, o) → s.endRead r = (s.logFault 0x06 4 [0] r.src.slice?
           (match o.loc with
             | .flash set goff => [set, goff]
             | .buffer _ => []) [r.nsx, iu]).complete r.src r.e.cid 2 0x81 0 0)
       ∧ (r.fail = none → torn = none → pis.findSome? id = some code → s.endRead r = s.complete r.src r.e.cid 2 code 0 0)
       ∧ (r.fail = none → torn = none → pis.findSome? id = none →
           s.endRead r = (s.sendIo r.src r.e (readData z r.e blocks)).complete r.src r.e.cid 0 0 0 0)
       ∧ ((∀ y ∈ r.parts, y.alien = false) → torn = none ∧ blocks = r.blocks))
    ∧ (s.NsOk q e 8 sl x ns [(e.slba, e.blocks)] →
      (past → Ends zero s b q e 0 0x80 0 0)
      ∧ (¬past → parts = [] → Ends zero s (charged.freeWhole x e.slba e.blocks) q e 0 0 0 0)
      ∧ (¬past → parts ≠ [] → ns.readOnly = true → Ends zero s charged q e 0 0x81 0 0)
      ∧ (¬past → parts ≠ [] → ns.readOnly = false → (∃ iu ∈ parts, charged.iuLost x iu = true) → Ends zero s charged q e 2 0x81 0 0)
      ∧ (¬past → parts ≠ [] → ns.readOnly = false → (∀ iu ∈ parts, charged.iuLost x iu = false) →
        (asked charged parts.length = .full → Ends zero s (charged.exhaustion x) q e 0 0x81 0 0)
        ∧ (asked charged parts.length ≠ .full →
            exec zero s = .next ((charged.freeWhole x e.slba e.blocks).offerWrite (mine (.zeros tag)) true))))
    ∧ (s.NsOk q e 9 sl x ns rs →
      (e.dptr.check (16 * nr) = some code → Ends dsm s b q e 0 code 0 0)
      ∧ (e.dptr.check (16 * nr) = none →
        ((∃ y ∈ rs, p.nsze < y.1 + y.2) → Ends dsm s ds q e 0 0x80 0 0)
        ∧ ((∀ y ∈ rs, y.1 + y.2 ≤ p.nsze) →
          (e.cdw11.getLsbD 2 = false → Ends dsm s ds q e 0 0 0 0)
          ∧ (e.cdw11.getLsbD 2 = true → ns.readOnly = true ∨ cut = [] → Ends dsm s freed q e 0 0 0 0)
          ∧ (e.cdw11.getLsbD 2 = true → ns.readOnly = false → cut ≠ [] → (∃ y ∈ cut, ds.iuLost x y.2 = true) →
              Ends dsm s ds q e 2 0x81 0 0)
          ∧ (e.cdw11.getLsbD 2 = true → ns.readOnly = false → cut ≠ [] → (∀ y ∈ cut, ds.iuLost x y.2 = false) →
            (asked ds cut.length = .full → Ends dsm s (ds.exhaustion x) q e 0 0x81 0 0)
            ∧ (asked ds cut.length ≠ .full → exec dsm s = .next (freed.offerWrite (mine (.dsm cut)) true))))))

/-- R240 to R251, R374: Billet Load completes with the first status of the table and a load that fails leaves nothing; a
release frees a billet that no Run names; a Run waits for a save area and a core and holds at its first instruction the state
of the table; a run past its SPANLIM ends with Billet Fault, cause 20h, and an ended run completes with its output once its jobs
have stopped, a discarded one posting nothing. Bytes of a billet that the row's operand does not carry are free values (log
entry 4). -/
def Obligations.BilletsLoadAndRunsComplete : Prop :=
  ∀ (s : State) (q : Src) (e : Sqe) (data : List Byte) (sealOk : Bool) (sl code t c n : Nat) (x : Billet) (r : Run) (f : Fetched)
    (z : RunEnd),
    let b := s.begin q e.cid
    let bid := e.cdw10.toNat % 16
    let key := sl * 16 + bid
    let len := e.cdw11.toNat
    let load := Instr.billetLoad q e data sealOk
    let d := (data ++ b.freeBytes (len - data.length)).take len
    let u := (((b.drawnN (len - data.length)).moved q e.cid false len).sealCount q e.cid len).chargeFlash sl ((len + 4095) / 4096)
    let counted := if billetSigned d = true then u.meterUp sl fun m => { m with keyOps := m.keyOps + 1 } else u
    let sized : Prop := 128 ≤ len ∧ len ≤ 524288 ∧ len % 8 = 0 ∧ b.billetPool sl + pageUp len ≤ 524288
    let room : Prop := Tbl.get? b.cpu.billets key = none ∧ sized
    let opened : Prop := (u.sealOf q e.cid = none ∨ sealOk = true)
    let release := Instr.billetRelease q e
    let charged := b.chargeFlash sl 1
    let run := Instr.run q e
    let ent := e.cdw10.toNat / 16 % 16
    let out := e.cdw14.toNat
    let runs (g : Run → Run) : State := { s with cpu := { s.cpu with runs := Tbl.set s.cpu.runs n (g r) } }
    let gone : State := { s with cpu := { s.cpu with runs := Tbl.del s.cpu.runs n } }
    let src : Src := .queue r.ctrl r.sq
    (s.IoOk q e 0x81 sl false →
      ((Tbl.get? b.cpu.billets key).isSome = true → Ends load s b q e 0 0x0C 0 0)
      ∧ (Tbl.get? b.cpu.billets key = none → ¬sized → Ends load s b q e 0 2 0 0)
      ∧ (room → e.dptr.check len = some code → Ends load s b q e 0 code 0 0)
      ∧ (room → e.dptr.check len = none →
        ((u.sealOf q e.cid).isSome = true → sealOk = false → Ends load s u q e 0 4 0 0)
        ∧ (opened → billetCheck d = some ((t, c), code) → Ends load s u q e t c (BitVec.ofNat 32 code) 0)
        ∧ (opened → billetCheck d = none →
          (counted.billetSeal sl d = some code → Ends load s counted q e 7 0x81 (BitVec.ofNat 32 code) 0)
          ∧ (counted.billetSeal sl d = none →
              let smr := counted.eventSmr sl 1 (BitVec.ofNat 8 bid :: List.replicate 7 0 ++ d)
              Ends load s { smr with cpu := { smr.cpu with billets := Tbl.set smr.cpu.billets key (readBillet d) } } q e 0 0 0 0))))
    ∧ (data.take 4 ≠ [0x49, 0x42, 0x4C, 0x54] → billetCheck data = some ((7, 0x81), 1))
    ∧ (data.take 4 = [0x49, 0x42, 0x4C, 0x54] → (data.getD 4 0).toNat < 1 ∨ 2 < (data.getD 4 0).toNat → billetCheck data = some ((7, 0x82), 0))
    ∧ (billetSigned data = false → s.billetSeal sl data = none)
    ∧ (billetSigned data = true → Tbl.get? s.hm.slots (billetSlot data) = none → s.billetSeal sl data = some 9)
    ∧ (∀ k, billetSigned data = true → Tbl.get? s.hm.slots (billetSlot data) = some k → (k.owner ≠ .slice sl ∨ k.cls ≠ 1) →
        s.billetSeal sl data = some 9)
    ∧ (s.IoOk q e 0x80 sl false →
      (Tbl.get? charged.cpu.billets key = none → Ends release s charged q e 0 2 0 0)
      ∧ ((Tbl.get? charged.cpu.billets key).isSome = true →
        (charged.billetUsed sl bid = true → Ends release s charged q e 0 0x0C 0 0)
        ∧ (charged.billetUsed sl bid = false → Ends release s { charged with cpu := { charged.cpu with
            billets := Tbl.del charged.cpu.billets key
            forges := Tbl.mapV charged.cpu.forges fun _ f => { f with
              residents := f.residents.filter fun y => !(y.slice = sl && y.bid = bid) } } } q e 0 0 0 0)))
    ∧ (s.IoOk q e 0x83 sl true →
      (Tbl.get? b.cpu.billets key = none → Ends run s b q e 0 2 0 0)
      ∧ (Tbl.get? b.cpu.billets key = some x →
        (x.entries.getD ent 0xFFFFFFFF = 0xFFFFFFFF ∨ 2097152 < out → Ends run s b q e 0 2 0 0)
        ∧ (x.entries.getD ent 0xFFFFFFFF ≠ 0xFFFFFFFF → out ≤ 2097152 →
          (out ≠ 0 → e.dptr.check out = some code → Ends run s b q e 0 code 0 0)
          ∧ (out = 0 ∨ e.dptr.check out = none → exec run s = .next { b with cpu := { b.cpu with
              runs := Tbl.set b.cpu.runs b.cpu.nextRun
                { slice := sl, ctrl := sliceCtrl sl, sq := srcSq q, cid := e.cid, bid := bid, entry := ent
                  arg0 := e.cdw12 ++ e.cdw11, arg1 := e.cdw13, outLen := out, spanLim := e.cdw15.toNat % 2 ^ 24 }
              nextRun := b.cpu.nextRun + 1 } }))))
    ∧ (let y := firstCtx s r
       y.pc = BitVec.ofNat 64 ((s.billetOf r).entries.getD r.entry 0) ∧ y.regs.lk = exitAddr
       ∧ y.regs.a = #v[r.arg0, r.arg1.zeroExtend 64, BitVec.ofNat 64 r.outLen,
           BitVec.ofNat 64 (0x100000 * (s.slice r.slice).lmLimit), 0, 0, 0, BitVec.ofNat 64 (s.billetOf r).benchSz]
       ∧ y.regs.bc = 0 ∧ y.regs.bs = 0 ∧ y.regs.bd = 0 ∧ y.regs.acc = 0 ∧ y.regs.stop = 0)
    ∧ (s.runAt n = none → exec (.runSaveAreaAcquire n) s = .next s ∧ exec (.spanlimExpiry n) s = .next s ∧ exec (.runComplete n) s = .next s)
    ∧ (s.runAt n = some r →
      (r.ended = none → r.saveArea = true ∨ (s.areas r.slice < 64 ∧ s.areasAll < 1024) →
        exec (.runSaveAreaAcquire n) s = .next (runs fun y => { y with saveArea := true }))
      ∧ (r.saveArea = false → 64 ≤ s.areas r.slice ∨ 1024 ≤ s.areasAll → exec (.runSaveAreaAcquire n) s = .next s)
      ∧ (r.spanLim = 0 ∨ r.spans < r.spanLim ∨ r.ended.isSome = true → exec (.spanlimExpiry n) s = .next s)
      ∧ (r.spanLim ≠ 0 → r.spanLim ≤ r.spans → r.ended = none →
        (∀ k, r.core = some k → exec (.spanlimExpiry n) s =
          .next (s.billetFault k n r (s.core k) 0x20 (s.core k).ctx.pc 0 (s.wordAt k)))
        ∧ (r.core = none → exec (.spanlimExpiry n) s = .next (runs fun y => { y with
            ended := some (faultEnd r { ctx := r.saved, sup := false } 0x20 r.saved.pc 0 0), eng := Tbl.mapV r.eng fun _ => abortCtx })))
      ∧ (r.ended = none → exec (.runComplete n) s = .next s)
      ∧ ((∃ p ∈ r.eng, p.2.busy = true) → exec (.runComplete n) s = .next s)
      ∧ (r.ended = some z → (∀ p ∈ r.eng, p.2.busy = false) →
        (r.discarded = true → exec (.runComplete n) s = .next gone)
        ∧ (r.discarded = false → gone.fetchedAt src r.cid = some f → exec (.runComplete n) s =
            .next ((gone.sendIo src f.e z.output).complete src r.cid z.sct z.sc (BitVec.ofNat 32 z.dw0) (BitVec.ofNat 32 z.dw1)))))

/-- R254 to R264: Local Write and Local Read move aligned ranges within the slice's limit; Sealed Transfer Setup is of slice
interface version 2 and names a queue and a slot of the slice; a Scan's checks give the first status, it waits until every
channel of its range has a program slot and its slice is the one the arbiter picks, and completes after its last unit with an error, STRICT, the output's length or the
output, in this order. -/
def Obligations.LocalMemoryScansAndSealedTransfers : Prop :=
  ∀ (s : State) (q : Src) (e : Sqe) (data : List Byte) (sealOk : Bool) (sl x code step t c i n : Nat) (ns : Ns) (r : Scan)
    (f : Fetched),
    let b := s.begin q e.cid
    let off := e.cdw10.toNat + 2 ^ 32 * e.cdw11.toNat
    let len := e.cdw12.toNat
    let win := 0x100000 * (b.slice sl).lmLimit
    let badRange : Prop := off % 64 ≠ 0 ∨ len % 64 ≠ 0 ∨ len < 64 ∨ 2097152 < len ∨ win < off + len
    let u := (((b.drawnN (len - data.length)).moved q e.cid false len).sealCount q e.cid len).chargeFlash sl ((len + 4095) / 4096)
    let lw := Instr.localWrite q e data sealOk
    let lr := Instr.localRead q e
    let setup := Instr.sealedTransferSetup q e data
    let sq := e.cdw10.toNat % 128
    let on := e.cdw10.getLsbD 16
    let tag := leNat (data.take 8)
    let m := b.moved q e.cid false 4096
    let owned : Prop := ∃ k, Tbl.get? m.hm.slots (e.cdw11.toNat % 65536) = some k ∧ k.owner = .slice sl ∧ k.cls = 1
    let there : Prop := 1 ≤ sq ∧ sq ≤ 64 ∧ (Tbl.get? (m.ctrl (sliceCtrl sl)).sqs sq).isSome = true ∧ owned
    let scan := Instr.scan q e
    let p := ns.spec
    let at_ := e.cdw13.toNat * 4096
    let prog := b.progAt sl at_
    let out := e.cdw14.toNat
    let past : Prop := e.slba * p.lba % 4096 ≠ 0 ∨ p.nsze * p.lba < e.slba * p.lba + len * 4096
    let badLen : Prop := len = 0 ∨ out < 64 ∨ 2097152 < out ∨ out % 64 ≠ 0 ∨ win < at_ + 64 ∨ win < at_ + prog.length
    let src : Src := .queue r.ctrl r.sq
    let left := s.dropScan n r
    let done (t c d0 d1 : Nat) : State := left.complete src r.cid t c (BitVec.ofNat 32 d0) (BitVec.ofNat 32 d1)
    let fin := Instr.scanComplete n
    let pick := s.arbPick s.cpu.lastSlot (·.2.slice) (s.cpu.scans.filter fun y => s.scanCan y.2)
    let chans := ((s.scanUnits r).filterMap fun j => (s.scanUnit r j).map fun y => y.2.2).eraseDups
    let feed (z : State) (j : Nat) : State := match z.scanUnit r j with
      | none => z
      | some (o, u, ch) => match o.loc with
        | .buffer _ => z.feedScan n j ch (Mem.read (Mem.slice o.data (u * 4096) 4096) 0 4096)
        | .flash set g =>
          if z.media.unitLost set (g / 8 + u) = true then
            z.modScan n fun y => { y with failed := if y.failed.isSome then y.failed else some (2, 0x81, j) }
          else (z.modScan n fun y => { y with waiting := y.waiting + 1 }).issueRead (.scan n j) r.nsid
            ((r.unit0 + j) / (z.nsx r.nsid).spec.iuUnits) u set g
    (s.IoOk q e 0x85 sl false →
      (badRange → Ends lw s b q e 0 2 0 0)
      ∧ (¬badRange → e.dptr.check len = some code → Ends lw s b q e 0 code 0 0)
      ∧ (¬badRange → e.dptr.check len = none →
        ((u.sealOf q e.cid).isSome = true → sealOk = false → Ends lw s u q e 0 4 0 0)
        ∧ (u.sealOf q e.cid = none ∨ sealOk = true →
            Ends lw s (u.localWrite sl off ((data ++ b.freeBytes (len - data.length)).take len)) q e 0 0 0 0)))
    ∧ (s.IoOk q e 0x86 sl false →
      (badRange → Ends lr s b q e 0 2 0 0)
      ∧ (¬badRange → e.dptr.check len = some code → Ends lr s b q e 0 code 0 0)
      ∧ (¬badRange → e.dptr.check len = none → Ends lr s ((b.chargeFlash sl ((len + 4095) / 4096)).sendIo q e
          { len := len, parts := Mem.parts (Mem.slice (b.localMem sl) off len) }) q e 0 0 0 0))
    ∧ (s.IoOk q e 0x89 sl false →
      ((b.slice sl).verSel ≠ 2 → Ends setup s b q e 0 1 0 0)
      ∧ ((b.slice sl).verSel = 2 → e.dptr.check 4096 = some code → Ends setup s b q e 0 code 0 0)
      ∧ ((b.slice sl).verSel = 2 → e.dptr.check 4096 = none →
        (¬there ∨ (on = true ∧ tag % 4096 ≠ 0) → Ends setup s m q e 0 2 0 0)
        ∧ (there → (on = true → tag % 4096 = 0) → Ends setup s ((m.modSq (sliceCtrl sl) sq fun y => { y with
            sealing := if on = true then some { slot := e.cdw11.toNat % 65536, tagBase := BitVec.ofNat 64 tag
                                                salt := BitVec.ofNat 32 (leNat ((data.drop 8).take 4)) } else none }).meterUp sl
            fun y => { y with keyOps := y.keyOps + 1 }) q e 0 0 0 0)))
    ∧ (s.NsOk q e 0x82 sl x ns [(e.slba, len * (4096 / p.lba))] →
      (p.packed = true → Ends scan s b q e 0 0x0B 0 0)
      ∧ (p.packed = false → past → Ends scan s b q e 0 0x80 0 0)
      ∧ (p.packed = false → ¬past → badLen → Ends scan s b q e 0 2 0 0)
      ∧ (p.packed = false → ¬past → ¬badLen → e.dptr.check out = some code → Ends scan s b q e 0 code 0 0)
      ∧ (p.packed = false → ¬past → ¬badLen → e.dptr.check out = none →
        (progCheck prog = some (code, step) → Ends scan s b q e 0 2 (BitVec.ofNat 32 (code + 256 * step)) 0)
        ∧ (progCheck prog = none → exec scan s = .next { b with cpu := { b.cpu with
            scans := Tbl.set b.cpu.scans b.cpu.nextScan
              { slice := sl, ctrl := sliceCtrl sl, sq := srcSq q, cid := e.cid, nsid := x, unit0 := e.slba * p.lba / 4096
                nunit := len, prog := prog, outLen := out }
            nextScan := b.cpu.nextScan + 1 } })))
    ∧ (Tbl.get? s.cpu.scans n = none → exec (.scanSlotAcquire n) s = .next s ∧ exec fin s = .next s)
    ∧ (s.scanCan r = true ↔ r.slot = false ∧ r.discarded = false ∧ ∀ j ∈ chans, Tbl.getD s.cpu.progSlots j 0 < 8)
    ∧ (pick = none → exec (.scanSlotAcquire n) s = .next s)
    ∧ (∀ y, pick = some y →
        (y.1 ≠ n → exec (.scanSlotAcquire n) s = .next s)
        ∧ y ∈ s.cpu.scans ∧ s.scanCan y.2 = true ∧ (s.slice y.2.slice).flash ≠ 0
        ∧ ∀ z ∈ s.cpu.scans, s.scanCan z.2 = true → (s.slice z.2.slice).flash ≠ 0 →
            (s.slice z.2.slice).balFlash ≤ (s.slice y.2.slice).balFlash)
    ∧ (Tbl.get? s.cpu.scans n = some r →
      (pick = some (n, r) →
          exec (.scanSlotAcquire n) s = .next ((s.scanUnits r).foldl feed { s with cpu := { s.cpu with
            progSlots := chans.foldl (fun (z : Tbl Nat) j => Tbl.set z j (Tbl.getD z j 0 + 1)) s.cpu.progSlots
            lastSlot := r.slice
            scans := Tbl.set s.cpu.scans n { r with
              slot := true
              accs := chans.foldl (fun (z : Tbl (List Nat)) j => Tbl.set z j ((progKinds r.prog).map accInit)) [] } } }))
      ∧ (r.discarded = true → exec fin s = .next left)
      ∧ (r.discarded = false → r.slot = false ∨ r.waiting ≠ 0 → exec fin s = .next s)
      ∧ (r.discarded = false → r.slot = true → r.waiting = 0 →
        (r.failed = some (t, c, i) → exec fin s = .next (done t c i 0))
        ∧ (r.failed = none → progStrict r.prog = true → 0 < r.frameErr → exec fin s = .next (done 7 0x86 (r.firstErr.getD 0) 0))
        ∧ (r.failed = none → progStrict r.prog = false ∨ r.frameErr = 0 →
          (r.outLen < r.output.length → exec fin s = .next (done 7 0x80 r.output.length 0))
          ∧ (r.output.length ≤ r.outLen → left.fetchedAt src r.cid = some f → exec fin s =
              .next ((left.sendIo src f.e (Data.ofBytes r.output)).complete src r.cid 0 0 (BitVec.ofNat 32 r.output.length)
                (BitVec.ofNat 32 (min r.frameErr 0xFFFFFFFF)))))))

/-- R23, R30, R31, R102, R192 to R206, R209, R216, R218 to R222: a die takes a waiting read with the thresholds tracked then, as its
channel's read buffer has room. A codeword that fails at a step goes to the next, one of a failed member to step 6, and after
step 6, or with too few zeros at a hard step, the unit is unrecoverable; the whole ladder takes at most 19 page reads. A decode
that succeeds updates the tracked values of its step and its columns, is counted from step 3 on, and is checked: a unit whose
check fails is read again at step 4, then at step 6, then ends with its status. Reconstruction needs a protected stripe with no
other page out. The metadata of a unit reads back as written, and the check of R220 answers poisoned, a failure or the
plaintext, on its bytes and on a unit that is as programmed. -/
def Obligations.FlashReadsClimbTheLadder : Prop :=
  ∀ (s : State) (n : Nat) (r : MediaRead) (dec : Decode) (sense : Sense) (bytes : Option (List Byte)),
    let read := Instr.flashReadComplete n dec sense bytes
    let soft := Instr.softDecodeComplete n dec sense bytes
    let m := s.media
    let b := m.set r.set
    let chan := m.unitChan r.set r.off
    let die := m.unitDie r.set r.off
    let passes : Prop := dec.erased r.step = false ∧ dec.good r.step = true ∧ (r.step < 6 ∨ m.canRebuild r.set r.off = true)
    let fails : Prop := dec.erased r.step = false ∧ ¬(dec.good r.step = true ∧ (r.step < 6 ∨ m.canRebuild r.set r.off = true))
    (∀ d : Nat,
        (m.dieReads d true ≠ [] → s.kickDie d = s)
        ∧ (m.dieReads d true = [] → s.nextRead d = none → s.kickDie d = s)
        ∧ (∀ k x, m.dieReads d true = [] → s.nextRead d = some (k, x) →
            let room := m.readBuf (d % 32) + (m.set x.set).cell.codeword ≤ 131072
            (¬room → s.kickDie d = s)
            ∧ (room → x.device = true → s.kickDie d = (s.modRead k fun y => { y with
                issued := true, thr := (m.trackOf y.set y.off).offsets (m.set y.set).cell }).modMedia fun z => { z with
                  turn := insNat d z.turn })
            ∧ (room → x.device = false → s.kickDie d = ((s.modRead k fun y => { y with
                issued := true, thr := (m.trackOf y.set y.off).offsets (m.set y.set).cell }).chargeFlash x.slice 1).modMedia
                  fun z => { z with turn := delNat d z.turn, lastDie := Tbl.set z.lastDie d x.slice })))
    ∧ (Tbl.get? m.reads n = none → exec read s = .next s ∧ exec soft s = .next s)
    ∧ (Tbl.get? m.reads n = some r →
      (r.issued = true → r.step = 1 ∨ r.step = 3 ∨ r.step = 6 → exec read s =
          .next (State.sweepProgs (({ s with media := { m with late := delNat die m.late } } : State).decoded n r dec sense bytes)))
      ∧ (r.issued = false ∨ (r.step ≠ 1 ∧ r.step ≠ 3 ∧ r.step ≠ 6) → exec read s = .next s)
      ∧ (∀ j u, r.soft = some j → j.unit = some u → exec soft s = .next (s.decoded n r dec sense bytes).sweepProgs)
      ∧ ((∀ j, r.soft = some j → j.unit = none) → exec soft s = .next s))
    ∧ (∀ k, (dec.erased k = true ↔ (k = 1 ∨ k = 3) ∧ dec.zeros < 64)
        ∧ (dec.good k = true ↔ ∃ i, dec.iters = some i ∧ i ≤ if k = 2 ∨ k = 4 ∨ k = 5 then 40 else 24))
    ∧ (dec.erased r.step = true → s.decoded n r dec sense bytes = (s.track r id).unrecoverable n r)
    ∧ (fails → r.step = 6 → s.decoded n r dec sense bytes = s.unrecoverable n r)
    ∧ (fails → r.step ≠ 6 → r.dropped = true → s.decoded n r dec sense bytes = s.dropRead n)
    ∧ (fails → r.step ≠ 6 → r.dropped = false →
        let next := if m.dieOut die = true then 6 else r.step + 1
        let u := if next = 4 then (s.track r id).stepFour r else s.track r id
        let v := u.modRead n fun x => { x with auth := if next = 6 ∧ x.auth = 1 then 2 else x.auth }
        s.decoded n r dec sense bytes = (v.enterStep n next 5).softServe (softGroup chan) 6)
    ∧ (passes →
        let kept := if r.step = 1 ∨ r.step = 3 then s.tracked r dec sense
          else if r.step = 5 then s.track r fun t => { t with o := clampInt (-32768) 32512 (t.o + 256 * r.kept) } else s
        let seen := if r.step = 6 then kept
          else ((dec.fixes.map (·.1)).eraseDups).foldl (fun (t : State) c => t.columnHit die c (r.set * 2 ^ 16 + m.wordline r.set r.off)) kept
        s.decoded n r dec sense bytes = (seen.recovered r).authCheck n r bytes)
    ∧ (r.step < 3 → s.recovered r = s)
    ∧ (3 ≤ r.step → s.recovered r = ({ s with media := m.modChan chan fun x => { x with recov := min 255 (x.recov + 1) } } : State).queueRefresh
        r.nsx r.iu)
    ∧ (∀ (c : Cell) (thr : List Int) (kept : Int),
        (ladderSenses c thr kept 1).length = 1 ∧ (ladderSenses c thr kept 2).length = 2 ∧ (ladderSenses c thr kept 3).length = 1
        ∧ (ladderSenses c thr kept 4).length = 4 ∧ (ladderSenses c thr kept 5).length = 11
        ∧ ∀ k, ∀ l ∈ ladderSenses c thr kept k, l.length = thr.length)
    ∧ (∀ (t : Track) (c : Cell) (n10 n01 : Nat) (up : Bool),
        let y := trackUpdate t c sense n10 n01 up
        (-32768 : Int) ≤ y.o ∧ y.o ≤ 32512 ∧ (c = .slc → y.g = t.g ∧ y.a = t.a) ∧ (c ≠ .slc → -524288 ≤ y.g ∧ y.g ≤ 524032)
        ∧ (sense.p1 = false → y.a = t.a) ∧ (c ≠ .slc → sense.p1 = true → -16384 ≤ y.a ∧ y.a ≤ 16128))
    ∧ (let v := if r.device = true then s else s.laneKey (s.checkChan r) r.nsx r.gen
       let kind := ((v.media.storedAt r.set r.off).map (·.kind)).getD 0
       (v.found r bytes = .poisoned → s.authCheck n r bytes = v.unitFail n r 2 0x81)
       ∧ (∀ body app alien, v.found r bytes = .good body app alien →
           let w := match bytes, v.media.storedAt r.set r.off with
             | some y, some u => if r.step = 6 then v else v.storeUnit r.set r.off { u with raw := some y }
             | _, _ => v
           s.authCheck n r bytes = (if r.auth ≠ 0 then w.queueRefresh r.nsx r.iu else w).unitOk n r body app alien)
       ∧ (v.found r bytes = .authFail →
         (r.dropped = true → s.authCheck n r bytes = v.dropRead n)
         ∧ (r.dropped = false → r.auth = 0 → r.step ≠ 6 →
             s.authCheck n r bytes = (v.modRead n fun x => { x with auth := 1 }).enterStep n 4 5)
         ∧ (r.dropped = false → r.auth = 1 ∨ (r.auth = 0 ∧ r.step = 6) →
             s.authCheck n r bytes = (v.modRead n fun x => { x with auth := 2, soft := none, step := 6 }).softServe (softGroup chan) 6)
         ∧ (r.dropped = false → 2 ≤ r.auth → s.authCheck n r bytes =
             (v.logFault 0x05 4 [chan] (some r.slice) [r.set, r.off]
               [r.nsx, r.iu * (v.nsx r.nsx).spec.iuUnits + r.unit, kind]).unitFail n r 7 0x85))
       ∧ (r.device = true → v.found r bytes = .good (.bytes []) 0 false))
    ∧ (∀ off, let page := m.unitPage r.set off
        (b.naked.contains page = true → m.canRebuild r.set off = false)
        ∧ (∀ c, c < 32 → c ∉ b.out → c ≠ m.unitChan r.set off → m.pageOut r.set page c = true → m.canRebuild r.set off = false))
    ∧ (∀ (u : Stored) (ask : UnitAsk) (key : Nat) (ct tag : List Byte), u.kind < 16 → u.nsx < 4096 → u.ulba < 2 ^ 40 → u.seq < 2 ^ 56 →
        ct.length = 4096 → tag.length = 16 →
        let found := ct ++ tag ++ u.fields
        let v := (ask.binds u).2
        let aad := v.aad (ask.binds u).1
        u.fields.length = 16
        ∧ Stored.read u.fields = { kind := u.kind, nsx := u.nsx, ulba := u.ulba, seq := u.seq, app := u.app }
        ∧ (u.kind = 15 → checkUnit key ask found = .poisoned)
        ∧ (u.kind ≠ 15 → u.kind ∉ ask.allows → checkUnit key ask found = .authFail)
        ∧ (u.kind ≠ 15 → u.kind ∈ ask.allows → Config.gcmTag key v.iv aad ct ≠ tag → checkUnit key ask found = .authFail)
        ∧ (u.kind ≠ 15 → u.kind ∈ ask.allows → Config.gcmTag key v.iv aad ct = tag →
            checkUnit key ask found = .plain (Config.gcmDecrypt key v.iv aad ct)))
    ∧ (∀ (u : Stored) (ask : UnitAsk) (key : Nat), u.raw = none →
        (u.kind = 15 → checkStored (some u) none key ask = .poisoned)
        ∧ (u.kind ≠ 15 → u.kind ∈ ask.allows → u.key = key → ask.binds u = (u.slice, u) →
            checkStored (some u) none key ask = .good u.body u.app false)
        ∧ (u.kind ≠ 15 → u.kind ∉ ask.allows ∨ u.key ≠ key ∨ ask.binds u ≠ (u.slice, u) →
            checkStored (some u) none key ask = .authFail))
    ∧ (∀ (u : Stored) (slice nsx index : Nat),
        (UnitAsk.plain slice nsx index).binds u = (slice, { u with nsx := nsx, ulba := index })
        ∧ (u.kind = 2 → (UnitAsk.packed slice nsx index).binds u = (slice, { u with nsx := nsx }))
        ∧ (u.kind ≠ 2 → (UnitAsk.packed slice nsx index).binds u = (slice, { u with nsx := nsx, ulba := index })))

/-- R36, R155, R168, R169, R172 to R175, R182, R183, R187, R197, R204, R205, R210, R225, R229, R462, R463: a program that fails
closes its set, marks its block and is written elsewhere, a parity page leaving its stripe unprotected; a CRC mismatch sends it
again, the third failing the channel; data pages enter their truss buffer by XOR. Units move as they are stored, an unrecoverable
one as a poisoned unit. Erases, exchanges, dies that stay busy, rate changes, sample reads and map segments follow their rules. -/
def Obligations.FlashProgramsErasesAndSegmentsFollowTheirRules : Prop :=
  ∀ (s : State) (n : Nat) (p : Prog) (trained : Bool) (failed : List Nat) (k c d w : Nat) (cell : Nat),
    let media (f : Media → Media) : State := { s with media := f s.media }
    let m := s.media
    let b := m.set k
    let g := Tbl.getD m.segs k {}
    let ch := m.chan c
    let piers := s.dev.smart.piers
    let mode : Cell := if cell = 0 then .slc else if cell = 1 then .tlc else if cell = 2 then .qlc else .plc
    let touched := (Tbl.getD m.track (trackKey d mode w) {}).touched
    let held := m.sampleUnit d mode w
    let q := p.chans.headD 0
    let runs : Prop := Tbl.get? m.progs n = some p ∧ p.redo = false ∧ p.waiting = false
    let marked := media fun m => m.modSet p.set fun y => { y with marked := insNat q y.marked }
    let sent (t : State) (x : Prog) : State := { t with media := { t.media with progs := Tbl.set t.media.progs n x } }
    let slow := State.startRate (media fun m => m.modChan q fun x => { x with retrain := x.retrain + 1 }) q 3200
    let erasing (t : State) : State := State.sweepProgs (t.modMedia fun m => m.modSet k fun y => { y with st := .erasing, marked := [] })
    let traded := s.exchange k b.marked
    (Tbl.get? m.progs n = none → ∀ e, exec (.flashProgramComplete n e) s = .next s)
    ∧ (Tbl.get? m.progs n = some p → p.redo = true ∨ p.waiting = true → ∀ e, exec (.flashProgramComplete n e) s = .next s)
    ∧ (runs →
      (exec (.flashProgramComplete n .ok) s = .next (s.programOk n p))
      ∧ (exec (.flashProgramComplete n .failed) s = .next (marked.redoProgram n p))
      ∧ (p.resent = 2 → exec (.flashProgramComplete n .crcMismatch) s = .next (s.failChannel q 2).sweepProgs)
      ∧ (p.resent ≠ 2 → m.crcOn q = false → exec (.flashProgramComplete n .crcMismatch) s = .next s)
      ∧ (p.resent = 0 → m.crcOn q = true → exec (.flashProgramComplete n .crcMismatch) s =
          .next (sent s { p with resent := 1, waiting := false }))
      ∧ (p.resent = 1 → m.crcOn q = true → exec (.flashProgramComplete n .crcMismatch) s =
          .next (sent slow { p with resent := 2, waiting := (slow.media.chan q).next.isSome })))
    ∧ (m.crcOn c = true ↔ m.sig.getLsbD 1 = true ∧ 3600 < ch.rate)
    ∧ (let t := s.cutSet p.set
       (∀ page, p.parity = some page → s.redoProgram n p = t.parityLost n p page
         ∧ s.programOk n p = (s.parityDone p.set page).dropProg n p)
       ∧ (p.parity = none → p.redo = true → s.redoProgram n p = (t.rewriteProgram n p false).settle p.set)
       ∧ (p.parity = none → p.redo = false → s.redoProgram n p = (State.rewriteProgram { t with media := { t.media with
           subs := t.media.subs ++ p.chans.map fun x => ⟨p.set, t.media.unitPage p.set p.first, x, none⟩ } } n p false).settle p.set))
    ∧ (∀ page i, Tbl.get? (s.trussPage k page i).media.truss (stripeKey k page) =
        some (xorBytes (Tbl.getD m.truss (stripeKey k page) (List.replicate (m.planes * m.pageBytes) 0)) (m.pageData k page i)))
    ∧ (m.formed = false ∨ s.rel.fault = true ∨ s.dev.pwr.plpWarn = true → exec (.stagingProgramDispatch n) s = .next s)
    ∧ (m.formed = true → s.rel.fault = false → s.dev.pwr.plpWarn = false →
        exec (.stagingProgramDispatch n) s = .next (s.dispatchProgram n false))
    ∧ (s.stagingSet (m.nextPos % max 1 m.dpos) false = none → s.dispatchProgram n false = s)
    ∧ (∀ x t, s.stagingSet (m.nextPos % max 1 m.dpos) false = some (x, t) → (t.media.set x).cursor < t.media.cap (t.media.set x) →
        s.nextItem false = none → m.jopen = 0 → s.dispatchProgram n false = s)
    ∧ (∀ dest first count i u x t, s.copyRun k first count [] dest = (x, t) → dest ≠ k → (m.set dest).packed = none →
        first + count ≤ 2 ^ 20 → x / 8 + count ≤ 2 ^ 20 → i < count → m.storedAt k (first + i) = some u →
        t.media.storedAt dest (x / 8 + i) = some (if u.lost = true then
          { u with kind := 0xF, app := 0, body := .bytes [], raw := none, lost := false } else u))
    ∧ (m.dies ≤ d ∨ m.dieActive d = false → exec (.dieBusyTimeout d) s = .next s)
    ∧ (d < m.dies → m.dieActive d = true →
        (d ∉ m.late → exec (.dieBusyTimeout d) s = .next (media fun m => { m with late := insNat d m.late }))
        ∧ (d ∈ m.late → exec (.dieBusyTimeout d) s = .next (s.failDie d 1).sweepProgs))
    ∧ (b.st ≠ .stale ∨ s.dev.pwr.plpWarn = true ∨ (∃ y ∈ m.reads, y.2.set = k) → exec (.staleSetErase k) s = .next s)
    ∧ (b.st = .stale → s.dev.pwr.plpWarn = false → (∀ y ∈ m.reads, y.2.set ≠ k) →
        ((traded.media.set k).st = .retired → exec (.staleSetErase k) s = .next traded.sweepProgs)
        ∧ ((traded.media.set k).st ≠ .retired → exec (.staleSetErase k) s = .next (erasing traded)))
    ∧ (b.st ≠ .erasing ∨ (s.dev.pwr.plpWarn = true ∧ m.suspends = true) → exec (.flashEraseComplete k failed) s = .next s)
    ∧ (b.st = .erasing → s.dev.pwr.plpWarn = false ∨ m.suspends = false →
      (failed ≠ [] → exec (.flashEraseComplete k failed) s =
        .next (s.exchange k (failed.filter fun y => decide (y < 32))).sweepProgs)
      ∧ ∃ t : State, exec (.flashEraseComplete k []) s = .next t
        ∧ t.media.set k = { b with
            st := .erased, valid := 0, cursor := 0, packed := none, exts := [], degraded := false, naked := []
            eecs := b.eecs.mapIdx fun i x => if b.out.contains i then x else x + m.weight b.cell }
        ∧ t.media.stored = m.stored.filter (fun y => y.1 / 2 ^ 20 ≠ k)
        ∧ (32 ≤ t.freeSets → t.media.credit = 0) ∧ (t.freeSets < 32 → t.media.credit = m.credit)
        ∧ (64 < t.freeSets → t.media.exhaust = false))
    ∧ (piers < touched + 100 ∨ s.time.span % 10 ≠ 9 ∨ s.dev.pwr.plpWarn = true ∨ held = none → exec (.sampleRead d cell w) s = .next s)
    ∧ (∀ x iu u set goff, held = some (x, iu, u, set, goff) →
        (touched + 100 ≤ piers → s.time.span % 10 = 9 → s.dev.pwr.plpWarn = false →
          exec (.sampleRead d cell w) s = .next (s.issueRead .sample x iu u set goff))
        ∧ (m.set set).cell = mode ∧ m.unitDie set (goff / 8 + u) = d ∧ m.wlGroup set (goff / 8 + u) = w
        ∧ m.unitLost set (goff / 8 + u) = false)
    ∧ ((g.touched < 65536 ∧ piers < g.written + 600) ∨ s.dev.pwr.plpWarn = true ∨ s.writeSegment k = none →
        exec (.mapSegmentRewrite k) s = .next s)
    ∧ (∀ l t, s.writeSegment k = some (l, t) →
        (65536 ≤ g.touched ∨ g.written + 600 ≤ piers → s.dev.pwr.plpWarn = false → exec (.mapSegmentRewrite k) s = .next (
          let z := (t.segmentDone k l).keeperData 0
          { z with media := { z.media with trackSaved := z.media.track } }))
        ∧ l.length = 1024 ∧ (t.mediaKey 4096).seq = (s.mediaKey 4096).seq + 1024)
    ∧ (∀ j set off t, s.writeMapUnit k j = some (set, off, t) → ∃ u, t.media.storedAt set off = some u ∧ u.kind = 8 ∧ u.nsx = 0
        ∧ u.ulba = k ∧ u.seq = (s.mediaKey 4096).seq ∧ u.key = (s.mediaKey 4096).key)
    ∧ (ch.next = none → exec (.rateChangeComplete c trained) s = .next s)
    ∧ (ch.next = some w →
      (exec (.rateChangeComplete c true) s = .next (media fun m => { m.modChan c fun y => { y with
            rate := w, next := if y.then_ = some w then none else y.then_, then_ := none, retrain := 0 } with
          progs := Tbl.mapV m.progs fun _ x => if x.chans.contains c then { x with waiting := false } else x }))
      ∧ (w ≤ 800 → exec (.rateChangeComplete c false) s = .next (s.failChannel c 1).sweepProgs)
      ∧ (800 < w → exec (.rateChangeComplete c false) s = .next (State.modMedia (s.logFault 0x03 2 [c] none [0] [w, lowerRate w])
          fun m => m.modChan c fun y => { y with next := some (lowerRate w) })))
    ∧ lowerRate 4800 = 3200 ∧ lowerRate 3200 = 1600 ∧ lowerRate 1600 = 800

/-- R105, R107 to R118, R131, R520: a span tick advances the span and does the steps of the table in their order; a pier begins
span 0 with its source, its seconds count and the holdover condition as the rules give them; an edge of TIMEPULSE is a pier in
its window, the third of three spurious ones in step relocks, another is counted, and with none the device coasts; the spans a
pier cuts short still tick. A change of source that moves the phase is a phase step of its exact size. Three PTM dialogues in a
row decide whether PTM is usable. That a return of the source on whose grid the device coasts is no change of source is the
model's reading (log entry 27). -/
def Obligations.SpansAndPiersKeepTime : Prop :=
  ∀ (s : State) (env : TickEnv) (act e sl n : Nat) (secs : Option W64) (step : Option Int) (v : W64) (w : W32) (a b : Nat) (o : Int),
    let t := s.time
    let live : Prop := s.dev.pwr.rails = true ∧ s.dev.pwr.perst = false
    let tick := Instr.spanTick env
    let near (x y : Nat) : Prop := x ≤ y + 250 ∧ y ≤ x + 250
    let time (f : Time → Time) : State := { s with time := f s.time }
    let chain := e :: (t.edges.take 1).filter fun x => e ≤ x + 1000250 && x + 1000000 ≤ e + 250
    let idle : TickEnv := ⟨[], s.dram.hot, [], [], 0, [], []⟩
    let z := s.cutSpans
    let calm : State := { s with dev := { s.dev with side := { s.dev.side with fresh := false } } }
    let far : Prop := ∃ k : Int, (e : Int) - t.expected = o + 1000000 * k ∧ -500000 ≤ o ∧ o < 500000
    let moved (src : BitVec 2) : Option Int := if t.begun = true ∧ t.grid ≠ src ∧ o ≠ 0 then some o else none
    let pulse : Prop := t.src = 2 ∨ (t.src = 0 ∧ t.ptm = false)
    let waiting : Prop := t.dialogue = true
    let x := s.slice sl
    let good : Time := { t with dialogue := false, ptmOk := min 3 (t.ptmOk + 1), ptmFail := 0
                                ptm := t.ptm || 2 ≤ t.ptmOk }
    let failed : Time := { t with dialogue := false, ptmOk := 0, ptmFail := min 3 (t.ptmFail + 1)
                                  ptm := t.ptm && t.ptmFail < 2 }
    (999 ≤ t.span ∨ ¬live → exec tick s = .next s)
    ∧ (t.span < 999 → live → exec tick s = .next (State.tick { s with
        time := { t with span := t.span + 1 }, dev := { s.dev with pwr := { s.dev.pwr with pierOut := false } } } env))
    ∧ (s.dev.pwr.phase ≠ 5 ∨ s.rel.fault = true → s.tick env = calm)
    ∧ (s.dev.pwr.phase = 5 → s.rel.fault = false →
        let shared := calm.sampleMeters.applyShares
        let given := (State.creditAll { shared with dev := { shared.dev with level := nextLevel shared.dev.level shared.dev.temp } }).stepCores
        s.tick env = State.stepMedia (((((given.dispatchJobs .crucible).dispatchJobs .assay).dispatchJobs .cipher).dispatchJobs
          .softDecoder)) env)
    ∧ s.sampleMeters.meter.slices = (s.meter.slices.map fun p => if p.2.closed = true then p else (p.1, { p.2 with
        spans := p.2.spans + 1, total := p.2.total.add p.2.cur, cur := {}, stored := p.2.stored + s.storedBytes p.1
        local4k := p.2.local4k + (Tbl.getD s.dram.clear p.1 []).length, closed := p.2.closing }))
    ∧ (∀ bal : Int, creditBal true bal n = min (bal + n) (2 * n) ∧ creditBal false bal n = min bal 0)
    ∧ (999 ≤ t.span → z = s)
    ∧ (t.span = 998 → z = State.tick (time fun y => { y with span := 999 }) idle)
    ∧ (∃ u : State, s.takePier act secs step env = (u.tick env).meterPier step.isSome ∧ u.time.span = 0 ∧ u.time.act = BitVec.ofNat 2 act
        ∧ (∀ y, secs = some y → u.time.pier = y)
        ∧ (secs = none → (∀ y, z.time.write = some y → u.time.pier = y)
          ∧ (z.time.write = none → u.time.pier = if z.time.begun = true then z.time.pier + 1 else 0))
        ∧ u.time.write = none ∧ u.time.begun = true ∧ u.time.src = z.time.src ∧ u.time.expected = z.time.expected
        ∧ (act ≠ 3 → u.time.lock = true ∧ u.time.hold = false ∧ u.time.miss = 0 ∧ u.time.coasted = 0 ∧ u.time.extern = true
          ∧ u.time.grid = BitVec.ofNat 2 act)
        ∧ (act = 3 → z.time.src = 3 ∨ (z.time.src = 0 ∧ z.time.extern = false) → u.time.lock = false ∧ u.time.hold = true
          ∧ u.time.miss = 0 ∧ u.time.grid = 0)
        ∧ (act = 3 → z.time.src ≠ 3 → z.time.src ≠ 0 ∨ z.time.extern = true → u.time.lock = false
          ∧ u.time.miss = min 15 (z.time.miss + 1) ∧ u.time.hold = (z.time.hold || 9 ≤ z.time.coasted) ∧ u.time.grid = z.time.grid)
        ∧ (∀ us, step = some us → u.time.step = us ∧ u.time.stepFlag = true) ∧ (step = none → u.time.step = z.time.step)
        ∧ u.dev.pwr.pierOut = (z.time.src = 1 || z.time.src = 3) ∧ u.dev.smart.piers = z.dev.smart.piers + 1)
    ∧ (¬live → exec (.pier .own env) s = .next s ∧ exec (.pier (.timepulse e) env) s = .next s
        ∧ exec (.pier (.ptm v e) env) s = .next s)
    ∧ (live →
        let on := time fun y => { y with expected := y.expected + 1000000 }
        let made : Prop := t.src = 3 ∨ (t.ptm = false ∧ (t.src = 1 ∨ (t.src = 0 ∧ t.grid ≠ 2)))
        (made → exec (.pier .own env) s = .next (on.takePier 3 none none env))
        ∧ (¬made → exec (.pier .own env) s = .next s)
        ∧ (¬pulse → exec (.pier (.timepulse e) env) s = .next s)
        ∧ (t.ptm = false ∨ t.src = 2 ∨ t.src = 3 → exec (.pier (.ptm v e) env) s = .next s)
        ∧ (t.ptm = true → t.src = 0 ∨ t.src = 1 → far → exec (.pier (.ptm v e) env) s =
            .next (State.takePier (time fun y => { y with expected := e + 1000000 }) 1 (some v) (moved 1) env)))
    ∧ (¬live ∨ t.src = 1 ∨ t.src = 3 → exec (.timepulseEdge e env) s = .next s)
    ∧ (live → t.src = 0 → t.ptm = true → exec (.timepulseEdge e env) s = .next (time fun y => { y with edges := chain }))
    ∧ (live → pulse →
        let at_ := time fun y => { y with expected := e + 1000000, edges := [] }
        (near e t.expected → far → exec (.timepulseEdge e env) s = .next (at_.takePier 2 none (moved 2) env)
          ∧ exec (.pier (.timepulse e) env) s = .next (at_.takePier 2 none (moved 2) env))
        ∧ (¬near e t.expected → t.edges = [a, b] → near e (a + 1000000) → far →
            exec (.timepulseEdge e env) s = .next (at_.takePier 2 none (some o) env)
            ∧ exec (.pier (.timepulse e) env) s = .next (at_.takePier 2 none (some o) env))
        ∧ (¬near e t.expected → (∀ x y, t.edges = [x, y] → ¬near e (x + 1000000)) →
            exec (.timepulseEdge e env) s = .next (time fun y => { y with spur := min 0xFFFF (y.spur + 1), edges := chain })
            ∧ exec (.pier (.timepulse e) env) s = .next s))
    ∧ (¬live ∨ ¬pulse ∨ (t.src = 0 ∧ t.grid ≠ 2) ∨ e < t.expected + 250 → exec (.timepulseWindowClose e env) s = .next s)
    ∧ (live → pulse → t.src ≠ 0 ∨ t.grid = 2 → t.expected + 250 ≤ e → exec (.timepulseWindowClose e env) s =
        .next (State.takePier (time fun y => { y with expected := y.expected + 1000000 }) 3 none none env))
    ∧ ((s.port s.dev.mgrPort).linkUp = true → exec .ptmDialogueStart s = .next (time fun y => { y with dialogue := true }))
    ∧ ((s.port s.dev.mgrPort).linkUp = false → exec .ptmDialogueStart s = .next (time fun _ => failed))
    ∧ (waiting → n ≤ 250 → exec (.ptmResponse n) s = .next (time fun _ => good))
    ∧ (waiting → 250 < n → exec (.ptmResponse n) s = .next (time fun _ => failed))
    ∧ (waiting → exec .ptmResponseTimeout s = .next (time fun _ => failed))
    ∧ (¬waiting → exec (.ptmResponse n) s = .next s ∧ exec .ptmResponseTimeout s = .next s)
    ∧ (x.park = 0 ∨ x.verSel ≠ 2 ∨ (x.st ≠ .ready ∧ x.st ≠ .parked) → exec (.parkLimitExpiry sl) s = .next s)
    ∧ (x.park ≠ 0 → x.verSel = 2 → x.st = .ready ∨ x.st = .parked → exec (.parkLimitExpiry sl) s =
        .next ((s.ctrl (sliceCtrl sl)).sqs.foldl (fun (z : State) q =>
          (q.2.fetched.filter fun f => f.due && heldOnShare x q.1 f && x.park ≤ f.piers).foldl (fun (z : State) f =>
            z.complete (.queue (sliceCtrl sl) q.1) f.e.cid 7 0x84 0 0) z) s))
    ∧ (∀ q ∈ (s.pierCmds (sliceCtrl sl) (s.ctrl (sliceCtrl sl))).sqs, ∀ f ∈ q.2.fetched, f.due = true → sl < 1024 →
        x.park ≠ 0 ∧ x.verSel = 2 ∧ heldOnShare x q.1 f = true ∧ x.park ≤ f.piers)
    ∧ (t.ptm = true → t.src = 0 ∨ t.src = 1 → exec (.timePierWrite v) s = .next s)
    ∧ (t.ptm = false ∨ t.src = 2 ∨ t.src = 3 → exec (.timePierWrite v) s = .next (time fun y => { y with write := some v, origin := true }))
    ∧ (∃ u : State, exec (.timeCtlWrite w) s = .next u ∧ u.time = { t with src := w.truncate 2 }
        ∧ u.dev.pwr.pierOut = (s.dev.pwr.pierOut && (w.truncate 2 = 1#2 || w.truncate 2 = 3#2)))

/-- R79 to R83, R86, R130 to R145, R428, R450, R549, R558 to R562: a minute pier ends the open minute and opens the next, and the
minute closes with a leaf for each slice number; in PS4 alone the DRAM is in self-refresh; the signer's end commits the seal or answers the quote; METER.CTL takes a format in its range; the power states, the
temperature, VID and the outputs follow their rules: the fixed functions of the general-purpose balls, FAULT_N and write protect, with
their levels before the device is ready. The blinding of the leaves is free values. -/
def Obligations.MinutesAreSealedAndPowerStatesEntered : Prop :=
  ∀ (s : State) (q : Src) (e : Sqe) (body : List Byte) (m : Minute) (rest : List Minute) (stepped : Bool) (x : Ended)
    (later : List Ended) (w : W32) (c : Int) (n itps itpt : Nat),
    let t := s.meter
    let blind (i : Nat) : List Byte := (List.range 16).map fun j => BitVec.ofNat 8 (Config.freeNat (s.free + 16 * i + j))
    let unsigned : State := { s with hm := { s.hm with signing := none } }
    let sealed_ : Seal := ⟨m, Config.xmssSign (sealKey s.hm.sealGen) m.sigIdx (sealHeader m)⟩
    let answer := Data.ofBytes (body ++ Config.xmssSign identityKey (leNat ((body.drop 32).take 8)) body)
    let dev (f : Device → Device) : State := { s with dev := f s.dev }
    let high : Int := (s.dev.tOver.getD wctemp : Nat)
    let low : Int := (s.dev.tUnder : Nat)
    let crossed : Prop := (s.dev.temp + 273 < high ∧ high ≤ c + 273) ∨ (low < s.dev.temp + 273 ∧ c + 273 ≤ low)
    let set := dev fun d => { d with temp := c }
    let told := set.raiseHealth 1 1
    let pier := s.time.pier.toNat
    let stay (held : Bool) : State := { s with meter := { t with
      held := held, holdover := t.holdover || s.time.hold, stepped := t.stepped || stepped } }
    (t.ended = [] → exec .minuteClose s = .next s)
    ∧ (pier % 60 ≠ 0 → s.meterPier stepped = stay t.held)
    ∧ (pier % 60 = 0 → pier = 0 ∨ (∃ l, s.lastMinute = some l ∧ pier / 60 ≤ l + 1) → s.meterPier stepped = stay true)
    ∧ (pier % 60 = 0 → pier ≠ 0 → (∀ l, s.lastMinute = some l → l + 1 < pier / 60) → s.meterPier stepped = { s with meter := { t with
        held := false, holdover := s.time.hold, stepped := stepped, powerCut := false
        slices := (t.slices.filter fun p => !p.2.closed).map (fun p => (p.1, { cur := p.2.cur, closing := p.2.closing }))
        ended := t.ended ++ [⟨pier / 60 - 1, t.holdover, t.stepped, t.powerCut, t.slices⟩] } })
    ∧ (t.ended = x :: later → ∃ u : State, exec .minuteClose s = .next u.signerNext
        ∧ u.meter.ended = later ∧ u.meter.slices = t.slices ∧ u.meter.openFmt = t.fsel.toNat ∧ u.meter.openMem = t.member.toNat
        ∧ u.meter.nClosed = t.nClosed + 1
        ∧ (s.hm.refuses = true → u.meter.closed = t.closed)
        ∧ (s.hm.refuses = false → u.hm.waitSeal = true ∧ ∃ y : Minute, u.meter.closed = t.closed ++ [y] ∧ y.minute = x.minute
            ∧ y.member = t.openMem ∧ y.format = t.openFmt ∧ y.root = treeRoot y.leaves
            ∧ (y.flags % 2 = 1 ↔ x.holdover = true ∧ ∃ p ∈ x.slices, p.1 < 1024 ∧ p.2.spans ≠ 0)
            ∧ (y.flags / 2 = 1 ↔ x.powerCut = true)
            ∧ y.leaves = (List.range 1024).map fun i => leafOf t.openFmt t.openMem x i (blind i)))
    ∧ (s.hm.signing = none → exec .signatureComplete s = .next s)
    ∧ (s.hm.signing = some SignJob.seal → t.closed = m :: rest → ∃ u : State, exec .signatureComplete s = .next u.signerNext.checkNv
        ∧ u.meter.closed = rest ∧ u.meter.store = (sealed_ :: t.store).take 2880 ∧ u.meter.chain = true
        ∧ u.meter.last = BitVec.ofNat 64 m.minute ∧ u.hm.signing = none ∧ (rest ≠ [] → u.hm.waitSeal = true))
    ∧ (s.hm.signing = some (.quote q e body) → exec .signatureComplete s = .next
        (((unsigned.sendTo q e.dptr answer).moved q e.cid true answer.len).complete q e.cid 0 0 0 0).signerNext.checkNv)
    ∧ (w.toNat / 65536 % 4 = 1 ∨ w.toNat / 65536 % 4 = 2 → exec (.meterCtlWrite w) s = .next { s with meter := { t with
        fsel := BitVec.ofNat 2 (w.toNat / 65536 % 4), member := w.truncate 10 } })
    ∧ (w.toNat / 65536 % 4 = 0 ∨ w.toNat / 65536 % 4 = 3 → exec (.meterCtlWrite w) s = .next s)
    ∧ (s.dev.apst.getD s.dev.ps (0, 0) = (itps, itpt) →
      (s.dev.apste = false ∨ s.keepsAwake = true ∨ s.dev.psNext.isSome = true ∨ itpt = 0 → exec .apstIdleExpiry s = .next s)
      ∧ (s.dev.apste = true → s.keepsAwake = false → s.dev.psNext = none → itpt ≠ 0 →
          exec .apstIdleExpiry s = .next (dev fun d => { d with psNext := some itps })))
    ∧ (s.dev.psNext = none ∨ s.keepsAwake = true → exec .powerStateEntry s = .next s)
    ∧ (s.dev.psNext = some n → s.keepsAwake = false → ∃ u : State, exec .powerStateEntry s = .next u ∧ u.dev.ps = n ∧ u.dev.psNext = none
        ∧ (n ≠ 4 → u.dram.selfRef = false) ∧ (n = 4 → (∀ y ∈ s.dram.subs, y.2.still = true) → u.dram.selfRef = true)
        ∧ u.dev.psOper = (if n < 3 then n else s.dev.psOper) ∧ u.dev.pwr.vidTo = (if n < 3 then Config.vidOperating else 0x40))
    ∧ (¬crossed → c + 273 ≤ wctemp → exec (.temperatureSample c) s = .next (dev fun d => { d with
        temp := c, warn := d.warn &&& ~~~2#8 }))
    ∧ (¬crossed → (wctemp : Int) < c + 273 → exec (.temperatureSample c) s = .next (set.setWarn 1 1))
    ∧ (crossed → c + 273 ≤ wctemp → exec (.temperatureSample c) s = .next { told with dev := { told.dev with
        warn := told.dev.warn &&& ~~~2#8 } })
    ∧ (crossed → (wctemp : Int) < c + 273 → exec (.temperatureSample c) s = .next (told.setWarn 1 1))
    ∧ (let p := s.dev.pwr
       let vid (x : BitVec 8) : State := dev fun d => { d with pwr := { d.pwr with vid := x } }
       (p.vid.toNat < p.vidTo.toNat → exec .vidStep s = .next (vid (p.vid + 1)))
       ∧ (p.vidTo.toNat < p.vid.toNat → exec .vidStep s = .next (vid (p.vid - 1)))
       ∧ (p.vid = p.vidTo → exec .vidStep s = .next s))
    ∧ exec .actNMinLowExpiry s = .next (dev fun d => { d with pwr := { d.pwr with actHold := false } })
    ∧ (s.dev.pwr.rails = false → ∀ p, s.pin p = .hiZ)
    ∧ (s.dev.pwr.rails = true → s.dev.pwr.phase ≠ 5 →
        (∀ p, p ∈ [Pin.actN, .thermN, .wthruN, .ac2, .linkN, .lowPwrN, .gpio7] → s.pin p = .hiZ) ∧ (s.pin .ad2 = .low ↔ s.rel.replaceN = true))
    ∧ (s.dev.pwr.rails = true → s.dev.pwr.phase = 5 →
        (s.pin .actN = .low ↔ s.busyDevice = true ∨ s.dev.pwr.actHold = true)
        ∧ (s.pin .thermN = .low ↔ (wctemp : Int) < s.dev.temp + 273) ∧ (s.pin .wthruN = .low ↔ s.pwrStat / 4 % 2 = 1)
        ∧ (s.time.src = 0 ∨ s.time.src = 2 → s.pin .ac2 = .hiZ)
        ∧ (s.time.src = 1 ∨ s.time.src = 3 → s.pin .ac2 = if s.dev.pwr.pierOut = true then .high else .low)
        ∧ (s.pin .linkN = .low ↔ (s.port s.dev.mgrPort).linkUp = true) ∧ (s.pin .lowPwrN = .low ↔ 3 ≤ s.dev.ps) ∧ s.pin .gpio7 = .hiZ
        ∧ (s.pin .ad2 = .low ↔ s.rel.replaceN = true ∨ s.rel.linksBad ≠ [] ∨ 0 < s.enginesOut ∨ 0 < s.media.chansFailed
            ∨ s.media.dieBad ≠ [] ∨ 0 < s.marked ∨ s.rel.pairs.length < 5 ∨ ∃ f < 16, s.spareFree f = false))
    ∧ (s.dev.pwr.rails = true → (s.pin .faultN = .low ↔ s.rel.fault = true) ∧ (s.pin .flashWpN = .low ↔ s.dev.pwr.wpLow = true))
    ∧ vcoreSetPoint 0x64 = 7500 ∧ vcoreSetPoint 0x40 = 6600 ∧ vcoreSetPoint 0x58 = 7200 ∧ vcoreSetPoint 0x78 = 8000

/-- R391, R393, R395 to R398, R403, R408 to R412: a read of a blank page answers zeros and touches no DRAM; another read goes
through the decoder, with the correction logged, a device's bytes taken as erasures, one device marked, or a poisoned reply that
is counted; a whole codeword is replaced, a part of one is merged with what its read gives, and an uncorrectable merge read
leaves the codeword; the first write to a blank page fills it, and accesses to it wait for the end of the fill. Data read under
another domain, and a miscorrection, are free values (log entry 15). A requester whose access is uncorrectable learns of it. The
domain is that of the slice that the requester works for (R399). -/
def Obligations.DramReadsAndWritesAreCorrected : Prop :=
  ∀ (s : State) (addr named page : Nat) (cls : BitVec 2) (flash : Option Nat) (who : Option HostReader) (err : DramErrors) (bytes old : List Byte) (l : List DramReply) (r : DramReply) (d : Nat)
    (c ctx k sq : Nat) (cid : W16) (va : W64) (run : Run) (u' : Nat) (q : EngReq),
    let a := addr / 64 * 64
    let i := 2 * dramChan addr + dramSub addr
    let u := s.enqueue a false cls flash
    let w := s.enqueue addr true cls none
    let bs := bytes.take (64 - addr % 64)
    let hasWork : Prop := addr < s.dramCap ∧ bs ≠ []
    let good (x : List Byte) : DramReply := ⟨a, false, x⟩
    let domain := s.requestDomain ⟨addr, named⟩ who
    let read := Instr.dramRead ⟨addr, named⟩ cls flash who err
    let write := Instr.dramWrite ⟨addr, named⟩ cls bytes who err
    let dec := u.dramDecode a err
    let put (z : State) (x : List Byte) : State := ((z.dramStore a x).setDomain (a / 64) domain).celWritten (a / 64)
    let at_ := ((err.diffs.filter fun z => z.2 ≠ 0 ∧ z.1 < 80).map fun z => z.1).eraseDups
    let mark := Tbl.get? (s.dchan (dramChan a)).marks (s.markIdx a)
    let by_ (w : HostReader) : Nat := s.requestDomain ⟨addr, named⟩ (some w)
    (s.runOn c = some run → (s.core c).sup = false ∨ s.dramPlace addr = .other true → by_ (.core c va) = run.slice)
    ∧ (k < 1024 → by_ (.command (.queue (256 + k) sq) cid) = k)
    ∧ (s.runningJob c ctx = some (u', q) → q.slice = some k → by_ (.engine c ctx) = k)
    ∧ s.requestDomain ⟨addr, named⟩ none = named
    ∧ (s.dramCap ≤ addr → exec read s = .next s ∧ exec write s = .next s)
    ∧ (addr < s.dramCap → s.dramBlank a = true → exec read s = .next (s.dramReply (good (List.replicate 64 0))))
    ∧ (addr < s.dramCap → s.dramBlank a = false →
        (dec = .clean ∨ dec = .erased → exec read s = .next ((u.drawnN 64).dramReply (good (u.dramBytes a domain))))
        ∧ (dec = .corrected → exec read s = .next
            (((u.drawnN 64).logCorrection (a / 64) (mostErrors err.diffs)).dramReply (good (u.dramBytes a domain))))
        ∧ (dec = .wrong → exec read s = .next ((u.drawnN 65).dramReply (good (u.drawn.freeBytes 64))))
        ∧ (dec = .bad → err.testBad.eraseDups = [d] → (err.diffs.all fun x => x.2 = 0 || x.1 / 16 = d) = true →
            exec read s = .next (((u.drawnN 65).markDevice a d 1).dramReply (good (u.dramBytes a domain))))
        ∧ (dec = .bad → err.testBad.eraseDups.length ≠ 1 → exec read s = .next
            (((u.drawnN 65).dramUncorr a cls.toNat 0).dramFails a who)))
    ∧ s.dramFails a none = s.dramReply ⟨a, true, []⟩ ∧ (∀ z, s.dramFails a (some z) = (s.dramReply ⟨a, true, []⟩).poisoned z)
    ∧ (mark = none → at_ = [] → s.dramDecode a err = .clean) ∧ (mark = none → at_ ≠ [] → at_.length ≤ 8 → s.dramDecode a err = .corrected)
    ∧ (mark = none → 8 < at_.length → (at_.map fun x => x / 16).eraseDups.length = 1 → s.dramDecode a err = .bad)
    ∧ (mark = some d → at_ ≠ [] → (at_.all fun x => x / 16 = d) = true → s.dramDecode a err = .erased)
    ∧ (s.domainOf a = domain → s.dramPlace a = .other false → s.dramBytes addr domain = Mem.read s.dram.filled a 64)
    ∧ (s.domainOf a ≠ domain → s.dramBytes addr domain = s.freeBytes 64)
    ∧ (hasWork → s.dramBlank addr = true → ∃ t : State, exec write s = .next t ∧ t = w.fillPage addr domain bs
        ∧ Tbl.get? t.dram.filling (addr / 4096) = some [])
    ∧ (hasWork → s.dramBlank addr = false → bs.length = 64 → exec write s = .next (put w bs))
    ∧ (hasWork → s.dramBlank addr = false → bs.length ≠ 64 → ∀ t : State,
        (w.dramFetch a domain cls.toNat err = (none, t) → exec write s = .next (t.dramFails a who))
        ∧ (w.dramFetch a domain cls.toNat err = (some old, t) → exec write s =
            .next (put t (old.take (addr % 64) ++ bs ++ old.drop (addr % 64 + bs.length)))))
    ∧ (addr < s.dramCap → s.dramBlank addr = false → addr % 64 = 0 → bytes.length = 64 → s.dramPlace addr = .other false →
        Mem.wf s.dram.filled = true → (domain ≠ 1024 ∨ Tbl.get? s.dram.domains (addr / 64) = none) → ∃ t : State, exec write s = .next t ∧ t.dramBytes addr domain = bytes)
    ∧ ((s.subch i).reads.length < 64 → ((s.enqueue addr false cls flash).subch i).reads = (s.subch i).reads ++
        [{ id := s.dram.nextReq, write := false, cls := cls, cw := addr / 64, bank := dramBank addr + 32 * s.dramRank addr, row := s.dramRow addr,
           flash := flash }])
    ∧ (Tbl.get? s.dram.filling (r.addr / 4096) = none → (s.dramReply r).dram.replies = r :: s.dram.replies)
    ∧ (Tbl.get? s.dram.filling (r.addr / 4096) = some l → (s.dramReply r).dram.replies = s.dram.replies
        ∧ Tbl.get? (s.dramReply r).dram.filling (r.addr / 4096) = some (l ++ [r]))
    ∧ (Tbl.get? s.dram.filling page = none → exec (.blankPageFillComplete page) s = .next s)
    ∧ (Tbl.get? s.dram.filling page = some l → exec (.blankPageFillComplete page) s = .next { s with dram := { s.dram with
        filling := Tbl.del s.dram.filling page, replies := l.reverse ++ s.dram.replies } })

/-- R82, R392, R394, R401 to R403, R406, R407, R419, R420: the scheduler issues a refresh at its limit first, then the first two tiers,
refresh management, then the pick, which no offered request precedes; refreshes are postponed up to 4 intervals; a row at RFMTH
is managed and its entry freed; DRAM.BTCFG takes a size that no rule refuses; the test accesses of the ECC window do as their
operation says. In self-refresh nothing is issued and no refresh falls due; in PS4 the DRAM enters it once nothing waits, keeping
its contents, blank-page bits, logs and repairs. The window's first content is free values, and its channel is taken at address 0 (log entry 17). -/
def Obligations.DramIsScheduledRefreshedAndTested : Prop :=
  ∀ (s : State) (chan sub bi bank row req k : Nat) (p : Nat × Nat) (q z : DramReq) (b : Bool) (v : W32)
    (t : List RowCount) (e : RowCount),
    let i := 2 * chan + sub
    let x := s.subch i
    let panic := s.dram.panic
    let issue := Instr.dramCommandIssue chan sub
    let sub_ (f : SubChan → SubChan) : State := s.modSubch i f
    let due := x.postponed.find? fun y => 4 ≤ y.2
    let closed (n : Nat) : State := sub_ fun y => { y with postponed := Tbl.set y.postponed n 0, open_ := closeRows y.open_ n }
    let table := Tbl.getD x.tables bank []
    let age (y : DramReq) : DramReq := if y.id = req then { y with aged := true } else y
    let n := v.toNat / 16 % 2 ^ 14
    let busyOr (op : Nat) : Prop := v.toNat % 8 ≠ op ∨ s.dram.busy = true
    let begun : State := { s.drawnN 64 with dram := { s.dram with
      busy := true, taddr := BitVec.ofNat 14 n, window := Tbl.set s.dram.window n (s.testWord n) } }
    let old := s.testWord n
    let flipped := List.zipWith (· ^^^ ·) ((s.tbufBytes.take 64).take 8) (leBytes 8 s.dram.flip.toNat) ++ (s.tbufBytes.take 64).drop 8
    let size := v.toNat / 65536 % 256
    let has : Prop := ∃ y ∈ t, y.row = row
    let free (n : Nat) : Prop := n < 32 ∧ ∀ y ∈ t, y.entry ≠ n
    let least := leastEntry t
    (has → countRow t row = t.map fun y => if y.row = row then { y with count := y.count + 1 } else y)
    ∧ (¬ has → free k → (∀ n < k, ¬ free n) → countRow t row = t ++ [⟨k, row, 1⟩])
    ∧ (¬ has → (∀ n, ¬ free n) → countRow t row = t.map fun y => if y.entry = least.entry then ⟨least.entry, row, least.count + 1⟩ else y)
    ∧ (e ∈ t → least ∈ t ∧ (least.count < e.count ∨ (least.count = e.count ∧ least.entry ≤ e.entry)))
    ∧ (s.dram.selfRef = true → exec issue s = .next s ∧ exec (.refreshDue chan sub bi b) s = .next s)
    ∧ (s.dram.selfRef = false → exec issue s = .next (if s.dev.ps = 4 then (sub_ (·.issue panic)).dramSleep else sub_ (·.issue panic)))
    ∧ (due = some p → x.issue panic = { x with postponed := Tbl.set x.postponed p.1 0, open_ := closeRows x.open_ p.1 })
    ∧ (due = none → x.pick panic = none → x.rfm = [] → x.issue panic = x)
    ∧ (due = none → x.rfm ≠ [] → (∀ y, x.pick panic = some y → 1 < (x.rank panic y).1) →
        x.issue panic = { x with rfm := x.rfm.drop 1, open_ := Tbl.del x.open_ (x.rfm.headD 0) })
    ∧ (due = none → x.pick panic = some q → (x.rank panic q).1 ≤ 1 ∨ x.rfm = [] →
        let y := x.issue panic
        (Tbl.get? x.open_ q.bank = some q.row → (y.reads = x.reads.filter fun z => z.id ≠ q.id) ∧ (y.writes = x.writes.filter fun z => z.id ≠ q.id)
          ∧ (48 ≤ y.writes.length → y.draining = true) ∧ (y.writes.length ≤ 16 → y.draining = false))
        ∧ (Tbl.get? x.open_ q.bank ≠ some q.row → y.reads = x.reads ∧ y.writes = x.writes ∧ Tbl.get? y.open_ q.bank = some q.row
          ∧ Tbl.getD y.tables q.bank [] = countRow (Tbl.getD x.tables q.bank []) q.row))
    ∧ (s.dram.selfRef = true ∨ (∃ y ∈ s.dram.subs, y.2.still = false) → s.dramSleep = s)
    ∧ (s.dram.selfRef = false → (∀ y ∈ s.dram.subs, y.2.still = true) → s.dramSleep.dram.selfRef = true
        ∧ (s.dramSleep.subch i).open_ = [] ∧ (s.dramSleep.subch i).postponed = [])
    ∧ s.dramWake.dram.selfRef = false ∧ (s.dramWake.subch i).reads = x.reads ∧ (s.dramWake.subch i).writes = x.writes
    ∧ s.dramSleep.dram.filled = s.dram.filled ∧ s.dramSleep.dram.pool = s.dram.pool ∧ s.dramSleep.dram.chans = s.dram.chans
    ∧ (x.pick panic = some q → q ∈ x.offers panic ∧ (z ∈ x.offers panic → rankLt (x.rank panic z) (x.rank panic q) = false))
    ∧ (x.pick panic = none → x.offers panic = [])
    ∧ (q ∈ x.offers panic → z ∈ x.reads ++ x.writes → z.id < q.id → z.cw ≠ q.cw ∧ (q.bank ∈ x.inOrder → z.bank ≠ q.bank))
    ∧ (q ∈ x.offers panic → panic ≠ [] → 2 ≤ q.cls.toNat → Tbl.get? x.open_ q.bank = some q.row)
    ∧ (q.cls = 0 → (∃ c ∈ panic, q.flash = some c) → (x.rank panic q).1 = 0)
    ∧ exec (.requestAgeLimit chan sub req) s = .next (sub_ fun y => { y with reads := y.reads.map age, writes := y.writes.map age })
    ∧ (s.dram.selfRef = false → ∃ t : State, exec (.refreshDue chan sub bi b) s = .next t
        ∧ Tbl.getD (t.subch i).postponed bi 0 = (if b = true then 0 else min 4 (Tbl.getD x.postponed bi 0 + 1))
        ∧ (k ≠ bi → Tbl.getD (t.subch i).postponed k 0 = Tbl.getD x.postponed k 0))
    ∧ (Tbl.getD x.postponed bi 0 < 4 → exec (.refreshPostponeLimit chan sub bi) s = .next s)
    ∧ (4 ≤ Tbl.getD x.postponed bi 0 → exec (.refreshPostponeLimit chan sub bi) s = .next (closed bi))
    ∧ ((∀ e ∈ table, e.row = row → e.count < s.dram.rfmTh.toNat) → exec (.rowActivationThreshold chan sub bank row) s = .next s)
    ∧ ((∃ e ∈ table, e.row = row ∧ s.dram.rfmTh.toNat ≤ e.count) → ∃ t : State, exec (.rowActivationThreshold chan sub bank row) s = .next t
        ∧ bank ∈ (t.subch i).rfm ∧ ∀ e ∈ Tbl.getD (t.subch i).tables bank [], e.row ≠ row)
    ∧ exec .rfmTableClear s = .next { s with dram := { s.dram with subs := s.dram.subs.map fun y => (y.1, { y.2 with tables := [] }) } }
    ∧ (4 ≤ chan ∨ b = false → exec (.dqsOscillatorCheck chan b) s = .next s)
    ∧ (chan < 4 → exec (.dqsOscillatorCheck chan true) s = .next (s.modDchan chan fun y => { y with relevel := true }))
    ∧ (4 ≤ chan → exec (.zqCalibration chan) s = .next s)
    ∧ (chan < 4 → exec (.zqCalibration chan) s = .next (s.modDchan chan fun y => { y with zq := y.zq + 1 }))
    ∧ (let room := gib * (s.dramGib - 5) - 2 ^ 20 * s.media.dies - s.media.mapUsed
       let held := s.dram.extents.foldl (fun m y => m + 2 ^ 21 * y.2.2) 0
       let bad : Prop := size < 2 ∨ 128 < size ∨ room < gib * size ∨ gib * (size - 1) < held
       (bad → exec (.dramBtcfgWrite v) s = .next s)
       ∧ (¬bad → exec (.dramBtcfgWrite v) s = .next { s with dram := { s.dram with btNext := size, btSaved := size } }))
    ∧ (busyOr 1 → exec (.eccTestWriteDataAndCheck v) s = .next s) ∧ (busyOr 2 → exec (.eccTestWriteComputedCheck v) s = .next s)
    ∧ (busyOr 3 → exec (.eccTestWriteCheckOnly v) s = .next s) ∧ (busyOr 4 → exec (.eccTestWriteDataOnly v) s = .next s)
    ∧ (busyOr 5 → exec (.eccTestReadRaw v) s = .next s) ∧ (busyOr 6 → exec (.eccTestReadDecoded v) s = .next s)
    ∧ (¬busyOr 1 → exec (.eccTestWriteDataAndCheck v) s = .next (begun.setTest n s.tbufBytes))
    ∧ (¬busyOr 2 → ∃ t : State, exec (.eccTestWriteComputedCheck v) s = .next t ∧ t.dram.flip = 0 ∧ t.dram.busy = true
        ∧ t.dram.taddr = BitVec.ofNat 14 n ∧ t.testWord n = flipped ++ checkBytes (s.tbufBytes.take 64))
    ∧ (¬busyOr 3 → exec (.eccTestWriteCheckOnly v) s = .next (begun.setTest n (old.take 64 ++ s.tbufBytes.drop 64)))
    ∧ (¬busyOr 4 → exec (.eccTestWriteDataOnly v) s = .next (begun.setTest n (s.tbufBytes.take 64 ++ old.drop 64)))
    ∧ (¬busyOr 5 → exec (.eccTestReadRaw v) s = .next (begun.setTbuf old))
    ∧ (let a := testAddr n
       let mark := Tbl.get? (s.dchan (dramChan a)).marks (s.markIdx a)
       let res := rsDecode (old.map (·.toNat)) mark
       (¬busyOr 6 → res = none → ∃ t : State, exec (.eccTestReadDecoded v) s = .next t ∧ t.dram.res = 2 ∧ t.dram.nsym = 0 ∧ t.dram.chans = s.dram.chans)
       ∧ (¬busyOr 6 → ∀ y m, res = some (y, m) → ∃ t : State, exec (.eccTestReadDecoded v) s = .next t ∧ t.dram.nsym = BitVec.ofNat 5 m
          ∧ t.dram.tbuf = (begun.setTbuf (y.map (BitVec.ofNat 8))).dram.tbuf ∧ t.dram.chans = s.dram.chans
          ∧ (m = 0 → t.dram.res = 0) ∧ (m ≠ 0 → mark = none → t.dram.res = 1) ∧ (m ≠ 0 → mark ≠ none → t.dram.res = 3)))
    ∧ exec .eccTestComplete s = .next { s with dram := { s.dram with busy := false } }

/-- R216, R430 to R433, R436, R440, R444 to R450, R470, R553: the digest window takes bytes, finishes and extends its target;
an SVN is fused only for the running image; a key transfer is latched, and the third failure in a row is a Hallmark fault; JTAG
answers its codes, and a token that meets every rule erases every key while another draws a new challenge; a tamper sensor of
its class takes the response of the class: keys zeroized, a record kept, the device reset or dead; a rail below its rating is ignored once a flush has zeroized the keys
(R490). -/
def Obligations.HallmarkWindowBusDebugAndTampers : Prop :=
  ∀ (s : State) (dest : KeyDest) (c x : Nat) (v : W64) (w : W32) (code : Byte) (token : List Byte) (sensor : TamperSensor),
    let h := s.hm
    let hm (f : Hallmark → Hallmark) : State := { s with hm := f s.hm }
    let taken := hm fun y => { y with mdMsg := y.mdMsg ++ leBytes 8 v.toNat }
    let drop := w.toNat / 2 % 8
    let fin := w.getLsbD 0 = true
    let svn := w.toNat % 256
    let good := hm fun y => { y with busFails := 0 }
    let key := (x, (s.mediaKey x).gen)
    let digest := digestVal h.mdKey h.mdMsg
    let out (bs : List Byte) : State := { s with out := { s.out with jtag := bs :: s.out.jtag } }
    let accepted : Prop := h.refusals < 8 ∧ s.tokenGood token = true
    let armed (cls : TamperClass) : Prop := sensorClass sensor = cls ∧ s.dev.pwr.rails = true ∧ s.dev.pwr.perst = false ∧ h.dead = false
      ∧ ¬(h.zeroized = true ∧ (sensor = .railLong true ∨ sensor = .railShort true))
    let num := Config.sensorNumber (sensorIdx sensor)
    let runs (cls : TamperClass) : State := { s with hm := { s.hm with response := some cls } }
    let record (cls : TamperClass) (z : State) : List Byte := [BitVec.ofNat 8 cls.num, num] ++ List.replicate 6 0 ++ leBytes 8 z.time.pier.toNat
    (h.mdState = 1 → h.mdMsg.length + 8 ≤ mdLimit → exec (.hmMddataWrite v) s = .next taken)
    ∧ (h.mdState = 1 → mdLimit < h.mdMsg.length + 8 → exec (.hmMddataWrite v) s = .next s)
    ∧ (h.mdState = 2 → exec (.hmMddataWrite v) s = .next (hm fun y => { y with mdWait := y.mdWait ++ [v] }))
    ∧ (h.mdState = 0 → ∃ t : State, exec (.hmMddataWrite v) s = .next t ∧ t.hm.mdState = 1 ∧ t.hm.mdMsg = leBytes 8 v.toNat
        ∧ (h.mdKeyed = false → t.hm.mdKey = none) ∧ (h.mdKeyed = true → ∀ k, Tbl.get? h.slots h.mdSlot.toNat = some k → t.hm.mdKey = some k.key))
    ∧ (¬fin ∨ h.mdState = 2 ∨ (h.mdState = 0 ∧ drop ≠ 0) → exec (.hmMdcmdFinish w) s = .next s)
    ∧ (fin → h.mdState = 1 → exec (.hmMdcmdFinish w) s = .next (hm fun y => { y with
        mdState := 2, mdMsg := y.mdMsg.take (y.mdMsg.length - drop), mdInto := y.mdTarget.toNat }))
    ∧ (fin → h.mdState = 0 → drop = 0 → ∃ t : State, exec (.hmMdcmdFinish w) s = .next t ∧ t.hm.mdState = 2 ∧ t.hm.mdMsg = [] ∧ t.hm.mdInto = h.mdTarget.toNat)
    ∧ (h.mdState ≠ 2 → exec .hmDigestFinishComplete s = .next s)
    ∧ (h.mdState = 2 → h.mdWait = [] → exec .hmDigestFinishComplete s = .next (hm fun y => { y with
        mrs := Tbl.set y.mrs y.mdInto (extendVal (s.mr y.mdInto) digest), mdState := 0, mdMsg := [], mdKey := none, mdWait := [] }))
    ∧ (h.mdState = 2 → ∃ t : State, exec .hmDigestFinishComplete s = .next t ∧ t.mr h.mdInto = extendVal (s.mr h.mdInto) digest)
    ∧ (digestVal none h.mdMsg = Config.shake256 h.mdMsg 64)
    ∧ (svn = h.imgSvn.toNat → h.fwSvn < svn → svn ≤ 64 → exec (.hmSvncmtWrite w) s = .next (hm fun y => { y with fwSvn := svn }))
    ∧ (svn ≠ h.imgSvn.toNat ∨ svn ≤ h.fwSvn ∨ 64 < svn → exec (.hmSvncmtWrite w) s = .next s)
    ∧ (h.ready = false → exec (.keyBusTransfer dest true) s = .next s ∧ exec (.keyBusTransfer dest false) s = .next s)
    ∧ (h.ready = true → c < 32 → x ≤ 4096 → ∃ t : State, exec (.keyBusTransfer (.cipherLane c x) true) s = .next t ∧ t.hm = good.hm
        ∧ (t.media.chan c).keys = (key :: (s.media.chan c).keys.filter (· ≠ key)).take 64)
    ∧ (h.ready = true → 32 ≤ c ∨ 4096 < x → exec (.keyBusTransfer (.cipherLane c x) true) s = .next good)
    ∧ (h.ready = true → c < 4 → ∀ k, Tbl.get? h.domains x = some k → exec (.keyBusTransfer (.dramXts c x) true) s =
        .next (good.modDchan c fun y => { y with keys := Tbl.set y.keys x k }))
    ∧ (h.ready = true → 4 ≤ c ∨ Tbl.get? h.domains x = none → exec (.keyBusTransfer (.dramXts c x) true) s = .next good)
    ∧ (h.ready = true → ∀ k, Tbl.get? h.slots x = some k → exec (.keyBusTransfer (.cipherPool c x) true) s =
        .next (good.setUnit .cipher c { s.unit .cipher c with keyReg := some (x, Tbl.getD h.gens x 0, k.key) }))
    ∧ (h.ready = true → Tbl.get? h.slots x = none → exec (.keyBusTransfer (.cipherPool c x) true) s = .next good)
    ∧ (h.ready = true → h.busFails < 2 → exec (.keyBusTransfer dest false) s = .next (hm fun y => { y with busFails := y.busFails + 1 }))
    ∧ (h.ready = true → 2 ≤ h.busFails → exec (.keyBusTransfer dest false) s = .next good.hallmarkFault)
    ∧ exec .jtagIdcode s = .next (out (leBytes 4 0x2064045D))
    ∧ (code ≠ 0x01 → code ≠ 0x30 → code ≠ 0x31 → exec (.jtagBypass code) s = .next (out [0]))
    ∧ (code = 0x01 ∨ code = 0x30 ∨ code = 0x31 → exec (.jtagBypass code) s = .next s)
    ∧ exec .jtagChallenge s = .next (out (h.challenge ++ Config.shake256 (Config.publicKey identityKey) 32))
    ∧ (¬accepted → exec (.jtagUnlock token) s = .next ((hm fun y => { y with refusals := y.refusals + 1 }).newChallenge))
    ∧ (accepted → ∃ t : State, exec (.jtagUnlock token) s = .next t ∧ t.hm.unlocked = true ∧ t.hm.refuses = true ∧ t.hm.scope = token.getD 5 0
        ∧ t.hm.slots = [] ∧ t.hm.erased = true)
    ∧ (∀ cls, ¬armed cls ∨ (∃ r, h.response = some r ∧ cls.num ≤ r.num) → s.trip cls sensor = s)
    ∧ exec (.tamperClassE sensor) s = .next (s.trip .e sensor) ∧ exec (.tamperClassG sensor) s = .next (s.trip .g sensor)
    ∧ exec (.tamperClassP sensor) s = .next (s.trip .p sensor)
    ∧ (h.response = none → armed .e → ∃ u : State, s.trip .e sensor = u.internalReset ∧ u.hm.records = (runs .e).flushOnce.hm.records ++ [record .e (runs .e).flushOnce] ∧ u.hm.zeroized = true)
    ∧ (h.response = none ∨ h.response = some .e → armed .g → ∃ t : State, exec (.tamperClassG sensor) s = .next t ∧ t.hm.records = h.records ++ [record .g s]
        ∧ t.hm.domains = [] ∧ t.hm.wrapKey = 0 ∧ t.hm.zeroized = true ∧ t.hm.ready = false ∧ t.dev.pwr.reboot = true ∧ t.dev.pwr.phase = 0)
    ∧ (h.response ≠ some .p → armed .p → ∃ t : State, exec (.tamperClassP sensor) s = .next t ∧ t.hm.records = h.records ++ [record .p s]
        ∧ t.hm.domains = [] ∧ t.hm.wrapKey = 0 ∧ t.hm.dead = true ∧ t.rel.fault = true)

/-- R144, R148, R149, R175, R186, R392, R429, R450, R476, R479 to R485, R488 to R498, R546, R552: supplies, PERST_N and PLP_WARN_N take the
device down and up. A device reset keeps what R483 keeps and loses what it loses; the boot takes its steps, a fault of a step
leaves the device in fault state, and its end is phase 5; a population that breaks a rule forms no array. PLP_WARN_N sends every
channel to the top step. The boot that an internal reset leaves pending is the model's choice
(log entry 35). -/
def Obligations.SuppliesResetsAndTheBoot : Prop :=
  ∀ (s : State) (straps : BitVec 10) (env : BootEnv) (sl n svn : Nat) (rev : List Byte),
    let p := s.dev.pwr
    let pwr (f : Power → Power) : State := { s with dev := { s.dev with pwr := f s.dev.pwr } }
    let d := s.deviceDown
    let serves : Prop := p.rails = true ∧ p.perst = false ∧ p.phase = 5
    let latched := s.latchStraps straps
    let unlocked := if s.hm.erased = true then s.bootKeys.afterUnlock else s.bootKeys
    let early := if unlocked.tamperReport.rel.hmFault = true then
      ({ unlocked.tamperReport with rel := { unlocked.tamperReport.rel with hmFault := false } }.logFault 0x16 3 [0] none [0] [0]).requestRepl 13
      else unlocked.tamperReport
    let known := env.validSlots.foldl (fun (z : State) v => z.knowSlot v.1 v.2.1 v.2.2) (early.knowSlot n svn rev)
    let tested := (known.runSlot n).selfTest env
    let chips := env.chips.filter fun y => y.chan < 32
    (d.hm.slots = s.hm.slots ∧ d.hm.imports = s.hm.imports ∧ d.hm.smrs = s.hm.smrs ∧ d.hm.media = s.hm.media ∧ d.hm.fwSvn = s.hm.fwSvn
      ∧ d.hm.sealGen = s.hm.sealGen ∧ d.hm.idRes = s.hm.idRes ∧ d.hm.slRes = s.hm.slRes ∧ d.hm.mrs = [] ∧ d.hm.ready = false
      ∧ d.meter.store = s.meter.store ∧ d.meter.closed = s.meter.closed ∧ d.meter.slices = s.meter.slices ∧ d.rel.log = s.rel.log
      ∧ d.dram.btSaved = s.dram.btSaved ∧ d.dram.locals = [] ∧ d.dram.clear = [] ∧ d.dram.filled = [] ∧ d.host.ctrls = [] ∧ d.host.mig = []
      ∧ (Tbl.get? s.host.slices sl = none → Tbl.get? d.host.slices sl = none)
      ∧ (∀ x, Tbl.get? s.host.slices sl = some x → Tbl.get? d.host.slices sl = some { x with verSel := 0, balFlash := 0, balCore := 0 })
      ∧ d.time = {} ∧ d.cpu.runs = [] ∧ d.media.buf = [] ∧ d.dev.pwr.phase = 0 ∧ d.dev.pwr.rails = p.rails
      ∧ (p.marker = true → d.media.ns = s.media.ns))
    ∧ (p.rails = true → exec .powerOn s = .next s)
    ∧ (p.rails = false → exec .powerOn s = .next { s with
        dev := { s.dev with pwr := { p with rails := true, perst := true, vid := 0x64, vidTo := 0x64 }
                            smart := { s.dev.smart with cycles := s.dev.smart.cycles + 1 } }
        rel := { s.rel with fault := s.hm.dead } })
    ∧ (p.rails = false → exec .powerRemoved s = .next s)
    ∧ (p.rails = true → ∃ t : State, exec .powerRemoved s = .next t ∧ t.dev.pwr.rails = false ∧ t.dev.pwr.perst = true ∧ t.rel.fault = false
        ∧ t.rel.repl = 0 ∧ t.hm.response = none ∧ t.dev.side.eid = 0 ∧ t.hm.slots = s.hm.slots ∧ t.meter.store = s.meter.store
        ∧ (p.made = true → t.dev.pwr.lastDown = if p.marker = true then 0 else if p.warned = true then 1 else 2)
        ∧ (p.made = true → t.meter.powerCut = true ∧ t.dev.smart.unsafe_ = s.dev.smart.unsafe_ + (if p.shut = true then 0 else 1))
        ∧ (p.made = false → t.meter.powerCut = s.meter.powerCut ∧ t.dev.smart.unsafe_ = s.dev.smart.unsafe_))
    ∧ (p.rails = false ∨ p.perst = true → exec .perstNAssert s = .next s)
    ∧ (p.rails = true → p.perst = false → exec .perstNAssert s = .next (s.flushOnce.deviceDown.modPwr fun q => { q with perst := true, reboot := false }))
    ∧ (¬serves ∨ p.marker = true → s.flushOnce = s)
    ∧ (serves → p.marker = false → ∃ u : State, s.flushOnce = u.zeroize.modPwr (fun q => { q with marker := u.media.buf.isEmpty, wpLow := true })
        ∧ u.cpu.runs = [] ∧ u.media.ios = [] ∧ u.media.waits = [] ∧ u.dev.side.cmd = none)
    ∧ (p.rails = false ∨ p.plpWarn = true → exec .plpWarnAssert s = .next s)
    ∧ (p.rails = true → p.plpWarn = false → ¬serves → exec .plpWarnAssert s = .next (pwr fun q => { q with plpWarn := true, warned := true }))
    ∧ (serves → p.plpWarn = false → exec .plpWarnAssert s = .next
        (pwr fun q => { q with plpWarn := true, warned := true, vidTo := Config.vidOperating }).topRates.flushOnce)
    ∧ (∀ k x, s.media.formed = true → k < 32 → (s.media.chan k).failed = false → (s.media.chan k).next = some x →
        (s.topRates.media.chan k).next = some x ∧ (s.topRates.media.chan k).then_ = some s.media.top)
    ∧ (∀ k, s.media.formed = true → k < 32 → (s.media.chan k).failed = false → (s.media.chan k).next = none → (s.media.chan k).rate ≠ s.media.top →
        (s.topRates.media.chan k).next = some s.media.top)
    ∧ (p.plpWarn = false → exec .plpWarnRelease s = .next s)
    ∧ (p.plpWarn = true → ¬serves → exec .plpWarnRelease s = .next (pwr fun q => { q with plpWarn := false }))
    ∧ (p.plpWarn = true → serves → exec .plpWarnRelease s = .next (pwr fun q => { q with plpWarn := false }).internalReset)
    ∧ (¬serves ∨ s.rel.fault = true → exec .holdupOkDrop s = .next (pwr fun q => { q with holdup := false }))
    ∧ (serves → s.rel.fault = false → exec .holdupOkDrop s = .next ((pwr fun q => { q with holdup := false }).writeThrough.requestRepl 12))
    ∧ (p.rails = false ∨ (p.perst = false ∧ p.reboot = false) → exec (.perstNDeassert straps env) s = .next s)
    ∧ (p.rails = true → p.perst = true → exec (.perstNDeassert straps env) s = .next
        ((latched.modPwr fun q => { q with perst := false, reboot := false }).boot env))
    ∧ (p.rails = true → p.perst = false → p.reboot = true → exec (.perstNDeassert straps env) s =
        .next ((pwr fun q => { q with reboot := false }).boot env))
    ∧ (latched.dev.split = straps.extractLsb' 0 2 ∧ latched.dev.dRate = straps.extractLsb' 5 2 ∧ latched.dev.dDens = straps.extractLsb' 7 2
      ∧ latched.dev.dRanks = straps.getLsbD 9 ∧ latched.dev.pwr.sbsel = straps.getLsbD 4
      ∧ ((straps.extractLsb' 2 2).toNat < splitPorts (straps.extractLsb' 0 2) → latched.dev.mgrPort = (straps.extractLsb' 2 2).toNat)
      ∧ (splitPorts (straps.extractLsb' 0 2) ≤ (straps.extractLsb' 2 2).toNat → latched.dev.mgrPort = 0))
    ∧ (s.rel.fault = true ∨ s.hm.dead = true → s.boot env = s)
    ∧ (s.rel.fault = false → s.hm.dead = false →
        (p.plpWarn = true → s.boot env = pwr fun q => { q with reboot := true, phase := 3 })
        ∧ (p.plpWarn = false → env.hallmarkOk = false → s.boot env = early.enterFault 4)
        ∧ (p.plpWarn = false → env.hallmarkOk = true → early.chooseSlot env = none → s.boot env = early.enterFault 2)
        ∧ (p.plpWarn = false → env.hallmarkOk = true → early.chooseSlot env = some (n, svn, rev) →
            (tested.rel.pairs = [] → s.boot env = tested.enterFault 5)
            ∧ (tested.rel.pairs ≠ [] → tested.rel.fault = true → s.boot env = tested)
            ∧ (tested.rel.pairs ≠ [] → tested.rel.fault = false → s.boot env =
                (tested.modPwr fun q => { q with vidTo := Config.vidOperating }).bootStage2 env)))
    ∧ (s.media.formed = true → s.formFlash env = s.trainFlash env)
    ∧ (s.media.formed = false → populationFaults chips ≠ [] → (s.formFlash env).media.formed = false)
    ∧ (∀ first more, s.media.formed = false → chips = first :: more → populationFaults chips = [] →
        s.formFlash env = (s.trainFlash env).formArray chips first ∧ (s.formFlash env).media.formed = true)
    ∧ (env.dramTrained = false ∨ s.dev.dDens = 3 → s.bootStage2 env = (pwr fun q => { q with phase := 1 }).enterFault 3)
    ∧ (env.dramTrained = true → s.dev.dDens ≠ 3 → (s.bootStage2 env).dev.pwr.phase = 5 ∧ (s.bootStage2 env).dev.pwr.wpLow = false
        ∧ (s.bootStage2 env).dev.pwr.made = true ∧ (s.bootStage2 env).dev.pwr.marker = false)
    ∧ (s.enterFault n).rel.fault = true

/-- R18, R69, R482, R499, R501, R504, R505, R511, R513 to R523, R548: a port reset, a link loss, a hot reset, a function level reset and
the return from D3hot reset the port's controllers and drop its translations; Bus Master Enable lets what waits go on; an answer
to a translation is kept and a refusal reaches its reader; a read that fails reaches its requester poisoned; a link trains to
the widest width and highest rate both sides, the lanes and the cap allow, and eight error-driven recoveries in a pier lower the
cap; an interrupt message entry takes its dword. Requests are cut to the sizes in force, take a tag or wait for one, and leave
through the stop of the lanes in use. That the function's enables return to the values of PCI Express is log entry
37, and that PASID and ATS Enable come with Bus Master Enable is log entry 38. -/
def Obligations.PortsResetTranslateTrainAndSignal : Prop :=
  ∀ (s : State) (p pasid k : Nat) (iova page : W64) (who : HostReader) (conf : PortConf) (pasidOn flit pe ats b rev : Bool) (width speed c off
    most fuel : Nat) (v : W32) (a : Ats) (q : HostReq) (cut : Nat × Nat),
    let x := s.port p
    let isP := s.isPort p = true
    let port (f : Port → Port) : State := s.modPort p f
    let u := s.functionReset p
    let w := widest (min width s.portLanes)
    let rate := min (min speed 6) x.cap
    let trains : Prop := isP ∧ x.inReset = false ∧ s.dev.pwr.rails = true ∧ s.dev.pwr.perst = false ∧ w ≠ 0 ∧ rate ≠ 0
    let kept := s.keepAts ⟨p, pasid, iova.toNat / 4096, true⟩
    let slot := off / 16
    let store : State := s.modCtrl c fun y => { y with store := Tbl.set y.store slot ((Tbl.getD y.store slot {}).put (off / 4 % 4) v) }
    let takes : Prop := s.ctrlOpen c = true ∧ off % 4 = 0 ∧ slot < ctrlVectors c
    (¬isP → exec (.hotReset p) s = .next s ∧ exec (.linkDown p) s = .next s ∧ exec (.functionLevelReset p) s = .next s
      ∧ exec (.d3hotEntry p) s = .next s ∧ exec (.d3hotToD0 p) s = .next s ∧ exec (.busMasterEnableSet p pasidOn conf) s = .next s
      ∧ exec (.busMasterEnableClear p) s = .next s ∧ exec (.pasidEnableClear p) s = .next s ∧ exec (.linkRecoveryEntry p) s = .next s
      ∧ exec (.rateCapRaise p) s = .next s ∧ exec (.msixFunctionMaskChange p pe ats) s = .next s)
    ∧ (4 ≤ p → exec (.portRstAssert p) s = .next s ∧ exec (.portRstDeassert p) s = .next s)
    ∧ (p < 4 → exec (.portRstDeassert p) s = .next (port fun y => { y with inReset := false }))
    ∧ (p < 4 → ¬isP → exec (.portRstAssert p) s = .next (port fun y => { y with inReset := true }))
    ∧ (p < 4 → isP → ∃ t : State, exec (.portRstAssert p) s = .next t ∧ (t.port p).linkUp = false ∧ (t.port p).speed = 0 ∧ (t.port p).bme = false)
    ∧ (isP → exec (.hotReset p) s = .next u ∧ exec (.functionLevelReset p) s = .next u)
    ∧ (isP → x.d3hot = true → exec (.d3hotToD0 p) s = .next u) ∧ (x.d3hot = false → exec (.d3hotToD0 p) s = .next s)
    ∧ (isP → exec (.d3hotEntry p) s = .next (port fun y => { y with d3hot := true }))
    ∧ ((u.port p).bme = false ∧ (u.port p).pasidEn = false ∧ (u.port p).atsEn = false ∧ (u.port p).msixEn = false ∧ (u.port p).d3hot = false
      ∧ (u.port p).mps = 128 ∧ (u.port p).mrrs = 512 ∧ Tbl.get? u.out.np p = none ∧ (∀ y ∈ u.out.held, y.port ≠ p)
      ∧ (a ∈ u.dev.ats → a.port ≠ p))
    ∧ (isP → ∃ t : State, exec (.linkDown p) s = .next t ∧ (t.port p).linkUp = false ∧ (t.port p).width = 0 ∧ (t.port p).speed = 0 ∧ (t.port p).flit = false
      ∧ ((u.modPort p fun y => { y with linkUp := false, width := 0, speed := 0, flit := false, reversed := false }).dev.mgrPort = p → t.time.ptm = false ∧ t.time.dialogue = false))
    ∧ (isP → ∃ t : State, exec (.busMasterEnableSet p pasidOn conf) s = .next (t.resumePort p) ∧ (t.port p).bme = true ∧ (t.port p).pasidEn = (x.pasidEn || pasidOn)
      ∧ (t.port p).atsEn = conf.ats ∧ (conf.ats = false → a ∈ t.dev.ats → a.port ≠ p) ∧ (conf.ats = true → t.dev.ats = s.dev.ats)
      ∧ (t.port p).mps = min 512 conf.mps ∧ (t.port p).mrrs = min 4096 conf.mrrs ∧ (t.port p).tags10 = conf.tags10
      ∧ (t.port p).relaxed = conf.relaxed ∧ (t.port p).ido = conf.ido)
    ∧ (cut ∈ reqCuts most fuel c off → cut.2 ≤ max 1 most ∧ cut.1 % 4096 + cut.2 ≤ 4096)
    ∧ (x.npLimit = if x.flit = true then 4096 else if x.tags10 = true then 768 else 256)
    ∧ (q.port = p → q.read = true → x.npLimit ≤ Tbl.getD s.out.np p 0 ∨ (∃ y ∈ s.out.held, y.port = p) →
        s.sendReq q = { s with out := { s.out with held := s.out.held ++ [q] } })
    ∧ (q.port = p → q.read = true → Tbl.getD s.out.np p 0 < x.npLimit → (∀ y ∈ s.out.held, y.port ≠ p) →
        s.sendReq q = { s with out := { s.out with reqs := q :: s.out.reqs, np := Tbl.set s.out.np p (Tbl.getD s.out.np p 0 + 1) } })
    ∧ (q.read = false → s.sendReq q = { s with out := { s.out with reqs := q :: s.out.reqs } })
    ∧ (s.out.held.find? (fun y => y.port = p) = none → s.reqDone p = { s with out := { s.out with
        np := Tbl.set s.out.np p (Tbl.getD s.out.np p 0 - 1) } })
    ∧ (s.out.held.find? (fun y => y.port = p) = some q → Tbl.getD s.out.np p 0 ≤ x.npLimit → s.reqDone p = { s with out := { s.out with
        reqs := q :: s.out.reqs, held := s.out.held.erase q } })
    ∧ (s.dev.split = 1 → s.reqStop p c = p) ∧ (s.dev.split = 2 → s.reqStop p c = p / 2)
    ∧ (s.dev.split ≠ 1 → s.dev.split ≠ 2 → s.reqStop p c = if x.width = 16 then c / 4096 % 2 else if x.reversed = true then 1 else 0)
    ∧ (s.portIssues p = false → s.resumePort p = s)
    ∧ (isP → exec (.busMasterEnableClear p) s = .next (port fun y => { y with bme := false }))
    ∧ (isP → exec (.pasidEnableClear p) s = .next ((s.slicesOn p).foldl (fun (z : State) sl =>
        if (z.ctrl (sliceCtrl sl)).en = true then z.setCfs (sliceCtrl sl) else z) (port fun y => { y with pasidEn := false })))
    ∧ (¬isP ∨ x.atsEn = false → exec (.atsTranslationResponse p pasid iova who b) s = .next s)
    ∧ (isP → x.atsEn = true → exec (.atsTranslationResponse p pasid iova who true) s = .next kept
      ∧ exec (.atsTranslationResponse p pasid iova who false) s = .next ((s.keepAts ⟨p, pasid, iova.toNat / 4096, false⟩).refusedFor who))
    ∧ ((⟨p, pasid, iova.toNat / 4096, true⟩ : Ats) ∈ kept.dev.ats)
    ∧ (∃ t : State, exec (.atsInvalidate p pasid page) s = .next t ∧
        (a ∈ t.dev.ats ↔ a ∈ s.dev.ats ∧ ¬(a.port = p ∧ a.pasid = pasid ∧ a.page = page.toNat)))
    ∧ (s.readerPort who = none → s.readEnds who = s) ∧ (∀ k, s.readerPort who = some k → s.readEnds who = s.reqDone k)
    ∧ (let done := s.readEnds who
       exec (.hostReadCompletion who .good) s = .next done ∧ exec (.hostReadCompletion who .poisoned) s = .next (done.poisoned who)
       ∧ exec (.hostReadCompletion who .unsupported) s = .next (done.poisoned who)
       ∧ exec (.hostReadCompletion who .abort) s = .next (done.poisoned who) ∧ exec (.completionTimeout who) s = .next (done.poisoned who))
    ∧ (¬trains → exec (.linkTraining p ⟨width, rev⟩ speed flit) s = .next s)
    ∧ (trains → exec (.linkTraining p ⟨width, rev⟩ speed flit) s = .next ((port fun y =>
        { y with linkUp := true, width := w, reversed := rev, speed := rate, flit := flit || rate = 6 }).resumePort p))
    ∧ (w ≤ width ∧ w ≤ s.portLanes ∧ (k ∈ [16, 8, 4, 2, 1] → k ≤ width → k ≤ s.portLanes → k ≤ w))
    ∧ (x.linkUp = false → exec (.linkRecoveryEntry p) s = .next s)
    ∧ (isP → x.linkUp = true → ∃ t : State, exec (.linkRecoveryEntry p) s = .next t ∧ (t.port p).recov = min 0xFFFF (x.recov + 1)
      ∧ (t.port p).entries = x.entries + 1 ∧ (t.port p).quiet = 0
      ∧ (x.entries = 7 → 3 < x.cap → (t.port p).cap = x.cap - 1 ∧ (t.port p).speed = min x.speed (x.cap - 1))
      ∧ (x.entries ≠ 7 ∨ x.cap ≤ 3 → (t.port p).cap = x.cap ∧ (t.port p).speed = x.speed))
    ∧ (6 ≤ x.cap ∨ x.quiet < 600 → exec (.rateCapRaise p) s = .next s)
    ∧ (isP → x.cap < 6 → 600 ≤ x.quiet → exec (.rateCapRaise p) s = .next (port fun y => { y with cap := y.cap + 1, quiet := 0 }))
    ∧ (¬takes → exec (.msixEntryWrite c off v) s = .next s)
    ∧ (takes → exec (.msixEntryWrite c off v) s = .next (store.flushMsi c))
    ∧ (takes → ∀ m : MsgEntry, m = Tbl.getD (s.ctrl c).store slot {} → ∃ m' : MsgEntry, Tbl.getD (store.ctrl c).store slot {} = m'
      ∧ (off / 4 % 4 = 0 → m' = { m with lo := v &&& ~~~3#32 }) ∧ (off / 4 % 4 = 1 → m' = { m with hi := v })
      ∧ (off / 4 % 4 = 2 → m' = { m with data := v }) ∧ (off / 4 % 4 = 3 → m' = { m with mask := v.getLsbD 0 }))
    ∧ (isP → exec (.msixFunctionMaskChange p pe ats) s = .next
        (((port fun y => { y with msixEn := pe, funcMask := ats }).ctrlsOn p).foldl (fun (z : State) i => z.flushMsi i)
          (port fun y => { y with msixEn := pe, funcMask := ats })))

/-- R82, R524 to R536: packets are reassembled; MCTP control commands are answered, never as busy; one command is in hand at a
time, and another is refused with E0h or STATUS 01h; an NVMe-MI command or a vendor message is answered as its rule says, and a
tunnelled command executes with the sideband as its source; a held response is read in parts and let go. A request
that no row stands for is answered as not supported or invalid. The layouts that MCTP and NVMe-MI give are log entry 39; a packet of
another message is passed over, by log entry 189. -/
def Obligations.SidebandRequestsAreAnswered : Prop :=
  ∀ (s : State) (ty src eid cfg ver dtyp : Byte) (som eom pec : Bool) (tag : BitVec 3) (sq : BitVec 2) (bytes : List Byte) (addr : BitVec 7) (c off len dlen msgLen : Nat)
    (v : W32) (e : Sqe) (r : List Byte),
    let x := s.dev.side
    let side (f : Sideband → Sideband) : State := s.modSide f
    let up := s.sideUp = true
    let go := side fun y => { y with busy := true }
    let reply (z : State) (m : List Byte) : State := { z with out := { z.out with side := m :: z.out.side } }
    let control (z : State) (cmd code : Nat) (d : List Byte) : State := reply z ([0, 0, BitVec.ofNat 8 cmd, BitVec.ofNat 8 code] ++ d)
    let free_ : Prop := up ∧ s.sideRefusal false = none
    let turned (k : Nat) : State := reply (s.drawnN 2) (miMessage k 0xE0 [0, 0, 0] r)
    let shut (k : Nat) : State := reply (s.drawnN 2) (vendorMessage ver k 1 r)
    let bad := reply go (miMessage 1 4 [0, 0, 0] [])
    let holds : Prop := up ∧ x.held = true ∧ s.sideShut false = false
    let before : Option (List Byte) := if som = true then some [] else if x.nextSeq = sq then x.parts else none
    let packet := Instr.mctpPacketReceive src som eom sq pec bytes tag
    let foreign : Prop := pec = true ∧ som = false ∧ x.parts ≠ none ∧ ¬(x.src = src ∧ x.tag = tag)
    let whole := bytes.length - 4
    let byte (i : Nat) : Byte := bytes.getD i 0
    let ends : Prop := up ∧ pec = true ∧ som = true ∧ eom = true ∧ bytes.length ≤ 64 ∧ messageGood bytes = true
    let taken := side fun y => { y with parts := none, src := src, tag := tag, nextSeq := sq + 1, fresh := true, rx := some bytes }
    let admin := Instr.nvmeMiAdminCommand c e dlen
    let tun := Instr.adminTunnel ver e dlen msgLen
    let vendor (k st : Nat) (d : List Byte) : State := reply go (vendorMessage ver k st d)
    let heldSays (k st : Nat) (d : List Byte) : State := reply s (vendorMessage ver k st d)
    let knows : Prop := e.opc.toNat ∈ ({ x with tunnel := false } : Sideband).opcodes
    (foreign → exec packet s = .next s)
    ∧ (messageGood bytes = true ↔ byte 0 = 0 ∨ ((byte 0).getLsbD 7 = true ∧ 4 < bytes.length ∧ leNat (bytes.drop whole) = crc32c (bytes.take whole)))
    ∧ (ends → byte 0 = 0 → (byte 1).getLsbD 7 = true → (byte 2).toNat = 0 ∨ 6 < (byte 2).toNat →
        exec packet s = .next (control taken (byte 2).toNat 5 []))
    ∧ (ends → byte 0 = 0x84 → (byte 1).toNat / 8 = 1 → 4 < (byte 4).toNat → taken.sideRefusal false = none →
        exec packet s = .next (reply (taken.modSide fun y => { y with busy := true }) (miMessage 1 3 [0, 0, 0] [])))
    ∧ (ends → byte 0 = 0xFE → byte 1 = 0x1F → byte 2 = 0x42 → byte 3 = 1 ∨ byte 3 = 2 → byte 5 = 0x80 → 3 < (byte 4).toNat →
        taken.sideRefusal false = none →
        exec packet s = .next (reply (taken.modSide fun y => { y with busy := true }) (vendorMessage (byte 3) (byte 4).toNat 3 [])))
    ∧ (¬ foreign → ∃ t : State, exec packet s = .next t ∧ t.dev.side.nextSeq = sq + 1 ∧ (eom = true → t.dev.side.parts = none)
      ∧ (∀ b, up → pec = true → bytes.length ≤ 64 → before = some b → b.length + bytes.length ≤ mctpLimit →
          (eom = false → t.dev.side.parts = some (b ++ bytes))
          ∧ (eom = true → messageGood (b ++ bytes) = true → t.dev.side.rx = some (b ++ bytes))
          ∧ (eom = false ∨ messageGood (b ++ bytes) = false → t.dev.side.rx = x.rx))
      ∧ (¬up ∨ pec = false ∨ 64 < bytes.length ∨ before = none → t.dev.side.parts = none ∧ t.dev.side.rx = x.rx))
    ∧ (x.fresh = false → exec .mctpReassemblyTimeout s = .next (side fun y => { y with parts := none }))
    ∧ (x.fresh = true → exec .mctpReassemblyTimeout s = .next s)
    ∧ (¬ foreign → ∃ t : State, exec packet s = .next t ∧ t.dev.side.fresh = true)
    ∧ (up → s.dev.pwr.sbsel = false → exec (.i3cDynamicAddressAssignment addr) s = .next (side fun y => { y with i3cAddr := addr }))
    ∧ (¬up ∨ s.dev.pwr.sbsel = true → exec (.i3cDynamicAddressAssignment addr) s = .next s)
    ∧ (up → eid ≠ 0 → eid ≠ 0xFF → exec (.setEndpointId eid) s = .next (control (side fun y => { y with eid := eid }) 1 0 [0, eid, 0]))
    ∧ (up → eid = 0 ∨ eid = 0xFF → exec (.setEndpointId eid) s = .next (control s 1 2 []))
    ∧ (up → exec .getEndpointId s = .next (control s 2 0 [x.eid, 0, 0]) ∧ exec .getEndpointUuid s = .next (control s 3 0 Config.endpointUuid)
      ∧ exec .getMessageTypeSupport s = .next (control s 5 0 [3, 0x00, 0x04, 0x7E])
      ∧ exec .getVendorDefinedMessageSupport s = .next (control s 6 0 [0xFF, 0, 0x1F, 0x42, 0, 2]))
    ∧ (up → ty = 4 → exec (.getMctpVersionSupport ty) s = .next (control s 4 0 [1, 0xF1, 0xF2, 0xFF, 0]))
    ∧ (up → ty = 0 ∨ ty = 0xFF → ∃ b : Byte, exec (.getMctpVersionSupport ty) s = .next (control s.drawn 4 0 [1, 0xF1, 0xF3, b, 0]))
    ∧ (up → ty ≠ 0 → ty ≠ 4 → ty ≠ 0xFF → exec (.getMctpVersionSupport ty) s = .next (control s 4 0x80 []))
    ∧ (¬up → exec (.setEndpointId eid) s = .next s ∧ exec .getEndpointId s = .next s ∧ exec .getEndpointUuid s = .next s
      ∧ exec (.readNvmeMiDataStructure dtyp c) s = .next s ∧ exec (.controllerHealthStatusPoll c) s = .next s ∧ exec (.configurationSet cfg v) s = .next s
      ∧ exec (.configurationGet cfg) s = .next s ∧ exec admin s = .next s ∧ exec (.getVersion ver) s = .next s ∧ exec tun s = .next s)
    ∧ (x.busy = true → s.sideRefusal false ≠ none)
    ∧ (s.rel.fault = true ∨ s.dev.pwr.plpWarn = true ∨ s.dev.pwr.phase ≠ 5 → s.sideRefusal false = some [0, 0])
    ∧ (up → s.sideRefusal false = some r → exec (.readNvmeMiDataStructure dtyp c) s = .next (turned 1) ∧ exec (.controllerHealthStatusPoll c) s = .next (turned 1)
      ∧ exec (.configurationSet cfg v) s = .next (turned 1) ∧ exec (.configurationGet cfg) s = .next (turned 1) ∧ exec admin s = .next (turned 2)
      ∧ exec (.getVersion ver) s = .next (shut 0) ∧ exec tun s = .next (shut 1))
    ∧ (up → s.sideRefusal true = some r → exec .nvmSubsystemHealthStatusPoll s = .next (turned 1))
    ∧ (up → s.sideRefusal true = none → ∃ t : State, exec .nvmSubsystemHealthStatusPoll s = .next t ∧ t.dev.side.busy = true
      ∧ t.dev.side.ccs = x.ccs ||| s.healthBits ∧ t.out.side.length = s.out.side.length + 1)
    ∧ (free_ → c ∉ s.portIds → exec (.controllerHealthStatusPoll c) s = .next (reply go (miMessage 1 0 [0, 0, 0] [])))
    ∧ (free_ → c ∈ s.portIds → ∃ d : List Byte, exec (.controllerHealthStatusPoll c) s = .next (reply go (miMessage 1 0 [0, 0, 1] (leBytes 2 c ++ leBytes 2 (s.cstsReg c) ++ d))))
    ∧ (free_ → dtyp = 0 → exec (.readNvmeMiDataStructure dtyp c) s = .next (reply go (miMessage 1 0 (leBytes 2 32 ++ [0]) ([0, 1, 2] ++ List.replicate 29 0))))
    ∧ (free_ → 3 < dtyp.toNat ∨ (dtyp = 3 ∧ c ∉ s.portIds) → exec (.readNvmeMiDataStructure dtyp c) s = .next bad)
    ∧ (free_ → dtyp = 1 ∨ dtyp = 2 ∨ (dtyp = 3 ∧ c ∈ s.portIds) → ∃ d : List Byte, exec (.readNvmeMiDataStructure dtyp c) s = .next (reply go (miMessage 1 0 (leBytes 2 d.length ++ [0]) d)))
    ∧ (free_ → cfg = 1 → v = 1 ∨ v = 2 → ∃ t : State, exec (.configurationSet cfg v) s = .next t ∧ Tbl.get? t.dev.side.cfg 1 = some v ∧ t.dev.side.busy = true)
    ∧ (free_ → cfg = 2 → ∃ t : State, exec (.configurationSet cfg v) s = .next t ∧ t.dev.side.ccs = x.ccs - (x.ccs &&& v.toNat) ∧ t.dev.side.busy = true)
    ∧ (free_ → cfg = 3 → v = 64 → exec (.configurationSet cfg v) s = .next (reply go (miMessage 1 0 [0, 0, 0] [])))
    ∧ (free_ → cfg = 0 ∨ 3 < cfg.toNat ∨ (cfg = 1 ∧ v ≠ 1 ∧ v ≠ 2) ∨ (cfg = 3 ∧ v ≠ 64) → exec (.configurationSet cfg v) s = .next bad)
    ∧ (free_ → cfg = 1 → exec (.configurationGet cfg) s = .next (reply go (miMessage 1 0 (leBytes 3 ((Tbl.get? x.cfg 1).getD 1).toNat) [])))
    ∧ (free_ → cfg = 2 → exec (.configurationGet cfg) s = .next (reply go (miMessage 1 0 [0, 0, 0] [])))
    ∧ (free_ → cfg = 3 → exec (.configurationGet cfg) s = .next (reply go (miMessage 1 0 (leBytes 3 64) [])))
    ∧ (free_ → cfg = 0 ∨ 3 < cfg.toNat → exec (.configurationGet cfg) s = .next bad)
    ∧ (free_ → c ≠ s.dev.mgrPort → exec admin s = .next (reply go (miMessage 2 4 [0, 0, 0] [])))
    ∧ (free_ → c = s.dev.mgrPort → ¬knows → exec admin s = .next (reply go (miMessage 2 3 [0, 0, 0] [])))
    ∧ (free_ → c = s.dev.mgrPort → knows → tooLong e dlen = true → exec admin s = .next (reply go (miMessage 2 6 [0, 0, 0] [])))
    ∧ (free_ → c = s.dev.mgrPort → knows → tooLong e dlen = false → exec admin s = .next (go.tunnel e false 1))
    ∧ (∃ t : State, go.tunnel e true 2 = t ∧ t.dev.side.cmd = some { e with dptr := .prp 0 0 [] } ∧ t.dev.side.tunnel = true ∧ t.dev.side.ver = 2
      ∧ t.dev.side.cid = e.cid ∧ t.dev.side.owed = true ∧ t.stands .sideband { e with dptr := .prp 0 0 [] } = true)
    ∧ (free_ → exec (.getVersion ver) s = .next (vendor 0 0 [1, 2]))
    ∧ (free_ → ver ≠ 1 → ver ≠ 2 → exec tun s = .next (vendor 1 2 [1, 2]))
    ∧ (free_ → ver = 1 ∨ ver = 2 → msgLen ≠ 80 + dlen ∨ (tunnelled e = true ∧ dlen ≠ tunnelData e) → exec tun s = .next (vendor 1 4 []))
    ∧ (free_ → ver = 1 ∨ ver = 2 → msgLen = 80 + dlen → tunnelled e = false ∨ dlen = tunnelData e → exec tun s = .next (go.tunnel e true ver.toNat))
    ∧ (free_ → x.held = false → ver = 1 → exec (.readResponsePart ver off len) s = .next (vendor 2 3 []) ∧ exec (.releaseResponse ver) s = .next (vendor 3 3 []))
    ∧ (free_ → x.held = false → ver = 2 → exec (.readResponsePart ver off len) s = .next (vendor 2 5 []) ∧ exec (.releaseResponse ver) s = .next (vendor 3 5 []))
    ∧ (holds → ver = 2 → len = 0 ∨ 4096 < len → exec (.readResponsePart ver off len) s = .next (heldSays 2 4 []))
    ∧ (holds → ver = 2 → 0 < len → len ≤ 4096 → off + len < x.data.len → exec (.readResponsePart ver off len) s =
        .next (heldSays 2 0 (leBytes 4 off ++ (x.data.bytes.drop off).take len)))
    ∧ (holds → ver = 2 → 0 < len → len ≤ 4096 → x.data.len ≤ off + len → exec (.readResponsePart ver off len) s =
        .next (State.releaseHeld (heldSays 2 0 (leBytes 4 off ++ (x.data.bytes.drop off).take len))))
    ∧ (holds → ver = 2 → exec (.releaseResponse ver) s = .next (State.releaseHeld (heldSays 3 0 [])))
    ∧ (holds → ver = 1 → exec (.releaseResponse ver) s = .next (heldSays 3 3 []))
    ∧ (x.held = false → exec .responseHoldTimeout s = .next s)
    ∧ (x.held = true → exec .responseHoldTimeout s = .next s.releaseHeld)
    ∧ (s.releaseHeld.dev.side.busy = false ∧ s.releaseHeld.dev.side.held = false ∧ s.releaseHeld.dev.side.data.len = 0)
    ∧ (x.busy = false ∨ x.cmd ≠ none ∨ x.held = true → exec .sidebandResponseSent s = .next s)
    ∧ (x.busy = true → x.cmd = none → x.held = false → x.owed = false → exec .sidebandResponseSent s = .next (side fun y => { y with busy := false }))
    ∧ (x.busy = true → x.cmd = none → x.held = false → x.owed = true → ∃ t : State, exec .sidebandResponseSent s = .next t ∧ t.dev.side.owed = false
      ∧ t.out.side.length = s.out.side.length + 1 ∧ (x.tunnel = false ∨ x.ver ≠ 2 → t.dev.side.busy = false ∧ t.dev.side.held = false)
      ∧ (x.tunnel = true → x.ver = 2 → x.sct = 0 → x.sc = 0 → x.data.bytes ≠ [] → t.dev.side.held = true ∧ t.dev.side.busy = true))

/-! ## The whole block -/

/-- A step runs the command at the front of the queue on the state with the rest of the queue; with no command waiting the
block idles, which is the model's choice (log entry 10). -/
def Obligations.AStepRunsTheFrontCommand : Prop :=
  ∀ (s : State) (c : Instr) (rest : List Instr),
    step { s with pending := c :: rest } = exec c { s with pending := rest } ∧ step { s with pending := [] } = .next { s with pending := [] }

/-- Every command, in every state and with every operand, answers a next state, and its effect leaves the queue as it stands:
nothing the spec names stops the block. -/
def Obligations.EveryCommandAnswersANextState : Prop :=
  ∀ (c : Instr) (s : State), ∃ t : State, exec c s = .next t ∧ t.pending = s.pending

/-- R245, R393, R439, R447, R484, R498, R500, R81 to R83: every step, from every sound state, leaves a sound state: byte
memories stay canonical, at most 64 fuses are blown, PHASE keeps a legal value and is 5 only with the rails up and PERST_N high,
the manager port is a port of the split, and power states stay PS0 to PS4. -/
def Obligations.EveryStepKeepsTheStateSound : Prop :=
  ∀ s t : State, s.sound → step s = .next t → t.sound

/-- R106, R109, R188, R335, R394, R405, R416, R419, R420, R432: right after reset the state is sound, no command waits, and the
registers hold the reset values of their tables; local memories and the filled region read 00h, which is the model's choice (log
entry 5). -/
def Obligations.ResetHoldsTheSpecsValues : Prop :=
  let s := State.reset
  s.sound ∧ s.pending = [] ∧ s.time.src = 0 ∧ s.time.pier = 0 ∧ s.time.span = 0 ∧ s.host.slcSel = 0 ∧ s.media.chSel = 0
    ∧ s.dram.rfmTh = 0x200 ∧ s.dram.age = 0x0C8 ∧ s.dram.selCh = 0 ∧ s.dram.selIdx = 0 ∧ s.dram.trained = false ∧ s.dram.btNext = 0
    ∧ s.dram.btSize = 0 ∧ s.dram.flip = 0 ∧ s.dram.busy = false ∧ s.dram.res = 0 ∧ s.dram.nsym = 0 ∧ s.dram.taddr = 0
    ∧ (∀ i : Fin 10, s.dram.tbuf.get i = 0) ∧ s.hm.mdTarget = 0x18 ∧ s.hm.mdKeyed = false ∧ s.hm.mdSlot = 0 ∧ s.hm.mdState = 0
    ∧ s.hm.mrSel = 0 ∧ s.hm.unlocked = false ∧ s.hm.ready = false ∧ s.meter.fsel = 1 ∧ s.meter.member = 0
    ∧ (∀ i, s.mr i = zeros64) ∧ (∀ i, (s.ctrl i).en = false ∧ (s.ctrl i).rdy = false ∧ (s.ctrl i).cfs = false)
    ∧ (∀ sl, (s.slice sl).st = .absent) ∧ (∀ c, (s.core c).sup = true ∧ (s.core c).ctx.pc = 0 ∧ (s.core c).run = none)
    ∧ (∀ sl a, Mem.get (s.localMem sl) a = 0) ∧ s.rel.fault = false ∧ s.rel.log = []

/-- R254, R345, R393: a byte memory reads back what was written and every other byte as before, a write keeps its canonical
form, and two memories in that form that read alike everywhere are one memory. -/
def Obligations.MemoryReadsBackWhatWasWritten : Prop :=
  ∀ (m n : Mem) (a x : Nat) (bs : List Byte), Mem.wf m = true →
    Mem.wf (Mem.write m a bs) = true
    ∧ (a ≤ x → x < a + bs.length → Mem.get (Mem.write m a bs) x = bs.getD (x - a) 0)
    ∧ (x < a ∨ a + bs.length ≤ x → Mem.get (Mem.write m a bs) x = Mem.get m x)
    ∧ (Mem.wf n = true → (∀ y, Mem.get m y = Mem.get n y) → m = n)

/-! ## Rules stated whole -/

/-- R332. RFE sets PC to CORE.EPC and ST to CORE.EST, and it clears CORE.ESTAT.EXL; what supervisor code has written into
CORE.EPC (port 08h) and CORE.EST (port 10h) takes effect; a restored ST.RP of 1 has the instruction at PC counted in BC when it
completes, as R299 lays down. -/
def Obligations.RfeReturnsToTheSavedPcAndStatus : Prop :=
  ∀ (s : State) (c len v : Nat) (w : LongWord), s.longOk c w szD .none .none .none true true →
    let k := (s.core c).ctl
    (∃ t : State, exec (.iRfe c w) s = .next t ∧ (t.core c).ctx.pc = k.epc ∧ (t.core c).sup = k.est.getLsbD 0
        ∧ (t.core c).ctx.regs = { (s.core c).ctx.regs with dir := k.est.getLsbD 2, rp := k.est.getLsbD 1 }
        ∧ (t.core c).ctl = { k with exl := false }
        ∧ (k.est.getLsbD 1 = true → (t.core c).ctx.regs.rp = true ∧
            ((t.finish c (t.core c).ctx.regs.rp len none).core c).ctx.regs.bc = (t.core c).ctx.regs.bc - 1
            ∧ ((t.core c).ctx.regs.bc ≠ 1 → ((t.finish c (t.core c).ctx.regs.rp len none).core c).ctx.pc = k.epc)
            ∧ ((t.core c).ctx.regs.bc = 1 → ((t.finish c (t.core c).ctx.regs.rp len none).core c).ctx.pc = k.epc + BitVec.ofNat 64 len)))
    ∧ ((portOut s c (.ctl 8) v).core c).ctl = { k with epc := BitVec.ofNat 64 v }
    ∧ ((portOut s c (.ctl 0x10) v).core c).ctl = { k with est := BitVec.ofNat 64 v }

/-- R335. Core reset: ST with S = 1 and DIR and RP 0, every register and bit variable 0, the operand cache invalid with
nothing written back, every port of the core control block at its reset value, and the supervisor address 0. -/
def Obligations.CoreResetLeavesTheResetState : Prop :=
  ∀ (s : State) (c : Nat), c < 144 → ∃ t : State, exec (.coreReset c) s = .next t ∧
    let k := t.core c
    k.sup = true ∧ k.ctx.regs.dir = false ∧ k.ctx.regs.rp = false ∧ k.st = 1 ∧ (∀ i : Fin 8, k.ctx.regs.a.get i = 0) ∧ k.ctx.regs.lk = 0
    ∧ k.ctx.regs.bc = 0 ∧ k.ctx.regs.bs = 0 ∧ k.ctx.regs.bd = 0 ∧ k.ctx.regs.bx = 0 ∧ (∀ b, k.ctx.bit b = false) ∧ (∀ a, k.oc.find a = none)
    ∧ t.dram = s.dram ∧ t.cpu.forges = s.cpu.forges ∧ t.out = s.out ∧ t.host = s.host
    ∧ (∀ off n, ctlWidth off = some n → ctlRead k off = if off = 0x30 then 0xF4240 else 0) ∧ k.ctx.pc = 0

/-- R446. A tamper record is 16 bytes: its class, E 01h, G 02h, P 03h, the sensor number, six bytes 00h and TIME.PIER; at the
next power-up each record is extended into MR6 and counted in HM.STAT.TAMPCNT. -/
def Obligations.TamperRecordsAreKeptAndReported : Prop :=
  ∀ (s : State) (cls : TamperClass) (sensor : Byte),
    let num : Nat := match cls with | .e => 1 | .g => 2 | .p => 3
    let record : List Byte := [BitVec.ofNat 8 num, sensor, 0, 0, 0, 0, 0, 0] ++ leBytes 8 s.time.pier.toNat
    (s.tamperRecord cls sensor).hm.records = s.hm.records ++ [record] ∧ record.length = 16
    ∧ s.tamperReport.hm.records = [] ∧ s.tamperReport.hm.tampers = s.hm.tampers + s.hm.records.length
    ∧ s.tamperReport.mr 6 = s.hm.records.foldl (fun v r => Config.shake256 (v ++ eventDigest 0x16 r) 64) (s.mr 6)

end Statements
end

