-- ==== Sys2Proof/Laws/Mem.lean ====
section
/-! SUPPORT. Laws of the two containers: a byte memory reads back what was written and nothing else changes, every
operation keeps its canonical form, and a table reads back what was put. -/

namespace Sys2Proof.Machine

/-! ## Tables -/

variable {α : Type}

theorem Tbl.get?_set (t : Tbl α) (n m : Nat) (x : α) : Tbl.get? (Tbl.set t n x) m = if n = m then some x else Tbl.get? t m := by
  induction t with
  | nil => simp [Tbl.set, Tbl.get?]
  | cons p t ih =>
    obtain ⟨k, v⟩ := p
    by_cases h : n < k
    · rw [Tbl.set, if_pos h, Tbl.get?]
    · by_cases e : k = n
      · subst e
        by_cases e : k = m <;> simp [Tbl.set, Tbl.get?, e]
      · by_cases f : k = m
        · have : ¬ n = m := by omega
          rw [if_neg this, Tbl.set, if_neg h, if_neg e, Tbl.get?, if_pos f, Tbl.get?, if_pos f]
        · simp [Tbl.set, Tbl.get?, h, e, f, ih]

@[simp] theorem Tbl.get?_set_self (t : Tbl α) (n : Nat) (x : α) : Tbl.get? (Tbl.set t n x) n = some x := by
  simp [Tbl.get?_set]

theorem Tbl.get?_set_ne (t : Tbl α) {n m : Nat} (x : α) (h : n ≠ m) : Tbl.get? (Tbl.set t n x) m = Tbl.get? t m := by
  simp [Tbl.get?_set, h]

@[simp] theorem Tbl.getD_set_self (t : Tbl α) (n : Nat) (x d : α) : Tbl.getD (Tbl.set t n x) n d = x := by
  simp [Tbl.getD]

theorem Tbl.getD_set_ne (t : Tbl α) {n m : Nat} (x d : α) (h : n ≠ m) : Tbl.getD (Tbl.set t n x) m d = Tbl.getD t m d := by
  simp [Tbl.getD, Tbl.get?_set, h]

/-- A record of a changed table is the one put or one of the table. -/
theorem Tbl.mem_set {t : Tbl α} {n : Nat} {x : α} {p : Nat × α} (h : p ∈ Tbl.set t n x) : p = (n, x) ∨ p ∈ t := by
  induction t with
  | nil => exact .inl (List.mem_singleton.1 h)
  | cons q t ih =>
    obtain ⟨k, v⟩ := q
    simp only [Tbl.set] at h
    split at h
    · exact List.mem_cons.1 h
    · split at h
      · rcases List.mem_cons.1 h with h | h
        · exact .inl h
        · exact .inr (List.mem_cons_of_mem _ h)
      · rcases List.mem_cons.1 h with h | h
        · exact .inr (h ▸ List.mem_cons_self ..)
        · rcases ih h with h | h
          · exact .inl h
          · exact .inr (List.mem_cons_of_mem _ h)

theorem Tbl.mem_del {t : Tbl α} {n : Nat} {p : Nat × α} (h : p ∈ Tbl.del t n) : p ∈ t := by
  induction t with
  | nil => exact h
  | cons q t ih =>
    obtain ⟨k, v⟩ := q
    simp only [Tbl.del] at h
    split at h
    · exact List.mem_cons_of_mem _ h
    · rcases List.mem_cons.1 h with h | h
      · exact h ▸ List.mem_cons_self ..
      · exact List.mem_cons_of_mem _ (ih h)

theorem Tbl.mem_of_get? {t : Tbl α} {n : Nat} {x : α} (h : Tbl.get? t n = some x) : (n, x) ∈ t := by
  induction t with
  | nil => simp [Tbl.get?] at h
  | cons q t ih =>
    obtain ⟨k, v⟩ := q
    simp only [Tbl.get?] at h
    split at h
    · rename_i e
      rw [e, Option.some.inj h]
      exact List.mem_cons_self ..
    · exact List.mem_cons_of_mem _ (ih h)

/-! ## Byte memories: the canonical form -/

theorem Mem.wfFrom_mono {lo lo' : Nat} {m : Mem} (h : lo' ≤ lo) (w : Mem.wfFrom lo m = true) : Mem.wfFrom lo' m = true := by
  cases m with
  | nil => rfl
  | cons p m =>
    simp only [Mem.wfFrom, Bool.and_eq_true, decide_eq_true_eq] at w ⊢
    exact ⟨⟨by omega, w.1.2⟩, w.2⟩

theorem Mem.wfFrom_put {lo a : Nat} {b : Byte} {m : Mem} (hb : b ≠ Mem.unlisted) (w : Mem.wfFrom lo m = true) (h : lo ≤ a) :
    Mem.wfFrom lo (Mem.put m a b) = true := by
  induction m generalizing lo with
  | nil => simp [Mem.put, Mem.wfFrom, h, hb]
  | cons p m ih =>
    obtain ⟨k, v⟩ := p
    simp only [Mem.wfFrom, Bool.and_eq_true, decide_eq_true_eq, bne_iff_ne] at w
    simp only [Mem.put]
    split
    · rename_i e
      simp only [Mem.wfFrom, Bool.and_eq_true, decide_eq_true_eq, bne_iff_ne]
      exact ⟨⟨h, hb⟩, ⟨by omega, w.1.2⟩, w.2⟩
    · split
      · rename_i e
        simp only [Mem.wfFrom, Bool.and_eq_true, decide_eq_true_eq, bne_iff_ne]
        exact ⟨⟨h, hb⟩, by rw [← e]; exact w.2⟩
      · simp only [Mem.wfFrom, Bool.and_eq_true, decide_eq_true_eq, bne_iff_ne]
        exact ⟨w.1, ih w.2 (by omega)⟩

theorem Mem.wfFrom_del {lo a : Nat} {m : Mem} (w : Mem.wfFrom lo m = true) : Mem.wfFrom lo (Mem.del m a) = true := by
  induction m generalizing lo with
  | nil => rfl
  | cons p m ih =>
    obtain ⟨k, v⟩ := p
    simp only [Mem.del]
    simp only [Mem.wfFrom, Bool.and_eq_true, decide_eq_true_eq, bne_iff_ne] at w
    split
    · simp only [Mem.wfFrom, Bool.and_eq_true, decide_eq_true_eq, bne_iff_ne]
      exact w
    · split
      · exact Mem.wfFrom_mono (by omega) w.2
      · simp only [Mem.wfFrom, Bool.and_eq_true, decide_eq_true_eq, bne_iff_ne]
        exact ⟨w.1, ih w.2⟩

/-- Writing one byte keeps the canonical form. -/
theorem Mem.wf_set {m : Mem} (a : Nat) (b : Byte) (w : Mem.wf m = true) : Mem.wf (Mem.set m a b) = true := by
  unfold Mem.set
  split
  · exact Mem.wfFrom_del w
  · rename_i h
    exact Mem.wfFrom_put h w (Nat.zero_le _)

/-- Writing bytes keeps the canonical form. -/
theorem Mem.wf_write {m : Mem} (a : Nat) (bs : List Byte) (w : Mem.wf m = true) : Mem.wf (Mem.write m a bs) = true := by
  induction bs generalizing m a with
  | nil => exact w
  | cons b bs ih => exact ih _ (Mem.wf_set a b w)

theorem Mem.wfFrom_filter {lo : Nat} {m : Mem} (f : Host.Cell → Bool) (w : Mem.wfFrom lo m = true) :
    Mem.wfFrom lo (m.filter f) = true := by
  induction m generalizing lo with
  | nil => rfl
  | cons p m ih =>
    obtain ⟨k, v⟩ := p
    simp only [Mem.wfFrom, Bool.and_eq_true, decide_eq_true_eq, bne_iff_ne] at w
    simp only [List.filter]
    split
    · simp only [Mem.wfFrom, Bool.and_eq_true, decide_eq_true_eq, bne_iff_ne]
      exact ⟨w.1, ih w.2⟩
    · exact Mem.wfFrom_mono (by omega) (ih w.2)

/-- Clearing a range keeps the canonical form. -/
theorem Mem.wf_clear {m : Mem} (a n : Nat) (w : Mem.wf m = true) : Mem.wf (Mem.clear m a n) = true := Mem.wfFrom_filter _ w

/-- Replacing a range keeps the canonical form. -/
theorem Mem.wf_splice {m : Mem} (a n : Nat) (x : Mem) (w : Mem.wf m = true) : Mem.wf (Mem.splice m a n x) = true := by
  unfold Mem.splice
  generalize x.filter _ = l
  have : ∀ m : Mem, Mem.wf m = true → Mem.wf (l.foldl (fun m c => Mem.set m (a + c.1) c.2) m) = true := by
    induction l with
    | nil => exact fun m h => h
    | cons c l ih => exact fun m h => ih _ (Mem.wf_set _ _ h)
  exact this _ (Mem.wf_clear a n w)

/-! ## Byte memories: what a read gives -/

theorem Mem.get_below {lo a : Nat} {m : Mem} (w : Mem.wfFrom lo m = true) (h : a < lo) : Mem.get m a = Mem.unlisted := by
  induction m generalizing lo with
  | nil => rfl
  | cons p m ih =>
    obtain ⟨k, v⟩ := p
    simp only [Mem.wfFrom, Bool.and_eq_true, decide_eq_true_eq] at w
    have : ¬ k = a := by omega
    simp only [Mem.get, this, if_false]
    exact ih w.2 (by omega)

theorem Mem.get_put (m : Mem) (a x : Nat) (b : Byte) : Mem.get (Mem.put m a b) x = if a = x then b else Mem.get m x := by
  induction m with
  | nil => simp [Mem.put, Mem.get]
  | cons p m ih =>
    obtain ⟨k, v⟩ := p
    simp only [Mem.put]
    split
    · simp [Mem.get]
    · split
      · rename_i e
        subst e
        simp only [Mem.get]
        split <;> rfl
      · simp only [Mem.get, ih]
        split
        · rename_i h1 h2 h3
          have : ¬ a = x := by omega
          simp [this]
        · rfl

theorem Mem.get_del {lo : Nat} {m : Mem} (a x : Nat) (w : Mem.wfFrom lo m = true) :
    Mem.get (Mem.del m a) x = if a = x then Mem.unlisted else Mem.get m x := by
  induction m generalizing lo with
  | nil => simp [Mem.del, Mem.get]
  | cons p m ih =>
    obtain ⟨k, v⟩ := p
    simp only [Mem.wfFrom, Bool.and_eq_true, decide_eq_true_eq] at w
    simp only [Mem.del]
    split
    · rename_i h
      split
      · rename_i e
        subst e
        have : ¬ k = a := by omega
        simp only [Mem.get, this, if_false]
        exact Mem.get_below w.2 (by omega)
      · rfl
    · split
      · rename_i e
        subst e
        split
        · rename_i e
          subst e
          exact Mem.get_below w.2 (by omega)
        · rename_i e
          simp [Mem.get, e]
      · simp only [Mem.get, ih w.2]
        split
        · rename_i h1 h2 h3
          have : ¬ a = x := by omega
          simp [this]
        · rfl

/-- A byte reads back what was written, and every other byte reads as before. -/
theorem Mem.get_set {m : Mem} (a x : Nat) (b : Byte) (w : Mem.wf m = true) : Mem.get (Mem.set m a b) x = if a = x then b else Mem.get m x := by
  unfold Mem.set
  split
  · rename_i e
    rw [Mem.get_del a x w, e]
  · exact Mem.get_put m a x b

/-- After a write, an address inside reads the byte written there and one outside reads as before. -/
theorem Mem.get_write {m : Mem} (a x : Nat) (bs : List Byte) (w : Mem.wf m = true) :
    Mem.get (Mem.write m a bs) x = if a ≤ x ∧ x < a + bs.length then bs.getD (x - a) 0 else Mem.get m x := by
  induction bs generalizing m a with
  | nil =>
    have : ¬ (a ≤ x ∧ x < a + ([] : List Byte).length) := by simp
    rw [if_neg this]
    rfl
  | cons b bs ih =>
    rw [Mem.write, ih _ (Mem.wf_set a b w), Mem.get_set _ _ _ w]
    simp only [List.length_cons]
    by_cases e : a = x
    · subst e
      have h1 : ¬ (a + 1 ≤ a ∧ a < a + 1 + bs.length) := by omega
      have h2 : a ≤ a ∧ a < a + (bs.length + 1) := by omega
      rw [if_neg h1, if_pos rfl, if_pos h2]
      simp
    · by_cases h : a + 1 ≤ x ∧ x < a + 1 + bs.length
      · have h2 : a ≤ x ∧ x < a + (bs.length + 1) := by omega
        rw [if_pos h, if_pos h2]
        obtain ⟨k, rfl⟩ : ∃ k, x = a + 1 + k := ⟨x - (a + 1), by omega⟩
        have h3 : a + 1 + k - (a + 1) = k := by omega
        have h4 : a + 1 + k - a = k + 1 := by omega
        rw [h3, h4]
        simp
      · have h2 : ¬ (a ≤ x ∧ x < a + (bs.length + 1)) := by omega
        rw [if_neg h, if_neg h2, if_neg e]

end Sys2Proof.Machine
end

