-- ==== Sys2Proof/Laws/Access.lean ====
section
/-! SUPPORT. What accesses of the D space leave alone: one lemma per operation. -/

namespace Sys2Proof.Machine

theorem AccessOnly.rfl {c : Nat} {s : State} : AccessOnly c s s := ⟨fun _ _ => Eq.refl _, Eq.refl _, fun _ => Eq.refl _, fun _ => Eq.refl _, Eq.refl _⟩
theorem AccessOnly.trans {c : Nat} {s t u : State} (h : AccessOnly c s t) (g : AccessOnly c t u) : AccessOnly c s u :=
  ⟨fun x hx => (g.other x hx).trans (h.other x hx), g.core.trans h.core, fun f => (g.forge f).trans (h.forge f), fun sl => (g.meter sl).trans (h.meter sl),
   g.bare.trans h.bare⟩
theorem core_setCore (s : State) (c : Nat) (k : Core) (x : Nat) : (s.setCore c k).core x = if x = c then k else s.core x := by
  unfold State.setCore State.core Tbl.getD
  simp only [Tbl.get?_set, eq_comm (a := c)]
  split <;> rfl
theorem forge_setForge (s : State) (c : Nat) (k : Forge) (x : Nat) : (s.setForge c k).forge x = if x = c then k else s.forge x := by
  unfold State.setForge State.forge Tbl.getD
  simp only [Tbl.get?_set, eq_comm (a := c)]
  split <;> rfl
theorem AccessOnly.modCore {c : Nat} {s : State} {f : Core → Core} (h : (f (s.core c)).bare = (s.core c).bare) :
    AccessOnly c s (s.modCore c f) := by
  refine ⟨fun x hx => ?_, ?_, fun _ => Eq.refl _, fun _ => Eq.refl _, Eq.refl _⟩
  · unfold State.modCore; rw [core_setCore, if_neg hx]
  · unfold State.modCore; rw [core_setCore, if_pos (Eq.refl c)]; exact h
theorem AccessOnly.modOc {c : Nat} {s : State} {f : OpCache → OpCache}
    (h : { f (s.core c).oc with lines := [], accesses := 0, lost := [], wberr := false } = { (s.core c).oc with lines := [], accesses := 0, lost := [], wberr := false }) :
    AccessOnly c s (s.modOc c f) := AccessOnly.modCore (by unfold Core.bare; rw [h])
theorem AccessOnly.other_eq {c : Nat} {s t : State} (h1 : t.cpu.cores = s.cpu.cores) (h2 : ∀ f, { t.forge f with cluster := [] } = { s.forge f with cluster := [] })
    (h3 : t.bare = s.bare) (h4 : t.meter = s.meter) : AccessOnly c s t :=
  ⟨fun x _ => by unfold State.core; rw [h1], by unfold State.core; rw [h1], h2, fun _ => by rw [h4], h3⟩
theorem AccessOnly.foldl {α : Type} {c : Nat} {f : State → α → State} (h : ∀ s x, AccessOnly c s (f s x)) : ∀ (l : List α) (s : State), AccessOnly c s (l.foldl f s)
  | [], _ => .rfl
  | x :: l, s => (h s x).trans (AccessOnly.foldl h l (f s x))
theorem sendReq_only {c : Nat} {s : State} (r : HostReq) : AccessOnly c s (s.sendReq r) := by
  unfold State.sendReq
  simp only []
  repeat' split
  all_goals exact AccessOnly.other_eq (Eq.refl _) (fun _ => Eq.refl _) (Eq.refl _) (Eq.refl _)
theorem request_only {c : Nat} {s : State} (b : Bool) (p : Nat) (sl : Option Nat) (a n : Nat) (d : Bool) : AccessOnly c s (s.request b p sl a n d) :=
  AccessOnly.foldl (fun _ _ => sendReq_only _) _ _
theorem writeOut_only {c : Nat} {s : State} (p : Nat) (sl : Option Nat) (i : W64) (d : Data) (b : Bool) : AccessOnly c s (s.writeOut p sl i d b) :=
  (request_only false p sl i.toNat d.len b).trans (AccessOnly.other_eq (Eq.refl _) (fun _ => Eq.refl _) (Eq.refl _) (Eq.refl _))
theorem meterUp_only {c : Nat} {s : State} (sl : Nat) (f : Counts → Counts)
    (h : ∀ x : Counts, { f x with hostIn := 0, hostOut := 0 } = { x with hostIn := 0, hostOut := 0 }) : AccessOnly c s (s.meterUp sl f) := by
  unfold State.meterUp
  split
  · exact .rfl
  · rename_i m e
    refine ⟨fun _ _ => Eq.refl _, Eq.refl _, fun _ => Eq.refl _, fun k => ?_, Eq.refl _⟩
    simp only [Tbl.get?_set]
    split
    · rename_i hk
      rw [← hk, e]
      simp only [Option.map_some, SliceMeter.bare, h]
    · rfl
theorem hostWrite_only {c : Nat} {s : State} (sl i : Nat) (d : Data) : AccessOnly c s (s.hostWrite sl i d) := by
  have out : ∀ (s : State) (i : Nat) (d : Data), AccessOnly c s (s.emitDma sl i d) := fun _ _ _ => writeOut_only _ _ _ _ _
  have set : ∀ (s : State) (x : HostSide), { x with mig := [], paused := [] } = { s.host with mig := [], paused := [] } → AccessOnly c s { s with host := x } := by
    intro s x h
    refine AccessOnly.other_eq (Eq.refl _) (fun _ => Eq.refl _) ?_ (Eq.refl _)
    unfold State.bare; simp only [h]
  have dp : ∀ (s : State) (i : Nat) (d : Data), AccessOnly c s (s.dmaPage sl i d) := by
    intro s i d
    unfold State.dmaPage
    split
    · exact set _ _ (Eq.refl _)
    · unfold State.logPage
      split
      · rename_i e
        split at e
        · cases e; exact out _ _ _
        · split at e
          · cases e
          · cases e; refine AccessOnly.trans ?_ (out _ _ _); exact set _ _ (Eq.refl _)
          · cases e
            refine AccessOnly.trans ?_ (out _ _ _)
            split
            · refine AccessOnly.trans ?_ (writeOut_only _ _ _ _ _); exact set _ _ (Eq.refl _)
            · exact set _ _ (Eq.refl _)
      · exact set _ _ (Eq.refl _)
  unfold State.hostWrite
  split
  · exact .rfl
  · split
    · exact out _ _ _
    · exact AccessOnly.foldl (fun s (p : Nat × Nat) => dp s p.1 (Data.sub d (p.1 - i) p.2)) _ _
theorem rawWrite_only {c : Nat} {s : State} (p : Place) (bs : List Byte) : AccessOnly c s (s.rawWrite c p bs) := by
  cases p with
  | bench o =>
    unfold State.rawWrite State.modCtx
    exact AccessOnly.modCore (Eq.refl _)
  | cluster o =>
    refine AccessOnly.other_eq (Eq.refl _) (fun f => ?_) (Eq.refl _) (Eq.refl _)
    unfold State.rawWrite
    simp only [forge_setForge]
    split <;> simp_all
  | loc sl o => exact AccessOnly.other_eq (Eq.refl _) (fun _ => Eq.refl _) (Eq.refl _) (Eq.refl _)
  | host sl i => exact (hostWrite_only _ _ _).trans (meterUp_only _ (fun m => { m with hostOut := m.hostOut + bs.length }) fun _ => Eq.refl _)
theorem hostRead_only {c : Nat} {s : State} (sl a n : Nat) : AccessOnly c s (s.hostRead sl a n) := by
  unfold State.hostRead
  split
  · exact .rfl
  · exact request_only _ _ _ _ _ _
theorem rawRead_only {c : Nat} {s : State} (p : Place) (n : Nat) : AccessOnly c s (s.rawRead c p n).2 := by
  cases p with
  | host sl i =>
    have h : AccessOnly c s (s.drawnN n) := AccessOnly.other_eq (Eq.refl _) (fun _ => Eq.refl _) (Eq.refl _) (Eq.refl _)
    exact (h.trans (hostRead_only _ _ _)).trans (meterUp_only _ (fun m => { m with hostIn := m.hostIn + n }) fun _ => Eq.refl _)
  | _ => exact .rfl
theorem writeWords_only {c : Nat} {l : CacheLine} : ∀ (ks : List Nat) {s : State}, AccessOnly c s (s.writeWords c l ks)
  | [], s => .rfl
  | k :: ks, s => by
    unfold State.writeWords
    refine AccessOnly.trans ?_ (writeWords_only ks)
    repeat' split
    all_goals first | exact rawWrite_only _ _ | exact .rfl
theorem logLost_only {c : Nat} {s : State} (unit addr : List Nat) : AccessOnly c s (s.logFault 0x14 4 unit none addr [0]) :=
  AccessOnly.other_eq (Eq.refl _) (fun _ => Eq.refl _) (by simp [State.logFault, State.bare]) (Eq.refl _)
theorem writeBack_only {c : Nat} {s : State} (i : Nat) : AccessOnly c s (s.writeBack c i) := by
  unfold State.writeBack
  split
  · exact .rfl
  · simp only []
    refine AccessOnly.trans ?_ (AccessOnly.modOc (Eq.refl _))
    split
    · exact logLost_only _ _
    · exact writeWords_only _
theorem invalidate_only {c : Nat} {s : State} (i : Nat) : AccessOnly c s (s.invalidate c i) := AccessOnly.modOc (Eq.refl _)
theorem fill_only {c : Nat} {s : State} (b : Bool) (a : Nat) : AccessOnly c s (s.fill c b a) := by
  unfold State.fill
  simp only []
  repeat' split
  all_goals first | exact .rfl | exact ((writeBack_only _).trans (rawRead_only _ _)).trans (AccessOnly.modOc (Eq.refl _))
theorem touch_only {c : Nat} {s : State} (i : Nat) (l : CacheLine) : AccessOnly c s (s.touch c i l) := AccessOnly.modOc (Eq.refl _)
theorem countAccess_only {c : Nat} {s : State} : AccessOnly c s (s.countAccess c) := AccessOnly.modOc (Eq.refl _)
theorem scrub_only {c : Nat} {s t : State} {a : Nat} (h : cacheScrub s c a = .ok t) : AccessOnly c s t := by
  unfold cacheScrub at h
  split at h
  · split at h
    · split at h
      · cases h; exact invalidate_only _
      · cases h
    · cases h; exact .rfl
  · cases h; exact .rfl
theorem ok_bind {ε α β : Type} {m : Except ε α} {f : α → Except ε β} {b : β} (h : (m >>= f) = .ok b) : ∃ a, m = .ok a ∧ f a = .ok b := by
  cases m with
  | error e => cases h
  | ok a => exact ⟨a, Eq.refl _, h⟩
theorem cacheRead_only {c : Nat} {s t : State} {b : Bool} {p : Place} {a n : Nat} {bs : List Byte} (h : cacheRead s c b p a n = .ok (bs, t)) :
    AccessOnly c s t := by
  unfold cacheRead at h
  simp only [] at h
  split at h
  · have := rawRead_only (c := c) (s := s) p n
    rw [Except.ok.inj h] at this; exact this
  · obtain ⟨u, h1, h⟩ := ok_bind h
    have g := (scrub_only h1).trans countAccess_only
    split at h
    · cases h; exact g.trans (touch_only _ _)
    · have g2 : AccessOnly c s (if (s.core c).oc.policy a = 3 then u.countAccess c else (u.countAccess c).fill c b a) := by
        split
        · exact g
        · exact g.trans (fill_only _ _)
      split at h
      · cases h; exact g2
      · have g3 := g2.trans (rawRead_only (c := c) p n)
        rw [Except.ok.inj h] at g3; exact g3
theorem cacheWrite_only {c : Nat} {s t : State} {b : Bool} {p : Place} {a : Nat} {bs : List Byte} (h : cacheWrite s c b p a bs = .ok t) :
    AccessOnly c s t := by
  unfold cacheWrite at h
  simp only [] at h
  split at h
  · cases h; exact rawWrite_only _ _
  · obtain ⟨u, h1, h⟩ := ok_bind h
    have g := (scrub_only h1).trans countAccess_only
    have g2 : AccessOnly c s (if (s.core c).oc.policy a = 1 ∧ (((u.countAccess c).core c).oc.find a).isNone then (u.countAccess c).fill c b a else u.countAccess c) := by
      split
      · exact g.trans (fill_only _ _)
      · exact g
    split at h
    · cases h
      split
      · exact (g2.trans (AccessOnly.modOc (Eq.refl _))).trans (rawWrite_only _ _)
      · exact g2.trans (AccessOnly.modOc (Eq.refl _))
    · cases h; exact g2.trans (rawWrite_only _ _)
theorem readPieces_only {c : Nat} {b : Bool} : ∀ (ps : List (Nat × Nat)) {s t : State} {bs : List Byte}, readPieces c b ps s = .ok (bs, t) → AccessOnly c s t
  | [], s, t, bs, h => by cases h; exact .rfl
  | (a, n) :: ps, s, t, bs, h => by
    unfold readPieces at h
    split at h
    · cases h
    · obtain ⟨⟨b1, u⟩, h1, h⟩ := ok_bind h
      obtain ⟨⟨b2, v⟩, h2, h⟩ := ok_bind h
      cases h
      exact (cacheRead_only h1).trans (readPieces_only ps h2)
theorem writePieces_only {c : Nat} {b : Bool} : ∀ (ps : List (Nat × Nat)) {s t : State} {bs : List Byte}, writePieces c b ps bs s = .ok t → AccessOnly c s t
  | [], s, t, bs, h => by cases h; exact .rfl
  | (a, n) :: ps, s, t, bs, h => by
    unfold writePieces at h
    split at h
    · cases h
    · obtain ⟨u, h1, h⟩ := ok_bind h
      exact (cacheWrite_only h1).trans (writePieces_only ps h)
theorem memRead_only {c : Nat} {st al : Bool} {a : W64} {n : Nat} {s t : State} {bs : List Byte} (h : memRead c st al a n s = .ok (bs, t)) : AccessOnly c s t := by
  unfold memRead at h
  obtain ⟨p, h1, h⟩ := ok_bind h
  obtain ⟨_, h2, h⟩ := ok_bind h
  split at h
  · cases h; exact .rfl
  · exact readPieces_only _ h
theorem markWritten_only {c : Nat} {s : State} (p : Place) (n : Nat) : AccessOnly c s (s.markWritten c p n) := by
  cases p <;> unfold State.markWritten <;> first | exact .rfl | (dsimp only; exact AccessOnly.modCore (Eq.refl _))
theorem memWrite_only {c : Nat} {st al : Bool} {a : W64} {bs : List Byte} {s t : State} (h : memWrite c st al a bs s = .ok ((), t)) : AccessOnly c s t := by
  unfold memWrite at h
  obtain ⟨p, h1, h⟩ := ok_bind h
  obtain ⟨_, h2, h⟩ := ok_bind h
  have g := markWritten_only (c := c) (s := s) p bs.length
  split at h
  · cases h; exact g.trans (rawWrite_only _ _)
  · obtain ⟨u, h3, h⟩ := ok_bind h
    cases h
    exact g.trans (writePieces_only _ h3)

end Sys2Proof.Machine
end

