-- ==== Sys2Proof/Laws/Command.lean ====
section
/-! SUPPORT. What the shared frames of NVMe commands do when their first checks pass. -/

namespace Sys2Proof.Machine

/-- An admin command that passes the first checks is its body, begun. -/
theorem admin_eq (s : State) (q : Src) (e : Sqe) (opc : Nat) (allow : CtrlKind → Bool) (body : State → State)
    (h : s.AdminOk q e opc allow) : s.adminCmd q e opc allow body = body (s.begin q e.cid) := by
  obtain ⟨h1, h2, h3, h4, h5⟩ := h
  unfold State.adminCmd
  rw [if_neg (by simp [h1, h2, h3])]
  simp only [h4, h5, Bool.not_true, Bool.false_eq_true, if_false, ne_eq, not_true_eq_false]

/-- Beginning a command leaves its controller. -/
theorem srcCtrl_begin (s : State) (q : Src) (w : W16) : (s.begin q w).srcCtrl q = s.srcCtrl q := by
  cases q <;> rfl

/-- A feature that may be set is its body. -/
theorem set_eq (s : State) (q : Src) (e : Sqe) (fid : Nat) (body : State → State) (h : s.Settable q e fid) :
    s.setFeature q e fid body = body (s.begin q e.cid) := by
  obtain ⟨h1, h2, h3, h4⟩ := h
  unfold State.setFeature
  rw [if_neg (by simp [h2]), admin_eq _ _ _ _ _ _ h1]
  simp only [h3, h4, Bool.false_eq_true, if_false]

/-- A namespace command of a slice. -/
theorem nsAdmin_eq (s : State) (q : Src) (e : Sqe) (opc sl : Nat) (body : Nat → State → State) (hq : q.slice? = some sl)
    (h : s.AdminOk q e opc onSlice) : s.nsAdmin q e opc body =
      if (s.begin q e.cid).sanitizing sl then (s.begin q e.cid).fail q e.cid 0 0x1D else body sl (s.begin q e.cid) := by
  unfold State.nsAdmin; rw [admin_eq _ _ _ _ _ _ h]; simp only [hq]

/-- Beginning a command leaves the slices. -/
theorem slice_begin (s : State) (q : Src) (c : W16) (i : Nat) : (s.begin q c).slice i = s.slice i := by
  cases q <;> rfl

/-- What a manager command on a slice answers. -/
theorem sliceCmd_eq (s : State) (q : Src) (e : Sqe) (body : Nat → State → State) :
    (s.sliceCmd q e body) = if (s.slice (sliceArg e)).st = .absent then s.fail q e.cid 0 2
      else if (s.slice (sliceArg e)).st.moving then s.fail q e.cid 7 0x83 else body (sliceArg e) s := rfl

/-- An I/O command whose slice executes is its body, begun. -/
theorem ioCmd_eq (s : State) (q : Src) (e : Sqe) (opc sl : Nat) (core : Bool) (body : Nat → State → State)
    (h : s.IoOk q e opc sl core) : s.ioCmd q e opc core body = body sl (s.begin q e.cid) := by
  obtain ⟨h1, h2, h3, h4, h5⟩ := h
  unfold State.ioCmd; rw [if_neg (by simp [h1, h2, h3]), h4]; simp only [h5, if_true]

/-- Beginning a command leaves the namespaces. -/
theorem begin_findNs (s : State) (q : Src) (c : W16) (sl n : Nat) : (s.begin q c).findNs sl n = s.findNs sl n := by cases q <;> rfl

/-- Beginning a command leaves the namespaces. -/
theorem begin_nsx (s : State) (q : Src) (c : W16) (x : Nat) : (s.begin q c).nsx x = s.nsx x := by cases q <;> rfl

/-- Beginning a command leaves a sanitize. -/
theorem begin_sanitizing (s : State) (q : Src) (c : W16) (x : Nat) : (s.begin q c).sanitizing x = s.sanitizing x := by cases q <;> rfl

/-- A command on an attached namespace is its body, begun. -/
theorem nsCmd_eq (s : State) (q : Src) (e : Sqe) (opc sl x : Nat) (ns : Ns) (rs : List (Nat × Nat)) (n : NsSpec → List (Nat × Nat))
    (body : Nat → Nat → State → State) (h : s.NsOk q e opc sl x ns rs) (hn : n ns.spec = rs) :
    s.nsCmd q e opc n body = body sl x (s.begin q e.cid) := by
  obtain ⟨h1, h2, h3, h4, h5, h6⟩ := h
  unfold State.nsCmd
  simp only [h1.slice, Option.bind_some, h2, hn]
  rw [if_neg (by rw [h5]; decide), ioCmd_eq _ _ _ _ _ _ _ h1]
  simp only [begin_sanitizing, h6, begin_findNs, h2, h4, if_true, Bool.false_eq_true, if_false]

end Sys2Proof.Machine
end

