-- ==== Sys2Proof/Laws/Keep.lean ====
section
/-! SUPPORT. What the shared operations keep: the queue of waiting commands and the invariant of the block. `Keep q p up s`
is carried through every operation, so one lemma says all three. -/

namespace Sys2Proof.Machine

/-- The queue is `q`, the state is sound if `p`, and the rails are up with PERST_N high if `up`. -/
def Keep (q : List Instr) (p up : Prop) (s : State) : Prop :=
  s.pending = q ∧ (p → s.sound) ∧ (up → s.dev.pwr.rails = true ∧ s.dev.pwr.perst = false)

variable {q : List Instr} {p up : Prop} {s : State}

/-- `Keep` by the parts it reads. -/
def KeepParts (q : List Instr) (p up : Prop) (pending : List Instr) (dram : Dram) (hm : Hallmark) (dev : Device) : Prop :=
  pending = q ∧ (p → dram.sound ∧ hm.sound ∧ dev.sound) ∧ (up → dev.pwr.rails = true ∧ dev.pwr.perst = false)

theorem keep_mk (cpu host time meter dram dev hm rel media out free pending) :
    Keep q p up ⟨cpu, host, time, meter, dram, dev, hm, rel, media, out, free, pending⟩
      ↔ KeepParts q p up pending dram hm dev :=
  Iff.rfl

theorem Keep.pending (h : Keep q p up s) : s.pending = q := h.1
theorem Keep.dram (h : Keep q p up s) (hp : p) : s.dram.sound := (h.2.1 hp).1
theorem Keep.hm (h : Keep q p up s) (hp : p) : s.hm.sound := (h.2.1 hp).2.1
theorem Keep.dev (h : Keep q p up s) (hp : p) : s.dev.sound := (h.2.1 hp).2.2

/-- What `Keep` reads of a state. -/
abbrev keepCore (pending : List Instr) (dram : Dram) (hm : Hallmark) (dev : Device) :=
  (pending, dram.locals, dram.filled, hm.fwSvn, dev.split, dev.mgrPort, dev.ps, dev.psOper, dev.psNext, dev.apst,
    dev.pwr.phase, dev.pwr.rails, dev.pwr.perst)

theorem keep_like {l : List Instr} {d : Dram} {k : Hallmark} {v : Device} (h : Keep q p up s)
    (e : keepCore l d k v = keepCore s.pending s.dram s.hm s.dev) : KeepParts q p up l d k v := by
  simp only [keepCore, Prod.mk.injEq] at e
  simpa only [Keep, KeepParts, State.sound, Dram.sound, Hallmark.sound, Device.sound, Power.sound, e] using h

theorem keep_mix {l : List Instr} {d : Dram} {k : Hallmark} {v : Device} {s1 s2 s3 : State} (h : Keep q p up s)
    (h1 : Keep q p up s1) (h2 : Keep q p up s2) (h3 : Keep q p up s3) (e : l = s.pending)
    (e1 : (d.locals, d.filled) = (s1.dram.locals, s1.dram.filled)) (e2 : k.fwSvn = s2.hm.fwSvn)
    (e3 : keepCore l d k v = keepCore l d k s3.dev) : KeepParts q p up l d k v := by
  simp only [keepCore, Prod.mk.injEq, true_and] at e1 e3
  simp only [Keep, State.sound, Dram.sound, Hallmark.sound, Device.sound, Power.sound] at h h1 h2 h3
  simp only [KeepParts, Dram.sound, Hallmark.sound, Device.sound, Power.sound, e, e1, e2, e3]
  exact ⟨h.1, fun hp => ⟨(h1.2.1 hp).1, (h2.2.1 hp).2.1, (h3.2.1 hp).2.2⟩, h3.2.2⟩

theorem keep_cut {P : Prop} (hs : Keep q p up s) (h : Keep q p up s → P) : P := h hs

theorem keep_ite {c : Prop} [Decidable c] {a b : State} (ha : Keep q p up a) (hb : Keep q p up b) :
    Keep q p up (if c then a else b) := by
  split
  · exact ha
  · exact hb

theorem keep_foldl {α : Type} {f : State → α → State} (l : List α) (hf : ∀ s x, Keep q p up s → Keep q p up (f s x)) :
    ∀ s, Keep q p up s → Keep q p up (l.foldl f s) := by
  induction l with
  | nil => exact fun s h => h
  | cons x l ih => exact fun s h => ih _ (hf s x h)

theorem keep_foldl_fst {α β : Type} {f : State × β → α → State × β} (l : List α)
    (hf : ∀ x y, Keep q p up x.1 → Keep q p up (f x y).1) :
    ∀ x : State × β, Keep q p up x.1 → Keep q p up (l.foldl f x).1 := by
  induction l with
  | nil => exact fun x h => h
  | cons y l ih => exact fun x h => ih _ (hf x y h)

end Sys2Proof.Machine
end

