-- ==== Sys2Proof/Laws/Keep01.lean ====
section
/-! SUPPORT. What each function keeps, from `State.drawn` to `checkBus`: one lemma per function, cited by the functions that
call it. -/

namespace Sys2Proof.Machine

variable {q : List Instr} {p up : Prop}

theorem State.drawn_keep {s : State} (h : Keep q p up s) :
    Keep q p up (State.drawn s) := by
  unfold State.drawn
  repeat' (first | with_reducible assumption | simp -zeta only [keep_mk]
                 | with_reducible refine keep_like ?_ (by with_reducible rfl))

theorem State.drawnN_keep {s : State} (n : Nat) (h : Keep q p up s) :
    Keep q p up (State.drawnN s n) := by
  unfold State.drawnN
  repeat' (first | with_reducible assumption | simp -zeta only [keep_mk]
                 | with_reducible refine keep_like ?_ (by with_reducible rfl))

theorem State.setCore_keep {s : State} (c : Nat) (k : Core) (h : Keep q p up s) :
    Keep q p up (State.setCore s c k) := by
  unfold State.setCore
  repeat' (first | with_reducible assumption | simp -zeta only [keep_mk]
                 | with_reducible refine keep_like ?_ (by with_reducible rfl))

theorem State.setForge_keep {s : State} (f : Nat) (k : Forge) (h : Keep q p up s) :
    Keep q p up (State.setForge s f k) := by
  unfold State.setForge
  repeat' (first | with_reducible assumption | simp -zeta only [keep_mk]
                 | with_reducible refine keep_like ?_ (by with_reducible rfl))

theorem State.setRun_keep {s : State} (r : Nat) (k : Run) (h : Keep q p up s) :
    Keep q p up (State.setRun s r k) := by
  unfold State.setRun
  repeat' (first | with_reducible assumption | simp -zeta only [keep_mk]
                 | with_reducible refine keep_like ?_ (by with_reducible rfl))

theorem State.setCtrl_keep {s : State} (i : Nat) (k : Ctrl) (h : Keep q p up s) :
    Keep q p up (State.setCtrl s i k) := by
  unfold State.setCtrl
  repeat' (first | with_reducible assumption | simp -zeta only [keep_mk]
                 | with_reducible refine keep_like ?_ (by with_reducible rfl))

theorem State.setSlice_keep {s : State} (i : Nat) (k : Slice) (h : Keep q p up s) :
    Keep q p up (State.setSlice s i k) := by
  unfold State.setSlice
  repeat' (first | with_reducible assumption | simp -zeta only [keep_mk]
                 | with_reducible refine keep_like ?_ (by with_reducible rfl))

theorem State.meterUp_keep {s : State} (sl : Nat) (f : Counts → Counts) (h : Keep q p up s) :
    Keep q p up (State.meterUp s sl f) := by
  unfold State.meterUp
  repeat' (first | with_reducible assumption | simp -zeta only [keep_mk]
                 | with_reducible refine keep_like ?_ (by with_reducible rfl) | split)

theorem State.localWrite_keep {s : State} (sl off : Nat) (bs : List Byte) (h : Keep q p up s) :
    Keep q p up (State.localWrite s sl off bs) := by
  refine ⟨h.1, fun hp => ⟨⟨?_, (h.dram hp).2⟩, h.hm hp, h.dev hp⟩, h.2.2⟩
  intro x hx
  rcases Tbl.mem_set hx with rfl | hx
  · refine Mem.wf_write _ _ ?_
    unfold State.localMem Tbl.getD
    cases e : Tbl.get? s.dram.locals sl with
    | none => rfl
    | some m => exact (h.dram hp).1 _ (Tbl.mem_of_get? e)
  · exact (h.dram hp).1 x hx

theorem State.localWriteData_keep {s : State} (sl : Nat) (off : Nat) (d : Data) (h : Keep q p up s) :
    Keep q p up (State.localWriteData s sl off d) := by
  unfold State.localWriteData
  repeat' (first | with_reducible assumption | with_reducible apply State.localWrite_keep
                 | (with_reducible refine fun _ => ?_) | with_reducible apply keep_foldl)

theorem State.sendReq_keep {s : State} (r : HostReq) (h : Keep q p up s) :
    Keep q p up (State.sendReq s r) := by
  unfold State.sendReq
  repeat' (first | with_reducible assumption | ((try lift_lets); intro s1; subst s1) | simp -zeta only [keep_mk]
                 | with_reducible refine keep_like ?_ (by with_reducible rfl) | split)

theorem State.request_keep {s : State} (read : Bool) (port : Nat) (slice : Option Nat) (a : Nat) (n : Nat) (data : Bool)
    (h : Keep q p up s) :
    Keep q p up (State.request s read port slice a n data) := by
  unfold State.request
  repeat' (first | with_reducible assumption | with_reducible apply State.sendReq_keep
                 | (with_reducible refine fun _ => ?_) | with_reducible apply keep_foldl)

theorem State.reqDone_keep {s : State} (port : Nat) (h : Keep q p up s) :
    Keep q p up (State.reqDone s port) := by
  unfold State.reqDone
  repeat' (first | with_reducible assumption | ((try lift_lets); intro s1; subst s1) | simp -zeta only [keep_mk]
                 | with_reducible refine keep_like ?_ (by with_reducible rfl) | split)

theorem State.writeOut_keep {s : State} (port : Nat) (slice : Option Nat) (iova : W64) (d : Data) (data : Bool)
    (h : Keep q p up s) :
    Keep q p up (State.writeOut s port slice iova d data) := by
  unfold State.writeOut
  repeat' (first | with_reducible assumption | with_reducible apply State.request_keep
                 | ((try lift_lets); intro s1; refine keep_cut (q := q) (p := p) (up := up) (s := s1) ?_ ?_; rotate_left; clear_value s1; intro _; rotate_left; subst s1)
                 | simp -zeta only [keep_mk] | with_reducible refine keep_like ?_ (by with_reducible rfl))

theorem State.mgrWrite_keep {s : State} (iova : W64) (bs : List Byte) (h : Keep q p up s) :
    Keep q p up (State.mgrWrite s iova bs) := by
  unfold State.mgrWrite
  repeat' (first | with_reducible assumption | with_reducible apply State.writeOut_keep)

theorem State.sendRec_keep {s : State} (l : MigLog) (r : MigRec) (h : Keep q p up s) :
    Keep q p up (State.sendRec s l r) := by
  unfold State.sendRec
  repeat' (first | with_reducible assumption | with_reducible apply State.mgrWrite_keep)

theorem State.emitDma_keep {s : State} (sl : Nat) (iova : Nat) (d : Data) (h : Keep q p up s) :
    Keep q p up (State.emitDma s sl iova d) := by
  unfold State.emitDma
  repeat' (first | with_reducible assumption | with_reducible apply State.writeOut_keep)

theorem State.hostRead_keep {s : State} (sl : Nat) (a : Nat) (n : Nat) (h : Keep q p up s) :
    Keep q p up (State.hostRead s sl a n) := by
  unfold State.hostRead
  repeat' (first | with_reducible assumption | with_reducible apply State.request_keep | split)

theorem State.logPage_keep {s t : State} {sl page : Nat} (e : State.logPage s sl page = some t) (h : Keep q p up s) :
    Keep q p up t := by
  unfold State.logPage at e
  repeat' split at e
  all_goals first
    | (cases e; assumption)
    | (cases e; split <;> first | (apply State.sendRec_keep; exact h) | exact h)
    | cases e

theorem State.dmaPage_keep {s : State} (sl : Nat) (iova : Nat) (d : Data) (h : Keep q p up s) :
    Keep q p up (State.dmaPage s sl iova d) := by
  unfold State.dmaPage
  repeat' (first | with_reducible assumption
                 | with_reducible refine State.logPage_keep (by with_reducible assumption) ?_
                 | with_reducible apply State.emitDma_keep | simp -zeta only [keep_mk]
                 | with_reducible refine keep_like ?_ (by with_reducible rfl) | split)

theorem State.hostWrite_keep {s : State} (sl : Nat) (iova : Nat) (d : Data) (h : Keep q p up s) :
    Keep q p up (State.hostWrite s sl iova d) := by
  unfold State.hostWrite
  repeat' (first | with_reducible assumption | with_reducible apply State.emitDma_keep
                 | with_reducible apply State.dmaPage_keep | (with_reducible refine fun _ => ?_)
                 | with_reducible apply keep_foldl | split)

theorem State.dramSleep_keep {s : State} (h : Keep q p up s) :
    Keep q p up (State.dramSleep s) := by
  unfold State.dramSleep
  repeat' (first | with_reducible assumption | simp -zeta only [keep_mk]
                 | with_reducible refine keep_like ?_ (by with_reducible rfl) | split)

theorem State.dramWake_keep {s : State} (h : Keep q p up s) :
    Keep q p up (State.dramWake s) := by
  unfold State.dramWake
  repeat' (first | with_reducible assumption | simp -zeta only [keep_mk]
                 | with_reducible refine keep_like ?_ (by with_reducible rfl) | split)

theorem State.logFault_keep {s : State} (event : Nat) (sev : Nat) (unit : List Nat) (slice : Option Nat) (addr : List Nat) (detail : List Nat)
    (h : Keep q p up s) :
    Keep q p up (State.logFault s event sev unit slice addr detail) := by
  unfold State.logFault
  repeat' (first | with_reducible assumption | ((try lift_lets); intro s1; subst s1) | simp -zeta only [keep_mk]
                 | with_reducible refine keep_like ?_ (by with_reducible rfl))

theorem State.modCtrl_keep {s : State} (i : Nat) (f : Ctrl → Ctrl) (h : Keep q p up s) :
    Keep q p up (State.modCtrl s i f) := by
  unfold State.modCtrl
  repeat' (first | with_reducible assumption | with_reducible apply State.setCtrl_keep)

theorem State.modSlice_keep {s : State} (i : Nat) (f : Slice → Slice) (h : Keep q p up s) :
    Keep q p up (State.modSlice s i f) := by
  unfold State.modSlice
  repeat' (first | with_reducible assumption | with_reducible apply State.setSlice_keep)

theorem State.modSq_keep {s : State} (i : Nat) (n : Nat) (f : Sq → Sq) (h : Keep q p up s) :
    Keep q p up (State.modSq s i n f) := by
  unfold State.modSq
  repeat' (first | with_reducible assumption | with_reducible apply State.modCtrl_keep)

theorem State.raiseMsi_keep {s : State} (i : Nat) (v : Nat) (h : Keep q p up s) :
    Keep q p up (State.raiseMsi s i v) := by
  unfold State.raiseMsi
  repeat' (first | with_reducible assumption | with_reducible apply State.modCtrl_keep | simp -zeta only [keep_mk]
                 | with_reducible refine keep_like ?_ (by with_reducible rfl) | split)

theorem State.flushMsi_keep {s : State} (i : Nat) (h : Keep q p up s) :
    Keep q p up (State.flushMsi s i) := by
  unfold State.flushMsi
  repeat' (first | with_reducible assumption | with_reducible apply State.raiseMsi_keep
                 | with_reducible apply State.modCtrl_keep | (with_reducible refine fun _ => ?_)
                 | with_reducible apply keep_foldl | split)

theorem State.signal_keep {s : State} (i : Nat) (cq : Nat) (v : Nat) (h : Keep q p up s) :
    Keep q p up (State.signal s i cq v) := by
  unfold State.signal
  repeat' (first | with_reducible assumption | with_reducible apply State.raiseMsi_keep
                 | with_reducible apply State.modCtrl_keep | ((try lift_lets); intro s1; subst s1) | split)

theorem State.writeCqe_keep {s : State} (p0 : PendCqe) (h : Keep q p up s) :
    Keep q p up (State.writeCqe s p0) := by
  unfold State.writeCqe
  repeat' (first | with_reducible assumption | with_reducible apply State.modCtrl_keep
                 | with_reducible apply State.writeOut_keep | with_reducible apply State.meterUp_keep
                 | with_reducible apply State.signal_keep | ((try lift_lets); intro s1; subst s1)
                 | simp -zeta only [keep_mk] | with_reducible refine keep_like ?_ (by with_reducible rfl) | split)

theorem State.cqePast_keep {s : State} (p0 : PendCqe) (h : Keep q p up s) :
    Keep q p up (State.cqePast s p0) := by
  unfold State.cqePast
  repeat' (first | with_reducible assumption | with_reducible apply State.writeCqe_keep
                 | with_reducible refine State.logPage_keep (by with_reducible assumption) ?_
                 | ((try lift_lets); intro s1; subst s1) | simp -zeta only [keep_mk]
                 | with_reducible refine keep_like ?_ (by with_reducible rfl) | split)

theorem State.post_keep {s : State} (p0 : PendCqe) (h : Keep q p up s) :
    Keep q p up (State.post s p0) := by
  unfold State.post
  repeat' (first | with_reducible assumption | with_reducible apply State.cqePast_keep
                 | with_reducible apply State.modCtrl_keep | split)

theorem State.drainCqes_keep {s : State} (i : Nat) (h : Keep q p up s) :
    Keep q p up (State.drainCqes s i) := by
  unfold State.drainCqes
  repeat' (first | with_reducible assumption | with_reducible apply State.cqePast_keep
                 | with_reducible apply State.modCtrl_keep | (with_reducible refine fun _ => ?_)
                 | with_reducible apply keep_foldl_fst | split)

theorem State.modCmd_keep {s : State} (q0 : Src) (cid : W16) (f : Fetched → Fetched) (h : Keep q p up s) :
    Keep q p up (State.modCmd s q0 cid f) := by
  unfold State.modCmd
  repeat' (first | with_reducible assumption | with_reducible apply State.modSq_keep | split)

theorem State.begin_keep {s : State} (q0 : Src) (cid : W16) (h : Keep q p up s) :
    Keep q p up (State.begin s q0 cid) := by
  unfold State.begin
  repeat' (first | with_reducible assumption | with_reducible apply State.modCmd_keep | simp -zeta only [keep_mk]
                 | with_reducible refine keep_like ?_ (by with_reducible rfl) | split)

theorem State.modLog_keep {s : State} (i : Nat) (f : CtrlLog → CtrlLog) (h : Keep q p up s) :
    Keep q p up (State.modLog s i f) := by
  unfold State.modLog
  repeat' (first | with_reducible assumption | simp -zeta only [keep_mk]
                 | with_reducible refine keep_like ?_ (by with_reducible rfl))

theorem State.readsOf_keep {s : State} (q0 : Src) (cid : W16) (toHost : Bool) (n : Nat) (h : Keep q p up s) :
    Keep q p up (State.readsOf s q0 cid toHost n) := by
  unfold State.readsOf
  repeat' (first | with_reducible assumption | with_reducible apply State.request_keep
                 | (with_reducible refine fun _ => ?_) | with_reducible apply keep_foldl | split)

theorem State.moved_keep {s : State} (q0 : Src) (cid : W16) (toHost : Bool) (n : Nat) (h : Keep q p up s) :
    Keep q p up (State.moved s q0 cid toHost n) := by
  unfold State.moved
  repeat' (first | with_reducible assumption | with_reducible apply State.modCmd_keep
                 | with_reducible apply State.readsOf_keep | with_reducible apply State.meterUp_keep
                 | with_reducible apply State.modLog_keep | split)

theorem State.logError_keep {s : State} (i : Nat) (sq : Nat) (cid : W16) (sct : Nat) (sc : Nat) (nsid : Nat) (lba : Nat)
    (h : Keep q p up s) :
    Keep q p up (State.logError s i sq cid sct sc nsid lba) := by
  unfold State.logError
  repeat' (first | with_reducible assumption | with_reducible apply State.modLog_keep)

theorem State.complete_keep {s : State} (q0 : Src) (cid : W16) (sct : Nat) (sc : Nat) (dw0 : W32) (dw1 : W32)
    (h : Keep q p up s) :
    Keep q p up (State.complete s q0 cid sct sc dw0 dw1) := by
  unfold State.complete
  repeat' (first | with_reducible assumption | with_reducible apply State.logError_keep
                 | with_reducible apply State.modSq_keep | with_reducible apply State.modLog_keep
                 | with_reducible apply State.post_keep | ((try lift_lets); intro s1; subst s1)
                 | simp -zeta only [keep_mk] | with_reducible refine keep_like ?_ (by with_reducible rfl) | split)

theorem State.succeed_keep {s : State} (q0 : Src) (cid : W16) (h : Keep q p up s) :
    Keep q p up (State.succeed s q0 cid) := by
  unfold State.succeed
  repeat' (first | with_reducible assumption | with_reducible apply State.complete_keep)

theorem State.fail_keep {s : State} (q0 : Src) (cid : W16) (sct : Nat) (sc : Nat) (h : Keep q p up s) :
    Keep q p up (State.fail s q0 cid sct sc) := by
  unfold State.fail
  repeat' (first | with_reducible assumption | with_reducible apply State.complete_keep)

theorem State.portWrite_keep {s : State} (i : Nat) (iova : W64) (d : Data) (h : Keep q p up s) :
    Keep q p up (State.portWrite s i iova d) := by
  unfold State.portWrite
  repeat' (first | with_reducible assumption | with_reducible apply State.writeOut_keep | simp -zeta only [keep_mk]
                 | with_reducible refine keep_like ?_ (by with_reducible rfl) | split)

theorem State.tagPaused_keep {s : State} (k : Nat) (n : Nat) (h : Keep q p up s) :
    Keep q p up (State.tagPaused s k n) := by
  unfold State.tagPaused
  repeat' (first | with_reducible assumption | simp -zeta only [keep_mk]
                 | with_reducible refine keep_like ?_ (by with_reducible rfl))

theorem State.sendTo_keep {s : State} (q0 : Src) (ptr : DataPtr) (d : Data) (h : Keep q p up s) :
    Keep q p up (State.sendTo s q0 ptr d) := by
  unfold State.sendTo
  repeat' (first | with_reducible assumption | with_reducible apply State.tagPaused_keep
                 | with_reducible apply State.hostWrite_keep | with_reducible apply State.portWrite_keep
                 | (with_reducible refine fun _ => ?_) | with_reducible apply keep_foldl_fst
                 | simp -zeta only [keep_mk] | with_reducible refine keep_like ?_ (by with_reducible rfl) | split)

theorem State.adminCmd_keep {s : State} (q0 : Src) (e0 : Sqe) (opc : Nat) (allow : CtrlKind → Bool) (body : State → State)
    (h : Keep q p up s) (hf : ∀ y0, Keep q p up y0 → Keep q p up (body y0)) :
    Keep q p up (State.adminCmd s q0 e0 opc allow body) := by
  unfold State.adminCmd
  repeat' (first | with_reducible assumption | with_reducible apply State.begin_keep
                 | with_reducible apply State.fail_keep | with_reducible apply hf
                 | ((try lift_lets); intro s1; refine keep_cut (q := q) (p := p) (up := up) (s := s1) ?_ ?_; rotate_left; clear_value s1; intro _; rotate_left; subst s1)
                 | split)

theorem State.answer_keep {s : State} (q0 : Src) (e0 : Sqe) (d : Data) (h : Keep q p up s) :
    Keep q p up (State.answer s q0 e0 d) := by
  unfold State.answer
  repeat' (first | with_reducible assumption | with_reducible apply State.fail_keep
                 | with_reducible apply State.succeed_keep | with_reducible apply State.moved_keep
                 | with_reducible apply State.sendTo_keep | split)

theorem State.raiseEvent_keep {s : State} (i : Nat) (v : Event) (h : Keep q p up s) :
    Keep q p up (State.raiseEvent s i v) := by
  unfold State.raiseEvent
  repeat' (first | with_reducible assumption | with_reducible apply State.modCtrl_keep
                 | with_reducible apply State.complete_keep | ((try lift_lets); intro s1; subst s1) | split)

theorem State.raiseHealth_keep {s : State} (bit : Nat) (info : Nat) (h : Keep q p up s) :
    Keep q p up (State.raiseHealth s bit info) := by
  unfold State.raiseHealth
  repeat' (first | with_reducible assumption | with_reducible apply State.raiseEvent_keep
                 | (with_reducible refine fun _ => ?_) | with_reducible apply keep_foldl | split)

theorem State.setWarn_keep {s : State} (bit : Nat) (info : Nat) (h : Keep q p up s) :
    Keep q p up (State.setWarn s bit info) := by
  unfold State.setWarn
  repeat' (first | with_reducible assumption | with_reducible apply State.raiseHealth_keep
                 | simp -zeta only [keep_mk] | with_reducible refine keep_like ?_ (by with_reducible rfl) | split)

theorem State.requestRepl_keep {s : State} (bit : Nat) (h : Keep q p up s) :
    Keep q p up (State.requestRepl s bit) := by
  unfold State.requestRepl
  repeat' (first | with_reducible assumption | with_reducible apply State.raiseHealth_keep
                 | with_reducible apply State.setWarn_keep | with_reducible apply State.logFault_keep
                 | ((try lift_lets); intro s1; subst s1) | simp -zeta only [keep_mk]
                 | with_reducible refine keep_like ?_ (by with_reducible rfl) | split)

theorem State.enterFault_keep {s : State} (cause : Nat) (h : Keep q p up s) :
    Keep q p up (State.enterFault s cause) := by
  unfold State.enterFault
  repeat' (first | with_reducible assumption | with_reducible apply State.logFault_keep
                 | with_reducible apply State.modCtrl_keep | (with_reducible refine fun _ => ?_)
                 | with_reducible apply keep_foldl
                 | ((try lift_lets); intro s1; refine keep_cut (q := q) (p := p) (up := up) (s := s1) ?_ ?_; rotate_left; clear_value s1; intro _; rotate_left; subst s1)
                 | simp -zeta only [keep_mk] | with_reducible refine keep_like ?_ (by with_reducible rfl) | split)

/-- An exception leaves a kept state to stand, if any. -/
def KeepE (q : List Instr) (p up : Prop) (e : Exc) : Prop := ∀ t, e.stands = some t → Keep q p up t

/-- A computation keeps: what it answers, and what its exceptions let stand. -/
def KeepR {α : Type} (q : List Instr) (p up : Prop) : Except Exc (α × State) → Prop
  | .ok x => Keep q p up x.2
  | .error e => KeepE q p up e

/-- As `KeepR`, for a state alone. -/
def KeepX (q : List Instr) (p up : Prop) : Except Exc State → Prop
  | .ok t => Keep q p up t
  | .error e => KeepE q p up e

/-- As `KeepR`, for a value alone. -/
def KeepV {α : Type} (q : List Instr) (p up : Prop) : Except Exc α → Prop
  | .ok _ => True
  | .error e => KeepE q p up e

/-- An instruction's computation keeps. -/
def KeepM {α : Type} (q : List Instr) (p up : Prop) (m : CM α) : Prop := ∀ s, Keep q p up s → KeepR q p up (m s)

theorem keepE_lit {e : Exc} (h : e.stands = none) : KeepE q p up e := fun t ht => by rw [h] at ht; cases ht

theorem KeepR.bindR {α β : Type} {m : Except Exc (α × State)} {f : α × State → Except Exc (β × State)}
    (h : KeepR q p up m)
    (hf : ∀ a s, Keep q p up s → KeepR q p up (f (a, s))) : KeepR q p up (m >>= f) := by
  cases m with
  | ok x => exact hf _ _ h
  | error e => exact h

theorem KeepR.bindX {β : Type} {m : Except Exc State} {f : State → Except Exc (β × State)} (h : KeepX q p up m)
    (hf : ∀ s, Keep q p up s → KeepR q p up (f s)) : KeepR q p up (m >>= f) := by
  cases m with
  | ok x => exact hf _ h
  | error e => exact h

theorem KeepR.bindV {α β : Type} {m : Except Exc α} {f : α → Except Exc (β × State)} (h : KeepV q p up m)
    (hf : ∀ a, KeepR q p up (f a)) : KeepR q p up (m >>= f) := by
  cases m with
  | ok x => exact hf _
  | error e => exact h

theorem KeepX.bindX {m : Except Exc State} {f : State → Except Exc State} (h : KeepX q p up m)
    (hf : ∀ s, Keep q p up s → KeepX q p up (f s)) : KeepX q p up (m >>= f) := by
  cases m with
  | ok x => exact hf _ h
  | error e => exact h

theorem KeepM.bind {α β : Type} {m : CM α} {f : α → CM β} (h : KeepM q p up m) (hf : ∀ a, KeepM q p up (f a)) :
    KeepM q p up (m >>= f) := by
  intro s hs
  have := h s hs
  change KeepR q p up (m s >>= fun x => f x.1 x.2)
  exact KeepR.bindR this fun a t ht => hf a t ht

theorem KeepM.pure {α : Type} (a : α) : KeepM q p up (Pure.pure a : CM α) := fun _ h => h

theorem KeepM.read {α : Type} (f : State → α) : KeepM q p up (fun s => .ok (f s, s) : CM α) := fun _ h => h

theorem KeepM.raise {α : Type} {e : Exc} (h : e.stands = none) : KeepM q p up (Machine.raise e : CM α) :=
  fun _ _ => keepE_lit h

theorem keepR_ok {α : Type} {a : α} {s : State}
    (h : Keep q p up s) : KeepR q p up (.ok (a, s) : Except Exc (α × State)) := h
theorem keepR_pure {α : Type} {a : α} {s : State}
    (h : Keep q p up s) : KeepR q p up (Pure.pure (a, s) : Except Exc (α × State)) := h
theorem keepR_error {α : Type} {e : Exc} (h : KeepE q p up e) : KeepR q p up (.error e : Except Exc (α × State)) := h

theorem State.modCore_keep {s : State} (c : Nat) (f : Core → Core) (h : Keep q p up s) :
    Keep q p up (State.modCore s c f) := by
  unfold State.modCore
  repeat' (first | with_reducible assumption | with_reducible apply State.setCore_keep)

theorem State.modCtx_keep {s : State} (c : Nat) (f : Ctx → Ctx) (h : Keep q p up s) :
    Keep q p up (State.modCtx s c f) := by
  unfold State.modCtx
  repeat' (first | with_reducible assumption | with_reducible apply State.modCore_keep)

theorem State.setRega_keep {s : State} (c : Nat) (r : BitVec 3) (v : W64) (h : Keep q p up s) :
    Keep q p up (State.setRega s c r v) := by
  unfold State.setRega
  repeat' (first | with_reducible assumption | with_reducible apply State.modCtx_keep)

theorem writeBit_keep (c b : Nat) (v : Bool) : KeepM q p up (writeBit c b v) := by
  intro s h
  unfold writeBit
  split
  · exact keepE_lit rfl
  · exact State.modCtx_keep _ _ h

theorem checkAccess_keep (s : State) (c : Nat) (align : Bool) (a n : Nat) : KeepV q p up (checkAccess s c align a n) := by
  unfold checkAccess
  simp only []
  repeat' split
  all_goals first | exact keepE_lit rfl | trivial

theorem checkBus_keep (s : State) (c a n : Nat) : KeepV q p up (checkBus s c a n) := by
  unfold checkBus
  split
  · exact keepE_lit rfl
  · trivial

end Sys2Proof.Machine
end

