-- ==== Sys2Proof/Laws/Keep02.lean ====
section
/-! SUPPORT. What each function keeps, from `State.rawRead` to `execMeterCtlWrite`: one lemma per function, cited by the functions that
call it. -/

namespace Sys2Proof.Machine

variable {q : List Instr} {p up : Prop}

theorem State.rawRead_keep {s : State} (c : Nat) (x : Place) (n : Nat)
    (h : Keep q p up s) : Keep q p up (State.rawRead s c x n).2 := by
  cases x <;> first | exact h | exact State.meterUp_keep _ _ (State.hostRead_keep _ _ _ (State.drawnN_keep _ h))

theorem State.rawWrite_keep {s : State} (c : Nat) (p0 : Place) (bs : List Byte) (h : Keep q p up s) :
    Keep q p up (State.rawWrite s c p0 bs) := by
  unfold State.rawWrite
  repeat' (first | with_reducible assumption | with_reducible apply State.modCtx_keep
                 | with_reducible apply State.setForge_keep | with_reducible apply State.localWrite_keep
                 | with_reducible apply State.meterUp_keep | with_reducible apply State.hostWrite_keep | split)

theorem State.modOc_keep {s : State} (c : Nat) (f : OpCache → OpCache) (h : Keep q p up s) :
    Keep q p up (State.modOc s c f) := by
  unfold State.modOc
  repeat' (first | with_reducible assumption | with_reducible apply State.modCore_keep)

theorem State.writeWords_keep (c : Nat) (l : CacheLine) (ks : List Nat) :
    ∀ {s : State}, Keep q p up s → Keep q p up (State.writeWords s c l ks) := by
  induction ks with
  | nil => exact fun h => h
  | cons k ks ih =>
    intro s h
    unfold State.writeWords
    refine ih ?_
    repeat' split
    all_goals first | exact h | exact State.rawWrite_keep _ _ _ h

theorem State.writeBack_keep {s : State} (c : Nat) (i : Nat) (h : Keep q p up s) :
    Keep q p up (State.writeBack s c i) := by
  unfold State.writeBack
  repeat' (first | with_reducible assumption | with_reducible apply State.logFault_keep
                 | with_reducible apply State.writeWords_keep | with_reducible apply State.modOc_keep
                 | with_reducible apply hf | (with_reducible refine fun _ => ?_) | with_reducible apply keep_foldl
                 | with_reducible apply keep_foldl_fst
                 | ((try lift_lets); intro s1; refine keep_cut (q := q) (p := p) (up := up) (s := s1) ?_ ?_; rotate_left; clear_value s1; intro _; rotate_left; subst s1)
                 | ((try lift_lets); intro s1; subst s1) | dsimp -zeta only | simp -zeta only [keep_mk]
                 | with_reducible refine keep_like ?_ (by with_reducible rfl)
                 | with_reducible refine keep_mix ?_ ?_ ?_ ?_ (by with_reducible rfl) (by with_reducible rfl) (by with_reducible rfl) (by with_reducible rfl)
                 | split | intro _ | dsimp only)

theorem State.invalidate_keep {s : State} (c : Nat) (i : Nat) (h : Keep q p up s) :
    Keep q p up (State.invalidate s c i) := by
  unfold State.invalidate
  repeat' (first | with_reducible assumption | with_reducible apply State.modOc_keep)

theorem State.fill_keep {s : State} (c : Nat) (stream : Bool) (a : Nat)
    (h : Keep q p up s) : Keep q p up (State.fill s c stream a) := by
  unfold State.fill
  simp only []
  split
  · exact h
  · split
    · exact State.modOc_keep _ _ (State.rawRead_keep _ _ _ (State.writeBack_keep _ _ h))
    · exact h

theorem State.countAccess_keep {s : State} (c : Nat) (h : Keep q p up s) :
    Keep q p up (State.countAccess s c) := by
  unfold State.countAccess
  repeat' (first | with_reducible assumption | with_reducible apply State.modOc_keep)

theorem State.touch_keep {s : State} (c : Nat) (i : Nat) (l : CacheLine) (h : Keep q p up s) :
    Keep q p up (State.touch s c i l) := by
  unfold State.touch
  repeat' (first | with_reducible assumption | with_reducible apply State.modOc_keep)

theorem cacheScrub_keep {s : State} (c a : Nat) (h : Keep q p up s) : KeepX q p up (cacheScrub s c a) := by
  unfold cacheScrub
  repeat' split
  all_goals first | exact h | exact keepE_lit rfl | exact State.invalidate_keep _ _ h

theorem cacheRead_keep {s : State} (c : Nat) (stream : Bool) (x : Place) (a n : Nat) (h : Keep q p up s) :
    KeepR q p up (cacheRead s c stream x a n) := by
  unfold cacheRead
  simp only []
  split
  · exact State.rawRead_keep _ _ _ h
  · refine KeepR.bindX (cacheScrub_keep c a h) fun t ht => ?_
    have h1 := State.countAccess_keep c ht
    split
    · exact State.touch_keep _ _ _ h1
    · have h2 : Keep q p up (if (s.core c).oc.policy a = 3 then t.countAccess c else (t.countAccess c).fill c stream a) := by
        split
        · exact h1
        · exact State.fill_keep _ _ _ h1
      split
      · exact h2
      · exact State.rawRead_keep _ _ _ h2

theorem cacheWrite_keep {s : State} (c : Nat) (stream : Bool) (x : Place) (a : Nat) (bs : List Byte)
    (h : Keep q p up s) :
    KeepX q p up (cacheWrite s c stream x a bs) := by
  unfold cacheWrite
  simp only []
  split
  · exact State.rawWrite_keep _ _ _ h
  · refine KeepX.bindX (cacheScrub_keep c a h) fun t ht => ?_
    have h1 := State.countAccess_keep c ht
    refine keep_cut (q := q) (p := p) (up := up)
      (s := if (s.core c).oc.policy a = 1 ∧ (((t.countAccess c).core c).oc.find a).isNone
        then (t.countAccess c).fill c stream a else t.countAccess c) ?_ fun h2 => ?_
    · split
      · exact State.fill_keep _ _ _ h1
      · exact h1
    · split
      · simp only [pure, Except.pure]
        split
        · exact State.rawWrite_keep _ _ _ (State.modOc_keep _ _ h2)
        · exact State.modOc_keep _ _ h2
      · exact State.rawWrite_keep _ _ _ h2

theorem readPieces_keep (c : Nat) (stream : Bool) (l : List (Nat × Nat)) :
    ∀ {s : State}, Keep q p up s → KeepR q p up (readPieces c stream l s) := by
  induction l with
  | nil => exact fun h => h
  | cons x l ih =>
    intro s h
    unfold readPieces
    split
    · exact keepE_lit rfl
    · exact KeepR.bindR (cacheRead_keep _ _ _ _ _ h) fun _ t ht => KeepR.bindR (ih ht) fun _ u hu => hu

theorem writePieces_keep (c : Nat) (stream : Bool) (l : List (Nat × Nat)) :
    ∀ {bs : List Byte} {s : State}, Keep q p up s → KeepX q p up (writePieces c stream l bs s) := by
  induction l with
  | nil => exact fun h => h
  | cons x l ih =>
    intro bs s h
    unfold writePieces
    split
    · exact keepE_lit rfl
    · exact KeepX.bindX (cacheWrite_keep _ _ _ _ _ h) fun t ht => ih ht

theorem memRead_keep (c : Nat) (stream align : Bool) (a : W64) (n : Nat) : KeepM q p up (memRead c stream align a n) := by
  intro s h
  unfold memRead
  refine KeepR.bindV (checkAccess_keep _ _ _ _ _) fun x => KeepR.bindV (checkBus_keep _ _ _ _) fun _ => ?_
  split
  · exact h
  · exact readPieces_keep _ _ _ h

theorem State.markWritten_keep {s : State} (c : Nat) (p0 : Place) (n : Nat) (h : Keep q p up s) :
    Keep q p up (State.markWritten s c p0 n) := by
  unfold State.markWritten
  repeat' (first | with_reducible assumption | with_reducible apply State.modCore_keep | split)

theorem memWrite_keep (c : Nat) (stream align : Bool) (a : W64) (bs : List Byte) :
    KeepM q p up (memWrite c stream align a bs) := by
  intro s h
  unfold memWrite
  refine KeepR.bindV (checkAccess_keep _ _ _ _ _) fun x => KeepR.bindV (checkBus_keep _ _ _ _) fun _ => ?_
  have h1 := State.markWritten_keep c x bs.length h
  split
  · exact State.rawWrite_keep _ _ _ h1
  · exact KeepR.bindX (writePieces_keep _ _ _ h1) fun t ht => ht

theorem iRead_keep (c : Nat) (a : W64) (n : Nat) : KeepM q p up (iRead c a n) := by
  intro s h
  unfold iRead
  split
  · exact h
  · exact keepE_lit rfl

theorem fetchFault_stands {s : State} {c : Nat} {a : W64} {e : Exc} (h : fetchFault s c a = some e) : e.stands = none := by
  unfold fetchFault at h
  split at h <;> cases h
  rfl

theorem locate_keep (c : Nat) (stream : Bool) (x : Specifier) (z : Nat) : KeepM q p up (locate c stream x z) := by
  intro s h
  unfold locate
  simp only []
  split
  all_goals first
    | exact h
    | exact State.setRega_keep _ _ _ h
    | exact keepE_lit rfl
    | exact KeepR.bindR (memRead_keep _ _ _ _ _ _ h) fun _ t ht => ht

theorem readLoc_keep (c : Nat) (stream align : Bool) (l : Loc) (z : Nat) : KeepM q p up (readLoc c stream align l z) := by
  unfold readLoc
  split
  · exact KeepM.pure _
  · exact KeepM.read _
  · exact KeepM.bind (memRead_keep _ _ _ _ _) fun _ => KeepM.pure _
  · exact KeepM.bind (iRead_keep _ _ _) fun _ => KeepM.pure _

theorem writeLoc_keep (c : Nat) (align : Bool) (l : Loc) (z v : Nat) : KeepM q p up (writeLoc c align l z v) := by
  unfold writeLoc
  split
  · exact fun s h => State.setRega_keep _ _ _ h
  · exact memWrite_keep _ _ _ _ _
  · exact KeepM.raise rfl

theorem checkDest_keep (c : Nat) (align : Bool) (l : Loc) (z : Nat) : KeepM q p up (checkDest c align l z) := by
  unfold checkDest
  split
  · exact fun s h => KeepR.bindV (checkAccess_keep _ _ _ _ _) fun _ => h
  · exact KeepM.pure _

theorem readSrc_keep (c : Nat) (stream align : Bool) (x : Specifier) (u : Use) (z : Nat) :
    KeepM q p up (readSrc c stream align x u z) :=
  KeepM.bind (locate_keep _ _ _ _) fun _ => readLoc_keep _ _ _ _ _

theorem readTarget_keep (c : Nat) (x : Specifier) : KeepM q p up (readTarget c x) := by
  intro s h
  unfold readTarget
  split
  iterate 4 exact h
  exact KeepM.bind (locate_keep _ _ _ _) (fun _ => KeepM.bind (readLoc_keep _ _ _ _ _) fun _ => KeepM.pure _) s h

theorem State.dramStore_keep {s : State} (a : Nat) (bs : List Byte) (h : Keep q p up s) :
    Keep q p up (State.dramStore s a bs) := by
  unfold State.dramStore
  split
  · exact State.localWrite_keep _ _ _ h
  · exact ⟨h.1, fun hp => ⟨⟨(h.dram hp).1, Mem.wf_write _ _ (h.dram hp).2⟩, h.hm hp, h.dev hp⟩, h.2.2⟩

theorem State.setDomain_keep {s : State} (cw : Nat) (domain : Nat) (h : Keep q p up s) :
    Keep q p up (State.setDomain s cw domain) := by
  unfold State.setDomain
  repeat' (first | with_reducible assumption | simp -zeta only [keep_mk]
                 | with_reducible refine keep_like ?_ (by with_reducible rfl))

theorem State.modDchan_keep {s : State} (c : Nat) (f : DramChan → DramChan) (h : Keep q p up s) :
    Keep q p up (State.modDchan s c f) := by
  unfold State.modDchan
  repeat' (first | with_reducible assumption | simp -zeta only [keep_mk]
                 | with_reducible refine keep_like ?_ (by with_reducible rfl))

theorem State.markDevice_keep {s : State} (a : Nat) (dev : Nat) (cause : Nat) (h : Keep q p up s) :
    Keep q p up (State.markDevice s a dev cause) := by
  unfold State.markDevice
  repeat' (first | with_reducible assumption | with_reducible apply State.modDchan_keep
                 | with_reducible apply State.requestRepl_keep | with_reducible apply State.logFault_keep
                 | ((try lift_lets); intro s1; subst s1) | split)

theorem State.flagRow_keep {s : State} (cw : Nat) (dev : Nat) (h : Keep q p up s) :
    Keep q p up (State.flagRow s cw dev) := by
  unfold State.flagRow
  repeat' (first | with_reducible assumption | ((try lift_lets); intro s1; subst s1) | simp -zeta only [keep_mk]
                 | with_reducible refine keep_like ?_ (by with_reducible rfl) | split)

theorem State.logCorrection_keep {s : State} (cw : Nat) (dev : Nat) (h : Keep q p up s) :
    Keep q p up (State.logCorrection s cw dev) := by
  unfold State.logCorrection
  repeat' (first | with_reducible assumption | with_reducible apply State.modDchan_keep
                 | with_reducible apply State.flagRow_keep | with_reducible apply State.markDevice_keep
                 | ((try lift_lets); intro s1; subst s1) | split)

theorem State.celWritten_keep {s : State} (cw : Nat) (h : Keep q p up s) :
    Keep q p up (State.celWritten s cw) := by
  unfold State.celWritten
  repeat' (first | with_reducible assumption | with_reducible apply State.modDchan_keep)

theorem State.dramUncorr_keep {s : State} (a : Nat) (cls : Nat) (scrub : Nat) (h : Keep q p up s) :
    Keep q p up (State.dramUncorr s a cls scrub) := by
  unfold State.dramUncorr
  repeat' (first | with_reducible assumption | with_reducible apply State.logFault_keep
                 | with_reducible apply State.modDchan_keep)

theorem State.dramFetch_keep {s : State} {a domain cls : Nat} {err : DramErrors} {t : State} {x0}
    (e : State.dramFetch s a domain cls err = (x0, t)) (h : Keep q p up s) : Keep q p up t := by
  have e := congrArg Prod.snd e
  subst e
  unfold State.dramFetch
  simp only []
  repeat' split
  all_goals first
    | exact State.drawnN_keep _ h
    | exact State.logCorrection_keep _ _ (State.drawnN_keep _ h)
    | exact State.markDevice_keep _ _ _ (State.drawnN_keep _ h)
    | exact State.dramUncorr_keep _ _ _ (State.drawnN_keep _ h)

theorem State.modSubch_keep {s : State} (i : Nat) (f : SubChan → SubChan) (h : Keep q p up s) :
    Keep q p up (State.modSubch s i f) := by
  unfold State.modSubch
  repeat' (first | with_reducible assumption | simp -zeta only [keep_mk]
                 | with_reducible refine keep_like ?_ (by with_reducible rfl))

theorem State.enqueue_keep {s : State} (a : Nat) (write : Bool) (cls : BitVec 2) (flash : Option Nat)
    (h : Keep q p up s) :
    Keep q p up (State.enqueue s a write cls flash) := by
  unfold State.enqueue
  repeat' (first | with_reducible assumption | with_reducible apply State.dramWake_keep
                 | with_reducible apply State.modSubch_keep | ((try lift_lets); intro s1; subst s1)
                 | simp -zeta only [keep_mk] | with_reducible refine keep_like ?_ (by with_reducible rfl) | split)

theorem State.dramReply_keep {s : State} (r : DramReply) (h : Keep q p up s) :
    Keep q p up (State.dramReply s r) := by
  unfold State.dramReply
  repeat' (first | with_reducible assumption | simp -zeta only [keep_mk]
                 | with_reducible refine keep_like ?_ (by with_reducible rfl) | split)

theorem execBlankPageFillComplete_keep (page : Nat) {s : State} (h : Keep q p up s) :
    Keep q p up (nextOr (execBlankPageFillComplete page s) s) := by
  unfold execBlankPageFillComplete
  dsimp -zeta only [nextOr]
  repeat' (first | with_reducible assumption | simp -zeta only [keep_mk]
                 | with_reducible refine keep_like ?_ (by with_reducible rfl) | split)

theorem execDramCommandIssue_keep (chan : Nat) (sub : Nat) {s : State} (h : Keep q p up s) :
    Keep q p up (nextOr (execDramCommandIssue chan sub s) s) := by
  unfold execDramCommandIssue
  dsimp -zeta only [nextOr]
  repeat' (first | with_reducible assumption | with_reducible apply State.modSubch_keep
                 | with_reducible apply State.dramSleep_keep
                 | ((try lift_lets); intro s1; refine keep_cut (q := q) (p := p) (up := up) (s := s1) ?_ ?_; rotate_left; clear_value s1; intro _; rotate_left; subst s1)
                 | split)

theorem execRequestAgeLimit_keep (chan : Nat) (sub : Nat) (req : Nat) {s : State} (h : Keep q p up s) :
    Keep q p up (nextOr (execRequestAgeLimit chan sub req s) s) := by
  unfold execRequestAgeLimit
  dsimp -zeta only [nextOr]
  repeat' (first | with_reducible assumption | with_reducible apply State.modSubch_keep)

theorem execRefreshDue_keep (chan : Nat) (sub : Nat) (bankIndex : Nat) (idle : Bool) {s : State} (h : Keep q p up s) :
    Keep q p up (nextOr (execRefreshDue chan sub bankIndex idle s) s) := by
  unfold execRefreshDue
  dsimp -zeta only [nextOr]
  repeat' (first | with_reducible assumption | with_reducible apply State.modSubch_keep | split)

theorem execRefreshPostponeLimit_keep (chan : Nat) (sub : Nat) (bankIndex : Nat) {s : State} (h : Keep q p up s) :
    Keep q p up (nextOr (execRefreshPostponeLimit chan sub bankIndex s) s) := by
  unfold execRefreshPostponeLimit
  dsimp -zeta only [nextOr]
  repeat' (first | with_reducible assumption | with_reducible apply State.modSubch_keep | split)

theorem execRowActivationThreshold_keep (chan : Nat) (sub : Nat) (bank : Nat) (row : Nat) {s : State}
    (h : Keep q p up s) :
    Keep q p up (nextOr (execRowActivationThreshold chan sub bank row s) s) := by
  unfold execRowActivationThreshold
  dsimp -zeta only [nextOr]
  repeat' (first | with_reducible assumption | with_reducible apply State.modSubch_keep
                 | ((try lift_lets); intro s1; subst s1) | split)

theorem execRfmTableClear_keep {s : State} (h : Keep q p up s) :
    Keep q p up (nextOr (execRfmTableClear s) s) := by
  unfold execRfmTableClear
  dsimp -zeta only [nextOr]
  repeat' (first | with_reducible assumption | simp -zeta only [keep_mk]
                 | with_reducible refine keep_like ?_ (by with_reducible rfl))

theorem execDqsOscillatorCheck_keep (chan : Nat) (drift : Bool) {s : State} (h : Keep q p up s) :
    Keep q p up (nextOr (execDqsOscillatorCheck chan drift s) s) := by
  unfold execDqsOscillatorCheck
  dsimp -zeta only [nextOr]
  repeat' (first | with_reducible assumption | with_reducible apply State.modDchan_keep | split)

theorem execZqCalibration_keep (chan : Nat) {s : State} (h : Keep q p up s) :
    Keep q p up (nextOr (execZqCalibration chan s) s) := by
  unfold execZqCalibration
  dsimp -zeta only [nextOr]
  repeat' (first | with_reducible assumption | with_reducible apply State.modDchan_keep | split)

theorem State.setTbuf_keep {s : State} (bs : List Byte) (h : Keep q p up s) :
    Keep q p up (State.setTbuf s bs) := by
  unfold State.setTbuf
  repeat' (first | with_reducible assumption | simp -zeta only [keep_mk]
                 | with_reducible refine keep_like ?_ (by with_reducible rfl))

theorem State.eccTest_keep {s : State} (op : Nat) (value : W32) (f : State → Nat → State)
    (h : Keep q p up s) (hf : ∀ y0 y1, Keep q p up y0 → Keep q p up (f y0 y1)) :
    Keep q p up (State.eccTest s op value f) := by
  unfold State.eccTest
  repeat' (first | with_reducible assumption | with_reducible apply State.drawnN_keep | with_reducible apply hf
                 | simp -zeta only [keep_mk] | with_reducible refine keep_like ?_ (by with_reducible rfl) | split)

theorem State.setTest_keep {s : State} (i : Nat) (w : List Byte) (h : Keep q p up s) :
    Keep q p up (State.setTest s i w) := by
  unfold State.setTest
  repeat' (first | with_reducible assumption | simp -zeta only [keep_mk]
                 | with_reducible refine keep_like ?_ (by with_reducible rfl))

theorem execEccTestWriteDataAndCheck_keep (value : W32) {s : State} (h : Keep q p up s) :
    Keep q p up (nextOr (execEccTestWriteDataAndCheck value s) s) := by
  unfold execEccTestWriteDataAndCheck
  dsimp -zeta only [nextOr]
  repeat' (first | with_reducible assumption | with_reducible apply State.eccTest_keep
                 | with_reducible apply State.setTest_keep | (with_reducible refine fun _ => ?_))

theorem execEccTestWriteComputedCheck_keep (value : W32) {s : State} (h : Keep q p up s) :
    Keep q p up (nextOr (execEccTestWriteComputedCheck value s) s) := by
  unfold execEccTestWriteComputedCheck
  dsimp -zeta only [nextOr]
  repeat' (first | with_reducible assumption | with_reducible apply State.eccTest_keep
                 | with_reducible apply State.setTest_keep | with_reducible apply hf
                 | (with_reducible refine fun _ => ?_) | with_reducible apply keep_foldl
                 | with_reducible apply keep_foldl_fst
                 | ((try lift_lets); intro s1; refine keep_cut (q := q) (p := p) (up := up) (s := s1) ?_ ?_; rotate_left; clear_value s1; intro _; rotate_left; subst s1)
                 | ((try lift_lets); intro s1; subst s1) | dsimp -zeta only | simp -zeta only [keep_mk]
                 | with_reducible refine keep_like ?_ (by with_reducible rfl)
                 | with_reducible refine keep_mix ?_ ?_ ?_ ?_ (by with_reducible rfl) (by with_reducible rfl) (by with_reducible rfl) (by with_reducible rfl)
                 | split | intro _ | dsimp only)

theorem execEccTestWriteCheckOnly_keep (value : W32) {s : State} (h : Keep q p up s) :
    Keep q p up (nextOr (execEccTestWriteCheckOnly value s) s) := by
  unfold execEccTestWriteCheckOnly
  dsimp -zeta only [nextOr]
  repeat' (first | with_reducible assumption | with_reducible apply State.eccTest_keep
                 | with_reducible apply State.setTest_keep | (with_reducible refine fun _ => ?_))

theorem execEccTestWriteDataOnly_keep (value : W32) {s : State} (h : Keep q p up s) :
    Keep q p up (nextOr (execEccTestWriteDataOnly value s) s) := by
  unfold execEccTestWriteDataOnly
  dsimp -zeta only [nextOr]
  repeat' (first | with_reducible assumption | with_reducible apply State.eccTest_keep
                 | with_reducible apply State.setTest_keep | with_reducible apply hf
                 | (with_reducible refine fun _ => ?_) | with_reducible apply keep_foldl
                 | with_reducible apply keep_foldl_fst
                 | ((try lift_lets); intro s1; refine keep_cut (q := q) (p := p) (up := up) (s := s1) ?_ ?_; rotate_left; clear_value s1; intro _; rotate_left; subst s1)
                 | ((try lift_lets); intro s1; subst s1) | dsimp -zeta only | simp -zeta only [keep_mk]
                 | with_reducible refine keep_like ?_ (by with_reducible rfl)
                 | with_reducible refine keep_mix ?_ ?_ ?_ ?_ (by with_reducible rfl) (by with_reducible rfl) (by with_reducible rfl) (by with_reducible rfl)
                 | split | intro _ | dsimp only)

theorem execEccTestReadRaw_keep (value : W32) {s : State} (h : Keep q p up s) :
    Keep q p up (nextOr (execEccTestReadRaw value s) s) := by
  unfold execEccTestReadRaw
  dsimp -zeta only [nextOr]
  repeat' (first | with_reducible assumption | with_reducible apply State.eccTest_keep
                 | with_reducible apply State.setTbuf_keep | with_reducible apply hf
                 | (with_reducible refine fun _ => ?_) | with_reducible apply keep_foldl
                 | with_reducible apply keep_foldl_fst
                 | ((try lift_lets); intro s1; refine keep_cut (q := q) (p := p) (up := up) (s := s1) ?_ ?_; rotate_left; clear_value s1; intro _; rotate_left; subst s1)
                 | ((try lift_lets); intro s1; subst s1) | dsimp -zeta only | simp -zeta only [keep_mk]
                 | with_reducible refine keep_like ?_ (by with_reducible rfl)
                 | with_reducible refine keep_mix ?_ ?_ ?_ ?_ (by with_reducible rfl) (by with_reducible rfl) (by with_reducible rfl) (by with_reducible rfl)
                 | split | intro _ | dsimp only)

theorem execEccTestReadDecoded_keep (value : W32) {s : State} (h : Keep q p up s) :
    Keep q p up (nextOr (execEccTestReadDecoded value s) s) := by
  unfold execEccTestReadDecoded
  dsimp -zeta only [nextOr]
  repeat' (first | with_reducible assumption | with_reducible apply State.eccTest_keep
                 | with_reducible apply State.setTbuf_keep | with_reducible apply hf
                 | (with_reducible refine fun _ => ?_) | with_reducible apply keep_foldl
                 | with_reducible apply keep_foldl_fst
                 | ((try lift_lets); intro s1; refine keep_cut (q := q) (p := p) (up := up) (s := s1) ?_ ?_; rotate_left; clear_value s1; intro _; rotate_left; subst s1)
                 | ((try lift_lets); intro s1; subst s1) | dsimp -zeta only | simp -zeta only [keep_mk]
                 | with_reducible refine keep_like ?_ (by with_reducible rfl)
                 | with_reducible refine keep_mix ?_ ?_ ?_ ?_ (by with_reducible rfl) (by with_reducible rfl) (by with_reducible rfl) (by with_reducible rfl)
                 | split | intro _ | dsimp only)

theorem execEccTestComplete_keep {s : State} (h : Keep q p up s) :
    Keep q p up (nextOr (execEccTestComplete s) s) := by
  unfold execEccTestComplete
  dsimp -zeta only [nextOr]
  repeat' (first | with_reducible assumption | simp -zeta only [keep_mk]
                 | with_reducible refine keep_like ?_ (by with_reducible rfl))

theorem State.signerNext_keep {s : State} (h : Keep q p up s) :
    Keep q p up (State.signerNext s) := by
  unfold State.signerNext
  repeat' (first | with_reducible assumption | simp -zeta only [keep_mk]
                 | with_reducible refine keep_like ?_ (by with_reducible rfl) | split | dsimp only)

theorem State.meterPier_keep {s : State} (stepped : Bool) (h : Keep q p up s) :
    Keep q p up (State.meterPier s stepped) := by
  unfold State.meterPier
  repeat' (first | with_reducible assumption | ((try lift_lets); intro s1; subst s1) | simp -zeta only [keep_mk]
                 | with_reducible refine keep_like ?_ (by with_reducible rfl) | split)

theorem execMinuteClose_keep {s : State} (h : Keep q p up s) :
    Keep q p up (nextOr (execMinuteClose s) s) := by
  unfold execMinuteClose
  dsimp -zeta only [nextOr]
  repeat' (first | with_reducible assumption | with_reducible apply State.drawnN_keep
                 | with_reducible apply State.signerNext_keep | simp -zeta only [keep_mk]
                 | with_reducible refine keep_like ?_ (by with_reducible rfl) | split | dsimp only)

theorem execMeterCtlWrite_keep (value : W32) {s : State} (h : Keep q p up s) :
    Keep q p up (nextOr (execMeterCtlWrite value s) s) := by
  unfold execMeterCtlWrite
  dsimp -zeta only [nextOr]
  repeat' (first | with_reducible assumption | ((try lift_lets); intro s1; subst s1) | simp -zeta only [keep_mk]
                 | with_reducible refine keep_like ?_ (by with_reducible rfl) | split)

end Sys2Proof.Machine
end

