-- ==== Sys2Proof/Laws/Keep03.lean ====
section
/-! SUPPORT. What each function keeps, from `execMeterReceiptFetch` to `State.dispatchJobs`: one lemma per function, cited by the functions that
call it. -/

namespace Sys2Proof.Machine

variable {q : List Instr} {p up : Prop}

theorem execMeterReceiptFetch_keep (q0 : Src) (e0 : Sqe) {s : State} (h : Keep q p up s) :
    Keep q p up (nextOr (execMeterReceiptFetch q0 e0 s) s) := by
  unfold execMeterReceiptFetch
  dsimp -zeta only [nextOr]
  repeat' (first | with_reducible assumption | with_reducible apply State.adminCmd_keep
                 | with_reducible apply State.fail_keep | with_reducible apply State.answer_keep
                 | (with_reducible refine fun _ => ?_) | ((try lift_lets); intro s1; subst s1) | split)

theorem State.extendMr_keep {s : State} (i : Nat) (d : List Byte) (h : Keep q p up s) :
    Keep q p up (State.extendMr s i d) := by
  unfold State.extendMr
  repeat' (first | with_reducible assumption | simp -zeta only [keep_mk]
                 | with_reducible refine keep_like ?_ (by with_reducible rfl))

theorem State.eventMr_keep {s : State} (i : Nat) (type : Nat) (content : List Byte) (h : Keep q p up s) :
    Keep q p up (State.eventMr s i type content) := by
  unfold State.eventMr
  repeat' (first | with_reducible assumption | with_reducible apply State.extendMr_keep)

theorem State.eventSmr_keep {s : State} (sl : Nat) (type : Nat) (content : List Byte) (h : Keep q p up s) :
    Keep q p up (State.eventSmr s sl type content) := by
  unfold State.eventSmr
  repeat' (first | with_reducible assumption | ((try lift_lets); intro s1; subst s1) | simp -zeta only [keep_mk]
                 | with_reducible refine keep_like ?_ (by with_reducible rfl))

theorem State.mdStart_keep {s : State} (h : Keep q p up s) :
    Keep q p up (State.mdStart s) := by
  unfold State.mdStart
  repeat' (first | with_reducible assumption | with_reducible apply State.drawn_keep
                 | ((try lift_lets); intro s1; subst s1) | simp -zeta only [keep_mk]
                 | with_reducible refine keep_mix ?_ ?_ ?_ ?_ (by with_reducible rfl) (by with_reducible rfl) (by with_reducible rfl) (by with_reducible rfl))

theorem State.mdTake_keep {s : State} (v : W64) (h : Keep q p up s) :
    Keep q p up (State.mdTake s v) := by
  unfold State.mdTake
  repeat' (first | with_reducible assumption | with_reducible apply State.mdStart_keep
                 | ((try lift_lets); intro s1; refine keep_cut (q := q) (p := p) (up := up) (s := s1) ?_ ?_; rotate_left; clear_value s1; intro _; rotate_left; subst s1)
                 | simp -zeta only [keep_mk] | with_reducible refine keep_like ?_ (by with_reducible rfl) | split)

theorem execHmMddataWrite_keep (value : W64) {s : State} (h : Keep q p up s) :
    Keep q p up (nextOr (execHmMddataWrite value s) s) := by
  unfold execHmMddataWrite
  dsimp -zeta only [nextOr]
  repeat' (first | with_reducible assumption | with_reducible apply State.mdTake_keep | simp -zeta only [keep_mk]
                 | with_reducible refine keep_like ?_ (by with_reducible rfl) | split)

theorem execHmMdcmdFinish_keep (value : W32) {s : State} (h : Keep q p up s) :
    Keep q p up (nextOr (execHmMdcmdFinish value s) s) := by
  unfold execHmMdcmdFinish
  dsimp -zeta only [nextOr]
  repeat' (first | with_reducible assumption | with_reducible apply State.mdStart_keep
                 | ((try lift_lets); intro s1; subst s1) | simp -zeta only [keep_mk]
                 | with_reducible refine keep_like ?_ (by with_reducible rfl) | split)

theorem execHmDigestFinishComplete_keep {s : State} (h : Keep q p up s) :
    Keep q p up (nextOr (execHmDigestFinishComplete s) s) := by
  unfold execHmDigestFinishComplete
  dsimp -zeta only [nextOr]
  repeat' (first | with_reducible assumption | with_reducible apply State.extendMr_keep
                 | with_reducible apply State.mdTake_keep | with_reducible apply keep_foldl
                 | simp -zeta only [keep_mk] | with_reducible refine keep_like ?_ (by with_reducible rfl) | split)

theorem execHmSvncmtWrite_keep {s : State} (value : W32) (h : Keep q p up s) :
    Keep q p up (nextOr (execHmSvncmtWrite value s) s) := by
  unfold execHmSvncmtWrite
  simp only [nextOr]
  split
  · rename_i hv
    exact ⟨h.1, fun hp => ⟨h.dram hp, hv.2.2, h.dev hp⟩, h.2.2⟩
  · exact h

theorem execHallmarkQuote_keep (q0 : Src) (e0 : Sqe) {s : State} (h : Keep q p up s) :
    Keep q p up (nextOr (execHallmarkQuote q0 e0 s) s) := by
  unfold execHallmarkQuote
  dsimp -zeta only [nextOr]
  repeat' (first | with_reducible assumption | with_reducible apply State.adminCmd_keep
                 | with_reducible apply State.fail_keep | with_reducible apply State.answer_keep
                 | with_reducible apply State.signerNext_keep | (with_reducible refine fun _ => ?_)
                 | ((try lift_lets); intro s1; subst s1) | simp -zeta only [keep_mk]
                 | with_reducible refine keep_like ?_ (by with_reducible rfl) | split)

theorem State.checkNv_keep {s : State} (h : Keep q p up s) :
    Keep q p up (State.checkNv s) := by
  unfold State.checkNv
  repeat' (first | with_reducible assumption | with_reducible apply State.requestRepl_keep | split)

theorem State.startCommit_keep {s : State} (w : KeyWork) (h : Keep q p up s) :
    Keep q p up (State.startCommit s w) := by
  unfold State.startCommit
  repeat' (first | with_reducible assumption | simp -zeta only [keep_mk]
                 | with_reducible refine keep_like ?_ (by with_reducible rfl) | split)

theorem execKeyImport_keep (q0 : Src) (e0 : Sqe) (data : List Byte) {s : State} (h : Keep q p up s) :
    Keep q p up (nextOr (execKeyImport q0 e0 data s) s) := by
  unfold execKeyImport
  dsimp -zeta only [nextOr]
  repeat' (first | with_reducible assumption | with_reducible apply State.adminCmd_keep
                 | with_reducible apply State.complete_keep | with_reducible apply State.fail_keep
                 | with_reducible apply State.startCommit_keep | with_reducible apply State.moved_keep
                 | (with_reducible refine fun _ => ?_) | ((try lift_lets); intro s1; subst s1) | split)

theorem execKeyEmpty_keep (q0 : Src) (e0 : Sqe) {s : State} (h : Keep q p up s) :
    Keep q p up (nextOr (execKeyEmpty q0 e0 s) s) := by
  unfold execKeyEmpty
  dsimp -zeta only [nextOr]
  repeat' (first | with_reducible assumption | with_reducible apply State.adminCmd_keep
                 | with_reducible apply State.complete_keep | with_reducible apply State.startCommit_keep
                 | (with_reducible refine fun _ => ?_) | ((try lift_lets); intro s1; subst s1) | split)

theorem State.bumpSlot_keep {s : State} (slot : Nat) (h : Keep q p up s) :
    Keep q p up (State.bumpSlot s slot) := by
  unfold State.bumpSlot
  repeat' (first | with_reducible assumption | simp -zeta only [keep_mk]
                 | with_reducible refine keep_like ?_ (by with_reducible rfl))

theorem State.applyImport_keep {s : State} (o : Nat) (slot : Nat) (cls : Nat) (key : Nat) (ct : List Byte)
    (h : Keep q p up s) :
    Keep q p up (State.applyImport s o slot cls key ct) := by
  unfold State.applyImport
  repeat' (first | with_reducible assumption | with_reducible apply State.bumpSlot_keep
                 | with_reducible apply State.meterUp_keep | with_reducible apply State.eventSmr_keep
                 | ((try lift_lets); intro s1; subst s1) | simp -zeta only [keep_mk]
                 | with_reducible refine keep_like ?_ (by with_reducible rfl) | split)

theorem State.applyEmpty_keep {s : State} (o : Nat) (slot : Nat) (h : Keep q p up s) :
    Keep q p up (State.applyEmpty s o slot) := by
  unfold State.applyEmpty
  repeat' (first | with_reducible assumption | with_reducible apply State.bumpSlot_keep
                 | with_reducible apply State.meterUp_keep | with_reducible apply State.eventSmr_keep
                 | ((try lift_lets); intro s1; subst s1) | simp -zeta only [keep_mk]
                 | with_reducible refine keep_like ?_ (by with_reducible rfl) | split)

theorem State.clearSliceKeys_keep {s : State} (sl : Nat) (h : Keep q p up s) :
    Keep q p up (State.clearSliceKeys s sl) := by
  unfold State.clearSliceKeys
  repeat' (first | with_reducible assumption | with_reducible apply State.bumpSlot_keep
                 | with_reducible apply State.drawn_keep | (with_reducible refine fun _ => ?_)
                 | with_reducible apply keep_foldl | ((try lift_lets); intro s1; subst s1)
                 | simp -zeta only [keep_mk]
                 | with_reducible refine keep_mix ?_ ?_ ?_ ?_ (by with_reducible rfl) (by with_reducible rfl) (by with_reducible rfl) (by with_reducible rfl))

theorem State.jtagOut_keep {s : State} (bs : List Byte) (h : Keep q p up s) :
    Keep q p up (State.jtagOut s bs) := by
  unfold State.jtagOut
  repeat' (first | with_reducible assumption | simp -zeta only [keep_mk]
                 | with_reducible refine keep_like ?_ (by with_reducible rfl))

theorem execJtagChallenge_keep {s : State} (h : Keep q p up s) :
    Keep q p up (nextOr (execJtagChallenge s) s) := by
  unfold execJtagChallenge
  dsimp -zeta only [nextOr]
  repeat' (first | with_reducible assumption | with_reducible apply State.jtagOut_keep)

theorem State.newChallenge_keep {s : State} (h : Keep q p up s) :
    Keep q p up (State.newChallenge s) := by
  unfold State.newChallenge
  repeat' (first | with_reducible assumption | with_reducible apply State.drawnN_keep
                 | ((try lift_lets); intro s1; refine keep_cut (q := q) (p := p) (up := up) (s := s1) ?_ ?_; rotate_left; clear_value s1; intro _; rotate_left; subst s1)
                 | simp -zeta only [keep_mk]
                 | with_reducible refine keep_mix ?_ ?_ ?_ ?_ (by with_reducible rfl) (by with_reducible rfl) (by with_reducible rfl) (by with_reducible rfl))

theorem State.modMedia_keep {s : State} (f : Media → Media) (h : Keep q p up s) :
    Keep q p up (State.modMedia s f) := by
  unfold State.modMedia
  repeat' (first | with_reducible assumption | simp -zeta only [keep_mk]
                 | with_reducible refine keep_like ?_ (by with_reducible rfl))

theorem State.modNs_keep {s : State} (x : Nat) (f : Ns → Ns) (h : Keep q p up s) :
    Keep q p up (State.modNs s x f) := by
  unfold State.modNs
  repeat' (first | with_reducible assumption | with_reducible apply State.modMedia_keep)

theorem State.closeSet_keep {s : State} (n : Nat) (h : Keep q p up s) :
    Keep q p up (State.closeSet s n) := by
  unfold State.closeSet
  repeat' (first | with_reducible assumption | with_reducible apply State.modMedia_keep)

theorem State.settle_keep {s : State} (n : Nat) (h : Keep q p up s) :
    Keep q p up (State.settle s n) := by
  unfold State.settle
  repeat' (first | with_reducible assumption | with_reducible apply State.modMedia_keep
                 | ((try lift_lets); intro s1; subst s1) | split)

theorem State.settleAll_keep {s : State} (h : Keep q p up s) :
    Keep q p up (State.settleAll s) := by
  unfold State.settleAll
  repeat' (first | with_reducible assumption | with_reducible apply State.settle_keep
                 | (with_reducible refine fun _ => ?_) | with_reducible apply keep_foldl)

theorem State.journal_keep {s : State} (x : Nat) (iu : Nat) (h : Keep q p up s) :
    Keep q p up (State.journal s x iu) := by
  unfold State.journal
  repeat' (first | with_reducible assumption | with_reducible apply State.modMedia_keep)

theorem State.ownersDone_keep {s : State} (owners : List (Src × W16)) (h : Keep q p up s) :
    Keep q p up (State.ownersDone s owners) := by
  unfold State.ownersDone
  repeat' (first | with_reducible assumption | with_reducible apply State.modMedia_keep)

theorem State.dropItem_keep {s : State} (x : Nat) (iu : Nat) (h : Keep q p up s) :
    Keep q p up (State.dropItem s x iu) := by
  unfold State.dropItem
  repeat' (first | with_reducible assumption | with_reducible apply State.ownersDone_keep
                 | with_reducible apply State.modMedia_keep)

theorem State.dropGranules_keep {s : State} (set : Nat) (n : Nat) (h : Keep q p up s) :
    Keep q p up (State.dropGranules s set n) := by
  unfold State.dropGranules
  repeat' (first | with_reducible assumption | with_reducible apply State.settle_keep
                 | with_reducible apply State.modMedia_keep)

theorem State.releaseLoc_keep {s : State} (o : Iu) (x : Nat) (iu : Nat) (h : Keep q p up s) :
    Keep q p up (State.releaseLoc s o x iu) := by
  unfold State.releaseLoc
  repeat' (first | with_reducible assumption | with_reducible apply State.dropGranules_keep
                 | with_reducible apply State.dropItem_keep | split)

theorem State.putIu_keep {s : State} (x : Nat) (iu : Nat) (n : Iu) (h : Keep q p up s) :
    Keep q p up (State.putIu s x iu n) := by
  unfold State.putIu
  repeat' (first | with_reducible assumption | with_reducible apply State.modMedia_keep
                 | with_reducible apply State.journal_keep | with_reducible apply State.modNs_keep
                 | with_reducible apply State.releaseLoc_keep | ((try lift_lets); intro s1; subst s1) | split)

theorem State.freeIu_keep {s : State} (x : Nat) (iu : Nat) (h : Keep q p up s) :
    Keep q p up (State.freeIu s x iu) := by
  unfold State.freeIu
  repeat' (first | with_reducible assumption | with_reducible apply State.releaseLoc_keep
                 | with_reducible apply State.journal_keep | with_reducible apply State.modNs_keep | split)

theorem State.freeAllIus_keep {s : State} (x : Nat) (h : Keep q p up s) :
    Keep q p up (State.freeAllIus s x) := by
  unfold State.freeAllIus
  repeat' (first | with_reducible assumption | with_reducible apply State.dropItem_keep
                 | with_reducible apply State.modNs_keep | with_reducible apply State.modMedia_keep
                 | (with_reducible refine fun _ => ?_) | with_reducible apply keep_foldl)

theorem State.exhaustion_keep {s : State} (x : Nat) (h : Keep q p up s) :
    Keep q p up (State.exhaustion s x) := by
  unfold State.exhaustion
  repeat' (first | with_reducible assumption | with_reducible apply State.modNs_keep
                 | with_reducible apply State.modMedia_keep | with_reducible apply State.requestRepl_keep
                 | with_reducible apply State.setWarn_keep)

theorem State.bufferIu_keep {s : State} (x : Nat) (iu : Nat) (data : Mem) (tags : List W16) (owner : Option (Src × W16))
    (h : Keep q p up s) :
    Keep q p up (State.bufferIu s x iu data tags owner) := by
  unfold State.bufferIu
  repeat' (first | with_reducible assumption | with_reducible apply State.putIu_keep
                 | with_reducible apply State.meterUp_keep | with_reducible apply State.modMedia_keep | split)

theorem State.mergeIu_keep {s : State} (x : Nat) (iu : Nat) (new : Nat → Option (List Byte × W16)) (owner : Option (Src × W16))
    (h : Keep q p up s) :
    Keep q p up (State.mergeIu s x iu new owner) := by
  unfold State.mergeIu
  repeat' (first | with_reducible assumption | with_reducible apply State.meterUp_keep
                 | with_reducible apply State.bufferIu_keep | split)

theorem State.chargeFlash_keep {s : State} (sl : Nat) (n : Nat) (h : Keep q p up s) :
    Keep q p up (State.chargeFlash s sl n) := by
  unfold State.chargeFlash
  repeat' (first | with_reducible assumption | with_reducible apply State.modSlice_keep)

theorem State.purgeKeys_keep {s : State} (h : Keep q p up s) :
    Keep q p up (State.purgeKeys s) := by
  unfold State.purgeKeys
  repeat' (first | with_reducible assumption | with_reducible apply State.modMedia_keep)

theorem State.newMediaKey_keep {s : State} (x : Nat) (h : Keep q p up s) :
    Keep q p up (State.newMediaKey s x) := by
  unfold State.newMediaKey
  repeat' (first | with_reducible assumption | with_reducible apply State.purgeKeys_keep
                 | with_reducible apply State.drawn_keep
                 | ((try lift_lets); intro s1; refine keep_cut (q := q) (p := p) (up := up) (s := s1) ?_ ?_; rotate_left; clear_value s1; intro _; rotate_left; subst s1)
                 | simp -zeta only [keep_mk]
                 | with_reducible refine keep_mix ?_ ?_ ?_ ?_ (by with_reducible rfl) (by with_reducible rfl) (by with_reducible rfl) (by with_reducible rfl))

theorem State.wrapTable_keep {s : State} (h : Keep q p up s) :
    Keep q p up (State.wrapTable s) := by
  unfold State.wrapTable
  repeat' (first | with_reducible assumption | with_reducible apply State.drawn_keep
                 | ((try lift_lets); intro s1; subst s1) | simp -zeta only [keep_mk]
                 | with_reducible refine keep_like ?_ (by with_reducible rfl))

theorem State.deleteNs_keep {s : State} (x : Nat) (h : Keep q p up s) :
    Keep q p up (State.deleteNs s x) := by
  unfold State.deleteNs
  repeat' (first | with_reducible assumption | with_reducible apply State.modNs_keep
                 | with_reducible apply State.dropItem_keep | (with_reducible refine fun _ => ?_)
                 | with_reducible apply keep_foldl)

theorem State.laneKey_keep {s : State} (chan : Nat) (x : Nat) (gen : W16) (h : Keep q p up s) :
    Keep q p up (State.laneKey s chan x gen) := by
  unfold State.laneKey
  repeat' (first | with_reducible assumption | with_reducible apply State.modMedia_keep)

theorem State.takeSeq_keep2 {s : State} (x : Nat) (h : Keep q p up s) : Keep q p up (State.takeSeq s x).2 := by
  have h1 : Keep q p up (if (s.mediaKey x).seq < (s.mediaKey x).res then s else s.modMedia fun m => m.jadd (s.nsPair x)) :=
    keep_ite h (State.modMedia_keep _ h)
  exact (keep_mk ..).2 (keep_like (keep_ite h (State.modMedia_keep (fun m => m.jadd (s.nsPair x)) h) (c := (decide ((s.mediaKey x).seq < (s.mediaKey x).res)) = true)) rfl)

theorem State.queueRefresh_keep {s : State} (x : Nat) (iu : Nat) (h : Keep q p up s) :
    Keep q p up (State.queueRefresh s x iu) := by
  unfold State.queueRefresh
  repeat' (first | with_reducible assumption | with_reducible apply State.modMedia_keep
                 | ((try lift_lets); intro s1; subst s1) | split)

theorem State.refreshIn_keep {s : State} (set : Nat) (lo : Nat) (hi : Nat) (h : Keep q p up s) :
    Keep q p up (State.refreshIn s set lo hi) := by
  unfold State.refreshIn
  repeat' (first | with_reducible assumption | with_reducible apply State.queueRefresh_keep
                 | (with_reducible refine fun _ => ?_) | with_reducible apply keep_foldl)

theorem State.nakedStripe_keep {s : State} (set : Nat) (page : Nat) (h : Keep q p up s) :
    Keep q p up (State.nakedStripe s set page) := by
  unfold State.nakedStripe
  repeat' (first | with_reducible assumption | with_reducible apply State.refreshIn_keep
                 | with_reducible apply State.modMedia_keep)

theorem State.cutSet_keep {s : State} (set : Nat) (h : Keep q p up s) :
    Keep q p up (State.cutSet s set) := by
  unfold State.cutSet
  repeat' (first | with_reducible assumption | with_reducible apply State.closeSet_keep
                 | with_reducible apply State.refreshIn_keep | with_reducible apply State.nakedStripe_keep
                 | with_reducible apply State.modMedia_keep | split)

theorem State.degrade_keep {s : State} (hit : Nat → Nat → Bool) (h : Keep q p up s) :
    Keep q p up (State.degrade s hit) := by
  unfold State.degrade
  repeat' (first | with_reducible assumption | with_reducible apply State.modMedia_keep
                 | with_reducible apply State.cutSet_keep | with_reducible apply State.refreshIn_keep
                 | (with_reducible refine fun _ => ?_) | with_reducible apply keep_foldl | split)

theorem State.failChannel_keep {s : State} (c : Nat) (cause : Nat) (h : Keep q p up s) :
    Keep q p up (State.failChannel s c cause) := by
  unfold State.failChannel
  repeat' (first | with_reducible assumption | with_reducible apply State.modMedia_keep
                 | with_reducible apply State.degrade_keep | with_reducible apply State.requestRepl_keep
                 | with_reducible apply State.logFault_keep | split)

theorem State.failDie_keep {s : State} (die : Nat) (cause : Nat) (h : Keep q p up s) :
    Keep q p up (State.failDie s die cause) := by
  unfold State.failDie
  repeat' (first | with_reducible assumption | with_reducible apply State.modMedia_keep
                 | with_reducible apply State.degrade_keep | with_reducible apply State.requestRepl_keep
                 | with_reducible apply State.logFault_keep | with_reducible apply State.failChannel_keep
                 | ((try lift_lets); intro s1; subst s1) | split)

theorem State.checkSpare_keep {s : State} (h : Keep q p up s) :
    Keep q p up (State.checkSpare s) := by
  unfold State.checkSpare
  repeat' (first | with_reducible assumption | with_reducible apply State.setWarn_keep
                 | with_reducible apply State.requestRepl_keep | ((try lift_lets); intro s1; subst s1)
                 | simp -zeta only [keep_mk] | with_reducible refine keep_like ?_ (by with_reducible rfl) | split)

theorem State.takeSpare_keep {s : State} {die x0 : Nat} {t : State} (e : State.takeSpare s die = some (x0, t))
    (h : Keep q p up s) :
    Keep q p up t := by
  unfold State.takeSpare at e
  simp only [Option.map_eq_some_iff] at e
  obtain ⟨⟨d, y⟩, _, e⟩ := e
  cases e
  have h1 := fun f => State.checkSpare_keep (State.modMedia_keep (q := q) (p := p) (up := up) f h)
  exact keep_ite (State.failDie_keep _ _ (h1 _)) (h1 _)

theorem State.checkExhaust_keep {s : State} (h : Keep q p up s) :
    Keep q p up (State.checkExhaust s) := by
  unfold State.checkExhaust
  repeat' (first | with_reducible assumption | with_reducible apply State.modMedia_keep | split)

theorem State.checkReadOnly_keep {s : State} (h : Keep q p up s) :
    Keep q p up (State.checkReadOnly s) := by
  unfold State.checkReadOnly
  repeat' (first | with_reducible assumption | simp -zeta only [keep_mk]
                 | with_reducible refine keep_like ?_ (by with_reducible rfl) | split)

theorem State.setCtxOf_keep {s : State} (c : Nat) (run : Option Nat) (n : Nat) (x : EngCtx) (h : Keep q p up s) :
    Keep q p up (State.setCtxOf s c run n x) := by
  unfold State.setCtxOf
  repeat' (first | with_reducible assumption | with_reducible apply State.setRun_keep
                 | with_reducible apply State.modCore_keep | split)

theorem State.setUnit_keep {s : State} (cls : EngineClass) (u : Nat) (x : EngUnit) (h : Keep q p up s) :
    Keep q p up (State.setUnit s cls u x) := by
  unfold State.setUnit
  repeat' (first | with_reducible assumption | simp -zeta only [keep_mk]
                 | with_reducible refine keep_like ?_ (by with_reducible rfl))

theorem State.startJob_keep {s : State} (cls : EngineClass) (u : Nat) (q0 : EngReq) (h : Keep q p up s) :
    Keep q p up (State.startJob s cls u q0) := by
  unfold State.startJob
  repeat' (first | with_reducible assumption | with_reducible apply State.setUnit_keep
                 | with_reducible apply State.setCtxOf_keep | simp -zeta only [keep_mk]
                 | with_reducible refine keep_like ?_ (by with_reducible rfl) | split)

theorem State.dispatchJobs_keep {s : State} (cls : EngineClass) (h : Keep q p up s) :
    Keep q p up (State.dispatchJobs s cls) := by
  unfold State.dispatchJobs
  repeat' (first | with_reducible assumption | with_reducible apply State.startJob_keep
                 | (with_reducible refine fun _ => ?_) | with_reducible apply keep_foldl | split)

end Sys2Proof.Machine
end

