-- ==== Sys2Proof/Laws/Keep04.lean ====
section
/-! SUPPORT. What each function keeps, from `State.engGo` to `execAbort`: one lemma per function, cited by the functions that
call it. -/

namespace Sys2Proof.Machine

variable {q : List Instr} {p up : Prop}

theorem State.engGo_keep {s : State} (c n : Nat) (input aux : List Byte) (h : Keep q p up s) :
    Keep q p up (State.engGo s c n input aux).2 := by
  unfold State.engGo
  simp only []
  split
  · exact h
  · refine State.dispatchJobs_keep _ ?_
    refine (keep_mk ..).2 ?_
    refine keep_like (s := (match Option.map (fun x => x.slice) ((s.ctxRun c n).bind fun r => State.runAt _ r) with
      | some sl => State.meterUp _ sl _
      | none => _)) ?_ rfl
    split
    · exact State.meterUp_keep _ _ (State.setCtxOf_keep _ _ _ _ h)
    · exact State.setCtxOf_keep _ _ _ _ h

theorem State.engCtl_keep {s : State} (c : Nat) (n : Nat) (v : Nat) (h : Keep q p up s) :
    Keep q p up (State.engCtl s c n v) := by
  unfold State.engCtl
  repeat' (first | with_reducible assumption | with_reducible apply State.setCtxOf_keep)

theorem portCheck_keep (s : State) (c port z : Nat) (op : PortOp) : KeepV q p up (portCheck s c port z op) := by
  unfold portCheck
  split
  · trivial
  · exact keepE_lit rfl

theorem State.ocEn_keep {s : State} (c : Nat) (v : Nat) (h : Keep q p up s) :
    Keep q p up (State.ocEn s c v) := by
  unfold State.ocEn
  repeat' (first | with_reducible assumption | with_reducible apply State.modOc_keep)

theorem State.ocMask_keep {s : State} (c : Nat) (off : Nat) (v : Nat) (h : Keep q p up s) :
    Keep q p up (State.ocMask s c off v) := by
  unfold State.ocMask
  repeat' (first | with_reducible assumption | with_reducible apply State.modOc_keep
                 | with_reducible apply State.invalidate_keep | with_reducible apply State.writeBack_keep
                 | (with_reducible refine fun _ => ?_) | with_reducible apply keep_foldl | split)

theorem State.ctlWrite_keep {s : State} (c off v : Nat)
    (h : Keep q p up s) : Keep q p up (State.ctlWrite s c off v) := by
  unfold State.ctlWrite
  simp only []
  have hc : ∀ f : Core → Core, Keep q p up (s.modCore c f) := fun f => State.modCore_keep c f h
  have ho : ∀ f : OpCache → OpCache, Keep q p up (s.modOc c f) := fun f => State.modOc_keep c f h
  iterate 8 refine keep_ite (hc _) ?_
  refine keep_ite (keep_ite h (hc _)) (keep_ite (State.ocEn_keep _ _ h) (keep_ite (ho _) (keep_ite (State.ocMask_keep _ _ _ h) ?_)))
  exact keep_ite (keep_ite h (ho _)) (ho _)

theorem portOut_keep {s : State} (c : Nat) (p0 : PortReg) (v : Nat) (h : Keep q p up s) :
    Keep q p up (portOut s c p0 v) := by
  unfold portOut
  repeat' (first | with_reducible assumption | with_reducible apply State.ctlWrite_keep
                 | with_reducible apply State.engCtl_keep | with_reducible apply State.setCtxOf_keep | split)

theorem portIox_keep {s : State} (c : Nat) (x : PortReg) (h : Keep q p up s) : Keep q p up (portIox s c x).2 := by
  unfold portIox
  split
  · exact State.engGo_keep _ _ _ _ h
  · exact h

theorem State.enterExc_keep {s : State} (c : Nat) (e : Exc) (h : Keep q p up s) : Keep q p up (State.enterExc s c e) :=
  State.modCore_keep _ _ h

theorem State.rfe_keep {s : State} (c : Nat) (h : Keep q p up s) :
    Keep q p up (State.rfe s c) := by
  unfold State.rfe
  repeat' (first | with_reducible assumption | with_reducible apply State.modCore_keep)

theorem State.flushCache_keep {s : State} (c : Nat) (h : Keep q p up s) :
    Keep q p up (State.flushCache s c) := by
  unfold State.flushCache
  repeat' (first | with_reducible assumption | with_reducible apply State.writeBack_keep
                 | with_reducible apply State.modOc_keep | (with_reducible refine fun _ => ?_)
                 | with_reducible apply keep_foldl)

theorem State.endRun_keep {s : State} (c : Nat) (i : Nat) (r : Run) (e0 : RunEnd) (h : Keep q p up s) :
    Keep q p up (State.endRun s c i r e0) := by
  unfold State.endRun
  repeat' (first | with_reducible assumption | with_reducible apply State.flushCache_keep
                 | with_reducible apply State.modCore_keep | with_reducible apply State.setRun_keep)

theorem State.billetFault_keep {s : State} (c : Nat) (i : Nat) (r : Run) (k : Core) (cause : Nat) (pc : W64) (addr : W64) (word : W64)
    (h : Keep q p up s) :
    Keep q p up (State.billetFault s c i r k cause pc addr word) := by
  unfold State.billetFault
  repeat' (first | with_reducible assumption | with_reducible apply State.endRun_keep)

theorem State.runExit_keep {s : State} (c : Nat) (i : Nat) (r : Run) (h : Keep q p up s) :
    Keep q p up (State.runExit s c i r) := by
  unfold State.runExit
  repeat' (first | with_reducible assumption | with_reducible apply State.flushCache_keep
                 | with_reducible apply State.endRun_keep | with_reducible apply State.billetFault_keep
                 | ((try lift_lets); intro s1; subst s1) | split)

theorem State.startHandler_keep {s : State} (c i : Nat) (r : Run) (k : Core) (e : Exc) (a n len : Nat)
    (h : Keep q p up s) :
    Keep q p up (State.startHandler s c i r k e a n len) :=
  State.modCore_keep _ _ (State.setRun_keep _ _ (State.rawWrite_keep _ _ _ (State.markWritten_keep _ _ _ h)))

theorem State.runtimeTakes_keep {s : State} (c i : Nat) (r : Run) (k : Core) (e : Exc) (len : Nat) (word : W64)
    (h : Keep q p up s) : Keep q p up (State.runtimeTakes s c i r k e len word) := by
  unfold State.runtimeTakes
  have hb : ∀ n a b v, Keep q p up (s.billetFault c i r k n a b v) := fun n a b v => State.billetFault_keep _ _ _ _ _ _ _ _ h
  have hh : ∀ a n, Keep q p up (s.startHandler c i r k e a n len) := fun a n => State.startHandler_keep _ _ _ _ _ _ _ _ h
  extract_lets b a7 fault
  have hf : Keep q p up fault := hb _ _ _ _
  clear_value fault
  refine keep_ite hf (keep_ite hf ?_)
  split
  · exact hf
  · exact keep_ite hf (hh _ _)

theorem State.takeSync_keep {s : State} (c : Nat) (e : Exc) (len : Nat) (word : W64) (he : KeepE q p up e)
    (h : Keep q p up s) :
    Keep q p up (State.takeSync s c e len word) := by
  unfold State.takeSync
  have h0 : Keep q p up (e.stands.getD s) := by
    cases hs : e.stands with
    | none => exact h
    | some t => exact he t hs
  simp only []
  split
  · exact State.modCore_keep _ _ h0
  · have h1 := State.enterExc_keep c e h0
    split
    · exact h1
    · split
      · exact h1
      · split
        · exact h1
        · exact State.runtimeTakes_keep _ _ _ _ _ _ _ h1

theorem State.handlerResume_keep {s : State} (c : Nat) (i : Nat) (r : Run) (h : Keep q p up s) :
    Keep q p up (State.handlerResume s c i r) := by
  unfold State.handlerResume
  repeat' (first | with_reducible assumption | with_reducible apply State.setRun_keep
                 | with_reducible apply State.modCore_keep)

theorem State.arrive_keep {s : State} (c : Nat) (a : W64) (h : Keep q p up s) :
    Keep q p up (State.arrive s c a) := by
  unfold State.arrive
  repeat' (first | with_reducible assumption | with_reducible apply State.modCtx_keep
                 | with_reducible apply State.runExit_keep | with_reducible apply State.handlerResume_keep
                 | ((try lift_lets); intro s1; refine keep_cut (q := q) (p := p) (up := up) (s := s1) ?_ ?_; rotate_left; clear_value s1; intro _; rotate_left; subst s1)
                 | split)

theorem State.finish_keep {s : State} (c : Nat) (rp : Bool) (len : Nat) (target : Option W64) (h : Keep q p up s) :
    Keep q p up (State.finish s c rp len target) := by
  unfold State.finish
  repeat' (first | with_reducible assumption | with_reducible apply State.modCore_keep
                 | with_reducible apply State.modCtx_keep | with_reducible apply State.arrive_keep
                 | ((try lift_lets); intro s1; subst s1) | split)

theorem State.jobWrite_keep {s : State} (q0 : EngReq) (a : Nat) (bs : List Byte) (h : Keep q p up s) :
    Keep q p up (State.jobWrite s q0 a bs) := by
  unfold State.jobWrite
  repeat' (first | with_reducible assumption | with_reducible apply State.rawWrite_keep
                 | with_reducible apply State.modCore_keep | with_reducible apply State.setRun_keep
                 | with_reducible apply State.localWrite_keep | with_reducible apply State.meterUp_keep
                 | with_reducible apply State.hostWrite_keep | split)

theorem State.jobFetched_keep {s : State} (q0 : EngReq) (a : Nat) (n : Nat) (h : Keep q p up s) :
    Keep q p up (State.jobFetched s q0 a n) := by
  unfold State.jobFetched
  repeat' (first | with_reducible assumption | with_reducible apply State.meterUp_keep
                 | with_reducible apply State.hostRead_keep | split)

theorem State.deliver_keep {s : State} (q0 : EngReq) (h : Keep q p up s) :
    Keep q p up (State.deliver s q0) := by
  unfold State.deliver
  repeat' (first | with_reducible assumption | with_reducible apply State.modCore_keep
                 | with_reducible apply State.setRun_keep | split)

theorem State.logData_keep {s : State} (q0 : EngReq) (h : Keep q p up s) :
    Keep q p up (State.logData s q0) := by
  unfold State.logData
  repeat' (first | with_reducible assumption | with_reducible apply State.logFault_keep)

theorem State.retireUnit_keep {s : State} (cls : EngineClass) (u : Nat) (h : Keep q p up s) :
    Keep q p up (State.retireUnit s cls u) := by
  unfold State.retireUnit
  repeat' (first | with_reducible assumption | with_reducible apply State.setUnit_keep
                 | with_reducible apply State.requestRepl_keep | ((try lift_lets); intro s1; subst s1) | split)

theorem State.engineFault_keep {s : State} (cls : EngineClass) (u : Nat) (cause : Nat) (h : Keep q p up s) :
    Keep q p up (State.engineFault s cls u cause) := by
  unfold State.engineFault
  repeat' (first | with_reducible assumption | with_reducible apply State.logFault_keep
                 | with_reducible apply State.retireUnit_keep | with_reducible apply State.setUnit_keep
                 | ((try lift_lets); intro s1; subst s1) | simp -zeta only [keep_mk]
                 | with_reducible refine keep_like ?_ (by with_reducible rfl) | split)

theorem State.endJob_keep {s : State} (q0 : EngReq) (u : Option Nat) (o : JobOut) (h : Keep q p up s) :
    Keep q p up (State.endJob s q0 u o) := by
  unfold State.endJob
  repeat' (first | with_reducible assumption | with_reducible apply State.jobFetched_keep
                 | with_reducible apply State.jobWrite_keep | with_reducible apply State.drawnN_keep
                 | with_reducible apply State.setCtxOf_keep | with_reducible apply State.setUnit_keep
                 | with_reducible apply State.deliver_keep | with_reducible apply State.logData_keep
                 | simp -zeta only [keep_mk] | with_reducible refine keep_like ?_ (by with_reducible rfl) | split)

theorem execEngGo_keep (c : Nat) (ctx : Nat) (input : List Byte) (aux : List Byte) {s : State} (h : Keep q p up s) :
    Keep q p up (nextOr (execEngGo c ctx input aux s) s) := by
  unfold execEngGo
  dsimp -zeta only [nextOr]
  repeat' (first | with_reducible assumption | with_reducible apply State.engGo_keep
                 | ((try lift_lets); intro s1; subst s1) | simp -zeta only [keep_mk]
                 | with_reducible refine keep_like ?_ (by with_reducible rfl) | split)

theorem execEngCtlClose_keep (c : Nat) (ctx : Nat) {s : State} (h : Keep q p up s) :
    Keep q p up (nextOr (execEngCtlClose c ctx s) s) := by
  unfold execEngCtlClose
  dsimp -zeta only [nextOr]
  repeat' (first | with_reducible assumption | with_reducible apply State.engCtl_keep | split)

theorem execEngCtlAbort_keep (c : Nat) (ctx : Nat) {s : State} (h : Keep q p up s) :
    Keep q p up (nextOr (execEngCtlAbort c ctx s) s) := by
  unfold execEngCtlAbort
  dsimp -zeta only [nextOr]
  repeat' (first | with_reducible assumption | with_reducible apply State.engCtl_keep | split)

theorem execEngineJobEnd_keep (c : Nat) (ctx : Nat) (code : Byte) {s : State} (h : Keep q p up s) :
    Keep q p up (nextOr (execEngineJobEnd c ctx code s) s) := by
  unfold execEngineJobEnd
  dsimp -zeta only [nextOr]
  repeat' (first | with_reducible assumption | with_reducible apply State.endJob_keep
                 | with_reducible apply State.engineFault_keep | with_reducible apply State.logData_keep
                 | with_reducible apply State.dispatchJobs_keep | with_reducible apply hf
                 | (with_reducible refine fun _ => ?_) | with_reducible apply keep_foldl
                 | with_reducible apply keep_foldl_fst
                 | ((try lift_lets); intro s1; refine keep_cut (q := q) (p := p) (up := up) (s := s1) ?_ ?_; rotate_left; clear_value s1; intro _; rotate_left; subst s1)
                 | ((try lift_lets); intro s1; subst s1) | dsimp -zeta only | simp -zeta only [keep_mk]
                 | with_reducible refine keep_like ?_ (by with_reducible rfl)
                 | with_reducible refine keep_mix ?_ ?_ ?_ ?_ (by with_reducible rfl) (by with_reducible rfl) (by with_reducible rfl) (by with_reducible rfl)
                 | split | intro _ | dsimp only)

theorem execEngineSwitchBoundary_keep (cls : EngineClass) (unit : Nat) (unwrapOk : Bool) {s : State}
    (h : Keep q p up s) :
    Keep q p up (nextOr (execEngineSwitchBoundary cls unit unwrapOk s) s) := by
  unfold execEngineSwitchBoundary
  dsimp -zeta only [nextOr]
  repeat' (first | with_reducible assumption | with_reducible apply State.dispatchJobs_keep
                 | with_reducible apply State.endJob_keep | with_reducible apply State.drawn_keep
                 | with_reducible apply State.startJob_keep | with_reducible apply State.logFault_keep
                 | ((try lift_lets); intro s1; subst s1) | simp -zeta only [keep_mk]
                 | with_reducible refine keep_like ?_ (by with_reducible rfl) | split)

theorem execEngineJobWaitLimit_keep (c : Nat) (ctx : Nat) {s : State} (h : Keep q p up s) :
    Keep q p up (nextOr (execEngineJobWaitLimit c ctx s) s) := by
  unfold execEngineJobWaitLimit
  dsimp -zeta only [nextOr]
  repeat' (first | with_reducible assumption | simp -zeta only [keep_mk]
                 | with_reducible refine keep_like ?_ (by with_reducible rfl))

theorem execEngineNoBoundaryTimeout_keep (cls : EngineClass) (unit : Nat) {s : State} (h : Keep q p up s) :
    Keep q p up (nextOr (execEngineNoBoundaryTimeout cls unit s) s) := by
  unfold execEngineNoBoundaryTimeout
  dsimp -zeta only [nextOr]
  repeat' (first | with_reducible assumption | with_reducible apply State.dispatchJobs_keep
                 | with_reducible apply State.engineFault_keep | with_reducible apply State.endJob_keep | split)

theorem execEngineKatComplete_keep (cls : EngineClass) (unit : Nat) (passed : Bool) {s : State} (h : Keep q p up s) :
    Keep q p up (nextOr (execEngineKatComplete cls unit passed s) s) := by
  unfold execEngineKatComplete
  dsimp -zeta only [nextOr]
  repeat' (first | with_reducible assumption | with_reducible apply State.dispatchJobs_keep
                 | with_reducible apply State.setUnit_keep | with_reducible apply State.retireUnit_keep
                 | with_reducible apply State.logFault_keep | split)

theorem State.modRead_keep {s : State} (n : Nat) (f : MediaRead → MediaRead) (h : Keep q p up s) :
    Keep q p up (State.modRead s n f) := by
  unfold State.modRead
  repeat' (first | with_reducible assumption | with_reducible apply State.modMedia_keep | split)

theorem State.softServe_keep (g n : Nat) : ∀ {s : State}, Keep q p up s → Keep q p up (State.softServe s g n) := by
  induction n with
  | zero => exact fun h => h
  | succ n ih =>
    intro s h
    unfold State.softServe
    simp only []
    split
    · exact ih (State.modMedia_keep _ (State.modRead_keep _ _ h))
    · exact h

theorem State.enterStep_keep (n f : Nat) : ∀ {s : State} (step : Nat), Keep q p up s → Keep q p up (State.enterStep s n step f) := by
  induction f with
  | zero => exact fun _ h => h
  | succ f ih =>
    intro s step h
    unfold State.enterStep
    split
    · exact h
    · simp only []
      refine keep_ite (ih _ h) ?_
      have hr := fun g => State.modRead_keep n g (keep_ite (c := step = 5) (State.drawn_keep h) h)
      exact keep_ite (State.softServe_keep _ _ (hr _)) (hr _)

theorem State.sendRead_keep {s : State} (n : Nat) (r : MediaRead) (die : Nat) (h : Keep q p up s) :
    Keep q p up (State.sendRead s n r die) := by
  unfold State.sendRead
  repeat' (first | with_reducible assumption | with_reducible apply State.modRead_keep
                 | with_reducible apply State.modMedia_keep | with_reducible apply State.chargeFlash_keep | split)

theorem State.kickDie_keep {s : State} (die : Nat) (h : Keep q p up s) :
    Keep q p up (State.kickDie s die) := by
  unfold State.kickDie
  repeat' (first | with_reducible assumption | with_reducible apply State.sendRead_keep
                 | ((try lift_lets); intro s1; subst s1) | split)

theorem State.kickAll_keep {s : State} (h : Keep q p up s) :
    Keep q p up (State.kickAll s) := by
  unfold State.kickAll
  repeat' (first | with_reducible assumption | with_reducible apply State.kickDie_keep
                 | with_reducible apply keep_foldl)

theorem State.queueRead_keep {s : State} (r : MediaRead) (h : Keep q p up s) :
    Keep q p up (State.queueRead s r) := by
  unfold State.queueRead
  repeat' (first | with_reducible assumption | with_reducible apply State.modMedia_keep
                 | with_reducible apply State.chargeFlash_keep | with_reducible apply State.kickDie_keep
                 | ((try lift_lets); intro s1; subst s1) | split)

theorem State.issueRead_keep {s : State} (reader : Reader) (x : Nat) (iu : Nat) (u : Nat) (set : Nat) (goff : Nat)
    (h : Keep q p up s) :
    Keep q p up (State.issueRead s reader x iu u set goff) := by
  unfold State.issueRead
  repeat' (first | with_reducible assumption | with_reducible apply State.queueRead_keep)

theorem State.dropRead_keep {s : State} (n : Nat) (h : Keep q p up s) :
    Keep q p up (State.dropRead s n) := by
  unfold State.dropRead
  repeat' (first | with_reducible assumption | with_reducible apply State.purgeKeys_keep
                 | with_reducible apply State.modMedia_keep | with_reducible apply State.kickDie_keep
                 | with_reducible apply State.softServe_keep | split)

theorem State.trussPage_keep {s : State} (set : Nat) (page : Nat) (i : Nat) (h : Keep q p up s) :
    Keep q p up (State.trussPage s set page i) := by
  unfold State.trussPage
  repeat' (first | with_reducible assumption | with_reducible apply State.modMedia_keep)

theorem State.parityDone_keep {s : State} (set : Nat) (page : Nat) (h : Keep q p up s) :
    Keep q p up (State.parityDone s set page) := by
  unfold State.parityDone
  repeat' (first | with_reducible assumption | with_reducible apply State.modMedia_keep)

theorem State.storeUnit_keep {s : State} (set : Nat) (off : Nat) (u : Stored) (h : Keep q p up s) :
    Keep q p up (State.storeUnit s set off u) := by
  unfold State.storeUnit
  repeat' (first | with_reducible assumption | with_reducible apply State.modMedia_keep)

theorem State.storeItem_keep {s : State} (set : Nat) (g : Nat) (b : BufItem) (h : Keep q p up s) :
    Keep q p up (State.storeItem s set g b) := by
  unfold State.storeItem
  repeat' (first | with_reducible assumption | with_reducible apply State.laneKey_keep
                 | with_reducible apply State.storeUnit_keep | with_reducible apply State.takeSeq_keep2
                 | (with_reducible refine fun _ => ?_) | with_reducible apply keep_foldl
                 | ((try lift_lets); intro s1; subst s1) | split)

theorem State.deviceUnit_keep2 {s : State} (kind ulba : Nat) (body : Body) (h : Keep q p up s) :
    Keep q p up (State.deviceUnit s kind ulba body).2 :=
  State.takeSeq_keep2 4096 h

theorem State.deviceUnit_keep {s : State} {kind ulba : Nat} {body : Body} {t : State} {x0 : Stored} (e : State.deviceUnit s kind ulba body = (x0, t))
    (h : Keep q p up s) : Keep q p up t := by
  have := State.deviceUnit_keep2 kind ulba body h
  rw [e] at this
  exact this

theorem State.freeUnit_keep2 {s : State} (kind ulba : Nat)
    (h : Keep q p up s) : Keep q p up (State.freeUnit s kind ulba).2 :=
  State.deviceUnit_keep2 _ _ _ (State.drawnN_keep _ h)

theorem State.freeUnit_keep {s : State} {kind ulba : Nat} {t : State} {x0 : Stored} (e : State.freeUnit s kind ulba = (x0, t))
    (h : Keep q p up s) : Keep q p up t := by
  have := State.freeUnit_keep2 kind ulba h
  rw [e] at this
  exact this

theorem State.keeperData_keep {s : State} (record : Nat) (h : Keep q p up s) :
    Keep q p up (State.keeperData s record) := by
  unfold State.keeperData
  repeat' (first | with_reducible assumption | with_reducible apply State.freeUnit_keep2
                 | with_reducible apply State.modMedia_keep)

theorem State.packingUnit_keep {s : State} (set : Nat) (h : Keep q p up s) :
    Keep q p up (State.packingUnit s set) := by
  unfold State.packingUnit
  repeat' (first | with_reducible assumption | with_reducible apply State.deviceUnit_keep2
                 | with_reducible apply State.laneKey_keep | with_reducible apply State.modMedia_keep
                 | with_reducible apply State.storeUnit_keep | ((try lift_lets); intro s1; subst s1) | split)

/-- A power state up to PS4 keeps. -/
theorem State.setPs_keep {s : State} (n : Nat) (hn : p → n ≤ 4)
    (h : Keep q p up s) : Keep q p up (State.setPs s n) := by
  have h0 : Keep q p up (if n = 4 then s.dramSleep else s.dramWake) := keep_ite (State.dramSleep_keep h) (State.dramWake_keep h)
  unfold State.setPs
  revert h0
  generalize (if n = 4 then s.dramSleep else s.dramWake) = s1
  intro h0
  refine ⟨h0.1, fun hp => ⟨h0.dram hp, h0.hm hp, ?_⟩, h0.2.2⟩
  obtain ⟨h1, _, h3, _, h5, h6⟩ := h0.dev hp
  refine ⟨h1, hn hp, ?_, by simp, h5, h6⟩
  simp only []
  split
  · omega
  · exact h3

theorem State.psExit_keep {s : State} (h : Keep q p up s) : Keep q p up (State.psExit s) := by
  unfold State.psExit
  split
  · exact State.setPs_keep _ (fun hp => Nat.le_trans (h.dev hp).2.2.1 (by decide)) h
  · split
    · exact h
    · refine ⟨h.1, fun hp => ⟨h.dram hp, h.hm hp, ?_⟩, h.2.2⟩
      obtain ⟨h1, h2, h3, _, h5, h6⟩ := h.dev hp
      exact ⟨h1, h2, h3, by simp, h5, h6⟩

theorem execSqTailDoorbell_keep (ctrl : Nat) (qid : Nat) (value : W32) {s : State} (h : Keep q p up s) :
    Keep q p up (nextOr (execSqTailDoorbell ctrl qid value s) s) := by
  unfold execSqTailDoorbell
  dsimp -zeta only [nextOr]
  repeat' (first | with_reducible assumption | with_reducible apply State.psExit_keep
                 | with_reducible apply State.raiseEvent_keep | with_reducible apply State.modSq_keep
                 | ((try lift_lets); intro s1; subst s1) | split)

theorem execCqHeadDoorbell_keep (ctrl : Nat) (qid : Nat) (value : W32) {s : State} (h : Keep q p up s) :
    Keep q p up (nextOr (execCqHeadDoorbell ctrl qid value s) s) := by
  unfold execCqHeadDoorbell
  dsimp -zeta only [nextOr]
  repeat' (first | with_reducible assumption | with_reducible apply State.psExit_keep
                 | with_reducible apply State.raiseEvent_keep | with_reducible apply State.drainCqes_keep
                 | with_reducible apply State.modCtrl_keep | ((try lift_lets); intro s1; subst s1) | split)

theorem execCreateIoCompletionQueue_keep (q0 : Src) (e0 : Sqe) {s : State} (h : Keep q p up s) :
    Keep q p up (nextOr (execCreateIoCompletionQueue q0 e0 s) s) := by
  unfold execCreateIoCompletionQueue
  dsimp -zeta only [nextOr]
  repeat' (first | with_reducible assumption | with_reducible apply State.adminCmd_keep
                 | with_reducible apply State.fail_keep | with_reducible apply State.succeed_keep
                 | with_reducible apply State.modCtrl_keep | (with_reducible refine fun _ => ?_) | split
                 | dsimp only)

theorem execCreateIoSubmissionQueue_keep (q0 : Src) (e0 : Sqe) {s : State} (h : Keep q p up s) :
    Keep q p up (nextOr (execCreateIoSubmissionQueue q0 e0 s) s) := by
  unfold execCreateIoSubmissionQueue
  dsimp -zeta only [nextOr]
  repeat' (first | with_reducible assumption | with_reducible apply State.adminCmd_keep
                 | with_reducible apply State.fail_keep | with_reducible apply State.succeed_keep
                 | with_reducible apply State.modCtrl_keep | (with_reducible refine fun _ => ?_) | split
                 | dsimp only)

theorem execDeleteIoCompletionQueue_keep (q0 : Src) (e0 : Sqe) {s : State} (h : Keep q p up s) :
    Keep q p up (nextOr (execDeleteIoCompletionQueue q0 e0 s) s) := by
  unfold execDeleteIoCompletionQueue
  dsimp -zeta only [nextOr]
  repeat' (first | with_reducible assumption | with_reducible apply State.adminCmd_keep
                 | with_reducible apply State.fail_keep | with_reducible apply State.succeed_keep
                 | with_reducible apply State.modCtrl_keep | (with_reducible refine fun _ => ?_)
                 | ((try lift_lets); intro s1; subst s1) | split)

theorem execAbort_keep (q0 : Src) (e0 : Sqe) {s : State} (h : Keep q p up s) :
    Keep q p up (nextOr (execAbort q0 e0 s) s) := by
  unfold execAbort
  dsimp -zeta only [nextOr]
  repeat' (first | with_reducible assumption | with_reducible apply State.adminCmd_keep
                 | with_reducible apply State.fail_keep | with_reducible apply State.complete_keep
                 | (with_reducible refine fun _ => ?_) | split)

end Sys2Proof.Machine
end

