-- ==== Sys2Proof/Laws/Keep05.lean ====
section
/-! SUPPORT. What each function keeps, from `execAsynchronousEventRequest` to `execFlashProgramComplete`: one lemma per function, cited by the functions that
call it. -/

namespace Sys2Proof.Machine

variable {q : List Instr} {p up : Prop}

theorem execAsynchronousEventRequest_keep (q0 : Src) (e0 : Sqe) {s : State} (h : Keep q p up s) :
    Keep q p up (nextOr (execAsynchronousEventRequest q0 e0 s) s) := by
  unfold execAsynchronousEventRequest
  dsimp -zeta only [nextOr]
  repeat' (first | with_reducible assumption | with_reducible apply State.adminCmd_keep
                 | with_reducible apply State.fail_keep | with_reducible apply State.modCtrl_keep
                 | with_reducible apply State.raiseEvent_keep | (with_reducible refine fun _ => ?_)
                 | ((try lift_lets); intro s1; subst s1) | split)

theorem State.setFeature_keep {s : State} (q0 : Src) (e0 : Sqe) (fid : Nat) (body : State → State)
    (h : Keep q p up s) (hf : ∀ y0, Keep q p up y0 → Keep q p up (body y0)) :
    Keep q p up (State.setFeature s q0 e0 fid body) := by
  unfold State.setFeature
  repeat' (first | with_reducible assumption | with_reducible apply State.adminCmd_keep
                 | with_reducible apply State.fail_keep | with_reducible apply hf
                 | (with_reducible refine fun _ => ?_) | split)

theorem State.putFeature_keep {s : State} (q0 : Src) (e0 : Sqe) (f : Features → Features) (h : Keep q p up s) :
    Keep q p up (State.putFeature s q0 e0 f) := by
  unfold State.putFeature
  repeat' (first | with_reducible assumption | with_reducible apply State.succeed_keep
                 | with_reducible apply State.modCtrl_keep)

theorem execSetFeaturesArbitration_keep (q0 : Src) (e0 : Sqe) {s : State} (h : Keep q p up s) :
    Keep q p up (nextOr (execSetFeaturesArbitration q0 e0 s) s) := by
  unfold execSetFeaturesArbitration
  dsimp -zeta only [nextOr]
  repeat' (first | with_reducible assumption | with_reducible apply State.setFeature_keep
                 | with_reducible apply State.putFeature_keep | (with_reducible refine fun _ => ?_))

theorem execSetFeaturesPowerManagement_keep {s : State} (q0 : Src) (e0 : Sqe) (h : Keep q p up s) :
    Keep q p up (nextOr (execSetFeaturesPowerManagement q0 e0 s) s) := by
  unfold execSetFeaturesPowerManagement
  simp only [nextOr]
  refine State.setFeature_keep _ _ _ _ h (fun t ht => ?_)
  split
  · exact State.fail_keep _ _ _ _ ht
  · rename_i hn
    refine State.succeed_keep _ _ ?_
    split
    · exact State.setPs_keep _ (fun _ => by omega) ht
    · refine ⟨ht.1, fun hp => ⟨ht.dram hp, ht.hm hp, ?_⟩, ht.2.2⟩
      obtain ⟨h1, h2, h3, _, h5, h6⟩ := ht.dev hp
      refine ⟨h1, h2, h3, fun x hx => ?_, h5, h6⟩
      have hx : some (e0.cdw11.toNat % 32) = some x := hx
      cases hx
      omega

theorem execSetFeaturesTemperatureThreshold_keep (q0 : Src) (e0 : Sqe) {s : State} (h : Keep q p up s) :
    Keep q p up (nextOr (execSetFeaturesTemperatureThreshold q0 e0 s) s) := by
  unfold execSetFeaturesTemperatureThreshold
  dsimp -zeta only [nextOr]
  repeat' (first | with_reducible assumption | with_reducible apply State.setFeature_keep
                 | with_reducible apply State.fail_keep | with_reducible apply State.succeed_keep
                 | with_reducible apply hf | (with_reducible refine fun _ => ?_) | with_reducible apply keep_foldl
                 | with_reducible apply keep_foldl_fst
                 | ((try lift_lets); intro s1; refine keep_cut (q := q) (p := p) (up := up) (s := s1) ?_ ?_; rotate_left; clear_value s1; intro _; rotate_left; subst s1)
                 | ((try lift_lets); intro s1; subst s1) | dsimp -zeta only | simp -zeta only [keep_mk]
                 | with_reducible refine keep_like ?_ (by with_reducible rfl)
                 | with_reducible refine keep_mix ?_ ?_ ?_ ?_ (by with_reducible rfl) (by with_reducible rfl) (by with_reducible rfl) (by with_reducible rfl)
                 | split | intro _ | dsimp only)

theorem execSetFeaturesErrorRecovery_keep (q0 : Src) (e0 : Sqe) {s : State} (h : Keep q p up s) :
    Keep q p up (nextOr (execSetFeaturesErrorRecovery q0 e0 s) s) := by
  unfold execSetFeaturesErrorRecovery
  dsimp -zeta only [nextOr]
  repeat' (first | with_reducible assumption | with_reducible apply State.setFeature_keep
                 | with_reducible apply State.fail_keep | with_reducible apply State.putFeature_keep
                 | (with_reducible refine fun _ => ?_) | split)

theorem execSetFeaturesNumberOfQueues_keep (q0 : Src) (e0 : Sqe) {s : State} (h : Keep q p up s) :
    Keep q p up (nextOr (execSetFeaturesNumberOfQueues q0 e0 s) s) := by
  unfold execSetFeaturesNumberOfQueues
  dsimp -zeta only [nextOr]
  repeat' (first | with_reducible assumption | with_reducible apply State.setFeature_keep
                 | with_reducible apply State.fail_keep | with_reducible apply State.complete_keep
                 | with_reducible apply State.modCtrl_keep | (with_reducible refine fun _ => ?_)
                 | ((try lift_lets); intro s1; subst s1) | simp -zeta only [keep_mk]
                 | with_reducible refine keep_like ?_ (by with_reducible rfl) | split)

theorem execSetFeaturesInterruptCoalescing_keep (q0 : Src) (e0 : Sqe) {s : State} (h : Keep q p up s) :
    Keep q p up (nextOr (execSetFeaturesInterruptCoalescing q0 e0 s) s) := by
  unfold execSetFeaturesInterruptCoalescing
  dsimp -zeta only [nextOr]
  repeat' (first | with_reducible assumption | with_reducible apply State.setFeature_keep
                 | with_reducible apply State.putFeature_keep | (with_reducible refine fun _ => ?_))

theorem execSetFeaturesInterruptVectorConfig_keep (q0 : Src) (e0 : Sqe) {s : State} (h : Keep q p up s) :
    Keep q p up (nextOr (execSetFeaturesInterruptVectorConfig q0 e0 s) s) := by
  unfold execSetFeaturesInterruptVectorConfig
  dsimp -zeta only [nextOr]
  repeat' (first | with_reducible assumption | with_reducible apply State.setFeature_keep
                 | with_reducible apply State.fail_keep | with_reducible apply State.putFeature_keep
                 | with_reducible apply hf | (with_reducible refine fun _ => ?_) | with_reducible apply keep_foldl
                 | with_reducible apply keep_foldl_fst
                 | ((try lift_lets); intro s1; refine keep_cut (q := q) (p := p) (up := up) (s := s1) ?_ ?_; rotate_left; clear_value s1; intro _; rotate_left; subst s1)
                 | ((try lift_lets); intro s1; subst s1) | dsimp -zeta only | simp -zeta only [keep_mk]
                 | with_reducible refine keep_like ?_ (by with_reducible rfl)
                 | with_reducible refine keep_mix ?_ ?_ ?_ ?_ (by with_reducible rfl) (by with_reducible rfl) (by with_reducible rfl) (by with_reducible rfl)
                 | split | intro _ | dsimp only)

theorem execSetFeaturesWriteAtomicity_keep (q0 : Src) (e0 : Sqe) {s : State} (h : Keep q p up s) :
    Keep q p up (nextOr (execSetFeaturesWriteAtomicity q0 e0 s) s) := by
  unfold execSetFeaturesWriteAtomicity
  dsimp -zeta only [nextOr]
  repeat' (first | with_reducible assumption | with_reducible apply State.setFeature_keep
                 | with_reducible apply State.putFeature_keep | (with_reducible refine fun _ => ?_))

theorem execSetFeaturesAsyncEventConfig_keep (q0 : Src) (e0 : Sqe) {s : State} (h : Keep q p up s) :
    Keep q p up (nextOr (execSetFeaturesAsyncEventConfig q0 e0 s) s) := by
  unfold execSetFeaturesAsyncEventConfig
  dsimp -zeta only [nextOr]
  repeat' (first | with_reducible assumption | with_reducible apply State.setFeature_keep
                 | with_reducible apply State.putFeature_keep | with_reducible apply hf
                 | (with_reducible refine fun _ => ?_) | with_reducible apply keep_foldl
                 | with_reducible apply keep_foldl_fst
                 | ((try lift_lets); intro s1; refine keep_cut (q := q) (p := p) (up := up) (s := s1) ?_ ?_; rotate_left; clear_value s1; intro _; rotate_left; subst s1)
                 | ((try lift_lets); intro s1; subst s1) | dsimp -zeta only | simp -zeta only [keep_mk]
                 | with_reducible refine keep_like ?_ (by with_reducible rfl)
                 | with_reducible refine keep_mix ?_ ?_ ?_ ?_ (by with_reducible rfl) (by with_reducible rfl) (by with_reducible rfl) (by with_reducible rfl)
                 | split | intro _ | dsimp only)

/-- A power state that an entry names keeps the transition table's bound. -/
theorem execSetFeaturesApst_keep {s : State} (q0 : Src) (e0 : Sqe) (data : List Byte) (h : Keep q p up s) :
    Keep q p up (nextOr (execSetFeaturesApst q0 e0 data s) s) := by
  unfold execSetFeaturesApst
  simp only [nextOr]
  refine State.setFeature_keep _ _ _ _ h (fun t ht => ?_)
  refine keep_ite (State.fail_keep _ _ _ _ ht) ?_
  split
  · exact State.fail_keep _ _ _ _ ht
  · rename_i hn
    refine State.succeed_keep _ _ (State.moved_keep _ _ _ _ ?_)
    refine ⟨ht.1, fun hp => ⟨ht.dram hp, ht.hm hp, ?_⟩, ht.2.2⟩
    obtain ⟨h1, h2, h3, h4, _, h6⟩ := ht.dev hp
    refine ⟨h1, h2, h3, h4, fun x hx hx2 => ?_, h6⟩
    have hx : x ∈ List.map (apstEntry data) (List.range 32) := hx
    rw [← List.take_append_drop 5 (List.map (apstEntry data) (List.range 32))] at hx
    simp only [Bool.or_eq_true, List.any_eq_true, not_or, not_exists, not_and, decide_eq_true_eq, ne_eq, Decidable.not_not] at hn
    rcases List.mem_append.1 hx with hx | hx
    · have h0 : x ≠ (0, 0) := fun e => hx2 (by rw [e])
      have := hn.2 x hx h0
      omega
    · rw [← List.map_drop, List.mem_map] at hx
      obtain ⟨k, hk, rfl⟩ := hx
      have := hn.1 k hk
      exact absurd (congrArg (fun w => w / 256 % 2 ^ 24) this) hx2

theorem execSetFeaturesTimestamp_keep (q0 : Src) (e0 : Sqe) {s : State} (h : Keep q p up s) :
    Keep q p up (nextOr (execSetFeaturesTimestamp q0 e0 s) s) := by
  unfold execSetFeaturesTimestamp
  dsimp -zeta only [nextOr]
  repeat' (first | with_reducible assumption | with_reducible apply State.setFeature_keep
                 | with_reducible apply State.fail_keep | with_reducible apply hf
                 | (with_reducible refine fun _ => ?_) | with_reducible apply keep_foldl
                 | with_reducible apply keep_foldl_fst
                 | ((try lift_lets); intro s1; refine keep_cut (q := q) (p := p) (up := up) (s := s1) ?_ ?_; rotate_left; clear_value s1; intro _; rotate_left; subst s1)
                 | ((try lift_lets); intro s1; subst s1) | dsimp -zeta only | simp -zeta only [keep_mk]
                 | with_reducible refine keep_like ?_ (by with_reducible rfl)
                 | with_reducible refine keep_mix ?_ ?_ ?_ ?_ (by with_reducible rfl) (by with_reducible rfl) (by with_reducible rfl) (by with_reducible rfl)
                 | split | intro _ | dsimp only)

theorem execGetFeatures_keep (q0 : Src) (e0 : Sqe) {s : State} (h : Keep q p up s) :
    Keep q p up (nextOr (execGetFeatures q0 e0 s) s) := by
  unfold execGetFeatures
  dsimp -zeta only [nextOr]
  repeat' (first | with_reducible assumption | with_reducible apply State.adminCmd_keep
                 | with_reducible apply State.fail_keep | with_reducible apply State.complete_keep
                 | with_reducible apply State.moved_keep | with_reducible apply State.sendTo_keep
                 | with_reducible apply hf | (with_reducible refine fun _ => ?_) | with_reducible apply keep_foldl
                 | with_reducible apply keep_foldl_fst
                 | ((try lift_lets); intro s1; refine keep_cut (q := q) (p := p) (up := up) (s := s1) ?_ ?_; rotate_left; clear_value s1; intro _; rotate_left; subst s1)
                 | ((try lift_lets); intro s1; subst s1) | dsimp -zeta only | simp -zeta only [keep_mk]
                 | with_reducible refine keep_like ?_ (by with_reducible rfl)
                 | with_reducible refine keep_mix ?_ ?_ ?_ ?_ (by with_reducible rfl) (by with_reducible rfl) (by with_reducible rfl) (by with_reducible rfl)
                 | split | intro _ | dsimp only)

theorem execInterruptAggregationTimeExpiry_keep (ctrl : Nat) (vector : Nat) {s : State} (h : Keep q p up s) :
    Keep q p up (nextOr (execInterruptAggregationTimeExpiry ctrl vector s) s) := by
  unfold execInterruptAggregationTimeExpiry
  dsimp -zeta only [nextOr]
  repeat' (first | with_reducible assumption | with_reducible apply State.raiseMsi_keep
                 | with_reducible apply State.modCtrl_keep | split)

theorem State.ioCmd_keep {s : State} (q0 : Src) (e0 : Sqe) (opc : Nat) (core : Bool) (body : Nat → State → State)
    (h : Keep q p up s) (hf : ∀ y0 y1, Keep q p up y1 → Keep q p up (body y0 y1)) :
    Keep q p up (State.ioCmd s q0 e0 opc core body) := by
  unfold State.ioCmd
  repeat' (first | with_reducible assumption | with_reducible apply State.begin_keep | with_reducible apply hf | split)

theorem State.nsCmd_keep {s : State} (q0 : Src) (e0 : Sqe) (opc : Nat) (n : NsSpec → List (Nat × Nat)) (body : Nat → Nat → State → State)
    (h : Keep q p up s) (hf : ∀ y0 y1 y2, Keep q p up y2 → Keep q p up (body y0 y1 y2)) :
    Keep q p up (State.nsCmd s q0 e0 opc n body) := by
  unfold State.nsCmd
  repeat' (first | with_reducible assumption | with_reducible apply State.ioCmd_keep
                 | with_reducible apply State.fail_keep | with_reducible apply hf
                 | (with_reducible refine fun _ => ?_) | ((try lift_lets); intro s1; subst s1) | split)

theorem State.sendIo_keep {s : State} (q0 : Src) (e0 : Sqe) (d : Data) (h : Keep q p up s) :
    Keep q p up (State.sendIo s q0 e0 d) := by
  unfold State.sendIo
  repeat' (first | with_reducible assumption | with_reducible apply State.sendTo_keep
                 | with_reducible apply State.drawn_keep | with_reducible apply State.hostWrite_keep
                 | with_reducible apply State.tagPaused_keep | with_reducible apply State.meterUp_keep
                 | with_reducible apply State.moved_keep | (with_reducible refine fun _ => ?_)
                 | with_reducible apply keep_foldl | split | dsimp only)

theorem State.sealCount_keep {s : State} (q0 : Src) (cid : W16) (n : Nat) (h : Keep q p up s) :
    Keep q p up (State.sealCount s q0 cid n) := by
  unfold State.sealCount
  repeat' (first | with_reducible assumption | with_reducible apply State.meterUp_keep
                 | with_reducible apply State.hostRead_keep | split)

theorem execFlush_keep (q0 : Src) (e0 : Sqe) {s : State} (h : Keep q p up s) :
    Keep q p up (nextOr (execFlush q0 e0 s) s) := by
  unfold execFlush
  dsimp -zeta only [nextOr]
  repeat' (first | with_reducible assumption | with_reducible apply State.ioCmd_keep
                 | with_reducible apply State.succeed_keep | (with_reducible refine fun _ => ?_))

theorem State.zeroPart_keep {s : State} (x : Nat) (a : Nat) (n : Nat) (iu : Nat) (tag : W16) (owner : Option (Src × W16))
    (h : Keep q p up s) :
    Keep q p up (State.zeroPart s x a n iu tag owner) := by
  unfold State.zeroPart
  repeat' (first | with_reducible assumption | with_reducible apply State.mergeIu_keep)

theorem State.writeBody_keep {s : State} (w : WaitWrite) (owner : Option (Src × W16)) (h : Keep q p up s) :
    Keep q p up (State.writeBody s w owner) := by
  unfold State.writeBody
  repeat' (first | with_reducible assumption | with_reducible apply State.mergeIu_keep
                 | with_reducible apply State.zeroPart_keep | with_reducible apply hf
                 | (with_reducible refine fun _ => ?_) | with_reducible apply keep_foldl
                 | with_reducible apply keep_foldl_fst
                 | ((try lift_lets); intro s1; refine keep_cut (q := q) (p := p) (up := up) (s := s1) ?_ ?_; rotate_left; clear_value s1; intro _; rotate_left; subst s1)
                 | ((try lift_lets); intro s1; subst s1) | dsimp -zeta only | simp -zeta only [keep_mk]
                 | with_reducible refine keep_like ?_ (by with_reducible rfl)
                 | with_reducible refine keep_mix ?_ ?_ ?_ ?_ (by with_reducible rfl) (by with_reducible rfl) (by with_reducible rfl) (by with_reducible rfl)
                 | split | intro _ | dsimp only)

theorem State.admitWrite_keep {s : State} (w : WaitWrite) (h : Keep q p up s) :
    Keep q p up (State.admitWrite s w) := by
  unfold State.admitWrite
  repeat' (first | with_reducible assumption | with_reducible apply State.modMedia_keep
                 | with_reducible apply State.writeBody_keep | with_reducible apply State.succeed_keep
                 | ((try lift_lets); intro s1; subst s1) | split)

theorem State.offerWrite_keep {s : State} (w : WaitWrite) (first : Bool) (h : Keep q p up s) :
    Keep q p up (State.offerWrite s w first) := by
  unfold State.offerWrite
  repeat' (first | with_reducible assumption | with_reducible apply State.modMedia_keep
                 | with_reducible apply State.succeed_keep | with_reducible apply State.fail_keep
                 | with_reducible apply State.exhaustion_keep | with_reducible apply State.admitWrite_keep
                 | ((try lift_lets); intro s1; subst s1) | split)

theorem execWrite_keep (q0 : Src) (e0 : Sqe) (data : List Byte) (pi : List PiTuple) (sealOk : Bool) {s : State}
    (h : Keep q p up s) :
    Keep q p up (nextOr (execWrite q0 e0 data pi sealOk s) s) := by
  unfold execWrite
  dsimp -zeta only [nextOr]
  repeat' (first | with_reducible assumption | with_reducible apply State.nsCmd_keep
                 | with_reducible apply State.fail_keep | with_reducible apply State.sealCount_keep
                 | with_reducible apply State.moved_keep | with_reducible apply State.drawnN_keep
                 | with_reducible apply State.offerWrite_keep | (with_reducible refine fun _ => ?_)
                 | ((try lift_lets); intro s1; subst s1) | split)

theorem execWriteBufferAdmit_keep {s : State} (h : Keep q p up s) :
    Keep q p up (nextOr (execWriteBufferAdmit s) s) := by
  unfold execWriteBufferAdmit
  dsimp -zeta only [nextOr]
  repeat' (first | with_reducible assumption | with_reducible apply State.offerWrite_keep
                 | with_reducible apply State.modMedia_keep | split)

theorem State.readIu_keep2 {s : State} (io : Nat) (x : Nat) (a : Nat) (n : Nat) (iu : Nat) (h : Keep q p up s) :
    Keep q p up (State.readIu s io x a n iu).1 := by
  unfold State.readIu
  repeat' (first | with_reducible assumption | with_reducible apply State.issueRead_keep
                 | (with_reducible refine fun _ => ?_) | with_reducible apply keep_foldl
                 | ((try lift_lets); intro s1; subst s1) | split)

theorem State.readIu_keep {s : State} {io : Nat} {x : Nat} {a : Nat} {n : Nat} {iu : Nat} {t : State} {x0} (e : State.readIu s io x a n iu = (t, x0))
    (h : Keep q p up s) :
    Keep q p up t :=
  (congrArg (fun x => x.1) e : (State.readIu s io x a n iu).1 = t) ▸ State.readIu_keep2 _ _ _ _ _ h

theorem State.endRead_keep {s : State} (r : IoRead) (h : Keep q p up s) :
    Keep q p up (State.endRead s r) := by
  unfold State.endRead
  repeat' (first | with_reducible assumption | with_reducible apply State.fail_keep
                 | with_reducible apply State.logFault_keep | with_reducible apply State.succeed_keep
                 | with_reducible apply State.sendIo_keep | ((try lift_lets); intro s1; subst s1) | split)

theorem execRead_keep (q0 : Src) (e0 : Sqe) {s : State} (h : Keep q p up s) :
    Keep q p up (nextOr (execRead q0 e0 s) s) := by
  unfold execRead
  dsimp -zeta only [nextOr]
  repeat' (first | with_reducible assumption | with_reducible apply State.nsCmd_keep
                 | with_reducible apply State.fail_keep | with_reducible apply State.readIu_keep2
                 | with_reducible apply State.endRead_keep | with_reducible apply State.modMedia_keep
                 | (with_reducible refine fun _ => ?_) | with_reducible apply keep_foldl_fst
                 | ((try lift_lets); intro s1; subst s1) | split)

theorem State.freeWhole_keep {s : State} (x : Nat) (a : Nat) (n : Nat) (h : Keep q p up s) :
    Keep q p up (State.freeWhole s x a n) := by
  unfold State.freeWhole
  repeat' (first | with_reducible assumption | with_reducible apply State.freeIu_keep
                 | with_reducible apply State.modNs_keep | (with_reducible refine fun _ => ?_)
                 | with_reducible apply keep_foldl | ((try lift_lets); intro s1; subst s1) | split)

theorem State.freeAndMerge_keep {s : State} (w : WaitWrite) (ranges : List (Nat × Nat)) (h : Keep q p up s) :
    Keep q p up (State.freeAndMerge s w ranges) := by
  unfold State.freeAndMerge
  repeat' (first | with_reducible assumption | with_reducible apply State.freeWhole_keep
                 | with_reducible apply State.succeed_keep | with_reducible apply State.fail_keep
                 | with_reducible apply State.exhaustion_keep | with_reducible apply State.offerWrite_keep
                 | (with_reducible refine fun _ => ?_) | with_reducible apply keep_foldl
                 | ((try lift_lets); intro s1; subst s1) | split)

theorem execWriteZeroes_keep (q0 : Src) (e0 : Sqe) {s : State} (h : Keep q p up s) :
    Keep q p up (nextOr (execWriteZeroes q0 e0 s) s) := by
  unfold execWriteZeroes
  dsimp -zeta only [nextOr]
  repeat' (first | with_reducible assumption | with_reducible apply State.nsCmd_keep
                 | with_reducible apply State.fail_keep | with_reducible apply State.chargeFlash_keep
                 | with_reducible apply State.freeAndMerge_keep | (with_reducible refine fun _ => ?_)
                 | ((try lift_lets); intro s1; subst s1) | split)

theorem execDatasetManagement_keep (q0 : Src) (e0 : Sqe) (ranges : List (Nat × Nat)) {s : State} (h : Keep q p up s) :
    Keep q p up (nextOr (execDatasetManagement q0 e0 ranges s) s) := by
  unfold execDatasetManagement
  dsimp -zeta only [nextOr]
  repeat' (first | with_reducible assumption | with_reducible apply State.nsCmd_keep
                 | with_reducible apply State.fail_keep | with_reducible apply State.modCmd_keep
                 | with_reducible apply State.moved_keep | with_reducible apply State.chargeFlash_keep
                 | with_reducible apply State.succeed_keep | with_reducible apply State.freeAndMerge_keep
                 | (with_reducible refine fun _ => ?_) | ((try lift_lets); intro s1; subst s1) | split)

theorem State.placeIn_keep2 {s : State} (set : Nat) (put : BlockSet → Nat × BlockSet) (h : Keep q p up s) :
    Keep q p up (State.placeIn s set put).2 := by
  unfold State.placeIn
  repeat' (first | with_reducible assumption | with_reducible apply State.packingUnit_keep
                 | with_reducible apply State.modMedia_keep | split)

theorem State.placeIn_keep {s : State} {set : Nat} {put : BlockSet → Nat × BlockSet} {t : State} {x0} (e : State.placeIn s set put = (x0, t))
    (h : Keep q p up s) :
    Keep q p up t :=
  (congrArg (fun x => x.2) e : (State.placeIn s set put).2 = t) ▸ State.placeIn_keep2 _ _ h

theorem State.listExt_keep {s : State} (set : Nat) (x : Ext) (h : Keep q p up s) :
    Keep q p up (State.listExt s set x) := by
  unfold State.listExt
  repeat' (first | with_reducible assumption | with_reducible apply State.modMedia_keep)

theorem State.padPage_keep {s : State} (set : Nat) (h : Keep q p up s) :
    Keep q p up (State.padPage s set) := by
  unfold State.padPage
  repeat' (first | with_reducible assumption | with_reducible apply State.packingUnit_keep
                 | with_reducible apply State.modMedia_keep)

theorem State.enterPanic_keep {s : State} (c : Nat) (h : Keep q p up s) :
    Keep q p up (State.enterPanic s c) := by
  unfold State.enterPanic
  repeat' (first | with_reducible assumption | with_reducible apply State.modDchan_keep
                 | (with_reducible refine fun _ => ?_) | with_reducible apply keep_foldl | simp -zeta only [keep_mk]
                 | with_reducible refine keep_like ?_ (by with_reducible rfl) | split)

theorem State.checkPanic_keep {s : State} (c : Nat) (h : Keep q p up s) :
    Keep q p up (State.checkPanic s c) := by
  unfold State.checkPanic
  repeat' (first | with_reducible assumption | with_reducible apply State.enterPanic_keep
                 | ((try lift_lets); intro s1; subst s1) | simp -zeta only [keep_mk]
                 | with_reducible refine keep_like ?_ (by with_reducible rfl) | split)

theorem State.addProg_keep {s : State} (p0 : Prog) (h : Keep q p up s) :
    Keep q p up (State.addProg s p0) := by
  unfold State.addProg
  repeat' (first | with_reducible assumption | with_reducible apply State.modMedia_keep
                 | with_reducible apply State.checkPanic_keep | with_reducible apply keep_foldl)

theorem State.sendPages_keep {s : State} (set : Nat) (pages : List Nat) (h : Keep q p up s) :
    Keep q p up (State.sendPages s set pages) := by
  unfold State.sendPages
  repeat' (first | with_reducible assumption | with_reducible apply State.trussPage_keep
                 | with_reducible apply State.addProg_keep | (with_reducible refine fun _ => ?_)
                 | with_reducible apply keep_foldl
                 | ((try lift_lets); intro s1; refine keep_cut (q := q) (p := p) (up := up) (s := s1) ?_ ?_; rotate_left; clear_value s1; intro _; rotate_left; subst s1)
                 | split)

theorem State.journalUnit_keep {s : State} (set : Nat) (h : Keep q p up s) :
    Keep q p up (State.journalUnit s set) := by
  unfold State.journalUnit
  repeat' (first | with_reducible assumption | with_reducible apply State.freeUnit_keep2
                 | with_reducible apply State.modMedia_keep | with_reducible apply State.placeIn_keep2
                 | with_reducible apply State.laneKey_keep | with_reducible apply State.storeUnit_keep)

theorem State.sendItem_keep {s : State} (b : BufItem) (prog : Nat) (goff : Nat) (h : Keep q p up s) :
    Keep q p up (State.sendItem s b prog goff) := by
  unfold State.sendItem
  repeat' (first | with_reducible assumption | with_reducible apply State.modMedia_keep
                 | with_reducible apply State.modSlice_keep)

theorem State.fillPage__keep (set prog hi : Nat) (flush : Bool) (n : Nat) :
    ∀ {s : State} {first : Bool}, Keep q p up s → Keep q p up (State.fillPage_ s set prog hi flush n first) := by
  induction n with
  | zero => exact fun h => h
  | succ n ih =>
    intro s first h
    unfold State.fillPage_
    split
    · exact h
    · simp only []
      have hp := fun put => State.placeIn_keep2 (q := q) (p := p) (up := up) set put h
      exact keep_ite h (ih (State.sendItem_keep _ _ _ (State.storeItem_keep _ _ _ (keep_ite (State.listExt_keep _ _ (hp _)) (hp _)))))

theorem State.stagingSet_keep {s : State} {pos : Nat} {flush : Bool} {t : State} {x0}
    (e : State.stagingSet s pos flush = some (x0, t)) (h : Keep q p up s) : Keep q p up t := by
  unfold State.stagingSet at e
  split at e
  · cases e; exact h
  · by_cases hc : (if flush = true then s.media.stagingErased else s.media.spareStaging) = 0
    · rw [if_pos hc] at e; cases e
    · rw [if_neg hc] at e
      simp only [Option.map_eq_some_iff, Prod.mk.injEq] at e
      obtain ⟨_, _, _, e⟩ := e
      exact e ▸ State.modMedia_keep _ h

theorem State.sendProgram_keep {s : State} (set : Nat) (a : Nat) (p0 : Prog) (h : Keep q p up s) :
    Keep q p up (State.sendProgram s set a p0) := by
  unfold State.sendProgram
  repeat' (first | with_reducible assumption | with_reducible apply State.addProg_keep
                 | with_reducible apply State.sendPages_keep)

theorem State.dispatchProgram_keep {s : State} (units : Nat) (flush : Bool) (h : Keep q p up s) :
    Keep q p up (State.dispatchProgram s units flush) := by
  unfold State.dispatchProgram
  repeat' (first | with_reducible assumption
                 | with_reducible refine State.stagingSet_keep (by with_reducible assumption) ?_
                 | with_reducible apply State.cutSet_keep | with_reducible apply State.journalUnit_keep
                 | with_reducible apply State.fillPage__keep | with_reducible apply State.modMedia_keep
                 | with_reducible apply State.sendProgram_keep | with_reducible apply State.padPage_keep
                 | ((try lift_lets); intro s1; subst s1) | split)

theorem execStagingProgramDispatch_keep (units : Nat) {s : State} (h : Keep q p up s) :
    Keep q p up (nextOr (execStagingProgramDispatch units s) s) := by
  unfold execStagingProgramDispatch
  dsimp -zeta only [nextOr]
  repeat' (first | with_reducible assumption | with_reducible apply State.dispatchProgram_keep | split)

theorem State.closeFull_keep {s : State} (set : Nat) (h : Keep q p up s) :
    Keep q p up (State.closeFull s set) := by
  unfold State.closeFull
  repeat' (first | with_reducible assumption | with_reducible apply State.settle_keep
                 | with_reducible apply State.closeSet_keep | ((try lift_lets); intro s1; subst s1) | split)

theorem State.dropProg_keep {s : State} (n : Nat) (p0 : Prog) (h : Keep q p up s) :
    Keep q p up (State.dropProg s n p0) := by
  unfold State.dropProg
  repeat' (first | with_reducible assumption | with_reducible apply State.modMedia_keep
                 | with_reducible apply State.checkPanic_keep | with_reducible apply State.settleAll_keep
                 | with_reducible apply State.closeFull_keep | with_reducible apply keep_foldl)

theorem State.programOk_keep {s : State} (n : Nat) (p0 : Prog) (h : Keep q p up s) :
    Keep q p up (State.programOk s n p0) := by
  unfold State.programOk
  repeat' (first | with_reducible assumption | with_reducible apply State.dropProg_keep
                 | with_reducible apply State.parityDone_keep | with_reducible apply State.meterUp_keep
                 | with_reducible apply State.putIu_keep | with_reducible apply State.ownersDone_keep
                 | with_reducible apply State.modMedia_keep | with_reducible apply State.succeed_keep
                 | (with_reducible refine fun _ => ?_) | with_reducible apply keep_foldl
                 | ((try lift_lets); intro s1; subst s1) | split)

theorem State.copyRun_keep2 {s : State} (set : Nat) (first : Nat) (count : Nat) (xs : List Ext) (dest : Nat)
    (h : Keep q p up s) :
    Keep q p up (State.copyRun s set first count xs dest).2 := by
  unfold State.copyRun
  repeat' (first | with_reducible assumption
                 | with_reducible refine State.placeIn_keep (by with_reducible assumption) ?_
                 | with_reducible apply State.storeUnit_keep | with_reducible apply State.listExt_keep
                 | (with_reducible refine fun _ => ?_) | with_reducible apply keep_foldl
                 | ((try lift_lets); intro s1; subst s1) | split)

theorem State.copyRun_keep {s : State} {set : Nat} {first : Nat} {count : Nat} {xs : List Ext} {dest : Nat} {t : State} {x0} (e : State.copyRun s set first count xs dest = (x0, t))
    (h : Keep q p up s) :
    Keep q p up t :=
  (congrArg (fun x => x.2) e : (State.copyRun s set first count xs dest).2 = t) ▸ State.copyRun_keep2 _ _ _ _ _ h

theorem State.copyProg_keep {s : State} (n : Nat) (p0 : Prog) (set : Nat) (h : Keep q p up s) :
    Keep q p up (State.copyProg s n p0 set) := by
  unfold State.copyProg
  repeat' (first | with_reducible assumption | with_reducible apply State.copyRun_keep2
                 | with_reducible apply State.modMedia_keep | (with_reducible refine fun _ => ?_)
                 | with_reducible apply keep_foldl)

theorem State.rewriteProgram_keep {s : State} (n : Nat) (x : Prog) (flush : Bool) (h : Keep q p up s) :
    Keep q p up (State.rewriteProgram s n x flush) := by
  unfold State.rewriteProgram
  simp only []
  split
  · exact State.modMedia_keep _ h
  · rename_i e
    obtain ⟨k, _, e⟩ := List.exists_of_findSome?_eq_some e
    obtain ⟨⟨set, t⟩, et, e⟩ := Option.bind_eq_some_iff.1 e
    simp only [Option.ite_none_left_eq_some, Option.some.injEq, Prod.mk.injEq] at e
    obtain ⟨_, _, _, e⟩ := e
    exact State.modMedia_keep _ (State.sendProgram_keep _ _ _
      (e ▸ State.padPage_keep _ (State.copyProg_keep _ _ _ (State.stagingSet_keep et h))))

theorem State.parityLost_keep {s : State} (n : Nat) (p0 : Prog) (page : Nat) (h : Keep q p up s) :
    Keep q p up (State.parityLost s n p0 page) := by
  unfold State.parityLost
  repeat' (first | with_reducible assumption | with_reducible apply State.modMedia_keep
                 | with_reducible apply State.dropProg_keep | with_reducible apply State.nakedStripe_keep)

theorem State.redoProgram_keep {s : State} (n : Nat) (p0 : Prog) (h : Keep q p up s) :
    Keep q p up (State.redoProgram s n p0) := by
  unfold State.redoProgram
  repeat' (first | with_reducible assumption | with_reducible apply State.cutSet_keep
                 | with_reducible apply State.parityLost_keep | with_reducible apply State.modMedia_keep
                 | with_reducible apply State.settle_keep | with_reducible apply State.rewriteProgram_keep | split)

theorem State.sweepProgs_keep {s : State} (h : Keep q p up s) :
    Keep q p up (State.sweepProgs s) := by
  unfold State.sweepProgs
  repeat' (first | with_reducible assumption | with_reducible apply State.redoProgram_keep
                 | (with_reducible refine fun _ => ?_) | with_reducible apply keep_foldl)

theorem State.startRate_keep {s : State} (c : Nat) (r : Nat) (h : Keep q p up s) :
    Keep q p up (State.startRate s c r) := by
  unfold State.startRate
  repeat' (first | with_reducible assumption | with_reducible apply State.modMedia_keep)

theorem State.crcFailed_keep {s : State} (n : Nat) (p0 : Prog) (c : Nat) (h : Keep q p up s) :
    Keep q p up (State.crcFailed s n p0 c) := by
  unfold State.crcFailed
  repeat' (first | with_reducible assumption | with_reducible apply State.sweepProgs_keep
                 | with_reducible apply State.failChannel_keep | with_reducible apply State.startRate_keep
                 | with_reducible apply State.modMedia_keep | split)

theorem execFlashProgramComplete_keep (prog : Nat) (result : ProgramEnd) {s : State} (h : Keep q p up s) :
    Keep q p up (nextOr (execFlashProgramComplete prog result s) s) := by
  unfold execFlashProgramComplete
  dsimp -zeta only [nextOr]
  repeat' (first | with_reducible assumption | with_reducible apply State.programOk_keep
                 | with_reducible apply State.redoProgram_keep | with_reducible apply State.modMedia_keep
                 | with_reducible apply State.crcFailed_keep | split)

end Sys2Proof.Machine
end

