-- ==== Sys2Proof/Laws/Keep06.lean ====
section
/-! SUPPORT. What each function keeps, from `State.landPages` to `addrOf`: one lemma per function, cited by the functions that
call it. -/

namespace Sys2Proof.Machine

variable {q : List Instr} {p up : Prop}

theorem State.landPages_keep {s : State} (set : Nat) (a : Nat) (h : Keep q p up s) :
    Keep q p up (State.landPages s set a) := by
  unfold State.landPages
  repeat' (first | with_reducible assumption | with_reducible apply State.trussPage_keep
                 | with_reducible apply State.parityDone_keep | (with_reducible refine fun _ => ?_)
                 | with_reducible apply keep_foldl | split)

theorem State.fillSet_keep {s : State} (set : Nat) (h : Keep q p up s) :
    Keep q p up (State.fillSet s set) := by
  unfold State.fillSet
  repeat' (first | with_reducible assumption | with_reducible apply State.padPage_keep
                 | with_reducible apply State.modMedia_keep | with_reducible apply State.closeSet_keep
                 | with_reducible apply State.landPages_keep)

theorem State.destSet_keep {s : State} {role : Role} {cell : Cell} {x : Purpose} {comp : Bool} {units : Nat} {t : State} {x0}
    (e : State.destSet s role cell x comp units = some (x0, t)) (h : Keep q p up s) : Keep q p up t := by
  unfold State.destSet at e
  have draw : ∀ {s : State}, Keep q p up s → (if s.freeSets = 0 then none
      else Option.map (fun n => (n, s.modMedia fun m => m.openSet n role cell x)) (s.media.pickErased none false)) = some (x0, t) →
      Keep q p up t := by
    intro s h e
    split at e
    · cases e
    · simp only [Option.map_eq_some_iff, Prod.mk.injEq] at e
      obtain ⟨_, _, _, e⟩ := e
      exact e ▸ State.modMedia_keep _ h
  simp only [] at e
  split at e
  · split at e
    · cases e; exact h
    · exact draw (State.fillSet_keep _ h) e
  · exact draw h e

theorem State.remap_keep {s : State} (set : Nat) (dest : Nat) (shift : Nat) (first : Nat) (xs : List Ext)
    (h : Keep q p up s) :
    Keep q p up (State.remap s set dest shift first xs) := by
  unfold State.remap
  repeat' (first | with_reducible assumption | with_reducible apply State.settle_keep
                 | with_reducible apply State.putIu_keep | (with_reducible refine fun _ => ?_)
                 | with_reducible apply keep_foldl | split)

theorem State.placeMoved_keep {s : State} {x : Transit} {r : Nat × Nat × List Ext} {t : State}
    (e : State.placeMoved s x r = some t) (h : Keep q p up s) : Keep q p up t := by
  unfold State.placeMoved at e
  simp only [] at e
  obtain ⟨⟨dest, t'⟩, e1, rfl⟩ := Option.map_eq_some_iff.1 e
  have h1 : Keep q p up t' := by
    split at e1
    · split at e1
      · cases e1; exact h
      · exact State.destSet_keep e1 h
    · exact State.destSet_keep e1 h
  have h2 := State.landPages_keep dest (t'.media.set dest).cursor
    (State.packingUnit_keep dest (State.copyRun_keep2 x.source r.1 (r.2.1 - r.1) r.2.2 dest h1))
  have h3 := State.remap_keep x.source dest (t'.copyRun x.source r.1 (r.2.1 - r.1) r.2.2 dest).1 r.1 r.2.2
    (keep_ite (c := x.foreground = true) (State.modMedia_keep (fun m => { m with
        credit := m.credit + (r.2.2.foldl (fun n x => n + x.len) 0 : Nat) }) h2) h2)
  exact keep_ite (State.closeSet_keep _ h3) h3

theorem State.finishRun_keep {s : State} (k : Nat) (h : Keep q p up s) : Keep q p up (State.finishRun s k) := by
  have fold : ∀ (t : Transit) (l : List (Nat × Nat × List Ext)) (o : Option State), (∀ u, o = some u → Keep q p up u) →
      ∀ u, l.foldl (fun (o : Option State) r => o.bind fun s => s.placeMoved t r) o = some u → Keep q p up u := by
    intro t l
    induction l with
    | nil => exact fun o ho => ho
    | cons r l ih =>
      intro o ho
      refine ih _ fun u hu => ?_
      obtain ⟨v, ev, hv⟩ := Option.bind_eq_some_iff.1 hu
      exact State.placeMoved_keep hv (ho v ev)
  unfold State.finishRun
  split
  · exact h
  · split
    · exact h
    · simp only []
      split
      · exact h
      · rename_i e
        exact State.settle_keep _ (State.modMedia_keep _ (fold _ _ _ (fun u hu => by cases hu; exact h) _ e))

theorem State.runRead_keep {s : State} (k : Nat) (h : Keep q p up s) :
    Keep q p up (State.runRead s k) := by
  unfold State.runRead
  repeat' (first | with_reducible assumption | with_reducible apply State.finishRun_keep
                 | with_reducible apply State.modMedia_keep | split)

theorem State.startRun_keep {s : State} (v : Move) (r : Nat × Nat × List Ext) (h : Keep q p up s) :
    Keep q p up (State.startRun s v r) := by
  unfold State.startRun
  repeat' (first | with_reducible assumption | with_reducible apply State.modMedia_keep
                 | with_reducible apply State.issueRead_keep | with_reducible apply State.finishRun_keep
                 | (with_reducible refine fun _ => ?_) | with_reducible apply keep_foldl)

theorem State.runMove_keep2 {s : State} (v : Move) (n : Nat) (h : Keep q p up s) :
    Keep q p up (State.runMove s v n).1 := by
  unfold State.runMove
  repeat' (first | with_reducible assumption | with_reducible apply State.settle_keep
                 | with_reducible apply State.startRun_keep | (with_reducible refine fun _ => ?_)
                 | with_reducible apply keep_foldl)

theorem State.runMove_keep {s : State} {v : Move} {n : Nat} {t : State} {x0} (e : State.runMove s v n = (t, x0))
    (h : Keep q p up s) :
    Keep q p up t :=
  (congrArg (fun x => x.1) e : (State.runMove s v n).1 = t) ▸ State.runMove_keep2 _ _ h

theorem State.startMove_keep {s : State} (v : Move) (h : Keep q p up s) :
    Keep q p up (State.startMove s v) := by
  unfold State.startMove
  repeat' (first | with_reducible assumption | with_reducible apply State.settle_keep
                 | with_reducible apply State.modMedia_keep)

theorem State.refreshOne_keep {s : State} (x : Refresh) (h : Keep q p up s) :
    Keep q p up (State.refreshOne s x) := by
  unfold State.refreshOne
  repeat' (first | with_reducible assumption | with_reducible apply State.startRun_keep | split)

theorem State.runMoves_keep {s : State} (window : Bool) (n : Nat) (h : Keep q p up s) :
    Keep q p up (State.runMoves s window n) := by
  unfold State.runMoves
  repeat' (first | with_reducible assumption | with_reducible apply State.finishRun_keep
                 | with_reducible apply State.refreshOne_keep | with_reducible apply State.modMedia_keep
                 | with_reducible apply State.runMove_keep2 | (with_reducible refine fun _ => ?_)
                 | with_reducible apply keep_foldl | with_reducible apply keep_foldl_fst)

theorem State.track_keep {s : State} (r : MediaRead) (f : Track → Track) (h : Keep q p up s) :
    Keep q p up (State.track s r f) := by
  unfold State.track
  repeat' (first | with_reducible assumption | with_reducible apply State.modMedia_keep)

theorem State.tracked_keep {s : State} (r : MediaRead) (d : Decode) (sense : Sense) (h : Keep q p up s) :
    Keep q p up (State.tracked s r d sense) := by
  unfold State.tracked
  repeat' (first | with_reducible assumption | with_reducible apply State.track_keep
                 | with_reducible apply State.drawn_keep)

theorem State.enterColumn_keep {s : State} (die : Nat) (col : Nat) (h : Keep q p up s) :
    Keep q p up (State.enterColumn s die col) := by
  unfold State.enterColumn
  repeat' (first | with_reducible assumption | with_reducible apply State.failDie_keep
                 | with_reducible apply State.modMedia_keep | ((try lift_lets); intro s1; subst s1) | split)

theorem State.columnHit_keep {s : State} (die : Nat) (col : Nat) (wl : Nat) (h : Keep q p up s) :
    Keep q p up (State.columnHit s die col wl) := by
  unfold State.columnHit
  repeat' (first | with_reducible assumption | with_reducible apply State.modMedia_keep
                 | with_reducible apply State.enterColumn_keep | ((try lift_lets); intro s1; subst s1) | split)

theorem State.stepFour_keep {s : State} (r : MediaRead) (h : Keep q p up s) :
    Keep q p up (State.stepFour s r) := by
  unfold State.stepFour
  repeat' (first | with_reducible assumption | with_reducible apply State.modMedia_keep)

theorem State.modScan_keep {s : State} (n : Nat) (f : Scan → Scan) (h : Keep q p up s) :
    Keep q p up (State.modScan s n f) := by
  unfold State.modScan
  repeat' (first | with_reducible assumption | simp -zeta only [keep_mk]
                 | with_reducible refine keep_like ?_ (by with_reducible rfl) | split)

theorem State.feedScan_keep {s : State} (n : Nat) (idx : Nat) (chan : Nat) (unit : List Byte) (h : Keep q p up s) :
    Keep q p up (State.feedScan s n idx chan unit) := by
  unfold State.feedScan
  repeat' (first | with_reducible assumption | with_reducible apply State.modScan_keep
                 | with_reducible apply State.meterUp_keep | split)

theorem State.ioDone_keep {s : State} (io : Nat) (iu : Nat) (unit : Nat) (got : Option (Body × W16 × Bool)) (fail : Option (Nat × Nat))
    (h : Keep q p up s) :
    Keep q p up (State.ioDone s io iu unit got fail) := by
  unfold State.ioDone
  repeat' (first | with_reducible assumption | with_reducible apply State.endRead_keep
                 | with_reducible apply State.modMedia_keep | ((try lift_lets); intro s1; subst s1) | split)

theorem State.unitOk_keep {s : State} (n : Nat) (r : MediaRead) (body : Body) (app : W16) (alien : Bool)
    (h : Keep q p up s) :
    Keep q p up (State.unitOk s n r body app alien) := by
  unfold State.unitOk
  repeat' (first | with_reducible assumption | with_reducible apply State.dropRead_keep
                 | with_reducible apply State.runRead_keep | with_reducible apply State.meterUp_keep
                 | with_reducible apply State.ioDone_keep | with_reducible apply State.feedScan_keep
                 | with_reducible apply State.modScan_keep | split)

theorem State.unitFail_keep {s : State} (n : Nat) (r : MediaRead) (sct : Nat) (sc : Nat) (h : Keep q p up s) :
    Keep q p up (State.unitFail s n r sct sc) := by
  unfold State.unitFail
  repeat' (first | with_reducible assumption | with_reducible apply State.dropRead_keep
                 | with_reducible apply State.runRead_keep | with_reducible apply State.ioDone_keep
                 | with_reducible apply State.modScan_keep | split)

theorem State.unrecoverable_keep {s : State} (n : Nat) (r : MediaRead) (h : Keep q p up s) :
    Keep q p up (State.unrecoverable s n r) := by
  unfold State.unrecoverable
  repeat' (first | with_reducible assumption | with_reducible apply State.logFault_keep
                 | with_reducible apply State.storeUnit_keep | with_reducible apply State.unitFail_keep | split)

theorem State.authCheck_keep {s : State} (n : Nat) (r : MediaRead) (bytes : Option (List Byte)) (h : Keep q p up s) :
    Keep q p up (State.authCheck s n r bytes) := by
  unfold State.authCheck
  repeat' (first | with_reducible assumption | with_reducible apply State.laneKey_keep
                 | with_reducible apply State.unitFail_keep | with_reducible apply State.storeUnit_keep
                 | with_reducible apply State.unitOk_keep | with_reducible apply State.queueRefresh_keep
                 | with_reducible apply State.dropRead_keep | with_reducible apply State.enterStep_keep
                 | with_reducible apply State.modRead_keep | with_reducible apply State.softServe_keep
                 | with_reducible apply State.logFault_keep
                 | ((try lift_lets); intro s1; refine keep_cut (q := q) (p := p) (up := up) (s := s1) ?_ ?_; rotate_left; clear_value s1; intro _; rotate_left; subst s1)
                 | split)

theorem State.recovered_keep {s : State} (r : MediaRead) (h : Keep q p up s) :
    Keep q p up (State.recovered s r) := by
  unfold State.recovered
  repeat' (first | with_reducible assumption | with_reducible apply State.queueRefresh_keep
                 | with_reducible apply State.modMedia_keep | split)

theorem State.decoded_keep {s : State} (n : Nat) (r : MediaRead) (d : Decode) (sense : Sense) (bytes : Option (List Byte))
    (h : Keep q p up s) :
    Keep q p up (State.decoded s n r d sense bytes) := by
  unfold State.decoded
  repeat' (first | with_reducible assumption | with_reducible apply State.unrecoverable_keep
                 | with_reducible apply State.track_keep | with_reducible apply State.tracked_keep
                 | with_reducible apply State.columnHit_keep | with_reducible apply State.authCheck_keep
                 | with_reducible apply State.recovered_keep | with_reducible apply State.dropRead_keep
                 | with_reducible apply State.stepFour_keep | with_reducible apply State.modRead_keep
                 | with_reducible apply State.softServe_keep | with_reducible apply State.enterStep_keep
                 | (with_reducible refine fun _ => ?_) | with_reducible apply keep_foldl
                 | ((try lift_lets); intro s1; subst s1) | split)

theorem State.dieReady_keep {s : State} (die : Nat) (h : Keep q p up s) :
    Keep q p up (State.dieReady s die) := by
  unfold State.dieReady
  repeat' (first | with_reducible assumption | with_reducible apply State.modMedia_keep)

theorem execFlashReadComplete_keep (read : Nat) (dec : Decode) (sense : Sense) (bytes : Option (List Byte)) {s : State}
    (h : Keep q p up s) :
    Keep q p up (nextOr (execFlashReadComplete read dec sense bytes s) s) := by
  unfold execFlashReadComplete
  dsimp -zeta only [nextOr]
  repeat' (first | with_reducible assumption | with_reducible apply State.sweepProgs_keep
                 | with_reducible apply State.decoded_keep | with_reducible apply State.dieReady_keep | split)

theorem execSoftDecodeComplete_keep (read : Nat) (dec : Decode) (sense : Sense) (bytes : Option (List Byte)) {s : State}
    (h : Keep q p up s) :
    Keep q p up (nextOr (execSoftDecodeComplete read dec sense bytes s) s) := by
  unfold execSoftDecodeComplete
  dsimp -zeta only [nextOr]
  repeat' (first | with_reducible assumption | with_reducible apply State.sweepProgs_keep
                 | with_reducible apply State.decoded_keep | split)

theorem execDieBusyTimeout_keep (die : Nat) {s : State} (h : Keep q p up s) :
    Keep q p up (nextOr (execDieBusyTimeout die s) s) := by
  unfold execDieBusyTimeout
  dsimp -zeta only [nextOr]
  repeat' (first | with_reducible assumption | with_reducible apply State.sweepProgs_keep
                 | with_reducible apply State.failDie_keep | with_reducible apply State.modMedia_keep | split)

theorem State.retireSet_keep {s : State} (set : Nat) (bad : Nat) (h : Keep q p up s) :
    Keep q p up (State.retireSet s set bad) := by
  unfold State.retireSet
  repeat' (first | with_reducible assumption | with_reducible apply State.modMedia_keep
                 | with_reducible apply State.checkSpare_keep | (with_reducible refine fun _ => ?_)
                 | with_reducible apply keep_foldl | split)

theorem State.exchange_keep {s : State} (set : Nat) (chans : List Nat) (h : Keep q p up s) :
    Keep q p up (State.exchange s set chans) := by
  unfold State.exchange
  repeat' (first | with_reducible assumption
                 | with_reducible refine State.takeSpare_keep (by with_reducible assumption) ?_
                 | with_reducible apply State.modMedia_keep | with_reducible apply State.retireSet_keep
                 | (with_reducible refine fun _ => ?_) | with_reducible apply keep_foldl | split)

theorem State.startErase_keep {s : State} (set : Nat) (h : Keep q p up s) :
    Keep q p up (State.startErase s set) := by
  unfold State.startErase
  repeat' (first | with_reducible assumption | with_reducible apply State.exchange_keep
                 | with_reducible apply State.sweepProgs_keep | with_reducible apply State.modMedia_keep
                 | ((try lift_lets); intro s1; refine keep_cut (q := q) (p := p) (up := up) (s := s1) ?_ ?_; rotate_left; clear_value s1; intro _; rotate_left; subst s1)
                 | split)

theorem execStaleSetErase_keep (set : Nat) {s : State} (h : Keep q p up s) :
    Keep q p up (nextOr (execStaleSetErase set s) s) := by
  unfold execStaleSetErase
  dsimp -zeta only [nextOr]
  repeat' (first | with_reducible assumption | with_reducible apply State.startErase_keep | split)

theorem State.wipeSet_keep {s : State} (set : Nat) (h : Keep q p up s) :
    Keep q p up (State.wipeSet s set) := by
  unfold State.wipeSet
  repeat' (first | with_reducible assumption | with_reducible apply State.modMedia_keep)

theorem State.setErased_keep {s : State} (set : Nat) (h : Keep q p up s) :
    Keep q p up (State.setErased s set) := by
  unfold State.setErased
  repeat' (first | with_reducible assumption | with_reducible apply State.wipeSet_keep
                 | with_reducible apply State.checkExhaust_keep | with_reducible apply State.modMedia_keep)

theorem execFlashEraseComplete_keep (set : Nat) (failedChannels : List Nat) {s : State} (h : Keep q p up s) :
    Keep q p up (nextOr (execFlashEraseComplete set failedChannels s) s) := by
  unfold execFlashEraseComplete
  dsimp -zeta only [nextOr]
  repeat' (first | with_reducible assumption | with_reducible apply State.setErased_keep
                 | with_reducible apply State.sweepProgs_keep | with_reducible apply State.exchange_keep | split)

theorem execSampleRead_keep (die : Nat) (cellMode : Nat) (wlGroup : Nat) {s : State} (h : Keep q p up s) :
    Keep q p up (nextOr (execSampleRead die cellMode wlGroup s) s) := by
  unfold execSampleRead
  dsimp -zeta only [nextOr]
  repeat' (first | with_reducible assumption | with_reducible apply State.issueRead_keep
                 | ((try lift_lets); intro s1; subst s1) | split)

theorem execRateChangeComplete_keep (chan : Nat) (trained : Bool) {s : State} (h : Keep q p up s) :
    Keep q p up (nextOr (execRateChangeComplete chan trained s) s) := by
  unfold execRateChangeComplete
  dsimp -zeta only [nextOr]
  repeat' (first | with_reducible assumption | with_reducible apply State.modMedia_keep
                 | with_reducible apply State.sweepProgs_keep | with_reducible apply State.failChannel_keep
                 | with_reducible apply State.logFault_keep | ((try lift_lets); intro s1; subst s1) | split)

theorem State.mapSet_keep {s t : State} {x0 : Nat} (e : State.mapSet s = some (x0, t))
    (h : Keep q p up s) : Keep q p up t := by
  unfold State.mapSet at e
  have draw : ∀ {s : State}, Keep q p up s → (if s.mapSets ≤ s.media.mapUsed_ then none
      else Option.map (fun n => (n, s.modMedia fun m => m.openSet n .map .tlc .write)) (s.media.pickErased none false)) = some (x0, t) →
      Keep q p up t := by
    intro s h e
    split at e
    · cases e
    · simp only [Option.map_eq_some_iff, Prod.mk.injEq] at e
      obtain ⟨_, _, _, e⟩ := e
      exact e ▸ State.modMedia_keep _ h
  simp only [] at e
  split at e
  · split at e
    · cases e; exact h
    · exact draw (State.closeSet_keep _ h) e
  · exact draw h e

theorem State.writeMapUnit_keep {s t : State} {segment j x0 x1 : Nat} (e : State.writeMapUnit s segment j = some (x0, x1, t))
    (h : Keep q p up s) : Keep q p up t := by
  unfold State.writeMapUnit at e
  obtain ⟨⟨set, u⟩, e1, e⟩ := Option.map_eq_some_iff.1 e
  cases e
  exact State.landPages_keep _ _ (State.modMedia_keep _ (State.storeUnit_keep _ _ _ (State.laneKey_keep _ _ _
    (State.deviceUnit_keep2 8 segment (u.mapUnit segment j) (State.mapSet_keep e1 h)))))

theorem State.writeSegment_keep {s t : State} {segment : Nat} {x0} (e : State.writeSegment s segment = some (x0, t))
    (h : Keep q p up s) :
    Keep q p up t := by
  have fold : ∀ (l : List Nat) (o : Option (List (Nat × Nat) × State)), (∀ u, o = some u → Keep q p up u.2) →
      ∀ u, l.foldl (fun o j => o.bind fun (l, s) =>
        (State.writeMapUnit s segment j).map fun (set, off, t) => (l ++ [(set, off)], t)) o = some u → Keep q p up u.2 := by
    intro l
    induction l with
    | nil => exact fun o ho => ho
    | cons j l ih =>
      intro o ho
      refine ih _ fun u hu => ?_
      obtain ⟨⟨l', v⟩, ev, hv⟩ := Option.bind_eq_some_iff.1 hu
      obtain ⟨⟨set, off, w⟩, ew, hw⟩ := Option.map_eq_some_iff.1 hv
      cases hw
      exact State.writeMapUnit_keep ew (ho _ ev)
  exact fold _ _ (fun u hu => by cases hu; exact h) _ e

theorem State.segmentDone_keep {s : State} (segment : Nat) (at_ : List (Nat × Nat)) (h : Keep q p up s) :
    Keep q p up (State.segmentDone s segment at_) := by
  unfold State.segmentDone
  repeat' (first | with_reducible assumption | with_reducible apply State.modMedia_keep
                 | with_reducible apply State.settleAll_keep | with_reducible apply State.dropGranules_keep
                 | (with_reducible refine fun _ => ?_) | with_reducible apply keep_foldl)

theorem execMapSegmentRewrite_keep (segment : Nat) {s : State} (h : Keep q p up s) :
    Keep q p up (nextOr (execMapSegmentRewrite segment s) s) := by
  unfold execMapSegmentRewrite
  dsimp -zeta only [nextOr]
  repeat' (first | with_reducible assumption
                 | with_reducible refine State.writeSegment_keep (by with_reducible assumption) ?_
                 | with_reducible apply State.modMedia_keep | with_reducible apply State.keeperData_keep
                 | with_reducible apply State.segmentDone_keep | ((try lift_lets); intro s1; subst s1) | split)

theorem State.applyAct_keep {s : State} (x1 : KeyAct) (h : Keep q p up s) :
    Keep q p up (State.applyAct s x1) := by
  unfold State.applyAct
  repeat' (first | with_reducible assumption | with_reducible apply State.newMediaKey_keep
                 | with_reducible apply State.modNs_keep | with_reducible apply State.deleteNs_keep
                 | with_reducible apply State.freeAllIus_keep | with_reducible apply State.applyImport_keep
                 | with_reducible apply State.applyEmpty_keep | (with_reducible refine fun _ => ?_)
                 | with_reducible apply keep_foldl | ((try lift_lets); intro s1; subst s1)
                 | simp -zeta only [keep_mk] | with_reducible refine keep_like ?_ (by with_reducible rfl) | split)

theorem State.keyCommit_keep {s : State} (h : Keep q p up s) :
    Keep q p up (State.keyCommit s) := by
  unfold State.keyCommit
  repeat' (first | with_reducible assumption | with_reducible apply State.applyAct_keep
                 | with_reducible apply State.complete_keep | with_reducible apply State.checkNv_keep
                 | with_reducible apply State.checkReadOnly_keep | with_reducible apply State.wrapTable_keep
                 | with_reducible apply hf | (with_reducible refine fun _ => ?_) | with_reducible apply keep_foldl
                 | with_reducible apply keep_foldl_fst
                 | ((try lift_lets); intro s1; refine keep_cut (q := q) (p := p) (up := up) (s := s1) ?_ ?_; rotate_left; clear_value s1; intro _; rotate_left; subst s1)
                 | ((try lift_lets); intro s1; subst s1) | dsimp -zeta only | simp -zeta only [keep_mk]
                 | with_reducible refine keep_like ?_ (by with_reducible rfl)
                 | with_reducible refine keep_mix ?_ ?_ ?_ ?_ (by with_reducible rfl) (by with_reducible rfl) (by with_reducible rfl) (by with_reducible rfl)
                 | split | intro _ | dsimp only)

theorem execMediaKeyCommit_keep {s : State} (h : Keep q p up s) :
    Keep q p up (nextOr (execMediaKeyCommit s) s) := by
  unfold execMediaKeyCommit
  dsimp -zeta only [nextOr]
  repeat' (first | with_reducible assumption | with_reducible apply State.keyCommit_keep | with_reducible apply hf
                 | (with_reducible refine fun _ => ?_) | with_reducible apply keep_foldl
                 | with_reducible apply keep_foldl_fst
                 | ((try lift_lets); intro s1; refine keep_cut (q := q) (p := p) (up := up) (s := s1) ?_ ?_; rotate_left; clear_value s1; intro _; rotate_left; subst s1)
                 | ((try lift_lets); intro s1; subst s1) | dsimp -zeta only | simp -zeta only [keep_mk]
                 | with_reducible refine keep_like ?_ (by with_reducible rfl)
                 | with_reducible refine keep_mix ?_ ?_ ?_ ?_ (by with_reducible rfl) (by with_reducible rfl) (by with_reducible rfl) (by with_reducible rfl)
                 | split | intro _ | dsimp only)

theorem execSignatureComplete_keep {s : State} (h : Keep q p up s) :
    Keep q p up (nextOr (execSignatureComplete s) s) := by
  unfold execSignatureComplete
  dsimp -zeta only [nextOr]
  repeat' (first | with_reducible assumption | with_reducible apply State.keeperData_keep
                 | with_reducible apply State.succeed_keep | with_reducible apply State.moved_keep
                 | with_reducible apply State.sendTo_keep | with_reducible apply State.checkNv_keep
                 | with_reducible apply State.signerNext_keep | simp -zeta only [keep_mk]
                 | with_reducible refine keep_like ?_ (by with_reducible rfl) | split | dsimp only)

theorem execDramBtcfgWrite_keep (value : W32) {s : State} (h : Keep q p up s) :
    Keep q p up (nextOr (execDramBtcfgWrite value s) s) := by
  unfold execDramBtcfgWrite
  dsimp -zeta only [nextOr]
  repeat' (first | with_reducible assumption | ((try lift_lets); intro s1; subst s1) | simp -zeta only [keep_mk]
                 | with_reducible refine keep_like ?_ (by with_reducible rfl) | split)

theorem extFault_stands {s : State} {c : Nat} {a : W64} : ∀ {n : Nat} {e : Exc}, extFault s c a n = some e → e.stands = none
  | 0, _, h => by cases h
  | n + 1, e, h => by
    unfold extFault at h
    split at h
    · rename_i x hx
      cases h
      exact extFault_stands hx
    · exact fetchFault_stands h

theorem preCheck_stands {s : State} {c : Nat} {w : LongWord} {f : Form} {extra : Bool} {e : Exc} {v : W64}
    (h : preCheck s c w f extra = some (e, v)) : e.stands = none := by
  unfold preCheck at h
  simp only [] at h
  split at h
  · rename_i x hx
    cases h
    exact fetchFault_stands hx
  · split at h
    · cases h; rfl
    · split at h
      · cases h; rfl
      · simp only [Option.map_eq_some_iff, Prod.mk.injEq] at h
        obtain ⟨x, hx, rfl, _⟩ := h
        exact extFault_stands hx

theorem State.long_keep {s : State} (c : Nat) (w : LongWord) (f : Form) (extra : Bool) (body : CM Next)
    (hb : KeepM q p up body) (h : Keep q p up s) : Keep q p up (State.long s c w f extra body) := by
  unfold State.long
  have hr := hb s h
  split
  · exact h
  · split
    · rename_i e word he
      exact State.takeSync_keep _ _ _ _ (keepE_lit (preCheck_stands he)) h
    · split
      all_goals
        rename_i e
        rw [e] at hr
      · exact State.takeSync_keep _ _ _ _ hr h
      · exact State.finish_keep _ _ _ _ hr
      · exact State.finish_keep _ _ _ _ hr
      · exact hr

theorem putFlags_keep (c : Nat) (f : FlagSet) : KeepM q p up (putFlags c f) := fun _ h => State.modCtx_keep _ _ h

theorem putDest_keep (c : Nat) (align : Bool) (x : Specifier) (z : Nat) (mid : CM (Nat × FlagSet)) (hm : KeepM q p up mid) :
    KeepM q p up (putDest c align x z mid) :=
  KeepM.bind (locate_keep _ _ _ _) fun _ => KeepM.bind (checkDest_keep _ _ _ _) fun _ => KeepM.bind hm fun _ =>
    KeepM.bind (writeLoc_keep _ _ _ _ _) fun _ => KeepM.bind (putFlags_keep _ _) fun _ => KeepM.pure _

theorem alu2_keep (c : Nat) (w : LongWord) (u : Use) (f : Ctx → Nat → Nat → Nat × FlagSet) : KeepM q p up (alu2 c w u f) :=
  KeepM.bind (readSrc_keep _ _ _ _ _ _) fun _ => KeepM.bind (readSrc_keep _ _ _ _ _ _) fun _ =>
    putDest_keep _ _ _ _ _ (KeepM.read _)

theorem alu1_keep (c : Nat) (w : LongWord) (u : Use) (f : Nat → Nat × FlagSet) : KeepM q p up (alu1 c w u f) :=
  KeepM.bind (readSrc_keep _ _ _ _ _ _) fun _ => putDest_keep _ _ _ _ _ (KeepM.read _)

theorem divide_keep (c : Nat) (w : LongWord) (f : Nat → Nat → Nat × FlagSet) : KeepM q p up (divide c w f) := by
  refine KeepM.bind (readSrc_keep _ _ _ _ _ _) fun _ => KeepM.bind (readSrc_keep _ _ _ _ _ _) fun _ => putDest_keep _ _ _ _ _ ?_
  split
  · exact KeepM.raise rfl
  · exact KeepM.pure _

theorem execIMov_keep (c : Nat) (w : LongWord) {s : State} (h : Keep q p up s) :
    Keep q p up (nextOr (execIMov c w s) s) := by
  unfold execIMov
  dsimp -zeta only [nextOr]
  repeat' (first | with_reducible assumption | with_reducible apply State.long_keep | with_reducible apply alu1_keep)

theorem execIClr_keep (c : Nat) (w : LongWord) {s : State} (h : Keep q p up s) :
    Keep q p up (nextOr (execIClr c w s) s) := by
  unfold execIClr
  dsimp -zeta only [nextOr]
  repeat' (first | with_reducible assumption | with_reducible apply State.long_keep
                 | with_reducible apply putDest_keep | with_reducible apply KeepM.pure)

theorem addrOf_keep (c : Nat) (x : Specifier) (z : Nat) : KeepM q p up (addrOf c x z) := by
  refine KeepM.bind (locate_keep _ _ _ _) fun _ => ?_
  split
  · exact KeepM.pure _
  · exact KeepM.raise rfl

end Sys2Proof.Machine
end

