-- ==== Sys2Proof/Laws/Keep07.lean ====
section
/-! SUPPORT. What each function keeps, from `execILea` to `bitSrc`: one lemma per function, cited by the functions that
call it. -/

namespace Sys2Proof.Machine

variable {q : List Instr} {p up : Prop}

theorem execILea_keep (c : Nat) (w : LongWord) {s : State} (h : Keep q p up s) :
    Keep q p up (nextOr (execILea c w s) s) := by
  unfold execILea
  dsimp -zeta only [nextOr]
  repeat' (first | with_reducible assumption | with_reducible apply State.long_keep
                 | with_reducible apply addrOf_keep | with_reducible apply putDest_keep
                 | with_reducible refine KeepM.bind ?_ (fun _ => ?_) | with_reducible apply KeepM.pure)

theorem execISel_keep (c : Nat) (w : LongWord) {s : State} (h : Keep q p up s) :
    Keep q p up (nextOr (execISel c w s) s) := by
  unfold execISel
  dsimp -zeta only [nextOr]
  repeat' (first | with_reducible assumption | with_reducible apply State.long_keep | with_reducible apply alu2_keep)

theorem execIBswap_keep (c : Nat) (w : LongWord) {s : State} (h : Keep q p up s) :
    Keep q p up (nextOr (execIBswap c w s) s) := by
  unfold execIBswap
  dsimp -zeta only [nextOr]
  repeat' (first | with_reducible assumption | with_reducible apply State.long_keep | with_reducible apply alu1_keep)

theorem execISexb_keep (c : Nat) (w : LongWord) {s : State} (h : Keep q p up s) :
    Keep q p up (nextOr (execISexb c w s) s) := by
  unfold execISexb
  dsimp -zeta only [nextOr]
  repeat' (first | with_reducible assumption | with_reducible apply State.long_keep | with_reducible apply alu1_keep)

theorem execISexh_keep (c : Nat) (w : LongWord) {s : State} (h : Keep q p up s) :
    Keep q p up (nextOr (execISexh c w s) s) := by
  unfold execISexh
  dsimp -zeta only [nextOr]
  repeat' (first | with_reducible assumption | with_reducible apply State.long_keep | with_reducible apply alu1_keep)

theorem execISexw_keep (c : Nat) (w : LongWord) {s : State} (h : Keep q p up s) :
    Keep q p up (nextOr (execISexw c w s) s) := by
  unfold execISexw
  dsimp -zeta only [nextOr]
  repeat' (first | with_reducible assumption | with_reducible apply State.long_keep | with_reducible apply alu1_keep)

theorem execIZexb_keep (c : Nat) (w : LongWord) {s : State} (h : Keep q p up s) :
    Keep q p up (nextOr (execIZexb c w s) s) := by
  unfold execIZexb
  dsimp -zeta only [nextOr]
  repeat' (first | with_reducible assumption | with_reducible apply State.long_keep | with_reducible apply alu1_keep)

theorem execIZexh_keep (c : Nat) (w : LongWord) {s : State} (h : Keep q p up s) :
    Keep q p up (nextOr (execIZexh c w s) s) := by
  unfold execIZexh
  dsimp -zeta only [nextOr]
  repeat' (first | with_reducible assumption | with_reducible apply State.long_keep | with_reducible apply alu1_keep)

theorem execIZexw_keep (c : Nat) (w : LongWord) {s : State} (h : Keep q p up s) :
    Keep q p up (nextOr (execIZexw c w s) s) := by
  unfold execIZexw
  dsimp -zeta only [nextOr]
  repeat' (first | with_reducible assumption | with_reducible apply State.long_keep | with_reducible apply alu1_keep)

theorem execIAdd_keep (c : Nat) (w : LongWord) {s : State} (h : Keep q p up s) :
    Keep q p up (nextOr (execIAdd c w s) s) := by
  unfold execIAdd
  dsimp -zeta only [nextOr]
  repeat' (first | with_reducible assumption | with_reducible apply State.long_keep | with_reducible apply alu2_keep)

theorem execIAdc_keep (c : Nat) (w : LongWord) {s : State} (h : Keep q p up s) :
    Keep q p up (nextOr (execIAdc c w s) s) := by
  unfold execIAdc
  dsimp -zeta only [nextOr]
  repeat' (first | with_reducible assumption | with_reducible apply State.long_keep | with_reducible apply alu2_keep)

theorem execISub_keep (c : Nat) (w : LongWord) {s : State} (h : Keep q p up s) :
    Keep q p up (nextOr (execISub c w s) s) := by
  unfold execISub
  dsimp -zeta only [nextOr]
  repeat' (first | with_reducible assumption | with_reducible apply State.long_keep | with_reducible apply alu2_keep)

theorem execISbc_keep (c : Nat) (w : LongWord) {s : State} (h : Keep q p up s) :
    Keep q p up (nextOr (execISbc c w s) s) := by
  unfold execISbc
  dsimp -zeta only [nextOr]
  repeat' (first | with_reducible assumption | with_reducible apply State.long_keep | with_reducible apply alu2_keep)

theorem execINeg_keep (c : Nat) (w : LongWord) {s : State} (h : Keep q p up s) :
    Keep q p up (nextOr (execINeg c w s) s) := by
  unfold execINeg
  dsimp -zeta only [nextOr]
  repeat' (first | with_reducible assumption | with_reducible apply State.long_keep | with_reducible apply alu1_keep)

theorem execIMul_keep (c : Nat) (w : LongWord) {s : State} (h : Keep q p up s) :
    Keep q p up (nextOr (execIMul c w s) s) := by
  unfold execIMul
  dsimp -zeta only [nextOr]
  repeat' (first | with_reducible assumption | with_reducible apply State.long_keep | with_reducible apply alu2_keep)

theorem execIMulhu_keep (c : Nat) (w : LongWord) {s : State} (h : Keep q p up s) :
    Keep q p up (nextOr (execIMulhu c w s) s) := by
  unfold execIMulhu
  dsimp -zeta only [nextOr]
  repeat' (first | with_reducible assumption | with_reducible apply State.long_keep | with_reducible apply alu2_keep)

theorem execIMulhs_keep (c : Nat) (w : LongWord) {s : State} (h : Keep q p up s) :
    Keep q p up (nextOr (execIMulhs c w s) s) := by
  unfold execIMulhs
  dsimp -zeta only [nextOr]
  repeat' (first | with_reducible assumption | with_reducible apply State.long_keep | with_reducible apply alu2_keep)

theorem execIDivu_keep (c : Nat) (w : LongWord) {s : State} (h : Keep q p up s) :
    Keep q p up (nextOr (execIDivu c w s) s) := by
  unfold execIDivu
  dsimp -zeta only [nextOr]
  repeat' (first | with_reducible assumption | with_reducible apply State.long_keep | with_reducible apply divide_keep)

theorem execIDivs_keep (c : Nat) (w : LongWord) {s : State} (h : Keep q p up s) :
    Keep q p up (nextOr (execIDivs c w s) s) := by
  unfold execIDivs
  dsimp -zeta only [nextOr]
  repeat' (first | with_reducible assumption | with_reducible apply State.long_keep | with_reducible apply divide_keep)

theorem execIRemu_keep (c : Nat) (w : LongWord) {s : State} (h : Keep q p up s) :
    Keep q p up (nextOr (execIRemu c w s) s) := by
  unfold execIRemu
  dsimp -zeta only [nextOr]
  repeat' (first | with_reducible assumption | with_reducible apply State.long_keep | with_reducible apply divide_keep)

theorem execIRems_keep (c : Nat) (w : LongWord) {s : State} (h : Keep q p up s) :
    Keep q p up (nextOr (execIRems c w s) s) := by
  unfold execIRems
  dsimp -zeta only [nextOr]
  repeat' (first | with_reducible assumption | with_reducible apply State.long_keep | with_reducible apply divide_keep)

theorem execIMinu_keep (c : Nat) (w : LongWord) {s : State} (h : Keep q p up s) :
    Keep q p up (nextOr (execIMinu c w s) s) := by
  unfold execIMinu
  dsimp -zeta only [nextOr]
  repeat' (first | with_reducible assumption | with_reducible apply State.long_keep | with_reducible apply alu2_keep)

theorem execIMaxu_keep (c : Nat) (w : LongWord) {s : State} (h : Keep q p up s) :
    Keep q p up (nextOr (execIMaxu c w s) s) := by
  unfold execIMaxu
  dsimp -zeta only [nextOr]
  repeat' (first | with_reducible assumption | with_reducible apply State.long_keep | with_reducible apply alu2_keep)

theorem execIMins_keep (c : Nat) (w : LongWord) {s : State} (h : Keep q p up s) :
    Keep q p up (nextOr (execIMins c w s) s) := by
  unfold execIMins
  dsimp -zeta only [nextOr]
  repeat' (first | with_reducible assumption | with_reducible apply State.long_keep | with_reducible apply alu2_keep)

theorem execIMaxs_keep (c : Nat) (w : LongWord) {s : State} (h : Keep q p up s) :
    Keep q p up (nextOr (execIMaxs c w s) s) := by
  unfold execIMaxs
  dsimp -zeta only [nextOr]
  repeat' (first | with_reducible assumption | with_reducible apply State.long_keep | with_reducible apply alu2_keep)

theorem execIAnd_keep (c : Nat) (w : LongWord) {s : State} (h : Keep q p up s) :
    Keep q p up (nextOr (execIAnd c w s) s) := by
  unfold execIAnd
  dsimp -zeta only [nextOr]
  repeat' (first | with_reducible assumption | with_reducible apply State.long_keep | with_reducible apply alu2_keep)

theorem execIOr_keep (c : Nat) (w : LongWord) {s : State} (h : Keep q p up s) :
    Keep q p up (nextOr (execIOr c w s) s) := by
  unfold execIOr
  dsimp -zeta only [nextOr]
  repeat' (first | with_reducible assumption | with_reducible apply State.long_keep | with_reducible apply alu2_keep)

theorem execIXor_keep (c : Nat) (w : LongWord) {s : State} (h : Keep q p up s) :
    Keep q p up (nextOr (execIXor c w s) s) := by
  unfold execIXor
  dsimp -zeta only [nextOr]
  repeat' (first | with_reducible assumption | with_reducible apply State.long_keep | with_reducible apply alu2_keep)

theorem execIAndn_keep (c : Nat) (w : LongWord) {s : State} (h : Keep q p up s) :
    Keep q p up (nextOr (execIAndn c w s) s) := by
  unfold execIAndn
  dsimp -zeta only [nextOr]
  repeat' (first | with_reducible assumption | with_reducible apply State.long_keep | with_reducible apply alu2_keep)

theorem execINot_keep (c : Nat) (w : LongWord) {s : State} (h : Keep q p up s) :
    Keep q p up (nextOr (execINot c w s) s) := by
  unfold execINot
  dsimp -zeta only [nextOr]
  repeat' (first | with_reducible assumption | with_reducible apply State.long_keep | with_reducible apply alu1_keep)

theorem execIShl_keep (c : Nat) (w : LongWord) {s : State} (h : Keep q p up s) :
    Keep q p up (nextOr (execIShl c w s) s) := by
  unfold execIShl
  dsimp -zeta only [nextOr]
  repeat' (first | with_reducible assumption | with_reducible apply State.long_keep | with_reducible apply alu2_keep)

theorem execIShr_keep (c : Nat) (w : LongWord) {s : State} (h : Keep q p up s) :
    Keep q p up (nextOr (execIShr c w s) s) := by
  unfold execIShr
  dsimp -zeta only [nextOr]
  repeat' (first | with_reducible assumption | with_reducible apply State.long_keep | with_reducible apply alu2_keep)

theorem execISar_keep (c : Nat) (w : LongWord) {s : State} (h : Keep q p up s) :
    Keep q p up (nextOr (execISar c w s) s) := by
  unfold execISar
  dsimp -zeta only [nextOr]
  repeat' (first | with_reducible assumption | with_reducible apply State.long_keep | with_reducible apply alu2_keep)

theorem execIRol_keep (c : Nat) (w : LongWord) {s : State} (h : Keep q p up s) :
    Keep q p up (nextOr (execIRol c w s) s) := by
  unfold execIRol
  dsimp -zeta only [nextOr]
  repeat' (first | with_reducible assumption | with_reducible apply State.long_keep | with_reducible apply alu2_keep)

theorem execIRor_keep (c : Nat) (w : LongWord) {s : State} (h : Keep q p up s) :
    Keep q p up (nextOr (execIRor c w s) s) := by
  unfold execIRor
  dsimp -zeta only [nextOr]
  repeat' (first | with_reducible assumption | with_reducible apply State.long_keep | with_reducible apply alu2_keep)

theorem execIPopc_keep (c : Nat) (w : LongWord) {s : State} (h : Keep q p up s) :
    Keep q p up (nextOr (execIPopc c w s) s) := by
  unfold execIPopc
  dsimp -zeta only [nextOr]
  repeat' (first | with_reducible assumption | with_reducible apply State.long_keep | with_reducible apply alu1_keep)

theorem execIClz_keep (c : Nat) (w : LongWord) {s : State} (h : Keep q p up s) :
    Keep q p up (nextOr (execIClz c w s) s) := by
  unfold execIClz
  dsimp -zeta only [nextOr]
  repeat' (first | with_reducible assumption | with_reducible apply State.long_keep | with_reducible apply alu1_keep)

theorem execICtz_keep (c : Nat) (w : LongWord) {s : State} (h : Keep q p up s) :
    Keep q p up (nextOr (execICtz c w s) s) := by
  unfold execICtz
  dsimp -zeta only [nextOr]
  repeat' (first | with_reducible assumption | with_reducible apply State.long_keep | with_reducible apply alu1_keep)

theorem execICmp_keep (c : Nat) (w : LongWord) {s : State} (h : Keep q p up s) :
    Keep q p up (nextOr (execICmp c w s) s) := by
  unfold execICmp
  dsimp -zeta only [nextOr]
  repeat' (first | with_reducible assumption | with_reducible apply State.long_keep
                 | with_reducible apply readSrc_keep | with_reducible apply putFlags_keep
                 | with_reducible refine KeepM.bind ?_ (fun _ => ?_) | with_reducible apply KeepM.pure)

theorem execITst_keep (c : Nat) (w : LongWord) {s : State} (h : Keep q p up s) :
    Keep q p up (nextOr (execITst c w s) s) := by
  unfold execITst
  dsimp -zeta only [nextOr]
  repeat' (first | with_reducible assumption | with_reducible apply State.long_keep
                 | with_reducible apply readSrc_keep | with_reducible apply putFlags_keep
                 | with_reducible refine KeepM.bind ?_ (fun _ => ?_) | with_reducible apply KeepM.pure)

theorem execIBr_keep (c : Nat) (w : LongWord) {s : State} (h : Keep q p up s) :
    Keep q p up (nextOr (execIBr c w s) s) := by
  unfold execIBr
  dsimp -zeta only [nextOr]
  repeat' (first | with_reducible assumption | with_reducible apply State.long_keep
                 | with_reducible apply readTarget_keep | with_reducible refine KeepM.bind ?_ (fun _ => ?_)
                 | with_reducible apply KeepM.pure)

theorem execIBcc_keep (c : Nat) (cc : Cond) (w : LongWord) {s : State} (h : Keep q p up s) :
    Keep q p up (nextOr (execIBcc c cc w s) s) := by
  unfold execIBcc
  dsimp -zeta only [nextOr]
  repeat' (first | with_reducible assumption | with_reducible apply State.long_keep
                 | with_reducible apply readTarget_keep | with_reducible refine KeepM.bind ?_ (fun _ => ?_)
                 | with_reducible apply KeepM.read)

theorem execIDjnz_keep (c : Nat) (w : LongWord) {s : State} (h : Keep q p up s) :
    Keep q p up (nextOr (execIDjnz c w s) s) := by
  unfold execIDjnz
  dsimp -zeta only [nextOr]
  repeat' (first | with_reducible assumption | with_reducible apply State.long_keep
                 | with_reducible apply locate_keep | with_reducible apply readLoc_keep
                 | with_reducible apply readTarget_keep | with_reducible apply writeLoc_keep
                 | with_reducible refine KeepM.bind ?_ (fun _ => ?_) | with_reducible apply KeepM.pure)

theorem execICall_keep (c : Nat) (w : LongWord) {s : State} (h : Keep q p up s) :
    Keep q p up (nextOr (execICall c w s) s) := by
  unfold execICall
  dsimp -zeta only [nextOr]
  repeat' (first | with_reducible assumption | with_reducible apply State.long_keep
                 | with_reducible apply readTarget_keep | with_reducible apply State.modCtx_keep
                 | with_reducible refine KeepM.bind ?_ (fun _ => ?_) | with_reducible apply keepR_ok | intro _ _)

theorem execIRet_keep (c : Nat) (w : LongWord) {s : State} (h : Keep q p up s) :
    Keep q p up (nextOr (execIRet c w s) s) := by
  unfold execIRet
  dsimp -zeta only [nextOr]
  repeat' (first | with_reducible assumption | with_reducible apply State.long_keep | with_reducible apply KeepM.read)

/-- The elements of a string instruction keep. -/
def KeepS (q : List Instr) (p up : Prop) : StrOut → Prop
  | .done s _ => Keep q p up s
  | .more s => Keep q p up s
  | .fault e s => KeepE q p up e ∧ Keep q p up s

theorem strLoop_keep (c : Nat) (elem : CM Bool) (he : KeepM q p up elem) (n : Nat) :
    ∀ {s : State}, Keep q p up s → KeepS q p up (strLoop c elem n s) := by
  induction n with
  | zero =>
    intro s h
    unfold strLoop
    split <;> exact h
  | succ n ih =>
    intro s h
    unfold strLoop
    have hr := he s h
    simp only []
    split
    · exact h
    · split
      all_goals
        rename_i e
        rw [e] at hr
      · exact ⟨hr, h⟩
      · exact hr
      · exact ih hr

theorem State.modRegs_keep {s : State} (c : Nat) (f : Regs → Regs) (h : Keep q p up s) :
    Keep q p up (State.modRegs s c f) := by
  unfold State.modRegs
  repeat' (first | with_reducible assumption | with_reducible apply State.modCtx_keep)

theorem strStep_keep (c z : Nat) (src dst : Bool) : KeepM q p up (strStep c z src dst) := fun _ h => State.modRegs_keep _ _ h

theorem getRegs_keep (c : Nat) : KeepM q p up (getRegs c) := KeepM.read _

theorem setStop_keep (c : Nat) (v : BitVec 2) : KeepM q p up (setStop c v) := fun _ h => State.modRegs_keep _ _ h

theorem strBody_keep (c limit : Nat) (scan : Bool) (elem : CM Bool) (he : KeepM q p up elem) :
    KeepM q p up (strBody c limit scan elem) := by
  intro s h
  unfold strBody
  simp only []
  have hl := strLoop_keep c elem he (min limit (s.core c).ctx.regs.bc.toNat) h
  split
  all_goals
    rename_i e
    rw [e] at hl
  · split
    · exact State.modRegs_keep _ _ hl
    · exact hl
  · exact hl
  · exact fun t ht => (Option.some.inj ht) ▸ hl.2

theorem execIMovs_keep (c : Nat) (w : LongWord) (limit : Nat) {s : State} (h : Keep q p up s) :
    Keep q p up (nextOr (execIMovs c w limit s) s) := by
  unfold execIMovs
  dsimp -zeta only [nextOr]
  repeat' (first | with_reducible assumption | with_reducible apply State.long_keep
                 | with_reducible apply strBody_keep | with_reducible apply getRegs_keep
                 | with_reducible apply memRead_keep | with_reducible apply memWrite_keep
                 | with_reducible apply strStep_keep | with_reducible refine KeepM.bind ?_ (fun _ => ?_)
                 | with_reducible apply KeepM.pure)

theorem execICmps_keep (c : Nat) (w : LongWord) (limit : Nat) {s : State} (h : Keep q p up s) :
    Keep q p up (nextOr (execICmps c w limit s) s) := by
  unfold execICmps
  dsimp -zeta only [nextOr]
  repeat' (first | with_reducible assumption | with_reducible apply State.long_keep
                 | with_reducible apply strBody_keep | with_reducible apply getRegs_keep
                 | with_reducible apply memRead_keep | with_reducible apply putFlags_keep
                 | with_reducible apply strStep_keep | with_reducible apply setStop_keep
                 | with_reducible refine KeepM.bind ?_ (fun _ => ?_) | with_reducible apply KeepM.pure | split)

theorem execIScans_keep (c : Nat) (w : LongWord) (limit : Nat) {s : State} (h : Keep q p up s) :
    Keep q p up (nextOr (execIScans c w limit s) s) := by
  unfold execIScans
  dsimp -zeta only [nextOr]
  repeat' (first | with_reducible assumption | with_reducible apply State.long_keep
                 | with_reducible apply readSrc_keep | with_reducible apply strBody_keep
                 | with_reducible apply getRegs_keep | with_reducible apply memRead_keep
                 | with_reducible apply putFlags_keep | with_reducible apply strStep_keep
                 | with_reducible apply setStop_keep | with_reducible refine KeepM.bind ?_ (fun _ => ?_)
                 | with_reducible apply KeepM.pure | split)

theorem execIScansn_keep (c : Nat) (w : LongWord) (limit : Nat) {s : State} (h : Keep q p up s) :
    Keep q p up (nextOr (execIScansn c w limit s) s) := by
  unfold execIScansn
  dsimp -zeta only [nextOr]
  repeat' (first | with_reducible assumption | with_reducible apply State.long_keep
                 | with_reducible apply readSrc_keep | with_reducible apply strBody_keep
                 | with_reducible apply getRegs_keep | with_reducible apply memRead_keep
                 | with_reducible apply putFlags_keep | with_reducible apply strStep_keep
                 | with_reducible apply setStop_keep | with_reducible refine KeepM.bind ?_ (fun _ => ?_)
                 | with_reducible apply KeepM.pure | split)

theorem execIFills_keep (c : Nat) (w : LongWord) (limit : Nat) {s : State} (h : Keep q p up s) :
    Keep q p up (nextOr (execIFills c w limit s) s) := by
  unfold execIFills
  dsimp -zeta only [nextOr]
  repeat' (first | with_reducible assumption | with_reducible apply State.long_keep
                 | with_reducible apply readSrc_keep | with_reducible apply strBody_keep
                 | with_reducible apply getRegs_keep | with_reducible apply memWrite_keep
                 | with_reducible apply strStep_keep | with_reducible refine KeepM.bind ?_ (fun _ => ?_)
                 | with_reducible apply KeepM.pure)

theorem execIXlts_keep (c : Nat) (w : LongWord) (limit : Nat) {s : State} (h : Keep q p up s) :
    Keep q p up (nextOr (execIXlts c w limit s) s) := by
  unfold execIXlts
  dsimp -zeta only [nextOr]
  repeat' (first | with_reducible assumption | with_reducible apply State.long_keep
                 | with_reducible apply readSrc_keep | with_reducible apply strBody_keep
                 | with_reducible apply getRegs_keep | with_reducible apply memRead_keep
                 | with_reducible apply memWrite_keep | with_reducible apply strStep_keep
                 | with_reducible refine KeepM.bind ?_ (fun _ => ?_) | with_reducible apply KeepM.pure)

theorem execICrcs_keep (c : Nat) (w : LongWord) (limit : Nat) {s : State} (h : Keep q p up s) :
    Keep q p up (nextOr (execICrcs c w limit s) s) := by
  unfold execICrcs
  dsimp -zeta only [nextOr]
  repeat' (first | with_reducible assumption | with_reducible apply State.long_keep
                 | with_reducible apply strBody_keep | with_reducible apply getRegs_keep
                 | with_reducible apply memRead_keep | with_reducible apply strStep_keep
                 | with_reducible apply State.modRegs_keep | with_reducible refine KeepM.bind ?_ (fun _ => ?_)
                 | with_reducible apply keepR_ok | intro _ _)

theorem execIRpt_keep {s : State} (c : Nat) (w : LongWord) (next : W64) (h : Keep q p up s) :
    Keep q p up (nextOr (execIRpt c w next s) s) := by
  unfold execIRpt
  simp only [nextOr]
  refine State.long_keep _ _ _ _ _ (fun t ht => ?_) h
  have h1 : Keep q p up (if (t.core c).sup then t else t.modCore c fun x => { x with wdCount := 0 }) :=
    keep_ite ht (State.modCore_keep _ _ ht)
  split
  · rename_i hf
    exact keepE_lit (fetchFault_stands hf)
  · split
    · exact State.modCtx_keep _ _ h1
    · exact State.modCtx_keep _ _ h1

theorem bitSrc_keep (c : Nat) (x : Specifier) : KeepM q p up (bitSrc c x) := readSrc_keep _ _ _ _ _ _

end Sys2Proof.Machine
end

