-- ==== Sys2Proof/Laws/Keep08.lean ====
section
/-! SUPPORT. What each function keeps, from `getBit` to `execAsyncExceptionEntry`: one lemma per function, cited by the functions that
call it. -/

namespace Sys2Proof.Machine

variable {q : List Instr} {p up : Prop}

theorem getBit_keep (c b : Nat) : KeepM q p up (getBit c b) := KeepM.read _

theorem execIBset_keep (c : Nat) (w : LongWord) {s : State} (h : Keep q p up s) :
    Keep q p up (nextOr (execIBset c w s) s) := by
  unfold execIBset
  dsimp -zeta only [nextOr]
  repeat' (first | with_reducible assumption | with_reducible apply State.long_keep
                 | with_reducible apply bitSrc_keep | with_reducible apply writeBit_keep
                 | with_reducible refine KeepM.bind ?_ (fun _ => ?_) | with_reducible apply KeepM.pure)

theorem execIBclr_keep (c : Nat) (w : LongWord) {s : State} (h : Keep q p up s) :
    Keep q p up (nextOr (execIBclr c w s) s) := by
  unfold execIBclr
  dsimp -zeta only [nextOr]
  repeat' (first | with_reducible assumption | with_reducible apply State.long_keep
                 | with_reducible apply bitSrc_keep | with_reducible apply writeBit_keep
                 | with_reducible refine KeepM.bind ?_ (fun _ => ?_) | with_reducible apply KeepM.pure)

theorem execIBnot_keep (c : Nat) (w : LongWord) {s : State} (h : Keep q p up s) :
    Keep q p up (nextOr (execIBnot c w s) s) := by
  unfold execIBnot
  dsimp -zeta only [nextOr]
  repeat' (first | with_reducible assumption | with_reducible apply State.long_keep
                 | with_reducible apply bitSrc_keep | with_reducible apply getBit_keep
                 | with_reducible apply writeBit_keep | with_reducible refine KeepM.bind ?_ (fun _ => ?_)
                 | with_reducible apply KeepM.pure)

theorem execIBmov_keep (c : Nat) (w : LongWord) {s : State} (h : Keep q p up s) :
    Keep q p up (nextOr (execIBmov c w s) s) := by
  unfold execIBmov
  dsimp -zeta only [nextOr]
  repeat' (first | with_reducible assumption | with_reducible apply State.long_keep
                 | with_reducible apply bitSrc_keep | with_reducible apply getBit_keep
                 | with_reducible apply writeBit_keep | with_reducible refine KeepM.bind ?_ (fun _ => ?_)
                 | with_reducible apply KeepM.pure)

theorem execIBand_keep (c : Nat) (w : LongWord) {s : State} (h : Keep q p up s) :
    Keep q p up (nextOr (execIBand c w s) s) := by
  unfold execIBand
  dsimp -zeta only [nextOr]
  repeat' (first | with_reducible assumption | with_reducible apply State.long_keep
                 | with_reducible apply bitSrc_keep | with_reducible apply getBit_keep
                 | with_reducible apply writeBit_keep | with_reducible refine KeepM.bind ?_ (fun _ => ?_)
                 | with_reducible apply KeepM.pure)

theorem execIBor_keep (c : Nat) (w : LongWord) {s : State} (h : Keep q p up s) :
    Keep q p up (nextOr (execIBor c w s) s) := by
  unfold execIBor
  dsimp -zeta only [nextOr]
  repeat' (first | with_reducible assumption | with_reducible apply State.long_keep
                 | with_reducible apply bitSrc_keep | with_reducible apply getBit_keep
                 | with_reducible apply writeBit_keep | with_reducible refine KeepM.bind ?_ (fun _ => ?_)
                 | with_reducible apply KeepM.pure)

theorem execIBxor_keep (c : Nat) (w : LongWord) {s : State} (h : Keep q p up s) :
    Keep q p up (nextOr (execIBxor c w s) s) := by
  unfold execIBxor
  dsimp -zeta only [nextOr]
  repeat' (first | with_reducible assumption | with_reducible apply State.long_keep
                 | with_reducible apply bitSrc_keep | with_reducible apply getBit_keep
                 | with_reducible apply writeBit_keep | with_reducible refine KeepM.bind ?_ (fun _ => ?_)
                 | with_reducible apply KeepM.pure)

theorem execIBt_keep (c : Nat) (w : LongWord) {s : State} (h : Keep q p up s) :
    Keep q p up (nextOr (execIBt c w s) s) := by
  unfold execIBt
  dsimp -zeta only [nextOr]
  repeat' (first | with_reducible assumption | with_reducible apply State.long_keep
                 | with_reducible apply bitSrc_keep | with_reducible apply readTarget_keep
                 | with_reducible apply getBit_keep | with_reducible refine KeepM.bind ?_ (fun _ => ?_)
                 | with_reducible apply KeepM.pure)

theorem execIBf_keep (c : Nat) (w : LongWord) {s : State} (h : Keep q p up s) :
    Keep q p up (nextOr (execIBf c w s) s) := by
  unfold execIBf
  dsimp -zeta only [nextOr]
  repeat' (first | with_reducible assumption | with_reducible apply State.long_keep
                 | with_reducible apply bitSrc_keep | with_reducible apply readTarget_keep
                 | with_reducible apply getBit_keep | with_reducible refine KeepM.bind ?_ (fun _ => ?_)
                 | with_reducible apply KeepM.pure)

theorem execIBtclr_keep (c : Nat) (w : LongWord) {s : State} (h : Keep q p up s) :
    Keep q p up (nextOr (execIBtclr c w s) s) := by
  unfold execIBtclr
  dsimp -zeta only [nextOr]
  repeat' (first | with_reducible assumption | with_reducible apply State.long_keep
                 | with_reducible apply bitSrc_keep | with_reducible apply readTarget_keep
                 | with_reducible apply getBit_keep | with_reducible apply writeBit_keep
                 | with_reducible refine KeepM.bind ?_ (fun _ => ?_) | with_reducible apply KeepM.pure | split)

theorem execIBld_keep (c : Nat) (w : LongWord) {s : State} (h : Keep q p up s) :
    Keep q p up (nextOr (execIBld c w s) s) := by
  unfold execIBld
  dsimp -zeta only [nextOr]
  repeat' (first | with_reducible assumption | with_reducible apply State.long_keep
                 | with_reducible apply bitSrc_keep | with_reducible apply getBit_keep
                 | with_reducible apply putDest_keep | with_reducible refine KeepM.bind ?_ (fun _ => ?_)
                 | with_reducible apply KeepM.pure)

theorem execIBst_keep (c : Nat) (w : LongWord) {s : State} (h : Keep q p up s) :
    Keep q p up (nextOr (execIBst c w s) s) := by
  unfold execIBst
  dsimp -zeta only [nextOr]
  repeat' (first | with_reducible assumption | with_reducible apply State.long_keep
                 | with_reducible apply bitSrc_keep | with_reducible apply readSrc_keep
                 | with_reducible apply writeBit_keep | with_reducible refine KeepM.bind ?_ (fun _ => ?_)
                 | with_reducible apply KeepM.pure)

theorem portSrc_keep (c : Nat) (x : Specifier) : KeepM q p up (portSrc c x) := readSrc_keep _ _ _ _ _ _

theorem execIIn_keep (c : Nat) (w : LongWord) {s : State} (h : Keep q p up s) :
    Keep q p up (nextOr (execIIn c w s) s) := by
  unfold execIIn
  dsimp -zeta only [nextOr]
  repeat' (first | with_reducible assumption | with_reducible apply State.long_keep
                 | with_reducible apply portSrc_keep | with_reducible apply putDest_keep
                 | with_reducible refine KeepM.bind ?_ (fun _ => ?_) | with_reducible apply keepR_pure
                 | with_reducible refine KeepR.bindV (portCheck_keep _ _ _ _ _) (fun _ => ?_) | intro _ _)

theorem execIOut_keep (c : Nat) (w : LongWord) {s : State} (h : Keep q p up s) :
    Keep q p up (nextOr (execIOut c w s) s) := by
  unfold execIOut
  dsimp -zeta only [nextOr]
  repeat' (first | with_reducible assumption | with_reducible apply State.long_keep
                 | with_reducible apply portSrc_keep | with_reducible apply readSrc_keep
                 | with_reducible apply portOut_keep | with_reducible refine KeepM.bind ?_ (fun _ => ?_)
                 | with_reducible apply keepR_pure
                 | with_reducible refine KeepR.bindV (portCheck_keep _ _ _ _ _) (fun _ => ?_) | intro _ _)

theorem ioxBody_keep (c : Nat) (w : LongWord) {s0 : State} (h0 : Keep q p up s0) : KeepM q p up (ioxBody c w s0) := by
  refine KeepM.bind (portSrc_keep _ _) fun x => KeepM.bind (readSrc_keep _ _ _ _ _ _) fun _ =>
    KeepM.bind (locate_keep _ _ _ _) fun l => KeepM.bind (checkDest_keep _ _ _ _) fun _ => ?_
  intro s h
  refine KeepR.bindV (portCheck_keep _ _ _ _ _) fun r => ?_
  have hw := writeLoc_keep c true l w.z (portIox s c r).1 (portIox s c r).2 (portIox_keep c r h)
  simp only []
  split
  all_goals
    rename_i e
    rw [e] at hw
  · exact hw
  · exact fun t ht => (Option.some.inj ht) ▸ portIox_keep c r h0

theorem execIIox_keep (c : Nat) (w : LongWord) {s : State} (h : Keep q p up s) :
    Keep q p up (nextOr (execIIox c w s) s) := by
  unfold execIIox
  dsimp -zeta only [nextOr]
  repeat' (first | with_reducible assumption | with_reducible apply State.long_keep | with_reducible apply ioxBody_keep)

theorem specialSet_keep (c n : Nat) (v : W64) : KeepM q p up (specialSet c n v) := by
  intro s h
  unfold specialSet
  simp only []
  repeat' split
  all_goals first
    | exact State.modCtx_keep _ _ h
    | exact keepE_lit rfl
    | exact State.modCore_keep _ _ (State.modCtx_keep _ _ h)

theorem execIMfs_keep (c : Nat) (w : LongWord) {s : State} (h : Keep q p up s) :
    Keep q p up (nextOr (execIMfs c w s) s) := by
  unfold execIMfs
  dsimp -zeta only [nextOr]
  repeat' (first | with_reducible assumption | with_reducible apply State.long_keep
                 | with_reducible apply putDest_keep | with_reducible apply KeepM.read)

theorem execIMts_keep (c : Nat) (w : LongWord) {s : State} (h : Keep q p up s) :
    Keep q p up (nextOr (execIMts c w s) s) := by
  unfold execIMts
  dsimp -zeta only [nextOr]
  repeat' (first | with_reducible assumption | with_reducible apply State.long_keep
                 | with_reducible apply readSrc_keep | with_reducible apply specialSet_keep
                 | with_reducible refine KeepM.bind ?_ (fun _ => ?_))

theorem ocEntry_keep (c i : Nat) (wb inv : Bool) : KeepM q p up (ocEntry c i wb inv) := by
  intro s h
  unfold ocEntry
  simp only []
  repeat' split
  all_goals first
    | exact h
    | exact keepE_lit rfl
    | exact State.invalidate_keep _ _ (State.writeBack_keep _ _ h)
    | exact State.invalidate_keep _ _ h
    | exact State.writeBack_keep _ _ h

theorem ocLine_keep (c : Nat) (w : LongWord) (wb inv : Bool) : KeepM q p up (ocLine c w wb inv) := by
  refine KeepM.bind (addrOf_keep _ _ _) fun a => ?_
  intro s h
  simp only []
  split
  · rename_i i _ _
    split
    · have := ocEntry_keep (q := q) (p := p) (up := up) c i wb inv s h
      cases e : ocEntry c i wb inv s with
      | ok x => rw [e] at this; exact this
      | error x => rw [e] at this; exact this
    · exact h
  · exact h

theorem ocEach_keep (c : Nat) (wb inv : Bool) (l : List Nat) : KeepM q p up (ocEach c wb inv l) := by
  induction l with
  | nil => exact KeepM.pure _
  | cons i l ih => exact KeepM.bind (ocEntry_keep _ _ _ _) fun _ => ih

theorem execIOcwb_keep (c : Nat) (w : LongWord) {s : State} (h : Keep q p up s) :
    Keep q p up (nextOr (execIOcwb c w s) s) := by
  unfold execIOcwb
  dsimp -zeta only [nextOr]
  repeat' (first | with_reducible assumption | with_reducible apply State.long_keep | with_reducible apply ocLine_keep)

theorem execIOcinv_keep (c : Nat) (w : LongWord) {s : State} (h : Keep q p up s) :
    Keep q p up (nextOr (execIOcinv c w s) s) := by
  unfold execIOcinv
  dsimp -zeta only [nextOr]
  repeat' (first | with_reducible assumption | with_reducible apply State.long_keep | with_reducible apply ocLine_keep)

theorem execIOcwbi_keep (c : Nat) (w : LongWord) {s : State} (h : Keep q p up s) :
    Keep q p up (nextOr (execIOcwbi c w s) s) := by
  unfold execIOcwbi
  dsimp -zeta only [nextOr]
  repeat' (first | with_reducible assumption | with_reducible apply State.long_keep | with_reducible apply ocLine_keep)

theorem execIOcall_keep {s : State} (c : Nat) (w : LongWord)
    (h : Keep q p up s) : Keep q p up (nextOr (execIOcall c w s) s) :=
  State.long_keep _ _ _ _ _ (KeepM.bind (fun t ht => ocEach_keep _ _ _ _ t ht) fun _ => KeepM.pure _) h

theorem execIWaitb_keep {s : State} (c : Nat) (w : LongWord)
    (h : Keep q p up s) : Keep q p up (nextOr (execIWaitb c w s) s) := by
  unfold execIWaitb
  simp only [nextOr]
  refine State.long_keep _ _ _ _ _ (fun t ht => KeepR.bindR (bitSrc_keep _ _ t ht) fun b u hu => ?_) h
  first
    | exact keepR_pure (keep_ite hu h)
    | (split
       · exact hu
       · exact h)
    | (split
       · exact hu
       · exact ht)

theorem execITrap_keep (c : Nat) (w : LongWord) {s : State} (h : Keep q p up s) :
    Keep q p up (nextOr (execITrap c w s) s) := by
  unfold execITrap
  dsimp -zeta only [nextOr]
  repeat' (first | with_reducible assumption | with_reducible apply State.long_keep
                 | with_reducible apply readSrc_keep | with_reducible refine KeepM.bind ?_ (fun _ => ?_)
                 | with_reducible exact KeepM.raise rfl)

theorem execIBkpt_keep (c : Nat) (w : LongWord) {s : State} (h : Keep q p up s) :
    Keep q p up (nextOr (execIBkpt c w s) s) := by
  unfold execIBkpt
  dsimp -zeta only [nextOr]
  repeat' (first | with_reducible assumption | with_reducible apply State.long_keep
                 | with_reducible exact KeepM.raise rfl)

theorem execIIst_keep (c : Nat) (w : LongWord) {s : State} (h : Keep q p up s) :
    Keep q p up (nextOr (execIIst c w s) s) := by
  unfold execIIst
  dsimp -zeta only [nextOr]
  repeat' (first | with_reducible assumption | with_reducible apply State.long_keep
                 | with_reducible apply readSrc_keep | with_reducible apply State.setForge_keep
                 | with_reducible refine KeepM.bind ?_ (fun _ => ?_) | with_reducible apply keepR_ok
                 | with_reducible exact keepR_error (keepE_lit rfl) | split | intro _ _)

theorem execIRfe_keep (c : Nat) (w : LongWord) {s : State} (h : Keep q p up s) :
    Keep q p up (nextOr (execIRfe c w s) s) := by
  unfold execIRfe
  dsimp -zeta only [nextOr]
  repeat' (first | with_reducible assumption | with_reducible apply State.long_keep
                 | with_reducible apply State.rfe_keep | with_reducible apply keepR_ok | intro _ _)

theorem execIHalt_keep (c : Nat) (w : LongWord) {s : State} (h : Keep q p up s) :
    Keep q p up (nextOr (execIHalt c w s) s) := by
  unfold execIHalt
  dsimp -zeta only [nextOr]
  repeat' (first | with_reducible assumption | with_reducible apply State.long_keep
                 | with_reducible apply State.modCore_keep | with_reducible apply keepR_ok | intro _ _)

theorem execIWdr_keep (c : Nat) (w : LongWord) {s : State} (h : Keep q p up s) :
    Keep q p up (nextOr (execIWdr c w s) s) := by
  unfold execIWdr
  dsimp -zeta only [nextOr]
  repeat' (first | with_reducible assumption | with_reducible apply State.long_keep
                 | with_reducible apply State.modCore_keep | with_reducible apply keepR_ok | intro _ _)

theorem execIExtu_keep (c : Nat) (w : LongWord) {s : State} (h : Keep q p up s) :
    Keep q p up (nextOr (execIExtu c w s) s) := by
  unfold execIExtu
  dsimp -zeta only [nextOr]
  repeat' (first | with_reducible assumption | with_reducible apply State.long_keep
                 | with_reducible apply readSrc_keep | with_reducible apply putDest_keep
                 | with_reducible refine KeepM.bind ?_ (fun _ => ?_) | with_reducible apply KeepM.pure)

theorem execIExts_keep (c : Nat) (w : LongWord) {s : State} (h : Keep q p up s) :
    Keep q p up (nextOr (execIExts c w s) s) := by
  unfold execIExts
  dsimp -zeta only [nextOr]
  repeat' (first | with_reducible assumption | with_reducible apply State.long_keep
                 | with_reducible apply readSrc_keep | with_reducible apply putDest_keep
                 | with_reducible refine KeepM.bind ?_ (fun _ => ?_) | with_reducible apply KeepM.pure)

theorem execIIns_keep (c : Nat) (w : LongWord) {s : State} (h : Keep q p up s) :
    Keep q p up (nextOr (execIIns c w s) s) := by
  unfold execIIns
  dsimp -zeta only [nextOr]
  repeat' (first | with_reducible assumption | with_reducible apply State.long_keep
                 | with_reducible apply locate_keep | with_reducible apply readLoc_keep
                 | with_reducible apply readSrc_keep | with_reducible apply writeLoc_keep
                 | with_reducible refine KeepM.bind ?_ (fun _ => ?_) | with_reducible apply KeepM.pure)

theorem execILdbe_keep (c : Nat) (w : LongWord) {s : State} (h : Keep q p up s) :
    Keep q p up (nextOr (execILdbe c w s) s) := by
  unfold execILdbe
  dsimp -zeta only [nextOr]
  repeat' (first | with_reducible assumption | with_reducible apply State.long_keep
                 | with_reducible apply readSrc_keep | with_reducible apply putDest_keep
                 | with_reducible refine KeepM.bind ?_ (fun _ => ?_) | with_reducible apply KeepM.pure)

theorem execIStbe_keep (c : Nat) (w : LongWord) {s : State} (h : Keep q p up s) :
    Keep q p up (nextOr (execIStbe c w s) s) := by
  unfold execIStbe
  dsimp -zeta only [nextOr]
  repeat' (first | with_reducible assumption | with_reducible apply State.long_keep
                 | with_reducible apply readSrc_keep | with_reducible apply putDest_keep
                 | with_reducible refine KeepM.bind ?_ (fun _ => ?_) | with_reducible apply KeepM.pure)

theorem varintLoop_keep (c : Nat) (a : W64) (n : Nat) : ∀ v k : Nat, KeepM q p up (varintLoop c a n v k) := by
  induction n with
  | zero => exact fun _ _ => KeepM.pure _
  | succ n ih =>
    intro v k
    unfold varintLoop
    refine KeepM.bind (memRead_keep _ _ _ _ _) fun bs => ?_
    simp only []
    split
    · exact KeepM.pure _
    · exact ih _ _

theorem varint_keep (c : Nat) (w : LongWord) (signed : Bool) : KeepM q p up (varint c w signed) := by
  refine KeepM.bind (KeepM.read _) fun a => KeepM.bind (varintLoop_keep _ _ _ _ _) fun r => ?_
  have bad : KeepM q p up (fun s => .ok (Next.seq, s.modCtx c fun x => { x with v := true }) : CM Next) :=
    fun s h => State.modCtx_keep _ _ h
  split
  · exact bad
  · split
    · exact bad
    · exact KeepM.bind (locate_keep _ _ _ _) fun l => KeepM.bind (writeLoc_keep _ _ _ _ _) fun _ s h =>
        State.modCtx_keep _ _ (State.setRega_keep _ _ _ h)

theorem execIVdec_keep (c : Nat) (w : LongWord) {s : State} (h : Keep q p up s) :
    Keep q p up (nextOr (execIVdec c w s) s) := by
  unfold execIVdec
  dsimp -zeta only [nextOr]
  repeat' (first | with_reducible assumption | with_reducible apply State.long_keep | with_reducible apply varint_keep)

theorem execIVdecz_keep (c : Nat) (w : LongWord) {s : State} (h : Keep q p up s) :
    Keep q p up (nextOr (execIVdecz c w s) s) := by
  unfold execIVdecz
  dsimp -zeta only [nextOr]
  repeat' (first | with_reducible assumption | with_reducible apply State.long_keep | with_reducible apply varint_keep)

theorem readBounds_keep (c : Nat) (x : Specifier) (z : Nat) : KeepM q p up (readBounds c x z) := by
  refine KeepM.bind (locate_keep _ _ _ _) fun l => ?_
  split
  · exact KeepM.bind (memRead_keep _ _ _ _ _) fun _ => KeepM.bind (memRead_keep _ _ _ _ _) fun _ => KeepM.pure _
  · exact KeepM.bind (iRead_keep _ _ _) fun _ => KeepM.bind (iRead_keep _ _ _) fun _ => KeepM.pure _
  · exact KeepM.raise rfl

theorem execIRngu_keep (c : Nat) (w : LongWord) {s : State} (h : Keep q p up s) :
    Keep q p up (nextOr (execIRngu c w s) s) := by
  unfold execIRngu
  dsimp -zeta only [nextOr]
  repeat' (first | with_reducible assumption | with_reducible apply State.long_keep
                 | with_reducible apply readSrc_keep | with_reducible apply readBounds_keep
                 | with_reducible apply putFlags_keep | with_reducible refine KeepM.bind ?_ (fun _ => ?_)
                 | with_reducible apply KeepM.pure)

theorem execIRngs_keep (c : Nat) (w : LongWord) {s : State} (h : Keep q p up s) :
    Keep q p up (nextOr (execIRngs c w s) s) := by
  unfold execIRngs
  dsimp -zeta only [nextOr]
  repeat' (first | with_reducible assumption | with_reducible apply State.long_keep
                 | with_reducible apply readSrc_keep | with_reducible apply readBounds_keep
                 | with_reducible apply putFlags_keep | with_reducible refine KeepM.bind ?_ (fun _ => ?_)
                 | with_reducible apply KeepM.pure)

theorem execIHstep_keep (c : Nat) (w : LongWord) {s : State} (h : Keep q p up s) :
    Keep q p up (nextOr (execIHstep c w s) s) := by
  unfold execIHstep
  dsimp -zeta only [nextOr]
  repeat' (first | with_reducible assumption | with_reducible apply State.long_keep
                 | with_reducible apply locate_keep | with_reducible apply readLoc_keep
                 | with_reducible apply readSrc_keep | with_reducible apply writeLoc_keep
                 | with_reducible refine KeepM.bind ?_ (fun _ => ?_) | with_reducible apply KeepM.pure)

theorem stepReg_keep {s : State} (c : Nat) (p0 : ShortOperand) (u : SUse) (h : Keep q p up s) :
    Keep q p up (stepReg s c p0 u) := by
  unfold stepReg
  repeat' (first | with_reducible assumption | with_reducible apply State.setRega_keep | split)

theorem sopSteps_keep {s : State} (c : Nat) (o : SOp) (h : Keep q p up s) :
    Keep q p up (sopSteps s c o) := by
  unfold sopSteps
  repeat' (first | with_reducible assumption | with_reducible apply stepReg_keep | split)

theorem inSlot_keep {α : Type} (b : Bool) (m : CM α) (hm : KeepM q p up m) : KeepM q p up (inSlot b m) := by
  intro s h
  have := hm s h
  unfold inSlot
  split
  all_goals
    rename_i e
    rw [e] at this
    exact this

theorem sopRead_keep (c : Nat) (o : SOp) : KeepM q p up (sopRead c o) := by
  unfold sopRead
  dsimp only
  repeat' first
    | with_reducible refine KeepM.bind ?_ (fun _ => ?_)
    | with_reducible exact KeepM.pure _
    | with_reducible exact readLoc_keep _ _ _ _ _
    | with_reducible exact checkDest_keep _ _ _ _
    | with_reducible exact KeepM.read _
    | split

theorem KeepV.bindV {α β : Type} {m : Except Exc α} {f : α → Except Exc β}
    (h : KeepV q p up m) (hf : ∀ a, KeepV q p up (f a)) :
    KeepV q p up (m >>= f) := by
  cases m with
  | ok x => exact hf _
  | error e => exact h

theorem sopCheck_keep (s : State) (c : Nat) (r : SRes) : KeepV q p up (sopCheck s c r) := by
  unfold sopCheck
  dsimp only
  repeat' first
    | with_reducible refine KeepV.bindV ?_ (fun _ => ?_)
    | exact portCheck_keep _ _ _ _ _
    | exact keepE_lit rfl
    | trivial
    | split

theorem sopPort_keep {s : State} (c : Nat) (r : SRes) (h : Keep q p up s) : Keep q p up (sopPort s c r).2 := by
  unfold sopPort
  repeat' split
  all_goals first | exact h | exact portOut_keep _ _ _ h

theorem sopWrite_keep (c : Nat) (o : SOp) (r : SRes) (v : Option Nat) : KeepM q p up (sopWrite c o r v) := by
  unfold sopWrite
  dsimp only
  refine KeepM.bind (fun s h => keepR_ok (sopSteps_keep _ _ h)) fun _ => ?_
  repeat' first
    | with_reducible refine KeepM.bind ?_ (fun _ => ?_)
    | with_reducible exact writeLoc_keep _ _ _ _ _
    | exact fun s h => keepR_ok (State.modCtx_keep _ _ h)
    | split

theorem pairBody_keep (c : Nat) (a b : ShortOp) : KeepM q p up (pairBody c a b) := by
  intro s h
  unfold pairBody
  extract_lets oa ob nm k bv
  split
  · exact keepE_lit rfl
  refine KeepR.bindR (inSlot_keep _ _ (sopRead_keep _ _) s h) fun x t ht => ?_
  refine KeepR.bindR (inSlot_keep _ _ (sopRead_keep _ _) t ht) fun y u hu => ?_
  dsimp -zeta only
  extract_lets ra rb ports stand
  split
  · exact keepE_lit rfl
  have chk (b : Bool) (r : SRes) : KeepR q p up (inSlot b (fun s => Except.map (fun u => (u, s)) (sopCheck s c r)) u) := by
    refine inSlot_keep b _ (fun s hs => ?_) u hu
    have := sopCheck_keep (q := q) (p := p) (up := up) s c r
    cases e : sopCheck s c r with
    | ok x => exact hs
    | error x => rw [e] at this; exact this
  refine KeepR.bindR (chk _ _) fun _ _ _ => KeepR.bindR (chk _ _) fun _ _ _ => ?_
  have h2 := sopPort_keep c rb (sopPort_keep c ra hu)
  have hp : Keep q p up ports := sopPort_keep c rb (sopPort_keep c ra h)
  clear_value ports
  have hst (α : Type) (m : CM α) (hm : KeepM q p up m) : KeepM q p up (stand m) := by
    intro s hs
    have := hm s hs
    show KeepR q p up (match m s with
      | .error e => .error { e with stands := if (ra.port.isSome || rb.port.isSome) = true then some ports else none }
      | .ok r => .ok r)
    split
    all_goals
      rename_i e
      rw [e] at this
    · intro t ht
      by_cases hc : (ra.port.isSome || rb.port.isSome) = true
      · simp only [hc, if_true, Option.some.injEq] at ht
        exact ht ▸ hp
      · simp only [hc, if_false, Bool.false_eq_true] at ht
        cases ht
    · exact this
  clear_value stand
  exact KeepR.bindR (hst _ _ (inSlot_keep _ _ (sopWrite_keep _ _ _ _)) _ h2) fun _ v hv =>
    KeepR.bindR (hst _ _ (inSlot_keep _ _ (sopWrite_keep _ _ _ _)) v hv) fun _ w hw => hw

theorem execIPair_keep {s : State} (c : Nat) (a b : ShortOp) (bit0 : Bool) (h : Keep q p up s) :
    Keep q p up (nextOr (execIPair c a b bit0 s) s) := by
  unfold execIPair
  simp only [nextOr]
  have hb := pairBody_keep (q := q) (p := p) (up := up) c a b s h
  split
  · exact h
  · split
    · rename_i e he
      exact State.takeSync_keep _ _ _ _ (keepE_lit (fetchFault_stands he)) h
    · repeat' split
      all_goals first
        | exact State.takeSync_keep _ _ _ _ (keepE_lit (e := { num := excIllegal }) rfl) h
        | exact State.takeSync_keep _ _ _ _ (keepE_lit (e := { num := excIllegal, slot := true }) rfl) h
        | (rename_i e
           rw [e] at hb
           first
             | exact State.takeSync_keep _ _ _ _ hb h
             | exact State.finish_keep _ _ _ _ hb)

theorem execCoreReset_keep (c : Nat) {s : State} (h : Keep q p up s) :
    Keep q p up (nextOr (execCoreReset c s) s) := by
  unfold execCoreReset
  dsimp -zeta only [nextOr]
  repeat' (first | with_reducible assumption | with_reducible apply State.modCore_keep | split)

theorem execWatchdogExpiry_keep (c : Nat) {s : State} (h : Keep q p up s) :
    Keep q p up (nextOr (execWatchdogExpiry c s) s) := by
  unfold execWatchdogExpiry
  dsimp -zeta only [nextOr]
  repeat' (first | with_reducible assumption | with_reducible apply State.modCore_keep
                 | with_reducible apply State.billetFault_keep | with_reducible apply State.enterExc_keep
                 | ((try lift_lets); intro s1; subst s1) | split)

theorem execAsyncExceptionEntry_keep (c : Nat) (exc : AsyncExc) {s : State} (h : Keep q p up s) :
    Keep q p up (nextOr (execAsyncExceptionEntry c exc s) s) := by
  unfold execAsyncExceptionEntry
  dsimp -zeta only [nextOr]
  repeat' (first | with_reducible assumption | with_reducible apply State.enterExc_keep
                 | with_reducible apply State.modCore_keep | with_reducible apply State.billetFault_keep
                 | with_reducible apply State.rfe_keep | ((try lift_lets); intro s1; subst s1) | split)

end Sys2Proof.Machine
end

