-- ==== Sys2Proof/Laws/Keep09.lean ====
section
/-! SUPPORT. What each function keeps, from `execIllegalOpcode` to `execScan`: one lemma per function, cited by the functions that
call it. -/

namespace Sys2Proof.Machine

variable {q : List Instr} {p up : Prop}

theorem execIllegalOpcode_keep (c : Nat) (word : W64) {s : State} (h : Keep q p up s) :
    Keep q p up (nextOr (execIllegalOpcode c word s) s) := by
  unfold execIllegalOpcode
  dsimp -zeta only [nextOr]
  repeat' (first | with_reducible assumption | with_reducible exact keepE_lit rfl
                 | with_reducible exact keepE_lit (fetchFault_stands (by assumption))
                 | with_reducible apply State.takeSync_keep | split)

theorem execOcEnWrite_keep (c : Nat) (value : W32) {s : State} (h : Keep q p up s) :
    Keep q p up (nextOr (execOcEnWrite c value s) s) := by
  unfold execOcEnWrite
  dsimp -zeta only [nextOr]
  repeat' (first | with_reducible assumption | with_reducible apply State.ocEn_keep | split)

theorem execOcDrainComplete_keep (c : Nat) (lost : List Nat) {s : State} (h : Keep q p up s) :
    Keep q p up (nextOr (execOcDrainComplete c lost s) s) := by
  unfold execOcDrainComplete
  dsimp -zeta only [nextOr]
  repeat' (first | with_reducible assumption | with_reducible apply State.modOc_keep
                 | with_reducible apply State.writeBack_keep | (with_reducible refine fun _ => ?_)
                 | with_reducible apply keep_foldl | split)

theorem execOcmMaskWrite_keep (c : Nat) (port : Nat) (value : W64) {s : State} (h : Keep q p up s) :
    Keep q p up (nextOr (execOcmMaskWrite c port value s) s) := by
  unfold execOcmMaskWrite
  dsimp -zeta only [nextOr]
  repeat' (first | with_reducible assumption | with_reducible apply State.ocMask_keep | split)

theorem execOcAging_keep (c : Nat) {s : State} (h : Keep q p up s) :
    Keep q p up (nextOr (execOcAging c s) s) := by
  unfold execOcAging
  dsimp -zeta only [nextOr]
  repeat' (first | with_reducible assumption | with_reducible apply State.modOc_keep | split)

theorem State.dropWork_keep {s : State} (q0 : Src) (cid : W16) (h : Keep q p up s) :
    Keep q p up (State.dropWork s q0 cid) := by
  unfold State.dropWork
  repeat' (first | with_reducible assumption | with_reducible apply State.modMedia_keep | simp -zeta only [keep_mk]
                 | with_reducible refine keep_like ?_ (by with_reducible rfl))

theorem State.setCfs_keep {s : State} (i : Nat) (h : Keep q p up s) :
    Keep q p up (State.setCfs s i) := by
  unfold State.setCfs
  repeat' (first | with_reducible assumption | with_reducible apply State.modCtrl_keep)

theorem State.poisoned_keep {s : State} (who : HostReader) (h : Keep q p up s) :
    Keep q p up (State.poisoned s who) := by
  unfold State.poisoned
  repeat' (first | with_reducible assumption | with_reducible apply State.logError_keep
                 | with_reducible apply State.setCfs_keep | with_reducible apply State.fail_keep
                 | with_reducible apply State.dropWork_keep | with_reducible apply State.modCore_keep
                 | with_reducible apply State.dispatchJobs_keep | with_reducible apply State.endJob_keep | split)

theorem State.coreFault_keep {s : State} (c : Nat) (cause : Nat) (h : Keep q p up s) :
    Keep q p up (State.coreFault s c cause) := by
  unfold State.coreFault
  repeat' (first | with_reducible assumption | with_reducible apply State.modOc_keep
                 | with_reducible apply State.endRun_keep | with_reducible apply State.modCore_keep
                 | with_reducible apply State.logFault_keep | with_reducible apply State.requestRepl_keep
                 | ((try lift_lets); intro s1; subst s1) | simp -zeta only [keep_mk]
                 | with_reducible refine keep_like ?_ (by with_reducible rfl) | split)

theorem execIaberCoreFault_keep (c : Nat) (cause : CoreFaultCause) {s : State} (h : Keep q p up s) :
    Keep q p up (nextOr (execIaberCoreFault c cause s) s) := by
  unfold execIaberCoreFault
  dsimp -zeta only [nextOr]
  repeat' (first | with_reducible assumption | with_reducible apply State.coreFault_keep)

theorem State.keeperFail_keep {s : State} (pair : Nat) (h : Keep q p up s) :
    Keep q p up (State.keeperFail s pair) := by
  unfold State.keeperFail
  repeat' (first | with_reducible assumption | with_reducible apply State.enterFault_keep
                 | with_reducible apply State.logFault_keep | with_reducible apply State.requestRepl_keep
                 | (with_reducible refine fun _ => ?_) | with_reducible apply keep_foldl
                 | ((try lift_lets); intro s1; subst s1) | simp -zeta only [keep_mk]
                 | with_reducible refine keep_like ?_ (by with_reducible rfl) | split)

theorem execLockstepMismatch_keep (pair : Nat) (_commitDiffers : Bool) {s : State} (h : Keep q p up s) :
    Keep q p up (nextOr (execLockstepMismatch pair _commitDiffers s) s) := by
  unfold execLockstepMismatch
  dsimp -zeta only [nextOr]
  repeat' (first | with_reducible assumption | with_reducible apply State.keeperFail_keep)

theorem execKeeperHeartbeatTimeout_keep (pair : Nat) {s : State} (h : Keep q p up s) :
    Keep q p up (nextOr (execKeeperHeartbeatTimeout pair s) s) := by
  unfold execKeeperHeartbeatTimeout
  dsimp -zeta only [nextOr]
  repeat' (first | with_reducible assumption | with_reducible apply State.keeperFail_keep)

theorem State.modLink_keep {s : State} (l : Nat) (f : Link → Link) (h : Keep q p up s) :
    Keep q p up (State.modLink s l f) := by
  unfold State.modLink
  repeat' (first | with_reducible assumption | simp -zeta only [keep_mk]
                 | with_reducible refine keep_like ?_ (by with_reducible rfl))

theorem State.modLane_keep {s : State} (l : Nat) (back : Bool) (f : Lane → Lane) (h : Keep q p up s) :
    Keep q p up (State.modLane s l back f) := by
  unfold State.modLane
  repeat' (first | with_reducible assumption | with_reducible apply State.modLink_keep)

theorem State.blocksLost_keep {s : State} (a : Nat) (h : Keep q p up s) :
    Keep q p up (State.blocksLost s a) := by
  unfold State.blocksLost
  repeat' (first | with_reducible assumption | with_reducible apply State.coreFault_keep
                 | with_reducible apply State.sweepProgs_keep | with_reducible apply State.failChannel_keep
                 | with_reducible apply State.retireUnit_keep | with_reducible apply State.enterFault_keep
                 | (with_reducible refine fun _ => ?_) | with_reducible apply keep_foldl | split)

theorem State.lostStop_keep {s : State} (a : Nat) (h : Keep q p up s) :
    Keep q p up (State.lostStop s a) := by
  unfold State.lostStop
  repeat' (first | with_reducible assumption | with_reducible apply State.blocksLost_keep
                 | simp -zeta only [keep_mk] | with_reducible refine keep_like ?_ (by with_reducible rfl))

theorem State.resendFlit_keep {s : State} (a : Nat) (f : Flit) (h : Keep q p up s) :
    Keep q p up (State.resendFlit s a f) := by
  unfold State.resendFlit
  repeat' (first | with_reducible assumption | with_reducible apply State.modLane_keep | split)

theorem State.failLink_keep {s : State} (l : Nat) (cause : Nat) (h : Keep q p up s) :
    Keep q p up (State.failLink s l cause) := by
  unfold State.failLink
  repeat' (first | with_reducible assumption | with_reducible apply State.modLink_keep
                 | with_reducible apply State.logFault_keep | with_reducible apply State.requestRepl_keep
                 | with_reducible apply State.resendFlit_keep | with_reducible apply State.lostStop_keep
                 | (with_reducible refine fun _ => ?_) | with_reducible apply keep_foldl
                 | ((try lift_lets); intro s1; subst s1) | split)

theorem State.takeFlit_keep {s : State} (f : Flit) (h : Keep q p up s) :
    Keep q p up (State.takeFlit s f) := by
  unfold State.takeFlit
  repeat' (first | with_reducible assumption | with_reducible apply State.logFault_keep
                 | with_reducible apply State.poisoned_keep | ((try lift_lets); intro s1; subst s1)
                 | simp -zeta only [keep_mk] | with_reducible refine keep_like ?_ (by with_reducible rfl) | split)

theorem State.takeEarly_keep (stream n : Nat) : ∀ {s : State}, Keep q p up s → Keep q p up (State.takeEarly s stream n) := by
  induction n with
  | zero => exact fun h => h
  | succ n ih =>
    intro s h
    unfold State.takeEarly
    split
    · exact h
    · exact ih (State.takeFlit_keep _ ((keep_mk ..).2 (keep_like h rfl)))

theorem State.arriveFlit_keep {s : State} (f : Flit) (h : Keep q p up s) :
    Keep q p up (State.arriveFlit s f) := by
  unfold State.arriveFlit
  repeat' (first | with_reducible assumption | with_reducible apply State.takeEarly_keep
                 | ((try lift_lets); intro s1; subst s1) | simp -zeta only [keep_mk]
                 | with_reducible refine keep_like ?_ (by with_reducible rfl) | split)

theorem State.grantFlit_keep {s : State} (l : Nat) (back : Bool) (f : Flit) (h : Keep q p up s) :
    Keep q p up (State.grantFlit s l back f) := by
  unfold State.grantFlit
  repeat' (first | with_reducible assumption | with_reducible apply State.modLane_keep
                 | with_reducible apply State.arriveFlit_keep | ((try lift_lets); intro s1; subst s1) | split)

theorem execDeckFlitReceive_keep (way : Way) (f : Flit) (crcOk : Bool) (grant : Bool) {s : State} (h : Keep q p up s) :
    Keep q p up (nextOr (execDeckFlitReceive way f crcOk grant s) s) := by
  unfold execDeckFlitReceive
  dsimp -zeta only [nextOr]
  repeat' (first | with_reducible assumption | with_reducible apply State.modLane_keep
                 | with_reducible apply State.failLink_keep | with_reducible apply State.grantFlit_keep
                 | with_reducible apply hf | (with_reducible refine fun _ => ?_) | with_reducible apply keep_foldl
                 | with_reducible apply keep_foldl_fst
                 | ((try lift_lets); intro s1; refine keep_cut (q := q) (p := p) (up := up) (s := s1) ?_ ?_; rotate_left; clear_value s1; intro _; rotate_left; subst s1)
                 | ((try lift_lets); intro s1; subst s1) | dsimp -zeta only | simp -zeta only [keep_mk]
                 | with_reducible refine keep_like ?_ (by with_reducible rfl)
                 | with_reducible refine keep_mix ?_ ?_ ?_ ?_ (by with_reducible rfl) (by with_reducible rfl) (by with_reducible rfl) (by with_reducible rfl)
                 | split | intro _ | dsimp only)

theorem execDeckAck_keep (way : Way) (count : Nat) {s : State} (h : Keep q p up s) :
    Keep q p up (nextOr (execDeckAck way count s) s) := by
  unfold execDeckAck
  dsimp -zeta only [nextOr]
  repeat' (first | with_reducible assumption | with_reducible apply State.modLane_keep | with_reducible apply hf
                 | (with_reducible refine fun _ => ?_) | with_reducible apply keep_foldl
                 | with_reducible apply keep_foldl_fst
                 | ((try lift_lets); intro s1; refine keep_cut (q := q) (p := p) (up := up) (s := s1) ?_ ?_; rotate_left; clear_value s1; intro _; rotate_left; subst s1)
                 | ((try lift_lets); intro s1; subst s1) | dsimp -zeta only | simp -zeta only [keep_mk]
                 | with_reducible refine keep_like ?_ (by with_reducible rfl)
                 | with_reducible refine keep_mix ?_ ?_ ?_ ?_ (by with_reducible rfl) (by with_reducible rfl) (by with_reducible rfl) (by with_reducible rfl)
                 | split | intro _ | dsimp only)

theorem execDeckAckTimeout_keep (way : Way) {s : State} (h : Keep q p up s) :
    Keep q p up (nextOr (execDeckAckTimeout way s) s) := by
  unfold execDeckAckTimeout
  dsimp -zeta only [nextOr]
  repeat' (first | with_reducible assumption | with_reducible apply State.failLink_keep | with_reducible apply hf
                 | (with_reducible refine fun _ => ?_) | with_reducible apply keep_foldl
                 | with_reducible apply keep_foldl_fst
                 | ((try lift_lets); intro s1; refine keep_cut (q := q) (p := p) (up := up) (s := s1) ?_ ?_; rotate_left; clear_value s1; intro _; rotate_left; subst s1)
                 | ((try lift_lets); intro s1; subst s1) | dsimp -zeta only | simp -zeta only [keep_mk]
                 | with_reducible refine keep_like ?_ (by with_reducible rfl)
                 | with_reducible refine keep_mix ?_ ?_ ?_ ?_ (by with_reducible rfl) (by with_reducible rfl) (by with_reducible rfl) (by with_reducible rfl)
                 | split | intro _ | dsimp only)

theorem execFlitWaitLimit_keep (way : Way) (tag : Nat) {s : State} (h : Keep q p up s) :
    Keep q p up (nextOr (execFlitWaitLimit way tag s) s) := by
  unfold execFlitWaitLimit
  dsimp -zeta only [nextOr]
  repeat' (first | with_reducible assumption | with_reducible apply State.grantFlit_keep | with_reducible apply hf
                 | (with_reducible refine fun _ => ?_) | with_reducible apply keep_foldl
                 | with_reducible apply keep_foldl_fst
                 | ((try lift_lets); intro s1; refine keep_cut (q := q) (p := p) (up := up) (s := s1) ?_ ?_; rotate_left; clear_value s1; intro _; rotate_left; subst s1)
                 | ((try lift_lets); intro s1; subst s1) | dsimp -zeta only | simp -zeta only [keep_mk]
                 | with_reducible refine keep_like ?_ (by with_reducible rfl)
                 | with_reducible refine keep_mix ?_ ?_ ?_ ?_ (by with_reducible rfl) (by with_reducible rfl) (by with_reducible rfl) (by with_reducible rfl)
                 | split | intro _ | dsimp only)

theorem State.modSram_keep {s : State} (g : Nat) (f : SramGroup → SramGroup) (h : Keep q p up s) :
    Keep q p up (State.modSram s g f) := by
  unfold State.modSram
  repeat' (first | with_reducible assumption | simp -zeta only [keep_mk]
                 | with_reducible refine keep_like ?_ (by with_reducible rfl))

theorem execSramCorrection_keep (group : Nat) (word : Nat) {s : State} (h : Keep q p up s) :
    Keep q p up (nextOr (execSramCorrection group word s) s) := by
  unfold execSramCorrection
  dsimp -zeta only [nextOr]
  repeat' (first | with_reducible assumption | with_reducible apply State.modSram_keep
                 | with_reducible apply State.logFault_keep | ((try lift_lets); intro s1; subst s1) | split)

theorem State.repairSram_keep {s : State} (g : Nat) (h : Keep q p up s) :
    Keep q p up (State.repairSram s g) := by
  unfold State.repairSram
  repeat' (first | with_reducible assumption | with_reducible apply State.modSram_keep
                 | with_reducible apply State.requestRepl_keep | with_reducible apply State.logFault_keep
                 | (with_reducible refine fun _ => ?_) | with_reducible apply keep_foldl
                 | ((try lift_lets); intro s1; subst s1) | split)

theorem State.selfTests_keep {s : State} (bad : List Nat) (h : Keep q p up s) :
    Keep q p up (State.selfTests s bad) := by
  unfold State.selfTests
  repeat' (first | with_reducible assumption | with_reducible apply State.blocksLost_keep
                 | with_reducible apply keep_foldl | simp -zeta only [keep_mk]
                 | with_reducible refine keep_like ?_ (by with_reducible rfl))

theorem execIdentify_keep (q0 : Src) (e0 : Sqe) {s : State} (h : Keep q p up s) :
    Keep q p up (nextOr (execIdentify q0 e0 s) s) := by
  unfold execIdentify
  dsimp -zeta only [nextOr]
  repeat' (first | with_reducible assumption | with_reducible apply State.adminCmd_keep
                 | with_reducible apply State.fail_keep | with_reducible apply State.answer_keep
                 | (with_reducible refine fun _ => ?_) | split)

theorem State.logRead_keep {s : State} (q0 : Src) (lid : Nat) (rae : Bool) (h : Keep q p up s) :
    Keep q p up (State.logRead s q0 lid rae) := by
  unfold State.logRead
  repeat' (first | with_reducible assumption | with_reducible apply State.modCtrl_keep | split)

theorem execGetLogPage_keep (q0 : Src) (e0 : Sqe) {s : State} (h : Keep q p up s) :
    Keep q p up (nextOr (execGetLogPage q0 e0 s) s) := by
  unfold execGetLogPage
  dsimp -zeta only [nextOr]
  repeat' (first | with_reducible assumption | with_reducible apply State.adminCmd_keep
                 | with_reducible apply State.fail_keep | with_reducible apply State.answer_keep
                 | with_reducible apply State.logRead_keep | with_reducible apply State.drawnN_keep
                 | (with_reducible refine fun _ => ?_) | ((try lift_lets); intro s1; subst s1) | split)

theorem State.actLow_keep {s : State} (h : Keep q p up s) :
    Keep q p up (State.actLow s) := by
  unfold State.actLow
  repeat' (first | with_reducible assumption | simp -zeta only [keep_mk]
                 | with_reducible refine keep_like ?_ (by with_reducible rfl) | split)

theorem State.fetchEntry_keep {s : State} (i : Nat) (n : Nat) (e0 : Sqe) (h : Keep q p up s) :
    Keep q p up (State.fetchEntry s i n e0) := by
  unfold State.fetchEntry
  repeat' (first | with_reducible assumption | with_reducible apply State.modSq_keep
                 | with_reducible apply State.actLow_keep | with_reducible apply State.post_keep
                 | with_reducible apply State.logError_keep | ((try lift_lets); intro s1; subst s1) | split)

theorem execSqEntryFetch_keep (e0 : Sqe) {s : State} (h : Keep q p up s) :
    Keep q p up (nextOr (execSqEntryFetch e0 s) s) := by
  unfold execSqEntryFetch
  dsimp -zeta only [nextOr]
  repeat' (first | with_reducible assumption | with_reducible apply State.request_keep
                 | with_reducible apply State.modCtrl_keep | with_reducible apply State.fetchEntry_keep
                 | simp -zeta only [keep_mk] | with_reducible refine keep_like ?_ (by with_reducible rfl) | split)

theorem execUnsupportedOpcode_keep (q0 : Src) (e0 : Sqe) {s : State} (h : Keep q p up s) :
    Keep q p up (nextOr (execUnsupportedOpcode q0 e0 s) s) := by
  unfold execUnsupportedOpcode
  dsimp -zeta only [nextOr]
  repeat' (first | with_reducible assumption | with_reducible apply State.fail_keep
                 | with_reducible apply State.begin_keep | ((try lift_lets); intro s1; subst s1) | split)

theorem State.discardQueue_keep {s : State} (i : Nat) (n : Nat) (h : Keep q p up s) :
    Keep q p up (State.discardQueue s i n) := by
  unfold State.discardQueue
  repeat' (first | with_reducible assumption | with_reducible apply State.dropWork_keep
                 | with_reducible apply State.modCtrl_keep | (with_reducible refine fun _ => ?_)
                 | with_reducible apply keep_foldl | simp -zeta only [keep_mk]
                 | with_reducible refine keep_like ?_ (by with_reducible rfl))

theorem execDeleteIoSubmissionQueue_keep (q0 : Src) (e0 : Sqe) {s : State} (h : Keep q p up s) :
    Keep q p up (nextOr (execDeleteIoSubmissionQueue q0 e0 s) s) := by
  unfold execDeleteIoSubmissionQueue
  dsimp -zeta only [nextOr]
  repeat' (first | with_reducible assumption | with_reducible apply State.adminCmd_keep
                 | with_reducible apply State.fail_keep | with_reducible apply State.complete_keep
                 | with_reducible apply State.discardQueue_keep | (with_reducible refine fun _ => ?_)
                 | ((try lift_lets); intro s1; subst s1) | split)

theorem State.ctrlReset_keep {s : State} (i : Nat) (h : Keep q p up s) :
    Keep q p up (State.ctrlReset s i) := by
  unfold State.ctrlReset
  repeat' (first | with_reducible assumption | with_reducible apply State.discardQueue_keep
                 | with_reducible apply State.setCtrl_keep | (with_reducible refine fun _ => ?_)
                 | with_reducible apply keep_foldl | simp -zeta only [keep_mk]
                 | with_reducible refine keep_like ?_ (by with_reducible rfl))

theorem execCcEnEnable_keep (ctrl : Nat) (value : W32) {s : State} (h : Keep q p up s) :
    Keep q p up (nextOr (execCcEnEnable ctrl value s) s) := by
  unfold execCcEnEnable
  dsimp -zeta only [nextOr]
  repeat' (first | with_reducible assumption | with_reducible apply State.modSlice_keep
                 | with_reducible apply State.setCtrl_keep | ((try lift_lets); intro s1; subst s1)
                 | simp -zeta only [keep_mk] | with_reducible refine keep_like ?_ (by with_reducible rfl) | split)

theorem execCcEnDisable_keep (ctrl : Nat) (value : W32) {s : State} (h : Keep q p up s) :
    Keep q p up (nextOr (execCcEnDisable ctrl value s) s) := by
  unfold execCcEnDisable
  dsimp -zeta only [nextOr]
  repeat' (first | with_reducible assumption | with_reducible apply State.ctrlReset_keep
                 | with_reducible apply State.modCtrl_keep | with_reducible apply State.setCfs_keep
                 | ((try lift_lets); intro s1; refine keep_cut (q := q) (p := p) (up := up) (s := s1) ?_ ?_; rotate_left; clear_value s1; intro _; rotate_left; subst s1)
                 | split)

theorem execCcShutdownNotification_keep (ctrl : Nat) (value : W32) {s : State} (h : Keep q p up s) :
    Keep q p up (nextOr (execCcShutdownNotification ctrl value s) s) := by
  unfold execCcShutdownNotification
  dsimp -zeta only [nextOr]
  repeat' (first | with_reducible assumption | with_reducible apply State.setCtrl_keep
                 | ((try lift_lets); intro s1; subst s1) | split)

theorem execShutdownComplete_keep (ctrl : Nat) {s : State} (h : Keep q p up s) :
    Keep q p up (nextOr (execShutdownComplete ctrl s) s) := by
  unfold execShutdownComplete
  dsimp -zeta only [nextOr]
  repeat' (first | with_reducible assumption | with_reducible apply State.modCtrl_keep
                 | ((try lift_lets); intro s1; refine keep_cut (q := q) (p := p) (up := up) (s := s1) ?_ ?_; rotate_left; clear_value s1; intro _; rotate_left; subst s1)
                 | simp -zeta only [keep_mk] | with_reducible refine keep_like ?_ (by with_reducible rfl) | split)

theorem execBilletLoad_keep (q0 : Src) (e0 : Sqe) (data : List Byte) (sealOk : Bool) {s : State} (h : Keep q p up s) :
    Keep q p up (nextOr (execBilletLoad q0 e0 data sealOk s) s) := by
  unfold execBilletLoad
  dsimp -zeta only [nextOr]
  repeat' (first | with_reducible assumption | with_reducible apply State.ioCmd_keep
                 | with_reducible apply State.fail_keep | with_reducible apply State.chargeFlash_keep
                 | with_reducible apply State.sealCount_keep | with_reducible apply State.moved_keep
                 | with_reducible apply State.drawnN_keep | with_reducible apply State.complete_keep
                 | with_reducible apply State.meterUp_keep | with_reducible apply State.eventSmr_keep
                 | with_reducible apply State.succeed_keep | (with_reducible refine fun _ => ?_)
                 | ((try lift_lets); intro s1; subst s1) | simp -zeta only [keep_mk]
                 | with_reducible refine keep_like ?_ (by with_reducible rfl) | split)

theorem execBilletRelease_keep (q0 : Src) (e0 : Sqe) {s : State} (h : Keep q p up s) :
    Keep q p up (nextOr (execBilletRelease q0 e0 s) s) := by
  unfold execBilletRelease
  dsimp -zeta only [nextOr]
  repeat' (first | with_reducible assumption | with_reducible apply State.ioCmd_keep
                 | with_reducible apply State.chargeFlash_keep | with_reducible apply State.fail_keep
                 | with_reducible apply State.succeed_keep | (with_reducible refine fun _ => ?_)
                 | ((try lift_lets); intro s1; subst s1) | simp -zeta only [keep_mk]
                 | with_reducible refine keep_like ?_ (by with_reducible rfl) | split)

theorem execRun_keep (q0 : Src) (e0 : Sqe) {s : State} (h : Keep q p up s) :
    Keep q p up (nextOr (execRun q0 e0 s) s) := by
  unfold execRun
  dsimp -zeta only [nextOr]
  repeat' (first | with_reducible assumption | with_reducible apply State.ioCmd_keep
                 | with_reducible apply State.fail_keep | (with_reducible refine fun _ => ?_)
                 | ((try lift_lets); intro s1; subst s1) | simp -zeta only [keep_mk]
                 | with_reducible refine keep_like ?_ (by with_reducible rfl) | split)

theorem execRunSaveAreaAcquire_keep (run : Nat) {s : State} (h : Keep q p up s) :
    Keep q p up (nextOr (execRunSaveAreaAcquire run s) s) := by
  unfold execRunSaveAreaAcquire
  dsimp -zeta only [nextOr]
  repeat' (first | with_reducible assumption | with_reducible apply State.setRun_keep | split)

theorem State.placeCode_keep2 {s : State} (f : Nat) (r : Run)
    (h : Keep q p up s) : Keep q p up (State.placeCode s f r).2 := by
  unfold State.placeCode
  simp only []
  split
  · exact h
  · exact State.setForge_keep _ _ h

theorem State.giveCore_keep {s : State} (c : Nat) (i : Nat) (h : Keep q p up s) :
    Keep q p up (State.giveCore s c i) := by
  unfold State.giveCore
  repeat' (first | with_reducible assumption | with_reducible apply State.placeCode_keep2
                 | with_reducible apply State.setForge_keep | with_reducible apply State.modCore_keep
                 | with_reducible apply State.setRun_keep | split)

theorem State.takeCore_keep {s : State} (c : Nat) (h : Keep q p up s) :
    Keep q p up (State.takeCore s c) := by
  unfold State.takeCore
  repeat' (first | with_reducible assumption | with_reducible apply State.modCore_keep
                 | with_reducible apply State.flushCache_keep | with_reducible apply State.enterExc_keep
                 | with_reducible apply State.setRun_keep | split)

theorem State.endAtLimit_keep {s : State} (i : Nat) (h : Keep q p up s) :
    Keep q p up (State.endAtLimit s i) := by
  unfold State.endAtLimit
  repeat' (first | with_reducible assumption | with_reducible apply State.billetFault_keep
                 | with_reducible apply State.setRun_keep | split)

theorem execSpanlimExpiry_keep (run : Nat) {s : State} (h : Keep q p up s) :
    Keep q p up (nextOr (execSpanlimExpiry run s) s) := by
  unfold execSpanlimExpiry
  dsimp -zeta only [nextOr]
  repeat' (first | with_reducible assumption | with_reducible apply State.endAtLimit_keep)

theorem State.stopDiscarded_keep {s : State} (i : Nat) (h : Keep q p up s) :
    Keep q p up (State.stopDiscarded s i) := by
  unfold State.stopDiscarded
  repeat' (first | with_reducible assumption | with_reducible apply State.endRun_keep
                 | with_reducible apply State.setRun_keep | split)

theorem execRunComplete_keep (run : Nat) {s : State} (h : Keep q p up s) :
    Keep q p up (nextOr (execRunComplete run s) s) := by
  unfold execRunComplete
  dsimp -zeta only [nextOr]
  repeat' (first | with_reducible assumption | with_reducible apply State.complete_keep
                 | with_reducible apply State.sendIo_keep | ((try lift_lets); intro s1; subst s1)
                 | simp -zeta only [keep_mk] | with_reducible refine keep_like ?_ (by with_reducible rfl) | split)

theorem execLocalWrite_keep (q0 : Src) (e0 : Sqe) (data : List Byte) (sealOk : Bool) {s : State} (h : Keep q p up s) :
    Keep q p up (nextOr (execLocalWrite q0 e0 data sealOk s) s) := by
  unfold execLocalWrite
  dsimp -zeta only [nextOr]
  repeat' (first | with_reducible assumption | with_reducible apply State.ioCmd_keep
                 | with_reducible apply State.fail_keep | with_reducible apply State.chargeFlash_keep
                 | with_reducible apply State.sealCount_keep | with_reducible apply State.moved_keep
                 | with_reducible apply State.drawnN_keep | with_reducible apply State.succeed_keep
                 | with_reducible apply State.localWrite_keep | (with_reducible refine fun _ => ?_)
                 | ((try lift_lets); intro s1; subst s1) | split)

theorem execLocalRead_keep (q0 : Src) (e0 : Sqe) {s : State} (h : Keep q p up s) :
    Keep q p up (nextOr (execLocalRead q0 e0 s) s) := by
  unfold execLocalRead
  dsimp -zeta only [nextOr]
  repeat' (first | with_reducible assumption | with_reducible apply State.ioCmd_keep
                 | with_reducible apply State.fail_keep | with_reducible apply State.succeed_keep
                 | with_reducible apply State.sendIo_keep | with_reducible apply State.chargeFlash_keep
                 | (with_reducible refine fun _ => ?_) | split)

theorem execSealedTransferSetup_keep (q0 : Src) (e0 : Sqe) (data : List Byte) {s : State} (h : Keep q p up s) :
    Keep q p up (nextOr (execSealedTransferSetup q0 e0 data s) s) := by
  unfold execSealedTransferSetup
  dsimp -zeta only [nextOr]
  repeat' (first | with_reducible assumption | with_reducible apply State.ioCmd_keep
                 | with_reducible apply State.fail_keep | with_reducible apply State.moved_keep
                 | with_reducible apply State.succeed_keep | with_reducible apply State.meterUp_keep
                 | with_reducible apply State.modSq_keep | (with_reducible refine fun _ => ?_)
                 | ((try lift_lets); intro s1; subst s1) | split)

theorem execScan_keep (q0 : Src) (e0 : Sqe) {s : State} (h : Keep q p up s) :
    Keep q p up (nextOr (execScan q0 e0 s) s) := by
  unfold execScan
  dsimp -zeta only [nextOr]
  repeat' (first | with_reducible assumption | with_reducible apply State.nsCmd_keep
                 | with_reducible apply State.fail_keep | with_reducible apply State.complete_keep
                 | (with_reducible refine fun _ => ?_) | ((try lift_lets); intro s1; subst s1)
                 | simp -zeta only [keep_mk] | with_reducible refine keep_like ?_ (by with_reducible rfl) | split)

end Sys2Proof.Machine
end

