-- ==== Sys2Proof/Laws/Keep10.lean ====
section
/-! SUPPORT. What each function keeps, from `State.scanTake` to `State.ctlPut`: one lemma per function, cited by the functions that
call it. -/

namespace Sys2Proof.Machine

variable {q : List Instr} {p up : Prop}

theorem State.scanTake_keep {s : State} (scan : Nat) (r : Scan) (i : Nat) (h : Keep q p up s) :
    Keep q p up (State.scanTake s scan r i) := by
  unfold State.scanTake
  repeat' (first | with_reducible assumption | with_reducible apply State.feedScan_keep
                 | with_reducible apply State.modScan_keep | with_reducible apply State.issueRead_keep | split)

theorem execScanSlotAcquire_keep (scan : Nat) {s : State} (h : Keep q p up s) :
    Keep q p up (nextOr (execScanSlotAcquire scan s) s) := by
  unfold execScanSlotAcquire
  dsimp -zeta only [nextOr]
  repeat' (first | with_reducible assumption | with_reducible apply State.modScan_keep
                 | with_reducible apply State.scanTake_keep | (with_reducible refine fun _ => ?_)
                 | with_reducible apply keep_foldl | simp -zeta only [keep_mk]
                 | with_reducible refine keep_like ?_ (by with_reducible rfl) | split)

theorem State.dropScan_keep {s : State} (n : Nat) (r : Scan) (h : Keep q p up s) :
    Keep q p up (State.dropScan s n r) := by
  unfold State.dropScan
  repeat' (first | with_reducible assumption | ((try lift_lets); intro s1; subst s1) | simp -zeta only [keep_mk]
                 | with_reducible refine keep_like ?_ (by with_reducible rfl))

theorem execScanComplete_keep (scan : Nat) {s : State} (h : Keep q p up s) :
    Keep q p up (nextOr (execScanComplete scan s) s) := by
  unfold execScanComplete
  dsimp -zeta only [nextOr]
  repeat' (first | with_reducible assumption | with_reducible apply State.dropScan_keep
                 | with_reducible apply State.complete_keep | with_reducible apply State.sendIo_keep
                 | ((try lift_lets); intro s1; subst s1) | split)

theorem State.nsAdmin_keep {s : State} (q0 : Src) (e0 : Sqe) (opc : Nat) (body : Nat → State → State)
    (h : Keep q p up s) (hf : ∀ y0 y1, Keep q p up y1 → Keep q p up (body y0 y1)) :
    Keep q p up (State.nsAdmin s q0 e0 opc body) := by
  unfold State.nsAdmin
  repeat' (first | with_reducible assumption | with_reducible apply State.adminCmd_keep
                 | with_reducible apply State.fail_keep | with_reducible apply hf
                 | (with_reducible refine fun _ => ?_) | split)

theorem execNamespaceCreate_keep (q0 : Src) (e0 : Sqe) (data : List Byte) {s : State} (h : Keep q p up s) :
    Keep q p up (nextOr (execNamespaceCreate q0 e0 data s) s) := by
  unfold execNamespaceCreate
  dsimp -zeta only [nextOr]
  repeat' (first | with_reducible assumption | with_reducible apply State.nsAdmin_keep
                 | with_reducible apply State.fail_keep | with_reducible apply State.moved_keep
                 | with_reducible apply State.modMedia_keep | with_reducible apply State.startCommit_keep
                 | (with_reducible refine fun _ => ?_) | ((try lift_lets); intro s1; subst s1) | split)

theorem execNamespaceDelete_keep (q0 : Src) (e0 : Sqe) {s : State} (h : Keep q p up s) :
    Keep q p up (nextOr (execNamespaceDelete q0 e0 s) s) := by
  unfold execNamespaceDelete
  dsimp -zeta only [nextOr]
  repeat' (first | with_reducible assumption | with_reducible apply State.nsAdmin_keep
                 | with_reducible apply State.startCommit_keep | with_reducible apply State.fail_keep
                 | (with_reducible refine fun _ => ?_) | split)

theorem execNamespaceAttachment_keep (q0 : Src) (e0 : Sqe) (data : List Byte) {s : State} (h : Keep q p up s) :
    Keep q p up (nextOr (execNamespaceAttachment q0 e0 data s) s) := by
  unfold execNamespaceAttachment
  dsimp -zeta only [nextOr]
  repeat' (first | with_reducible assumption | with_reducible apply State.nsAdmin_keep
                 | with_reducible apply State.fail_keep | with_reducible apply State.moved_keep
                 | with_reducible apply State.succeed_keep | with_reducible apply State.modNs_keep
                 | (with_reducible refine fun _ => ?_) | ((try lift_lets); intro s1; subst s1) | split)

theorem State.formatPlain_keep {s : State} (x : Nat) (fmt : Nat) (dps : Nat) (h : Keep q p up s) :
    Keep q p up (State.formatPlain s x fmt dps) := by
  unfold State.formatPlain
  repeat' (first | with_reducible assumption | with_reducible apply State.freeAllIus_keep
                 | with_reducible apply State.modNs_keep | with_reducible apply State.drawn_keep | split)

theorem execFormatNvm_keep (q0 : Src) (e0 : Sqe) {s : State} (h : Keep q p up s) :
    Keep q p up (nextOr (execFormatNvm q0 e0 s) s) := by
  unfold execFormatNvm
  dsimp -zeta only [nextOr]
  repeat' (first | with_reducible assumption | with_reducible apply State.nsAdmin_keep
                 | with_reducible apply State.fail_keep | with_reducible apply State.succeed_keep
                 | with_reducible apply State.checkReadOnly_keep | with_reducible apply State.formatPlain_keep
                 | with_reducible apply State.startCommit_keep | (with_reducible refine fun _ => ?_)
                 | with_reducible apply keep_foldl | ((try lift_lets); intro s1; subst s1) | split)

theorem State.setSan_keep {s : State} (scope : Option Nat) (x : Sanitize) (h : Keep q p up s) :
    Keep q p up (State.setSan s scope x) := by
  unfold State.setSan
  repeat' (first | with_reducible assumption | simp -zeta only [keep_mk]
                 | with_reducible refine keep_like ?_ (by with_reducible rfl))

theorem State.sanitizeCmd_keep {s : State} (q0 : Src) (e0 : Sqe) (take : Nat → Bool) (body : Option Nat → State → State)
    (h : Keep q p up s) (hf : ∀ y0 y1, Keep q p up y1 → Keep q p up (body y0 y1)) :
    Keep q p up (State.sanitizeCmd s q0 e0 take body) := by
  unfold State.sanitizeCmd
  repeat' (first | with_reducible assumption | with_reducible apply State.adminCmd_keep | with_reducible apply hf
                 | split)

theorem State.blankLocal_keep {s : State} (sl : Nat) (h : Keep q p up s) : Keep q p up (State.blankLocal s sl) :=
  ⟨h.1, fun hp => ⟨⟨fun x hx => (h.dram hp).1 x (Tbl.mem_del hx), (h.dram hp).2⟩, h.hm hp, h.dev hp⟩, h.2.2⟩

theorem State.startSanitize_keep {s : State} (q0 : Src) (e0 : Sqe) (scope : Option Nat) (h : Keep q p up s) :
    Keep q p up (State.startSanitize s q0 e0 scope) := by
  unfold State.startSanitize
  repeat' (first | with_reducible assumption | with_reducible apply State.fail_keep
                 | with_reducible apply State.setSan_keep | with_reducible apply State.blankLocal_keep
                 | with_reducible apply State.startCommit_keep | split)

theorem execSanitizeExitFailureMode_keep (q0 : Src) (e0 : Sqe) {s : State} (h : Keep q p up s) :
    Keep q p up (nextOr (execSanitizeExitFailureMode q0 e0 s) s) := by
  unfold execSanitizeExitFailureMode
  dsimp -zeta only [nextOr]
  repeat' (first | with_reducible assumption | with_reducible apply State.sanitizeCmd_keep
                 | with_reducible apply State.fail_keep | with_reducible apply State.succeed_keep
                 | with_reducible apply State.setSan_keep | (with_reducible refine fun _ => ?_)
                 | ((try lift_lets); intro s1; subst s1) | split)

theorem execSanitizeBlockErase_keep (q0 : Src) (e0 : Sqe) {s : State} (h : Keep q p up s) :
    Keep q p up (nextOr (execSanitizeBlockErase q0 e0 s) s) := by
  unfold execSanitizeBlockErase
  dsimp -zeta only [nextOr]
  repeat' (first | with_reducible assumption | with_reducible apply State.sanitizeCmd_keep
                 | with_reducible apply State.fail_keep | with_reducible apply State.startSanitize_keep
                 | (with_reducible refine fun _ => ?_) | split)

theorem execSanitizeCryptoErase_keep (q0 : Src) (e0 : Sqe) {s : State} (h : Keep q p up s) :
    Keep q p up (nextOr (execSanitizeCryptoErase q0 e0 s) s) := by
  unfold execSanitizeCryptoErase
  dsimp -zeta only [nextOr]
  repeat' (first | with_reducible assumption | with_reducible apply State.sanitizeCmd_keep
                 | with_reducible apply State.startSanitize_keep | (with_reducible refine fun _ => ?_))

theorem State.moveJournal_keep {s : State} (set : Nat) (h : Keep q p up s) : Keep q p up (State.moveJournal s set) := by
  unfold State.moveJournal
  refine keep_foldl _ (fun s j hs => ?_) _ h
  split
  · exact hs
  · rename_i e
    obtain ⟨_, _, e⟩ := List.exists_of_findSome?_eq_some e
    have ht := State.stagingSet_keep e hs
    simp only []
    exact keep_ite (State.cutSet_keep _ ht) (State.modMedia_keep _ (State.landPages_keep _ _ (State.padPage_keep _
      (State.copyRun_keep2 _ _ _ _ _ ht))))

theorem State.forgetSet_keep {s : State} (set : Nat) (h : Keep q p up s) :
    Keep q p up (State.forgetSet s set) := by
  unfold State.forgetSet
  repeat' (first | with_reducible assumption | with_reducible apply State.modMedia_keep)

theorem State.clearSet_keep {s : State} (scope : Option Nat) (set : Nat) (h : Keep q p up s) :
    Keep q p up (State.clearSet s scope set) := by
  unfold State.clearSet
  repeat' (first | with_reducible assumption | with_reducible apply State.cutSet_keep
                 | with_reducible apply State.moveJournal_keep | with_reducible apply State.startMove_keep
                 | with_reducible apply State.runMove_keep2 | with_reducible apply State.startErase_keep
                 | with_reducible apply State.forgetSet_keep
                 | ((try lift_lets); intro s1; refine keep_cut (q := q) (p := p) (up := up) (s := s1) ?_ ?_; rotate_left; clear_value s1; intro _; rotate_left; subst s1)
                 | split)

theorem State.sanitizeWork_keep {s : State} (h : Keep q p up s) :
    Keep q p up (State.sanitizeWork s) := by
  unfold State.sanitizeWork
  repeat' (first | with_reducible assumption | with_reducible apply State.clearSet_keep
                 | (with_reducible refine fun _ => ?_) | with_reducible apply keep_foldl
                 | ((try lift_lets); intro s1; subst s1) | split)

theorem execSanitizeComplete_keep (scope : Option Nat) (failed : Bool) {s : State} (h : Keep q p up s) :
    Keep q p up (nextOr (execSanitizeComplete scope failed s) s) := by
  unfold execSanitizeComplete
  dsimp -zeta only [nextOr]
  repeat' (first | with_reducible assumption | with_reducible apply State.sanitizeWork_keep
                 | with_reducible apply State.setSan_keep | with_reducible apply State.raiseEvent_keep
                 | ((try lift_lets); intro s1; subst s1) | split)

theorem State.sampleMeters_keep {s : State} (h : Keep q p up s) :
    Keep q p up (State.sampleMeters s) := by
  unfold State.sampleMeters
  repeat' (first | with_reducible assumption | simp -zeta only [keep_mk]
                 | with_reducible refine keep_like ?_ (by with_reducible rfl))

theorem State.applyShares_keep {s : State} (h : Keep q p up s) :
    Keep q p up (State.applyShares s) := by
  unfold State.applyShares
  repeat' (first | with_reducible assumption | simp -zeta only [keep_mk]
                 | with_reducible refine keep_like ?_ (by with_reducible rfl))

theorem State.creditAll_keep {s : State} (h : Keep q p up s) :
    Keep q p up (State.creditAll s) := by
  unfold State.creditAll
  repeat' (first | with_reducible assumption | ((try lift_lets); intro s1; subst s1) | simp -zeta only [keep_mk]
                 | with_reducible refine keep_like ?_ (by with_reducible rfl))

theorem State.chargeCore_keep {s : State} (i : Nat) (h : Keep q p up s) :
    Keep q p up (State.chargeCore s i) := by
  unfold State.chargeCore
  repeat' (first | with_reducible assumption | with_reducible apply State.setRun_keep
                 | with_reducible apply State.meterUp_keep | with_reducible apply State.modSlice_keep | split)

theorem State.grantCores_keep {s : State} (h : Keep q p up s) :
    Keep q p up (State.grantCores s) := by
  unfold State.grantCores
  repeat' (first | with_reducible assumption | with_reducible apply State.takeCore_keep
                 | with_reducible apply State.giveCore_keep | with_reducible apply State.chargeCore_keep
                 | (with_reducible refine fun _ => ?_) | with_reducible apply keep_foldl | split)

theorem State.stepCores_keep {s : State} (h : Keep q p up s) :
    Keep q p up (State.stepCores s) := by
  unfold State.stepCores
  repeat' (first | with_reducible assumption | with_reducible apply State.dropScan_keep
                 | with_reducible apply State.endAtLimit_keep | with_reducible apply State.stopDiscarded_keep
                 | with_reducible apply State.grantCores_keep | (with_reducible refine fun _ => ?_)
                 | with_reducible apply keep_foldl)

theorem State.freeDeleted_keep2 {s : State} (room : Nat) (h : Keep q p up s) :
    Keep q p up (State.freeDeleted s room).1 := by
  unfold State.freeDeleted
  repeat' (first | with_reducible assumption | with_reducible apply State.freeIu_keep
                 | with_reducible apply State.modMedia_keep | with_reducible apply State.modNs_keep
                 | (with_reducible refine fun _ => ?_) | with_reducible apply keep_foldl
                 | with_reducible apply keep_foldl_fst | ((try lift_lets); intro s1; subst s1) | split)

theorem State.freeDeleted_keep {s : State} {room : Nat} {t : State} {x0} (e : State.freeDeleted s room = (t, x0))
    (h : Keep q p up s) :
    Keep q p up t :=
  (congrArg (fun x => x.1) e : (State.freeDeleted s room).1 = t) ▸ State.freeDeleted_keep2 _ h

theorem State.freeFormatted_keep {s : State} (room : Nat) (h : Keep q p up s) :
    Keep q p up (State.freeFormatted s room) := by
  unfold State.freeFormatted
  repeat' (first | with_reducible assumption | with_reducible apply State.dropGranules_keep
                 | with_reducible apply State.modMedia_keep | (with_reducible refine fun _ => ?_)
                 | with_reducible apply keep_foldl | with_reducible apply keep_foldl_fst)

theorem State.freeMap_keep {s : State} (h : Keep q p up s) :
    Keep q p up (State.freeMap s) := by
  unfold State.freeMap
  repeat' (first | with_reducible assumption | with_reducible apply State.freeDeleted_keep2
                 | with_reducible apply State.modMedia_keep | with_reducible apply State.freeFormatted_keep)

theorem State.foldStep_keep {s : State} (window : Bool) (h : Keep q p up s) :
    Keep q p up (State.foldStep s window) := by
  unfold State.foldStep
  repeat' (first | with_reducible assumption | with_reducible apply State.modMedia_keep
                 | with_reducible apply State.startMove_keep | (with_reducible refine fun _ => ?_)
                 | with_reducible apply keep_foldl | ((try lift_lets); intro s1; subst s1) | split)

theorem State.gcStep_keep {s : State} (window : Bool) (h : Keep q p up s) :
    Keep q p up (State.gcStep s window) := by
  unfold State.gcStep
  repeat' (first | with_reducible assumption | with_reducible apply State.modMedia_keep
                 | with_reducible apply State.startMove_keep | ((try lift_lets); intro s1; subst s1) | split)

theorem State.wearStep_keep {s : State} (h : Keep q p up s) :
    Keep q p up (State.wearStep s) := by
  unfold State.wearStep
  repeat' (first | with_reducible assumption | with_reducible apply State.fillSet_keep
                 | with_reducible apply State.startMove_keep | with_reducible apply State.modMedia_keep
                 | (with_reducible refine fun _ => ?_) | with_reducible apply keep_foldl | split | dsimp only)

theorem State.rateStep_keep {s : State} (c : Nat) (busy : Nat) (h : Keep q p up s) :
    Keep q p up (State.rateStep s c busy) := by
  unfold State.rateStep
  repeat' (first | with_reducible assumption | with_reducible apply State.modMedia_keep
                 | with_reducible apply State.startRate_keep | ((try lift_lets); intro s1; subst s1) | split)

theorem State.retrainFail_keep {s : State} (c : Nat) (h : Keep q p up s) :
    Keep q p up (State.retrainFail s c) := by
  unfold State.retrainFail
  repeat' (first | with_reducible assumption | with_reducible apply State.sweepProgs_keep
                 | with_reducible apply State.failChannel_keep | with_reducible apply State.startRate_keep
                 | with_reducible apply State.logFault_keep | ((try lift_lets); intro s1; subst s1) | split)

theorem State.scrubHit_keep {s : State} (h0 : ScrubHit) (h : Keep q p up s) :
    Keep q p up (State.scrubHit s h0) := by
  unfold State.scrubHit
  repeat' (first | with_reducible assumption | with_reducible apply State.logCorrection_keep
                 | with_reducible apply State.dramUncorr_keep | split)

theorem State.softRepair_keep {s : State} (h : Keep q p up s) :
    Keep q p up (State.softRepair s) := by
  unfold State.softRepair
  repeat' (first | with_reducible assumption | with_reducible apply State.modDchan_keep
                 | with_reducible apply State.logFault_keep | (with_reducible refine fun _ => ?_)
                 | with_reducible apply keep_foldl | ((try lift_lets); intro s1; subst s1)
                 | simp -zeta only [keep_mk] | with_reducible refine keep_like ?_ (by with_reducible rfl) | split)

theorem State.windowUpkeep_keep {s : State} (env : TickEnv) (h : Keep q p up s) :
    Keep q p up (State.windowUpkeep s env) := by
  unfold State.windowUpkeep
  repeat' (first | with_reducible assumption | with_reducible apply State.scrubHit_keep
                 | with_reducible apply State.softRepair_keep | with_reducible apply State.modDchan_keep
                 | with_reducible apply State.repairSram_keep | with_reducible apply State.selfTests_keep
                 | with_reducible apply State.retrainFail_keep | with_reducible apply State.modMedia_keep
                 | (with_reducible refine fun _ => ?_) | with_reducible apply keep_foldl
                 | ((try lift_lets); intro s1; refine keep_cut (q := q) (p := p) (up := up) (s := s1) ?_ ?_; rotate_left; clear_value s1; intro _; rotate_left; subst s1)
                 | split)

theorem State.stepMoves_keep {s : State} (window : Bool) (n : Nat) (h : Keep q p up s) :
    Keep q p up (State.stepMoves s window n) := by
  unfold State.stepMoves
  repeat' (first | with_reducible assumption | with_reducible apply State.gcStep_keep
                 | with_reducible apply State.foldStep_keep | with_reducible apply State.wearStep_keep
                 | with_reducible apply State.sanitizeWork_keep | with_reducible apply State.runMoves_keep | split)

theorem State.stepMedia_keep {s : State} (env : TickEnv) (h : Keep q p up s) :
    Keep q p up (State.stepMedia s env) := by
  unfold State.stepMedia
  repeat' (first | with_reducible assumption | with_reducible apply State.rateStep_keep
                 | with_reducible apply State.windowUpkeep_keep | with_reducible apply State.freeMap_keep
                 | with_reducible apply State.sweepProgs_keep | with_reducible apply State.failChannel_keep
                 | with_reducible apply State.checkExhaust_keep | with_reducible apply State.kickAll_keep
                 | with_reducible apply State.stepMoves_keep | with_reducible apply State.modMedia_keep
                 | with_reducible apply hf | (with_reducible refine fun _ => ?_) | with_reducible apply keep_foldl
                 | with_reducible apply keep_foldl_fst
                 | ((try lift_lets); intro s1; refine keep_cut (q := q) (p := p) (up := up) (s := s1) ?_ ?_; rotate_left; clear_value s1; intro _; rotate_left; subst s1)
                 | ((try lift_lets); intro s1; subst s1) | dsimp -zeta only | simp -zeta only [keep_mk]
                 | with_reducible refine keep_like ?_ (by with_reducible rfl)
                 | with_reducible refine keep_mix ?_ ?_ ?_ ?_ (by with_reducible rfl) (by with_reducible rfl) (by with_reducible rfl) (by with_reducible rfl)
                 | split | intro _ | dsimp only)

theorem State.tick_keep {s : State} (env : TickEnv) (h : Keep q p up s) :
    Keep q p up (State.tick s env) := by
  unfold State.tick
  repeat' (first | with_reducible assumption | with_reducible apply State.applyShares_keep
                 | with_reducible apply State.sampleMeters_keep | with_reducible apply State.stepCores_keep
                 | with_reducible apply State.creditAll_keep | with_reducible apply State.dispatchJobs_keep
                 | with_reducible apply State.stepMedia_keep | with_reducible apply keep_foldl
                 | ((try lift_lets); intro s1; subst s1) | simp -zeta only [keep_mk]
                 | with_reducible refine keep_like ?_ (by with_reducible rfl) | split)

theorem execSpanTick_keep (env : TickEnv) {s : State} (h : Keep q p up s) :
    Keep q p up (nextOr (execSpanTick env s) s) := by
  unfold execSpanTick
  dsimp -zeta only [nextOr]
  repeat' (first | with_reducible assumption | with_reducible apply State.tick_keep | simp -zeta only [keep_mk]
                 | with_reducible refine keep_like ?_ (by with_reducible rfl) | split)

theorem State.pierUpkeep_keep {s : State} (h : Keep q p up s) :
    Keep q p up (State.pierUpkeep s) := by
  unfold State.pierUpkeep
  repeat' (first | with_reducible assumption | with_reducible apply State.modMedia_keep | simp -zeta only [keep_mk]
                 | with_reducible refine keep_like ?_ (by with_reducible rfl))

theorem State.phaseStep_keep {s : State} (us : Int) (src : Nat) (h : Keep q p up s) :
    Keep q p up (State.phaseStep s us src) := by
  unfold State.phaseStep
  repeat' (first | with_reducible assumption | with_reducible apply State.logFault_keep | simp -zeta only [keep_mk]
                 | with_reducible refine keep_like ?_ (by with_reducible rfl))

theorem State.cutSpans_keep {s : State} (h : Keep q p up s) :
    Keep q p up (State.cutSpans s) := by
  unfold State.cutSpans
  repeat' (first | with_reducible assumption | with_reducible apply State.tick_keep
                 | (with_reducible refine fun _ => ?_) | with_reducible apply keep_foldl | simp -zeta only [keep_mk]
                 | with_reducible refine keep_like ?_ (by with_reducible rfl))

theorem State.takePier_keep {s : State} (act : Nat) (secs : Option W64) (step : Option Int) (env : TickEnv)
    (h : Keep q p up s) :
    Keep q p up (State.takePier s act secs step env) := by
  unfold State.takePier
  repeat' (first | with_reducible assumption | with_reducible apply State.cutSpans_keep
                 | with_reducible apply State.phaseStep_keep | with_reducible apply State.meterPier_keep
                 | with_reducible apply State.tick_keep | with_reducible apply State.pierUpkeep_keep
                 | simp -zeta only [keep_mk] | with_reducible refine keep_like ?_ (by with_reducible rfl) | split)

theorem State.pierAt_keep {s : State} (at_ : Nat) (act : Nat) (secs : Option W64) (step : Option Int) (env : TickEnv)
    (h : Keep q p up s) :
    Keep q p up (State.pierAt s at_ act secs step env) := by
  unfold State.pierAt
  repeat' (first | with_reducible assumption | with_reducible apply State.takePier_keep | simp -zeta only [keep_mk]
                 | with_reducible refine keep_like ?_ (by with_reducible rfl))

theorem execPier_keep (src : PierSource) (env : TickEnv) {s : State} (h : Keep q p up s) :
    Keep q p up (nextOr (execPier src env s) s) := by
  unfold execPier
  dsimp -zeta only [nextOr]
  repeat' (first | with_reducible assumption | with_reducible apply State.pierAt_keep
                 | with_reducible apply State.takePier_keep | ((try lift_lets); intro s1; subst s1)
                 | simp -zeta only [keep_mk] | with_reducible refine keep_like ?_ (by with_reducible rfl) | split)

theorem execTimepulseEdge_keep (t0 : Nat) (env : TickEnv) {s : State} (h : Keep q p up s) :
    Keep q p up (nextOr (execTimepulseEdge t0 env s) s) := by
  unfold execTimepulseEdge
  dsimp -zeta only [nextOr]
  repeat' (first | with_reducible assumption | with_reducible apply State.pierAt_keep
                 | ((try lift_lets); intro s1; subst s1) | simp -zeta only [keep_mk]
                 | with_reducible refine keep_like ?_ (by with_reducible rfl) | split)

theorem execTimepulseWindowClose_keep (t0 : Nat) (env : TickEnv) {s : State} (h : Keep q p up s) :
    Keep q p up (nextOr (execTimepulseWindowClose t0 env s) s) := by
  unfold execTimepulseWindowClose
  dsimp -zeta only [nextOr]
  repeat' (first | with_reducible assumption | with_reducible apply State.takePier_keep
                 | ((try lift_lets); intro s1; subst s1) | simp -zeta only [keep_mk]
                 | with_reducible refine keep_like ?_ (by with_reducible rfl) | split)

theorem execPtmDialogueStart_keep {s : State} (h : Keep q p up s) :
    Keep q p up (nextOr (execPtmDialogueStart s) s) := by
  unfold execPtmDialogueStart
  dsimp -zeta only [nextOr]
  repeat' (first | with_reducible assumption | simp -zeta only [keep_mk]
                 | with_reducible refine keep_like ?_ (by with_reducible rfl) | split)

theorem execPtmResponse_keep (departureUs : Nat) {s : State} (h : Keep q p up s) :
    Keep q p up (nextOr (execPtmResponse departureUs s) s) := by
  unfold execPtmResponse
  dsimp -zeta only [nextOr]
  repeat' (first | with_reducible assumption | simp -zeta only [keep_mk]
                 | with_reducible refine keep_like ?_ (by with_reducible rfl) | split)

theorem execPtmResponseTimeout_keep {s : State} (h : Keep q p up s) :
    Keep q p up (nextOr (execPtmResponseTimeout s) s) := by
  unfold execPtmResponseTimeout
  dsimp -zeta only [nextOr]
  repeat' (first | with_reducible assumption | simp -zeta only [keep_mk]
                 | with_reducible refine keep_like ?_ (by with_reducible rfl) | split)

theorem execParkLimitExpiry_keep (slice : Nat) {s : State} (h : Keep q p up s) :
    Keep q p up (nextOr (execParkLimitExpiry slice s) s) := by
  unfold execParkLimitExpiry
  dsimp -zeta only [nextOr]
  repeat' (first | with_reducible assumption | with_reducible apply State.fail_keep
                 | (with_reducible refine fun _ => ?_) | with_reducible apply keep_foldl
                 | ((try lift_lets); intro s1; subst s1) | split)

theorem execTimePierWrite_keep (value : W64) {s : State} (h : Keep q p up s) :
    Keep q p up (nextOr (execTimePierWrite value s) s) := by
  unfold execTimePierWrite
  dsimp -zeta only [nextOr]
  repeat' (first | with_reducible assumption | simp -zeta only [keep_mk]
                 | with_reducible refine keep_like ?_ (by with_reducible rfl) | split)

theorem execTimeCtlWrite_keep (value : W32) {s : State} (h : Keep q p up s) :
    Keep q p up (nextOr (execTimeCtlWrite value s) s) := by
  unfold execTimeCtlWrite
  dsimp -zeta only [nextOr]
  repeat' (first | with_reducible assumption | ((try lift_lets); intro s1; subst s1) | simp -zeta only [keep_mk]
                 | with_reducible refine keep_like ?_ (by with_reducible rfl))

theorem State.clearRc_keep {s : State} (o : Nat) (n : Nat) (h : Keep q p up s) :
    Keep q p up (State.clearRc s o n) := by
  unfold State.clearRc
  repeat' (first | with_reducible assumption | with_reducible apply State.modMedia_keep
                 | with_reducible apply State.modDchan_keep
                 | ((try lift_lets); intro s1; refine keep_cut (q := q) (p := p) (up := up) (s := s1) ?_ ?_; rotate_left; clear_value s1; intro _; rotate_left; subst s1)
                 | ((try lift_lets); intro s1; subst s1) | simp -zeta only [keep_mk]
                 | with_reducible refine keep_like ?_ (by with_reducible rfl) | split)

theorem execRcRegisterRead_keep (win : Window) (off : Nat) (size : Nat) {s : State} (h : Keep q p up s) :
    Keep q p up (nextOr (execRcRegisterRead win off size s) s) := by
  unfold execRcRegisterRead
  dsimp -zeta only [nextOr]
  repeat' (first | with_reducible assumption | with_reducible apply State.drawnN_keep
                 | with_reducible apply State.clearRc_keep | ((try lift_lets); intro s1; subst s1)
                 | simp -zeta only [keep_mk] | with_reducible refine keep_like ?_ (by with_reducible rfl) | split)

theorem State.ctlPut_keep {s : State} (i : Nat) (off : Nat) (v : W32) (h : Keep q p up s) :
    Keep q p up (State.ctlPut s i off v) := by
  unfold State.ctlPut
  repeat' (first | with_reducible assumption | with_reducible apply State.setCtrl_keep
                 | ((try lift_lets); intro s1; subst s1) | split)

end Sys2Proof.Machine
end

