-- ==== Sys2Proof/Laws/Keep11.lean ====
section
/-! SUPPORT. What each function keeps, from `State.slicePut` to `State.dropInFlight`: one lemma per function, cited by the functions that
call it. -/

namespace Sys2Proof.Machine

variable {q : List Instr} {p up : Prop}

theorem State.slicePut_keep {s : State} (sl : Nat) (off : Nat) (v : W32) (h : Keep q p up s) :
    Keep q p up (State.slicePut s sl off v) := by
  unfold State.slicePut
  repeat' (first | with_reducible assumption | with_reducible apply State.modSlice_keep
                 | with_reducible apply State.ctlPut_keep | split)

theorem State.putMdCtl_keep {s : State} (v : W32) (h : Keep q p up s) :
    Keep q p up (State.putMdCtl s v) := by
  unfold State.putMdCtl
  repeat' (first | with_reducible assumption | ((try lift_lets); intro s1; subst s1) | simp -zeta only [keep_mk]
                 | with_reducible refine keep_like ?_ (by with_reducible rfl) | split)

theorem State.bar4Put_keep {s : State} (off : Nat) (v : W32) (h : Keep q p up s) :
    Keep q p up (State.bar4Put s off v) := by
  unfold State.bar4Put
  repeat' (first | with_reducible assumption | with_reducible apply State.modMedia_keep
                 | with_reducible apply State.putMdCtl_keep | ((try lift_lets); intro s1; subst s1)
                 | simp -zeta only [keep_mk] | with_reducible refine keep_like ?_ (by with_reducible rfl) | split)

theorem State.bar4Put8_keep {s : State} (off : Nat) (v : W64) (h : Keep q p up s) :
    Keep q p up (State.bar4Put8 s off v) := by
  unfold State.bar4Put8
  repeat' (first | with_reducible assumption | with_reducible apply State.bar4Put_keep | simp -zeta only [keep_mk]
                 | with_reducible refine keep_like ?_ (by with_reducible rfl) | split)

theorem State.put4_keep {s : State} (win : Window) (off : Nat) (v : W32) (h : Keep q p up s) :
    Keep q p up (State.put4 s win off v) := by
  unfold State.put4
  repeat' (first | with_reducible assumption | with_reducible apply State.ctlPut_keep
                 | with_reducible apply State.slicePut_keep | with_reducible apply State.bar4Put_keep
                 | ((try lift_lets); intro s1; subst s1) | split)

theorem execRegisterWrite_keep (win : Window) (off : Nat) (size : Nat) (value : W64) {s : State} (h : Keep q p up s) :
    Keep q p up (nextOr (execRegisterWrite win off size value s) s) := by
  unfold execRegisterWrite
  dsimp -zeta only [nextOr]
  repeat' (first | with_reducible assumption | with_reducible apply State.put4_keep
                 | with_reducible apply State.bar4Put8_keep | split)

theorem State.drawDomain_keep {s : State} (d : Nat) (h : Keep q p up s) :
    Keep q p up (State.drawDomain s d) := by
  unfold State.drawDomain
  repeat' (first | with_reducible assumption | with_reducible apply State.drawn_keep
                 | with_reducible apply State.modDchan_keep | (with_reducible refine fun _ => ?_)
                 | with_reducible apply keep_foldl
                 | ((try lift_lets); intro s1; refine keep_cut (q := q) (p := p) (up := up) (s := s1) ?_ ?_; rotate_left; clear_value s1; intro _; rotate_left; subst s1)
                 | simp -zeta only [keep_mk]
                 | with_reducible refine keep_mix ?_ ?_ ?_ ?_ (by with_reducible rfl) (by with_reducible rfl) (by with_reducible rfl) (by with_reducible rfl))

theorem execSliceCreate_keep (q0 : Src) (e0 : Sqe) (data : List Byte) {s : State} (h : Keep q p up s) :
    Keep q p up (nextOr (execSliceCreate q0 e0 data s) s) := by
  unfold execSliceCreate
  dsimp -zeta only [nextOr]
  repeat' (first | with_reducible assumption | with_reducible apply State.adminCmd_keep
                 | with_reducible apply State.fail_keep | with_reducible apply State.moved_keep
                 | with_reducible apply State.drawDomain_keep | with_reducible apply State.setSlice_keep
                 | with_reducible apply State.drawn_keep | with_reducible apply State.succeed_keep
                 | (with_reducible refine fun _ => ?_) | ((try lift_lets); intro s1; subst s1)
                 | simp -zeta only [keep_mk]
                 | with_reducible refine keep_mix ?_ ?_ ?_ ?_ (by with_reducible rfl) (by with_reducible rfl) (by with_reducible rfl) (by with_reducible rfl)
                 | split)

theorem State.dropKeyWork_keep {s : State} (p0 : KeyWork → Bool) (h : Keep q p up s) :
    Keep q p up (State.dropKeyWork s p0) := by
  unfold State.dropKeyWork
  repeat' (first | with_reducible assumption | ((try lift_lets); intro s1; subst s1) | simp -zeta only [keep_mk]
                 | with_reducible refine keep_like ?_ (by with_reducible rfl))

theorem State.stopCores_keep {s : State} (sl : Nat) (h : Keep q p up s) :
    Keep q p up (State.stopCores s sl) := by
  unfold State.stopCores
  repeat' (first | with_reducible assumption | ((try lift_lets); intro s1; subst s1) | simp -zeta only [keep_mk]
                 | with_reducible refine keep_like ?_ (by with_reducible rfl))

theorem State.dropAts_keep {s : State} (port : Nat) (pasid : Nat) (h : Keep q p up s) :
    Keep q p up (State.dropAts s port pasid) := by
  unfold State.dropAts
  repeat' (first | with_reducible assumption | simp -zeta only [keep_mk]
                 | with_reducible refine keep_like ?_ (by with_reducible rfl))

theorem State.fence_keep {s : State} (sl : Nat) (h : Keep q p up s) :
    Keep q p up (State.fence s sl) := by
  unfold State.fence
  repeat' (first | with_reducible assumption | with_reducible apply State.modSlice_keep
                 | with_reducible apply State.dropAts_keep | ((try lift_lets); intro s1; subst s1)
                 | simp -zeta only [keep_mk] | with_reducible refine keep_like ?_ (by with_reducible rfl))

theorem State.dropContexts_keep {s : State} (sl : Nat) (h : Keep q p up s) :
    Keep q p up (State.dropContexts s sl) := by
  unfold State.dropContexts
  repeat' (first | with_reducible assumption | with_reducible apply State.dispatchJobs_keep
                 | with_reducible apply keep_foldl | simp -zeta only [keep_mk]
                 | with_reducible refine keep_like ?_ (by with_reducible rfl))

theorem State.dropReads_keep {s : State} (sl : Nat) (h : Keep q p up s) :
    Keep q p up (State.dropReads s sl) := by
  unfold State.dropReads
  repeat' (first | with_reducible assumption | with_reducible apply State.modMedia_keep
                 | (with_reducible refine fun _ => ?_) | with_reducible apply keep_foldl
                 | ((try lift_lets); intro s1; subst s1) | simp -zeta only [keep_mk]
                 | with_reducible refine keep_like ?_ (by with_reducible rfl))

theorem State.dropNamespaces_keep {s : State} (sl : Nat) (h : Keep q p up s) :
    Keep q p up (State.dropNamespaces s sl) := by
  unfold State.dropNamespaces
  repeat' (first | with_reducible assumption | with_reducible apply State.dropKeyWork_keep
                 | with_reducible apply State.modMedia_keep | with_reducible apply State.deleteNs_keep
                 | with_reducible apply State.newMediaKey_keep | with_reducible apply State.checkNv_keep
                 | with_reducible apply State.checkReadOnly_keep | with_reducible apply State.wrapTable_keep
                 | (with_reducible refine fun _ => ?_) | with_reducible apply keep_foldl
                 | ((try lift_lets); intro s1; subst s1) | split)

theorem State.wipeSlice_keep {s : State} (sl : Nat) (h : Keep q p up s) : Keep q p up (State.wipeSlice s sl) := by
  have h := State.clearSliceKeys_keep sl (State.drawDomain_keep sl (State.dropNamespaces_keep sl h))
  exact ⟨h.1, fun hp => ⟨⟨fun x hx => (h.dram hp).1 x (Tbl.mem_del hx), (h.dram hp).2⟩, h.hm hp, h.dev hp⟩, h.2.2⟩

theorem State.endLog_keep {s : State} (sl : Nat) (h : Keep q p up s) :
    Keep q p up (State.endLog s sl) := by
  unfold State.endLog
  repeat' (first | with_reducible assumption | simp -zeta only [keep_mk]
                 | with_reducible refine keep_like ?_ (by with_reducible rfl) | split)

theorem State.clearCtrl_keep {s : State} (sl : Nat) (h : Keep q p up s) :
    Keep q p up (State.clearCtrl s sl) := by
  unfold State.clearCtrl
  repeat' (first | with_reducible assumption | with_reducible apply State.ctrlReset_keep
                 | ((try lift_lets); intro s1; subst s1) | simp -zeta only [keep_mk]
                 | with_reducible refine keep_like ?_ (by with_reducible rfl))

theorem State.resetStep_keep {s : State} (sl : Nat) (x2 : Nat) (h : Keep q p up s) :
    Keep q p up (State.resetStep s sl x2) := by
  unfold State.resetStep
  repeat' (first | with_reducible assumption | with_reducible apply State.stopCores_keep
                 | with_reducible apply State.fence_keep | with_reducible apply State.dropContexts_keep
                 | with_reducible apply State.dropReads_keep | with_reducible apply State.wipeSlice_keep
                 | with_reducible apply State.endLog_keep | with_reducible apply State.clearCtrl_keep | split)

theorem State.resetEnd_keep {s : State} (sl : Nat) (h : Keep q p up s) :
    Keep q p up (State.resetEnd s sl) := by
  unfold State.resetEnd
  repeat' (first | with_reducible assumption | with_reducible apply State.setSlice_keep | simp -zeta only [keep_mk]
                 | with_reducible refine keep_like ?_ (by with_reducible rfl))

theorem State.runReset_keep {s : State} (sl : Nat) (n : Nat) (h : Keep q p up s) :
    Keep q p up (State.runReset s sl n) := by
  unfold State.runReset
  repeat' (first | with_reducible assumption | with_reducible apply State.resetStep_keep
                 | with_reducible apply State.modSlice_keep | with_reducible apply State.resetEnd_keep
                 | with_reducible apply State.succeed_keep | (with_reducible refine fun _ => ?_)
                 | with_reducible apply keep_foldl | ((try lift_lets); intro s1; subst s1) | split)

theorem State.sliceCmd_keep {s : State} (q0 : Src) (e0 : Sqe) (body : Nat → State → State)
    (h : Keep q p up s) (hf : ∀ y0 y1, Keep q p up y1 → Keep q p up (body y0 y1)) :
    Keep q p up (State.sliceCmd s q0 e0 body) := by
  unfold State.sliceCmd
  repeat' (first | with_reducible assumption | with_reducible apply State.fail_keep | with_reducible apply hf
                 | ((try lift_lets); intro s1; subst s1) | split)

theorem execSliceReset_keep (q0 : Src) (e0 : Sqe) (steps : Nat) {s : State} (h : Keep q p up s) :
    Keep q p up (nextOr (execSliceReset q0 e0 steps s) s) := by
  unfold execSliceReset
  dsimp -zeta only [nextOr]
  repeat' (first | with_reducible assumption | with_reducible apply State.runReset_keep
                 | with_reducible apply State.adminCmd_keep | with_reducible apply State.sliceCmd_keep
                 | with_reducible apply State.modSlice_keep | (with_reducible refine fun _ => ?_)
                 | ((try lift_lets); intro s1; subst s1) | split)

theorem State.removeSlice_keep {s : State} (sl : Nat) (h : Keep q p up s) :
    Keep q p up (State.removeSlice s sl) := by
  unfold State.removeSlice
  repeat' (first | with_reducible assumption | ((try lift_lets); intro s1; subst s1) | simp -zeta only [keep_mk]
                 | with_reducible refine keep_like ?_ (by with_reducible rfl))

theorem State.deleteSlice_keep {s : State} (sl : Nat) (h : Keep q p up s) :
    Keep q p up (State.deleteSlice s sl) := by
  unfold State.deleteSlice
  repeat' (first | with_reducible assumption | with_reducible apply State.removeSlice_keep
                 | with_reducible apply State.resetStep_keep | (with_reducible refine fun _ => ?_)
                 | with_reducible apply keep_foldl)

theorem execSliceDelete_keep (q0 : Src) (e0 : Sqe) {s : State} (h : Keep q p up s) :
    Keep q p up (nextOr (execSliceDelete q0 e0 s) s) := by
  unfold execSliceDelete
  dsimp -zeta only [nextOr]
  repeat' (first | with_reducible assumption | with_reducible apply State.adminCmd_keep
                 | with_reducible apply State.fail_keep | with_reducible apply State.modSlice_keep
                 | with_reducible apply State.succeed_keep | with_reducible apply State.deleteSlice_keep
                 | (with_reducible refine fun _ => ?_) | ((try lift_lets); intro s1; subst s1) | split)

theorem execDeleteAfterReset_keep (slice : Nat) {s : State} (h : Keep q p up s) :
    Keep q p up (nextOr (execDeleteAfterReset slice s) s) := by
  unfold execDeleteAfterReset
  dsimp -zeta only [nextOr]
  repeat' (first | with_reducible assumption | with_reducible apply State.succeed_keep
                 | with_reducible apply State.deleteSlice_keep | ((try lift_lets); intro s1; subst s1) | split)

theorem execSliceSetShares_keep (q0 : Src) (e0 : Sqe) {s : State} (h : Keep q p up s) :
    Keep q p up (nextOr (execSliceSetShares q0 e0 s) s) := by
  unfold execSliceSetShares
  dsimp -zeta only [nextOr]
  repeat' (first | with_reducible assumption | with_reducible apply State.adminCmd_keep
                 | with_reducible apply State.sliceCmd_keep | with_reducible apply State.succeed_keep
                 | with_reducible apply State.modSlice_keep | (with_reducible refine fun _ => ?_) | split)

theorem State.rebindStep_keep {s : State} (sl : Nat) (x2 : Nat) (h : Keep q p up s) :
    Keep q p up (State.rebindStep s sl x2) := by
  unfold State.rebindStep
  repeat' (first | with_reducible assumption | with_reducible apply State.ctrlReset_keep
                 | with_reducible apply State.fence_keep | split)

theorem State.rebindEnd_keep {s : State} (sl : Nat) (h : Keep q p up s) :
    Keep q p up (State.rebindEnd s sl) := by
  unfold State.rebindEnd
  repeat' (first | with_reducible assumption | with_reducible apply State.modSlice_keep | simp -zeta only [keep_mk]
                 | with_reducible refine keep_like ?_ (by with_reducible rfl))

theorem State.runRebind_keep {s : State} (sl : Nat) (n : Nat) (h : Keep q p up s) :
    Keep q p up (State.runRebind s sl n) := by
  unfold State.runRebind
  repeat' (first | with_reducible assumption | with_reducible apply State.rebindStep_keep
                 | with_reducible apply State.modSlice_keep | with_reducible apply State.rebindEnd_keep
                 | with_reducible apply State.succeed_keep | (with_reducible refine fun _ => ?_)
                 | with_reducible apply keep_foldl | ((try lift_lets); intro s1; subst s1) | split)

theorem execSliceRebind_keep (q0 : Src) (e0 : Sqe) (data : List Byte) (steps : Nat) {s : State} (h : Keep q p up s) :
    Keep q p up (nextOr (execSliceRebind q0 e0 data steps s) s) := by
  unfold execSliceRebind
  dsimp -zeta only [nextOr]
  repeat' (first | with_reducible assumption | with_reducible apply State.runRebind_keep
                 | with_reducible apply State.adminCmd_keep | with_reducible apply State.sliceCmd_keep
                 | with_reducible apply State.fail_keep | with_reducible apply State.moved_keep
                 | with_reducible apply State.modSlice_keep | (with_reducible refine fun _ => ?_)
                 | ((try lift_lets); intro s1; subst s1) | split)

theorem State.releasePaused_keep {s : State} (sl : Nat) (h : Keep q p up s) :
    Keep q p up (State.releasePaused s sl) := by
  unfold State.releasePaused
  repeat' (first | with_reducible assumption | with_reducible apply State.dmaPage_keep
                 | with_reducible apply State.tagPaused_keep | with_reducible apply State.cqePast_keep
                 | (with_reducible refine fun _ => ?_) | with_reducible apply keep_foldl | simp -zeta only [keep_mk]
                 | with_reducible refine keep_like ?_ (by with_reducible rfl) | split)

theorem execMigrationLogStart_keep (q0 : Src) (e0 : Sqe) (data : List Byte) {s : State} (h : Keep q p up s) :
    Keep q p up (nextOr (execMigrationLogStart q0 e0 data s) s) := by
  unfold execMigrationLogStart
  dsimp -zeta only [nextOr]
  repeat' (first | with_reducible assumption | with_reducible apply State.adminCmd_keep
                 | with_reducible apply State.fail_keep | with_reducible apply State.sliceCmd_keep
                 | with_reducible apply State.moved_keep | with_reducible apply State.complete_keep
                 | (with_reducible refine fun _ => ?_) | ((try lift_lets); intro s1; subst s1)
                 | simp -zeta only [keep_mk] | with_reducible refine keep_like ?_ (by with_reducible rfl) | split)

theorem execMigrationLogStop_keep (q0 : Src) (e0 : Sqe) {s : State} (h : Keep q p up s) :
    Keep q p up (nextOr (execMigrationLogStop q0 e0 s) s) := by
  unfold execMigrationLogStop
  dsimp -zeta only [nextOr]
  repeat' (first | with_reducible assumption | with_reducible apply State.adminCmd_keep
                 | with_reducible apply State.sliceCmd_keep | with_reducible apply State.fail_keep
                 | with_reducible apply State.releasePaused_keep | with_reducible apply State.endLog_keep
                 | with_reducible apply State.complete_keep | (with_reducible refine fun _ => ?_) | split)

theorem execMigHeadWrite_keep (n : Nat) (value : W32) {s : State} (h : Keep q p up s) :
    Keep q p up (nextOr (execMigHeadWrite n value s) s) := by
  unfold execMigHeadWrite
  dsimp -zeta only [nextOr]
  repeat' (first | with_reducible assumption | with_reducible apply State.releasePaused_keep
                 | ((try lift_lets); intro s1; subst s1) | simp -zeta only [keep_mk]
                 | with_reducible refine keep_like ?_ (by with_reducible rfl) | split)

theorem State.resendLog_keep {s : State} (n : Nat) (l : MigLog) (h : Keep q p up s) :
    Keep q p up (State.resendLog s n l) := by
  unfold State.resendLog
  repeat' (first | with_reducible assumption | with_reducible apply State.sendRec_keep
                 | with_reducible apply State.releasePaused_keep | (with_reducible refine fun _ => ?_)
                 | with_reducible apply keep_foldl | simp -zeta only [keep_mk]
                 | with_reducible refine keep_like ?_ (by with_reducible rfl))

theorem execManagerPortRestored_keep {s : State} (h : Keep q p up s) :
    Keep q p up (nextOr (execManagerPortRestored s) s) := by
  unfold execManagerPortRestored
  dsimp -zeta only [nextOr]
  repeat' (first | with_reducible assumption | with_reducible apply State.resendLog_keep
                 | (with_reducible refine fun _ => ?_) | with_reducible apply keep_foldl | split)

theorem State.modFw_keep {s : State} (f : Firmware → Firmware) (h : Keep q p up s) :
    Keep q p up (State.modFw s f) := by
  unfold State.modFw
  repeat' (first | with_reducible assumption | simp -zeta only [keep_mk]
                 | with_reducible refine keep_like ?_ (by with_reducible rfl))

theorem State.imageUnit_keep {s : State} (record : Nat) (chan : Nat) (bytes : List Byte) (h : Keep q p up s) :
    Keep q p up (State.imageUnit s record chan bytes) := by
  unfold State.imageUnit
  repeat' (first | with_reducible assumption | with_reducible apply State.takeSeq_keep2
                 | with_reducible apply State.modMedia_keep)

theorem State.imageCopies_keep {s : State} (record : Nat) (d : List Byte) (h : Keep q p up s) :
    Keep q p up (State.imageCopies s record d) := by
  unfold State.imageCopies
  repeat' (first | with_reducible assumption | with_reducible apply State.modMedia_keep
                 | with_reducible apply State.imageUnit_keep | (with_reducible refine fun _ => ?_)
                 | with_reducible apply keep_foldl)

theorem State.storeImage_keep {s : State} (n : Nat) (d : List Byte) (h : Keep q p up s) :
    Keep q p up (State.storeImage s n d) := by
  unfold State.storeImage
  repeat' (first | with_reducible assumption | with_reducible apply State.imageCopies_keep
                 | with_reducible apply State.modFw_keep | split)

theorem execFirmwareImageDownload_keep (q0 : Src) (e0 : Sqe) (data : List Byte) {s : State} (h : Keep q p up s) :
    Keep q p up (nextOr (execFirmwareImageDownload q0 e0 data s) s) := by
  unfold execFirmwareImageDownload
  dsimp -zeta only [nextOr]
  repeat' (first | with_reducible assumption | with_reducible apply State.adminCmd_keep
                 | with_reducible apply State.fail_keep | with_reducible apply State.modFw_keep
                 | with_reducible apply State.drawnN_keep | with_reducible apply State.succeed_keep
                 | with_reducible apply State.moved_keep | (with_reducible refine fun _ => ?_)
                 | ((try lift_lets); intro s1; subst s1) | split)

theorem State.activateNext_keep {s : State} (n : Nat) (h : Keep q p up s) :
    Keep q p up (State.activateNext s n) := by
  unfold State.activateNext
  repeat' (first | with_reducible assumption | with_reducible apply State.modFw_keep)

theorem State.startActivation_keep {s : State} (q0 : Src) (cid : W16) (n : Nat) (h : Keep q p up s) :
    Keep q p up (State.startActivation s q0 cid n) := by
  unfold State.startActivation
  repeat' (first | with_reducible assumption | with_reducible apply State.raiseEvent_keep
                 | with_reducible apply State.modFw_keep | (with_reducible refine fun _ => ?_)
                 | with_reducible apply keep_foldl | split)

theorem execFirmwareCommit_keep (q0 : Src) (e0 : Sqe) {s : State} (h : Keep q p up s) :
    Keep q p up (nextOr (execFirmwareCommit q0 e0 s) s) := by
  unfold execFirmwareCommit
  dsimp -zeta only [nextOr]
  repeat' (first | with_reducible assumption | with_reducible apply State.adminCmd_keep
                 | with_reducible apply State.fail_keep | with_reducible apply State.succeed_keep
                 | with_reducible apply State.activateNext_keep | with_reducible apply State.modFw_keep
                 | with_reducible apply State.storeImage_keep | with_reducible apply State.drawn_keep
                 | with_reducible apply State.startActivation_keep | (with_reducible refine fun _ => ?_)
                 | ((try lift_lets); intro s1; subst s1) | split)

theorem State.measureStage2_keep {s : State} (n : Nat) (h : Keep q p up s) :
    Keep q p up (State.measureStage2 s n) := by
  unfold State.measureStage2
  repeat' (first | with_reducible assumption | with_reducible apply State.eventMr_keep
                 | ((try lift_lets); intro s1; refine keep_cut (q := q) (p := p) (up := up) (s := s1) ?_ ?_; rotate_left; clear_value s1; intro _; rotate_left; subst s1)
                 | simp -zeta only [keep_mk] | with_reducible refine keep_like ?_ (by with_reducible rfl) | split)

theorem execFirmwareActivationResume_keep {s : State} (h : Keep q p up s) :
    Keep q p up (nextOr (execFirmwareActivationResume s) s) := by
  unfold execFirmwareActivationResume
  dsimp -zeta only [nextOr]
  repeat' (first | with_reducible assumption | with_reducible apply State.modFw_keep
                 | with_reducible apply State.measureStage2_keep | with_reducible apply State.succeed_keep
                 | with_reducible apply State.drainCqes_keep | with_reducible apply keep_foldl | split)

theorem State.endTest_keep {s : State} (result : Nat) (h : Keep q p up s) :
    Keep q p up (State.endTest s result) := by
  unfold State.endTest
  repeat' (first | with_reducible assumption | simp -zeta only [keep_mk]
                 | with_reducible refine keep_like ?_ (by with_reducible rfl) | split | dsimp only)

theorem execDeviceSelfTest_keep (q0 : Src) (e0 : Sqe) {s : State} (h : Keep q p up s) :
    Keep q p up (nextOr (execDeviceSelfTest q0 e0 s) s) := by
  unfold execDeviceSelfTest
  dsimp -zeta only [nextOr]
  repeat' (first | with_reducible assumption | with_reducible apply State.adminCmd_keep
                 | with_reducible apply State.fail_keep | with_reducible apply State.succeed_keep
                 | (with_reducible refine fun _ => ?_) | ((try lift_lets); intro s1; subst s1)
                 | simp -zeta only [keep_mk] | with_reducible refine keep_like ?_ (by with_reducible rfl) | split)

theorem execDeviceSelfTestAbort_keep (q0 : Src) (e0 : Sqe) {s : State} (h : Keep q p up s) :
    Keep q p up (nextOr (execDeviceSelfTestAbort q0 e0 s) s) := by
  unfold execDeviceSelfTestAbort
  dsimp -zeta only [nextOr]
  repeat' (first | with_reducible assumption | with_reducible apply State.adminCmd_keep
                 | with_reducible apply State.succeed_keep | with_reducible apply State.endTest_keep
                 | (with_reducible refine fun _ => ?_) | split)

theorem execDeviceSelfTestComplete_keep (passed : Bool) {s : State} (h : Keep q p up s) :
    Keep q p up (nextOr (execDeviceSelfTestComplete passed s) s) := by
  unfold execDeviceSelfTestComplete
  dsimp -zeta only [nextOr]
  repeat' (first | with_reducible assumption | with_reducible apply State.endTest_keep)

theorem State.modPwr_keep {s : State} (f : Power → Power)
    (hf : ∀ x : Power, (f x).phase = x.phase ∧ (f x).rails = x.rails ∧ (f x).perst = x.perst) (h : Keep q p up s) :
    Keep q p up (State.modPwr s f) := by
  refine (keep_mk ..).2 (keep_like h ?_)
  simp only [keepCore, hf]

/-- A phase up to 5, which is 5 only with the rails up and PERST_N high. -/
theorem State.modPwr_phase_keep {s : State} (f : Power → Power) (hf : (f s.dev.pwr).phase.toNat ≤ 5)
    (hr : (f s.dev.pwr).rails = s.dev.pwr.rails ∧ (f s.dev.pwr).perst = s.dev.pwr.perst)
    (hu : (f s.dev.pwr).phase = 5 → up) (h : Keep q p up s) : Keep q p up (State.modPwr s f) := by
  refine ⟨h.1, fun hp => ⟨h.dram hp, h.hm hp, ?_⟩, fun hup => ?_⟩
  · obtain ⟨h1, h2, h3, h4, h5, _⟩ := h.dev hp
    refine ⟨h1, h2, h3, h4, h5, hf, fun h5 => ?_⟩
    have := h.2.2 (hu h5)
    exact ⟨hr.1.trans this.1, hr.2.trans this.2⟩
  · exact ⟨hr.1.trans (h.2.2 hup).1, hr.2.trans (h.2.2 hup).2⟩

theorem State.landPrograms_keep {s : State} (h : Keep q p up s) :
    Keep q p up (State.landPrograms s) := by
  unfold State.landPrograms
  repeat' (first | with_reducible assumption | with_reducible apply State.rewriteProgram_keep
                 | with_reducible apply State.programOk_keep | (with_reducible refine fun _ => ?_)
                 | with_reducible apply keep_foldl | split)

theorem State.drainBuffer_keep (n : Nat) : ∀ {s : State}, Keep q p up s → Keep q p up (State.drainBuffer n s) := by
  induction n with
  | zero => exact fun h => h
  | succ n ih =>
    intro s h
    unfold State.drainBuffer
    have h1 := State.dispatchProgram_keep (2 ^ 20) true h
    exact keep_ite h (ih (keep_ite (State.modMedia_keep _ h1) (State.landPrograms_keep h1)))

theorem State.flushJournal_keep (n : Nat) : ∀ {s : State}, Keep q p up s → Keep q p up (State.flushJournal s n) := by
  induction n with
  | zero => exact fun h => h
  | succ n ih =>
    intro s h
    unfold State.flushJournal
    exact keep_ite h (ih (State.modMedia_keep _ (State.landPrograms_keep (State.dispatchProgram_keep 0 true h))))

theorem State.flushParity_keep {s : State} (h : Keep q p up s) :
    Keep q p up (State.flushParity s) := by
  unfold State.flushParity
  repeat' (first | with_reducible assumption | with_reducible apply State.parityDone_keep
                 | (with_reducible refine fun _ => ?_) | with_reducible apply keep_foldl)

theorem State.flushBuffer_keep {s : State} (h : Keep q p up s) :
    Keep q p up (State.flushBuffer s) := by
  unfold State.flushBuffer
  repeat' (first | with_reducible assumption | with_reducible apply State.modMedia_keep
                 | with_reducible apply State.landPrograms_keep | with_reducible apply State.flushJournal_keep
                 | with_reducible apply State.drainBuffer_keep | with_reducible apply State.keeperData_keep
                 | with_reducible apply State.flushParity_keep | split)

theorem State.zeroize_keep {s : State} (h : Keep q p up s) :
    Keep q p up (State.zeroize s) := by
  unfold State.zeroize
  repeat' (first | with_reducible assumption | with_reducible apply State.modMedia_keep
                 | ((try lift_lets); intro s1; refine keep_cut (q := q) (p := p) (up := up) (s := s1) ?_ ?_; rotate_left; clear_value s1; intro _; rotate_left; subst s1)
                 | simp -zeta only [keep_mk] | with_reducible refine keep_like ?_ (by with_reducible rfl))

theorem State.dropInFlight_keep {s : State} (h : Keep q p up s) :
    Keep q p up (State.dropInFlight s) := by
  unfold State.dropInFlight
  repeat' (first | with_reducible assumption | with_reducible apply State.modMedia_keep | simp -zeta only [keep_mk]
                 | with_reducible refine keep_like ?_ (by with_reducible rfl))

end Sys2Proof.Machine
end

