-- ==== Sys2Proof/Laws/Keep12.lean ====
section
/-! SUPPORT. What each function keeps, from `State.powerFlush` to `State.sramLogged`: one lemma per function, cited by the functions that
call it. -/

namespace Sys2Proof.Machine

variable {q : List Instr} {p up : Prop}

theorem State.powerFlush_keep {s : State} (h : Keep q p up s) :
    Keep q p up (State.powerFlush s) := by
  unfold State.powerFlush
  repeat' (first | with_reducible assumption | with_reducible apply State.takeCore_keep
                 | with_reducible apply State.enterPanic_keep | with_reducible apply State.flushBuffer_keep
                 | with_reducible refine State.modPwr_keep _ (fun _ => ⟨rfl, rfl, rfl⟩) ?_
                 | with_reducible apply State.zeroize_keep | with_reducible apply State.dropInFlight_keep
                 | (with_reducible refine fun _ => ?_) | with_reducible apply keep_foldl | split)

theorem State.flushOnce_keep {s : State} (h : Keep q p up s) :
    Keep q p up (State.flushOnce s) := by
  unfold State.flushOnce
  repeat' (first | with_reducible assumption | with_reducible apply State.powerFlush_keep | split)

theorem State.topRates_keep {s : State} (h : Keep q p up s) :
    Keep q p up (State.topRates s) := by
  unfold State.topRates
  repeat' (first | with_reducible assumption | with_reducible apply State.modMedia_keep
                 | with_reducible apply State.startRate_keep | (with_reducible refine fun _ => ?_)
                 | with_reducible apply keep_foldl | ((try lift_lets); intro s1; subst s1) | split)

theorem execPlpWarnAssert_keep {s : State} (h : Keep q p up s) :
    Keep q p up (nextOr (execPlpWarnAssert s) s) := by
  unfold execPlpWarnAssert
  dsimp -zeta only [nextOr]
  repeat' (first | with_reducible assumption
                 | with_reducible refine State.modPwr_keep _ (fun _ => ⟨rfl, rfl, rfl⟩) ?_
                 | with_reducible apply State.flushOnce_keep | with_reducible apply State.topRates_keep | split)

theorem State.loseIu_keep {s : State} (x : Nat) (iu : Nat) (h : Keep q p up s) :
    Keep q p up (State.loseIu s x iu) := by
  unfold State.loseIu
  repeat' (first | with_reducible assumption | with_reducible apply State.modNs_keep
                 | with_reducible apply State.modMedia_keep | split)

theorem State.loseBuffer_keep {s : State} (h : Keep q p up s) :
    Keep q p up (State.loseBuffer s) := by
  unfold State.loseBuffer
  repeat' (first | with_reducible assumption | with_reducible apply State.loseIu_keep
                 | with_reducible apply State.modMedia_keep | (with_reducible refine fun _ => ?_)
                 | with_reducible apply keep_foldl)

theorem State.downCompute_keep {s : State} (h : Keep q p up s) :
    Keep q p up (State.downCompute s) := by
  unfold State.downCompute
  repeat' (first | with_reducible assumption | simp -zeta only [keep_mk]
                 | with_reducible refine keep_like ?_ (by with_reducible rfl))

theorem State.downHost_keep {s : State} (h : Keep q p up s) :
    Keep q p up (State.downHost s) := by
  unfold State.downHost
  repeat' (first | with_reducible assumption | simp -zeta only [keep_mk]
                 | with_reducible refine keep_like ?_ (by with_reducible rfl))

theorem State.downDram_keep {s : State} (h : Keep q p up s) : Keep q p up (State.downDram s) :=
  ⟨h.1, fun hp => ⟨⟨by simp [State.downDram], rfl⟩, h.hm hp, h.dev hp⟩, h.2.2⟩

theorem State.downDevice_keep {s : State} (h : Keep q p up s) : Keep q p up (State.downDevice s) := by
  have h1 := State.endTest_keep 2 h
  unfold State.downDevice
  simp only []
  refine ⟨h1.1, fun hp => ⟨h1.dram hp, h1.hm hp, ?_⟩, h1.2.2⟩
  refine ⟨(h1.dev hp).1, Nat.zero_le _, Nat.zero_le _, by simp, ?_, Nat.zero_le _, fun h => absurd h (by decide : ¬ (0#3 = 5))⟩
  show ∀ x ∈ ({} : Device).apst, x.2 ≠ 0 → x.1 = 3 ∨ x.1 = 4
  decide

theorem State.downHallmark_keep {s : State} (h : Keep q p up s) :
    Keep q p up (State.downHallmark s) := by
  unfold State.downHallmark
  repeat' (first | with_reducible assumption | ((try lift_lets); intro s1; subst s1) | simp -zeta only [keep_mk]
                 | with_reducible refine keep_like ?_ (by with_reducible rfl))

theorem State.downRel_keep {s : State} (h : Keep q p up s) :
    Keep q p up (State.downRel s) := by
  unfold State.downRel
  repeat' (first | with_reducible assumption | simp -zeta only [keep_mk]
                 | with_reducible refine keep_like ?_ (by with_reducible rfl))

theorem State.downMedia_keep {s : State} (h : Keep q p up s) :
    Keep q p up (State.downMedia s) := by
  unfold State.downMedia
  repeat' (first | with_reducible assumption | with_reducible apply State.modMedia_keep)

theorem State.deviceDown_keep {s : State} (h : Keep q p up s) : Keep q p up (State.deviceDown s) := by
  unfold State.deviceDown
  exact State.downDevice_keep (State.downMedia_keep (State.downRel_keep (State.downHallmark_keep (State.downDram_keep
    (State.downHost_keep (State.downCompute_keep (State.dropInFlight_keep (keep_ite h (State.loseBuffer_keep h)))))))))

/-- The device is not ready after it has gone down. -/
theorem State.deviceDown_phase (s : State) : (State.deviceDown s).dev.pwr.phase = 0 := rfl

/-- PERST_N may assert once the device is not ready. -/
theorem State.modPwr_down_keep {s : State} (f : Power → Power) (hs : s.dev.pwr.phase = 0) (hf : (f s.dev.pwr).phase = s.dev.pwr.phase)
    (h : Keep q p up s) : Keep q p False (State.modPwr s f) := by
  refine ⟨h.1, fun hp => ⟨h.dram hp, h.hm hp, ?_⟩, False.elim⟩
  obtain ⟨h1, h2, h3, h4, h5, h6, h7⟩ := h.dev hp
  refine ⟨h1, h2, h3, h4, h5, ?_, fun hh => ?_⟩
  · show (f s.dev.pwr).phase.toNat ≤ 5
    rw [hf]; exact h6
  · have : (f s.dev.pwr).phase = 5 := hh
    rw [hf, hs] at this
    exact absurd this (by decide)

theorem execPowerOn_keep {s : State} (h : Keep q p False s) : Keep q p False (nextOr (execPowerOn s) s) := by
  unfold execPowerOn
  simp only [nextOr]
  split
  · exact h
  · rename_i hr
    refine ⟨h.1, fun hp => ⟨h.dram hp, h.hm hp, ?_⟩, False.elim⟩
    obtain ⟨h1, h2, h3, h4, h5, h6, h7⟩ := h.dev hp
    exact ⟨h1, h2, h3, h4, h5, h6, fun hh => absurd (h7 hh).1 hr⟩

theorem execPowerRemoved_keep {s : State} (h : Keep q p False s) : Keep q p False (nextOr (execPowerRemoved s) s) := by
  unfold execPowerRemoved
  simp only [nextOr]
  refine keep_ite h ?_
  have h1 : Keep q p False (if s.dev.pwr.made = true then { s with
      dev := { s.dev with smart := { s.dev.smart with unsafe_ := s.dev.smart.unsafe_ + (if s.dev.pwr.shut then 0 else 1) } }
      meter := { s.meter with powerCut := true } } else s) :=
    keep_ite ((keep_mk ..).2 (keep_like h rfl)) h
  have h2 := State.modPwr_down_keep (fun x => { x with
    rails := false, perst := true, reboot := false, plpWarn := false, holdup := false, shut := false
    lastDown := if s.dev.pwr.made then s.dev.pwr.ending else x.lastDown }) (State.deviceDown_phase _) rfl (State.deviceDown_keep h1)
  exact (keep_mk ..).2 (keep_like h2 rfl)

theorem execPerstNAssert_keep {s : State} (h : Keep q p False s) : Keep q p False (nextOr (execPerstNAssert s) s) := by
  unfold execPerstNAssert
  simp only [nextOr]
  exact keep_ite h (State.modPwr_down_keep _ (State.deviceDown_phase _) rfl (State.deviceDown_keep (State.flushOnce_keep h)))

theorem State.internalReset_keep {s : State} (h : Keep q p up s) :
    Keep q p up (State.internalReset s) := by
  unfold State.internalReset
  repeat' (first | with_reducible assumption
                 | with_reducible refine State.modPwr_keep _ (fun _ => ⟨rfl, rfl, rfl⟩) ?_
                 | with_reducible apply State.deviceDown_keep)

theorem execPlpWarnRelease_keep {s : State} (h : Keep q p up s) :
    Keep q p up (nextOr (execPlpWarnRelease s) s) := by
  unfold execPlpWarnRelease
  dsimp -zeta only [nextOr]
  repeat' (first | with_reducible assumption
                 | with_reducible refine State.modPwr_keep _ (fun _ => ⟨rfl, rfl, rfl⟩) ?_
                 | with_reducible apply State.internalReset_keep
                 | ((try lift_lets); intro s1; refine keep_cut (q := q) (p := p) (up := up) (s := s1) ?_ ?_; rotate_left; clear_value s1; intro _; rotate_left; subst s1)
                 | split)

theorem State.writeThrough_keep {s : State} (h : Keep q p up s) :
    Keep q p up (State.writeThrough s) := by
  unfold State.writeThrough
  repeat' (first | with_reducible assumption | with_reducible apply State.setWarn_keep
                 | with_reducible apply State.modMedia_keep)

theorem execHoldupOkDrop_keep {s : State} (h : Keep q p up s) :
    Keep q p up (nextOr (execHoldupOkDrop s) s) := by
  unfold execHoldupOkDrop
  dsimp -zeta only [nextOr]
  repeat' (first | with_reducible assumption
                 | with_reducible refine State.modPwr_keep _ (fun _ => ⟨rfl, rfl, rfl⟩) ?_
                 | with_reducible apply State.requestRepl_keep | with_reducible apply State.writeThrough_keep
                 | ((try lift_lets); intro s1; refine keep_cut (q := q) (p := p) (up := up) (s := s1) ?_ ?_; rotate_left; clear_value s1; intro _; rotate_left; subst s1)
                 | split)

theorem State.tamperRecord_keep {s : State} (c : TamperClass) (sensor : Byte) (h : Keep q p up s) :
    Keep q p up (State.tamperRecord s c sensor) := by
  unfold State.tamperRecord
  repeat' (first | with_reducible assumption | ((try lift_lets); intro s1; subst s1) | simp -zeta only [keep_mk]
                 | with_reducible refine keep_like ?_ (by with_reducible rfl))

theorem State.respond_keep {s : State} (c : TamperClass) (sensor : Byte) (h : Keep q p up s) :
    Keep q p up (State.respond s c sensor) := by
  unfold State.respond
  repeat' (first | with_reducible assumption | with_reducible apply State.internalReset_keep
                 | with_reducible apply State.tamperRecord_keep | with_reducible apply State.zeroize_keep
                 | with_reducible apply State.flushOnce_keep | with_reducible apply State.enterFault_keep
                 | simp -zeta only [keep_mk] | with_reducible refine keep_like ?_ (by with_reducible rfl) | split)

theorem State.trip_keep {s : State} (c : TamperClass) (sensor : TamperSensor) (h : Keep q p up s) :
    Keep q p up (State.trip s c sensor) := by
  unfold State.trip
  repeat' (first | with_reducible assumption | with_reducible apply State.respond_keep
                 | ((try lift_lets); intro s1; subst s1) | split)

theorem execTamperClassE_keep (sensor : TamperSensor) {s : State} (h : Keep q p up s) :
    Keep q p up (nextOr (execTamperClassE sensor s) s) := by
  unfold execTamperClassE
  dsimp -zeta only [nextOr]
  repeat' (first | with_reducible assumption | with_reducible apply State.trip_keep)

theorem execTamperClassG_keep (sensor : TamperSensor) {s : State} (h : Keep q p up s) :
    Keep q p up (nextOr (execTamperClassG sensor s) s) := by
  unfold execTamperClassG
  dsimp -zeta only [nextOr]
  repeat' (first | with_reducible assumption | with_reducible apply State.trip_keep)

theorem execTamperClassP_keep (sensor : TamperSensor) {s : State} (h : Keep q p up s) :
    Keep q p up (nextOr (execTamperClassP sensor s) s) := by
  unfold execTamperClassP
  dsimp -zeta only [nextOr]
  repeat' (first | with_reducible assumption | with_reducible apply State.trip_keep)

theorem State.hallmarkFault_keep {s : State} (h : Keep q p up s) :
    Keep q p up (State.hallmarkFault s) := by
  unfold State.hallmarkFault
  repeat' (first | with_reducible assumption | with_reducible apply State.drawn_keep
                 | with_reducible apply State.respond_keep
                 | ((try lift_lets); intro s1; refine keep_cut (q := q) (p := p) (up := up) (s := s1) ?_ ?_; rotate_left; clear_value s1; intro _; rotate_left; subst s1)
                 | simp -zeta only [keep_mk] | with_reducible refine keep_like ?_ (by with_reducible rfl))

theorem execKeyBusTransfer_keep (dest : KeyDest) (parityOk : Bool) {s : State} (h : Keep q p up s) :
    Keep q p up (nextOr (execKeyBusTransfer dest parityOk s) s) := by
  unfold execKeyBusTransfer
  dsimp -zeta only [nextOr]
  repeat' (first | with_reducible assumption | with_reducible apply State.modMedia_keep
                 | with_reducible apply State.modDchan_keep | with_reducible apply State.setUnit_keep
                 | with_reducible apply State.hallmarkFault_keep | ((try lift_lets); intro s1; subst s1)
                 | simp -zeta only [keep_mk] | with_reducible refine keep_like ?_ (by with_reducible rfl) | split)

theorem execJtagIdcode_keep {s : State} (h : Keep q p up s) :
    Keep q p up (nextOr (execJtagIdcode s) s) := by
  unfold execJtagIdcode
  dsimp -zeta only [nextOr]
  repeat' (first | with_reducible assumption | with_reducible apply State.jtagOut_keep)

theorem execJtagBypass_keep (code : Byte) {s : State} (h : Keep q p up s) :
    Keep q p up (nextOr (execJtagBypass code s) s) := by
  unfold execJtagBypass
  dsimp -zeta only [nextOr]
  repeat' (first | with_reducible assumption | with_reducible apply State.jtagOut_keep | split)

theorem State.resetAll_keep {s : State} (h : Keep q p up s) :
    Keep q p up (State.resetAll s) := by
  unfold State.resetAll
  repeat' (first | with_reducible assumption | with_reducible apply State.runRebind_keep
                 | with_reducible apply State.runReset_keep | (with_reducible refine fun _ => ?_)
                 | with_reducible apply keep_foldl | split)

theorem State.eraseKeys_keep {s : State} (h : Keep q p up s) :
    Keep q p up (State.eraseKeys s) := by
  unfold State.eraseKeys
  repeat' (first | with_reducible assumption | with_reducible apply State.newMediaKey_keep
                 | with_reducible apply State.bumpSlot_keep | with_reducible apply State.checkNv_keep
                 | with_reducible apply State.wrapTable_keep | with_reducible apply State.drawn_keep
                 | with_reducible apply keep_foldl
                 | ((try lift_lets); intro s1; refine keep_cut (q := q) (p := p) (up := up) (s := s1) ?_ ?_; rotate_left; clear_value s1; intro _; rotate_left; subst s1)
                 | simp -zeta only [keep_mk]
                 | with_reducible refine keep_mix ?_ ?_ ?_ ?_ (by with_reducible rfl) (by with_reducible rfl) (by with_reducible rfl) (by with_reducible rfl))

theorem execJtagUnlock_keep (token : List Byte) {s : State} (h : Keep q p up s) :
    Keep q p up (nextOr (execJtagUnlock token s) s) := by
  unfold execJtagUnlock
  dsimp -zeta only [nextOr]
  repeat' (first | with_reducible assumption | with_reducible apply State.newChallenge_keep
                 | with_reducible apply State.eventMr_keep | with_reducible apply State.eraseKeys_keep
                 | with_reducible apply State.keyCommit_keep | with_reducible apply State.resetAll_keep
                 | with_reducible apply hf | (with_reducible refine fun _ => ?_) | with_reducible apply keep_foldl
                 | with_reducible apply keep_foldl_fst
                 | ((try lift_lets); intro s1; refine keep_cut (q := q) (p := p) (up := up) (s := s1) ?_ ?_; rotate_left; clear_value s1; intro _; rotate_left; subst s1)
                 | ((try lift_lets); intro s1; subst s1) | dsimp -zeta only | simp -zeta only [keep_mk]
                 | with_reducible refine keep_like ?_ (by with_reducible rfl)
                 | with_reducible refine keep_mix ?_ ?_ ?_ ?_ (by with_reducible rfl) (by with_reducible rfl) (by with_reducible rfl) (by with_reducible rfl)
                 | split | intro _ | dsimp only)

theorem State.latchStraps_keep {s : State} (v : BitVec 10)
    (h : Keep q p up s) : Keep q p up (State.latchStraps s v) := by
  refine ⟨h.1, fun hp => ⟨h.dram hp, h.hm hp, ?_⟩, h.2.2⟩
  obtain ⟨_, h2⟩ := h.dev hp
  refine ⟨?_, h2⟩
  simp only [State.latchStraps]
  split
  · assumption
  · unfold splitPorts
    split
    · decide
    · split <;> decide

theorem State.bootKeys_keep {s : State} (h : Keep q p up s) :
    Keep q p up (State.bootKeys s) := by
  unfold State.bootKeys
  repeat' (first | with_reducible assumption | with_reducible apply State.drawn_keep
                 | with_reducible apply State.newChallenge_keep
                 | ((try lift_lets); intro s1; refine keep_cut (q := q) (p := p) (up := up) (s := s1) ?_ ?_; rotate_left; clear_value s1; intro _; rotate_left; subst s1)
                 | simp -zeta only [keep_mk]
                 | with_reducible refine keep_mix ?_ ?_ ?_ ?_ (by with_reducible rfl) (by with_reducible rfl) (by with_reducible rfl) (by with_reducible rfl))

theorem State.afterUnlock_keep {s : State} (h : Keep q p up s) :
    Keep q p up (State.afterUnlock s) := by
  unfold State.afterUnlock
  repeat' (first | with_reducible assumption | with_reducible apply State.eventMr_keep | simp -zeta only [keep_mk]
                 | with_reducible refine keep_like ?_ (by with_reducible rfl))

theorem State.tamperReport_keep {s : State} (h : Keep q p up s) :
    Keep q p up (State.tamperReport s) := by
  unfold State.tamperReport
  repeat' (first | with_reducible assumption | with_reducible apply State.logFault_keep
                 | with_reducible apply State.eventMr_keep | with_reducible apply State.setWarn_keep
                 | (with_reducible refine fun _ => ?_) | with_reducible apply keep_foldl | simp -zeta only [keep_mk]
                 | with_reducible refine keep_like ?_ (by with_reducible rfl) | split)

theorem State.knowSlot_keep {s : State} (n : Nat) (svn : Nat) (rev : List Byte) (h : Keep q p up s) :
    Keep q p up (State.knowSlot s n svn rev) := by
  unfold State.knowSlot
  repeat' (first | with_reducible assumption | with_reducible apply State.modFw_keep
                 | with_reducible apply State.drawnN_keep | split)

theorem State.runSlot_keep {s : State} (n : Nat) (h : Keep q p up s) :
    Keep q p up (State.runSlot s n) := by
  unfold State.runSlot
  repeat' (first | with_reducible assumption | with_reducible apply State.modFw_keep
                 | with_reducible apply State.eventMr_keep | with_reducible apply State.measureStage2_keep)

theorem State.selfTest_keep {s : State} (env : BootEnv) (h : Keep q p up s) :
    Keep q p up (State.selfTest s env) := by
  unfold State.selfTest
  repeat' (first | with_reducible assumption | with_reducible apply State.failLink_keep
                 | with_reducible apply State.coreFault_keep | with_reducible apply State.retireUnit_keep
                 | (with_reducible refine fun _ => ?_) | with_reducible apply keep_foldl | simp -zeta only [keep_mk]
                 | with_reducible refine keep_like ?_ (by with_reducible rfl) | split)

theorem State.trainFlash_keep {s : State} (env : BootEnv) (h : Keep q p up s) :
    Keep q p up (State.trainFlash s env) := by
  unfold State.trainFlash
  repeat' (first | with_reducible assumption | with_reducible apply State.modMedia_keep)

theorem State.formArray_keep {s : State} (chips : List Chip) (first : Chip) (h : Keep q p up s) :
    Keep q p up (State.formArray s chips first) := by
  unfold State.formArray
  repeat' (first | with_reducible assumption | with_reducible apply State.modMedia_keep
                 | with_reducible apply State.enterColumn_keep | (with_reducible refine fun _ => ?_)
                 | with_reducible apply keep_foldl)

theorem State.formFlash_keep {s : State} (env : BootEnv) (h : Keep q p up s) :
    Keep q p up (State.formFlash s env) := by
  unfold State.formFlash
  repeat' (first | with_reducible assumption | with_reducible apply State.trainFlash_keep
                 | with_reducible apply State.formArray_keep | with_reducible apply State.logFault_keep
                 | (with_reducible refine fun _ => ?_) | with_reducible apply keep_foldl
                 | ((try lift_lets); intro s1; subst s1) | split)

theorem State.hardRepair_keep {s : State} (h : Keep q p up s) :
    Keep q p up (State.hardRepair s) := by
  unfold State.hardRepair
  repeat' (first | with_reducible assumption | with_reducible apply State.requestRepl_keep
                 | with_reducible apply State.logFault_keep | (with_reducible refine fun _ => ?_)
                 | with_reducible apply keep_foldl_fst | ((try lift_lets); intro s1; subst s1)
                 | simp -zeta only [keep_mk] | with_reducible refine keep_like ?_ (by with_reducible rfl) | split)

theorem State.tin_keep {s : State} (h : Keep q p up s) :
    Keep q p up (State.tin s) := by
  unfold State.tin
  repeat' (first | with_reducible assumption | with_reducible apply State.drawDomain_keep
                 | with_reducible apply keep_foldl | simp -zeta only [keep_mk]
                 | with_reducible refine keep_like ?_ (by with_reducible rfl))

theorem State.noticeNs_keep {s : State} (x : Nat) (h : Keep q p up s) :
    Keep q p up (State.noticeNs s x) := by
  unfold State.noticeNs
  repeat' (first | with_reducible assumption | with_reducible apply State.modCtrl_keep)

theorem State.replayAct_keep {s : State} (a : KeyAct) (h : Keep q p up s) :
    Keep q p up (State.replayAct s a) := by
  unfold State.replayAct
  repeat' (first | with_reducible assumption | with_reducible apply State.applyAct_keep
                 | with_reducible apply State.noticeNs_keep | with_reducible apply keep_foldl | split)

theorem State.replayKeys_keep {s : State} (h : Keep q p up s) :
    Keep q p up (State.replayKeys s) := by
  unfold State.replayKeys
  repeat' (first | with_reducible assumption | with_reducible apply State.wrapTable_keep
                 | with_reducible apply State.replayAct_keep | with_reducible apply State.drawn_keep
                 | with_reducible apply State.modMedia_keep | (with_reducible refine fun _ => ?_)
                 | with_reducible apply keep_foldl | ((try lift_lets); intro s1; subst s1)
                 | simp -zeta only [keep_mk] | with_reducible refine keep_like ?_ (by with_reducible rfl) | split)

theorem State.replaySlice_keep {s : State} (sl : Nat) (h : Keep q p up s) :
    Keep q p up (State.replaySlice s sl) := by
  unfold State.replaySlice
  repeat' (first | with_reducible assumption | with_reducible apply State.modSlice_keep
                 | with_reducible apply State.runRebind_keep | with_reducible apply State.runReset_keep
                 | with_reducible apply State.deleteSlice_keep | ((try lift_lets); intro s1; subst s1) | split)

theorem State.replaySet_keep {s : State} (n : Nat) (h : Keep q p up s) :
    Keep q p up (State.replaySet s n) := by
  unfold State.replaySet
  repeat' (first | with_reducible assumption | with_reducible apply State.cutSet_keep
                 | with_reducible apply State.startErase_keep | with_reducible apply State.setErased_keep
                 | with_reducible apply State.modMedia_keep | ((try lift_lets); intro s1; subst s1) | split)

theorem State.replaySets_keep {s : State} (h : Keep q p up s) :
    Keep q p up (State.replaySets s) := by
  unfold State.replaySets
  repeat' (first | with_reducible assumption | with_reducible apply State.replaySet_keep
                 | with_reducible apply State.nakedStripe_keep | with_reducible apply State.modMedia_keep
                 | (with_reducible refine fun _ => ?_) | with_reducible apply keep_foldl)

theorem State.replay_keep {s : State} (h : Keep q p up s) :
    Keep q p up (State.replay s) := by
  unfold State.replay
  repeat' (first | with_reducible assumption | with_reducible apply State.replayKeys_keep
                 | with_reducible apply State.replaySets_keep | with_reducible apply State.signerNext_keep
                 | with_reducible apply State.replaySlice_keep | with_reducible apply State.startCommit_keep
                 | (with_reducible refine fun _ => ?_) | with_reducible apply keep_foldl | simp -zeta only [keep_mk]
                 | with_reducible refine keep_like ?_ (by with_reducible rfl))

theorem State.recheck_keep {s : State} (h : Keep q p up s) :
    Keep q p up (State.recheck s) := by
  unfold State.recheck
  repeat' (first | with_reducible assumption | with_reducible apply State.requestRepl_keep
                 | with_reducible apply State.checkNv_keep | with_reducible apply State.checkSpare_keep
                 | with_reducible apply State.setWarn_keep | (with_reducible refine fun _ => ?_)
                 | with_reducible apply keep_foldl | ((try lift_lets); intro s1; subst s1) | split)

theorem State.holdupCheck_keep {s : State} (high : Bool) (h : Keep q p up s) :
    Keep q p up (State.holdupCheck s high) := by
  unfold State.holdupCheck
  repeat' (first | with_reducible assumption
                 | with_reducible refine State.modPwr_keep _ (fun _ => ⟨rfl, rfl, rfl⟩) ?_
                 | with_reducible apply State.requestRepl_keep | with_reducible apply State.writeThrough_keep
                 | ((try lift_lets); intro s1; refine keep_cut (q := q) (p := p) (up := up) (s := s1) ?_ ?_; rotate_left; clear_value s1; intro _; rotate_left; subst s1)
                 | split)

/-- The device is ready only with its rails up and PERST_N high. -/
theorem State.ready_keep {s : State} (h : Keep q p True s) : Keep q p True (State.ready s) := by
  unfold State.ready
  have h1 := State.modPwr_phase_keep (fun p => { p with
    phase := 5, wpLow := false, lastDown := if p.made then p.lastDown else 3, made := true, marker := false, warned := false })
    (by show (5#3).toNat ≤ 5; decide) ⟨rfl, rfl⟩ (fun _ => trivial) h
  exact (keep_mk ..).2 (keep_like h1 rfl)

theorem State.bootStage2_keep {s : State} (env : BootEnv)
    (h : Keep q p True s) : Keep q p True (State.bootStage2 s env) := by
  unfold State.bootStage2
  refine keep_ite ?_ ?_
  · exact State.enterFault_keep _ (State.modPwr_phase_keep _ (by show (1#3).toNat ≤ 5; decide) ⟨rfl, rfl⟩ (fun _ => trivial) h)
  · have h0 : Keep q p True { s with dram := { s.dram with trained := true } } := (keep_mk ..).2 (keep_like h rfl)
    have h1 := State.tin_keep (State.hardRepair_keep (State.formFlash_keep env h0))
    have h2 := fun b => State.eventMr_keep 4 0x14 b h1
    exact State.ready_keep (State.holdupCheck_keep _ (State.recheck_keep (State.replay_keep (State.modMedia_keep _ (h2 _)))))

theorem State.boot_keep {s : State} (env : BootEnv) (h : Keep q p True s) : Keep q p True (State.boot s env) := by
  unfold State.boot
  refine keep_ite h (keep_ite ?_ ?_)
  · exact State.modPwr_phase_keep _ (by show (3#3).toNat ≤ 5; decide) ⟨rfl, rfl⟩ (fun _ => trivial) h
  · have h1 := State.bootKeys_keep h
    have h2 := State.tamperReport_keep (keep_ite (c := s.hm.erased = true) (State.afterUnlock_keep h1) h1)
    have hf : ∀ t, Keep q p True t → Keep q p True (if t.rel.hmFault = true then
        (State.requestRepl (State.logFault { t with rel := { t.rel with hmFault := false } } 0x16 3 [0] none [0] [0]) 13) else t) :=
      fun t ht => keep_ite (State.requestRepl_keep 13 (State.logFault_keep 0x16 3 [0] none [0] [0] ((keep_mk ..).2 (keep_like ht rfl)))) ht
    have h3 := hf _ h2
    dsimp only
    refine keep_ite (State.enterFault_keep _ h3) ?_
    split
    · exact State.enterFault_keep _ h3
    · have h4 := fun n svn rev => State.selfTest_keep env (State.runSlot_keep n (keep_foldl env.validSlots (f := fun (s : State) v => s.knowSlot v.1 v.2.1 v.2.2)
        (fun _ _ ht => State.knowSlot_keep _ _ _ ht) _ (State.knowSlot_keep n svn rev h3)))
      exact keep_ite (State.enterFault_keep _ (h4 _ _ _)) (keep_ite (h4 _ _ _) (State.bootStage2_keep env
        (State.modPwr_keep _ (fun _ => ⟨rfl, rfl, rfl⟩) (h4 _ _ _))))

theorem execPerstNDeassert_keep {s : State} (straps : BitVec 10) (env : BootEnv) (h : Keep q p False s) :
    Keep q p False (nextOr (execPerstNDeassert straps env s) s) := by
  unfold execPerstNDeassert
  simp only [nextOr]
  have weak : ∀ {t : State}, Keep q p True t → Keep q p False t := fun h => ⟨h.1, h.2.1, False.elim⟩
  split
  · exact h
  · rename_i hr
    have hr : s.dev.pwr.rails = true := by simpa using hr
    have hl := State.latchStraps_keep straps h
    split
    · refine weak (State.boot_keep env ⟨hl.1, fun hp => ⟨hl.dram hp, hl.hm hp, ?_⟩, fun _ => ⟨hr, rfl⟩⟩)
      obtain ⟨h1, h2, h3, h4, h5, h6, h7⟩ := hl.dev hp
      exact ⟨h1, h2, h3, h4, h5, h6, fun hh => ⟨hr, rfl⟩⟩
    · rename_i hn
      have hn : s.dev.pwr.perst = false := by simpa using hn
      split
      · refine weak (State.boot_keep env ⟨h.1, fun hp => ⟨h.dram hp, h.hm hp, ?_⟩, fun _ => ⟨hr, hn⟩⟩)
        obtain ⟨h1, h2, h3, h4, h5, h6, h7⟩ := h.dev hp
        exact ⟨h1, h2, h3, h4, h5, h6, h7⟩
      · exact h

theorem State.sramLogged_keep {s : State} (group : Nat) (sev : Nat) (result : Nat) (h : Keep q p up s) :
    Keep q p up (State.sramLogged s group sev result) := by
  unfold State.sramLogged
  repeat' (first | with_reducible assumption | with_reducible apply State.logFault_keep)

end Sys2Proof.Machine
end

