-- ==== Sys2Proof/Laws/Keep13.lean ====
section
/-! SUPPORT. What each function keeps, from `execSramUncorrectable` to `execConfigurationSet`: one lemma per function, cited by the functions that
call it. -/

namespace Sys2Proof.Machine

variable {q : List Instr} {p up : Prop}

theorem execSramUncorrectable_keep (place : SramPlace) {s : State} (h : Keep q p up s) :
    Keep q p up (nextOr (execSramUncorrectable place s) s) := by
  unfold execSramUncorrectable
  dsimp -zeta only [nextOr]
  repeat' (first | with_reducible assumption | with_reducible apply State.sramLogged_keep
                 | with_reducible apply State.drawn_keep | with_reducible exact keepE_lit rfl
                 | with_reducible exact keepE_lit (fetchFault_stands (by assumption))
                 | with_reducible apply State.takeSync_keep | with_reducible apply State.modOc_keep
                 | with_reducible apply State.internalReset_keep | with_reducible apply State.flushOnce_keep
                 | with_reducible apply State.poisoned_keep | with_reducible apply State.hallmarkFault_keep
                 | with_reducible apply hf | (with_reducible refine fun _ => ?_) | with_reducible apply keep_foldl
                 | with_reducible apply keep_foldl_fst
                 | ((try lift_lets); intro s1; refine keep_cut (q := q) (p := p) (up := up) (s := s1) ?_ ?_; rotate_left; clear_value s1; intro _; rotate_left; subst s1)
                 | ((try lift_lets); intro s1; subst s1) | dsimp -zeta only | simp -zeta only [keep_mk]
                 | with_reducible refine keep_like ?_ (by with_reducible rfl)
                 | with_reducible refine keep_mix ?_ ?_ ?_ ?_ (by with_reducible rfl) (by with_reducible rfl) (by with_reducible rfl) (by with_reducible rfl)
                 | split | intro _ | dsimp only)

theorem State.dramFails_keep {s : State} (a : Nat) (who : Option HostReader) (h : Keep q p up s) :
    Keep q p up (State.dramFails s a who) := by
  unfold State.dramFails
  repeat' (first | with_reducible assumption | with_reducible apply State.dramReply_keep
                 | with_reducible apply State.poisoned_keep | split)

theorem execDramRead_keep (place : DramAt) (cls : BitVec 2) (flash : Option Nat) (who : Option HostReader) (err : DramErrors) {s : State}
    (h : Keep q p up s) :
    Keep q p up (nextOr (execDramRead place cls flash who err s) s) := by
  unfold execDramRead
  dsimp -zeta only [nextOr]
  repeat' (first | with_reducible assumption | with_reducible apply State.dramReply_keep
                 | with_reducible apply State.enqueue_keep
                 | with_reducible refine State.dramFetch_keep (by with_reducible assumption) ?_
                 | with_reducible apply State.dramFetch_keep2 | with_reducible apply State.dramFails_keep
                 | with_reducible apply hf | (with_reducible refine fun _ => ?_) | with_reducible apply keep_foldl
                 | with_reducible apply keep_foldl_fst
                 | ((try lift_lets); intro s1; refine keep_cut (q := q) (p := p) (up := up) (s := s1) ?_ ?_; rotate_left; clear_value s1; intro _; rotate_left; subst s1)
                 | ((try lift_lets); intro s1; subst s1) | dsimp -zeta only | simp -zeta only [keep_mk]
                 | with_reducible refine keep_like ?_ (by with_reducible rfl)
                 | with_reducible refine keep_mix ?_ ?_ ?_ ?_ (by with_reducible rfl) (by with_reducible rfl) (by with_reducible rfl) (by with_reducible rfl)
                 | split | intro _ | dsimp only)

theorem State.fillPage_keep {s : State} (a : Nat) (domain : Nat) (bs : List Byte) (h : Keep q p up s) :
    Keep q p up (State.fillPage s a domain bs) := by
  unfold State.fillPage
  repeat' (first | with_reducible assumption | with_reducible apply State.dramStore_keep
                 | with_reducible apply State.celWritten_keep | with_reducible apply State.setDomain_keep
                 | (with_reducible refine fun _ => ?_) | with_reducible apply keep_foldl
                 | ((try lift_lets); intro s1; refine keep_cut (q := q) (p := p) (up := up) (s := s1) ?_ ?_; rotate_left; clear_value s1; intro _; rotate_left; subst s1)
                 | simp -zeta only [keep_mk] | with_reducible refine keep_like ?_ (by with_reducible rfl))

theorem execDramWrite_keep (place : DramAt) (cls : BitVec 2) (bytes : List Byte) (who : Option HostReader) (err : DramErrors) {s : State}
    (h : Keep q p up s) :
    Keep q p up (nextOr (execDramWrite place cls bytes who err s) s) := by
  unfold execDramWrite
  dsimp -zeta only [nextOr]
  repeat' (first | with_reducible assumption | with_reducible apply State.fillPage_keep
                 | with_reducible apply State.enqueue_keep | with_reducible apply State.celWritten_keep
                 | with_reducible apply State.setDomain_keep | with_reducible apply State.dramStore_keep
                 | with_reducible refine State.dramFetch_keep (by with_reducible assumption) ?_
                 | with_reducible apply State.dramFetch_keep2 | with_reducible apply State.dramFails_keep
                 | with_reducible apply hf | (with_reducible refine fun _ => ?_) | with_reducible apply keep_foldl
                 | with_reducible apply keep_foldl_fst
                 | ((try lift_lets); intro s1; refine keep_cut (q := q) (p := p) (up := up) (s := s1) ?_ ?_; rotate_left; clear_value s1; intro _; rotate_left; subst s1)
                 | ((try lift_lets); intro s1; subst s1) | dsimp -zeta only | simp -zeta only [keep_mk]
                 | with_reducible refine keep_like ?_ (by with_reducible rfl)
                 | with_reducible refine keep_mix ?_ ?_ ?_ ?_ (by with_reducible rfl) (by with_reducible rfl) (by with_reducible rfl) (by with_reducible rfl)
                 | split | intro _ | dsimp only)

theorem State.modPort_keep {s : State} (p0 : Nat) (f : Port → Port) (h : Keep q p up s) :
    Keep q p up (State.modPort s p0 f) := by
  unfold State.modPort
  repeat' (first | with_reducible assumption | simp -zeta only [keep_mk]
                 | with_reducible refine keep_like ?_ (by with_reducible rfl))

theorem State.dropPortAts_keep {s : State} (p0 : Nat) (h : Keep q p up s) :
    Keep q p up (State.dropPortAts s p0) := by
  unfold State.dropPortAts
  repeat' (first | with_reducible assumption | simp -zeta only [keep_mk]
                 | with_reducible refine keep_like ?_ (by with_reducible rfl))

theorem State.dropPortPaused_keep {s : State} (p0 : Nat) (h : Keep q p up s) :
    Keep q p up (State.dropPortPaused s p0) := by
  unfold State.dropPortPaused
  repeat' (first | with_reducible assumption | ((try lift_lets); intro s1; subst s1) | simp -zeta only [keep_mk]
                 | with_reducible refine keep_like ?_ (by with_reducible rfl))

theorem State.functionReset_keep {s : State} (p0 : Nat) (h : Keep q p up s) :
    Keep q p up (State.functionReset s p0) := by
  unfold State.functionReset
  repeat' (first | with_reducible assumption | with_reducible apply State.ctrlReset_keep
                 | with_reducible apply State.setCfs_keep | with_reducible apply State.modPort_keep
                 | with_reducible apply State.dropPortPaused_keep | with_reducible apply State.dropPortAts_keep
                 | (with_reducible refine fun _ => ?_) | with_reducible apply keep_foldl
                 | ((try lift_lets); intro s1; refine keep_cut (q := q) (p := p) (up := up) (s := s1) ?_ ?_; rotate_left; clear_value s1; intro _; rotate_left; subst s1)
                 | simp -zeta only [keep_mk] | with_reducible refine keep_like ?_ (by with_reducible rfl) | split)

theorem State.linkLost_keep {s : State} (p0 : Nat) (h : Keep q p up s) :
    Keep q p up (State.linkLost s p0) := by
  unfold State.linkLost
  repeat' (first | with_reducible assumption | with_reducible apply State.modPort_keep
                 | with_reducible apply State.functionReset_keep
                 | ((try lift_lets); intro s1; refine keep_cut (q := q) (p := p) (up := up) (s := s1) ?_ ?_; rotate_left; clear_value s1; intro _; rotate_left; subst s1)
                 | simp -zeta only [keep_mk] | with_reducible refine keep_like ?_ (by with_reducible rfl) | split)

theorem execPortRstAssert_keep (port : Nat) {s : State} (h : Keep q p up s) :
    Keep q p up (nextOr (execPortRstAssert port s) s) := by
  unfold execPortRstAssert
  dsimp -zeta only [nextOr]
  repeat' (first | with_reducible assumption | with_reducible apply State.modPort_keep
                 | with_reducible apply State.linkLost_keep
                 | ((try lift_lets); intro s1; refine keep_cut (q := q) (p := p) (up := up) (s := s1) ?_ ?_; rotate_left; clear_value s1; intro _; rotate_left; subst s1)
                 | split)

theorem execPortRstDeassert_keep (port : Nat) {s : State} (h : Keep q p up s) :
    Keep q p up (nextOr (execPortRstDeassert port s) s) := by
  unfold execPortRstDeassert
  dsimp -zeta only [nextOr]
  repeat' (first | with_reducible assumption | with_reducible apply State.modPort_keep | split)

theorem execHotReset_keep (port : Nat) {s : State} (h : Keep q p up s) :
    Keep q p up (nextOr (execHotReset port s) s) := by
  unfold execHotReset
  dsimp -zeta only [nextOr]
  repeat' (first | with_reducible assumption | with_reducible apply State.functionReset_keep | split)

theorem execLinkDown_keep (port : Nat) {s : State} (h : Keep q p up s) :
    Keep q p up (nextOr (execLinkDown port s) s) := by
  unfold execLinkDown
  dsimp -zeta only [nextOr]
  repeat' (first | with_reducible assumption | with_reducible apply State.linkLost_keep | split)

theorem execFunctionLevelReset_keep (port : Nat) {s : State} (h : Keep q p up s) :
    Keep q p up (nextOr (execFunctionLevelReset port s) s) := by
  unfold execFunctionLevelReset
  dsimp -zeta only [nextOr]
  repeat' (first | with_reducible assumption | with_reducible apply State.functionReset_keep | split)

theorem execD3hotEntry_keep (port : Nat) {s : State} (h : Keep q p up s) :
    Keep q p up (nextOr (execD3hotEntry port s) s) := by
  unfold execD3hotEntry
  dsimp -zeta only [nextOr]
  repeat' (first | with_reducible assumption | with_reducible apply State.modPort_keep | split)

theorem execD3hotToD0_keep (port : Nat) {s : State} (h : Keep q p up s) :
    Keep q p up (nextOr (execD3hotToD0 port s) s) := by
  unfold execD3hotToD0
  dsimp -zeta only [nextOr]
  repeat' (first | with_reducible assumption | with_reducible apply State.functionReset_keep | split)

theorem State.resumePort_keep {s : State} (p0 : Nat) (h : Keep q p up s) :
    Keep q p up (State.resumePort s p0) := by
  unfold State.resumePort
  repeat' (first | with_reducible assumption | with_reducible apply State.releasePaused_keep
                 | with_reducible apply State.portWrite_keep | with_reducible apply State.flushMsi_keep
                 | with_reducible apply State.drainCqes_keep | (with_reducible refine fun _ => ?_)
                 | with_reducible apply keep_foldl | simp -zeta only [keep_mk]
                 | with_reducible refine keep_like ?_ (by with_reducible rfl) | split)

theorem execBusMasterEnableSet_keep (port : Nat) (pasid : Bool) (conf : PortConf) {s : State} (h : Keep q p up s) :
    Keep q p up (nextOr (execBusMasterEnableSet port pasid conf s) s) := by
  unfold execBusMasterEnableSet
  dsimp -zeta only [nextOr]
  repeat' (first | with_reducible assumption | with_reducible apply State.modPort_keep
                 | with_reducible apply State.resumePort_keep | with_reducible apply State.dropPortAts_keep
                 | with_reducible apply hf | (with_reducible refine fun _ => ?_) | with_reducible apply keep_foldl
                 | with_reducible apply keep_foldl_fst
                 | ((try lift_lets); intro s1; refine keep_cut (q := q) (p := p) (up := up) (s := s1) ?_ ?_; rotate_left; clear_value s1; intro _; rotate_left; subst s1)
                 | ((try lift_lets); intro s1; subst s1) | dsimp -zeta only | simp -zeta only [keep_mk]
                 | with_reducible refine keep_like ?_ (by with_reducible rfl)
                 | with_reducible refine keep_mix ?_ ?_ ?_ ?_ (by with_reducible rfl) (by with_reducible rfl) (by with_reducible rfl) (by with_reducible rfl)
                 | split | intro _ | dsimp only)

theorem execBusMasterEnableClear_keep (port : Nat) {s : State} (h : Keep q p up s) :
    Keep q p up (nextOr (execBusMasterEnableClear port s) s) := by
  unfold execBusMasterEnableClear
  dsimp -zeta only [nextOr]
  repeat' (first | with_reducible assumption | with_reducible apply State.modPort_keep | split)

theorem execPasidEnableClear_keep (port : Nat) {s : State} (h : Keep q p up s) :
    Keep q p up (nextOr (execPasidEnableClear port s) s) := by
  unfold execPasidEnableClear
  dsimp -zeta only [nextOr]
  repeat' (first | with_reducible assumption | with_reducible apply State.modPort_keep
                 | with_reducible apply State.setCfs_keep | (with_reducible refine fun _ => ?_)
                 | with_reducible apply keep_foldl | split)

theorem State.keepAts_keep {s : State} (a : Ats) (h : Keep q p up s) :
    Keep q p up (State.keepAts s a) := by
  unfold State.keepAts
  repeat' (first | with_reducible assumption | ((try lift_lets); intro s1; subst s1) | simp -zeta only [keep_mk]
                 | with_reducible refine keep_like ?_ (by with_reducible rfl))

theorem State.refusedFor_keep {s : State} (who : HostReader) (h : Keep q p up s) :
    Keep q p up (State.refusedFor s who) := by
  unfold State.refusedFor
  repeat' (first | with_reducible assumption | with_reducible apply State.poisoned_keep
                 | with_reducible apply State.dispatchJobs_keep | with_reducible apply State.endJob_keep | split)

theorem execAtsTranslationResponse_keep (port : Nat) (pasid : Nat) (iova : W64) (reader : HostReader) (granted : Bool) {s : State}
    (h : Keep q p up s) :
    Keep q p up (nextOr (execAtsTranslationResponse port pasid iova reader granted s) s) := by
  unfold execAtsTranslationResponse
  dsimp -zeta only [nextOr]
  repeat' (first | with_reducible assumption | with_reducible apply State.keepAts_keep
                 | with_reducible apply State.refusedFor_keep | split)

theorem execAtsInvalidate_keep (port : Nat) (pasid : Nat) (page : W64) {s : State} (h : Keep q p up s) :
    Keep q p up (nextOr (execAtsInvalidate port pasid page s) s) := by
  unfold execAtsInvalidate
  dsimp -zeta only [nextOr]
  repeat' (first | with_reducible assumption | simp -zeta only [keep_mk]
                 | with_reducible refine keep_like ?_ (by with_reducible rfl))

theorem State.readEnds_keep {s : State} (who : HostReader) (h : Keep q p up s) :
    Keep q p up (State.readEnds s who) := by
  unfold State.readEnds
  repeat' (first | with_reducible assumption | with_reducible apply State.reqDone_keep | split)

theorem execHostReadCompletion_keep (reader : HostReader) (reply : HostReply) {s : State} (h : Keep q p up s) :
    Keep q p up (nextOr (execHostReadCompletion reader reply s) s) := by
  unfold execHostReadCompletion
  dsimp -zeta only [nextOr]
  repeat' (first | with_reducible assumption | with_reducible apply State.readEnds_keep
                 | with_reducible apply State.poisoned_keep | split)

theorem execCompletionTimeout_keep (reader : HostReader) {s : State} (h : Keep q p up s) :
    Keep q p up (nextOr (execCompletionTimeout reader s) s) := by
  unfold execCompletionTimeout
  dsimp -zeta only [nextOr]
  repeat' (first | with_reducible assumption | with_reducible apply State.poisoned_keep
                 | with_reducible apply State.readEnds_keep)

theorem execLinkTraining_keep (port : Nat) (lanes : LaneUse) (speed : Nat) (flit : Bool) {s : State}
    (h : Keep q p up s) :
    Keep q p up (nextOr (execLinkTraining port lanes speed flit s) s) := by
  unfold execLinkTraining
  dsimp -zeta only [nextOr]
  repeat' (first | with_reducible assumption | with_reducible apply State.resumePort_keep
                 | with_reducible apply State.modPort_keep | with_reducible apply hf
                 | (with_reducible refine fun _ => ?_) | with_reducible apply keep_foldl
                 | with_reducible apply keep_foldl_fst
                 | ((try lift_lets); intro s1; refine keep_cut (q := q) (p := p) (up := up) (s := s1) ?_ ?_; rotate_left; clear_value s1; intro _; rotate_left; subst s1)
                 | ((try lift_lets); intro s1; subst s1) | dsimp -zeta only | simp -zeta only [keep_mk]
                 | with_reducible refine keep_like ?_ (by with_reducible rfl)
                 | with_reducible refine keep_mix ?_ ?_ ?_ ?_ (by with_reducible rfl) (by with_reducible rfl) (by with_reducible rfl) (by with_reducible rfl)
                 | split | intro _ | dsimp only)

theorem execLinkRecoveryEntry_keep (port : Nat) {s : State} (h : Keep q p up s) :
    Keep q p up (nextOr (execLinkRecoveryEntry port s) s) := by
  unfold execLinkRecoveryEntry
  dsimp -zeta only [nextOr]
  repeat' (first | with_reducible assumption | with_reducible apply State.modPort_keep | split)

theorem execRateCapRaise_keep (port : Nat) {s : State} (h : Keep q p up s) :
    Keep q p up (nextOr (execRateCapRaise port s) s) := by
  unfold execRateCapRaise
  dsimp -zeta only [nextOr]
  repeat' (first | with_reducible assumption | with_reducible apply State.modPort_keep | split)

theorem execMsixEntryWrite_keep (ctrl : Nat) (off : Nat) (value : W32) {s : State} (h : Keep q p up s) :
    Keep q p up (nextOr (execMsixEntryWrite ctrl off value s) s) := by
  unfold execMsixEntryWrite
  dsimp -zeta only [nextOr]
  repeat' (first | with_reducible assumption | with_reducible apply State.flushMsi_keep
                 | with_reducible apply State.modCtrl_keep | split)

theorem execMsixFunctionMaskChange_keep (port : Nat) (enable : Bool) (mask : Bool) {s : State} (h : Keep q p up s) :
    Keep q p up (nextOr (execMsixFunctionMaskChange port enable mask s) s) := by
  unfold execMsixFunctionMaskChange
  dsimp -zeta only [nextOr]
  repeat' (first | with_reducible assumption | with_reducible apply State.modPort_keep
                 | with_reducible apply State.flushMsi_keep | with_reducible apply keep_foldl | split)

theorem execApstIdleExpiry_keep {s : State} (h : Keep q p up s) : Keep q p up (nextOr (execApstIdleExpiry s) s) := by
  unfold execApstIdleExpiry
  simp only [nextOr]
  split
  · exact h
  · rename_i hc
    refine ⟨h.1, fun hp => ⟨h.dram hp, h.hm hp, ?_⟩, h.2.2⟩
    obtain ⟨h1, h2, h3, _, h5, h6⟩ := h.dev hp
    refine ⟨h1, h2, h3, fun x hx => ?_, h5, h6⟩
    cases hx
    simp only [Bool.or_eq_true, decide_eq_true_eq, not_or] at hc
    have hz := hc.2
    rw [List.getD_eq_getElem?_getD] at hz ⊢
    cases hg : s.dev.apst[s.dev.ps]? with
    | none => rw [hg] at hz; exact absurd rfl hz
    | some x =>
      rw [hg] at hz
      have := h5 x (List.mem_of_getElem? hg) hz
      simp only [Option.getD_some]
      omega

theorem execPowerStateEntry_keep {s : State} (h : Keep q p up s) : Keep q p up (nextOr (execPowerStateEntry s) s) := by
  unfold execPowerStateEntry
  simp only [nextOr]
  split
  · exact h
  · rename_i n hn
    exact keep_ite h (State.setPs_keep _ (fun hp => (h.dev hp).2.2.2.1 n hn) h)

theorem execTemperatureSample_keep (celsius : Int) {s : State} (h : Keep q p up s) :
    Keep q p up (nextOr (execTemperatureSample celsius s) s) := by
  unfold execTemperatureSample
  dsimp -zeta only [nextOr]
  repeat' (first | with_reducible assumption | with_reducible apply State.raiseHealth_keep
                 | with_reducible apply State.setWarn_keep | ((try lift_lets); intro s1; subst s1)
                 | simp -zeta only [keep_mk] | with_reducible refine keep_like ?_ (by with_reducible rfl) | split)

theorem execVidStep_keep {s : State} (h : Keep q p up s) :
    Keep q p up (nextOr (execVidStep s) s) := by
  unfold execVidStep
  dsimp -zeta only [nextOr]
  repeat' (first | with_reducible assumption | ((try lift_lets); intro s1; subst s1) | simp -zeta only [keep_mk]
                 | with_reducible refine keep_like ?_ (by with_reducible rfl))

theorem execActNMinLowExpiry_keep {s : State} (h : Keep q p up s) :
    Keep q p up (nextOr (execActNMinLowExpiry s) s) := by
  unfold execActNMinLowExpiry
  dsimp -zeta only [nextOr]
  repeat' (first | with_reducible assumption | simp -zeta only [keep_mk]
                 | with_reducible refine keep_like ?_ (by with_reducible rfl))

theorem State.modSide_keep {s : State} (f : Sideband → Sideband) (h : Keep q p up s) :
    Keep q p up (State.modSide s f) := by
  unfold State.modSide
  repeat' (first | with_reducible assumption | simp -zeta only [keep_mk]
                 | with_reducible refine keep_like ?_ (by with_reducible rfl))

theorem State.sideSend_keep {s : State} (m : List Byte) (h : Keep q p up s) :
    Keep q p up (State.sideSend s m) := by
  unfold State.sideSend
  repeat' (first | with_reducible assumption | simp -zeta only [keep_mk]
                 | with_reducible refine keep_like ?_ (by with_reducible rfl))

theorem execMctpReassemblyTimeout_keep {s : State} (h : Keep q p up s) :
    Keep q p up (nextOr (execMctpReassemblyTimeout s) s) := by
  unfold execMctpReassemblyTimeout
  dsimp -zeta only [nextOr]
  repeat' (first | with_reducible assumption | with_reducible apply State.modSide_keep | split)

theorem execI3cDynamicAddressAssignment_keep (addr : BitVec 7) {s : State} (h : Keep q p up s) :
    Keep q p up (nextOr (execI3cDynamicAddressAssignment addr s) s) := by
  unfold execI3cDynamicAddressAssignment
  dsimp -zeta only [nextOr]
  repeat' (first | with_reducible assumption | with_reducible apply State.modSide_keep | split)

theorem State.controlReply_keep {s : State} (cmd : Nat) (code : Nat) (data : List Byte) (h : Keep q p up s) :
    Keep q p up (State.controlReply s cmd code data) := by
  unfold State.controlReply
  repeat' (first | with_reducible assumption | with_reducible apply State.sideSend_keep | split)

theorem execSetEndpointId_keep (eid : Byte) {s : State} (h : Keep q p up s) :
    Keep q p up (nextOr (execSetEndpointId eid s) s) := by
  unfold execSetEndpointId
  dsimp -zeta only [nextOr]
  repeat' (first | with_reducible assumption | with_reducible apply State.controlReply_keep
                 | with_reducible apply State.modSide_keep | split)

theorem execGetEndpointId_keep {s : State} (h : Keep q p up s) :
    Keep q p up (nextOr (execGetEndpointId s) s) := by
  unfold execGetEndpointId
  dsimp -zeta only [nextOr]
  repeat' (first | with_reducible assumption | with_reducible apply State.controlReply_keep)

theorem execGetEndpointUuid_keep {s : State} (h : Keep q p up s) :
    Keep q p up (nextOr (execGetEndpointUuid s) s) := by
  unfold execGetEndpointUuid
  dsimp -zeta only [nextOr]
  repeat' (first | with_reducible assumption | with_reducible apply State.controlReply_keep)

theorem execGetMctpVersionSupport_keep (msgType : Byte) {s : State} (h : Keep q p up s) :
    Keep q p up (nextOr (execGetMctpVersionSupport msgType s) s) := by
  unfold execGetMctpVersionSupport
  dsimp -zeta only [nextOr]
  repeat' (first | with_reducible assumption | with_reducible apply State.controlReply_keep
                 | with_reducible apply State.drawn_keep | split)

theorem execGetMessageTypeSupport_keep {s : State} (h : Keep q p up s) :
    Keep q p up (nextOr (execGetMessageTypeSupport s) s) := by
  unfold execGetMessageTypeSupport
  dsimp -zeta only [nextOr]
  repeat' (first | with_reducible assumption | with_reducible apply State.controlReply_keep)

theorem execGetVendorDefinedMessageSupport_keep {s : State} (h : Keep q p up s) :
    Keep q p up (nextOr (execGetVendorDefinedMessageSupport s) s) := by
  unfold execGetVendorDefinedMessageSupport
  dsimp -zeta only [nextOr]
  repeat' (first | with_reducible assumption | with_reducible apply State.controlReply_keep)

theorem State.miCmd_keep {s : State} (nmimt : Nat) (poll : Bool) (body : State → State)
    (h : Keep q p up s) (hf : ∀ y0, Keep q p up y0 → Keep q p up (body y0)) :
    Keep q p up (State.miCmd s nmimt poll body) := by
  unfold State.miCmd
  repeat' (first | with_reducible assumption | with_reducible apply State.sideSend_keep
                 | with_reducible apply State.drawnN_keep | with_reducible apply State.modSide_keep
                 | with_reducible apply hf | split)

theorem State.vendorCmd_keep {s : State} (vver : Byte) (vcmd : Nat) (body : State → State)
    (h : Keep q p up s) (hf : ∀ y0, Keep q p up y0 → Keep q p up (body y0)) :
    Keep q p up (State.vendorCmd s vver vcmd body) := by
  unfold State.vendorCmd
  repeat' (first | with_reducible assumption | with_reducible apply State.sideSend_keep
                 | with_reducible apply State.drawnN_keep | with_reducible apply State.modSide_keep
                 | with_reducible apply hf | split)

theorem State.sideResult_keep {s : State} (h : Keep q p up s) :
    Keep q p up (State.sideResult s) := by
  unfold State.sideResult
  repeat' (first | with_reducible assumption | with_reducible apply State.modSide_keep
                 | with_reducible apply State.sideSend_keep)

theorem execSidebandResponseSent_keep {s : State} (h : Keep q p up s) :
    Keep q p up (nextOr (execSidebandResponseSent s) s) := by
  unfold execSidebandResponseSent
  dsimp -zeta only [nextOr]
  repeat' (first | with_reducible assumption | with_reducible apply State.sideResult_keep
                 | with_reducible apply State.modSide_keep | ((try lift_lets); intro s1; subst s1) | split)

theorem State.miReply_keep {s : State} (status : Nat) (mgmt : List Byte) (data : List Byte) (h : Keep q p up s) :
    Keep q p up (State.miReply s status mgmt data) := by
  unfold State.miReply
  repeat' (first | with_reducible assumption | with_reducible apply State.sideSend_keep)

theorem State.miBad_keep {s : State} (h : Keep q p up s) :
    Keep q p up (State.miBad s) := by
  unfold State.miBad
  repeat' (first | with_reducible assumption | with_reducible apply State.miReply_keep)

theorem State.miData_keep {s : State} (d : List Byte) (h : Keep q p up s) :
    Keep q p up (State.miData s d) := by
  unfold State.miData
  repeat' (first | with_reducible assumption | with_reducible apply State.miReply_keep)

theorem execReadNvmeMiDataStructure_keep (dtyp : Byte) (ctrl : Nat) {s : State} (h : Keep q p up s) :
    Keep q p up (nextOr (execReadNvmeMiDataStructure dtyp ctrl s) s) := by
  unfold execReadNvmeMiDataStructure
  dsimp -zeta only [nextOr]
  repeat' (first | with_reducible assumption | with_reducible apply State.miCmd_keep
                 | with_reducible apply State.miData_keep | with_reducible apply State.miBad_keep
                 | (with_reducible refine fun _ => ?_) | split)

theorem execNvmSubsystemHealthStatusPoll_keep {s : State} (h : Keep q p up s) :
    Keep q p up (nextOr (execNvmSubsystemHealthStatusPoll s) s) := by
  unfold execNvmSubsystemHealthStatusPoll
  dsimp -zeta only [nextOr]
  repeat' (first | with_reducible assumption | with_reducible apply State.miCmd_keep
                 | with_reducible apply State.modSide_keep | with_reducible apply State.miReply_keep
                 | (with_reducible refine fun _ => ?_))

theorem execControllerHealthStatusPoll_keep (ctrl : Nat) {s : State} (h : Keep q p up s) :
    Keep q p up (nextOr (execControllerHealthStatusPoll ctrl s) s) := by
  unfold execControllerHealthStatusPoll
  dsimp -zeta only [nextOr]
  repeat' (first | with_reducible assumption | with_reducible apply State.miCmd_keep
                 | with_reducible apply State.miReply_keep | (with_reducible refine fun _ => ?_) | split)

theorem execConfigurationSet_keep (cfg : Byte) (value : W32) {s : State} (h : Keep q p up s) :
    Keep q p up (nextOr (execConfigurationSet cfg value s) s) := by
  unfold execConfigurationSet
  dsimp -zeta only [nextOr]
  repeat' (first | with_reducible assumption | with_reducible apply State.miCmd_keep
                 | with_reducible apply State.miReply_keep | with_reducible apply State.modSide_keep
                 | with_reducible apply State.miBad_keep | (with_reducible refine fun _ => ?_) | split)

end Sys2Proof.Machine
end

