-- ==== Sys2Proof/Laws/Keep14.lean ====
section
/-! SUPPORT. What each function keeps, from `execConfigurationGet` to `State.completes`: one lemma per function, cited by the functions that
call it. -/

namespace Sys2Proof.Machine

variable {q : List Instr} {p up : Prop}

theorem execConfigurationGet_keep (cfg : Byte) {s : State} (h : Keep q p up s) :
    Keep q p up (nextOr (execConfigurationGet cfg s) s) := by
  unfold execConfigurationGet
  dsimp -zeta only [nextOr]
  repeat' (first | with_reducible assumption | with_reducible apply State.miCmd_keep
                 | with_reducible apply State.miReply_keep | with_reducible apply State.miBad_keep
                 | (with_reducible refine fun _ => ?_) | split)

theorem State.tunnel_keep {s : State} (e0 : Sqe) (vendor : Bool) (ver : Nat) (h : Keep q p up s) :
    Keep q p up (State.tunnel s e0 vendor ver) := by
  unfold State.tunnel
  repeat' (first | with_reducible assumption | with_reducible apply State.modSide_keep
                 | with_reducible apply State.psExit_keep)

theorem execNvmeMiAdminCommand_keep (ctrlId : Nat) (e0 : Sqe) (dlen : Nat) {s : State} (h : Keep q p up s) :
    Keep q p up (nextOr (execNvmeMiAdminCommand ctrlId e0 dlen s) s) := by
  unfold execNvmeMiAdminCommand
  dsimp -zeta only [nextOr]
  repeat' (first | with_reducible assumption | with_reducible apply State.miCmd_keep
                 | with_reducible apply State.sideSend_keep | with_reducible apply State.tunnel_keep
                 | (with_reducible refine fun _ => ?_) | split)

theorem State.vendorReply_keep {s : State} (vver : Byte) (vcmd : Nat) (status : Nat) (payload : List Byte)
    (h : Keep q p up s) :
    Keep q p up (State.vendorReply s vver vcmd status payload) := by
  unfold State.vendorReply
  repeat' (first | with_reducible assumption | with_reducible apply State.sideSend_keep)

theorem execGetVersion_keep (vver : Byte) {s : State} (h : Keep q p up s) :
    Keep q p up (nextOr (execGetVersion vver s) s) := by
  unfold execGetVersion
  dsimp -zeta only [nextOr]
  repeat' (first | with_reducible assumption | with_reducible apply State.vendorCmd_keep
                 | with_reducible apply State.vendorReply_keep | (with_reducible refine fun _ => ?_))

theorem execAdminTunnel_keep (vver : Byte) (e0 : Sqe) (dlen : Nat) (msgLen : Nat) {s : State} (h : Keep q p up s) :
    Keep q p up (nextOr (execAdminTunnel vver e0 dlen msgLen s) s) := by
  unfold execAdminTunnel
  dsimp -zeta only [nextOr]
  repeat' (first | with_reducible assumption | with_reducible apply State.vendorCmd_keep
                 | with_reducible apply State.vendorReply_keep | with_reducible apply State.tunnel_keep
                 | with_reducible apply hf | (with_reducible refine fun _ => ?_) | with_reducible apply keep_foldl
                 | with_reducible apply keep_foldl_fst
                 | ((try lift_lets); intro s1; refine keep_cut (q := q) (p := p) (up := up) (s := s1) ?_ ?_; rotate_left; clear_value s1; intro _; rotate_left; subst s1)
                 | ((try lift_lets); intro s1; subst s1) | dsimp -zeta only | simp -zeta only [keep_mk]
                 | with_reducible refine keep_like ?_ (by with_reducible rfl)
                 | with_reducible refine keep_mix ?_ ?_ ?_ ?_ (by with_reducible rfl) (by with_reducible rfl) (by with_reducible rfl) (by with_reducible rfl)
                 | split | intro _ | dsimp only)

theorem State.releaseHeld_keep {s : State} (h : Keep q p up s) :
    Keep q p up (State.releaseHeld s) := by
  unfold State.releaseHeld
  repeat' (first | with_reducible assumption | with_reducible apply State.modSide_keep)

theorem execReadResponsePart_keep (vver : Byte) (off : Nat) (len : Nat) {s : State} (h : Keep q p up s) :
    Keep q p up (nextOr (execReadResponsePart vver off len s) s) := by
  unfold execReadResponsePart
  dsimp -zeta only [nextOr]
  repeat' (first | with_reducible assumption | with_reducible apply State.vendorReply_keep
                 | with_reducible apply State.releaseHeld_keep | with_reducible apply State.vendorCmd_keep
                 | (with_reducible refine fun _ => ?_) | split)

theorem execReleaseResponse_keep (vver : Byte) {s : State} (h : Keep q p up s) :
    Keep q p up (nextOr (execReleaseResponse vver s) s) := by
  unfold execReleaseResponse
  dsimp -zeta only [nextOr]
  repeat' (first | with_reducible assumption | with_reducible apply State.vendorReply_keep
                 | with_reducible apply State.releaseHeld_keep | with_reducible apply State.vendorCmd_keep
                 | (with_reducible refine fun _ => ?_) | split)

theorem State.otherRequest_keep {s : State} (m : List Byte) (h : Keep q p up s) :
    Keep q p up (State.otherRequest s m) := by
  unfold State.otherRequest
  repeat' (first | with_reducible assumption | with_reducible apply State.controlReply_keep
                 | with_reducible apply State.miCmd_keep | with_reducible apply State.miReply_keep
                 | with_reducible apply State.vendorCmd_keep | with_reducible apply State.vendorReply_keep
                 | with_reducible apply hf | (with_reducible refine fun _ => ?_) | with_reducible apply keep_foldl
                 | with_reducible apply keep_foldl_fst
                 | ((try lift_lets); intro s1; refine keep_cut (q := q) (p := p) (up := up) (s := s1) ?_ ?_; rotate_left; clear_value s1; intro _; rotate_left; subst s1)
                 | ((try lift_lets); intro s1; subst s1) | dsimp -zeta only | simp -zeta only [keep_mk]
                 | with_reducible refine keep_like ?_ (by with_reducible rfl)
                 | with_reducible refine keep_mix ?_ ?_ ?_ ?_ (by with_reducible rfl) (by with_reducible rfl) (by with_reducible rfl) (by with_reducible rfl)
                 | split | intro _ | dsimp only)

theorem execMctpPacketReceive_keep (src : Byte) (som : Bool) (eom : Bool) (seq : BitVec 2) (pecOk : Bool) (bytes : List Byte) (tag : BitVec 3) {s : State}
    (h : Keep q p up s) :
    Keep q p up (nextOr (execMctpPacketReceive src som eom seq pecOk bytes tag s) s) := by
  unfold execMctpPacketReceive
  dsimp -zeta only [nextOr]
  repeat' (first | with_reducible assumption | with_reducible apply State.modSide_keep
                 | with_reducible apply State.otherRequest_keep | with_reducible apply hf
                 | (with_reducible refine fun _ => ?_) | with_reducible apply keep_foldl
                 | with_reducible apply keep_foldl_fst
                 | ((try lift_lets); intro s1; refine keep_cut (q := q) (p := p) (up := up) (s := s1) ?_ ?_; rotate_left; clear_value s1; intro _; rotate_left; subst s1)
                 | ((try lift_lets); intro s1; subst s1) | dsimp -zeta only | simp -zeta only [keep_mk]
                 | with_reducible refine keep_like ?_ (by with_reducible rfl)
                 | with_reducible refine keep_mix ?_ ?_ ?_ ?_ (by with_reducible rfl) (by with_reducible rfl) (by with_reducible rfl) (by with_reducible rfl)
                 | split | intro _ | dsimp only)

theorem execResponseHoldTimeout_keep {s : State} (h : Keep q p up s) :
    Keep q p up (nextOr (execResponseHoldTimeout s) s) := by
  unfold execResponseHoldTimeout
  dsimp -zeta only [nextOr]
  repeat' (first | with_reducible assumption | with_reducible apply State.releaseHeld_keep | split)

theorem State.completes_keep {s : State} {u : State} (c : Nat) (w : LongWord) (target : Option W64)
    (h : Keep q p up s) (hu : Keep q p up u) :
    Keep q p up (State.completes s u c w target) := by
  unfold State.completes
  repeat' (first | with_reducible assumption | with_reducible apply State.finish_keep)

end Sys2Proof.Machine
end

