-- ==== Sys2Proof/Laws/KeepExec.lean ====
section
/-! SUPPORT. What every command keeps: the queue as it stands and a sound state. -/

namespace Sys2Proof.Machine

theorem exec_keep {q : List Instr} {p : Prop} (i : Instr) {s : State} (h : Keep q p False s) : Keep q p False (nextOr (exec i s) s) := by
  cases i with
  | deckFlitReceive way f crcOk grant => exact execDeckFlitReceive_keep way f crcOk grant h
  | deckAck way count => exact execDeckAck_keep way count h
  | deckAckTimeout way => exact execDeckAckTimeout_keep way h
  | flitWaitLimit way tag => exact execFlitWaitLimit_keep way tag h
  | sqTailDoorbell ctrl qid value => exact execSqTailDoorbell_keep ctrl qid value h
  | cqHeadDoorbell ctrl qid value => exact execCqHeadDoorbell_keep ctrl qid value h
  | sqEntryFetch e => exact execSqEntryFetch_keep e h
  | unsupportedOpcode q e => exact execUnsupportedOpcode_keep q e h
  | registerWrite win off size value => exact execRegisterWrite_keep win off size value h
  | ccEnEnable ctrl value => exact execCcEnEnable_keep ctrl value h
  | ccEnDisable ctrl value => exact execCcEnDisable_keep ctrl value h
  | ccShutdownNotification ctrl value => exact execCcShutdownNotification_keep ctrl value h
  | shutdownComplete ctrl => exact execShutdownComplete_keep ctrl h
  | deleteIoSubmissionQueue q e => exact execDeleteIoSubmissionQueue_keep q e h
  | createIoSubmissionQueue q e => exact execCreateIoSubmissionQueue_keep q e h
  | getLogPage q e => exact execGetLogPage_keep q e h
  | deleteIoCompletionQueue q e => exact execDeleteIoCompletionQueue_keep q e h
  | createIoCompletionQueue q e => exact execCreateIoCompletionQueue_keep q e h
  | identify q e => exact execIdentify_keep q e h
  | abort q e => exact execAbort_keep q e h
  | setFeaturesArbitration q e => exact execSetFeaturesArbitration_keep q e h
  | setFeaturesPowerManagement q e => exact execSetFeaturesPowerManagement_keep q e h
  | setFeaturesTemperatureThreshold q e => exact execSetFeaturesTemperatureThreshold_keep q e h
  | setFeaturesErrorRecovery q e => exact execSetFeaturesErrorRecovery_keep q e h
  | setFeaturesNumberOfQueues q e => exact execSetFeaturesNumberOfQueues_keep q e h
  | setFeaturesInterruptCoalescing q e => exact execSetFeaturesInterruptCoalescing_keep q e h
  | setFeaturesInterruptVectorConfig q e => exact execSetFeaturesInterruptVectorConfig_keep q e h
  | setFeaturesWriteAtomicity q e => exact execSetFeaturesWriteAtomicity_keep q e h
  | setFeaturesAsyncEventConfig q e => exact execSetFeaturesAsyncEventConfig_keep q e h
  | setFeaturesApst q e data => exact execSetFeaturesApst_keep q e data h
  | setFeaturesTimestamp q e => exact execSetFeaturesTimestamp_keep q e h
  | getFeatures q e => exact execGetFeatures_keep q e h
  | asynchronousEventRequest q e => exact execAsynchronousEventRequest_keep q e h
  | namespaceCreate q e data => exact execNamespaceCreate_keep q e data h
  | namespaceDelete q e => exact execNamespaceDelete_keep q e h
  | namespaceAttachment q e data => exact execNamespaceAttachment_keep q e data h
  | firmwareImageDownload q e data => exact execFirmwareImageDownload_keep q e data h
  | firmwareCommit q e => exact execFirmwareCommit_keep q e h
  | firmwareActivationResume  => exact execFirmwareActivationResume_keep  h
  | deviceSelfTest q e => exact execDeviceSelfTest_keep q e h
  | deviceSelfTestAbort q e => exact execDeviceSelfTestAbort_keep q e h
  | deviceSelfTestComplete passed => exact execDeviceSelfTestComplete_keep passed h
  | formatNvm q e => exact execFormatNvm_keep q e h
  | sanitizeExitFailureMode q e => exact execSanitizeExitFailureMode_keep q e h
  | sanitizeBlockErase q e => exact execSanitizeBlockErase_keep q e h
  | sanitizeCryptoErase q e => exact execSanitizeCryptoErase_keep q e h
  | sanitizeComplete scope failed => exact execSanitizeComplete_keep scope failed h
  | sliceCreate q e data => exact execSliceCreate_keep q e data h
  | sliceDelete q e => exact execSliceDelete_keep q e h
  | deleteAfterReset slice => exact execDeleteAfterReset_keep slice h
  | sliceReset q e steps => exact execSliceReset_keep q e steps h
  | sliceSetShares q e => exact execSliceSetShares_keep q e h
  | sliceRebind q e data steps => exact execSliceRebind_keep q e data steps h
  | keyImport q e data => exact execKeyImport_keep q e data h
  | keyEmpty q e => exact execKeyEmpty_keep q e h
  | hallmarkQuote q e => exact execHallmarkQuote_keep q e h
  | migrationLogStart q e data => exact execMigrationLogStart_keep q e data h
  | migrationLogStop q e => exact execMigrationLogStop_keep q e h
  | meterReceiptFetch q e => exact execMeterReceiptFetch_keep q e h
  | flush q e => exact execFlush_keep q e h
  | write q e data pi sealOk => exact execWrite_keep q e data pi sealOk h
  | read q e => exact execRead_keep q e h
  | writeZeroes q e => exact execWriteZeroes_keep q e h
  | datasetManagement q e ranges => exact execDatasetManagement_keep q e ranges h
  | billetLoad q e data sealOk => exact execBilletLoad_keep q e data sealOk h
  | billetRelease q e => exact execBilletRelease_keep q e h
  | scan q e => exact execScan_keep q e h
  | run q e => exact execRun_keep q e h
  | localWrite q e data sealOk => exact execLocalWrite_keep q e data sealOk h
  | localRead q e => exact execLocalRead_keep q e h
  | sealedTransferSetup q e data => exact execSealedTransferSetup_keep q e data h
  | writeBufferAdmit  => exact execWriteBufferAdmit_keep  h
  | stagingProgramDispatch units => exact execStagingProgramDispatch_keep units h
  | flashProgramComplete prog result => exact execFlashProgramComplete_keep prog result h
  | flashReadComplete read dec sense bytes => exact execFlashReadComplete_keep read dec sense bytes h
  | softDecodeComplete read dec sense bytes => exact execSoftDecodeComplete_keep read dec sense bytes h
  | dieBusyTimeout die => exact execDieBusyTimeout_keep die h
  | flashEraseComplete set failedChannels => exact execFlashEraseComplete_keep set failedChannels h
  | staleSetErase set => exact execStaleSetErase_keep set h
  | mapSegmentRewrite x0 => simp only [exec]; exact execMapSegmentRewrite_keep x0 h
  | sampleRead die cellMode wlGroup => exact execSampleRead_keep die cellMode wlGroup h
  | rateChangeComplete chan trained => exact execRateChangeComplete_keep chan trained h
  | mediaKeyCommit  => exact execMediaKeyCommit_keep  h
  | scanSlotAcquire scan => exact execScanSlotAcquire_keep scan h
  | scanComplete scan => exact execScanComplete_keep scan h
  | spanTick env => exact execSpanTick_keep env h
  | pier src env => exact execPier_keep src env h
  | timepulseEdge t env => exact execTimepulseEdge_keep t env h
  | timepulseWindowClose t env => exact execTimepulseWindowClose_keep t env h
  | ptmDialogueStart  => exact execPtmDialogueStart_keep  h
  | ptmResponse departureUs => exact execPtmResponse_keep departureUs h
  | ptmResponseTimeout  => exact execPtmResponseTimeout_keep  h
  | parkLimitExpiry slice => exact execParkLimitExpiry_keep slice h
  | timePierWrite value => exact execTimePierWrite_keep value h
  | timeCtlWrite value => exact execTimeCtlWrite_keep value h
  | migHeadWrite n value => exact execMigHeadWrite_keep n value h
  | managerPortRestored  => exact execManagerPortRestored_keep  h
  | minuteClose  => exact execMinuteClose_keep  h
  | signatureComplete  => exact execSignatureComplete_keep  h
  | meterCtlWrite value => exact execMeterCtlWrite_keep value h
  | apstIdleExpiry  => exact execApstIdleExpiry_keep  h
  | powerStateEntry  => exact execPowerStateEntry_keep  h
  | temperatureSample celsius => exact execTemperatureSample_keep celsius h
  | vidStep  => exact execVidStep_keep  h
  | actNMinLowExpiry  => exact execActNMinLowExpiry_keep  h
  | runSaveAreaAcquire run => exact execRunSaveAreaAcquire_keep run h
  | spanlimExpiry run => exact execSpanlimExpiry_keep run h
  | runComplete run => exact execRunComplete_keep run h
  | dramRead place cls flash who err => exact execDramRead_keep place cls flash who err h
  | dramWrite place cls bytes who err => exact execDramWrite_keep place cls bytes who err h
  | blankPageFillComplete page => exact execBlankPageFillComplete_keep page h
  | dramCommandIssue chan sub => exact execDramCommandIssue_keep chan sub h
  | requestAgeLimit chan sub req => exact execRequestAgeLimit_keep chan sub req h
  | refreshDue chan sub bankIndex idle => exact execRefreshDue_keep chan sub bankIndex idle h
  | refreshPostponeLimit chan sub bankIndex => exact execRefreshPostponeLimit_keep chan sub bankIndex h
  | rowActivationThreshold chan sub bank row => exact execRowActivationThreshold_keep chan sub bank row h
  | rfmTableClear  => exact execRfmTableClear_keep  h
  | dqsOscillatorCheck chan drift => exact execDqsOscillatorCheck_keep chan drift h
  | zqCalibration chan => exact execZqCalibration_keep chan h
  | dramBtcfgWrite value => exact execDramBtcfgWrite_keep value h
  | eccTestWriteDataAndCheck value => exact execEccTestWriteDataAndCheck_keep value h
  | eccTestWriteComputedCheck value => exact execEccTestWriteComputedCheck_keep value h
  | eccTestWriteCheckOnly value => exact execEccTestWriteCheckOnly_keep value h
  | eccTestWriteDataOnly value => exact execEccTestWriteDataOnly_keep value h
  | eccTestReadRaw value => exact execEccTestReadRaw_keep value h
  | eccTestReadDecoded value => exact execEccTestReadDecoded_keep value h
  | eccTestComplete  => exact execEccTestComplete_keep  h
  | tamperClassE sensor => exact execTamperClassE_keep sensor h
  | tamperClassG sensor => exact execTamperClassG_keep sensor h
  | tamperClassP sensor => exact execTamperClassP_keep sensor h
  | keyBusTransfer dest parityOk => exact execKeyBusTransfer_keep dest parityOk h
  | hmMddataWrite value => exact execHmMddataWrite_keep value h
  | hmMdcmdFinish value => exact execHmMdcmdFinish_keep value h
  | hmSvncmtWrite value => exact execHmSvncmtWrite_keep value h
  | jtagIdcode  => exact execJtagIdcode_keep  h
  | jtagBypass code => exact execJtagBypass_keep code h
  | jtagChallenge  => exact execJtagChallenge_keep  h
  | jtagUnlock token => exact execJtagUnlock_keep token h
  | lockstepMismatch pair commitDiffers => exact execLockstepMismatch_keep pair commitDiffers h
  | keeperHeartbeatTimeout pair => exact execKeeperHeartbeatTimeout_keep pair h
  | iaberCoreFault c cause => exact execIaberCoreFault_keep c cause h
  | sramCorrection group word => exact execSramCorrection_keep group word h
  | sramUncorrectable place => exact execSramUncorrectable_keep place h
  | engineKatComplete cls unit passed => exact execEngineKatComplete_keep cls unit passed h
  | powerOn  => exact execPowerOn_keep  h
  | perstNAssert  => exact execPerstNAssert_keep  h
  | perstNDeassert straps env => exact execPerstNDeassert_keep straps env h
  | plpWarnAssert  => exact execPlpWarnAssert_keep  h
  | plpWarnRelease  => exact execPlpWarnRelease_keep  h
  | holdupOkDrop  => exact execHoldupOkDrop_keep  h
  | portRstAssert port => exact execPortRstAssert_keep port h
  | portRstDeassert port => exact execPortRstDeassert_keep port h
  | hotReset port => exact execHotReset_keep port h
  | linkDown port => exact execLinkDown_keep port h
  | functionLevelReset port => exact execFunctionLevelReset_keep port h
  | d3hotToD0 port => exact execD3hotToD0_keep port h
  | busMasterEnableSet port pasid conf => exact execBusMasterEnableSet_keep port pasid conf h
  | pasidEnableClear port => exact execPasidEnableClear_keep port h
  | atsTranslationResponse port pasid iova reader granted => exact execAtsTranslationResponse_keep port pasid iova reader granted h
  | atsInvalidate port pasid page => exact execAtsInvalidate_keep port pasid page h
  | hostReadCompletion reader reply => exact execHostReadCompletion_keep reader reply h
  | completionTimeout reader => exact execCompletionTimeout_keep reader h
  | linkTraining port lanes speed flit => exact execLinkTraining_keep port lanes speed flit h
  | linkRecoveryEntry port => exact execLinkRecoveryEntry_keep port h
  | rateCapRaise port => exact execRateCapRaise_keep port h
  | msixEntryWrite ctrl off value => exact execMsixEntryWrite_keep ctrl off value h
  | mctpPacketReceive src som eom seq pecOk bytes tag => exact execMctpPacketReceive_keep src som eom seq pecOk bytes tag h
  | mctpReassemblyTimeout  => exact execMctpReassemblyTimeout_keep  h
  | sidebandResponseSent  => exact execSidebandResponseSent_keep  h
  | setEndpointId eid => exact execSetEndpointId_keep eid h
  | getEndpointId  => exact execGetEndpointId_keep  h
  | getEndpointUuid  => exact execGetEndpointUuid_keep  h
  | getMctpVersionSupport msgType => exact execGetMctpVersionSupport_keep msgType h
  | getMessageTypeSupport  => exact execGetMessageTypeSupport_keep  h
  | getVendorDefinedMessageSupport  => exact execGetVendorDefinedMessageSupport_keep  h
  | readNvmeMiDataStructure dtyp ctrl => exact execReadNvmeMiDataStructure_keep dtyp ctrl h
  | nvmSubsystemHealthStatusPoll  => exact execNvmSubsystemHealthStatusPoll_keep  h
  | controllerHealthStatusPoll ctrl => exact execControllerHealthStatusPoll_keep ctrl h
  | configurationSet cfg value => exact execConfigurationSet_keep cfg value h
  | configurationGet cfg => exact execConfigurationGet_keep cfg h
  | nvmeMiAdminCommand ctrlId e dlen => exact execNvmeMiAdminCommand_keep ctrlId e dlen h
  | getVersion vver => exact execGetVersion_keep vver h
  | adminTunnel vver e dlen msgLen => exact execAdminTunnel_keep vver e dlen msgLen h
  | readResponsePart vver off len => exact execReadResponsePart_keep vver off len h
  | releaseResponse vver => exact execReleaseResponse_keep vver h
  | responseHoldTimeout  => exact execResponseHoldTimeout_keep  h
  | engGo c ctx input aux => exact execEngGo_keep c ctx input aux h
  | engCtlClose c ctx => exact execEngCtlClose_keep c ctx h
  | engCtlAbort c ctx => exact execEngCtlAbort_keep c ctx h
  | engineJobEnd c ctx code => exact execEngineJobEnd_keep c ctx code h
  | engineSwitchBoundary cls unit unwrapOk => exact execEngineSwitchBoundary_keep cls unit unwrapOk h
  | engineJobWaitLimit c ctx => exact execEngineJobWaitLimit_keep c ctx h
  | engineNoBoundaryTimeout cls unit => exact execEngineNoBoundaryTimeout_keep cls unit h
  | ocEnWrite c value => exact execOcEnWrite_keep c value h
  | ocDrainComplete c lost => exact execOcDrainComplete_keep c lost h
  | ocmMaskWrite c port value => exact execOcmMaskWrite_keep c port value h
  | ocAging c => exact execOcAging_keep c h
  | coreReset c => exact execCoreReset_keep c h
  | watchdogExpiry c => exact execWatchdogExpiry_keep c h
  | asyncExceptionEntry c exc => exact execAsyncExceptionEntry_keep c exc h
  | illegalOpcode c word => exact execIllegalOpcode_keep c word h
  | iMov c w => exact execIMov_keep c w h
  | iClr c w => exact execIClr_keep c w h
  | iLea c w => exact execILea_keep c w h
  | iSel c w => exact execISel_keep c w h
  | iBswap c w => exact execIBswap_keep c w h
  | iSexb c w => exact execISexb_keep c w h
  | iSexh c w => exact execISexh_keep c w h
  | iSexw c w => exact execISexw_keep c w h
  | iZexb c w => exact execIZexb_keep c w h
  | iZexh c w => exact execIZexh_keep c w h
  | iZexw c w => exact execIZexw_keep c w h
  | iAdd c w => exact execIAdd_keep c w h
  | iAdc c w => exact execIAdc_keep c w h
  | iSub c w => exact execISub_keep c w h
  | iSbc c w => exact execISbc_keep c w h
  | iNeg c w => exact execINeg_keep c w h
  | iMul c w => exact execIMul_keep c w h
  | iMulhu c w => exact execIMulhu_keep c w h
  | iMulhs c w => exact execIMulhs_keep c w h
  | iDivu c w => exact execIDivu_keep c w h
  | iDivs c w => exact execIDivs_keep c w h
  | iRemu c w => exact execIRemu_keep c w h
  | iRems c w => exact execIRems_keep c w h
  | iMinu c w => exact execIMinu_keep c w h
  | iMaxu c w => exact execIMaxu_keep c w h
  | iMins c w => exact execIMins_keep c w h
  | iMaxs c w => exact execIMaxs_keep c w h
  | iAnd c w => exact execIAnd_keep c w h
  | iOr c w => exact execIOr_keep c w h
  | iXor c w => exact execIXor_keep c w h
  | iAndn c w => exact execIAndn_keep c w h
  | iNot c w => exact execINot_keep c w h
  | iShl c w => exact execIShl_keep c w h
  | iShr c w => exact execIShr_keep c w h
  | iSar c w => exact execISar_keep c w h
  | iRol c w => exact execIRol_keep c w h
  | iRor c w => exact execIRor_keep c w h
  | iPopc c w => exact execIPopc_keep c w h
  | iClz c w => exact execIClz_keep c w h
  | iCtz c w => exact execICtz_keep c w h
  | iCmp c w => exact execICmp_keep c w h
  | iTst c w => exact execITst_keep c w h
  | iBr c w => exact execIBr_keep c w h
  | iBcc c cc w => exact execIBcc_keep c cc w h
  | iDjnz c w => exact execIDjnz_keep c w h
  | iCall c w => exact execICall_keep c w h
  | iRet c w => exact execIRet_keep c w h
  | iMovs c w limit => exact execIMovs_keep c w limit h
  | iCmps c w limit => exact execICmps_keep c w limit h
  | iScans c w limit => exact execIScans_keep c w limit h
  | iScansn c w limit => exact execIScansn_keep c w limit h
  | iFills c w limit => exact execIFills_keep c w limit h
  | iXlts c w limit => exact execIXlts_keep c w limit h
  | iCrcs c w limit => exact execICrcs_keep c w limit h
  | iRpt c w next => exact execIRpt_keep c w next h
  | iBset c w => exact execIBset_keep c w h
  | iBclr c w => exact execIBclr_keep c w h
  | iBnot c w => exact execIBnot_keep c w h
  | iBmov c w => exact execIBmov_keep c w h
  | iBand c w => exact execIBand_keep c w h
  | iBor c w => exact execIBor_keep c w h
  | iBxor c w => exact execIBxor_keep c w h
  | iBt c w => exact execIBt_keep c w h
  | iBf c w => exact execIBf_keep c w h
  | iBtclr c w => exact execIBtclr_keep c w h
  | iBld c w => exact execIBld_keep c w h
  | iBst c w => exact execIBst_keep c w h
  | iIn c w => exact execIIn_keep c w h
  | iOut c w => exact execIOut_keep c w h
  | iIox c w => exact execIIox_keep c w h
  | iMfs c w => exact execIMfs_keep c w h
  | iMts c w => exact execIMts_keep c w h
  | iOcwb c w => exact execIOcwb_keep c w h
  | iOcinv c w => exact execIOcinv_keep c w h
  | iOcwbi c w => exact execIOcwbi_keep c w h
  | iOcall c w => exact execIOcall_keep c w h
  | iWaitb c w => exact execIWaitb_keep c w h
  | iTrap c w => exact execITrap_keep c w h
  | iBkpt c w => exact execIBkpt_keep c w h
  | iIst c w => exact execIIst_keep c w h
  | iRfe c w => exact execIRfe_keep c w h
  | iHalt c w => exact execIHalt_keep c w h
  | iWdr c w => exact execIWdr_keep c w h
  | iExtu c w => exact execIExtu_keep c w h
  | iExts c w => exact execIExts_keep c w h
  | iIns c w => exact execIIns_keep c w h
  | iLdbe c w => exact execILdbe_keep c w h
  | iStbe c w => exact execIStbe_keep c w h
  | iVdec c w => exact execIVdec_keep c w h
  | iVdecz c w => exact execIVdecz_keep c w h
  | iRngu c w => exact execIRngu_keep c w h
  | iRngs c w => exact execIRngs_keep c w h
  | iHstep c w => exact execIHstep_keep c w h
  | iPair c a b bit0 => exact execIPair_keep c a b bit0 h
  | powerRemoved  => exact execPowerRemoved_keep  h
  | busMasterEnableClear port => exact execBusMasterEnableClear_keep port h
  | d3hotEntry port => exact execD3hotEntry_keep port h
  | msixFunctionMaskChange port enable mask => exact execMsixFunctionMaskChange_keep port enable mask h
  | rcRegisterRead win off size => exact execRcRegisterRead_keep win off size h
  | hmDigestFinishComplete  => exact execHmDigestFinishComplete_keep  h
  | i3cDynamicAddressAssignment addr => exact execI3cDynamicAddressAssignment_keep addr h
  | interruptAggregationTimeExpiry ctrl vector => exact execInterruptAggregationTimeExpiry_keep ctrl vector h

end Sys2Proof.Machine
end

