-- ==== Sys2Proof/Laws/Records.lean ====
section
/-! SUPPORT. What the records of the state read as after a change. -/

namespace Sys2Proof.Machine

/-- A changed link reads as changed. -/
theorem link_mod (s : State) (l : Nat) (f : Link → Link) : (s.modLink l f).rel.link l = f (s.rel.link l) := by
  simp only [State.modLink, Rel.link, Tbl.getD, Tbl.get?_set_self]; rfl

/-- A changed direction of a link reads as changed, and the other direction stands. -/
theorem lane_mod (s : State) (l : Nat) (back : Bool) (f : Lane → Lane) :
    (s.modLane l back f).rel.lane l back = f (s.rel.lane l back) ∧ (s.modLane l back f).rel.lane l (!back) = s.rel.lane l (!back) := by
  unfold State.modLane Rel.lane; cases back <;> simp only [link_mod] <;> exact ⟨rfl, rfl⟩

/-- A changed flash channel reads as changed, and the others stand. -/
theorem chan_mod (m : Media) (c k : Nat) (f : Chan → Chan) : (m.modChan c f).chan k = if k = c then f (m.chan c) else m.chan k := by
  unfold Media.modChan Media.chan Tbl.getD
  simp only [Tbl.get?_set, eq_comm (a := c)]
  split <;> rfl

/-- A changed block set reads as changed, and the others stand. -/
theorem set_mod (m : Media) (n k : Nat) (f : BlockSet → BlockSet) : (m.modSet n f).set k = if k = n then f (m.set n) else m.set k := by
  unfold Media.modSet Media.set Tbl.getD
  simp only [Tbl.get?_set, eq_comm (a := n)]
  split <;> rfl

/-- A changed DRAM channel reads as changed. -/
theorem dchan_mod (s : State) (c : Nat) (f : DramChan → DramChan) : (s.modDchan c f).dchan c = f (s.dchan c) := by
  unfold State.modDchan State.dchan; exact Tbl.getD_set_self ..

/-- A unit written at a place is found there. -/
theorem stored_set (s : State) (set off : Nat) (u : Stored) : (s.storeUnit set off u).media.storedAt set off = some u := by
  unfold State.storeUnit Media.storedAt State.modMedia; exact Tbl.get?_set_self ..

/-- A controller set reads back. -/
theorem setCtrl_ctrl (s : State) (i : Nat) (c : Ctrl) : (s.setCtrl i c).ctrl i = c := by
  simp only [State.ctrl, State.setCtrl, Tbl.getD, Tbl.get?_set_self]; rfl

structure Kept (i : Nat) (s t : State) : Prop where
  ctrl : { t.ctrl i with sqs := [], backlog := [] } = { s.ctrl i with sqs := [], backlog := [] }
  sq : t.host.poolSq = s.host.poolSq
  cq : t.host.poolCq = s.host.poolCq
  sl : t.host.slices = s.host.slices
  ns : t.media.ns = s.media.ns
  bil : t.cpu.billets = s.cpu.billets
  slots : t.hm.slots = s.hm.slots
  loc : t.dram.locals = s.dram.locals
  met : t.meter = s.meter
  rel : t.rel = s.rel

/-- A slice set reads back, and the others stand. -/
theorem slice_set (s : State) (i j : Nat) (x : Slice) : (s.setSlice i x).slice j = if i = j then x else s.slice j := by
  unfold State.slice State.setSlice; simp only []
  by_cases h : i = j
  · subst h; simp
  · simp [h, Tbl.getD_set_ne _ _ _ h]

/-- Deleting what is absent leaves it absent. -/
theorem Tbl.get?_del_none {α : Type} (t : Tbl α) (n : Nat) (h : Tbl.get? t n = none) : Tbl.get? (Tbl.del t n) n = none := by
  induction t with
  | nil => rfl
  | cons p t ih =>
    obtain ⟨k, v⟩ := p
    rw [Tbl.get?] at h
    by_cases e : k = n
    · rw [if_pos e] at h; cases h
    · rw [if_neg e] at h; rw [Tbl.del, if_neg e, Tbl.get?, if_neg e]; exact ih h

/-- A changed subchannel reads as changed. -/
theorem subch_mod (s : State) (i : Nat) (f : SubChan → SubChan) : (s.modSubch i f).subch i = f (s.subch i) := by
  unfold State.modSubch State.subch; exact Tbl.getD_set_self ..

/-- What a mapped table holds. -/
theorem getMap {α : Type} (t : Tbl α) (f : Nat → α → α) (n : Nat) : Tbl.get? (Tbl.mapV t f) n = (Tbl.get? t n).map (f n) := by
  induction t with
  | nil => rfl
  | cons p t ih =>
    obtain ⟨k, v⟩ := p
    show Tbl.get? ((k, f k v) :: Tbl.mapV t f) n = _
    rw [Tbl.get?, Tbl.get?]
    by_cases h : k = n
    · rw [if_pos h, if_pos h, h]; rfl
    · rw [if_neg h, if_neg h, ih]

/-- A changed port reads as changed. -/
theorem port_mod (s : State) (p : Nat) (f : Port → Port) : (s.modPort p f).port p = f (s.port p) := by
  unfold State.modPort State.port; exact Tbl.getD_set_self ..

/-- A changed controller reads as changed. -/
theorem ctrl_mod (s : State) (c : Nat) (f : Ctrl → Ctrl) : (s.modCtrl c f).ctrl c = f (s.ctrl c) := by
  unfold State.modCtrl State.ctrl; simp only [State.setCtrl]; exact Tbl.getD_set_self ..

/-- A changed core reads as changed. -/
theorem core_mod (s : State) (c : Nat) (f : Core → Core) : (s.modCore c f).core c = f (s.core c) := by
  unfold State.modCore State.core; exact Tbl.getD_set_self ..

/-- Memories in canonical form that read alike are equal. -/
theorem Mem.ext' {m n : Mem} {lo : Nat} (hm : Mem.wfFrom lo m = true) (hn : Mem.wfFrom lo n = true) (h : ∀ y, Mem.get m y = Mem.get n y) : m = n := by
  induction m generalizing lo n with
  | nil =>
    cases n with
    | nil => rfl
    | cons p n =>
      obtain ⟨k, v⟩ := p
      have := h k
      simp only [Mem.wfFrom, Bool.and_eq_true, bne_iff_ne, ne_eq] at hn
      rw [Mem.get, Mem.get, if_pos rfl] at this
      exact absurd this.symm hn.1.2
  | cons p m ih =>
    obtain ⟨k, v⟩ := p
    have hm' := hm
    simp only [Mem.wfFrom, Bool.and_eq_true, bne_iff_ne, ne_eq, decide_eq_true_eq] at hm'
    cases n with
    | nil =>
      have := h k
      rw [Mem.get, Mem.get, if_pos rfl] at this
      exact absurd this hm'.1.2
    | cons p' n =>
      obtain ⟨k', v'⟩ := p'
      have hn' := hn
      simp only [Mem.wfFrom, Bool.and_eq_true, bne_iff_ne, ne_eq, decide_eq_true_eq] at hn'
      have e : k = k' := by
        rcases Nat.lt_trichotomy k k' with e | e | e
        · have := h k
          rw [Mem.get, if_pos rfl, Mem.get, if_neg (by omega), Mem.get_below hn'.2 (by omega)] at this
          exact absurd this hm'.1.2
        · exact e
        · have := h k'
          rw [Mem.get, if_neg (by omega), Mem.get_below hm'.2 (by omega), Mem.get, if_pos rfl] at this
          exact absurd this.symm hn'.1.2
      subst e
      have e2 : v = v' := by have := h k; rwa [Mem.get, if_pos rfl, Mem.get, if_pos rfl] at this
      subst e2
      rw [ih hm'.2 hn'.2]
      intro y
      by_cases hy : k = y
      · subst hy; rw [Mem.get_below hm'.2 (by omega), Mem.get_below hn'.2 (by omega)]
      · have := h y; rwa [Mem.get, if_neg hy, Mem.get, if_neg hy] at this

/-- Two writes of one record are the last. -/
theorem set_set {α : Type} (t : Tbl α) (n : Nat) (x y : α) : Tbl.set (Tbl.set t n x) n y = Tbl.set t n y := by
  induction t with
  | nil => simp [Tbl.set]
  | cons p t ih =>
    obtain ⟨k, v⟩ := p
    simp only [Tbl.set]
    split
    · simp [Tbl.set]
    · split
      · simp [Tbl.set]
      · simp only [Tbl.set]
        rw [if_neg (by omega), if_neg (by omega), ih]

end Sys2Proof.Machine
end

