-- ==== Sys2Proof/Laws/State.lean ====
section
/-! SUPPORT. Which parts of the state each small update leaves: one lemma per part and update. -/

namespace Sys2Proof.Machine

@[simp] theorem State.modDchan_cpu (s : State) (c : Nat) (f : DramChan → DramChan) : (s.modDchan c f).cpu = s.cpu := rfl
@[simp] theorem State.modDchan_host (s : State) (c : Nat) (f : DramChan → DramChan) : (s.modDchan c f).host = s.host := rfl
@[simp] theorem State.modDchan_time (s : State) (c : Nat) (f : DramChan → DramChan) : (s.modDchan c f).time = s.time := rfl
@[simp] theorem State.modDchan_meter (s : State) (c : Nat) (f : DramChan → DramChan) : (s.modDchan c f).meter = s.meter := rfl
@[simp] theorem State.modDchan_dev (s : State) (c : Nat) (f : DramChan → DramChan) : (s.modDchan c f).dev = s.dev := rfl
@[simp] theorem State.modDchan_hm (s : State) (c : Nat) (f : DramChan → DramChan) : (s.modDchan c f).hm = s.hm := rfl
@[simp] theorem State.modDchan_rel (s : State) (c : Nat) (f : DramChan → DramChan) : (s.modDchan c f).rel = s.rel := rfl
@[simp] theorem State.modDchan_media (s : State) (c : Nat) (f : DramChan → DramChan) : (s.modDchan c f).media = s.media := rfl
@[simp] theorem State.modDchan_out (s : State) (c : Nat) (f : DramChan → DramChan) : (s.modDchan c f).out = s.out := rfl
@[simp] theorem State.modDchan_free (s : State) (c : Nat) (f : DramChan → DramChan) : (s.modDchan c f).free = s.free := rfl
@[simp] theorem State.modDchan_pending (s : State) (c : Nat) (f : DramChan → DramChan) : (s.modDchan c f).pending = s.pending := rfl

@[simp] theorem State.modSubch_cpu (s : State) (i : Nat) (f : SubChan → SubChan) : (s.modSubch i f).cpu = s.cpu := rfl
@[simp] theorem State.modSubch_host (s : State) (i : Nat) (f : SubChan → SubChan) : (s.modSubch i f).host = s.host := rfl
@[simp] theorem State.modSubch_time (s : State) (i : Nat) (f : SubChan → SubChan) : (s.modSubch i f).time = s.time := rfl
@[simp] theorem State.modSubch_meter (s : State) (i : Nat) (f : SubChan → SubChan) : (s.modSubch i f).meter = s.meter := rfl
@[simp] theorem State.modSubch_dev (s : State) (i : Nat) (f : SubChan → SubChan) : (s.modSubch i f).dev = s.dev := rfl
@[simp] theorem State.modSubch_hm (s : State) (i : Nat) (f : SubChan → SubChan) : (s.modSubch i f).hm = s.hm := rfl
@[simp] theorem State.modSubch_rel (s : State) (i : Nat) (f : SubChan → SubChan) : (s.modSubch i f).rel = s.rel := rfl
@[simp] theorem State.modSubch_media (s : State) (i : Nat) (f : SubChan → SubChan) : (s.modSubch i f).media = s.media := rfl
@[simp] theorem State.modSubch_out (s : State) (i : Nat) (f : SubChan → SubChan) : (s.modSubch i f).out = s.out := rfl
@[simp] theorem State.modSubch_free (s : State) (i : Nat) (f : SubChan → SubChan) : (s.modSubch i f).free = s.free := rfl
@[simp] theorem State.modSubch_pending (s : State) (i : Nat) (f : SubChan → SubChan) : (s.modSubch i f).pending = s.pending := rfl

@[simp] theorem State.setUnit_host (s : State) (cls : EngineClass) (u : Nat) (x : EngUnit) : (s.setUnit cls u x).host = s.host := rfl
@[simp] theorem State.setUnit_time (s : State) (cls : EngineClass) (u : Nat) (x : EngUnit) : (s.setUnit cls u x).time = s.time := rfl
@[simp] theorem State.setUnit_meter (s : State) (cls : EngineClass) (u : Nat) (x : EngUnit) : (s.setUnit cls u x).meter = s.meter := rfl
@[simp] theorem State.setUnit_dram (s : State) (cls : EngineClass) (u : Nat) (x : EngUnit) : (s.setUnit cls u x).dram = s.dram := rfl
@[simp] theorem State.setUnit_dev (s : State) (cls : EngineClass) (u : Nat) (x : EngUnit) : (s.setUnit cls u x).dev = s.dev := rfl
@[simp] theorem State.setUnit_hm (s : State) (cls : EngineClass) (u : Nat) (x : EngUnit) : (s.setUnit cls u x).hm = s.hm := rfl
@[simp] theorem State.setUnit_rel (s : State) (cls : EngineClass) (u : Nat) (x : EngUnit) : (s.setUnit cls u x).rel = s.rel := rfl
@[simp] theorem State.setUnit_media (s : State) (cls : EngineClass) (u : Nat) (x : EngUnit) : (s.setUnit cls u x).media = s.media := rfl
@[simp] theorem State.setUnit_out (s : State) (cls : EngineClass) (u : Nat) (x : EngUnit) : (s.setUnit cls u x).out = s.out := rfl
@[simp] theorem State.setUnit_free (s : State) (cls : EngineClass) (u : Nat) (x : EngUnit) : (s.setUnit cls u x).free = s.free := rfl
@[simp] theorem State.setUnit_pending (s : State) (cls : EngineClass) (u : Nat) (x : EngUnit) : (s.setUnit cls u x).pending = s.pending := rfl

@[simp] theorem State.modLink_cpu (s : State) (l : Nat) (f : Link → Link) : (s.modLink l f).cpu = s.cpu := rfl
@[simp] theorem State.modLink_host (s : State) (l : Nat) (f : Link → Link) : (s.modLink l f).host = s.host := rfl
@[simp] theorem State.modLink_time (s : State) (l : Nat) (f : Link → Link) : (s.modLink l f).time = s.time := rfl
@[simp] theorem State.modLink_meter (s : State) (l : Nat) (f : Link → Link) : (s.modLink l f).meter = s.meter := rfl
@[simp] theorem State.modLink_dram (s : State) (l : Nat) (f : Link → Link) : (s.modLink l f).dram = s.dram := rfl
@[simp] theorem State.modLink_dev (s : State) (l : Nat) (f : Link → Link) : (s.modLink l f).dev = s.dev := rfl
@[simp] theorem State.modLink_hm (s : State) (l : Nat) (f : Link → Link) : (s.modLink l f).hm = s.hm := rfl
@[simp] theorem State.modLink_media (s : State) (l : Nat) (f : Link → Link) : (s.modLink l f).media = s.media := rfl
@[simp] theorem State.modLink_out (s : State) (l : Nat) (f : Link → Link) : (s.modLink l f).out = s.out := rfl
@[simp] theorem State.modLink_free (s : State) (l : Nat) (f : Link → Link) : (s.modLink l f).free = s.free := rfl
@[simp] theorem State.modLink_pending (s : State) (l : Nat) (f : Link → Link) : (s.modLink l f).pending = s.pending := rfl

@[simp] theorem State.modSram_cpu (s : State) (g : Nat) (f : SramGroup → SramGroup) : (s.modSram g f).cpu = s.cpu := rfl
@[simp] theorem State.modSram_host (s : State) (g : Nat) (f : SramGroup → SramGroup) : (s.modSram g f).host = s.host := rfl
@[simp] theorem State.modSram_time (s : State) (g : Nat) (f : SramGroup → SramGroup) : (s.modSram g f).time = s.time := rfl
@[simp] theorem State.modSram_meter (s : State) (g : Nat) (f : SramGroup → SramGroup) : (s.modSram g f).meter = s.meter := rfl
@[simp] theorem State.modSram_dram (s : State) (g : Nat) (f : SramGroup → SramGroup) : (s.modSram g f).dram = s.dram := rfl
@[simp] theorem State.modSram_dev (s : State) (g : Nat) (f : SramGroup → SramGroup) : (s.modSram g f).dev = s.dev := rfl
@[simp] theorem State.modSram_hm (s : State) (g : Nat) (f : SramGroup → SramGroup) : (s.modSram g f).hm = s.hm := rfl
@[simp] theorem State.modSram_media (s : State) (g : Nat) (f : SramGroup → SramGroup) : (s.modSram g f).media = s.media := rfl
@[simp] theorem State.modSram_out (s : State) (g : Nat) (f : SramGroup → SramGroup) : (s.modSram g f).out = s.out := rfl
@[simp] theorem State.modSram_free (s : State) (g : Nat) (f : SramGroup → SramGroup) : (s.modSram g f).free = s.free := rfl
@[simp] theorem State.modSram_pending (s : State) (g : Nat) (f : SramGroup → SramGroup) : (s.modSram g f).pending = s.pending := rfl

@[simp] theorem State.modFw_cpu (s : State) (f : Firmware → Firmware) : (s.modFw f).cpu = s.cpu := rfl
@[simp] theorem State.modFw_host (s : State) (f : Firmware → Firmware) : (s.modFw f).host = s.host := rfl
@[simp] theorem State.modFw_time (s : State) (f : Firmware → Firmware) : (s.modFw f).time = s.time := rfl
@[simp] theorem State.modFw_meter (s : State) (f : Firmware → Firmware) : (s.modFw f).meter = s.meter := rfl
@[simp] theorem State.modFw_dram (s : State) (f : Firmware → Firmware) : (s.modFw f).dram = s.dram := rfl
@[simp] theorem State.modFw_hm (s : State) (f : Firmware → Firmware) : (s.modFw f).hm = s.hm := rfl
@[simp] theorem State.modFw_rel (s : State) (f : Firmware → Firmware) : (s.modFw f).rel = s.rel := rfl
@[simp] theorem State.modFw_media (s : State) (f : Firmware → Firmware) : (s.modFw f).media = s.media := rfl
@[simp] theorem State.modFw_out (s : State) (f : Firmware → Firmware) : (s.modFw f).out = s.out := rfl
@[simp] theorem State.modFw_free (s : State) (f : Firmware → Firmware) : (s.modFw f).free = s.free := rfl
@[simp] theorem State.modFw_pending (s : State) (f : Firmware → Firmware) : (s.modFw f).pending = s.pending := rfl

@[simp] theorem State.modRegs_host (s : State) (c : Nat) (f : Regs → Regs) : (s.modRegs c f).host = s.host := rfl
@[simp] theorem State.modRegs_time (s : State) (c : Nat) (f : Regs → Regs) : (s.modRegs c f).time = s.time := rfl
@[simp] theorem State.modRegs_meter (s : State) (c : Nat) (f : Regs → Regs) : (s.modRegs c f).meter = s.meter := rfl
@[simp] theorem State.modRegs_dram (s : State) (c : Nat) (f : Regs → Regs) : (s.modRegs c f).dram = s.dram := rfl
@[simp] theorem State.modRegs_dev (s : State) (c : Nat) (f : Regs → Regs) : (s.modRegs c f).dev = s.dev := rfl
@[simp] theorem State.modRegs_hm (s : State) (c : Nat) (f : Regs → Regs) : (s.modRegs c f).hm = s.hm := rfl
@[simp] theorem State.modRegs_rel (s : State) (c : Nat) (f : Regs → Regs) : (s.modRegs c f).rel = s.rel := rfl
@[simp] theorem State.modRegs_media (s : State) (c : Nat) (f : Regs → Regs) : (s.modRegs c f).media = s.media := rfl
@[simp] theorem State.modRegs_out (s : State) (c : Nat) (f : Regs → Regs) : (s.modRegs c f).out = s.out := rfl
@[simp] theorem State.modRegs_free (s : State) (c : Nat) (f : Regs → Regs) : (s.modRegs c f).free = s.free := rfl
@[simp] theorem State.modRegs_pending (s : State) (c : Nat) (f : Regs → Regs) : (s.modRegs c f).pending = s.pending := rfl

@[simp] theorem State.modMedia_cpu (s : State) (f : Media → Media) : (s.modMedia f).cpu = s.cpu := rfl
@[simp] theorem State.modMedia_host (s : State) (f : Media → Media) : (s.modMedia f).host = s.host := rfl
@[simp] theorem State.modMedia_time (s : State) (f : Media → Media) : (s.modMedia f).time = s.time := rfl
@[simp] theorem State.modMedia_meter (s : State) (f : Media → Media) : (s.modMedia f).meter = s.meter := rfl
@[simp] theorem State.modMedia_dram (s : State) (f : Media → Media) : (s.modMedia f).dram = s.dram := rfl
@[simp] theorem State.modMedia_dev (s : State) (f : Media → Media) : (s.modMedia f).dev = s.dev := rfl
@[simp] theorem State.modMedia_hm (s : State) (f : Media → Media) : (s.modMedia f).hm = s.hm := rfl
@[simp] theorem State.modMedia_rel (s : State) (f : Media → Media) : (s.modMedia f).rel = s.rel := rfl
@[simp] theorem State.modMedia_out (s : State) (f : Media → Media) : (s.modMedia f).out = s.out := rfl
@[simp] theorem State.modMedia_free (s : State) (f : Media → Media) : (s.modMedia f).free = s.free := rfl
@[simp] theorem State.modMedia_pending (s : State) (f : Media → Media) : (s.modMedia f).pending = s.pending := rfl

@[simp] theorem State.setSan_cpu (s : State) (scope : Option Nat) (x : Sanitize) : (s.setSan scope x).cpu = s.cpu := rfl
@[simp] theorem State.setSan_host (s : State) (scope : Option Nat) (x : Sanitize) : (s.setSan scope x).host = s.host := rfl
@[simp] theorem State.setSan_time (s : State) (scope : Option Nat) (x : Sanitize) : (s.setSan scope x).time = s.time := rfl
@[simp] theorem State.setSan_meter (s : State) (scope : Option Nat) (x : Sanitize) : (s.setSan scope x).meter = s.meter := rfl
@[simp] theorem State.setSan_dram (s : State) (scope : Option Nat) (x : Sanitize) : (s.setSan scope x).dram = s.dram := rfl
@[simp] theorem State.setSan_hm (s : State) (scope : Option Nat) (x : Sanitize) : (s.setSan scope x).hm = s.hm := rfl
@[simp] theorem State.setSan_rel (s : State) (scope : Option Nat) (x : Sanitize) : (s.setSan scope x).rel = s.rel := rfl
@[simp] theorem State.setSan_media (s : State) (scope : Option Nat) (x : Sanitize) : (s.setSan scope x).media = s.media := rfl
@[simp] theorem State.setSan_out (s : State) (scope : Option Nat) (x : Sanitize) : (s.setSan scope x).out = s.out := rfl
@[simp] theorem State.setSan_free (s : State) (scope : Option Nat) (x : Sanitize) : (s.setSan scope x).free = s.free := rfl
@[simp] theorem State.setSan_pending (s : State) (scope : Option Nat) (x : Sanitize) : (s.setSan scope x).pending = s.pending := rfl

@[simp] theorem State.modCtrl_cpu (s : State) (i : Nat) (f : Ctrl → Ctrl) : (s.modCtrl i f).cpu = s.cpu := rfl
@[simp] theorem State.modCtrl_time (s : State) (i : Nat) (f : Ctrl → Ctrl) : (s.modCtrl i f).time = s.time := rfl
@[simp] theorem State.modCtrl_meter (s : State) (i : Nat) (f : Ctrl → Ctrl) : (s.modCtrl i f).meter = s.meter := rfl
@[simp] theorem State.modCtrl_dram (s : State) (i : Nat) (f : Ctrl → Ctrl) : (s.modCtrl i f).dram = s.dram := rfl
@[simp] theorem State.modCtrl_dev (s : State) (i : Nat) (f : Ctrl → Ctrl) : (s.modCtrl i f).dev = s.dev := rfl
@[simp] theorem State.modCtrl_hm (s : State) (i : Nat) (f : Ctrl → Ctrl) : (s.modCtrl i f).hm = s.hm := rfl
@[simp] theorem State.modCtrl_rel (s : State) (i : Nat) (f : Ctrl → Ctrl) : (s.modCtrl i f).rel = s.rel := rfl
@[simp] theorem State.modCtrl_media (s : State) (i : Nat) (f : Ctrl → Ctrl) : (s.modCtrl i f).media = s.media := rfl
@[simp] theorem State.modCtrl_out (s : State) (i : Nat) (f : Ctrl → Ctrl) : (s.modCtrl i f).out = s.out := rfl
@[simp] theorem State.modCtrl_free (s : State) (i : Nat) (f : Ctrl → Ctrl) : (s.modCtrl i f).free = s.free := rfl
@[simp] theorem State.modCtrl_pending (s : State) (i : Nat) (f : Ctrl → Ctrl) : (s.modCtrl i f).pending = s.pending := rfl

@[simp] theorem State.modSlice_cpu (s : State) (i : Nat) (f : Slice → Slice) : (s.modSlice i f).cpu = s.cpu := rfl
@[simp] theorem State.modSlice_time (s : State) (i : Nat) (f : Slice → Slice) : (s.modSlice i f).time = s.time := rfl
@[simp] theorem State.modSlice_meter (s : State) (i : Nat) (f : Slice → Slice) : (s.modSlice i f).meter = s.meter := rfl
@[simp] theorem State.modSlice_dram (s : State) (i : Nat) (f : Slice → Slice) : (s.modSlice i f).dram = s.dram := rfl
@[simp] theorem State.modSlice_dev (s : State) (i : Nat) (f : Slice → Slice) : (s.modSlice i f).dev = s.dev := rfl
@[simp] theorem State.modSlice_hm (s : State) (i : Nat) (f : Slice → Slice) : (s.modSlice i f).hm = s.hm := rfl
@[simp] theorem State.modSlice_rel (s : State) (i : Nat) (f : Slice → Slice) : (s.modSlice i f).rel = s.rel := rfl
@[simp] theorem State.modSlice_media (s : State) (i : Nat) (f : Slice → Slice) : (s.modSlice i f).media = s.media := rfl
@[simp] theorem State.modSlice_out (s : State) (i : Nat) (f : Slice → Slice) : (s.modSlice i f).out = s.out := rfl
@[simp] theorem State.modSlice_free (s : State) (i : Nat) (f : Slice → Slice) : (s.modSlice i f).free = s.free := rfl
@[simp] theorem State.modSlice_pending (s : State) (i : Nat) (f : Slice → Slice) : (s.modSlice i f).pending = s.pending := rfl

@[simp] theorem State.modCore_host (s : State) (c : Nat) (f : Core → Core) : (s.modCore c f).host = s.host := rfl
@[simp] theorem State.modCore_time (s : State) (c : Nat) (f : Core → Core) : (s.modCore c f).time = s.time := rfl
@[simp] theorem State.modCore_meter (s : State) (c : Nat) (f : Core → Core) : (s.modCore c f).meter = s.meter := rfl
@[simp] theorem State.modCore_dram (s : State) (c : Nat) (f : Core → Core) : (s.modCore c f).dram = s.dram := rfl
@[simp] theorem State.modCore_dev (s : State) (c : Nat) (f : Core → Core) : (s.modCore c f).dev = s.dev := rfl
@[simp] theorem State.modCore_hm (s : State) (c : Nat) (f : Core → Core) : (s.modCore c f).hm = s.hm := rfl
@[simp] theorem State.modCore_rel (s : State) (c : Nat) (f : Core → Core) : (s.modCore c f).rel = s.rel := rfl
@[simp] theorem State.modCore_media (s : State) (c : Nat) (f : Core → Core) : (s.modCore c f).media = s.media := rfl
@[simp] theorem State.modCore_out (s : State) (c : Nat) (f : Core → Core) : (s.modCore c f).out = s.out := rfl
@[simp] theorem State.modCore_free (s : State) (c : Nat) (f : Core → Core) : (s.modCore c f).free = s.free := rfl
@[simp] theorem State.modCore_pending (s : State) (c : Nat) (f : Core → Core) : (s.modCore c f).pending = s.pending := rfl

@[simp] theorem State.modCtx_host (s : State) (c : Nat) (f : Ctx → Ctx) : (s.modCtx c f).host = s.host := rfl
@[simp] theorem State.modCtx_time (s : State) (c : Nat) (f : Ctx → Ctx) : (s.modCtx c f).time = s.time := rfl
@[simp] theorem State.modCtx_meter (s : State) (c : Nat) (f : Ctx → Ctx) : (s.modCtx c f).meter = s.meter := rfl
@[simp] theorem State.modCtx_dram (s : State) (c : Nat) (f : Ctx → Ctx) : (s.modCtx c f).dram = s.dram := rfl
@[simp] theorem State.modCtx_dev (s : State) (c : Nat) (f : Ctx → Ctx) : (s.modCtx c f).dev = s.dev := rfl
@[simp] theorem State.modCtx_hm (s : State) (c : Nat) (f : Ctx → Ctx) : (s.modCtx c f).hm = s.hm := rfl
@[simp] theorem State.modCtx_rel (s : State) (c : Nat) (f : Ctx → Ctx) : (s.modCtx c f).rel = s.rel := rfl
@[simp] theorem State.modCtx_media (s : State) (c : Nat) (f : Ctx → Ctx) : (s.modCtx c f).media = s.media := rfl
@[simp] theorem State.modCtx_out (s : State) (c : Nat) (f : Ctx → Ctx) : (s.modCtx c f).out = s.out := rfl
@[simp] theorem State.modCtx_free (s : State) (c : Nat) (f : Ctx → Ctx) : (s.modCtx c f).free = s.free := rfl
@[simp] theorem State.modCtx_pending (s : State) (c : Nat) (f : Ctx → Ctx) : (s.modCtx c f).pending = s.pending := rfl

@[simp] theorem State.setRega_host (s : State) (c : Nat) (r : BitVec 3) (v : W64) : (s.setRega c r v).host = s.host := rfl
@[simp] theorem State.setRega_time (s : State) (c : Nat) (r : BitVec 3) (v : W64) : (s.setRega c r v).time = s.time := rfl
@[simp] theorem State.setRega_meter (s : State) (c : Nat) (r : BitVec 3) (v : W64) : (s.setRega c r v).meter = s.meter := rfl
@[simp] theorem State.setRega_dram (s : State) (c : Nat) (r : BitVec 3) (v : W64) : (s.setRega c r v).dram = s.dram := rfl
@[simp] theorem State.setRega_dev (s : State) (c : Nat) (r : BitVec 3) (v : W64) : (s.setRega c r v).dev = s.dev := rfl
@[simp] theorem State.setRega_hm (s : State) (c : Nat) (r : BitVec 3) (v : W64) : (s.setRega c r v).hm = s.hm := rfl
@[simp] theorem State.setRega_rel (s : State) (c : Nat) (r : BitVec 3) (v : W64) : (s.setRega c r v).rel = s.rel := rfl
@[simp] theorem State.setRega_media (s : State) (c : Nat) (r : BitVec 3) (v : W64) : (s.setRega c r v).media = s.media := rfl
@[simp] theorem State.setRega_out (s : State) (c : Nat) (r : BitVec 3) (v : W64) : (s.setRega c r v).out = s.out := rfl
@[simp] theorem State.setRega_free (s : State) (c : Nat) (r : BitVec 3) (v : W64) : (s.setRega c r v).free = s.free := rfl
@[simp] theorem State.setRega_pending (s : State) (c : Nat) (r : BitVec 3) (v : W64) : (s.setRega c r v).pending = s.pending := rfl

@[simp] theorem State.modOc_host (s : State) (c : Nat) (f : OpCache → OpCache) : (s.modOc c f).host = s.host := rfl
@[simp] theorem State.modOc_time (s : State) (c : Nat) (f : OpCache → OpCache) : (s.modOc c f).time = s.time := rfl
@[simp] theorem State.modOc_meter (s : State) (c : Nat) (f : OpCache → OpCache) : (s.modOc c f).meter = s.meter := rfl
@[simp] theorem State.modOc_dram (s : State) (c : Nat) (f : OpCache → OpCache) : (s.modOc c f).dram = s.dram := rfl
@[simp] theorem State.modOc_dev (s : State) (c : Nat) (f : OpCache → OpCache) : (s.modOc c f).dev = s.dev := rfl
@[simp] theorem State.modOc_hm (s : State) (c : Nat) (f : OpCache → OpCache) : (s.modOc c f).hm = s.hm := rfl
@[simp] theorem State.modOc_rel (s : State) (c : Nat) (f : OpCache → OpCache) : (s.modOc c f).rel = s.rel := rfl
@[simp] theorem State.modOc_media (s : State) (c : Nat) (f : OpCache → OpCache) : (s.modOc c f).media = s.media := rfl
@[simp] theorem State.modOc_out (s : State) (c : Nat) (f : OpCache → OpCache) : (s.modOc c f).out = s.out := rfl
@[simp] theorem State.modOc_free (s : State) (c : Nat) (f : OpCache → OpCache) : (s.modOc c f).free = s.free := rfl
@[simp] theorem State.modOc_pending (s : State) (c : Nat) (f : OpCache → OpCache) : (s.modOc c f).pending = s.pending := rfl

@[simp] theorem State.drawn_cpu (s : State) : (s.drawn).cpu = s.cpu := rfl
@[simp] theorem State.drawn_host (s : State) : (s.drawn).host = s.host := rfl
@[simp] theorem State.drawn_time (s : State) : (s.drawn).time = s.time := rfl
@[simp] theorem State.drawn_meter (s : State) : (s.drawn).meter = s.meter := rfl
@[simp] theorem State.drawn_dram (s : State) : (s.drawn).dram = s.dram := rfl
@[simp] theorem State.drawn_dev (s : State) : (s.drawn).dev = s.dev := rfl
@[simp] theorem State.drawn_hm (s : State) : (s.drawn).hm = s.hm := rfl
@[simp] theorem State.drawn_rel (s : State) : (s.drawn).rel = s.rel := rfl
@[simp] theorem State.drawn_media (s : State) : (s.drawn).media = s.media := rfl
@[simp] theorem State.drawn_out (s : State) : (s.drawn).out = s.out := rfl
@[simp] theorem State.drawn_pending (s : State) : (s.drawn).pending = s.pending := rfl

@[simp] theorem State.drawnN_cpu (s : State) (n : Nat) : (s.drawnN n).cpu = s.cpu := rfl
@[simp] theorem State.drawnN_host (s : State) (n : Nat) : (s.drawnN n).host = s.host := rfl
@[simp] theorem State.drawnN_time (s : State) (n : Nat) : (s.drawnN n).time = s.time := rfl
@[simp] theorem State.drawnN_meter (s : State) (n : Nat) : (s.drawnN n).meter = s.meter := rfl
@[simp] theorem State.drawnN_dram (s : State) (n : Nat) : (s.drawnN n).dram = s.dram := rfl
@[simp] theorem State.drawnN_dev (s : State) (n : Nat) : (s.drawnN n).dev = s.dev := rfl
@[simp] theorem State.drawnN_hm (s : State) (n : Nat) : (s.drawnN n).hm = s.hm := rfl
@[simp] theorem State.drawnN_rel (s : State) (n : Nat) : (s.drawnN n).rel = s.rel := rfl
@[simp] theorem State.drawnN_media (s : State) (n : Nat) : (s.drawnN n).media = s.media := rfl
@[simp] theorem State.drawnN_out (s : State) (n : Nat) : (s.drawnN n).out = s.out := rfl
@[simp] theorem State.drawnN_pending (s : State) (n : Nat) : (s.drawnN n).pending = s.pending := rfl

@[simp] theorem State.setCore_host (s : State) (c : Nat) (k : Core) : (s.setCore c k).host = s.host := rfl
@[simp] theorem State.setCore_time (s : State) (c : Nat) (k : Core) : (s.setCore c k).time = s.time := rfl
@[simp] theorem State.setCore_meter (s : State) (c : Nat) (k : Core) : (s.setCore c k).meter = s.meter := rfl
@[simp] theorem State.setCore_dram (s : State) (c : Nat) (k : Core) : (s.setCore c k).dram = s.dram := rfl
@[simp] theorem State.setCore_dev (s : State) (c : Nat) (k : Core) : (s.setCore c k).dev = s.dev := rfl
@[simp] theorem State.setCore_hm (s : State) (c : Nat) (k : Core) : (s.setCore c k).hm = s.hm := rfl
@[simp] theorem State.setCore_rel (s : State) (c : Nat) (k : Core) : (s.setCore c k).rel = s.rel := rfl
@[simp] theorem State.setCore_media (s : State) (c : Nat) (k : Core) : (s.setCore c k).media = s.media := rfl
@[simp] theorem State.setCore_out (s : State) (c : Nat) (k : Core) : (s.setCore c k).out = s.out := rfl
@[simp] theorem State.setCore_free (s : State) (c : Nat) (k : Core) : (s.setCore c k).free = s.free := rfl
@[simp] theorem State.setCore_pending (s : State) (c : Nat) (k : Core) : (s.setCore c k).pending = s.pending := rfl

@[simp] theorem State.setForge_host (s : State) (f : Nat) (k : Forge) : (s.setForge f k).host = s.host := rfl
@[simp] theorem State.setForge_time (s : State) (f : Nat) (k : Forge) : (s.setForge f k).time = s.time := rfl
@[simp] theorem State.setForge_meter (s : State) (f : Nat) (k : Forge) : (s.setForge f k).meter = s.meter := rfl
@[simp] theorem State.setForge_dram (s : State) (f : Nat) (k : Forge) : (s.setForge f k).dram = s.dram := rfl
@[simp] theorem State.setForge_dev (s : State) (f : Nat) (k : Forge) : (s.setForge f k).dev = s.dev := rfl
@[simp] theorem State.setForge_hm (s : State) (f : Nat) (k : Forge) : (s.setForge f k).hm = s.hm := rfl
@[simp] theorem State.setForge_rel (s : State) (f : Nat) (k : Forge) : (s.setForge f k).rel = s.rel := rfl
@[simp] theorem State.setForge_media (s : State) (f : Nat) (k : Forge) : (s.setForge f k).media = s.media := rfl
@[simp] theorem State.setForge_out (s : State) (f : Nat) (k : Forge) : (s.setForge f k).out = s.out := rfl
@[simp] theorem State.setForge_free (s : State) (f : Nat) (k : Forge) : (s.setForge f k).free = s.free := rfl
@[simp] theorem State.setForge_pending (s : State) (f : Nat) (k : Forge) : (s.setForge f k).pending = s.pending := rfl

@[simp] theorem State.setRun_host (s : State) (r : Nat) (k : Run) : (s.setRun r k).host = s.host := rfl
@[simp] theorem State.setRun_time (s : State) (r : Nat) (k : Run) : (s.setRun r k).time = s.time := rfl
@[simp] theorem State.setRun_meter (s : State) (r : Nat) (k : Run) : (s.setRun r k).meter = s.meter := rfl
@[simp] theorem State.setRun_dram (s : State) (r : Nat) (k : Run) : (s.setRun r k).dram = s.dram := rfl
@[simp] theorem State.setRun_dev (s : State) (r : Nat) (k : Run) : (s.setRun r k).dev = s.dev := rfl
@[simp] theorem State.setRun_hm (s : State) (r : Nat) (k : Run) : (s.setRun r k).hm = s.hm := rfl
@[simp] theorem State.setRun_rel (s : State) (r : Nat) (k : Run) : (s.setRun r k).rel = s.rel := rfl
@[simp] theorem State.setRun_media (s : State) (r : Nat) (k : Run) : (s.setRun r k).media = s.media := rfl
@[simp] theorem State.setRun_out (s : State) (r : Nat) (k : Run) : (s.setRun r k).out = s.out := rfl
@[simp] theorem State.setRun_free (s : State) (r : Nat) (k : Run) : (s.setRun r k).free = s.free := rfl
@[simp] theorem State.setRun_pending (s : State) (r : Nat) (k : Run) : (s.setRun r k).pending = s.pending := rfl

@[simp] theorem State.setCtrl_cpu (s : State) (i : Nat) (k : Ctrl) : (s.setCtrl i k).cpu = s.cpu := rfl
@[simp] theorem State.setCtrl_time (s : State) (i : Nat) (k : Ctrl) : (s.setCtrl i k).time = s.time := rfl
@[simp] theorem State.setCtrl_meter (s : State) (i : Nat) (k : Ctrl) : (s.setCtrl i k).meter = s.meter := rfl
@[simp] theorem State.setCtrl_dram (s : State) (i : Nat) (k : Ctrl) : (s.setCtrl i k).dram = s.dram := rfl
@[simp] theorem State.setCtrl_dev (s : State) (i : Nat) (k : Ctrl) : (s.setCtrl i k).dev = s.dev := rfl
@[simp] theorem State.setCtrl_hm (s : State) (i : Nat) (k : Ctrl) : (s.setCtrl i k).hm = s.hm := rfl
@[simp] theorem State.setCtrl_rel (s : State) (i : Nat) (k : Ctrl) : (s.setCtrl i k).rel = s.rel := rfl
@[simp] theorem State.setCtrl_media (s : State) (i : Nat) (k : Ctrl) : (s.setCtrl i k).media = s.media := rfl
@[simp] theorem State.setCtrl_out (s : State) (i : Nat) (k : Ctrl) : (s.setCtrl i k).out = s.out := rfl
@[simp] theorem State.setCtrl_free (s : State) (i : Nat) (k : Ctrl) : (s.setCtrl i k).free = s.free := rfl
@[simp] theorem State.setCtrl_pending (s : State) (i : Nat) (k : Ctrl) : (s.setCtrl i k).pending = s.pending := rfl

@[simp] theorem State.setSlice_cpu (s : State) (i : Nat) (k : Slice) : (s.setSlice i k).cpu = s.cpu := rfl
@[simp] theorem State.setSlice_time (s : State) (i : Nat) (k : Slice) : (s.setSlice i k).time = s.time := rfl
@[simp] theorem State.setSlice_meter (s : State) (i : Nat) (k : Slice) : (s.setSlice i k).meter = s.meter := rfl
@[simp] theorem State.setSlice_dram (s : State) (i : Nat) (k : Slice) : (s.setSlice i k).dram = s.dram := rfl
@[simp] theorem State.setSlice_dev (s : State) (i : Nat) (k : Slice) : (s.setSlice i k).dev = s.dev := rfl
@[simp] theorem State.setSlice_hm (s : State) (i : Nat) (k : Slice) : (s.setSlice i k).hm = s.hm := rfl
@[simp] theorem State.setSlice_rel (s : State) (i : Nat) (k : Slice) : (s.setSlice i k).rel = s.rel := rfl
@[simp] theorem State.setSlice_media (s : State) (i : Nat) (k : Slice) : (s.setSlice i k).media = s.media := rfl
@[simp] theorem State.setSlice_out (s : State) (i : Nat) (k : Slice) : (s.setSlice i k).out = s.out := rfl
@[simp] theorem State.setSlice_free (s : State) (i : Nat) (k : Slice) : (s.setSlice i k).free = s.free := rfl
@[simp] theorem State.setSlice_pending (s : State) (i : Nat) (k : Slice) : (s.setSlice i k).pending = s.pending := rfl

@[simp] theorem State.meterUp_cpu (s : State) (sl : Nat) (f : Counts → Counts) : (s.meterUp sl f).cpu = s.cpu := by unfold State.meterUp; split <;> rfl
@[simp] theorem State.meterUp_host (s : State) (sl : Nat) (f : Counts → Counts) : (s.meterUp sl f).host = s.host := by unfold State.meterUp; split <;> rfl
@[simp] theorem State.meterUp_time (s : State) (sl : Nat) (f : Counts → Counts) : (s.meterUp sl f).time = s.time := by unfold State.meterUp; split <;> rfl
@[simp] theorem State.meterUp_dram (s : State) (sl : Nat) (f : Counts → Counts) : (s.meterUp sl f).dram = s.dram := by unfold State.meterUp; split <;> rfl
@[simp] theorem State.meterUp_dev (s : State) (sl : Nat) (f : Counts → Counts) : (s.meterUp sl f).dev = s.dev := by unfold State.meterUp; split <;> rfl
@[simp] theorem State.meterUp_hm (s : State) (sl : Nat) (f : Counts → Counts) : (s.meterUp sl f).hm = s.hm := by unfold State.meterUp; split <;> rfl
@[simp] theorem State.meterUp_rel (s : State) (sl : Nat) (f : Counts → Counts) : (s.meterUp sl f).rel = s.rel := by unfold State.meterUp; split <;> rfl
@[simp] theorem State.meterUp_media (s : State) (sl : Nat) (f : Counts → Counts) : (s.meterUp sl f).media = s.media := by unfold State.meterUp; split <;> rfl
@[simp] theorem State.meterUp_out (s : State) (sl : Nat) (f : Counts → Counts) : (s.meterUp sl f).out = s.out := by unfold State.meterUp; split <;> rfl
@[simp] theorem State.meterUp_free (s : State) (sl : Nat) (f : Counts → Counts) : (s.meterUp sl f).free = s.free := by unfold State.meterUp; split <;> rfl
@[simp] theorem State.meterUp_pending (s : State) (sl : Nat) (f : Counts → Counts) : (s.meterUp sl f).pending = s.pending := by unfold State.meterUp; split <;> rfl

@[simp] theorem State.modPort_cpu (s : State) (p : Nat) (f : Port → Port) : (s.modPort p f).cpu = s.cpu := rfl
@[simp] theorem State.modPort_host (s : State) (p : Nat) (f : Port → Port) : (s.modPort p f).host = s.host := rfl
@[simp] theorem State.modPort_time (s : State) (p : Nat) (f : Port → Port) : (s.modPort p f).time = s.time := rfl
@[simp] theorem State.modPort_meter (s : State) (p : Nat) (f : Port → Port) : (s.modPort p f).meter = s.meter := rfl
@[simp] theorem State.modPort_dram (s : State) (p : Nat) (f : Port → Port) : (s.modPort p f).dram = s.dram := rfl
@[simp] theorem State.modPort_hm (s : State) (p : Nat) (f : Port → Port) : (s.modPort p f).hm = s.hm := rfl
@[simp] theorem State.modPort_rel (s : State) (p : Nat) (f : Port → Port) : (s.modPort p f).rel = s.rel := rfl
@[simp] theorem State.modPort_media (s : State) (p : Nat) (f : Port → Port) : (s.modPort p f).media = s.media := rfl
@[simp] theorem State.modPort_out (s : State) (p : Nat) (f : Port → Port) : (s.modPort p f).out = s.out := rfl
@[simp] theorem State.modPort_free (s : State) (p : Nat) (f : Port → Port) : (s.modPort p f).free = s.free := rfl
@[simp] theorem State.modPort_pending (s : State) (p : Nat) (f : Port → Port) : (s.modPort p f).pending = s.pending := rfl

@[simp] theorem State.modPwr_cpu (s : State) (f : Power → Power) : (s.modPwr f).cpu = s.cpu := rfl
@[simp] theorem State.modPwr_host (s : State) (f : Power → Power) : (s.modPwr f).host = s.host := rfl
@[simp] theorem State.modPwr_time (s : State) (f : Power → Power) : (s.modPwr f).time = s.time := rfl
@[simp] theorem State.modPwr_meter (s : State) (f : Power → Power) : (s.modPwr f).meter = s.meter := rfl
@[simp] theorem State.modPwr_dram (s : State) (f : Power → Power) : (s.modPwr f).dram = s.dram := rfl
@[simp] theorem State.modPwr_hm (s : State) (f : Power → Power) : (s.modPwr f).hm = s.hm := rfl
@[simp] theorem State.modPwr_rel (s : State) (f : Power → Power) : (s.modPwr f).rel = s.rel := rfl
@[simp] theorem State.modPwr_media (s : State) (f : Power → Power) : (s.modPwr f).media = s.media := rfl
@[simp] theorem State.modPwr_out (s : State) (f : Power → Power) : (s.modPwr f).out = s.out := rfl
@[simp] theorem State.modPwr_free (s : State) (f : Power → Power) : (s.modPwr f).free = s.free := rfl
@[simp] theorem State.modPwr_pending (s : State) (f : Power → Power) : (s.modPwr f).pending = s.pending := rfl

@[simp] theorem State.modSide_cpu (s : State) (f : Sideband → Sideband) : (s.modSide f).cpu = s.cpu := rfl
@[simp] theorem State.modSide_host (s : State) (f : Sideband → Sideband) : (s.modSide f).host = s.host := rfl
@[simp] theorem State.modSide_time (s : State) (f : Sideband → Sideband) : (s.modSide f).time = s.time := rfl
@[simp] theorem State.modSide_meter (s : State) (f : Sideband → Sideband) : (s.modSide f).meter = s.meter := rfl
@[simp] theorem State.modSide_dram (s : State) (f : Sideband → Sideband) : (s.modSide f).dram = s.dram := rfl
@[simp] theorem State.modSide_hm (s : State) (f : Sideband → Sideband) : (s.modSide f).hm = s.hm := rfl
@[simp] theorem State.modSide_rel (s : State) (f : Sideband → Sideband) : (s.modSide f).rel = s.rel := rfl
@[simp] theorem State.modSide_media (s : State) (f : Sideband → Sideband) : (s.modSide f).media = s.media := rfl
@[simp] theorem State.modSide_out (s : State) (f : Sideband → Sideband) : (s.modSide f).out = s.out := rfl
@[simp] theorem State.modSide_free (s : State) (f : Sideband → Sideband) : (s.modSide f).free = s.free := rfl
@[simp] theorem State.modSide_pending (s : State) (f : Sideband → Sideband) : (s.modSide f).pending = s.pending := rfl

@[simp] theorem State.modLane_cpu (s : State) (l : Nat) (back : Bool) (f : Lane → Lane) : (s.modLane l back f).cpu = s.cpu := rfl
@[simp] theorem State.modLane_host (s : State) (l : Nat) (back : Bool) (f : Lane → Lane) : (s.modLane l back f).host = s.host := rfl
@[simp] theorem State.modLane_time (s : State) (l : Nat) (back : Bool) (f : Lane → Lane) : (s.modLane l back f).time = s.time := rfl
@[simp] theorem State.modLane_meter (s : State) (l : Nat) (back : Bool) (f : Lane → Lane) : (s.modLane l back f).meter = s.meter := rfl
@[simp] theorem State.modLane_dram (s : State) (l : Nat) (back : Bool) (f : Lane → Lane) : (s.modLane l back f).dram = s.dram := rfl
@[simp] theorem State.modLane_dev (s : State) (l : Nat) (back : Bool) (f : Lane → Lane) : (s.modLane l back f).dev = s.dev := rfl
@[simp] theorem State.modLane_hm (s : State) (l : Nat) (back : Bool) (f : Lane → Lane) : (s.modLane l back f).hm = s.hm := rfl
@[simp] theorem State.modLane_media (s : State) (l : Nat) (back : Bool) (f : Lane → Lane) : (s.modLane l back f).media = s.media := rfl
@[simp] theorem State.modLane_out (s : State) (l : Nat) (back : Bool) (f : Lane → Lane) : (s.modLane l back f).out = s.out := rfl
@[simp] theorem State.modLane_free (s : State) (l : Nat) (back : Bool) (f : Lane → Lane) : (s.modLane l back f).free = s.free := rfl
@[simp] theorem State.modLane_pending (s : State) (l : Nat) (back : Bool) (f : Lane → Lane) : (s.modLane l back f).pending = s.pending := rfl

@[simp] theorem State.modNs_cpu (s : State) (x : Nat) (f : Ns → Ns) : (s.modNs x f).cpu = s.cpu := rfl
@[simp] theorem State.modNs_host (s : State) (x : Nat) (f : Ns → Ns) : (s.modNs x f).host = s.host := rfl
@[simp] theorem State.modNs_time (s : State) (x : Nat) (f : Ns → Ns) : (s.modNs x f).time = s.time := rfl
@[simp] theorem State.modNs_meter (s : State) (x : Nat) (f : Ns → Ns) : (s.modNs x f).meter = s.meter := rfl
@[simp] theorem State.modNs_dram (s : State) (x : Nat) (f : Ns → Ns) : (s.modNs x f).dram = s.dram := rfl
@[simp] theorem State.modNs_dev (s : State) (x : Nat) (f : Ns → Ns) : (s.modNs x f).dev = s.dev := rfl
@[simp] theorem State.modNs_hm (s : State) (x : Nat) (f : Ns → Ns) : (s.modNs x f).hm = s.hm := rfl
@[simp] theorem State.modNs_rel (s : State) (x : Nat) (f : Ns → Ns) : (s.modNs x f).rel = s.rel := rfl
@[simp] theorem State.modNs_out (s : State) (x : Nat) (f : Ns → Ns) : (s.modNs x f).out = s.out := rfl
@[simp] theorem State.modNs_free (s : State) (x : Nat) (f : Ns → Ns) : (s.modNs x f).free = s.free := rfl
@[simp] theorem State.modNs_pending (s : State) (x : Nat) (f : Ns → Ns) : (s.modNs x f).pending = s.pending := rfl

@[simp] theorem State.modSq_cpu (s : State) (i n : Nat) (f : Sq → Sq) : (s.modSq i n f).cpu = s.cpu := rfl
@[simp] theorem State.modSq_time (s : State) (i n : Nat) (f : Sq → Sq) : (s.modSq i n f).time = s.time := rfl
@[simp] theorem State.modSq_meter (s : State) (i n : Nat) (f : Sq → Sq) : (s.modSq i n f).meter = s.meter := rfl
@[simp] theorem State.modSq_dram (s : State) (i n : Nat) (f : Sq → Sq) : (s.modSq i n f).dram = s.dram := rfl
@[simp] theorem State.modSq_dev (s : State) (i n : Nat) (f : Sq → Sq) : (s.modSq i n f).dev = s.dev := rfl
@[simp] theorem State.modSq_hm (s : State) (i n : Nat) (f : Sq → Sq) : (s.modSq i n f).hm = s.hm := rfl
@[simp] theorem State.modSq_rel (s : State) (i n : Nat) (f : Sq → Sq) : (s.modSq i n f).rel = s.rel := rfl
@[simp] theorem State.modSq_media (s : State) (i n : Nat) (f : Sq → Sq) : (s.modSq i n f).media = s.media := rfl
@[simp] theorem State.modSq_out (s : State) (i n : Nat) (f : Sq → Sq) : (s.modSq i n f).out = s.out := rfl
@[simp] theorem State.modSq_free (s : State) (i n : Nat) (f : Sq → Sq) : (s.modSq i n f).free = s.free := rfl
@[simp] theorem State.modSq_pending (s : State) (i n : Nat) (f : Sq → Sq) : (s.modSq i n f).pending = s.pending := rfl

@[simp] theorem State.modLog_cpu (s : State) (i : Nat) (f : CtrlLog → CtrlLog) : (s.modLog i f).cpu = s.cpu := rfl
@[simp] theorem State.modLog_time (s : State) (i : Nat) (f : CtrlLog → CtrlLog) : (s.modLog i f).time = s.time := rfl
@[simp] theorem State.modLog_meter (s : State) (i : Nat) (f : CtrlLog → CtrlLog) : (s.modLog i f).meter = s.meter := rfl
@[simp] theorem State.modLog_dram (s : State) (i : Nat) (f : CtrlLog → CtrlLog) : (s.modLog i f).dram = s.dram := rfl
@[simp] theorem State.modLog_dev (s : State) (i : Nat) (f : CtrlLog → CtrlLog) : (s.modLog i f).dev = s.dev := rfl
@[simp] theorem State.modLog_hm (s : State) (i : Nat) (f : CtrlLog → CtrlLog) : (s.modLog i f).hm = s.hm := rfl
@[simp] theorem State.modLog_rel (s : State) (i : Nat) (f : CtrlLog → CtrlLog) : (s.modLog i f).rel = s.rel := rfl
@[simp] theorem State.modLog_media (s : State) (i : Nat) (f : CtrlLog → CtrlLog) : (s.modLog i f).media = s.media := rfl
@[simp] theorem State.modLog_out (s : State) (i : Nat) (f : CtrlLog → CtrlLog) : (s.modLog i f).out = s.out := rfl
@[simp] theorem State.modLog_free (s : State) (i : Nat) (f : CtrlLog → CtrlLog) : (s.modLog i f).free = s.free := rfl
@[simp] theorem State.modLog_pending (s : State) (i : Nat) (f : CtrlLog → CtrlLog) : (s.modLog i f).pending = s.pending := rfl

@[simp] theorem State.modRead_cpu (s : State) (n : Nat) (f : MediaRead → MediaRead) : (s.modRead n f).cpu = s.cpu := by unfold State.modRead; split <;> rfl
@[simp] theorem State.modRead_host (s : State) (n : Nat) (f : MediaRead → MediaRead) : (s.modRead n f).host = s.host := by unfold State.modRead; split <;> rfl
@[simp] theorem State.modRead_time (s : State) (n : Nat) (f : MediaRead → MediaRead) : (s.modRead n f).time = s.time := by unfold State.modRead; split <;> rfl
@[simp] theorem State.modRead_meter (s : State) (n : Nat) (f : MediaRead → MediaRead) : (s.modRead n f).meter = s.meter := by unfold State.modRead; split <;> rfl
@[simp] theorem State.modRead_dram (s : State) (n : Nat) (f : MediaRead → MediaRead) : (s.modRead n f).dram = s.dram := by unfold State.modRead; split <;> rfl
@[simp] theorem State.modRead_dev (s : State) (n : Nat) (f : MediaRead → MediaRead) : (s.modRead n f).dev = s.dev := by unfold State.modRead; split <;> rfl
@[simp] theorem State.modRead_hm (s : State) (n : Nat) (f : MediaRead → MediaRead) : (s.modRead n f).hm = s.hm := by unfold State.modRead; split <;> rfl
@[simp] theorem State.modRead_rel (s : State) (n : Nat) (f : MediaRead → MediaRead) : (s.modRead n f).rel = s.rel := by unfold State.modRead; split <;> rfl
@[simp] theorem State.modRead_out (s : State) (n : Nat) (f : MediaRead → MediaRead) : (s.modRead n f).out = s.out := by unfold State.modRead; split <;> rfl
@[simp] theorem State.modRead_free (s : State) (n : Nat) (f : MediaRead → MediaRead) : (s.modRead n f).free = s.free := by unfold State.modRead; split <;> rfl
@[simp] theorem State.modRead_pending (s : State) (n : Nat) (f : MediaRead → MediaRead) : (s.modRead n f).pending = s.pending := by unfold State.modRead; split <;> rfl

@[simp] theorem State.modScan_host (s : State) (n : Nat) (f : Scan → Scan) : (s.modScan n f).host = s.host := by unfold State.modScan; split <;> rfl
@[simp] theorem State.modScan_time (s : State) (n : Nat) (f : Scan → Scan) : (s.modScan n f).time = s.time := by unfold State.modScan; split <;> rfl
@[simp] theorem State.modScan_meter (s : State) (n : Nat) (f : Scan → Scan) : (s.modScan n f).meter = s.meter := by unfold State.modScan; split <;> rfl
@[simp] theorem State.modScan_dram (s : State) (n : Nat) (f : Scan → Scan) : (s.modScan n f).dram = s.dram := by unfold State.modScan; split <;> rfl
@[simp] theorem State.modScan_dev (s : State) (n : Nat) (f : Scan → Scan) : (s.modScan n f).dev = s.dev := by unfold State.modScan; split <;> rfl
@[simp] theorem State.modScan_hm (s : State) (n : Nat) (f : Scan → Scan) : (s.modScan n f).hm = s.hm := by unfold State.modScan; split <;> rfl
@[simp] theorem State.modScan_rel (s : State) (n : Nat) (f : Scan → Scan) : (s.modScan n f).rel = s.rel := by unfold State.modScan; split <;> rfl
@[simp] theorem State.modScan_media (s : State) (n : Nat) (f : Scan → Scan) : (s.modScan n f).media = s.media := by unfold State.modScan; split <;> rfl
@[simp] theorem State.modScan_out (s : State) (n : Nat) (f : Scan → Scan) : (s.modScan n f).out = s.out := by unfold State.modScan; split <;> rfl
@[simp] theorem State.modScan_free (s : State) (n : Nat) (f : Scan → Scan) : (s.modScan n f).free = s.free := by unfold State.modScan; split <;> rfl
@[simp] theorem State.modScan_pending (s : State) (n : Nat) (f : Scan → Scan) : (s.modScan n f).pending = s.pending := by unfold State.modScan; split <;> rfl

@[simp] theorem State.dramReply_cpu (s : State) (r : DramReply) : (s.dramReply r).cpu = s.cpu := by unfold State.dramReply; split <;> rfl
@[simp] theorem State.dramReply_host (s : State) (r : DramReply) : (s.dramReply r).host = s.host := by unfold State.dramReply; split <;> rfl
@[simp] theorem State.dramReply_time (s : State) (r : DramReply) : (s.dramReply r).time = s.time := by unfold State.dramReply; split <;> rfl
@[simp] theorem State.dramReply_meter (s : State) (r : DramReply) : (s.dramReply r).meter = s.meter := by unfold State.dramReply; split <;> rfl
@[simp] theorem State.dramReply_dev (s : State) (r : DramReply) : (s.dramReply r).dev = s.dev := by unfold State.dramReply; split <;> rfl
@[simp] theorem State.dramReply_hm (s : State) (r : DramReply) : (s.dramReply r).hm = s.hm := by unfold State.dramReply; split <;> rfl
@[simp] theorem State.dramReply_rel (s : State) (r : DramReply) : (s.dramReply r).rel = s.rel := by unfold State.dramReply; split <;> rfl
@[simp] theorem State.dramReply_media (s : State) (r : DramReply) : (s.dramReply r).media = s.media := by unfold State.dramReply; split <;> rfl
@[simp] theorem State.dramReply_out (s : State) (r : DramReply) : (s.dramReply r).out = s.out := by unfold State.dramReply; split <;> rfl
@[simp] theorem State.dramReply_free (s : State) (r : DramReply) : (s.dramReply r).free = s.free := by unfold State.dramReply; split <;> rfl
@[simp] theorem State.dramReply_pending (s : State) (r : DramReply) : (s.dramReply r).pending = s.pending := by unfold State.dramReply; split <;> rfl

@[simp] theorem State.dramSleep_cpu (s : State) : s.dramSleep.cpu = s.cpu := by unfold State.dramSleep; split <;> rfl
@[simp] theorem State.dramSleep_host (s : State) : s.dramSleep.host = s.host := by unfold State.dramSleep; split <;> rfl
@[simp] theorem State.dramSleep_time (s : State) : s.dramSleep.time = s.time := by unfold State.dramSleep; split <;> rfl
@[simp] theorem State.dramSleep_meter (s : State) : s.dramSleep.meter = s.meter := by unfold State.dramSleep; split <;> rfl
@[simp] theorem State.dramSleep_dev (s : State) : s.dramSleep.dev = s.dev := by unfold State.dramSleep; split <;> rfl
@[simp] theorem State.dramSleep_hm (s : State) : s.dramSleep.hm = s.hm := by unfold State.dramSleep; split <;> rfl
@[simp] theorem State.dramSleep_rel (s : State) : s.dramSleep.rel = s.rel := by unfold State.dramSleep; split <;> rfl
@[simp] theorem State.dramSleep_media (s : State) : s.dramSleep.media = s.media := by unfold State.dramSleep; split <;> rfl
@[simp] theorem State.dramSleep_out (s : State) : s.dramSleep.out = s.out := by unfold State.dramSleep; split <;> rfl
@[simp] theorem State.dramSleep_free (s : State) : s.dramSleep.free = s.free := by unfold State.dramSleep; split <;> rfl
@[simp] theorem State.dramSleep_pending (s : State) : s.dramSleep.pending = s.pending := by unfold State.dramSleep; split <;> rfl

@[simp] theorem State.dramWake_cpu (s : State) : s.dramWake.cpu = s.cpu := by unfold State.dramWake; split <;> rfl
@[simp] theorem State.dramWake_host (s : State) : s.dramWake.host = s.host := by unfold State.dramWake; split <;> rfl
@[simp] theorem State.dramWake_time (s : State) : s.dramWake.time = s.time := by unfold State.dramWake; split <;> rfl
@[simp] theorem State.dramWake_meter (s : State) : s.dramWake.meter = s.meter := by unfold State.dramWake; split <;> rfl
@[simp] theorem State.dramWake_dev (s : State) : s.dramWake.dev = s.dev := by unfold State.dramWake; split <;> rfl
@[simp] theorem State.dramWake_hm (s : State) : s.dramWake.hm = s.hm := by unfold State.dramWake; split <;> rfl
@[simp] theorem State.dramWake_rel (s : State) : s.dramWake.rel = s.rel := by unfold State.dramWake; split <;> rfl
@[simp] theorem State.dramWake_media (s : State) : s.dramWake.media = s.media := by unfold State.dramWake; split <;> rfl
@[simp] theorem State.dramWake_out (s : State) : s.dramWake.out = s.out := by unfold State.dramWake; split <;> rfl
@[simp] theorem State.dramWake_free (s : State) : s.dramWake.free = s.free := by unfold State.dramWake; split <;> rfl
@[simp] theorem State.dramWake_pending (s : State) : s.dramWake.pending = s.pending := by unfold State.dramWake; split <;> rfl

@[simp] theorem State.storeUnit_cpu (s : State) (set off : Nat) (u : Stored) : (s.storeUnit set off u).cpu = s.cpu := rfl
@[simp] theorem State.storeUnit_host (s : State) (set off : Nat) (u : Stored) : (s.storeUnit set off u).host = s.host := rfl
@[simp] theorem State.storeUnit_time (s : State) (set off : Nat) (u : Stored) : (s.storeUnit set off u).time = s.time := rfl
@[simp] theorem State.storeUnit_meter (s : State) (set off : Nat) (u : Stored) : (s.storeUnit set off u).meter = s.meter := rfl
@[simp] theorem State.storeUnit_dram (s : State) (set off : Nat) (u : Stored) : (s.storeUnit set off u).dram = s.dram := rfl
@[simp] theorem State.storeUnit_dev (s : State) (set off : Nat) (u : Stored) : (s.storeUnit set off u).dev = s.dev := rfl
@[simp] theorem State.storeUnit_hm (s : State) (set off : Nat) (u : Stored) : (s.storeUnit set off u).hm = s.hm := rfl
@[simp] theorem State.storeUnit_rel (s : State) (set off : Nat) (u : Stored) : (s.storeUnit set off u).rel = s.rel := rfl
@[simp] theorem State.storeUnit_out (s : State) (set off : Nat) (u : Stored) : (s.storeUnit set off u).out = s.out := rfl
@[simp] theorem State.storeUnit_free (s : State) (set off : Nat) (u : Stored) : (s.storeUnit set off u).free = s.free := rfl
@[simp] theorem State.storeUnit_pending (s : State) (set off : Nat) (u : Stored) : (s.storeUnit set off u).pending = s.pending := rfl

end Sys2Proof.Machine
end

