-- ==== Sys2Proof/Tests/Slice0.lean ====
section
/-! SUPPORT. Tests: ill-formed commands, the spec's worked examples, and for each statement with premises a state and operands
that meet them. -/

namespace Sys2Proof.Tests
open Machine

/-- An entry with an opcode. -/
def entry (opc : Byte) (dw10 : W32) : Sqe := ⟨opc, 0, 1, 0, 0, .prp 0x1000 0 [], dw10, 0, 0, 0, 0, 0⟩
/-! ## Helpers -/

/-- An operand that is not used, a register, an immediate, a bench word. -/
def no : Specifier := ⟨0, 0, 0, 0⟩
def reg (r : BitVec 3) : Specifier := ⟨2, r, 0, 0⟩
def imm (f : BitVec 10) : Specifier := ⟨0, 0, f, 0⟩
def bench (f : BitVec 10) : Specifier := ⟨1, 0, f, 0⟩
/-- The long word of a size, a destination and two sources. -/
def word (size : BitVec 2) (d s1 s2 : Specifier) : LongWord := ⟨size, d, s1, s2, false⟩
/-- The state after a command. -/
def after (i : Instr) (s : State) : State := nextOr (exec i s) s
/-- Core 0 with these registers, in supervisor mode. -/
def regs (f : Regs → Regs) : State := State.reset.modCtx 0 fun x => { x with regs := f x.regs }
/-- A register of core 0. -/
def ra (s : State) (r : BitVec 3) : W64 := (s.core 0).ctx.regs.geta r

/-! ## Ill-formed commands are refused -/

theorem test_wf_core : (Instr.iAdd 144 (word 3 (reg 0) no no)).wf = false ∧ (Instr.iAdd 143 (word 3 (reg 0) no no)).wf = true := by decide
theorem test_wf_ctrl : (Instr.ccEnEnable 4 0).wf = false ∧ (Instr.ccEnEnable 255 0).wf = false ∧ (Instr.ccEnEnable 1280 0).wf = false
    ∧ (Instr.ccEnEnable 3 0).wf = true ∧ (Instr.ccEnEnable 256 0).wf = true ∧ (Instr.ccEnEnable 1279 0).wf = true := by decide
theorem test_wf_source : (Instr.flush (.queue 0 65) (entry 0 0)).wf = false ∧ (Instr.flush (.queue 256 64) (entry 0 0)).wf = true := by decide
/-- A flit from stop 0 to a stop, of so many bytes. -/
def flitTo (dst bytes : Nat) : Flit := ⟨0, 0, dst, 0, 0, 0, true, List.replicate bytes 0, 0, none⟩
theorem test_wf_flit : (Instr.deckFlitReceive ⟨59, false⟩ (flitTo 36 64) true false).wf = false ∧ (Instr.deckFlitReceive ⟨60, false⟩ (flitTo 35 64) true false).wf = false
    ∧ (Instr.deckFlitReceive ⟨59, true⟩ (flitTo 35 63) true false).wf = false ∧ (Instr.deckFlitReceive ⟨59, true⟩ (flitTo 35 64) true false).wf = true := by decide
theorem test_wf_reader : (Instr.completionTimeout (.engine 0 64)).wf = false ∧ (Instr.completionTimeout (.sqFetch 4 0)).wf = false ∧ (Instr.completionTimeout (.engine 0 63)).wf = true := by decide
theorem test_wf_place : (Instr.sramUncorrectable (.core 144)).wf = false ∧ (Instr.sramCorrection 31 0).wf = false ∧ (Instr.sramCorrection 30 0).wf = true := by decide
theorem test_wf_dest : (Instr.keyBusTransfer (.dramXts 4 0) true).wf = false ∧ (Instr.keyBusTransfer (.cipherLane 31 4097) true).wf = false
    ∧ (Instr.keyBusTransfer (.cipherPool 8 0) true).wf = false ∧ (Instr.keyBusTransfer (.cipherLane 31 4096) true).wf = true := by decide
/-- What a decoder made of a unit: decoded, not decoded, and no bits of a programmed page. -/
def decGood : Decode := ⟨100, some 1, []⟩
def decFail : Decode := ⟨100, none, []⟩
def decBlank : Decode := ⟨63, none, []⟩
theorem test_wf_sense : (Instr.softDecodeComplete 0 decFail ⟨1, false⟩ none).wf = false ∧ (Instr.flashReadComplete 0 decFail ⟨63, false⟩ none).wf = false
    ∧ (Instr.flashReadComplete 0 decGood ⟨62, true⟩ none).wf = true ∧ (Instr.flashReadComplete 0 decGood ⟨62, true⟩ (some [0])).wf = false
    ∧ (Instr.sampleRead 0 4 0).wf = false ∧ (Instr.sampleRead 1023 3 7).wf = true := by decide
theorem test_wf_dram : (Instr.dramRead ⟨0, 1024⟩ 0 none none ⟨[(80, 1)], []⟩).wf = false ∧ (Instr.dramRead ⟨0, 1025⟩ 0 none none ⟨[], []⟩).wf = false
    ∧ (Instr.dramRead ⟨0, 0⟩ 0 none none ⟨[], [10]⟩).wf = false ∧ (Instr.dramRead ⟨0, 0⟩ 0 (some 32) none ⟨[], []⟩).wf = false
    ∧ (Instr.dramWrite ⟨0, 0⟩ 0 [] (some (.core 144 0)) ⟨[], []⟩).wf = false ∧ (Instr.dramWrite ⟨0, 1024⟩ 0 [] (some (.core 143 0)) ⟨[], []⟩).wf = true
    ∧ (Instr.dramCommandIssue 4 0).wf = false ∧ (Instr.refreshDue 3 2 0 false).wf = false ∧ (Instr.refreshDue 3 1 3 false).wf = true := by decide
theorem test_wf_window : (Instr.registerWrite (.bar0 0) 0xFFFD 4 0).wf = false ∧ (Instr.registerWrite (.bar0 0) 0xFFFC 4 0).wf = true
    ∧ (Instr.rcRegisterRead (.bar2 4) 0 4).wf = false ∧ (Instr.rcRegisterRead .bar4 0x100000 4).wf = false := by decide
theorem test_wf_tick : (Instr.spanTick ⟨[1001], false, [], [], 0, [], []⟩).wf = false ∧ (Instr.spanTick ⟨[], false, [], [32], 0, [], []⟩).wf = false
    ∧ (Instr.spanTick ⟨[1000], false, [], [31], 0, [35], []⟩).wf = true ∧ (Instr.spanTick ⟨[], false, [], [], 0, [36], []⟩).wf = false := by decide
theorem test_wf_units : (Instr.engineKatComplete .softDecoder 12 true).wf = false ∧ (Instr.engineKatComplete .crucible 15 true).wf = true
    ∧ (Instr.engineNoBoundaryTimeout .assay 8).wf = false := by decide
theorem test_wf_numbers : (Instr.deleteAfterReset 1024).wf = false ∧ (Instr.sanitizeComplete (some 1024) true).wf = false ∧ (Instr.hotReset 4).wf = false ∧ (Instr.migHeadWrite 16 0).wf = false
    ∧ (Instr.dieBusyTimeout 1024).wf = false ∧ (Instr.rateChangeComplete 32 true).wf = false ∧ (Instr.atsInvalidate 0 0x100000 0).wf = false
    ∧ (Instr.lockstepMismatch 5 false).wf = false ∧ (Instr.ocmMaskWrite 0 4 0).wf = false ∧ (Instr.interruptAggregationTimeExpiry 0 64).wf = false := by decide

/-! ## The spec's worked examples -/

/-- R329, the summing loop in one word. -/
def addA2 : ShortOp := ⟨0x10, ⟨1, 2, 0⟩, ⟨4, 0, 0⟩⟩
def djnzA3 : ShortOp := ⟨0x32, ⟨1, 3, 0⟩, ⟨0, 0, 0⟩⟩
theorem test_pair_word : pairWord addA2 djnzA3 false = 0x9028080064580000 := by decide
/-- R329: one pass adds the value at A0, advances A0 and counts A3 down; the pair repeats while A3 is not 0. -/
def summing : State :=
  State.reset.modCtx 0 fun x => { x with bench := [(64, 7)], regs := ((x.regs.seta 0 64).seta 2 5).seta 3 2 }
theorem test_pair_sums : let t := after (.iPair 0 addA2 djnzA3 false) summing
    ra t 2 = 12 ∧ ra t 0 = 72 ∧ ra t 3 = 1 ∧ (t.core 0).ctx.pc = 0 := by decide
theorem test_pair_ends : let t := after (.iPair 0 addA2 djnzA3 false) (after (.iPair 0 addA2 djnzA3 false) summing)
    ra t 2 = 12 ∧ ra t 3 = 0 ∧ (t.core 0).ctx.pc = 8 := by decide
/-- R329, the checksum: the words of its table. -/
theorem test_words_of_the_checksum :
    longWord (opcOf 6 0x09) (word 3 no (imm 9) (imm 1)) = 0x6270000000240002
    ∧ longWord (opcOf 6 0x09) (word 3 no (reg 0) (imm 2)) = 0x6270000100000004
    ∧ longWord (opcOf 2 0x09) (word 3 (reg 0) (reg 0) (imm 32)) = 0x2272000100000040 := by decide
/-- R329, the first worked decode: MOV A1, (A0)+ with ADD of a hot bench word and A2. -/
theorem test_pair_word_two : pairWord ⟨0x01, ⟨1, 1, 0⟩, ⟨4, 0, 0⟩⟩ ⟨0x10, ⟨5, 0, 3⟩, ⟨1, 2, 0⟩⟩ false = 0x8124080021406500 := by decide
/-- The rest of the checksum's words, and the value it gives for its nine bytes. -/
theorem test_words_of_the_checksum_end :
    longWord (opcOf 4 0x06) (word 0 no no no) = 0x4180000000000000 ∧ longWord (opcOf 6 0x08) (word 3 (reg 0) no (imm 4)) = 0x6232000000000008
    ∧ longWord (opcOf 2 0x02) (word 2 (reg 0) (reg 0) (imm 1023)) = 0x20A20001000007FE := by decide
set_option maxRecDepth 20000 in
theorem test_checksum : crc32c [0x31, 0x32, 0x33, 0x34, 0x35, 0x36, 0x37, 0x38, 0x39] = 0xE3069283 := by decide
/-- R103, the example's two spans: slice C's debt is kept, slice A's credit is whole. -/
theorem test_credit : creditBal true 0 16000 = 16000 ∧ creditBal true 2000 8000 = 10000 ∧ creditBal true (-2000) 8000 = 6000 ∧ creditBal false 2000 8000 = 0 := by decide
/-- Chapter 11, a divide by zero in a billet: the frame at FE60h, A0 the frame, A1 0Ah, A2 0. -/
def dividing : State :=
  let s := State.reset.modCore 0 fun k => { k with sup := false, run := some 0, ctl := { k.ctl with ilim := 0x1000 }, ctx := { k.ctx with pc := 0x240, regs := k.ctx.regs.seta 7 0xFF00 } }
  { s with cpu := { s.cpu with
    billets := [(0, { fmt := 2, codeLen := 0x1000, benchSz := 0x10000, handlers := List.replicate 14 0x800 })]
    runs := [(0, { slice := 0, ctrl := 256, sq := 1, cid := 1, bid := 0, entry := 0, arg0 := 0, arg1 := 0, outLen := 128, spanLim := 9, core := some 0 })] } }
set_option maxRecDepth 20000 in
theorem test_divide_by_zero : let t := after (.iDivu 0 (word 3 (reg 4) (reg 5) (reg 6))) dividing
    ra t 0 = 0xFE60 ∧ ra t 1 = 0x0A ∧ ra t 2 = 0 ∧ (t.core 0).ctx.pc = 0x800 ∧ (t.runAt 0).map (·.frame) = some 0xFE60 := by decide
set_option maxRecDepth 20000 in
theorem test_divide_frame : let b := (after (.iDivu 0 (word 3 (reg 4) (reg 5) (reg 6))) dividing).core 0 |>.ctx.bench
    leNat (Mem.read b 0xFE60 8) = 0x0A ∧ leNat (Mem.read b 0xFE68 8) = 0x240 ∧ leNat (Mem.read b 0xFE70 8) = 0x248 ∧ leNat (Mem.read b 0xFE78 8) = 0x240 := by decide
theorem wit_one_source : OneSource .reset .reset 0 (word 3 (reg 7) (imm 5) no) szAll .r true 5 (.reg 7)
    ∧ OneSource .reset .reset 0 (word 1 (reg 0) (reg 1) no) szHWD .rB true 0 (.reg 0)
    ∧ OneSource .reset .reset 0 (word 2 (reg 0) (imm 1023) no) szWD .rH true 0xFFFF (.reg 0)
    ∧ OneSource .reset .reset 143 (word 3 (reg 0) (imm 1) no) szD .rW true 1 (.reg 0)
    ∧ OneSource .reset .reset 0 (word 3 (bench 0) (imm 5) no) szHWD .r false 5 (.mem 0) :=
  ⟨⟨⟨by decide, fun _ => rfl⟩, ⟨.reset, rfl, rfl⟩, rfl⟩, ⟨⟨by decide, fun _ => rfl⟩, ⟨.reset, rfl, rfl⟩, rfl⟩,
   ⟨⟨by decide, fun _ => rfl⟩, ⟨.reset, rfl, rfl⟩, rfl⟩, ⟨⟨by decide, fun _ => rfl⟩, ⟨.reset, rfl, rfl⟩, rfl⟩,
   ⟨⟨by decide, fun _ => rfl⟩, ⟨.reset, rfl, rfl⟩, rfl⟩⟩
theorem wit_two_sources : TwoSources .reset .reset 0 (word 0 (reg 7) (imm 255) (imm 1)) szAll .r true 255 1 (.reg 7)
    ∧ TwoSources .reset .reset 0 (word 3 (reg 0) (imm 7) (imm 64)) szAll .rB true 7 64 (.reg 0)
    ∧ TwoSources .reset .reset 0 (word 3 (reg 0) (imm 7) (imm 0)) szAll .rH false 7 0 (.reg 0) :=
  ⟨⟨⟨by decide, fun _ => rfl⟩, ⟨.reset, .reset, rfl, rfl, rfl⟩, rfl⟩, ⟨⟨by decide, fun _ => rfl⟩, ⟨.reset, .reset, rfl, rfl, rfl⟩, rfl⟩,
   ⟨⟨by decide, fun _ => rfl⟩, ⟨.reset, .reset, rfl, rfl, rfl⟩, rfl⟩⟩
/-- A write that follows, to a register and to the bench. -/
theorem wit_write : (∃ t, writeLoc 0 true (.reg 7) 3 5 .reset = .ok ((), t)) ∧ ∃ t, writeLoc 0 true (.mem 0x3FFF8) 8 5 .reset = .ok ((), t) :=
  ⟨⟨_, rfl⟩, ⟨_, rfl⟩⟩
theorem wit_move : State.reset.longOk 0 (word 3 (reg 0) no no) szAll .w .none .none false true
    ∧ State.reset.longOk 0 (word 3 (reg 0) (bench 1) no) szD .w .a .none false true ∧ locate 0 false (bench 1) 8 .reset = .ok (.mem 8, .reset) :=
  ⟨⟨by decide, fun _ => rfl⟩, ⟨by decide, fun _ => rfl⟩, rfl⟩
theorem wit_branch : State.reset.longOk 0 (word 3 no (imm 1) (imm 2)) szAll .none .r .r false true
    ∧ State.reset.longOk 0 (word 3 no (imm 1) no) szAll .none .r .none false true
    ∧ State.reset.longOk 0 (word 3 no (reg 1) no) szD .none .t .none false true ∧ readTarget 0 (reg 1) .reset = .ok (0, .reset)
    ∧ State.reset.longOk 0 (word 3 no no no) szD .none .none .none false true
    ∧ State.reset.longOk 0 (word 3 (reg 2) (reg 1) no) szAll .m .t .none false true ∧ locate 0 false (reg 2) 8 .reset = .ok (.reg 2, .reset)
    ∧ readLoc 0 false true (.reg 2) 8 .reset = .ok (0, .reset) ∧ ∃ u, writeLoc 0 true (.reg 2) 8 (subVal 64 0 1 0) .reset = .ok ((), u) :=
  ⟨⟨by decide, fun _ => rfl⟩, ⟨by decide, fun _ => rfl⟩, ⟨by decide, fun _ => rfl⟩, rfl, ⟨by decide, fun _ => rfl⟩,
   ⟨by decide, fun _ => rfl⟩, rfl, rfl, ⟨_, rfl⟩⟩
theorem wit_bits : State.reset.longOk 0 (word 1 no (imm 3) no) szH .none .rH .none false true ∧ readSrc 0 false true (imm 3) .rH 2 .reset = .ok (3, .reset)
    ∧ State.reset.longOk 0 (word 1 no (imm 4) (imm 256)) szH .none .rH .rH false true ∧ readSrc 0 false true (imm 256) .rH 2 .reset = .ok (256, .reset)
    ∧ State.reset.longOk 0 (word 1 no (imm 64) (reg 1)) szH .none .rH .t false true
    ∧ State.reset.longOk 0 (word 3 (reg 0) (imm 127) no) szAll .w .rH .none false true
    ∧ State.reset.longOk 0 (word 3 no (imm 128) (imm 1)) szAll .none .rH .r false true
    ∧ bitFaults 64 false = false :=
  ⟨⟨by decide, fun _ => rfl⟩, rfl, ⟨by decide, fun _ => rfl⟩, rfl, ⟨by decide, fun _ => rfl⟩, ⟨by decide, fun _ => rfl⟩,
   ⟨by decide, fun _ => rfl⟩, by decide⟩
theorem wit_records : State.reset.longOk 0 (word 3 (reg 0) (imm 1) (imm 2)) szAll .m .r .rH false true
    ∧ readLoc 0 false false (.reg 0) 8 .reset = .ok (0, .reset) ∧ (∃ u, writeLoc 0 false (.reg 0) 8 4 .reset = .ok ((), u))
    ∧ State.reset.longOk 0 (word 3 (reg 0) (reg 1) no) szAll .w .reg .none false (varintD (word 3 (reg 0) (reg 1) no))
    ∧ (varintLoop 0 0 10 0 0 .reset).map (·.1) = .ok (some (0, 1)) ∧ varintFits false 64 0 = true ∧ varintFits false 8 256 = false
    ∧ (varintLoop 0 0 10 0 0 (State.reset.modCtx 0 fun k => { k with bench := (List.range 10).map fun i => (i, 0x80) })).map (·.1) = .ok none
    ∧ State.reset.longOk 0 (word 3 no (imm 5) (bench 0)) szAll .none .r .bounds false true
    ∧ (∃ u, readBounds 0 (bench 0) 8 .reset = .ok ((0, 0), u))
    ∧ State.reset.longOk 0 (word 3 (reg 0) (imm 5) no) szAll .md .r .none false true :=
  ⟨⟨by decide, fun _ => rfl⟩, rfl, ⟨_, rfl⟩, ⟨by decide, fun _ => rfl⟩, rfl, by decide, by decide, rfl, ⟨by decide, fun _ => rfl⟩, ⟨_, rfl⟩,
   ⟨by decide, fun _ => rfl⟩⟩
theorem wit_system : State.reset.longOk 0 (word 3 (reg 0) (imm 8) no) szAll .w .rW .none false true
    ∧ portFind .reset 0 8 8 .inp = some (.ctl 8) ∧ portFind .reset 0 8 8 .out = some (.ctl 8) ∧ portFind .reset 0 0x10040 8 .iox = some (.eng 0 0x40)
    ∧ State.reset.longOk 0 (word 3 no (imm 8) (imm 8)) szAll .none .rW .r false true
    ∧ State.reset.longOk 0 (word 3 (reg 0) (imm 8) (imm 8)) szAll .w .rW .r false true
    ∧ (∀ n : Fin 6, State.reset.longOk 0 (word 3 (reg 0) no (imm (BitVec.ofNat 10 n))) szD .w .none .n false true)
    ∧ (∀ n : Fin 6, State.reset.longOk 0 (word 3 no (imm 1) (imm (BitVec.ofNat 10 n))) szD .none .r .n false true)
    ∧ State.reset.longOk 0 (word 0 no (imm 8) no) szB .none .rB .none false true
    ∧ State.reset.longOk 0 (word 0 no no no) szB .none .none .none false true ∧ State.reset.longOk 0 (word 0 no no no) szB .none .none .none true true
    ∧ State.reset.longOk 0 (word 3 no (imm 8) (imm 1)) szD .none .rD .r true true ∧ State.reset.longOk 0 (word 3 no no no) szD .none .none .none true true :=
  ⟨⟨by decide, fun _ => rfl⟩, by decide, by decide, by decide, ⟨by decide, fun _ => rfl⟩, ⟨by decide, fun _ => rfl⟩,
   fun n => ⟨by decide, fun _ => (match n with | 0 => rfl | 1 => rfl | 2 => rfl | 3 => rfl | 4 => rfl | 5 => rfl)⟩, fun n => ⟨by decide, fun _ => (match n with | 0 => rfl | 1 => rfl | 2 => rfl | 3 => rfl | 4 => rfl | 5 => rfl)⟩, ⟨by decide, fun _ => rfl⟩, ⟨by decide, fun _ => rfl⟩,
   ⟨by decide, fun _ => rfl⟩, ⟨by decide, fun _ => rfl⟩, ⟨by decide, fun _ => rfl⟩⟩
theorem wit_operand_reads : (∃ t, readSrc 0 false true ⟨5, 1, 0, 0⟩ .r 8 .reset = .ok (0, t)) ∧ (∃ t, readSrc 0 false true ⟨6, 1, 0, 0⟩ .r 8 (regs fun g => g.seta 1 8) = .ok (0, t))
    ∧ ∃ t, readSrc 0 false true (reg 1) .r 8 .reset = .ok (0, t) := ⟨⟨_, rfl⟩, ⟨_, rfl⟩, ⟨_, rfl⟩⟩
theorem wit_destination : (∃ t, writeLoc 0 true (.mem 64) 8 5 .reset = .ok ((), t)) ∧ State.reset.place 0 64 = some (.bench 64) := ⟨⟨_, rfl⟩, by decide⟩
/-- Two elements of a string, to be moved, compared, scanned, translated or filled. -/
def str : State := regs fun g => { g with bc := 2, bs := 64, bd := 128 }
theorem wit_strings : str.longOk 0 (word 0 no no no) szAll .none .none .none false true ∧ str.longOk 0 (word 0 no no no) szB .none .none .none false true
    ∧ str.longOk 0 (word 0 no (imm 1) no) szAll .none .r .none false (strS1 (word 0 no (imm 1) no))
    ∧ str.longOk 0 (word 0 no (reg 3) no) szB .none .rD .none false (strS1 (word 0 no (reg 3) no))
    ∧ readSrc 0 true true (imm 1) .r 1 str = .ok (1, str) ∧ (str.core 0).ctx.regs.bc.toNat = 2
    ∧ (∃ t, memRead 0 true false 64 1 str = .ok ([0], t)) ∧ ∃ t, memWrite 0 true false 128 [0] str = .ok ((), t) :=
  ⟨⟨by decide, fun _ => rfl⟩, ⟨by decide, fun _ => rfl⟩, ⟨by decide, fun _ => rfl⟩, ⟨by decide, fun _ => rfl⟩, rfl, rfl, ⟨_, rfl⟩, ⟨_, rfl⟩⟩
/-- A string that stops at its limit, one that ends, and one whose first element meets the condition. -/
theorem wit_string_ends : (∃ t, Steps (fun x y => y = x.modRegs 0 fun g => { g with bc := g.bc - 1 }) 2 str t) ∧ 1 < (str.core 0).ctx.regs.bc.toNat
    ∧ decide (leNat [0] = leNat [0]) = true ∧ decide (leNat [0] = (1 : Nat)) = false := ⟨⟨_, _, rfl, _, rfl, rfl⟩, by decide, by decide, by decide⟩
theorem wit_repeat : State.reset.longOk 0 (word 0 no no no) szB .none .none .none false (!rptRefuses (longWord (opcOf 1 0) (word 3 (reg 0) (imm 1) (imm 1))))
    ∧ fetchFault .reset 0 8 = none ∧ rptRefuses (longWord (opcOf 4 0) (word 0 no no no)) = true ∧ (State.reset.core 0).ctx.regs.bc = 0
    ∧ ((regs fun g => { g with bc := 3 }).core 0).ctx.regs.bc ≠ 0 :=
  ⟨⟨by decide, fun _ => rfl⟩, by decide, by decide, rfl, by decide⟩
/-- Core 0 with entry 5 of its operand cache holding a dirty line of the bench, its error pending or not. -/
def cached (lost : List Nat) : State :=
  State.reset.modOc 0 fun o => { o with en := true, lines := [(5, { addr := 0x100000000, bytes := List.replicate 128 0, dirty := 1 })], lost := lost, accesses := 64, supv := 0x20 }
theorem wit_cache : (cached []).longOk 0 (word 3 no ⟨9, 0, 0, 0x100000000⟩ no) szD .none .a .none false true
    ∧ locate 0 false ⟨9, 0, 0, 0x100000000⟩ 8 (cached []) = .ok (.mem 0x100000000, cached [])
    ∧ (∃ l, ((cached []).core 0).oc.find 0x100000000 = some (5, l) ∧ l.dirty ≠ 0) ∧ ((cached []).core 0).oc.find 0x100000080 = none
    ∧ (Core.reach ((cached []).core 0)).getLsbD 5 = true ∧ ((cached [5]).core 0).oc.lost.contains 5 = true ∧ ((cached []).core 0).oc.lost.contains 5 = false
    ∧ (cached []).longOk 0 (word 3 no (imm 2) no) szD .none .n .none false true :=
  ⟨⟨by decide, fun _ => rfl⟩, rfl, ⟨_, rfl, by decide⟩, rfl, by decide, by decide, by decide, ⟨by decide, fun _ => rfl⟩⟩
theorem wit_pairs : State.reset.coreRuns 0 = true ∧ fetchFault .reset 0 0 = none ∧ State.reset.runOn 0 = none
    ∧ shortLegal addA2 false = true ∧ shortLegal djnzA3 true = true ∧ shortLegal djnzA3 false = false ∧ shortLegal ⟨0x7F, ⟨0, 0, 0⟩, ⟨0, 0, 0⟩⟩ true = false
    ∧ hazard (sopLocate .reset 0 addA2) (sopLocate .reset 0 djnzA3) [] [] [] [] = false
    ∧ hazard (sopLocate .reset 0 addA2) (sopLocate .reset 0 addA2) [] [] [] [] = true
    ∧ ∃ t, sopRead 0 (sopLocate summing 0 addA2) summing = .ok ((5, 7), t) := by
  refine ⟨by decide, by decide, by decide, by decide, by decide, by decide, by decide, by decide, by decide, _, rfl⟩
theorem wit_exceptions : ((State.reset.modCore 0 fun k => { k with ctl := { k.ctl with exl := true } }).core 0).ctl.exl = true
    ∧ (State.reset.core 0).ctl.exl = false ∧ (State.reset.core 0).sup = true ∧ ({ num := 10 } : Exc).stands = none := by decide
/-- Core 0 in a run of slice 0, in user mode, of a billet whose handler of exception 10 lies at 8. -/
def inRun (hs : List Nat) : State :=
  let s := State.reset.modCore 0 fun k => { k with sup := false, run := some 0, ctl := { k.ctl with ilim := 8 }, ctx := { k.ctx with regs := k.ctx.regs.seta 7 4096 } }
  { s with cpu := { s.cpu with
    billets := [(0, { fmt := 2, codeLen := 64, benchSz := 4096, handlers := hs })]
    runs := [(0, { slice := 0, ctrl := 256, sq := 1, cid := 1, bid := 0, entry := 0, arg0 := 0, arg1 := 0, outLen := 128, spanLim := 9, core := some 0 })] } }
theorem wit_unhandled : ((inRun []).core 0).sup = false ∧ ((inRun []).core 0).run = some 0 ∧ ((inRun []).runAt 0).isSome = true
    ∧ ((inRun []).runAt 0).all (fun r => ((inRun []).billetOf r).handler 10 = none) = true ∧ (inRun []).coreRuns 0 = true := by decide
theorem wit_handled : ((inRun (List.replicate 14 8)).runAt 0).all (fun r => ((inRun (List.replicate 14 8)).billetOf r).handler 10 = some 8 && !r.handler) = true
    ∧ (((inRun []).core 0).ctx.regs.geta 7).toNat = 4096 := by decide
theorem wit_core_events : ((State.reset.modCore 0 fun k => { k with pendWd := true }).core 0).pendWd = true
    ∧ ((State.reset.modCore 0 fun k => { k with pendSpan := true }).core 0).pendSpan = true ∧ (State.reset.core 0).pendWd = false
    ∧ ((State.reset.modCore 0 fun k => { k with pendEng := true }).core 0).pendEng = true
    ∧ ((State.reset.modOc 0 fun o => { o with en := true, drain := true }).core 0).oc.drain = true ∧ 64 ≤ ((cached []).core 0).oc.accesses := by decide
/-! ### Deck, keepers, faults, engines -/

/-- A flit from stop 0 to stop 1 on link 0, in good order. -/
def flit (tag : Nat) (cls : BitVec 2) : Flit := { flitTo 1 64 with tag := tag, cls := cls }
/-- A direction of link 0 with flits sent, held, and so many check failures in a row. -/
def linked (sent held : List Flit) (bad : Nat) : State := State.reset.modLane 0 false fun _ => { sent := sent, held := held, bad := bad }
theorem wit_deck : ((linked [] [] 1).rel.link 0).failed = false ∧ ((linked [] [] 1).rel.lane 0 false).bad < 2 ∧ 2 ≤ ((linked [] [] 2).rel.lane 0 false).bad
    ∧ ((linked [flit 1 0] [] 0).rel.lane 0 false).sent ≠ [] ∧ ((linked [] [flit 1 3, flit 2 1] 0).rel.lane 0 false).held = [flit 1 3] ++ flit 2 1 :: []
    ∧ (∀ y ∈ [flit 1 3], (flit 2 1).cls.toNat < y.cls.toNat) ∧ (∀ y ∈ [flit 1 3], y.tag ≠ (flit 2 1).tag) := by decide
theorem wit_deck_place : (laneEnds 0 false).2 = (flit 1 0).dst ∧ (laneEnds 0 true).2 = 0 ∧ (laneEnds 0 false).2 ≠ { flit 1 0 with dst := 2 }.dst
    ∧ (1 ∈ State.reset.rel.route 0 2) ∧ nextStop (State.reset.rel.route 0 2) 1 = some 2 ∧ laneOf 1 2 = some (1, false) ∧ laneOf 2 1 = some (1, true) := by decide
/-- Parity of a flit: a byte with an odd number of ones sets its bit. -/
theorem test_parity : deckParity [0x07, 0x03, 0x80] = 5 ∧ deckParity [0x03] = 0 ∧ { flit 1 0 with body := [1] }.parityOk = false := by decide
/-- A flit in its turn, one before its turn, a copy of one taken, and one of a poisoned transaction. -/
theorem wit_arrive : (flit 1 0).ord = Tbl.getD State.reset.rel.turn (flit 1 0).stream 0 ∧ State.reset.rel.early = []
    ∧ Tbl.getD State.reset.rel.turn (flit 1 0).stream 0 < { flit 1 0 with ord := 1 }.ord ∧ (flit 1 0).txnKey ∉ State.reset.rel.spoiled
    ∧ (let s : State := { State.reset with rel := { State.reset.rel with turn := [((flit 1 0).stream, 1)], spoiled := [(flit 1 0).txnKey] } }
       (flit 1 0).ord < Tbl.getD s.rel.turn (flit 1 0).stream 0 ∧ (flit 1 0).txnKey ∈ s.rel.spoiled) := by decide
/-- The spare pair takes the index; with pair 4 gone the next index does; with one pair left the device stops. -/
def pairs (l : List Nat) (v : Tbl Nat) : State := { State.reset with rel := { State.reset.rel with pairs := l, serves := v } }
theorem wit_keepers : ((State.reset.rel.serves.filter fun x => x.2 = 0) = [(0, 0)] ∧ 0 ∈ State.reset.rel.pairs)
    ∧ (4 ∈ delNat 0 State.reset.rel.pairs ∧ (∀ x ∈ State.reset.rel.serves, x.2 ≠ 4)
        ∧ ∀ y ∈ delNat 0 State.reset.rel.pairs, y ≠ 4 → ∃ x ∈ State.reset.rel.serves, x.2 = y)
    ∧ ((∀ y ∈ delNat 0 [0, 1, 2, 3], ∃ x ∈ (pairs [0, 1, 2, 3] State.reset.rel.serves).rel.serves, x.2 = y) ∧ 1 ∈ delNat 0 [0, 1, 2, 3]
        ∧ 1 = Tbl.getD (pairs [0, 1, 2, 3] State.reset.rel.serves).rel.serves 1 0)
    ∧ delNat 3 (pairs [3] [(3, 3)]).rel.pairs = [] := by decide
theorem wit_core_fault : 8 ∉ State.reset.rel.badCores ∧ (State.reset.coreEnabled 0 && State.reset.spareFree 0) = true ∧ State.reset.coreEnabled 8 = false
    ∧ (let s : State := { State.reset with rel := { State.reset.rel with badCores := [1], spared := [0] } }
       (s.coreEnabled 0 && s.spareFree 0) = false ∧ s.coreEnabled 0 = true ∧ 1 ∈ s.rel.badCores) := by decide
theorem wit_sram : (∃ e, (State.reset.sramAt 30).entry 9 = some ([], e) ∧ e.scrub = false)
    ∧ (∃ e, ({ log := [{ word := 9, hits := 2, scrub := true, flag := false, age := 0 }] } : SramGroup).entry 9 = some ([], e) ∧ e.scrub = true ∧ e.flag = false)
    ∧ State.reset.coreRuns 143 = true := ⟨⟨_, rfl, rfl⟩, ⟨_, rfl, rfl, rfl⟩, by decide⟩
/-- Core 0 with a job of runtime context 32 begun, which runs on crucible engine 0 or waits. -/
def job : EngJob := { desc := Vector.replicate 8 0, input := [], aux := [], begun := false }
def jobbed (running abort aged : Bool) : State :=
  let q : EngReq := { cls := .crucible, core := 0, ctx := 32, run := none, svc := 1, slice := none }
  let b : EngReq := { q with ctx := 33, svc := 0, aged := aged }
  let s := (State.reset.setCtxOf 0 none 32 { busy := true, job := some job, abort := abort }).setCtxOf 0 none 33 { busy := true, job := some job }
  if running then (s.setUnit .crucible 0 { running := some q }) else { s with cpu := { s.cpu with engines := { s.cpu.engines with queue := [q, b] } } }
theorem wit_eng_go : (State.reset.core 0).sup = true ∧ (State.reset.ctxOf 0 none 32).busy = false ∧ ((jobbed true false false).ctxOf 0 none 32).busy = true
    ∧ ((inRun []).core 0).run = some 0 ∧ ((inRun []).ctxOf 0 (some 0) 31).busy = false := by decide
theorem wit_boundary : (((jobbed true true false).unit .crucible 0).running).isSome = true ∧ ((jobbed true true false).ctxOf 0 none 32).abort = true
    ∧ ((jobbed true false false).ctxOf 0 none 32).abort = false ∧ (jobbed true false false).pickReq .crucible 0 = none
    ∧ ((jobbed false false false).pickReq .crucible 0).isSome = true
    ∧ ((State.reset.setUnit .crucible 15 { testing := true }).unit .crucible 15).testing = true := by decide
theorem wit_job_end : (∃ q, (jobbed true false false).runningJob 0 32 = some (0, q)) ∧ ((jobbed true false false).ctxOf 0 none 32).job = some job
    ∧ (∃ q, (jobbed false true false).waitingJob 0 32 = some q) ∧ (jobbed false true false).runningJob 0 32 = none := by
  refine ⟨⟨_, rfl⟩, rfl, ⟨_, rfl⟩, rfl⟩

/-! ### The command front -/

/-- The device in service, with power up, at boot's end. -/
def up : State := { State.reset with dev := { State.reset.dev with pwr := { State.reset.dev.pwr with rails := true, perst := false, phase := 5 }, ports := [(0, { linkUp := true, bme := true, pasidEn := true })] } }
/-- The manager's port 0 enabled with an admin queue of 32 entries and so many entries written. -/
def admin (tail : Nat) : State := up.modCtrl 0 fun c => { c with
  en := true, rdy := true, iosqes := 6, iocqes := 4, grantSq := 4, grantCq := 4, sqs := [(0, { size := 32, base := 0, cqid := 0, tail := tail })], cqs := [(0, { size := 32, base := 0, vector := 0 })] }
theorem wit_doorbells : (admin 0).doorbellOpen 0 = true ∧ (Tbl.get? ((admin 0).ctrl 0).sqs 0).isSome = true ∧ Tbl.get? ((admin 0).ctrl 0).sqs 64 = none
    ∧ (31#32).toNat < 32 ∧ 32 ≤ (32#32).toNat ∧ (admin 0).dev.ps < 3 ∧ (admin 0).keepsAwake = false := by decide
theorem wit_fetch : (admin 1).pickCtrl = some 0 ∧ ((admin 1).ctrl 0).pickSq = some (0, 1) ∧ (admin 1).fetchable 0 = true ∧ (admin 0).pickCtrl = none := by decide
theorem wit_unsupported : (let s := after (.sqEntryFetch (entry 0xFF 0)) (admin 1)
    s.stands (.queue 0 0) (entry 0xFF 0) = true ∧ s.supports (.queue 0 0) 0xFF = false) := by decide
theorem wit_controllers : up.ctrlOpen 0 = true ∧ (up.ctrl 0).en = false ∧ (1#32).getLsbD 0 = true ∧ up.rel.fault = false
    ∧ up.ccValid 0 { (up.ctrl 0) with en := true, iosqes := 6, iocqes := 4, css := 7, aqa := 0x001F001F, asq := 0x1000, acq := 0x2000 } = true
    ∧ up.ccValid 0 { (up.ctrl 0) with en := true, mps := 15 } = false ∧ ((admin 0).ctrl 0).en = true
    ∧ ({ (up.ctrl 0) with en := true, shn := 1 } : Ctrl).notified = true ∧ (admin 0).outstanding 0 = false := by decide
theorem wit_registers : 0 < splitPorts up.dev.split ∧ ((up.ctrl 0).withCc 0).notified = false ∧ up.bar4Reg 0x2000 = some (4, 0) ∧ (up.bar0Reg 0 0x08).isSome = true
    ∧ ((let s := up.setSlice 0 { st := .ready }; s.pageDecodes 0 0) = true) := by decide

/-! ### NVMe commands: one in hand of each kind of controller -/

/-- A queue with one command in hand, for entries of an admin or an I/O opcode. -/
def has (e : Sqe) (cqid : Nat) : Sq := { size := 32, base := 0, cqid := cqid, tail := 1, head := 1, fetched := [{ e := e }] }
/-- The manager's port with an admin command in hand. -/
def mgr (e : Sqe) : State := (admin 0).modCtrl 0 fun c => { c with sqs := [(0, has e 0)] }
/-- Slice 0, ready, its controller with this command in hand on queue n and I/O queue 1 made. -/
def sliced (n : Nat) (e : Sqe) : State :=
  let s := up.setSlice 0 { st := .ready, qpairs := 4, nsLimit := 8, pasid := 1, flash := 100, core := 100, flash0 := 100, core0 := 100, lmLimit := 1, ksLimit := 1, capGrant := 1000000 }
  s.modCtrl 256 fun c => { c with
    en := true, rdy := true, iosqes := 6, iocqes := 4, grantSq := 4, grantCq := 4
    sqs := if n = 0 then [(0, has e 0), (1, { size := 32, base := 0, cqid := 1 })] else [(1, has e 1)]
    cqs := [(1, { size := 32, base := 0, vector := 1 })] }
theorem wit_admin_slice : ∀ opc ∈ ([0, 1, 4, 5, 2, 6, 8, 9, 0x0A, 0x0C, 0x0D, 0x15, 0x80, 0x84] : List Byte),
    (sliced 0 (entry opc 0)).stands (.queue 256 0) (entry opc 0) = true ∧ onSlice ((Src.queue 256 0).kind ((sliced 0 (entry opc 0)).begin (.queue 256 0) 1)) = true
    ∧ (Src.queue 256 0).admin = true ∧ (entry opc 0).psdt = 0 ∧ (Src.queue 256 0).slice? = some 0 := by decide
theorem wit_admin_manager : ∀ opc ∈ ([2, 6, 8, 9, 0x0A, 0x0C, 0x10, 0x11, 0x14, 0x84, 0xC0, 0xC1, 0xC4, 0xC5, 0xC9, 0xCA, 0xCD, 0xCE, 0xD1] : List Byte),
    (mgr (entry opc 0)).stands (.queue 0 0) (entry opc 0) = true ∧ onManager ((Src.queue 0 0).kind ((mgr (entry opc 0)).begin (.queue 0 0) 1)) = true
    ∧ (Src.queue 0 0).admin = true := by decide
/-- A whole `AdminOk`, and a feature that may be set. -/
theorem wit_settable : ∀ fid ∈ [1, 2, 4, 5, 8, 9, 0x0B, 0x0C], (mgr (entry 9 (BitVec.ofNat 32 fid))).Settable (.queue 0 0) (entry 9 (BitVec.ofNat 32 fid)) fid := by
  intro fid h
  simp only [List.mem_cons, List.not_mem_nil, or_false] at h
  rcases h with rfl | rfl | rfl | rfl | rfl | rfl | rfl | rfl <;>
    exact ⟨⟨by decide, by decide, by decide, by decide, by decide⟩, by decide, by decide, by decide⟩
theorem wit_settable_slice : ∀ fid ∈ [7, 0x0A], (sliced 0 (entry 9 (BitVec.ofNat 32 fid))).Settable (.queue 256 0) (entry 9 (BitVec.ofNat 32 fid)) fid := by
  intro fid h
  simp only [List.mem_cons, List.not_mem_nil, or_false] at h
  rcases h with rfl | rfl <;> exact ⟨⟨by decide, by decide, by decide, by decide, by decide⟩, by decide, by decide, by decide⟩
/-- Queue management: sizes 2 and 4,096, vector 63, identifiers 0, 1, 4 and 5. -/
theorem wit_queues : (let s := sliced 0 (entry 5 0); let c := s.ctrl 256
    c.iocqes = 4 ∧ c.grantCq < 5 ∧ 4 ≤ c.grantCq ∧ Tbl.get? c.cqs 4 = none ∧ (Tbl.get? c.cqs 1).isSome = true ∧ Tbl.get? c.sqs 2 = none ∧ (Tbl.get? c.sqs 1).isSome = true
    ∧ (∃ x ∈ c.sqs, x.1 ≠ 0 ∧ x.2.cqid = 1) ∧ (∀ x ∈ c.sqs, x.1 = 0 ∨ x.2.cqid ≠ 2) ∧ c.iosqes = 6) ∧ (entry 5 0x00010004#32).cdw10.toNat / 65536 + 1 = 2
    ∧ (entry 5 0x0FFF0004#32).cdw10.toNat / 65536 + 1 = 4096 ∧ adminPrpBad (entry 6 0) 4096 = false := by decide
theorem wit_abort : (∀ f ∈ ((mgr (entry 8 0)).begin (.queue 0 0) 1).earlier (.queue 0 0) 1, f.e.opc ≠ 8)
    ∧ ((mgr (entry 0x0C 0)).ctrl 0).aers.length < 4 ∧ (let s := (mgr (entry 0x0C 0)).modCtrl 0 fun c => { c with events := [⟨0, 1, 1⟩] }
      ((s.ctrl 0).events.filter fun v => !(s.ctrl 0).masked.contains v.lid) = ⟨0, 1, 1⟩ :: []) := by decide
theorem wit_features : (1#32).toNat % 32 ≤ 4 ∧ 4 < (5#32).toNat % 32 ∧ ((4 : W32).toNat % 32 ≤ 4) ∧ ctrlSlice 256 = some 0
    ∧ (∀ x ∈ (((sliced 1 (entry 0 0)).modCtrl 256 fun c => { c with sqs := [], cqs := [] }).ctrl 256).sqs, x.1 = 0)
    ∧ min (min (0 + 1) 4) (up.host.poolSq + 0) = 1 ∧ 0 < ((mgr (entry 9 9)).vectors 0)
    ∧ adminPrpBad (entry 9 0x0C) 256 = false ∧ Tbl.getD (((mgr (entry 9 9)).modCtrl 0 fun c => { c with coal := [(0, 3)] }).ctrl 0).coal 0 0 ≠ 0
    ∧ featureKnown 3 = false := by decide
theorem wit_identify : (∃ d, ((mgr (entry 6 1)).begin (.queue 0 0) 1).identifyData (.queue 0 0) (entry 6 1) = .ok d)
    ∧ (∃ c, ((mgr (entry 6 0xFF)).begin (.queue 0 0) 1).identifyData (.queue 0 0) (entry 6 0xFF) = .error c)
    ∧ 0xD0 ∉ logPages .manager ∧ 1 ∈ logPages .manager := ⟨⟨_, rfl⟩, ⟨_, rfl⟩, by decide, by decide⟩
/-- A namespace of slice 0, attached, of format 0 and 8 LBAs. -/
def nsed (n : Nat) (e : Sqe) (attached : Bool) : State :=
  let s := sliced n e
  { s with media := { s.media with ns := [(0, { nsid := 1, slice := 0, spec := { nsze := 8 }, attached := attached })] } }
theorem wit_namespaces : (nsed 0 (entry 0x0D 1) false).findNs 0 1 = some (0, (nsed 0 (entry 0x0D 1) false).nsx 0) ∧ (sliced 0 (entry 0x0D 0)).sanitizing 0 = false
    ∧ (sliced 0 (entry 0x0D 0)).findNs 0 1 = none
    ∧ (readNsArgs (leBytes 8 8 ++ leBytes 8 8)).check = none
    ∧ (sliced 0 (entry 0x0D 0)).nsTooBig 0 (readNsArgs (leBytes 8 (2 ^ 60) ++ leBytes 8 (2 ^ 60))).spec = true
    ∧ (let s := (sliced 0 (entry 0x0D 0)); let t := { s with dev := { s.dev with san := [(0, { running := true })] } }; t.sanitizing 0 = true) := by
  refine ⟨rfl, by decide, by decide, by decide, by decide, by decide⟩
theorem wit_sanitize : (Tbl.getD (mgr (entry 0x84 1)).dev.san 1024 {} : Sanitize).running = false ∧ (mgr (entry 0x84 2)).anySlice = false ∧ (sliced 0 (entry 0x84 2)).anySlice = true
    ∧ ({ act := 2, running := true } : Sanitize).running = true := by decide
theorem wit_key_commit : ({ (mgr (entry 0 0)).hm with commit := [{ src := none, act := .keyEmpty 0 0 }] } : Hallmark).commit ≠ [] := by decide
theorem write_zeros (n : Nat) : Mem.write [] 0 (List.replicate n 0) = [] := by
  refine Mem.ext' (lo := 0) (Mem.wf_write (m := []) 0 _ rfl) rfl fun y => ?_
  rw [Mem.get_write 0 y _ rfl]
  split
  · rw [List.getD_eq_getElem?_getD, List.getElem?_replicate]
    split <;> rfl
  · rfl
/-- An image of one piece of 4,096 bytes 00h is whole: BODYLEN 0. -/
theorem wit_image : ({ parts := [(0, List.replicate 4096 0)] } : Firmware).whole = some (Mem.read [] 0 2948) := by
  have img : ∀ n, 0 < n → n ≤ 4096 → ({ parts := [(0, List.replicate 4096 0)] } : Firmware).image n = some (Mem.read [] 0 n) := by
    intro n h1 h2
    have h3 : (n + 4095) / 4096 = 1 := by omega
    unfold Firmware.image
    simp only [List.foldl_cons, List.foldl_nil, write_zeros, h3]
    rw [if_pos]
    simp only [List.any_cons, List.any_nil, List.length_replicate, List.all_eq_true, List.mem_range]
    intro k hk
    have : k = 0 := by omega
    subst this
    rfl
  have body : ({ parts := [(0, List.replicate 4096 0)] } : Firmware).bodyLen = 0 := by
    unfold Firmware.bodyLen
    rw [img 128 (by decide) (by decide)]
    decide
  unfold Firmware.whole
  rw [body, img 128 (by decide) (by decide)]
  exact (if_neg (by decide)).trans (img 2948 (by decide) (by decide))
theorem wit_firmware : 4 * ((1023#32).toNat + 1) % 4096 = 0 ∧ (mgr (entry 0x11 1023)).dev.fw.holding = false ∧ (mgr (entry 0x10 0)).dev.fw.whole = none
    ∧ (∀ p ∈ (mgr (entry 0x11 1023)).dev.fw.parts, p.1 + p.2.length ≤ 0) := by decide
theorem wit_self_test : (mgr (entry 0x14 1)).dev.test = none ∧ ({ (mgr (entry 0x14 15)).dev with test := some (1, .queue 0 0) } : Device).test = some (1, .queue 0 0) := by decide
theorem wit_slices : (mgr (entry 0xC1 0)).sliceTaken 0 = false ∧ (sliced 0 (entry 0xC1 0)).sliceTaken 0 = true ∧ ((sliced 0 (entry 0xC5 0)).slice 0).st = .ready
    ∧ ((sliced 0 (entry 0xC5 0)).slice 1023).st = .absent ∧ (sliced 0 (entry 0xC4 0)).keysBusy 0 = false
    ∧ (let s := (sliced 0 (entry 0xC4 0)).modSlice 0 fun x => { x with st := .resetting, seqStep := 6, seqSrc := some (.queue 0 0, 1) }
       (s.slice 0).st = .resetting ∧ (s.slice 0).seqStep = 6 ∧ (s.slice 0).runs (.queue 0 0) (entry 0xC4 0) false = true)
    ∧ (let s := (sliced 0 (entry 0xC4 0)).modSlice 0 fun x => { x with st := .deleting, delSrc := some (.queue 0 0, 1) }
       (s.slice 0).delSrc = some (.queue 0 0, 1) ∧ (s.slice 0).seqSrc = none) := by decide
/-- A slice's parameters: port 0, 4 queue pairs, PASID 1, a grant of 1 GiB, local memory of 4 MiB, 16 key slots, 8 namespaces. -/
def params : List Byte := [0, 0] ++ leBytes 2 4 ++ leBytes 4 1 ++ leBytes 8 1 ++ leBytes 4 4 ++ leBytes 2 16 ++ leBytes 2 8 ++ leBytes 2 100 ++ leBytes 2 100 ++ leBytes 2 5
theorem wit_slice_create : (mgr (entry 0xC1 0)).sliceRange (readSlice params) = false ∧ (mgr (entry 0xC1 0)).pasidTaken 0 0 1 = false
    ∧ 16 + (mgr (entry 0xC1 0)).hm.held .manager + (mgr (entry 0xC1 0)).promised + 16 ≤ 4096 ∧ (sliced 0 (entry 0xC1 1)).pasidTaken 1 0 1 = true := by decide
theorem wit_quotes : (mgr (entry 0xCA 0x100)).hm.unlocked = false ∧ (mgr (entry 0xCA 0x100)).hm.quoting = false ∧ (mgr (entry 0xCE 0)).meter.closed = [] ∧ (mgr (entry 0xCE 0)).meter.store = []
    ∧ (mgr (entry 0xC9 0xFFFF)).keysBusy 0xFFFF = false ∧ (mgr (entry 0xC9 0xFFFF)).slotLimit 0xFFFF 0 = false ∧ Tbl.get? (mgr (entry 0xC9 0xFFFF)).hm.slots 4095 = none
    ∧ ((mgr (entry 0xC9 0)).slice 0).st = .absent := by decide
theorem wit_migration : findLog (sliced 0 (entry 0xCD 0)).host.mig 0 = none ∧ (findLog [(15, ({ slice := 0, base := 0, size := 256 } : MigLog))] 0).isSome = true
    ∧ (255#32).toNat % 2 ^ 23 < 256 ∧ 256 ≤ (256#32).toNat % 2 ^ 23 ∧ State.reset.mgrCarries = false
    ∧ (let s := up.modPort 0 fun p => { p with linkUp := true, bme := true }; s.mgrCarries = true) := by decide

/-! ### I/O commands -/

/-- An I/O command in hand on queue 1 of slice 0. -/
theorem io_ok (opc : Byte) (dw10 : W32) (core : Bool) (h : (sliced 1 (entry opc dw10)).stands (.queue 256 1) (entry opc dw10) = true) :
    (sliced 1 (entry opc dw10)).IoOk (.queue 256 1) (entry opc dw10) opc.toNat 0 core :=
  ⟨h, rfl, rfl, rfl, by cases core <;> rfl⟩
theorem wit_io : ∀ opc ∈ ([0, 0x80, 0x81, 0x83, 0x85, 0x86, 0x89] : List Byte), ∀ core : Bool,
    (sliced 1 (entry opc 0)).IoOk (.queue 256 1) (entry opc 0) opc.toNat 0 core := by
  intro opc h core
  simp only [List.mem_cons, List.not_mem_nil, or_false] at h
  rcases h with rfl | rfl | rfl | rfl | rfl | rfl | rfl <;> exact io_ok _ _ _ (by decide)
/-- A command on an attached namespace of 8 LBAs: the last LBA, and one past it. -/
def lba (opc : Byte) (a : W32) : Sqe := { entry opc a with nsid := 1 }
theorem wit_ns : ∀ opc ∈ ([1, 2, 8, 9, 0x82] : List Byte), ∃ ns : Ns,
    (nsed 1 (lba opc 7) true).NsOk (.queue 256 1) (lba opc 7) opc.toNat 0 0 ns [(7, 1)] ∧ ns.spec.nsze = 8 ∧ ns.readOnly = false
    ∧ (lba opc 7).slba + (lba opc 7).blocks = 8 ∧ (lba opc 8).slba + (lba opc 8).blocks = 9 ∧ (lba opc 7).dptr.check 4096 = none := by
  intro opc h
  simp only [List.mem_cons, List.not_mem_nil, or_false] at h
  rcases h with rfl | rfl | rfl | rfl | rfl <;>
    exact ⟨{ nsid := 1, slice := 0, spec := { nsze := 8 }, attached := true }, ⟨⟨by decide, rfl, rfl, rfl, by decide⟩, by decide, by decide, rfl, by decide, by decide⟩, rfl, rfl, by decide, by decide, by decide⟩
/-- Prior checks: a reserved bit, a transfer past 2 MiB, a pointer that is refused. -/
theorem wit_ns_bad : ({ lba 1 7 with cdw12 := 1#32 <<< 24 }).cdw12.getLsbD 24 = true ∧ 2 ^ 21 < ({ lba 1 7 with cdw12 := 0x200 }).blocks * 4096
    ∧ ({ lba 1 7 with cdw12 := 0x1FF }).blocks * 4096 = 2 ^ 21 ∧ (DataPtr.prp 0x1001 0 []).check 4096 ≠ none := by decide
/-- A slice's waiting writes: the first of the highest balance, and none while the slice has no share. -/
def wait1 : WaitWrite := { src := .queue 256 1, e := lba 1 7, nsx := 0, slice := 0, body := .write [] [] }
def waiting : State := let s := nsed 1 (lba 1 7) true
  { s with media := { s.media with waits := [wait1] } }
theorem wit_waits : waiting.arbPick waiting.media.lastWait (·.slice) waiting.media.waits = some wait1
    ∧ (nsed 1 (lba 1 7) true).arbPick 1023 (·.slice) (nsed 1 (lba 1 7) true).media.waits = none
    ∧ (waiting.modSlice 0 fun x => { x with flash := 0 }).arbPick 1023 (·.slice) waiting.media.waits = none
    ∧ (waiting.nsx 0).readOnly = false ∧ (∀ iu ∈ wait1.merged (waiting.nsx 0).spec, waiting.iuLost 0 iu = false) := by decide
/-- Room for one write of a unit, 8 granules, and what is asked past the buffer's capacity waits. -/
theorem wit_admission : (let s := nsed 1 (lba 1 7) true
      let t : State := { s with media := { s.media with wb := 1, dpos := 1, posSets := [100000], wordlines := 30000, formed := true } }
      t.admission .tlc 8 = .go t.media.credit ∧ s.admission .tlc 8 = .full
      ∧ ({ t with media := { t.media with wb := 0 } } : State).admission .tlc 8 = .wait)
    ∧ wholeIu { nsze := 8 } 0 8 0 = true ∧ wholeIu { nsze := 8 } 1 7 0 = false := by decide
theorem wit_parts : ((nsed 1 (lba 9 7) true).sanitizing 0 = false) ∧ (([] : List (Nat × Nat)).filter fun y => y.2 ≠ 0) = []
    ∧ ({ lba 9 7 with cdw11 := 4 }).cdw11.getLsbD 2 = true ∧ (lba 9 7).cdw11.getLsbD 2 = false := by decide
/-- Billets: the magic of BILT, a format 0 and 3, a signature asked for and not. -/
theorem wit_billets : (readBillet ([0x49, 0x42, 0x4C, 0x54, 3] ++ List.replicate 123 0)).fmt = 3
    ∧ billetSigned (List.replicate 128 0) = false ∧ Tbl.get? (sliced 1 (entry 0x81 0)).cpu.billets 0 = none
    ∧ (sliced 1 (entry 0x81 0)).billetPool 0 + pageUp 128 ≤ 524288 := by decide
/-- A run of slice 0 in its save area, on core 0 and off it, its limit of 1 core-span reached, its end posted. -/
def aRun (core : Option Nat) (ended : Option RunEnd) : Run :=
  { slice := 0, ctrl := 256, sq := 1, cid := 1, bid := 0, entry := 0, arg0 := 0, arg1 := 0, outLen := 0, spanLim := 1, spans := 1, saveArea := true, core := core, ended := ended }
def running (core : Option Nat) (ended : Option RunEnd) : State :=
  let s := sliced 1 (entry 0x83 0)
  { s with cpu := { s.cpu with runs := [(0, aRun core ended)] } }
theorem wit_runs : (running none none).runAt 0 = some (aRun none none) ∧ (aRun none none).spanLim ≤ (aRun none none).spans ∧ (aRun (some 0) none).core = some 0
    ∧ (running none none).runAt 1 = none ∧ (running none none).areas 0 = 1
    ∧ (running none (some ⟨0, 0, 0, 0, ⟨0, []⟩⟩)).fetchedAt (.queue 256 1) 1 = some { e := entry 0x83 0 } := by decide
/-- A billet of one entry, 0 of 8 entries named. -/
theorem wit_run_names : (let s := sliced 1 (entry 0x83 0)
    let t : State := { s with cpu := { s.cpu with billets := [(0, { entries := [0] })] } }
    (Tbl.get? t.cpu.billets 0).isSome = true ∧ ([0].getD 0 0xFFFFFFFF : Nat) ≠ 0xFFFFFFFF ∧ ([0].getD 1 0xFFFFFFFF : Nat) = 0xFFFFFFFF
    ∧ t.billetUsed 0 0 = true ∧ (sliced 1 (entry 0x80 0)).billetUsed 0 0 = false) := by decide
/-- Local memory: 64 bytes at the end of the window of 1 MiB, and past it. -/
def localCmd (off len : W32) : Sqe := { entry 0x85 off with cdw12 := len }
theorem wit_local : ((sliced 1 (entry 0x85 0)).slice 0).lmLimit = 1 ∧ (localCmd 0xFFFC0 64).cdw10.toNat + 64 = 0x100000
    ∧ 0x100000 < (localCmd 0xFFFC0 128).cdw10.toNat + 128 ∧ (localCmd 0xFFFC0 64).dptr.check 64 = none := by decide
/-- Sealed Transfer Setup on queue 1 and a slot of the slice. -/
theorem wit_setup : (let s := (sliced 1 (entry 0x89 0x10001)).modSlice 0 fun x => { x with verSel := 2 }
    let k : KeySlot := { cls := 1, owner := .slice 0, key := 0 }
    let t : State := { s with hm := { s.hm with slots := [(0, k)] } }
    (t.slice 0).verSel = 2 ∧ (∃ y, Tbl.get? t.hm.slots 0 = some y ∧ y.owner = .slice 0) ∧ (Tbl.get? (t.ctrl 256).sqs 1).isSome = true
    ∧ (entry 0x89 0x10001).cdw10.getLsbD 16 = true) := by
  refine ⟨rfl, ⟨_, rfl, rfl⟩, rfl, rfl⟩
/-- A scan with its slot, nothing left to read, and one still waiting for its slot. -/
def aScan (slot discarded : Bool) : Scan :=
  { slice := 0, ctrl := 256, sq := 1, cid := 1, nsid := 0, unit0 := 0, nunit := 1, prog := [], outLen := 64, slot := slot, discarded := discarded }
def scanning (x : Scan) : State := let s := nsed 1 (entry 0x82 0) true
  { s with cpu := { s.cpu with scans := [(0, x)] } }
theorem wit_scans : Tbl.get? (scanning (aScan true false)).cpu.scans 0 = some (aScan true false) ∧ (aScan true false).waiting = 0 ∧ (aScan false false).slot = false
    ∧ (aScan true true).discarded = true ∧ ((scanning (aScan false false)).slice 0).flash ≠ 0 ∧ (aScan true false).output.length ≤ 64
    ∧ ((scanning (aScan true false)).dropScan 0 (aScan true false)).fetchedAt (.queue 256 1) 1 = some { e := entry 0x82 0 } := by decide
theorem wit_scan_chans : ∀ j ∈ (((scanning (aScan false false)).scanUnits (aScan false false)).filterMap fun j =>
    ((scanning (aScan false false)).scanUnit (aScan false false) j).map fun y => y.2.2).eraseDups, Tbl.getD (scanning (aScan false false)).cpu.progSlots j 0 < 8 := by decide

/-! ### Flash, time, metering, power states -/

/-- Media with a read at a step, a program sent again so often, a stale set 1 and an erasing set 2, a late die 31, a rate change of channel 0. -/
def aRead (step auth : Nat) (issued dropped : Bool) : MediaRead :=
  { reader := .cmd 0, nsx := 0, iu := 0, unit := 0, set := 0, off := 0, slice := 0, gen := 0, key := 0, step := step, auth := auth
    issued := issued, dropped := dropped, soft := if softStage step then some { unit := some 0, senses := [], mags := [] } else none }
def flash (r : MediaRead) (resent rate : Nat) : State := { State.reset with media := { State.reset.media with
  reads := [(0, r)], progs := [(0, { set := 0, chans := [0], bytes := 0, resent := resent })], sets := [(1, { st := .stale }), (2, { st := .erasing })], dpos := 1, posSets := [64]
  late := [31], sig := 2, parity := [(0, [])], chans := [(0, { rate := 4800, next := some rate })], formed := true } }
/-- A read in progress at each step; a unit that is decoded, not, and erased; a ladder that goes on and one that goes to step 6. -/
theorem wit_reads : (∀ k ∈ [1, 3, 6], Tbl.get? (flash (aRead k 0 true false) 0 800).media.reads 0 = some (aRead k 0 true false))
    ∧ (∀ k ∈ [2, 4, 5], ∃ j, (aRead k 0 true false).soft = some j ∧ j.unit = some 0) ∧ (aRead 1 0 true false).soft = none
    ∧ (∀ k ∈ [1, 2, 3, 4, 5, 6], decGood.erased k = false ∧ decGood.good k = true ∧ decFail.erased k = false ∧ decFail.good k = false)
    ∧ decBlank.erased 1 = true ∧ decBlank.erased 3 = true ∧ decBlank.erased 2 = false
    ∧ (flash (aRead 6 0 true false) 0 800).media.canRebuild 0 0 = true ∧ (flash (aRead 1 0 true false) 0 800).media.dieOut 0 = false
    ∧ (let s := flash (aRead 5 0 true false) 0 800; ({ s.media with dieBad := [0] } : Media).dieOut 0 = true)
    ∧ (aRead 5 0 true true).dropped = true ∧ (aRead 4 1 true false).auth = 1 ∧ (aRead 1 0 false false).issued = false
    ∧ Tbl.get? (flash (aRead 1 0 true false) 0 800).media.reads 1 = none ∧ (aRead 1 0 true false).device = false := by
  refine ⟨by decide, ?_, by decide, by decide, by decide, by decide, by decide, by decide, by decide, by decide, by decide, by decide, by decide, by decide, by decide⟩
  intro k h
  simp only [List.mem_cons, List.not_mem_nil, or_false] at h
  rcases h with rfl | rfl | rfl <;> exact ⟨_, rfl, rfl⟩
/-- A die that is busy, one with nothing to read, and one that takes a host's read, its buffer with room or full. -/
theorem wit_dies : (flash (aRead 1 0 true false) 0 800).media.dieReads 1 true ≠ [] ∧ (flash (aRead 1 0 true false) 0 800).nextRead 0 = none
    ∧ (let s := (flash (aRead 1 0 false false) 0 800).setSlice 0 { st := .ready, flash := 1 }
       s.media.dieReads 1 true = [] ∧ s.nextRead 1 = some (0, aRead 1 0 false false) ∧ s.media.readBuf 1 + (s.media.set 0).cell.codeword ≤ 131072) := by decide
/-- A place whose map entry is kept and one found out; what the stored check answers on a unit as programmed. -/
def aUnit (kind : Nat) : Stored := { kind := kind, nsx := 0, ulba := 0, seq := 0, app := 0, slice := 0 }
theorem wit_check : (aUnit 1).raw = none ∧ (UnitAsk.plain 0 0 0).binds (aUnit 1) = (0, aUnit 1) ∧ (aUnit 1).kind ∈ (UnitAsk.plain 0 0 0).allows
    ∧ (aUnit 15).kind = 15 ∧ (aUnit 2).kind ∉ (UnitAsk.plain 0 0 0).allows ∧ (aUnit 1).key = 0
    ∧ checkStored (some (aUnit 1)) none 1 (.plain 0 0 0) = .authFail ∧ checkStored (some (aUnit 15)) none 0 (.plain 0 0 0) = .poisoned := by decide
/-- A failed page's stripe, a page of a set whose parity is not written: no member can be rebuilt. -/
theorem wit_rebuild : (let m := (flash (aRead 6 0 true false) 0 800).media
    ({ m with sets := [(0, { naked := [m.unitPage 0 0] })] } : Media).canRebuild 0 0 = false
    ∧ ({ m with dieBad := [2] } : Media).canRebuild 0 0 = false) := by decide
/-- The worked example of R219: slice 02A5h, NSX 0131h, unit 7Dh, SEQ 12345678h. -/
theorem test_stored_example : let u : Stored := { kind := 1, nsx := 0x131, ulba := 0x7D, seq := 0x12345678, app := 0 }
    u.fields = [0x78, 0x56, 0x34, 0x12, 0, 0, 0, 0x7D, 0, 0, 0, 0, 0x31, 0x11, 0, 0]
    ∧ u.iv = [0x78, 0x56, 0x34, 0x12, 0, 0, 0, 1, 0, 0, 0, 0]
    ∧ u.aad 0x2A5 = [1, 0, 1, 0, 0xA5, 2, 0x31, 1, 0x7D, 0, 0, 0, 0, 0, 0, 0, 0x78, 0x56, 0x34, 0x12, 0, 0, 0, 0, 0, 0, 0, 0, 0, 0, 0, 0]
    ∧ Stored.read u.fields = u := by decide
theorem wit_units : (∀ k ∈ [1, 2, 3, 15], ({ kind := k, nsx := 4095, ulba := 2 ^ 40 - 1, seq := 2 ^ 56 - 1, app := 0 } : Stored).kind < 16) ∧ (List.replicate 4096 (0 : Byte)).length = 4096
    ∧ (List.replicate 16 (0 : Byte)).length = 16 ∧ 2 ∈ (UnitAsk.packed 0 0 0).allows ∧ 2 ∉ (UnitAsk.plain 0 0 0).allows := by
  refine ⟨by decide, List.length_replicate, List.length_replicate, by decide, by decide⟩
theorem wit_programs : ∀ k ∈ [0, 1, 2], (Tbl.get? (flash (aRead 1 0 false false) k 800).media.progs 0).map (·.resent) = some k := by decide
/-- A program sent with write CRC and without; a stored unit copied to a set that has no packing group. -/
theorem wit_crc_and_copy : (let s := flash (aRead 1 0 true false) 0 800
    s.media.crcOn 0 = true ∧ s.media.crcOn 1 = false ∧ (∃ p, Tbl.get? s.media.progs 0 = some p ∧ p.redo = false ∧ p.waiting = false ∧ p.parity = none)
    ∧ (let t : State := { s with media := { s.media with stored := [(0, aUnit 1)] } }
       t.media.storedAt 0 0 = some (aUnit 1) ∧ (t.media.set 3).packed = none ∧ (t.copyRun 0 0 1 [] 3).1 / 8 + 1 ≤ 2 ^ 20)) :=
  ⟨by decide, by decide, ⟨_, rfl, rfl, rfl, rfl⟩, by decide, by decide, by decide⟩
theorem wit_erases : (let s := flash (aRead 1 0 true false) 0 800
    let t : State := { s with dev := { s.dev with san := [(1024, { act := 2, running := true })] } }
    s.setsToErase none ≠ [] ∧ State.reset.setsToErase none = [] ∧ s.setsToErase (some 0) = [] ∧ t.dev.pwr.plpWarn = false ∧ t.media.formed = true
    ∧ (∀ k ∈ t.hm.commit ++ t.hm.joining, k.act ≠ .sanitize none)) := by decide
theorem wit_sets : (let s := flash (aRead 1 0 false false) 0 800
    (s.media.set 1).st = .stale ∧ (s.media.set 2).st = .erasing ∧ (s.media.set 0).st = .erased ∧ (∀ y ∈ s.media.reads, y.2.set ≠ 1)
    ∧ s.media.dies = 32 ∧ 31 ∈ s.media.late ∧ 30 ∉ s.media.late ∧ s.nextItem false = none ∧ s.rel.fault = false
    ∧ ((s.exchange 1 []).media.set 1).st ≠ .retired ∧ (s.media.chan 0).next = some 800 ∧ (s.media.chan 1).next = none) := by decide
theorem wit_sample : (let s := flash (aRead 1 0 false false) 0 4800
    (s.media.chan 0).next = some 4800 ∧ ({ s.time with pier := 600, span := 999 } : Time).span % 10 = 9 ∧ (Tbl.getD s.media.segs 0 {}).touched < 65536
    ∧ (Tbl.getD s.media.segs 0 {}).written + 600 ≤ (600#64).toNat ∧ (599#64).toNat < (Tbl.getD s.media.segs 0 {}).written + 600) := by decide
/-- The device live, its time of a source, PTM usable or not, edges met before. -/
def clock (src : BitVec 2) (ptm begun : Bool) (edges : List Nat) : State := { up with time := { up.time with src := src, ptm := ptm, begun := begun, edges := edges, dialogue := true } }
theorem wit_ticks : (clock 0 false false []).time.span < 999 ∧ 999 ≤ ({ up.time with span := 999 } : Time).span ∧ up.dev.pwr.rails = true ∧ up.dev.pwr.perst = false
    ∧ up.dev.pwr.phase = 5 ∧ up.rel.fault = false ∧ State.reset.dev.pwr.rails = false := by decide
theorem wit_piers : ((clock 0 false false []).time.src = 0 ∧ (clock 0 false false []).time.ptm = false) ∧ (clock 2 true true []).time.src = 2
    ∧ ((clock 1 true false []).time.ptm = true ∧ (clock 1 true false []).time.begun = false) ∧ ((clock 0 true true []).time.begun = true ∧ (clock 0 true true []).time.act ≠ 1)
    ∧ (clock 3 false true []).time.src = 3 := by decide
theorem wit_edges : ((clock 2 false true [5, 6]).time.edges = [5, 6] ∧ (1000250 ≤ (5 + 1000000) + 250 ∧ 5 + 1000000 ≤ 1000250 + 250))
    ∧ (1000250 ≤ (clock 2 false true []).time.expected + 250 ∧ (clock 2 false true []).time.expected ≤ 1000250 + 250)
    ∧ ¬ (1000251 ≤ (clock 2 false true []).time.expected + 250) := by decide
theorem wit_dialogue : (clock 0 false true []).time.dialogue = true ∧ State.reset.time.dialogue = false ∧ (up.port up.dev.mgrPort).linkUp = true
    ∧ (State.reset.port State.reset.dev.mgrPort).linkUp = false := by decide
theorem wit_park : (let s := (sliced 1 (entry 0x83 0)).modSlice 0 fun x => { x with park := 1, verSel := 2 }
    (s.slice 0).park ≠ 0 ∧ (s.slice 0).verSel = 2 ∧ (s.slice 0).st = .ready
    ∧ (({ s with host := { s.host with slices := Tbl.mapV s.host.slices fun _ x => { x with core := 0 } } }).pierCmds 256 (s.ctrl 256)).sqs.any
        (fun q => q.2.fetched.any (·.due)) = true) ∧ (State.reset.slice 0).park = 0 := by decide
/-- The device at a pier, with a minute ended and none closed before. -/
def minute (pier : W64) : State := { up with time := { up.time with pier := pier }, meter := { up.meter with ended := [⟨0, true, false, false, [(0, { spans := 1 })]⟩] } }
theorem wit_minutes : (minute 60).meter.ended.length = 1 ∧ (minute 60).lastMinute = some 0 ∧ (60#64).toNat / 60 ≤ 0 + 1 ∧ 0 + 1 < (120#64).toNat / 60
    ∧ up.lastMinute = none ∧ (61#64).toNat % 60 ≠ 0 ∧ up.meter.ended = [] ∧ (minute 60).hm.refuses = false ∧ (minute 60).meter.ended.all Ended.receipts = true
    ∧ ({ up.hm with signing := some SignJob.seal } : Hallmark).signing = some SignJob.seal := by decide
theorem wit_formats : (0x00010000#32).toNat / 65536 % 4 = 1 ∧ (0x00020000#32).toNat / 65536 % 4 = 2 ∧ (0x00030000#32).toNat / 65536 % 4 = 3 := by decide
theorem wit_power_states : (let s : State := { up with dev := { up.dev with apste := true, apst := [(3, 100)] } }
      s.dev.apst.getD s.dev.ps (0, 0) = (3, 100) ∧ s.keepsAwake = false ∧ s.dev.psNext = none) ∧ ({ up.dev with psNext := some 4 } : Device).psNext = some 4
    ∧ up.dev.pwr.vid = up.dev.pwr.vidTo ∧ ((0x64 : Byte).toNat < (0x65 : Byte).toNat) := by decide
/-- One degree below the warning threshold, at it, and past it. -/
theorem wit_temperature : (up.dev.temp + 273 < (wctemp : Int) ∧ (wctemp : Int) ≤ ((wctemp : Int) - 273) + 273) ∧ up.dev.tOver = none
    ∧ ((wctemp : Int) < ((wctemp : Int) - 272) + 273) := by
  have h : up.dev.temp = 25 := rfl
  refine ⟨⟨?_, by omega⟩, rfl, by omega⟩
  rw [h]
  unfold wctemp
  split <;> decide

/-! ### DRAM -/

/-- A subchannel 0 with one read waiting, a refresh postponed so often, row management asked for or not. -/
def sub0 (open_ : Tbl Nat) (postponed : Nat) (rfm : List Nat) : State := State.reset.modSubch 0 fun _ =>
  { reads := [{ id := 0, write := false, cls := 0, cw := 0, bank := 0, row := 7 }], open_ := open_, postponed := [(0, postponed)], rfm := rfm, tables := [(0, [⟨0, 7, 0x200⟩])] }
theorem wit_dram_issue : ((sub0 [] 4 []).subch 0).postponed.find? (fun y => 4 ≤ y.2) = some (0, 4) ∧ ((sub0 [] 3 []).subch 0).postponed.find? (fun y => 4 ≤ y.2) = none
    ∧ ((sub0 [] 3 []).subch 0).pick [] = some { id := 0, write := false, cls := 0, cw := 0, bank := 0, row := 7 }
    ∧ Tbl.get? ((sub0 [(0, 7)] 3 []).subch 0).open_ 0 = some 7 ∧ Tbl.get? ((sub0 [(0, 6)] 3 []).subch 0).open_ 0 ≠ some 7 ∧ (State.reset.subch 0).pick [] = none
    ∧ ((sub0 [] 3 [0]).subch 0).rfm ≠ [] := by decide
theorem wit_dram_rows : (∃ e ∈ Tbl.getD ((sub0 [] 0 []).subch 0).tables 0 [], e.row = 7 ∧ State.reset.dram.rfmTh.toNat ≤ e.count)
    ∧ (∀ e ∈ Tbl.getD ((sub0 [] 0 []).subch 0).tables 0 [], e.row = 8 → e.count < State.reset.dram.rfmTh.toNat)
    ∧ Tbl.getD ((sub0 [] 4 []).subch 0).postponed 0 0 = 4 ∧ Tbl.getD ((sub0 [] 3 []).subch 0).postponed 0 0 < 4 := ⟨⟨⟨0, 7, 0x200⟩, by decide⟩, by decide⟩
/-- A run's core and its engine job name the run's slice, and a command of controller 261 slice 5. -/
theorem wit_request_domain : ((inRun []).runOn 0).isSome = true ∧ ((inRun []).core 0).sup = false ∧ (inRun []).requestDomain ⟨0, 9⟩ (some (.core 0 0)) = 0
    ∧ State.reset.requestDomain ⟨0, 9⟩ (some (.command (.queue 261 1) 0)) = 5 ∧ State.reset.requestDomain ⟨0, 9⟩ (some (.command (.queue 0 1) 0)) = 9 := by decide
/-- A table with every entry used, the least count twice; and one whose entry 3 was freed. -/
def fullTable : List RowCount := (List.range 32).map fun k => ⟨k, 100 + k, if k = 9 ∨ k = 20 then 2 else 5⟩
set_option maxRecDepth 20000 in
theorem wit_row_table : leastEntry fullTable = ⟨9, 109, 2⟩ ∧ (∀ y ∈ fullTable, y.row ≠ 7) ∧ (fullTable.map fun y => y.entry) = List.range 32
    ∧ countRow (fullTable.filter fun y => y.entry ≠ 3) 7 = (fullTable.filter fun y => y.entry ≠ 3) ++ [⟨3, 7, 1⟩] := by decide
/-- A blank page of the target's memory at address 0, which a device of more ranks has; byte errors of one device and of two. -/
theorem wit_dram_decode : State.reset.dramDecode 0 ⟨[], []⟩ = .clean ∧ State.reset.dramDecode 0 ⟨[(0, 1), (79, 1)], []⟩ = .corrected
    ∧ State.reset.dramDecode 0 ⟨(List.range 9).map fun i => (i, 1), [0]⟩ = .bad
    ∧ (State.reset.modDchan 0 fun y => { y with marks := [(0, 2)] }).dramDecode 0 ⟨[(32, 1)], []⟩ = .erased
    ∧ State.reset.dramDecode 0 ⟨(List.range 8).map fun i => (i, 1), []⟩ = .corrected := by decide

/-- A codeword of the filled region, and one of the compute region's pool not yet written, at the region's first byte and at the last byte installed. -/
def dram (btSize : Nat) (filling : Tbl (List DramReply)) : State := { State.reset with dram := { State.reset.dram with btSize := btSize, filling := filling } }
theorem wit_dram_access : 0 < (dram 8 []).dramCap ∧ (dram 8 []).dramBlank 0 = false ∧ (dram 8 []).dramPlace 0 = .other false ∧ (dram 8 []).dramBlank (dram 8 []).btBase = true
    ∧ (dram 8 []).btBase < (dram 8 []).dramCap ∧ (dram 8 []).dramBlank ((dram 8 []).dramCap - 1) = true ∧ (dram 8 []).domainOf 0 = 1024
    ∧ Tbl.get? (dram 8 []).dram.domains 0 = none ∧ ((dram 8 []).subch 0).reads.length < 64
    ∧ Tbl.get? (dram 8 [(0, [])]).dram.filling 0 = some [] ∧ Tbl.get? (dram 8 []).dram.filling 0 = none := by decide
/-- The DRAM awake with nothing waiting, with a read waiting, and in self-refresh. -/
theorem wit_self_refresh : State.reset.dram.selfRef = false ∧ (∀ y ∈ State.reset.dram.subs, y.2.still = true) ∧ (∃ y ∈ (sub0 [] 0 []).dram.subs, y.2.still = false)
    ∧ State.reset.dramSleep.dram.selfRef = true ∧ ({ State.reset.dev with ps := 4 } : Device).ps = 4 :=
  ⟨by decide, by decide, ⟨(0, _), List.mem_cons_self, rfl⟩, by decide, rfl⟩
/-- The data of a codeword shorter than 64 bytes and whole. -/
theorem wit_dram_bytes : (([1, 2] : List Byte).take (64 - 62 % 64)).length = 2 ∧ ((List.replicate 64 (1 : Byte)).take (64 - 0 % 64)).length = 64
    ∧ ((List.replicate 64 (1 : Byte)).take (64 - 1 % 64)).length ≠ 64 := by decide
theorem wit_btcfg : (let s := dram 0 []
    let room := gib * (s.dramGib - 5) - 2 ^ 20 * s.media.dies - s.media.mapUsed
    ¬(room < gib * 2) ∧ room < gib * 128 ∧ (0x00020000#32).toNat / 65536 % 256 = 2 ∧ s.dram.extents = [] ∧ (0x00010000#32).toNat / 65536 % 256 < 2) := by decide
theorem wit_ecc : ∀ k ∈ [1, 2, 3, 4, 5, 6], (BitVec.ofNat 32 k).toNat % 8 = k ∧ State.reset.dram.busy = false := by decide

/-! ### Hallmark, supplies, ports, sideband -/

/-- The digest window idle, taking, and finishing; the key bus ready and after two failures. -/
def keyed (f : Hallmark → Hallmark) : State := { up with hm := f { up.hm with ready := true } }
theorem wit_digest : (keyed id).hm.mdState = 0 ∧ (keyed id).hm.mdKeyed = false ∧ (1#32).getLsbD 0 = true ∧ (1#32).toNat / 2 % 8 = 0 ∧ (3#32).toNat / 2 % 8 = 1
    ∧ (keyed fun h => { h with mdState := 1 }).hm.mdMsg.length + 8 ≤ mdLimit ∧ mdLimit < mdLimit - 7 + 8
    ∧ (keyed fun h => { h with mdState := 2 }).hm.mdWait = []
    ∧ (∃ k, Tbl.get? (keyed fun h => { h with mdKeyed := true, slots := [(0, { cls := 1, owner := .slice 0, key := 9 })] }).hm.slots 0 = some k ∧ k.key = 9) := by
  refine ⟨rfl, rfl, rfl, rfl, rfl, by decide, by decide, rfl, ⟨_, rfl, rfl⟩⟩
theorem wit_svn : (let h := (keyed fun h => { h with imgSvn := 64, fwSvn := 63 }).hm
    (64#32).toNat % 256 = h.imgSvn.toNat ∧ h.fwSvn < 64 ∧ 64 ≤ h.imgSvn.toNat) ∧ (keyed id).hm.fwSvn = 0 := by decide
theorem wit_key_bus : (keyed id).hm.ready = true ∧ (keyed fun h => { h with busFails := 1 }).hm.busFails < 2 ∧ 2 ≤ (keyed fun h => { h with busFails := 2 }).hm.busFails
    ∧ up.hm.ready = false := by decide
/-- A domain and a slot with keys, for a DRAM unit and a cipher engine. -/
theorem wit_key_places : Tbl.get? (keyed fun h => { h with domains := [(0, 5)] }).hm.domains 0 = some 5 ∧ Tbl.get? (keyed id).hm.domains 0 = none
    ∧ (∃ k, Tbl.get? (keyed fun h => { h with slots := [(7, { cls := 1, owner := .slice 0, key := 9 })] }).hm.slots 7 = some k) ∧ Tbl.get? (keyed id).hm.slots 7 = none :=
  ⟨by decide, by decide, ⟨_, rfl⟩, by decide⟩
/-- Each class has a sensor; none is armed without power; a response in progress keeps a lower class out. -/
theorem wit_tamper : sensorClass (.railLong true) = .e ∧ sensorClass (.railShort false) = .g ∧ up.hm.zeroized = false ∧ sensorClass .light = .p ∧ up.dev.pwr.rails = true ∧ up.dev.pwr.perst = false ∧ up.hm.dead = false
    ∧ up.hm.response = none ∧ State.reset.dev.pwr.rails = false ∧ TamperClass.num .e ≤ TamperClass.num .g := by decide
/-- A token of no bytes meets no rule. -/
theorem wit_token : up.tokenGood [] = false ∧ up.hm.refusals < 8 := by decide
/-- Supplies: off, on with PERST_N low, serving, PLP_WARN_N asserted, with a reboot asked for. -/
def supply (f : Power → Power) : State := { up with dev := { up.dev with pwr := f up.dev.pwr } }
theorem wit_supplies : State.reset.dev.pwr.rails = false ∧ up.dev.pwr.rails = true ∧ (supply fun p => { p with perst := true }).dev.pwr.perst = true ∧ up.dev.pwr.plpWarn = false
    ∧ (supply fun p => { p with plpWarn := true }).dev.pwr.plpWarn = true ∧ (supply fun p => { p with reboot := true }).dev.pwr.reboot = true ∧ up.rel.fault = false
    ∧ up.dev.pwr.marker = false ∧ (supply fun p => { p with made := true, marker := true }).dev.pwr.made = true ∧ Tbl.get? up.host.slices 0 = none
    ∧ (Tbl.get? (sliced 1 (entry 0 0)).host.slices 0).isSome = true := by decide
/-- A boot environment with slot 1 valid, and one without. -/
theorem wit_slots (env : BootEnv) : up.chooseSlot { env with validSlots := [] } = none := by
  simp [State.chooseSlot]
theorem wit_slot (env : BootEnv) : up.chooseSlot { env with validSlots := [(1, 0, [])] } = some (1, 0, []) := rfl
theorem wit_straps : ((0x004#10).extractLsb' 2 2).toNat = 1 ∧ splitPorts 0 = 1 ∧ splitPorts ((0x004#10).extractLsb' 0 2) ≤ 1 ∧ ((0x000#10).extractLsb' 2 2).toNat < splitPorts 0 := by decide
/-- Port 0 stands and port 1 does not; a link that trains at width 1 and rate 1; MSI-X of the manager's controller. -/
theorem wit_ports : up.isPort 0 = true ∧ up.isPort 1 = false ∧ up.isPort 4 = false ∧ (up.port 0).inReset = false ∧ widest (min 1 up.portLanes) = 1 ∧ widest (min 0 up.portLanes) = 0
    ∧ min (min 1 6) (up.port 0).cap = 1 ∧ (up.modPort 0 fun p => { p with d3hot := true }).portIssues 0 = false ∧ (up.port 0).d3hot = false := by decide
theorem wit_links : (up.port 0).linkUp = true ∧ (State.reset.port 0).linkUp = false ∧ (up.modPort 0 fun p => { p with entries := 7, cap := 6, quiet := 600 }).isPort 0 = true
    ∧ (up.modPort 0 fun p => { p with cap := 5, quiet := 600 }).port 0 = { up.port 0 with cap := 5, quiet := 600 } ∧ (up.modPort 0 fun p => { p with atsEn := true }).isPort 0 = true
    ∧ up.ctrlOpen 0 = true ∧ 16 * (ctrlVectors 0 - 1) / 16 < ctrlVectors 0 ∧ ¬(16 * ctrlVectors 0 / 16 < ctrlVectors 0) := by decide
/-- A read with a tag to take, one at the limit, one behind another; a write; ports of each split. -/
def aReq (read : Bool) : HostReq := { read := read, port := 0, stop := 0, pasid := none, addr := 0, len := 64, relaxed := false, ido := false }
theorem wit_requests : (aReq true).port = 0 ∧ (up.port 0).npLimit = 256 ∧ Tbl.getD up.out.np 0 0 < 256 ∧ up.out.held = []
    ∧ (let s : State := { up with out := { up.out with np := [(0, 256)], held := [aReq true] } }
       256 ≤ Tbl.getD s.out.np 0 0 ∧ (∃ y ∈ s.out.held, y.port = 0) ∧ (s.out.held.find? fun y => y.port = 0) = some (aReq true))
    ∧ (4095, 1) ∈ reqCuts 512 3 4095 2 ∧ (4096, 1) ∈ reqCuts 512 3 4095 2
    ∧ State.reset.dev.split ≠ 1 ∧ State.reset.dev.split ≠ 2 ∧ up.readerPort (.sqFetch 0 0) = some 0 ∧ up.readerPort (.command .sideband 0) = none := by
  refine ⟨rfl, by decide, by decide, rfl, ⟨by decide, ⟨_, List.mem_cons_self, rfl⟩, by decide⟩, by decide, by decide, by decide, by decide, by decide, by decide⟩
/-- A channel that changes its rate, one that stands below the top step. -/
theorem wit_top_rates : (flash (aRead 1 0 true false) 0 800).media.formed = true ∧ ((flash (aRead 1 0 true false) 0 800).media.chan 0).failed = false
    ∧ ((flash (aRead 1 0 true false) 0 800).media.chan 0).next = some 800 ∧ ((flash (aRead 1 0 true false) 0 800).media.chan 1).next = none
    ∧ ((flash (aRead 1 0 true false) 0 800).media.chan 1).rate ≠ (flash (aRead 1 0 true false) 0 800).media.top := by decide
/-- A chip on each channel, alike: no rule is broken; with none, every channel breaks one. -/
def aChip (c : Nat) : Chip := { chan := c, ce := 0, part := [], dieGb := 1024, blocks := 100, planes := 1, pageBytes := 4448, wordlines := 64
                                rated := [some 1, some 1, some 1, some 1], toggle := some true, maxRate := 3200, fast := [], suspends := false, tProg := 1
                                luns := [⟨100, []⟩] }
theorem wit_population : populationFaults ((List.range 32).map aChip) = [] ∧ populationFaults [] ≠ []
    ∧ populationFaults ((List.range 31).map aChip) = [(31, 0, 1)] := by decide
/-- The sideband free, busy, shut, with a response held, with an answer owed. -/
def side (f : Sideband → Sideband) : State := up.modSide f
theorem wit_sideband : up.sideUp = true ∧ State.reset.sideUp = false ∧ up.sideRefusal false = none ∧ up.sideRefusal true = none ∧ (side fun x => { x with busy := true }).sideRefusal false ≠ none
    ∧ up.dev.pwr.sbsel = false ∧ (supply fun p => { p with sbsel := true }).dev.pwr.sbsel = true ∧ 0 ∈ up.portIds ∧ 1 ∉ up.portIds ∧ up.dev.mgrPort = 0
    ∧ (side fun x => { x with held := true, data := Data.ofBytes [1, 2] }).dev.side.held = true ∧ (side fun x => { x with held := true }).sideShut false = false
    ∧ (side fun x => { x with held := true, data := Data.ofBytes [1, 2] }).dev.side.data.len = 2
    ∧ (let x := (side fun x => { x with busy := true, owed := true, tunnel := true, ver := 2, data := Data.ofBytes [1] }).dev.side
       x.busy = true ∧ x.cmd = none ∧ x.held = false ∧ x.owed = true ∧ x.sct = 0 ∧ x.data.bytes ≠ []) := by decide
theorem wit_tunnel : (entry 6 1).opc.toNat ∈ ({ up.dev.side with tunnel := false } : Sideband).opcodes ∧ (entry 0xFF 1).opc.toNat ∉ ({ up.dev.side with tunnel := false } : Sideband).opcodes
    ∧ tooLong (entry 6 1) 4096 = false ∧ tunnelled (entry 6 1) = false := by decide
/-- A control command 0Ah, a Management Interface command 05h and a vendor command 04h, none of which a row stands for; R534's
header bytes. -/
def strays : List (List Byte) := [[0, 0x80, 0x0A], withMic [0x84, 8, 0, 0, 5], withMic [0xFE, 0x1F, 0x42, 2, 4, 0x80, 0, 0]]
set_option maxRecDepth 20000 in
theorem wit_stray_requests : (strays.map messageGood).all id = true ∧ messageGood [0x84, 8, 0, 0, 5, 0, 0, 0, 0] = false
    ∧ (strays.map fun m => (up.otherRequest m).out.side.map fun a => a.take 7) =
      [[[0, 0, 0x0A, 5]], [[0x84, 0x88, 0, 0, 3, 0, 0]], [[0xFE, 0x1F, 0x42, 2, 4, 0, 3]]] := by decide
theorem wit_foreign_packet : (side fun x => { x with parts := some [0], src := 9 }).dev.side.parts ≠ none
    ∧ (side fun x => { x with parts := some [0], src := 9 }).dev.side.src ≠ 8 := by decide
set_option maxRecDepth 20000 in
/-- The balls of a device that is ready, and of one that boots with a replacement cause on record. -/
theorem wit_balls : up.dev.pwr.rails = true ∧ up.dev.pwr.phase = 5 ∧ [Pin.actN, .wthruN, .ac2, .linkN, .ad2, .lowPwrN, .gpio7, .faultN].map up.pin =
      [.hiZ, .hiZ, .hiZ, .low, .hiZ, .hiZ, .hiZ, .hiZ]
    ∧ ({ (supply fun p => { p with phase := 4 }) with rel := { up.rel with replaceN := true } } : State).pin .ad2 = .low := by decide
/-- The bytes of a die failure's entry: event 0Eh, SEV 03h, channel 5, no slice, position 2. -/
theorem test_log_entry : (⟨7, 0x1234, 3, 0x0E, 3, [5], none, [2], [1]⟩ : LogEntry).bytes.take 32 =
    [7, 0, 0, 0, 0, 0, 0, 0, 0x34, 0x12, 0, 0, 0, 0, 0, 0, 3, 0, 0x0E, 3, 5, 0, 0xFF, 0xFF, 2, 0, 0, 0, 0, 0, 0, 0] := by decide
/-- Reassembly: a first packet, the next in sequence, and one out of it. -/
theorem wit_packets : up.dev.side.parts = none ∧ up.dev.side.fresh = false ∧ (side fun x => { x with fresh := true }).dev.side.fresh = true ∧ (side fun x => { x with parts := some [0], nextSeq := 1 }).dev.side.nextSeq = 1 ∧ (0 : Nat) + 64 ≤ mctpLimit := by decide

/-! ### The whole block -/

theorem wit_front : step { State.reset with pending := [.blankPageFillComplete 0] } = .next State.reset := rfl
theorem wit_sound : State.reset.sound :=
  ⟨⟨fun p (h : p ∈ []) => absurd h List.not_mem_nil, by decide⟩, Nat.zero_le _, by decide, by decide, by decide, by decide, by decide, by decide, by decide⟩
theorem wit_memory : Mem.wf [] = true ∧ Mem.wf (Mem.write [] 5 [0, 7]) = true := by decide
/-- RFE in supervisor mode, with EST.RP 1 and 0. -/
theorem wit_rfe (rp : Bool) : (State.reset.modCore 0 fun k => { k with ctl := { k.ctl with est := if rp then 2 else 0 } }).longOk 0 (word 3 no no no) szD .none .none .none true true := by
  refine ⟨by cases rp <;> decide, fun opc => ?_⟩
  cases rp <;> rfl
theorem wit_reset : (0 : Nat) < 144 ∧ 143 < 144 := by decide

end Sys2Proof.Tests
end

section
/-! Register writes: which register a write of each width and window reaches, and what it leaves (R10, R11, R46, R48, R97,
R507 to R511). -/

namespace Sys2Proof.Machine

/-- R10, R508: a register write is by its size and boundary. -/
theorem exec_registerWrite (win : Window) (o n : Nat) (x : W64) (s : State) : exec (.registerWrite win o n x) s = .next (
    if n = 4 ∧ o % 4 = 0 then s.put4 win o (x.extractLsb' 0 32)
    else if n = 8 ∧ o % 8 = 0 then
      if win = .bar4 then s.bar4Put8 o x
      else (s.put4 win o (x.extractLsb' 0 32)).put4 win (o + 4) (x.extractLsb' 32 32)
    else s) := by
  cases win <;> rfl

/-- R508: a 4-byte write at a 4-byte boundary is the write of its low word. -/
theorem exec_registerWrite_four {s t : State} {win : Window} {o : Nat} {v : W32} (ho : o % 4 = 0) (h : s.put4 win o v = t)
    (y : W64) (hy : y.extractLsb' 0 32 = v) : exec (.registerWrite win o 4 y) s = .next t := by
  rw [exec_registerWrite, if_pos ⟨rfl, ho⟩, hy, h]

/-- R508, R511: an 8-byte write of BAR4 at an 8-byte boundary. -/
theorem exec_registerWrite_eight_bar4 (s : State) {o : Nat} (ho : o % 8 = 0) (x : W64) :
    exec (.registerWrite .bar4 o 8 x) s = .next (s.bar4Put8 o x) := by
  rw [exec_registerWrite, if_neg (fun h => absurd h.1 (by decide)), if_pos ⟨rfl, ho⟩, if_pos rfl]

/-- R508: a write of another size, or off its boundary, is dropped. -/
theorem exec_registerWrite_dropped (s : State) (win : Window) {o n : Nat} (x : W64) (h4 : ¬(n = 4 ∧ o % 4 = 0))
    (h8 : ¬(n = 8 ∧ o % 8 = 0)) : exec (.registerWrite win o n x) s = .next s := by
  rw [exec_registerWrite, if_neg h4, if_neg h8]

/-- A write of BAR0 reaches the controller of its port. -/
theorem put4_bar0 (s : State) {p : Nat} (hp : p < splitPorts s.dev.split) (o : Nat) (v : W32) :
    s.put4 (.bar0 p) o v = s.ctlPut p o v := if_pos hp

/-- R509: a write of BAR2 reaches the slice page that its offset lies in. -/
theorem put4_bar2 (s : State) {p sl o : Nat} (h : s.pageDecodes p sl = true) (ho : o < 0x10000) (v : W32) :
    s.put4 (.bar2 p) (sl * 0x10000 + o) v = s.slicePut sl o v := by
  have hq : (sl * 0x10000 + o) / 0x10000 = sl := by omega
  have hr : (sl * 0x10000 + o) % 0x10000 = o := by omega
  simp only [State.put4, hq, hr, h, if_true]

/-- R48: a write of CC that keeps EN, notifies no shutdown and gives accepted settings sets the fields of CC. -/
theorem ctlPut_cc (s : State) {i : Nat} {v : W32} (hen : v.getLsbD 0 = (s.ctrl i).en)
    (hshn : ((s.ctrl i).withCc v).notified = false)
    (hcc : (s.ctrl i).en = false ∨ s.ccValid i ((s.ctrl i).withCc v) = true) :
    s.ctlPut i 0x14 v = s.setCtrl i ((s.ctrl i).withCc v) := by
  have hset : ((s.ctrl i).en && !s.ccValid i ((s.ctrl i).withCc v)) = false := by
    rcases hcc with h | h
    · rw [h, Bool.false_and]
    · rw [h, Bool.not_true, Bool.and_false]
  simp only [State.ctlPut, hen, hshn, hset, bne_self_eq_false, Bool.or_self, Bool.false_eq_true, if_false]

/-- R508: the rest of a controller's registers drop writes. -/
theorem ctlPut_unwritable (s : State) (i : Nat) {o : Nat} (v : W32)
    (ho : o ∉ [0x0C, 0x10, 0x14, 0x24, 0x28, 0x2C, 0x30, 0x34]) : s.ctlPut i o v = s := by
  unfold State.ctlPut
  split
  case h_9 => rfl
  all_goals exact absurd (by decide) ho

/-- R97: SLICE.VER.SEL takes 0 to 2 while CC.EN is 0. -/
theorem slicePut_verSel (s : State) {sl : Nat} {v : W32} (hen : (s.ctrl (sliceCtrl sl)).en = false) (hv : v.toNat % 256 ≤ 2) :
    s.slicePut sl 0xE80 v = s.modSlice sl fun z => { z with verSel := v.truncate 8 } := by
  rw [State.slicePut, if_pos rfl, if_neg]
  rw [hen, Bool.false_or, decide_eq_true_eq]
  omega

/-- R97: SLICE.VER.SEL is locked while CC.EN is 1, and takes no reserved value. -/
theorem slicePut_verSel_refused (s : State) {sl : Nat} {v : W32}
    (h : (s.ctrl (sliceCtrl sl)).en = true ∨ 2 < v.toNat % 256) : s.slicePut sl 0xE80 v = s := by
  rw [State.slicePut, if_pos rfl, if_pos (by rwa [Bool.or_eq_true, decide_eq_true_eq])]

/-- R405: RFMTH and AGE of DRAM.SCHED as numbers. -/
theorem schedFields_toNat (v : W32) : (v.extractLsb' 16 12).toNat = v.toNat / 65536 % 4096
    ∧ (v.extractLsb' 0 12).toNat = v.toNat % 4096 := by
  rw [BitVec.extractLsb'_toNat, BitVec.extractLsb'_toNat, Nat.shiftRight_eq_div_pow, Nat.shiftRight_zero]
  exact ⟨rfl, rfl⟩

/-- R405: DRAM.SCHED takes RFMTH from 040h up with AGE other than 0. -/
theorem bar4Put_sched (s : State) {v : W32} (hth : 0x40 ≤ v.toNat / 65536 % 4096) (hage : v.toNat % 4096 ≠ 0) :
    s.bar4Put 0x7008 v = { s with dram := { s.dram with rfmTh := v.extractLsb' 16 12, age := v.extractLsb' 0 12 } } := by
  obtain ⟨eth, eage⟩ := schedFields_toNat v
  have hne : v.extractLsb' 0 12 ≠ 0 := fun h => hage (by rw [← eage, h]; rfl)
  exact if_neg (not_or.mpr ⟨by omega, hne⟩)

/-- R405: DRAM.SCHED refuses RFMTH below 040h and AGE 0. -/
theorem bar4Put_sched_refused (s : State) {v : W32} (h : v.toNat / 65536 % 4096 < 0x40 ∨ v.toNat % 4096 = 0) :
    s.bar4Put 0x7008 v = s := by
  obtain ⟨eth, eage⟩ := schedFields_toNat v
  exact if_pos (h.imp (fun h => by omega) fun h => BitVec.eq_of_toNat_eq (by rw [eage, h]; rfl))

/-- R433: HM.MRSEL takes the numbers of an MR and of an SMR. -/
theorem bar4Put_mrSel (s : State) {v : W32} (h : v.toNat % 2048 < 0x20 ∨ 0x400 ≤ v.toNat % 2048) :
    s.bar4Put 0x9020 v = { s with hm := { s.hm with mrSel := v.truncate 11 } } := by
  have hsel : BitVec.ofNat 11 (v.toNat % 2048) = v.truncate 11 := BitVec.eq_of_toNat_eq (by
    rw [BitVec.toNat_ofNat, BitVec.truncate_eq_setWidth, BitVec.toNat_setWidth]
    omega)
  rw [← hsel]
  exact if_neg (by omega)

/-- R508: the rest of BAR4 drops 4-byte writes. -/
theorem bar4Put_unwritable (s : State) {o : Nat} (v : W32)
    (ho : o ∉ [0x1004, 0x2000, 0x5010, 0x6000, 0x7008, 0x700C, 0x8000, 0x9008, 0x9020, 0xC000]) : s.bar4Put o v = s := by
  unfold State.bar4Put
  split
  case h_11 => rfl
  all_goals exact absurd (by decide) ho

/-- R419: an 8-byte write of one of ECC.TBUF0 to ECC.TBUF9 replaces that word alone. -/
theorem bar4Put8_tbuf (s : State) (x : W64) {k : Nat} (hk : k < 10) :
    s.bar4Put8 (0x8040 + 8 * k) x = { s with dram := { s.dram with tbuf := s.dram.tbuf.set k x } } := by
  have hword : (0x8040 + 8 * k - 0x8040) / 8 = k := by omega
  have htbuf : (s.dram.tbuf.mapIdx fun i z => if i = k then x else z) = s.dram.tbuf.set k x := by
    ext i hi
    simp only [Vector.getElem_mapIdx, Vector.getElem_set, eq_comm (a := k)]
  rw [State.bar4Put8, if_neg (by omega), if_pos (by omega), hword, htbuf]

/-- Settles O28: each clause is the write of one register, taken through the width and the window of the access. -/
theorem registerWritesReachTheirField : Obligations.RegisterWritesReachTheirField := by
  intro s w p sl off size v x
  have verOff : (sl * 0x10000 + 0xE80) % 4 = 0 := by omega
  refine ⟨fun hp => ?_, fun hdec => ?_, ?_, ?_, ?_, ?_, ?_, ?_, ?_, ?_, ?_, ?_, ?_, ?_, ?_, ?_⟩
  · have ctl {o : Nat} {t : State} (ho : o % 4 = 0) (h : s.ctlPut p o v = t) :=
      exec_registerWrite_four ho ((put4_bar0 s hp o v).trans h)
    exact ⟨ctl rfl rfl, ctl rfl rfl, ctl rfl rfl, ctl rfl rfl, ctl rfl rfl,
      fun hen hshn hcc => ctl rfl (ctlPut_cc s hen hshn hcc), fun ho hal => ctl hal (ctlPut_unwritable s p v ho)⟩
  · have ver := put4_bar2 s hdec (o := 0xE80) (by decide) v
    exact ⟨fun hen hv => exec_registerWrite_four verOff (ver.trans (slicePut_verSel s hen hv)),
      fun h => exec_registerWrite_four verOff (ver.trans (slicePut_verSel_refused s h))⟩
  · exact exec_registerWrite_four rfl rfl
  · exact exec_registerWrite_four rfl rfl
  · exact fun h => exec_registerWrite_four rfl (if_neg h)
  · exact fun h => exec_registerWrite_four rfl (if_pos h)
  · exact exec_registerWrite_four rfl rfl
  · exact fun hth hage => exec_registerWrite_four rfl (bar4Put_sched s hth hage)
  · exact fun h => exec_registerWrite_four rfl (bar4Put_sched_refused s h)
  · exact exec_registerWrite_four rfl rfl
  · exact fun h => exec_registerWrite_four rfl (bar4Put_mrSel s h)
  · exact exec_registerWrite_four rfl rfl
  · exact fun ho hal => exec_registerWrite_four hal (bar4Put_unwritable s v ho)
  · exact exec_registerWrite_eight_bar4 s rfl x
  · intro k hk
    rw [exec_registerWrite_eight_bar4 s (by omega) x, bar4Put8_tbuf s x hk]
  · exact exec_registerWrite_dropped s w x

end Sys2Proof.Machine
end

section
/-! Register reads: the bytes a read returns and the RC fields it clears (R10, R508, R511). -/

namespace Sys2Proof.Machine

/-! ## The bytes of a read -/

/-- The bytes of a number, lowest first, are that number (R9). -/
theorem leNat_map_range (n v : Nat) (hv : v < 2 ^ (8 * n)) :
    leNat ((List.range n).map fun k => BitVec.ofNat 8 (v / 2 ^ (8 * k))) = v := by
  induction n generalizing v with
  | zero => exact (Nat.lt_one_iff.mp hv).symm
  | succ n ih =>
    have hdiv : v / 256 < 2 ^ (8 * n) := by
      rw [Nat.div_lt_iff_lt_mul (by decide)]
      calc v < 2 ^ (8 * (n + 1)) := hv
        _ = 2 ^ (8 * n) * 256 := by rw [Nat.mul_succ, Nat.pow_add]
    have hshift (k : Nat) : v / 2 ^ (8 * (k + 1)) = v / 256 / 2 ^ (8 * k) := by
      rw [Nat.div_div_eq_div_mul, Nat.mul_succ, Nat.pow_add, Nat.mul_comm]
    simp only [List.range_succ_eq_map, List.map_cons, List.map_map, Function.comp_def, Nat.succ_eq_add_one, hshift, leNat, ih _ hdiv,
      Nat.mul_zero, Nat.pow_zero, Nat.div_one, BitVec.toNat_ofNat]
    omega

/-- A byte of a 64-bit register (R508). -/
theorem mapByte_of_wide {f : Nat → Option (Nat × Nat)} {o v k : Nat} (h : f o = some (8, v)) (ho : o % 8 = 0) (hk : k < 8) :
    mapByte f (o + k) = BitVec.ofNat 8 (v / 2 ^ (8 * k)) := by
  have hbase : (o + k) / 8 * 8 = o := by omega
  have hplace : (o + k) % 8 = k := by omega
  simp only [mapByte, hbase, h, hplace]

/-- A byte of a 32-bit register (R508). -/
theorem mapByte_of_narrow {f : Nat → Option (Nat × Nat)} {o v k : Nat} (h : f o = some (4, v))
    (hwide : ∀ x, f (o / 8 * 8) ≠ some (8, x)) (ho : o % 4 = 0) (hk : k < 4) :
    mapByte f (o + k) = BitVec.ofNat 8 (v / 2 ^ (8 * k)) := by
  have hwideBase : (o + k) / 8 * 8 = o / 8 * 8 := by omega
  have hbase : (o + k) / 4 * 4 = o := by omega
  have hplace : (o + k) % 4 = k := by omega
  unfold mapByte
  rw [hwideBase, hbase, hplace, h]
  split
  case h_1 x hx => exact absurd hx (hwide x)
  case h_2 => rfl

/-- Every register of BAR4 lies below offset E000h (R510). -/
theorem bar4Reg_lt {s : State} {o : Nat} {r : Nat × Nat} (h : s.bar4Reg o = some r) : o < 0xE000 := by
  refine Nat.lt_of_not_le fun hge => ?_
  unfold State.bar4Reg at h
  split at h
  case h_34 =>
    rw [if_neg (by omega), if_neg (by omega), if_neg (by omega), if_neg (by omega)] at h
    cases h
  all_goals omega

/-- A byte of BAR4 is a byte of its register map. -/
theorem regByte_bar4 (s : State) {o : Nat} (ho : o < 0x100000) (k : Nat) : s.regByte .bar4 o k = mapByte s.bar4Reg o := by
  change mapByte s.bar4Reg (o % 0x100000) = _
  rw [Nat.mod_eq_of_lt ho]

/-- Below the doorbells, BAR0 reads as the registers of the port's controller. -/
theorem regByte_bar0 (s : State) {p o : Nat} (hp : p < splitPorts s.dev.split) (ho : o < 0x1000) (k : Nat) :
    s.regByte (.bar0 p) o k = mapByte (s.bar0Reg p) o := by
  have hbell : s.isDoorbell (.bar0 p) o = false := by
    simp only [State.isDoorbell, decide_eq_false (Nat.not_le_of_lt ho), Bool.and_false, Bool.false_and]
  have hpage : o % windowSize (.bar0 p) = o := Nat.mod_eq_of_lt (show o < 0x10000 by omega)
  simp only [State.regByte, hbell, hpage, State.windowMap, hp, if_true, Bool.false_eq_true, if_false]

/-- The state once a read of `n` bytes has returned one word, before RC fields clear. -/
def State.readReturned (s : State) (o n : Nat) (x : W64) : State :=
  { s.drawnN n with out := { s.out with reads := (o, x) :: s.out.reads } }

/-- A read of at most 8 bytes returns the number that the bytes make up; only BAR4 has RC fields. -/
theorem exec_rcRegisterRead_word (s : State) (win : Window) {o n v : Nat} (hn : 0 < n ∧ n ≤ 8) (hv : v < 2 ^ (8 * n))
    (hb : ∀ k < n, s.regByte win (o + k) k = BitVec.ofNat 8 (v / 2 ^ (8 * k))) :
    exec (.rcRegisterRead win o n) s = .next (if win = .bar4 then (s.readReturned o n (BitVec.ofNat 64 v)).clearRc o n
      else s.readReturned o n (BitVec.ofNat 64 v)) := by
  have hbytes : (List.range n).map (fun k => s.regByte win (o + k) k)
      = (List.range n).map fun k => BitVec.ofNat 8 (v / 2 ^ (8 * k)) :=
    List.map_congr_left fun k hk => hb k (List.mem_range.mp hk)
  have hone : (n + 7) / 8 = 1 := by omega
  have htake : ((List.range n).map fun k => (BitVec.ofNat 8 (v / 2 ^ (8 * k)) : Byte)).take 8
      = (List.range n).map fun k => BitVec.ofNat 8 (v / 2 ^ (8 * k)) := List.take_of_length_le (by
      rw [List.length_map, List.length_range]
      exact hn.2)
  change execRcRegisterRead win o n s = _
  unfold execRcRegisterRead
  rw [hbytes, hone]
  simp only [List.range_one, List.map_cons, List.map_nil, Nat.mul_zero, List.drop_zero, Nat.add_zero, htake,
    leNat_map_range n v hv]
  cases win <;> rfl

/-! ## The RC fields (R10, R110, R189, R418, R522) -/

/-- A change of a DRAM channel after another is the change by both. -/
theorem modDchan_modDchan (s : State) (c : Nat) (f g : DramChan → DramChan) :
    (s.modDchan c f).modDchan c g = s.modDchan c (g ∘ f) := by
  have hread := dchan_mod s c f
  unfold State.modDchan at hread ⊢
  simp only [hread, set_set, Function.comp]

/-- R110: a read of TIME.STAT clears its spurious edges. -/
theorem clearRc_timeStat (s : State) : s.clearRc 0x1004 4 = { s with time := { s.time with spur := 0 } } := rfl

/-- R189: a read of FL.CHSTAT clears the recovered codewords of the selected channel. -/
theorem clearRc_chStat (s : State) :
    s.clearRc 0x6004 4 = s.modMedia fun m => m.modChan m.chSel.toNat fun c => { c with recov := 0 } := rfl

/-- R418: a read of DRAM.STAT clears both counts of the selected DRAM channel. -/
theorem clearRc_dramStat (s : State) :
    s.clearRc 0x7018 8 = s.modDchan s.dram.selCh.toNat fun x => { x with panics := 0, uncorr := 0 } :=
  modDchan_modDchan s _ (fun x => { x with panics := 0 }) fun x => { x with uncorr := 0 }

/-- R522: a read of PORT.STAT clears both counts of a port that the split gives. -/
theorem clearRc_portStat (s : State) (h : s.dev.portSel.toNat < splitPorts s.dev.split) :
    s.clearRc 0xC008 8 = { s with dev := { s.dev with
      ports := Tbl.set s.dev.ports s.dev.portSel.toNat { s.port s.dev.portSel.toNat with recov := 0, downsh := 0 } } } := by
  have hspur : touches 0xC008 8 0x1006 2 = false := rfl
  have hrecov : touches 0xC008 8 0x6006 1 = false := rfl
  have hpanics : touches 0xC008 8 0x701C 2 = false := rfl
  have huncorr : touches 0xC008 8 0x7019 1 = false := rfl
  have hport : touches 0xC008 8 0xC00C 2 = true := rfl
  have hdown : touches 0xC008 8 0xC00A 1 = true := rfl
  simp only [State.clearRc, hspur, hrecov, hpanics, huncorr, hport, hdown, Bool.false_eq_true, if_false, if_true, h,
    State.port, Tbl.getD_set_self, set_set]

/-- A read that touches none of the RC fields clears nothing. -/
theorem clearRc_of_untouched (s : State) {o n : Nat} (hspur : touches o n 0x1006 2 = false)
    (hrecov : touches o n 0x6006 1 = false) (hpanics : touches o n 0x701C 2 = false)
    (huncorr : touches o n 0x7019 1 = false) (hport : touches o n 0xC00C 2 = false)
    (hdown : touches o n 0xC00A 1 = false) : s.clearRc o n = s := by
  simp only [State.clearRc, hspur, hrecov, hpanics, huncorr, hport, hdown, Bool.false_eq_true, if_false]

/-- A range that misses a byte does not touch it. -/
theorem touches_one {o n a : Nat} (h : a < o ∨ o + n ≤ a) : touches o n a 1 = false := by
  simp only [touches, Bool.and_eq_false_iff, decide_eq_false_iff_not]
  omega

/-- A range of some bytes that misses two neighbours touches neither. -/
theorem touches_two {o n a : Nat} (hn : 0 < n) (h : a < o ∨ o + n ≤ a) (h' : a + 1 < o ∨ o + n ≤ a + 1) :
    touches o n a 2 = false := by
  simp only [touches, Bool.and_eq_false_iff, decide_eq_false_iff_not]
  omega

/-- Settles O29: the bytes of the register make up its value, and the RC fields clear by their offsets. -/
theorem registerReadsReturnAndClear : Obligations.RegisterReadsReturnAndClear := by
  intro s off n v p
  refine ⟨fun hreg hal hv => ?_, fun hreg hal hv hwide => ?_, fun hp hreg hoff hal hv hwide => ?_, clearRc_timeStat s,
    clearRc_chStat s, clearRc_dramStat s, clearRc_portStat s, fun hn hmiss => ?_⟩
  · have hlow := bar4Reg_lt hreg
    exact exec_rcRegisterRead_word s .bar4 (by decide) hv fun k hk =>
      (regByte_bar4 s (by omega) k).trans (mapByte_of_wide hreg hal hk)
  · have hlow := bar4Reg_lt hreg
    exact exec_rcRegisterRead_word s .bar4 (by decide) hv fun k hk =>
      (regByte_bar4 s (by omega) k).trans (mapByte_of_narrow hreg hwide hal hk)
  · exact exec_rcRegisterRead_word s (.bar0 p) (by decide) hv fun k hk =>
      (regByte_bar0 s hp (by omega) k).trans (mapByte_of_narrow hreg hwide hal hk)
  · simp only [List.forall_mem_cons] at hmiss
    obtain ⟨spur0, spur1, recov, uncorr, panics0, panics1, down, port0, port1, -⟩ := hmiss
    exact clearRc_of_untouched s (touches_two hn spur0 spur1) (touches_one recov) (touches_two hn panics0 panics1)
      (touches_one uncorr) (touches_two hn port0 port1) (touches_one down)

end Sys2Proof.Machine
end

section
/-! The deck (R16 to R24, R465): what a link direction keeps, what its input grants, and what the destination takes. -/

namespace Sys2Proof.Machine

/-! ## A direction of a link -/

/-- A change of a direction depends on what the direction holds alone. -/
theorem modLane_eq_const (s : State) (l : Nat) (back : Bool) (f : Lane → Lane) :
    s.modLane l back f = s.modLane l back fun _ => f (s.rel.lane l back) := by
  cases back <;> rfl

@[simp] theorem lane_modLane_self (s : State) (l : Nat) (back : Bool) (f : Lane → Lane) :
    (s.modLane l back f).rel.lane l back = f (s.rel.lane l back) := (lane_mod s l back f).1

/-- A change of a direction does not mark its link failed, nor mend it. -/
@[simp] theorem failed_modLane (s : State) (l : Nat) (back : Bool) (f : Lane → Lane) :
    ((s.modLane l back f).rel.link l).failed = (s.rel.link l).failed := by
  rw [State.modLane, link_mod]
  cases back <;> rfl

/-! ## A flit received (R20) -/

/-- The sender's replay buffer once a flit has been sent: one sent again stands there already. -/
def Lane.kept (x : Lane) (f : Flit) : List Flit :=
  if x.sent.any fun y => y.tag = f.tag then x.sent else x.sent ++ [f]

/-- The direction after a flit that failed its link check. -/
def Lane.counted (x : Lane) (f : Flit) : Lane := { x with sent := x.kept f, bad := x.bad + 1 }

/-- The direction after a good flit. -/
def Lane.received (x : Lane) (f : Flit) : Lane := { x with sent := x.kept f, bad := 0, held := x.held ++ [f] }

/-- The state after a good flit, which waits for its grant. -/
def State.flitWaits (s : State) (l : Nat) (back : Bool) (f : Flit) : State :=
  s.modLane l back fun _ => (s.rel.lane l back).received f

section
variable {s : State} {l : Nat} (hl : l < 60) (hlink : (s.rel.link l).failed = false)
include hl hlink

/-- A link of the deck not marked failed takes part. -/
theorem link_works : ¬(60 ≤ l ∨ (s.rel.link l).failed = true) :=
  not_or.2 ⟨Nat.not_le.2 hl, Bool.eq_false_iff.1 hlink⟩

/-- R20: a flit that fails its link check is counted; the third in a row fails the link. -/
theorem exec_deckFlitReceive_bad (back : Bool) (f : Flit) (grant : Bool) :
    exec (.deckFlitReceive ⟨l, back⟩ f false grant) s = .next (
      let t := s.modLane l back fun _ => (s.rel.lane l back).counted f
      if 2 ≤ (s.rel.lane l back).bad then t.failLink l 2 else t) := by
  show execDeckFlitReceive _ _ _ _ _ = _
  rw [execDeckFlitReceive, if_neg (link_works hl hlink), modLane_eq_const]
  rfl

/-- R20: a good flit waits at the input. -/
theorem exec_deckFlitReceive_waits (back : Bool) (f : Flit) :
    exec (.deckFlitReceive ⟨l, back⟩ f true false) s = .next (s.flitWaits l back f) := by
  show execDeckFlitReceive _ _ _ _ _ = _
  rw [execDeckFlitReceive, if_neg (link_works hl hlink), modLane_eq_const]
  rfl

/-- R23: in a cycle in which the input grants, it grants the flit it picks of those that then wait. -/
theorem exec_deckFlitReceive_grants {back : Bool} {f g : Flit} (hpick : ((s.rel.lane l back).received f).pick = some g) :
    exec (.deckFlitReceive ⟨l, back⟩ f true true) s = .next ((s.flitWaits l back f).grantFlit l back g) := by
  have hgot : ((s.flitWaits l back f).rel.lane l back).pick = some g :=
    (congrArg Lane.pick (lane_modLane_self s l back _)).trans hpick
  show execDeckFlitReceive _ _ _ _ _ = _
  rw [execDeckFlitReceive, if_neg (link_works hl hlink), modLane_eq_const]
  show Host.Outcome.next (match ((s.flitWaits l back f).rel.lane l back).pick with
    | some g => (s.flitWaits l back f).grantFlit l back g
    | none => s.flitWaits l back f) = _
  rw [hgot]

end

/-- R20: an acknowledgement takes the oldest flits from the replay buffer. -/
theorem exec_deckAck (s : State) {l : Nat} (hl : l < 60) (back : Bool) (n : Nat) :
    exec (.deckAck ⟨l, back⟩ n) s =
      .next (s.modLane l back fun _ => { s.rel.lane l back with sent := (s.rel.lane l back).sent.drop n }) := by
  show execDeckAck _ _ _ = _
  rw [execDeckAck, if_neg (Nat.not_le.2 hl), modLane_eq_const]

/-! ## The grant (R23) -/

/-- The choice between the flit found so far and the next one that waits. -/
def lowerClass (b : Option Flit) (f : Flit) : Option Flit :=
  match b with
  | none => some f
  | some g => if f.cls.toNat < g.cls.toNat then some f else some g

theorem pick_eq_foldl (x : Lane) : x.pick = x.held.foldl lowerClass none := rfl

/-- The flit picked is one of those that wait. -/
theorem mem_of_foldl_lowerClass {l : List Flit} {b : Option Flit} {y : Flit} (h : l.foldl lowerClass b = some y) :
    y ∈ l ∨ b = some y := by
  induction l generalizing b with
  | nil => exact .inr h
  | cons f l ih =>
    rcases ih h with hy | hy
    · exact .inl (List.mem_cons_of_mem _ hy)
    · cases b with
      | none => exact .inl (List.mem_cons.2 (.inl (Option.some.inj hy).symm))
      | some g =>
        rw [lowerClass] at hy
        split at hy
        · exact .inl (List.mem_cons.2 (.inl (Option.some.inj hy).symm))
        · exact .inr hy

/-- A flit of a lower class than every one before it is taken. -/
theorem lowerClass_of_lt {b : Option Flit} {g : Flit} (h : ∀ y, b = some y → g.cls.toNat < y.cls.toNat) :
    lowerClass b g = some g := by
  cases b with
  | none => rfl
  | some y => exact if_pos (h y rfl)

/-- A flit of no higher class than those after it stays picked. -/
theorem foldl_lowerClass_some {l : List Flit} {g : Flit} (h : ∀ y ∈ l, g.cls.toNat ≤ y.cls.toNat) :
    l.foldl lowerClass (some g) = some g := by
  induction l with
  | nil => rfl
  | cons f l ih =>
    obtain ⟨hf, hl⟩ := List.forall_mem_cons.1 h
    rw [List.foldl_cons, lowerClass, if_neg (Nat.not_lt.2 hf), ih hl]

/-- R22, R23: the input picks the earliest flit of the lowest class waiting. -/
theorem pick_eq_some {x : Lane} {pre post : List Flit} {g : Flit} (hheld : x.held = pre ++ g :: post)
    (hpre : ∀ y ∈ pre, g.cls.toNat < y.cls.toNat) (hpost : ∀ y ∈ post, g.cls.toNat ≤ y.cls.toNat) : x.pick = some g := by
  have hbest : ∀ y, pre.foldl lowerClass none = some y → g.cls.toNat < y.cls.toNat := fun y hy =>
    (mem_of_foldl_lowerClass hy).elim (hpre y) fun h => nomatch h
  rw [pick_eq_foldl, hheld, List.foldl_append, List.foldl_cons, lowerClass_of_lt hbest, foldl_lowerClass_some hpost]

/-- R23: a flit at its limit is granted, whatever its class. -/
theorem exec_flitWaitLimit {s : State} {l : Nat} {back : Bool} {pre post : List Flit} {g : Flit}
    (hheld : (s.rel.lane l back).held = pre ++ g :: post) (hpre : ∀ y ∈ pre, y.tag ≠ g.tag) :
    exec (.flitWaitLimit ⟨l, back⟩ g.tag) s = .next (s.grantFlit l back g) := by
  have hfind : (s.rel.lane l back).held.find? (fun f => f.tag = g.tag) = some g := by
    rw [hheld, List.find?_eq_some_iff_append]
    exact ⟨decide_eq_true rfl, pre, post, rfl, fun y hy => by simp [hpre y hy]⟩
  show execFlitWaitLimit _ _ _ = _
  rw [execFlitWaitLimit, hfind]

/-- A flit granted leaves the input. -/
def Lane.granted (x : Lane) (f : Flit) : Lane :=
  { x with held := x.held.filter fun g => g.tag ≠ f.tag, credit := x.credit + 1 }

/-- R22: at its destination a granted flit arrives. -/
theorem grantFlit_of_here (s : State) {l : Nat} {back : Bool} {f : Flit} (hhere : (laneEnds l back).2 = f.dst) :
    s.grantFlit l back f = (s.modLane l back fun x => x.granted f).arriveFlit f := by
  rw [State.grantFlit, if_pos hhere]
  rfl

/-- R19, R23: elsewhere a granted flit goes out on the next link of its route. -/
theorem grantFlit_of_onward (s : State) {l n stop : Nat} {back b : Bool} {f : Flit} (hhere : (laneEnds l back).2 ≠ f.dst)
    (hon : (laneEnds l back).2 ∈ (s.modLane l back fun x => x.granted f).rel.route f.src f.dst)
    (hstop : nextStop ((s.modLane l back fun x => x.granted f).rel.route f.src f.dst) (laneEnds l back).2 = some stop)
    (hlane : laneOf (laneEnds l back).2 stop = some (n, b)) :
    s.grantFlit l back f = (s.modLane l back fun x => x.granted f).modLane n b fun y => { y with sent := y.sent ++ [f] } := by
  simp only [Lane.granted] at hon hstop
  simp only [State.grantFlit, hhere, if_false, List.contains_iff_mem, hon, if_true, hstop, Option.bind_some, hlane]
  rfl

/-! ## The order at the destination (R21, R22) -/

/-- A flit of an earlier place, or one whose place is kept already, is a copy and is dropped. -/
theorem arriveFlit_of_copy {s : State} {f : Flit} (h : f.ord < Tbl.getD s.rel.turn f.stream 0
    ∨ ∃ g ∈ s.rel.early, g.stream = f.stream ∧ g.ord = f.ord) : s.arriveFlit f = s := by
  simp only [State.arriveFlit, List.any_eq_true, decide_eq_true_eq, h, if_true]

/-- A flit that is no copy is kept, and then those whose turn has come are taken. -/
theorem arriveFlit_of_fresh {s : State} {f : Flit} (hturn : Tbl.getD s.rel.turn f.stream 0 ≤ f.ord)
    (hearly : ∀ g ∈ s.rel.early, g.stream = f.stream → g.ord ≠ f.ord) :
    s.arriveFlit f = State.takeEarly { s with rel := { s.rel with early := s.rel.early ++ [f] } } f.stream
      (s.rel.early ++ [f]).length := by
  have hfresh : ¬(f.ord < Tbl.getD s.rel.turn f.stream 0 ∨ s.rel.early.any (fun g => g.stream = f.stream ∧ g.ord = f.ord) = true) := by
    simp only [List.any_eq_true, decide_eq_true_eq]
    rintro (hlt | ⟨g, hg, hs, ho⟩)
    · omega
    · exact hearly g hg hs ho
  rw [State.arriveFlit, if_neg hfresh]

/-- With no flit whose turn it is, none is taken. -/
theorem takeEarly_of_none_due {s : State} {stream : Nat}
    (h : ∀ g ∈ s.rel.early, g.stream = stream → g.ord ≠ Tbl.getD s.rel.turn stream 0) (n : Nat) : s.takeEarly stream n = s := by
  have hfind : s.rel.early.find? (fun f => f.stream = stream ∧ f.ord = Tbl.getD s.rel.turn stream 0) = none := by
    simpa only [List.find?_eq_none, decide_eq_true_eq, not_and] using h
  cases n with
  | zero => rfl
  | succ n => rw [State.takeEarly, hfind]

/-- R22: a flit before its turn is kept. -/
theorem arriveFlit_of_early {s : State} {f : Flit} (hturn : Tbl.getD s.rel.turn f.stream 0 < f.ord)
    (hearly : ∀ g ∈ s.rel.early, g.stream = f.stream → Tbl.getD s.rel.turn f.stream 0 < g.ord ∧ g.ord ≠ f.ord) :
    s.arriveFlit f = { s with rel := { s.rel with early := s.rel.early ++ [f] } } := by
  rw [arriveFlit_of_fresh (Nat.le_of_lt hturn) fun g hg hs => (hearly g hg hs).2]
  refine takeEarly_of_none_due (fun g hg hs => ?_) _
  rcases List.mem_append.1 hg with hg | hg
  · exact Nat.ne_of_gt (hearly g hg hs).1
  · obtain rfl := List.mem_singleton.1 hg
    exact Nat.ne_of_gt hturn

/-- R22: a flit in its turn, with none kept, is taken and the turn moves on. -/
theorem arriveFlit_of_due {s : State} {f : Flit} (hturn : f.ord = Tbl.getD s.rel.turn f.stream 0) (hearly : s.rel.early = []) :
    s.arriveFlit f = ({ s with rel := { s.rel with turn := Tbl.set s.rel.turn f.stream (f.ord + 1) } } : State).takeFlit f := by
  rw [arriveFlit_of_fresh (Nat.le_of_eq hturn.symm) (by simp [hearly])]
  simp [hearly, State.takeEarly, ← hturn]

/-! ## What the destination takes (R24, R465) -/

theorem parityOk_iff (f : Flit) : f.parityOk = true ↔ deckParity f.body = f.parity := decide_eq_true_iff

/-- A parity error of a transaction not yet poisoned: its data is discarded and the error is counted and logged. -/
def State.parityError (s : State) (f : Flit) : State :=
  ({ s with rel := { s.rel with
      inbox := Tbl.del s.rel.inbox f.txnKey
      spoiled := if f.last then s.rel.spoiled else insNat f.txnKey s.rel.spoiled
      parity := Tbl.set s.rel.parity f.src (Tbl.getD s.rel.parity f.src 0 + 1)
      testing := if Tbl.getD s.rel.parity f.src 0 + 1 = 16 then insNat f.src s.rel.testing else s.rel.testing } }).logFault
    0x11 1 [f.dst] none [f.src] (requester f.who)

theorem takeFlit_of_spoiled {s : State} {f : Flit} (h : f.txnKey ∈ s.rel.spoiled) : s.takeFlit f =
    { s with rel := { s.rel with spoiled := if f.last then delNat f.txnKey s.rel.spoiled else s.rel.spoiled } } := by
  rw [State.takeFlit, if_pos (List.contains_iff_mem.2 h)]

theorem takeFlit_of_good {s : State} {f : Flit} (h : f.txnKey ∉ s.rel.spoiled) (hok : f.parityOk = true) :
    s.takeFlit f = { s with rel := { s.rel with
      inbox := if f.last then Tbl.del s.rel.inbox f.txnKey
        else Tbl.set s.rel.inbox f.txnKey (Tbl.getD s.rel.inbox f.txnKey [] ++ f.body) } } := by
  rw [State.takeFlit, if_neg (mt List.contains_iff_mem.1 h), if_pos hok]

/-- R24: after a parity error the requester, where there is one, is told. -/
theorem takeFlit_of_parity_error {s : State} {f : Flit} (h : f.txnKey ∉ s.rel.spoiled) (hbad : f.parityOk = false) :
    s.takeFlit f = f.who.elim (s.parityError f) (s.parityError f).poisoned := by
  rw [State.takeFlit, if_neg (mt List.contains_iff_mem.1 h), if_neg (Bool.eq_false_iff.1 hbad)]
  cases hwho : f.who <;> simp only [State.parityError, hwho] <;> rfl

/-- R24: a core's access to a poisoned word meets Bus Error. -/
theorem poisoned_core (s : State) {c : Nat} (hc : c < 144) (a : W64) :
    s.poisoned (.core c a) = s.modCore c fun k => { k with busErr := insNat (a.toNat / 8) k.busErr } := if_pos hc

/-- Settles O20: a direction keeps, counts and grants; a flit granted goes on or arrives; the destination orders and checks. -/
theorem deckFlitsMoveByTheLinkProtocol : Obligations.DeckFlitsMoveByTheLinkProtocol := by
  refine ⟨fun s l back f g grant pre post hl hlink => ⟨fun hbad => ?_, ?_, fun hheld hpre hpost => ?_,
      fun hheld hpre => exec_flitWaitLimit hheld hpre, fun n => exec_deckAck s hl back n, fun y => lane_mod s l back fun _ => y⟩,
    fun s l n back f => ⟨grantFlit_of_here s, fun stop b => grantFlit_of_onward s⟩,
    fun s f => ⟨arriveFlit_of_copy, arriveFlit_of_early, arriveFlit_of_due⟩,
    fun s f => ⟨parityOk_iff f, takeFlit_of_spoiled, takeFlit_of_good, fun h hbad hwho => ?_, fun w h hbad hwho => ?_,
      fun c a hc => poisoned_core _ hc a⟩⟩
  · rw [exec_deckFlitReceive_bad hl hlink, if_neg (Nat.not_le.2 hbad)]
    rfl
  · exact exec_deckFlitReceive_waits hl hlink back f
  · exact exec_deckFlitReceive_grants hl hlink (pick_eq_some hheld hpre hpost)
  · exact (takeFlit_of_parity_error h hbad).trans (congrArg (·.elim (s.parityError f) (s.parityError f).poisoned) hwho)
  · exact (takeFlit_of_parity_error h hbad).trans (congrArg (·.elim (s.parityError f) (s.parityError f).poisoned) hwho)

end Sys2Proof.Machine
end

section
/-! What takes the place of a part that fails: the routes of the deck after a failed link (R20, R21, R464), and the keeper
pairs (R454 to R457). -/

namespace Sys2Proof.Machine

/-! ## A failed link -/

/-- A direction of a failed link: its replay buffer is emptied, and so are the copies of it that wait at the input. -/
def Lane.cut (y : Lane) : Lane := { y with
  sent := [], bad := 0, held := y.held.filter fun g => !y.sent.any fun h => h.tag = g.tag }

/-- The link is marked failed and both its directions are cut. -/
def State.cutLink (s : State) (l : Nat) : State :=
  s.modLink l fun x => { x with failed := true, out := x.out.cut, back := x.back.cut }

/-- A failed link is logged, and the second one requests replacement. -/
def State.noteLink (s : State) (l cause : Nat) : State :=
  let noted := s.logFault 0x10 (if 2 ≤ s.rel.linksBad.length then 3 else 2) [(linkEnds l).1] none [(linkEnds l).2] [cause]
  if 2 ≤ s.rel.linksBad.length then noted.requestRepl 9 else noted

/-- A stop sends the flits of a replay buffer again, the latest first, so that the oldest comes to stand foremost (R21). -/
def State.resendAll (s : State) (a : Nat) (sent : List Flit) : State := sent.foldr (fun g t => t.resendFlit a g) s

/-- Each stop that has lost every link loses its blocks (R464). -/
def State.dropCutOff (s : State) : State := s.rel.cutOff.foldl (fun t a => t.lostStop a) s

/-- R20, R21, R464: what the failure of a working link does. -/
theorem failLink_of_works {s : State} {l : Nat} (hl : l < 60) (hlink : (s.rel.link l).failed = false) (cause : Nat) :
    s.failLink l cause = State.dropCutOff ((((s.cutLink l).noteLink l cause).resendAll
      (linkEnds l).1 (s.rel.link l).out.sent).resendAll (linkEnds l).2 (s.rel.link l).back.sent) := by
  rw [State.failLink, if_neg (link_works hl hlink)]
  simp only [List.foldl_reverse]
  rfl

/-- R20: a late acknowledgement fails the link. -/
theorem exec_deckAckTimeout {s : State} {l : Nat} {back : Bool} (hsent : (s.rel.lane l back).sent ≠ []) :
    exec (.deckAckTimeout ⟨l, back⟩) s = .next (s.failLink l 1) :=
  congrArg Host.Outcome.next (if_neg (mt List.isEmpty_iff.1 hsent))

/-- R20: the third flit in a row that fails its check fails the link. -/
theorem exec_deckFlitReceive_third_bad {s : State} {l : Nat} (hl : l < 60) (hlink : (s.rel.link l).failed = false) {back : Bool}
    (hbad : 2 ≤ (s.rel.lane l back).bad) (f : Flit) (grant : Bool) : exec (.deckFlitReceive ⟨l, back⟩ f false grant) s =
      .next ((s.modLane l back fun x => x.counted f).failLink l 2) := by
  rw [exec_deckFlitReceive_bad hl hlink, if_pos hbad, modLane_eq_const s l back fun x => x.counted f]

/-! ## Keeper pairs -/

/-- The pair leaves service. -/
def State.retirePair (s : State) (p : Nat) : State := { s with rel := { s.rel with pairs := delNat p s.rel.pairs } }

/-- Pair `q` takes index `i` from pair `p`, which is logged with the commands in flight there. -/
def State.handOver (s : State) (p i q sev : Nat) : State :=
  ({ s with rel := { s.rel with serves := Tbl.set s.rel.serves i q } }).logFault 0x0C sev [p] none [q] [0, s.inFlight i]

/-- A pair in service that serves no index is the spare. -/
theorem adopter_of_spare {r : Rel} {i q : Nat} (hq : q ∈ r.pairs) (hfree : ∀ x ∈ r.serves, x.2 ≠ q)
    (hothers : ∀ y ∈ r.pairs, y ≠ q → ∃ x ∈ r.serves, x.2 = y) : r.adopter i = some q := by
  have hfind : r.pairs.find? (fun p => !r.serves.any fun x => x.2 = p) = some q := by
    cases hf : r.pairs.find? (fun p => !r.serves.any fun x => x.2 = p) with
    | none =>
      have hserved := List.find?_eq_none.1 hf q hq
      simp only [Bool.not_eq_true', Bool.not_eq_false, List.any_eq_true, decide_eq_true_eq] at hserved
      obtain ⟨x, hx, rfl⟩ := hserved
      exact absurd rfl (hfree x hx)
    | some p =>
      have hspare := List.find?_some hf
      simp only [Bool.not_eq_true', List.any_eq_false, decide_eq_true_eq] at hspare
      by_cases hpq : p = q
      · rw [hpq]
      · obtain ⟨x, hx, hxp⟩ := hothers p (List.mem_of_find?_eq_some hf) hpq
        exact absurd hxp (hspare x hx)
  rw [Rel.adopter, hfind]

/-- With every pair in service serving an index, the pair of the next index in service adopts. -/
theorem adopter_of_no_spare {r : Rel} {i q : Nat} (hall : ∀ y ∈ r.pairs, ∃ x ∈ r.serves, x.2 = y) (hq : q ∈ r.pairs)
    (hnext : q = Tbl.getD r.serves ((i + 1) % 4) 0
      ∨ (Tbl.getD r.serves ((i + 1) % 4) 0 ∉ r.pairs ∧ q = Tbl.getD r.serves ((i + 2) % 4) 0)
      ∨ (Tbl.getD r.serves ((i + 1) % 4) 0 ∉ r.pairs ∧ Tbl.getD r.serves ((i + 2) % 4) 0 ∉ r.pairs
          ∧ q = Tbl.getD r.serves ((i + 3) % 4) 0)) : r.adopter i = some q := by
  have hfind : r.pairs.find? (fun p => !r.serves.any fun x => x.2 = p) = none := by
    simpa [List.find?_eq_none] using hall
  rw [Rel.adopter, hfind]
  rcases hnext with rfl | ⟨h1, rfl⟩ | ⟨h1, h2, rfl⟩
  · simp [hq]
  · simp [h1, hq]
  · simp [h1, h2, hq]

/-- R455: the failure of a pair that serves one index hands the index to the pair that adopts it; the spare requests
replacement. -/
theorem keeperFail_of_adopter {s : State} {p i q : Nat} (hp : p ∈ s.rel.pairs)
    (hone : (s.rel.serves.filter fun x => x.2 = p) = [(i, p)]) (hleft : delNat p s.rel.pairs ≠ [])
    (hq : (s.retirePair p).rel.adopter i = some q) : s.keeperFail p =
      if (delNat p s.rel.pairs).any fun p => !s.rel.serves.any fun x => x.2 = p then
        ((s.retirePair p).handOver p i q 3).requestRepl 5
      else (s.retirePair p).handOver p i q 2 := by
  simp only [State.retirePair] at hq
  simp only [State.keeperFail, List.contains_iff_mem.2 hp, hone, List.isEmpty_iff, hleft, hq, List.map_cons, List.map_nil,
    List.foldl_cons, List.foldl_nil, Bool.not_true, Bool.false_eq_true, if_false, ne_eq, List.cons_ne_nil, not_false_eq_true,
    and_true]
  split
  · rfl
  · rfl

/-- R457: with no pair left, the device enters fault state. -/
theorem keeperFail_of_last {s : State} {p : Nat} (hp : p ∈ s.rel.pairs) (hleft : delNat p s.rel.pairs = []) :
    s.keeperFail p = ((s.retirePair p).logFault 0x0C 3 [p] none [p] [0, 0]).enterFault 5 := by
  simp only [State.keeperFail, List.contains_iff_mem.2 hp, hleft, List.isEmpty_nil, Bool.not_true, Bool.false_eq_true,
    if_false, if_true, State.retirePair]

/-- Settles O21: a failed link is cut and its flits go by other routes; a failed pair's index goes to the pair that adopts it. -/
theorem deckLinksAndKeepersFailOver : Obligations.DeckLinksAndKeepersFailOver := by
  refine ⟨fun s l back f grant hl hlink => ⟨fun hsent => ?_, fun hbad => ?_⟩,
    fun s p q i differs hp hone => ⟨fun hq hfree hothers => ?_, fun hall hq hnext => ?_, fun hleft => ?_⟩⟩
  · exact (exec_deckAckTimeout hsent).trans (congrArg Host.Outcome.next (failLink_of_works hl hlink 1))
  · exact (exec_deckFlitReceive_third_bad hl hlink hbad f grant).trans
      (congrArg Host.Outcome.next (failLink_of_works hl ((failed_modLane s l back _).trans hlink) 2))
  · have hspare : (delNat p s.rel.pairs).any (fun p => !s.rel.serves.any fun x => x.2 = p) = true :=
      List.any_eq_true.2 ⟨q, hq, by simpa using hfree⟩
    have hfail := keeperFail_of_adopter hp hone (List.ne_nil_of_mem hq) (adopter_of_spare hq hfree hothers)
    rw [if_pos hspare] at hfail
    exact ⟨congrArg Host.Outcome.next hfail, congrArg Host.Outcome.next hfail⟩
  · have hspare : ¬(delNat p s.rel.pairs).any (fun p => !s.rel.serves.any fun x => x.2 = p) = true := by
      simpa using hall
    have hfail := keeperFail_of_adopter hp hone (List.ne_nil_of_mem hq) (adopter_of_no_spare hall hq hnext)
    rw [if_neg hspare] at hfail
    exact ⟨congrArg Host.Outcome.next hfail, congrArg Host.Outcome.next hfail⟩
  · have hfail := keeperFail_of_last hp hleft
    exact ⟨congrArg Host.Outcome.next hfail, congrArg Host.Outcome.next hfail⟩

end Sys2Proof.Machine
end

section
/-! Migration logs (R123 to R128): their start and stop, the manager's head, and the records sent again. -/

namespace Sys2Proof.Machine

/-! ## Start and stop (R123) -/

/-- A manager command on a slice that is ready or parked is its body. -/
theorem sliceCmd_of_still {s : State} {e : Sqe} (h : (s.slice (sliceArg e)).st = .ready ∨ (s.slice (sliceArg e)).st = .parked)
    (q : Src) (body : Nat → State → State) : s.sliceCmd q e body = body (sliceArg e) s := by
  rw [sliceCmd_eq]
  rcases h with h | h
  · rw [h]; rfl
  · rw [h]; rfl

section
variable {s : State} {q : Src} {e : Sqe} (hadmin : s.AdminOk q e 0xCD onManager) (hbusy : s.keysBusy (sliceArg e) = false)
include hadmin hbusy

/-- R123: action values above 01b name no action. -/
theorem exec_migrationLogStart_of_no_action (data : List Byte) (hact : 1 < e.cdw10.toNat / 65536 % 4) :
    exec (.migrationLogStart q e data) s = .next ((s.begin q e.cid).fail q e.cid 0 scInvalidField) := by
  refine congrArg Host.Outcome.next ((if_neg ?_).trans ((admin_eq _ _ _ _ _ _ hadmin).trans (if_pos ?_)))
  · simp only [hbusy, Bool.false_eq_true, or_false]
    omega
  · omega

variable (hstill : ((s.begin q e.cid).slice (sliceArg e)).st = .ready ∨ ((s.begin q e.cid).slice (sliceArg e)).st = .parked)
include hstill

/-- A start for a slice that is ready or parked: its log and the room for one are looked up before its data is read. -/
theorem exec_migrationLogStart_of_still (data : List Byte) (hact : e.cdw10.toNat / 65536 % 4 = 0) :
    exec (.migrationLogStart q e data) s = .next (
      let b := s.begin q e.cid
      let m := b.moved q e.cid false 4096
      let base := leNat (data.take 8)
      let size := leNat ((data.drop 8).take 4)
      let n := ((List.range 16).find? fun k => (Tbl.get? m.host.mig k).isNone).getD 0
      if (findLog b.host.mig (sliceArg e)).isSome ∨ 16 ≤ b.host.mig.length then b.fail q e.cid 0 scSequence
      else if adminPrpBad e 4096 then b.fail q e.cid 0 scPrpOffset
      else if base % 4096 ≠ 0 ∨ !((List.range 15).any fun k => size = 256 * 2 ^ k) then m.fail q e.cid 0 scInvalidField
      else State.complete { m with host := { m.host with
        mig := Tbl.set m.host.mig n { slice := sliceArg e, base := BitVec.ofNat 64 base, size := size }
        migOld := Tbl.del m.host.migOld n } } q e.cid 0 0 (BitVec.ofNat 32 n) 0) := by
  refine congrArg Host.Outcome.next ((if_neg ?_).trans ((admin_eq _ _ _ _ _ _ hadmin).trans
    ((if_neg (not_not_intro hact)).trans (sliceCmd_of_still hstill q _))))
  simp [hact, hbusy]

/-- A stop for a slice that is ready or parked turns on the log of the slice alone. -/
theorem exec_migrationLogStop_of_still (hact : e.cdw10.toNat / 65536 % 4 = 1) {o : Option (Nat × MigLog)} :
    findLog (s.begin q e.cid).host.mig (sliceArg e) = o → exec (.migrationLogStop q e) s = .next (
      let b := s.begin q e.cid
      match o with
      | none => b.fail q e.cid 0 scSequence
      | some (_, l) => ((b.endLog (sliceArg e)).releasePaused (sliceArg e)).complete q e.cid 0 0
          (BitVec.ofNat 32 ((l.produced - l.sent) % 65536)) 0) := by
  rintro rfl
  refine congrArg Host.Outcome.next ((if_neg ?_).trans ((admin_eq _ _ _ _ _ _ hadmin).trans (sliceCmd_of_still hstill q _)))
  simp [hact, hbusy]

end

/-- The sizes of a log that a start takes. -/
theorem any_logSize_iff (size : Nat) :
    ((List.range 15).any fun k => size = 256 * 2 ^ k) = true ↔ ∃ k, k < 15 ∧ size = 256 * 2 ^ k := by
  simp

/-- A start takes the lowest free index. -/
theorem find?_free_eq_some {t : Tbl MigLog} {n : Nat} (hn : n < 16) (hfree : Tbl.get? t n = none)
    (hlow : ∀ k, k < n → Tbl.get? t k ≠ none) : ((List.range 16).find? fun k => (Tbl.get? t k).isNone) = some n := by
  refine List.find?_range_eq_some.2 ⟨by simp [hfree], List.mem_range.2 hn, fun k hk => ?_⟩
  simpa [Option.isSome_iff_ne_none] using hlow k hk

/-- The log of a slice that has one leaves the logs that run; its positions stand, with what was held discarded. -/
theorem endLog_of_findLog {s : State} {sl i : Nat} {l : MigLog} (h : findLog s.host.mig sl = some (i, l)) :
    s.endLog sl = { s with host := { s.host with
      mig := Tbl.del s.host.mig i, migOld := Tbl.set s.host.migOld i { l with produced := l.sent } } } := by
  rw [State.endLog, h]

/-! ## The manager's head (R125, R126, R128) -/

section
variable {s : State} {n : Nat}

theorem exec_migHeadWrite_running {l : MigLog} (h : Tbl.get? s.host.mig n = some l) (v : W32) :
    exec (.migHeadWrite n v) s = .next (if l.size ≤ v.toNat % 2 ^ 23 then s
      else State.releasePaused { s with host := { s.host with mig := Tbl.set s.host.mig n (l.advance (v.toNat % 2 ^ 23)) } }
        l.slice) := by
  rw [exec, execMigHeadWrite, h]

theorem exec_migHeadWrite_ended {l : MigLog} (hrun : Tbl.get? s.host.mig n = none) (h : Tbl.get? s.host.migOld n = some l)
    (v : W32) : exec (.migHeadWrite n v) s = .next (if l.size ≤ v.toNat % 2 ^ 23 then s
      else { s with host := { s.host with migOld := Tbl.set s.host.migOld n (l.advance (v.toNat % 2 ^ 23)) } }) := by
  rw [exec, execMigHeadWrite, hrun, h]

theorem exec_migHeadWrite_none (hrun : Tbl.get? s.host.mig n = none) (h : Tbl.get? s.host.migOld n = none) (v : W32) :
    exec (.migHeadWrite n v) s = .next s := by
  rw [exec, execMigHeadWrite, hrun, h]

end

/-! ## The manager port restored (R127) -/

theorem exec_managerPortRestored_down {s : State} (h : s.mgrCarries = false) : exec .managerPortRestored s = .next s :=
  congrArg Host.Outcome.next (if_neg (by simp [h]))

/-- Every log catches up, in the order of their indices. -/
theorem exec_managerPortRestored_up {s : State} (h : s.mgrCarries = true) :
    exec .managerPortRestored s = .next (s.host.mig.foldl (fun (t : State) p => t.resendLog p.1 p.2) s) :=
  congrArg Host.Outcome.next (if_pos h)

/-- Settles O39: each migration command ends with the first check it fails, a start takes the lowest free index, and the head
and the port act on the log they name. -/
theorem migrationLogsStartStopAndAdvance : Obligations.MigrationLogsStartStopAndAdvance := by
  intro s q e data n i l v b sl act m size base start stop still sized index old
  refine ⟨fun hadmin hbusy hact => exec_migrationLogStart_of_no_action hadmin hbusy data hact,
    fun hadmin hbusy hact hstill htaken => ?_, fun hadmin hbusy hact hstill hnone hroom hprp => ?_,
    fun hadmin hbusy hact hstill => ⟨fun hnone => ?_, fun hlog => ?_⟩,
    fun hrun => ⟨fun hpast => ?_, fun hin => ?_⟩, fun hrun hold hin => ?_, exec_migHeadWrite_none (v := v),
    exec_managerPortRestored_down, fun hup hone => ?_⟩
  · exact (exec_migrationLogStart_of_still hadmin hbusy hstill data hact).trans (congrArg Host.Outcome.next (if_pos htaken))
  · have hfree : ¬((findLog b.host.mig sl).isSome = true ∨ 16 ≤ b.host.mig.length) := by
      simp [hnone, hroom]
    have hstart := (exec_migrationLogStart_of_still hadmin hbusy hstill data hact).trans
      (congrArg Host.Outcome.next ((if_neg hfree).trans (if_neg (by simp [hprp]))))
    refine ⟨fun hbad => hstart.trans (congrArg Host.Outcome.next (if_pos ?_)), fun hbase hsized hn hidx hlow =>
      hstart.trans (congrArg Host.Outcome.next ((if_neg ?_).trans ?_))⟩
    · exact hbad.imp_right fun hsize => by simpa using mt (any_logSize_iff size).1 hsize
    · exact not_or.2 ⟨not_not_intro hbase, by simpa using hsized⟩
    · rw [find?_free_eq_some hn hidx hlow]
      rfl
  · exact exec_migrationLogStop_of_still hadmin hbusy hstill hact hnone
  · have hend : (s.begin q e.cid).endLog (sliceArg e) = _ := endLog_of_findLog hlog
    exact hend ▸ exec_migrationLogStop_of_still hadmin hbusy hstill hact hlog
  · exact (exec_migHeadWrite_running hrun v).trans (congrArg Host.Outcome.next (if_pos hpast))
  · exact (exec_migHeadWrite_running hrun v).trans (congrArg Host.Outcome.next (if_neg (Nat.not_le.2 hin)))
  · exact (exec_migHeadWrite_ended hrun hold v).trans (congrArg Host.Outcome.next (if_neg (Nat.not_le.2 hin)))
  · have hresend := exec_managerPortRestored_up hup
    rw [hone] at hresend
    exact hresend

end Sys2Proof.Machine
end

section
/-! The state that reset leaves: sound, with every register at the value of its table. -/

namespace Sys2Proof.Machine

/-- The reset state is sound: its memories are empty, no fuse is blown, and its one port is the manager's. -/
theorem reset_sound : State.reset.sound :=
  have hdram : State.reset.dram.sound := ⟨List.forall_mem_nil _, rfl⟩
  have hpwr : State.reset.dev.pwr.sound := ⟨by decide, by decide⟩
  have hdev : State.reset.dev.sound := ⟨by decide, by decide, by decide, by decide, by decide, hpwr⟩
  ⟨hdram, Nat.zero_le 64, hdev⟩

/-- Settles O56: the reset state is sound, its tables are empty and each register is the default of its field. -/
theorem resetHoldsTheSpecsValues : Obligations.ResetHoldsTheSpecsValues := by
  refine ⟨reset_sound, rfl, rfl, rfl, rfl, rfl, rfl, rfl, rfl, rfl, rfl, rfl, rfl, rfl, rfl, rfl, rfl, rfl, rfl,
    fun i => Vector.getElem_replicate i.isLt, rfl, rfl, rfl, rfl, rfl, rfl, rfl, rfl, rfl, fun _ => rfl, fun _ => ⟨rfl, rfl, rfl⟩,
    fun _ => rfl, fun _ => ⟨rfl, rfl, rfl⟩, fun _ _ => rfl, rfl, rfl⟩

end Sys2Proof.Machine
end

section
/-! Quotes (R425, R438, R441), receipt fetches (R147) and key imports (R434, R435, R442, R443): each ends with the first of its
checks that fails. -/

namespace Sys2Proof.Machine

/-- An answer whose PRP check passes sends its data and ends with Success. -/
theorem answer_of_prp {e : Sqe} {d : Data} (h : adminPrpBad e d.len = false) (s : State) (q : Src) :
    s.answer q e d = ((s.sendTo q e.dptr d).moved q e.cid true d.len).complete q e.cid 0 0 0 0 :=
  if_neg (Bool.eq_false_iff.1 h)

/-! ## Quotes (R425, R438, R441) -/

/-- QT: 0 a device quote, 1 a slice quote, 2 the identity key and both certificates, 3 an encapsulation key. -/
def quoteType (e : Sqe) : Nat := e.cdw10.toNat % 256

/-- HPV, the version of the quote body. -/
def quoteVersion (e : Sqe) : Nat := e.cdw10.toNat / 256 % 256

/-- SLICE of a slice quote and of an encapsulation key. -/
def quoteSlice (e : Sqe) : Nat := e.cdw10.toNat / 65536 % 1024

/-- The bytes that a quote of this type returns. -/
def quoteLen (e : Sqe) : Nat := if quoteType e ≤ 1 then 17064 else if quoteType e = 2 then 30032 else 1568

/-- The nonce of the command. -/
def quoteNonce (e : Sqe) : List Byte :=
  leBytes 4 e.cdw12.toNat ++ leBytes 4 e.cdw13.toNat ++ leBytes 4 e.cdw14.toNat ++ leBytes 4 e.cdw15.toNat

/-- A field that no quote has, an absent slice, or a buffer that is too short. -/
def State.quoteBad (s : State) (e : Sqe) : Prop :=
  3 < quoteType e ∨ quoteVersion e < 1 ∨ 2 < quoteVersion e
    ∨ ((quoteType e = 1 ∨ quoteType e = 3) ∧ (s.slice (quoteSlice e)).st = .absent) ∨ e.cdw11.toNat * 4 < quoteLen e

/-- The identity key with its certificate, and the seal certificate (R426). -/
def State.identityPage (s : State) : Data :=
  .ofBytes (Config.publicKey identityKey ++ List.replicate 60 0 ++ identityCertificate ++ s.sealCertificate)

/-- A signed quote takes its body and its identity index, and waits for the signer. -/
def State.queueQuote (s : State) (q : Src) (e : Sqe) : State :=
  { s with hm := { s.hm with
    idNext := s.hm.idNext + 1, idRes := if s.hm.idNext < s.hm.idRes then s.hm.idRes else s.hm.idNext + 64
    nvWrites := s.hm.nvWrites + (if s.hm.idNext < s.hm.idRes then 0 else 1)
    waitQuote := some (.quote q e (s.quoteBody (quoteVersion e) (if quoteType e = 1 then some (quoteSlice e) else none)
      s.hm.idNext (quoteNonce e))) } }

/-- What taking an index gives (R143). -/
theorem takeIndex_eq (next res : Nat) :
    takeIndex next res = (next + 1, if next < res then res else next + 64, !decide (next < res)) := by
  by_cases h : next < res
  · simp [takeIndex, h]
  · simp [takeIndex, h]

section
variable {s : State} {q : Src} {e : Sqe} (hadmin : s.AdminOk q e 0xCA onManager)
include hadmin

theorem exec_hallmarkQuote_of_bad (hbad : (s.begin q e.cid).quoteBad e) :
    exec (.hallmarkQuote q e) s = .next ((s.begin q e.cid).fail q e.cid 0 scInvalidField) := by
  refine congrArg Host.Outcome.next ((admin_eq _ _ _ _ _ _ hadmin).trans (if_pos ?_))
  simp only [ne_eq, Classical.not_not]
  exact hbad

variable (hgood : ¬(s.begin q e.cid).quoteBad e)
include hgood

/-- A well-formed quote: the signed types need the signer, the others are answered. -/
theorem exec_hallmarkQuote_of_good : exec (.hallmarkQuote q e) s = .next (
    let b := s.begin q e.cid
    if quoteType e ≤ 1 ∧ b.hm.unlocked then b.fail q e.cid 0 scDenied
    else if quoteType e ≤ 1 ∧ b.hm.quoting then b.fail q e.cid 0 scSequence
    else if quoteType e = 2 then b.answer q e b.identityPage
    else if quoteType e = 3 then b.answer q e (.ofBytes (b.encapsKey (quoteSlice e)))
    else if adminPrpBad e (quoteLen e) then b.fail q e.cid 0 scPrpOffset
    else (b.queueQuote q e).signerNext) := by
  refine congrArg Host.Outcome.next ((admin_eq _ _ _ _ _ _ hadmin).trans ((if_neg ?_).trans ?_))
  · simp only [ne_eq, Classical.not_not]
    exact hgood
  · simp only [takeIndex_eq, Bool.not_eq_true', decide_eq_false_iff_not, ite_not]
    rfl

/-- R450: no quote is signed in the unlocked state. -/
theorem exec_hallmarkQuote_of_unlocked (htype : quoteType e ≤ 1) (hlock : (s.begin q e.cid).hm.unlocked = true) :
    exec (.hallmarkQuote q e) s = .next ((s.begin q e.cid).fail q e.cid 0 scDenied) :=
  (exec_hallmarkQuote_of_good hadmin hgood).trans (congrArg Host.Outcome.next (if_pos ⟨htype, hlock⟩))

/-- One quote at a time is signed or waits. -/
theorem exec_hallmarkQuote_of_quoting (htype : quoteType e ≤ 1) (hlock : (s.begin q e.cid).hm.unlocked = false)
    (hquoting : (s.begin q e.cid).hm.quoting = true) :
    exec (.hallmarkQuote q e) s = .next ((s.begin q e.cid).fail q e.cid 0 scSequence) :=
  (exec_hallmarkQuote_of_good hadmin hgood).trans
    (congrArg Host.Outcome.next ((if_neg (by simp [hlock])).trans (if_pos ⟨htype, hquoting⟩)))

/-- R441: a signed quote is taken, and its signer begins when it is free. -/
theorem exec_hallmarkQuote_signed (htype : quoteType e ≤ 1) (hlock : (s.begin q e.cid).hm.unlocked = false)
    (hquoting : (s.begin q e.cid).hm.quoting = false) (hprp : adminPrpBad e (quoteLen e) = false) :
    exec (.hallmarkQuote q e) s = .next (((s.begin q e.cid).queueQuote q e).signerNext) := by
  have h2 : quoteType e ≠ 2 := by omega
  have h3 : quoteType e ≠ 3 := by omega
  rw [exec_hallmarkQuote_of_good hadmin hgood]
  simp only [hlock, hquoting, h2, h3, hprp, Bool.false_eq_true, and_false, if_false]

/-- R426: the identity key and the certificates need no signer. -/
theorem exec_hallmarkQuote_identity (htype : quoteType e = 2) :
    exec (.hallmarkQuote q e) s = .next ((s.begin q e.cid).answer q e (s.begin q e.cid).identityPage) := by
  rw [exec_hallmarkQuote_of_good hadmin hgood]
  simp [htype]

/-- R442: nor does an encapsulation key. -/
theorem exec_hallmarkQuote_encapsKey (htype : quoteType e = 3) : exec (.hallmarkQuote q e) s =
    .next ((s.begin q e.cid).answer q e (.ofBytes ((s.begin q e.cid).encapsKey (quoteSlice e)))) := by
  rw [exec_hallmarkQuote_of_good hadmin hgood]
  simp [htype]

end

/-! ## Receipt fetches (R147) -/

/-- The minute that a fetch asks for. -/
def fetchMinute (e : Sqe) : Nat := e.cdw10.toNat + 2 ^ 32 * e.cdw11.toNat

/-- The bytes of its answer: the seal alone, or with the leaves. -/
def fetchLen (e : Sqe) : Nat := if e.cdw12.getLsbD 0 then 147456 else 16384

/-- The seal of a minute, and its leaves when the command asks for them. -/
def receiptPages (e : Sqe) (x : Seal) : Data :=
  { len := fetchLen e
    parts := (0, sealRecord x) ::
      (if e.cdw12.getLsbD 0 then x.min.leaves.mapIdx fun i l => (16384 + 128 * i, l) else []) }

section
variable {s : State} {q : Src} {e : Sqe} (hadmin : s.AdminOk q e 0xCE onManager)
include hadmin

theorem exec_meterReceiptFetch_of_short (hshort : e.cdw13.toNat * 4 < fetchLen e) :
    exec (.meterReceiptFetch q e) s = .next ((s.begin q e.cid).fail q e.cid 0 scInvalidField) :=
  congrArg Host.Outcome.next ((admin_eq _ _ _ _ _ _ hadmin).trans (if_pos hshort))

variable (hroom : fetchLen e ≤ e.cdw13.toNat * 4)
include hroom

/-- A minute that is closed and not yet sealed has no receipts to fetch. -/
theorem exec_meterReceiptFetch_of_closed (hclosed : ∃ m ∈ (s.begin q e.cid).meter.closed, m.minute = fetchMinute e) :
    exec (.meterReceiptFetch q e) s = .next ((s.begin q e.cid).fail q e.cid 0 scSequence) := by
  refine congrArg Host.Outcome.next ((admin_eq _ _ _ _ _ _ hadmin).trans ((if_neg (Nat.not_lt.2 hroom)).trans (if_pos ?_)))
  exact List.any_eq_true.2 (hclosed.imp fun m hm => ⟨hm.1, decide_eq_true hm.2⟩)

/-- Otherwise the store of seals is looked up. -/
theorem exec_meterReceiptFetch_of_not_closed (hclosed : ∀ m ∈ (s.begin q e.cid).meter.closed, m.minute ≠ fetchMinute e)
    {o : Option Seal} : ((s.begin q e.cid).meter.store.find? fun y => y.min.minute = fetchMinute e) = o →
    exec (.meterReceiptFetch q e) s = .next (o.elim ((s.begin q e.cid).fail q e.cid 0 scInvalidField)
      fun x => (s.begin q e.cid).answer q e (receiptPages e x)) := by
  rintro rfl
  refine congrArg Host.Outcome.next ((admin_eq _ _ _ _ _ _ hadmin).trans ((if_neg (Nat.not_lt.2 hroom)).trans
    ((if_neg ?_).trans ?_)))
  · exact fun h => let ⟨m, hm, heq⟩ := List.any_eq_true.1 h; hclosed m hm (of_decide_eq_true heq)
  · unfold fetchMinute
    split
    next hfind => rw [hfind]; rfl
    next x hfind => rw [hfind]; rfl

end

/-! ## Key imports (R434, R435, R442, R443) -/

/-- SLICE, the owner of the slot. -/
def keyOwner (e : Sqe) : Nat := e.cdw10.toNat % 65536

/-- SLOT. -/
def keySlot (e : Sqe) : Nat := e.cdw11.toNat % 65536

/-- ACTION. -/
def keyAction (e : Sqe) : Nat := e.cdw11.toNat / 65536 % 4

/-- The owner is neither the manager nor a slice that exists. -/
def State.ownerAbsent (s : State) (o : Nat) : Prop := o ≠ 0xFFFF ∧ (1023 < o ∨ (s.slice o).st = .absent)

/-- The owner is a slice on the move. -/
def State.ownerMoving (s : State) (o : Nat) : Prop :=
  o ≠ 0xFFFF ∧ ((s.slice o).st = .resetting ∨ (s.slice o).st = .rebinding ∨ (s.slice o).st = .deleting)

theorem keyCheck_of_bad {s : State} {o slot act : Nat} (h : 1 < act ∨ s.ownerAbsent o ∨ 4095 < slot) :
    s.keyCheck o slot act = some ((0, 2), 1) := if_pos h

theorem keyCheck_of_moving {s : State} {o slot act : Nat} (hact : act ≤ 1) (howner : ¬s.ownerAbsent o) (hslot : slot ≤ 4095)
    (h : s.ownerMoving o) : s.keyCheck o slot act = some ((7, 0x83), 0) :=
  (if_neg (not_or.2 ⟨Nat.not_lt.2 hact, not_or.2 ⟨howner, Nat.not_lt.2 hslot⟩⟩)).trans (if_pos h)

theorem keyCheck_of_still {s : State} {o slot act : Nat} (hact : act ≤ 1) (howner : ¬s.ownerAbsent o) (hslot : slot ≤ 4095)
    (h : ¬s.ownerMoving o) : s.keyCheck o slot act = none :=
  (if_neg (not_or.2 ⟨Nat.not_lt.2 hact, not_or.2 ⟨howner, Nat.not_lt.2 hslot⟩⟩)).trans (if_neg h)

/-- The slot belongs to another owner. -/
theorem slotOther_iff {s : State} {o slot : Nat} :
    s.slotOther o slot = true ↔ ∃ k, Tbl.get? s.hm.slots slot = some k ∧ k.owner ≠ ownerOf o := by
  cases h : Tbl.get? s.hm.slots slot <;> simp [State.slotOther, h]

section
variable {s : State} {q : Src} {e : Sqe} (hadmin : s.AdminOk q e 0xC9 onManager) (hbusy : s.keysBusy (keyOwner e) = false)
include hadmin hbusy

/-- An import goes by the shared checks of its slot. -/
theorem exec_keyImport_of_check (data : List Byte) (hact : keyAction e ≠ 1) {r : Option (Status × Nat)} :
    (s.begin q e.cid).keyCheck (keyOwner e) (keySlot e) (keyAction e) = r → exec (.keyImport q e data) s = .next (
      let b := s.begin q e.cid
      let refused (sc code : Nat) : State := b.complete q e.cid 0 sc (BitVec.ofNat 32 code) 0
      r.elim
        (if adminPrpBad e 4096 then b.fail q e.cid 0 scPrpOffset
        else if badImport (keyOwner e) (keySlot e) data (b.openKey (keyOwner e) data).1 then refused 2 2
        else if b.slotOther (keyOwner e) (keySlot e) then refused 2 3
        else if b.slotLimit (keyOwner e) (keySlot e) then refused 2 4
        else if leNat ((data.drop 8).take 4) ≠ (b.importPair (keyOwner e)).count then refused scSequence 0
        else if !(b.openKey (keyOwner e) data).2 then refused 2 5
        else (b.moved q e.cid false 4096).startCommit
          { src := some (q, e.cid)
            act := .keyImport (keyOwner e) (keySlot e) (data.getD 1 0).toNat (leNat (b.openKey (keyOwner e) data).1)
              ((data.drop 32).take 1568) })
        fun x => b.complete q e.cid x.1.1 x.1.2 (BitVec.ofNat 32 x.2) 0) := by
  rintro rfl
  refine congrArg Host.Outcome.next ((if_neg ?_).trans ((admin_eq _ _ _ _ _ _ hadmin).trans ?_))
  · exact not_or.2 ⟨hact, Bool.eq_false_iff.1 hbusy⟩
  · unfold keyOwner keySlot keyAction
    split
    next hcheck => rw [hcheck]; rfl
    next hcheck => rw [hcheck]; rfl

/-- The page of an import whose slot passes: what it carries is checked against the slot, its limit, the count and the tag. -/
theorem exec_keyImport_of_page (data : List Byte) (hact : keyAction e = 0) (howner : ¬(s.begin q e.cid).ownerAbsent (keyOwner e))
    (hslot : keySlot e ≤ 4095) (hstill : ¬(s.begin q e.cid).ownerMoving (keyOwner e)) (hprp : adminPrpBad e 4096 = false) :
    exec (.keyImport q e data) s = .next (
      let b := s.begin q e.cid
      let refused (sc code : Nat) : State := b.complete q e.cid 0 sc (BitVec.ofNat 32 code) 0
      if badImport (keyOwner e) (keySlot e) data (b.openKey (keyOwner e) data).1 then refused 2 2
      else if b.slotOther (keyOwner e) (keySlot e) then refused 2 3
      else if b.slotLimit (keyOwner e) (keySlot e) then refused 2 4
      else if leNat ((data.drop 8).take 4) ≠ (b.importPair (keyOwner e)).count then refused scSequence 0
      else if !(b.openKey (keyOwner e) data).2 then refused 2 5
      else (b.moved q e.cid false 4096).startCommit
        { src := some (q, e.cid)
          act := .keyImport (keyOwner e) (keySlot e) (data.getD 1 0).toNat (leNat (b.openKey (keyOwner e) data).1)
            ((data.drop 32).take 1568) }) :=
  (exec_keyImport_of_check hadmin hbusy data (by omega) (keyCheck_of_still (by omega) howner hslot hstill)).trans
    (congrArg Host.Outcome.next (if_neg (Bool.eq_false_iff.1 hprp)))

/-- An emptying goes by the same checks. -/
theorem exec_keyEmpty_of_check (hact : keyAction e = 1) {r : Option (Status × Nat)} :
    (s.begin q e.cid).keyCheck (keyOwner e) (keySlot e) (keyAction e) = r → exec (.keyEmpty q e) s = .next (
      let b := s.begin q e.cid
      r.elim
        (if b.slotOther (keyOwner e) (keySlot e) || (Tbl.get? b.hm.slots (keySlot e)).isNone then
          b.complete q e.cid 0 2 (BitVec.ofNat 32 3) 0
        else b.startCommit { src := some (q, e.cid), act := .keyEmpty (keyOwner e) (keySlot e) })
        fun x => b.complete q e.cid x.1.1 x.1.2 (BitVec.ofNat 32 x.2) 0) := by
  rintro rfl
  refine congrArg Host.Outcome.next ((if_neg ?_).trans ((admin_eq _ _ _ _ _ _ hadmin).trans ?_))
  · exact not_or.2 ⟨not_not_intro hact, Bool.eq_false_iff.1 hbusy⟩
  · unfold keyOwner keySlot keyAction
    split
    next hcheck => rw [hcheck]; rfl
    next hcheck => rw [hcheck]; rfl

section
variable (hact : keyAction e = 1) (hcheck : (s.begin q e.cid).keyCheck (keyOwner e) (keySlot e) (keyAction e) = none)
include hact hcheck

/-- Only a key that the owner holds can be emptied. -/
theorem exec_keyEmpty_of_not_mine
    (h : (∃ k, Tbl.get? (s.begin q e.cid).hm.slots (keySlot e) = some k ∧ k.owner ≠ ownerOf (keyOwner e))
      ∨ Tbl.get? (s.begin q e.cid).hm.slots (keySlot e) = none) :
    exec (.keyEmpty q e) s = .next ((s.begin q e.cid).complete q e.cid 0 2 (BitVec.ofNat 32 3) 0) :=
  (exec_keyEmpty_of_check hadmin hbusy hact hcheck).trans (congrArg Host.Outcome.next
    (if_pos (Bool.or_eq_true_iff.2 (h.imp slotOther_iff.2 Option.isNone_iff_eq_none.2))))

/-- An emptying that passes waits for its commit. -/
theorem exec_keyEmpty_of_mine
    (hours : ¬∃ k, Tbl.get? (s.begin q e.cid).hm.slots (keySlot e) = some k ∧ k.owner ≠ ownerOf (keyOwner e))
    (hheld : (Tbl.get? (s.begin q e.cid).hm.slots (keySlot e)).isSome = true) :
    exec (.keyEmpty q e) s = .next ((s.begin q e.cid).startCommit
      { src := some (q, e.cid), act := .keyEmpty (keyOwner e) (keySlot e) }) :=
  (exec_keyEmpty_of_check hadmin hbusy hact hcheck).trans (congrArg Host.Outcome.next
    (if_neg (mt Bool.or_eq_true_iff.1 (not_or.2 ⟨mt slotOther_iff.1 hours, by simpa using Option.isSome_iff_ne_none.1 hheld⟩))))

end

end

/-- R434, R443: what an import leaves in the key tables; a slice's measurement register is extended beside them. -/
theorem applyImport_hm {α : Type} (f : Hallmark → α) (hf : ∀ h x, f { h with smrs := x } = f h) (s : State)
    (o slot cls key : Nat) (ct : List Byte) : f (s.applyImport o slot cls key ct).hm = f { s.hm with
      gens := Tbl.set s.hm.gens slot (Tbl.getD s.hm.gens slot 0 + 1)
      slots := Tbl.set s.hm.slots slot { cls := cls, owner := ownerOf o, key := key }
      imports := Tbl.set s.hm.imports o { s.importPair o with count := (s.importPair o).count + 1 } } := by
  by_cases ho : o = 0xFFFF
  · exact congrArg (fun t : State => f t.hm) (if_pos ho)
  · rw [State.applyImport, if_neg ho, State.eventSmr, hf, State.meterUp_hm]
    rfl

/-- Settles O38: each command turns on its checks in their order, and an import puts its key in the tables of its slot. -/
theorem quotesReceiptsAndKeyImportsAnswer : Obligations.QuotesReceiptsAndKeyImportsAnswer := by
  intro s q e data pt x b qt hpv sl len nonce quote shapeBad given minute fetch need o slot act imp emp stranger moving theirs
  refine ⟨fun hadmin => ⟨exec_hallmarkQuote_of_bad hadmin, exec_hallmarkQuote_of_unlocked hadmin,
      exec_hallmarkQuote_of_quoting hadmin, exec_hallmarkQuote_signed hadmin, fun hgood htype hprp => ?_,
      fun hgood htype hprp => ?_⟩,
    fun hadmin => ⟨exec_meterReceiptFetch_of_short hadmin, fun hroom => ⟨exec_meterReceiptFetch_of_closed hadmin hroom,
      fun hclosed => ⟨fun hnone => ?_, fun hfind hprp => ?_⟩⟩⟩,
    fun hadmin hact hbusy => ⟨fun hbad => ?_, fun hzero howner hslot hmoving => ?_, fun hzero howner hslot hstill hprp => ?_⟩,
    fun hadmin hact hbusy => ?_, fun cls key ct => ⟨?_, ?_, ?_⟩⟩
  · exact (exec_hallmarkQuote_identity hadmin hgood htype).trans (congrArg Host.Outcome.next (answer_of_prp hprp b q))
  · exact (exec_hallmarkQuote_encapsKey hadmin hgood htype).trans (congrArg Host.Outcome.next (answer_of_prp hprp b q))
  · exact exec_meterReceiptFetch_of_not_closed hadmin hroom hclosed
      (List.find?_eq_none.2 fun y hy => mt of_decide_eq_true (hnone y hy))
  · exact (exec_meterReceiptFetch_of_not_closed hadmin hroom hclosed hfind).trans
      (congrArg Host.Outcome.next (answer_of_prp (d := receiptPages e x) hprp b q))
  · exact exec_keyImport_of_check hadmin hbusy data hact (keyCheck_of_bad hbad)
  · exact exec_keyImport_of_check hadmin hbusy data hact
      (keyCheck_of_moving (Nat.le_trans (Nat.le_of_eq hzero) (Nat.zero_le 1)) howner hslot hmoving)
  · have hpage := exec_keyImport_of_page hadmin hbusy data hzero howner hslot hstill hprp
    have hvalid (hdata : badImport o slot data (b.openKey o data).1 = false) :=
      hpage.trans (congrArg Host.Outcome.next (if_neg (Bool.eq_false_iff.1 hdata)))
    have hmine (hdata) (hours : ¬theirs) :=
      (hvalid hdata).trans (congrArg Host.Outcome.next (if_neg (mt slotOther_iff.1 hours)))
    have hroom (hdata) (hours) (hlimit : b.slotLimit o slot = false) :=
      (hmine hdata hours).trans (congrArg Host.Outcome.next (if_neg (Bool.eq_false_iff.1 hlimit)))
    have hcounted (hdata) (hours) (hlimit) (hcount : leNat ((data.drop 8).take 4) = (b.importPair o).count) :=
      (hroom hdata hours hlimit).trans (congrArg Host.Outcome.next (if_neg (not_not_intro hcount)))
    refine ⟨fun hbad => hpage.trans (congrArg Host.Outcome.next (if_pos hbad)),
      fun hdata htheirs => (hvalid hdata).trans (congrArg Host.Outcome.next (if_pos (slotOther_iff.2 htheirs))),
      fun hdata hours hlimit => (hmine hdata hours).trans (congrArg Host.Outcome.next (if_pos hlimit)),
      fun hdata hours hlimit => ⟨fun hcount => (hroom hdata hours hlimit).trans (congrArg Host.Outcome.next (if_pos hcount)),
        fun hcount => ⟨fun htag => ?_, fun hopen => ?_⟩⟩⟩
    · refine (hcounted hdata hours hlimit hcount).trans (congrArg Host.Outcome.next (if_pos ?_))
      exact congrArg (!·) htag
    · have hkey : b.openKey (keyOwner e) data = (pt, true) := hopen
      have hcommit := hcounted hdata hours hlimit hcount
      rw [hkey] at hcommit
      exact hcommit
  · have haction : keyAction e ≤ 1 := Nat.le_of_eq hact
    exact ⟨fun hbad => exec_keyEmpty_of_check hadmin hbusy hact (keyCheck_of_bad (.inr hbad)),
      fun howner hslot hmoving => exec_keyEmpty_of_check hadmin hbusy hact (keyCheck_of_moving haction howner hslot hmoving),
      fun howner hslot hstill => exec_keyEmpty_of_not_mine hadmin hbusy hact (keyCheck_of_still haction howner hslot hstill),
      fun howner hslot hstill => exec_keyEmpty_of_mine hadmin hbusy hact (keyCheck_of_still haction howner hslot hstill)⟩
  · exact applyImport_hm (·.gens) (fun _ _ => rfl) s o slot cls key ct
  · exact applyImport_hm (·.slots) (fun _ _ => rfl) s o slot cls key ct
  · exact (applyImport_hm (Tbl.getD ·.imports o {}) (fun _ _ => rfl) s o slot cls key ct).trans (Tbl.getD_set_self ..)

end Sys2Proof.Machine
end

section
/-! Byte memories (R254, R345, R393): what a read finds after a write. -/

namespace Sys2Proof.Machine

/-- Settles O57: a write keeps the canonical form, a read finds the byte of the last write at its address, and a canonical
memory is determined by what it reads. -/
theorem memoryReadsBackWhatWasWritten : Obligations.MemoryReadsBackWhatWasWritten := by
  intro m n a x bs hm
  refine ⟨Mem.wf_write a bs hm, fun hlo hhi => ?_, fun hout => ?_, fun hn => Mem.ext' hm hn⟩
  · exact (Mem.get_write a x bs hm).trans (if_pos ⟨hlo, hhi⟩)
  · exact (Mem.get_write a x bs hm).trans (if_neg (by omega))

end Sys2Proof.Machine
end

section
/-! The end of a run by an exception that its billet does not handle (R249, R331): what it leaves of its core, of the others
and of the run. -/

namespace Sys2Proof.Machine

/-- Writing back entries of the operand cache of a core is an access of that core. -/
theorem foldl_writeBack_only (c : Nat) (l : List Nat) (s : State) : AccessOnly c s (l.foldl (fun s i => s.writeBack c i) s) :=
  AccessOnly.foldl (fun _ i => writeBack_only i) l s

/-- Emptying the operand cache of a core leaves every other core. -/
theorem flushCache_core_ne (s : State) {c x : Nat} (hx : x ≠ c) : (s.flushCache c).core x = s.core x := by
  have hwritten := (foldl_writeBack_only c (List.range 48) s).other x hx
  simp only [State.flushCache, State.modOc, State.modCore, core_setCore, if_neg hx, hwritten]

section
variable (s : State) (c i : Nat) (r : Run) (e : RunEnd)

/-- A run that ends leaves its core to the runtime, with no run, in supervisor mode and EXL 0. -/
theorem endRun_core : ((s.endRun c i r e).core c).run = none ∧ ((s.endRun c i r e).core c).sup = true
    ∧ ((s.endRun c i r e).core c).ctl.exl = false := by
  unfold State.endRun
  generalize s.flushCache c = t
  have hcore := core_mod t c fun k => { k with
    run := none, sup := true, ctl := { k.ctl with exl := false }, pendWd := false, pendSpan := false, pendEng := false }
  exact ⟨congrArg Core.run hcore, congrArg Core.sup hcore, congrArg (·.ctl.exl) hcore⟩

theorem endRun_core_ne {x : Nat} (hx : x ≠ c) : (s.endRun c i r e).core x = s.core x := by
  rw [← flushCache_core_ne s hx]
  unfold State.endRun
  generalize s.flushCache c = t
  exact (core_setCore ..).trans (if_neg hx)

theorem endRun_runAt : (s.endRun c i r e).runAt i =
    some { r with core := none, ended := some e, eng := Tbl.mapV r.eng fun _ => abortCtx } := by
  unfold State.endRun
  generalize s.flushCache c = t
  exact Tbl.get?_set_self ..

end

/-- Taking an exception leaves every other core. -/
theorem enterExc_core_ne (s : State) {c x : Nat} (e : Exc) (hx : x ≠ c) : (s.enterExc c e).core x = s.core x :=
  (core_setCore ..).trans (if_neg hx)

/-- R249: the runtime delivers no exception to a handler that runs, nor one that its billet does not handle. -/
theorem runtimeTakes_of_unhandled {s : State} {r : Run} {e : Exc} (h : r.handler = true ∨ (s.billetOf r).handler e.num = none)
    (c i : Nat) (k : Core) (len : Nat) (word : W64) :
    s.runtimeTakes c i r k e len word = s.billetFault c i r k e.num k.ctx.pc e.addr word := by
  unfold State.runtimeTakes
  rcases h with hactive | hnone
  · exact if_pos hactive
  · simp only [hnone, ite_self]

/-- R331: an exception of a run in user mode is entered, and the runtime takes it. -/
theorem takeSync_of_run {s : State} {c i : Nat} {e : Exc} {r : Run} (hstands : e.stands = none)
    (hexl : (s.core c).ctl.exl = false) (hsup : (s.core c).sup = false) (hrun : (s.core c).run = some i)
    (hr : s.runAt i = some r) (len : Nat) (word : W64) :
    s.takeSync c e len word = (s.enterExc c e).runtimeTakes c i r (s.core c) e len word := by
  have ht : (s.enterExc c e).runAt i = some r := hr
  simp only [State.takeSync, hstands, Option.getD_none, hexl, hsup, hrun, ht, Bool.false_eq_true, if_false]

/-- The causes whose record carries an address (R249). -/
theorem addrCause_iff (n : Nat) : addrCause n = true ↔ n = 3 ∨ n = 5 ∨ n = 6 ∨ n = 9 := by
  simp [addrCause, or_assoc]

/-- Settles O17: such an exception is a Billet Fault of its run, and what a fault leaves is what the end of a run leaves. -/
theorem unhandledExceptionsEndTheRun : Obligations.UnhandledExceptionsEndTheRun := by
  intro s c i len word e r hstands hexl hsup hrun hr hun k t
  have hfault : t = (s.enterExc c e).billetFault c i r k e.num k.ctx.pc e.addr word :=
    (takeSync_of_run hstands hexl hsup hrun hr len word).trans
      (runtimeTakes_of_unhandled (s := s.enterExc c e) hun c i k len word)
  rw [State.billetFault] at hfault
  clear_value t
  subst hfault
  obtain ⟨hrun', hsup', hexl'⟩ := endRun_core (s.enterExc c e) c i r
    (faultEnd r k e.num k.ctx.pc (if addrCause e.num then e.addr else 0) word)
  refine ⟨hrun', hsup', hexl', ?_, fun x hx => ?_⟩
  · rw [endRun_runAt]
    simp only [faultEnd, addrCause_iff]
  · rw [endRun_core_ne _ _ _ _ _ hx, enterExc_core_ne s e hx]

end Sys2Proof.Machine
end

section
/-! Local Write and Local Read (R254, R255, R258): the first check that fails ends the command, and one that passes moves its
range. -/

namespace Sys2Proof.Machine

/-- The range that a Local Write or Local Read names is off its boundary, of a length that none may have, or past the slice's
window (R254). -/
def State.badLocalRange (s : State) (sl : Nat) (e : Sqe) : Prop :=
  let off := e.cdw10.toNat + 2 ^ 32 * e.cdw11.toNat
  let n := e.cdw12.toNat
  off % 64 ≠ 0 ∨ n % 64 ≠ 0 ∨ n < 64 ∨ 2097152 < n ∨ 0x100000 * (s.slice sl).lmLimit < off + n

theorem localCheck_of_bad {s : State} {sl : Nat} {e : Sqe} (h : s.badLocalRange sl e) :
    s.localCheck sl e = some scInvalidField := if_pos h

/-- A range that is not bad leaves the data pointer to be checked. -/
theorem localCheck_of_good {s : State} {sl : Nat} {e : Sqe} (h : ¬s.badLocalRange sl e) :
    s.localCheck sl e = e.dptr.check e.cdw12.toNat := if_neg h

section
variable {s : State} {q : Src} {e : Sqe} {sl : Nat} (data : List Byte) (sealOk : Bool) (hio : s.IoOk q e 0x85 sl false)
include hio

theorem exec_localWrite_of_refused {c : Nat} (h : (s.begin q e.cid).localCheck sl e = some c) :
    exec (.localWrite q e data sealOk) s = .next ((s.begin q e.cid).fail q e.cid 0 c) := by
  refine congrArg Host.Outcome.next ((ioCmd_eq _ _ _ _ _ _ _ hio).trans ?_)
  simp only [h]

/-- A write that passes its checks reads its data, with free bytes for those that the operand does not carry, and turns on its
seal. -/
theorem exec_localWrite_of_checked (h : (s.begin q e.cid).localCheck sl e = none) :
    exec (.localWrite q e data sealOk) s = .next (
      let b := s.begin q e.cid
      let n := e.cdw12.toNat
      let u := (((b.drawnN (n - data.length)).moved q e.cid false n).sealCount q e.cid n).chargeFlash sl ((n + 4095) / 4096)
      if (u.sealOf q e.cid).isSome ∧ ¬sealOk then u.fail q e.cid 0 scDataTransfer
      else (u.localWrite sl (e.cdw10.toNat + 2 ^ 32 * e.cdw11.toNat)
        ((data ++ b.freeBytes (n - data.length)).take n)).succeed q e.cid) := by
  refine congrArg Host.Outcome.next ((ioCmd_eq _ _ _ _ _ _ _ hio).trans ?_)
  simp only [h]

end

section
variable {s : State} {q : Src} {e : Sqe} {sl : Nat} (hio : s.IoOk q e 0x86 sl false)
include hio

theorem exec_localRead_of_refused {c : Nat} (h : (s.begin q e.cid).localCheck sl e = some c) :
    exec (.localRead q e) s = .next ((s.begin q e.cid).fail q e.cid 0 c) := by
  refine congrArg Host.Outcome.next ((ioCmd_eq _ _ _ _ _ _ _ hio).trans ?_)
  simp only [h]

theorem exec_localRead_of_checked (h : (s.begin q e.cid).localCheck sl e = none) :
    exec (.localRead q e) s = .next (
      let b := s.begin q e.cid
      let n := e.cdw12.toNat
      let m := Mem.slice (b.localMem sl) (e.cdw10.toNat + 2 ^ 32 * e.cdw11.toNat) n
      ((b.chargeFlash sl ((n + 4095) / 4096)).sendIo q e { len := n, parts := Mem.parts m }).succeed q e.cid) := by
  refine congrArg Host.Outcome.next ((ioCmd_eq _ _ _ _ _ _ _ hio).trans ?_)
  simp only [h]

end

end Sys2Proof.Machine
end

section
/-! Sealed Transfer Setup (R99, R256, R434): its version, its data pointer, then the queue, the slot and the tags it names. -/

namespace Sys2Proof.Machine

/-- The reads that a command's data pointer needs are requests to the host, and nothing more. -/
theorem readsOf_only (c : Nat) (s : State) (q : Src) (cid : W16) (toHost : Bool) (n : Nat) :
    AccessOnly c s (s.readsOf q cid toHost n) := by
  unfold State.readsOf
  split
  · extract_lets port sl t
    have hlist : AccessOnly c s t := by
      dsimp only [t]
      split
      · exact request_only ..
      · exact .rfl
    split
    · exact hlist
    · exact hlist.trans (AccessOnly.foldl (fun _ _ => request_only ..) _ _)
  · exact .rfl

/-- A command that moves data leaves the key tables. -/
theorem moved_hm (s : State) (q : Src) (cid : W16) (toHost : Bool) (n : Nat) : (s.moved q cid toHost n).hm = s.hm := by
  have hreads : (s.readsOf q cid toHost n).bare.hm = s.bare.hm := congrArg State.hm (readsOf_only 0 s q cid toHost n).bare
  have hcmd (f : Fetched → Fetched) : ((s.readsOf q cid toHost n).modCmd q cid f).hm = s.hm := by
    rw [← show (s.readsOf q cid toHost n).hm = s.hm from hreads]
    cases q <;> rfl
  unfold State.moved
  cases q with
  | sideband => exact hcmd _
  | queue i m =>
    dsimp only
    split <;> split <;> simp [hcmd]

/-- The queue and the slot that a setup names are the slice's, the slot one of class 1h (R256, R434). -/
def State.sealable (s : State) (sl : Nat) (e : Sqe) : Prop :=
  1 ≤ e.cdw10.toNat % 128 ∧ e.cdw10.toNat % 128 ≤ 64
    ∧ (Tbl.get? (s.ctrl (sliceCtrl sl)).sqs (e.cdw10.toNat % 128)).isSome = true
    ∧ ∃ k, Tbl.get? s.hm.slots (e.cdw11.toNat % 65536) = some k ∧ k.owner = .slice sl ∧ k.cls = 1

/-- A setup is refused: by its queue, by its slot, or for tags that do not start at a page of host memory. -/
def State.setupBad (s : State) (sl : Nat) (e : Sqe) (data : List Byte) : Bool :=
  let n := e.cdw10.toNat % 128
  n = 0 || 64 < n || (Tbl.get? (s.ctrl (sliceCtrl sl)).sqs n).isNone
    || !(Tbl.get? s.hm.slots (e.cdw11.toNat % 65536)).any (fun k => k.owner = .slice sl && k.cls = 1)
    || (e.cdw10.getLsbD 16 && leNat (data.take 8) % 4096 ≠ 0)

theorem setupBad_iff {s : State} {sl : Nat} {e : Sqe} {data : List Byte} : s.setupBad sl e data = true ↔
    ¬s.sealable sl e ∨ (e.cdw10.getLsbD 16 = true ∧ leNat (data.take 8) % 4096 ≠ 0) := by
  have hqueue (n : Nat) (o : Option Sq) : (n = 0 || 64 < n || o.isNone) = true
      ↔ ¬(1 ≤ n ∧ n ≤ 64 ∧ o.isSome = true) := by
    cases o
    · simp
    · simp
      omega
  have hslot (o : Option KeySlot) : (o.any fun k => k.owner = .slice sl && k.cls = 1) = true
      ↔ ∃ k, o = some k ∧ k.owner = .slice sl ∧ k.cls = 1 := by
    simp only [Option.any_eq_true, Bool.and_eq_true, decide_eq_true_eq]
  rw [State.setupBad, Bool.or_eq_true, Bool.or_eq_true, hqueue, Bool.not_eq_true', ← Bool.not_eq_true, hslot,
    Bool.and_eq_true, decide_eq_true_eq, ← Classical.not_and_iff_not_or_not, and_assoc, and_assoc]
  rfl

section
variable {s : State} {q : Src} {e : Sqe} {sl : Nat} (data : List Byte) (hio : s.IoOk q e 0x89 sl false)
include hio

/-- R99: the command is of slice interface version 2. -/
theorem exec_sealedTransferSetup_of_version (hver : ((s.begin q e.cid).slice sl).verSel ≠ 2) :
    exec (.sealedTransferSetup q e data) s = .next ((s.begin q e.cid).fail q e.cid 0 scInvalidOpcode) :=
  congrArg Host.Outcome.next ((ioCmd_eq _ _ _ _ _ _ _ hio).trans (if_pos hver))

variable (hver : ((s.begin q e.cid).slice sl).verSel = 2)
include hver

theorem exec_sealedTransferSetup_of_check {c : Nat} (hptr : e.dptr.check 4096 = some c) :
    exec (.sealedTransferSetup q e data) s = .next ((s.begin q e.cid).fail q e.cid 0 c) := by
  refine congrArg Host.Outcome.next ((ioCmd_eq _ _ _ _ _ _ _ hio).trans ((if_neg (not_not_intro hver)).trans ?_))
  simp only [hptr]

variable (hptr : e.dptr.check 4096 = none)
include hptr

/-- A setup whose data pointer passes reads its page, and turns on what the page and the entry name. -/
theorem exec_sealedTransferSetup_of_page : exec (.sealedTransferSetup q e data) s = .next (
    let m := (s.begin q e.cid).moved q e.cid false 4096
    let x : Sealing := { slot := e.cdw11.toNat % 65536, tagBase := BitVec.ofNat 64 (leNat (data.take 8))
                         salt := BitVec.ofNat 32 (leNat ((data.drop 8).take 4)) }
    if m.setupBad sl e data then m.fail q e.cid 0 scInvalidField
    else ((m.modSq (sliceCtrl sl) (e.cdw10.toNat % 128) fun y => { y with
      sealing := if e.cdw10.getLsbD 16 then some x else none }).meterUp sl fun y => { y with
        keyOps := y.keyOps + 1 }).succeed q e.cid) := by
  refine congrArg Host.Outcome.next ((ioCmd_eq _ _ _ _ _ _ _ hio).trans ((if_neg (not_not_intro hver)).trans ?_))
  simp only [hptr, State.setupBad, moved_hm]
  cases Tbl.get? (s.begin q e.cid).hm.slots (e.cdw11.toNat % 65536) <;> rfl

end

end Sys2Proof.Machine
end

section
/-! Scans (R102, R259 to R265): the checks of the command, the Scan that the arbiter gives its program slots, and what it
completes with. -/

namespace Sys2Proof.Machine

/-! ## The command (R259, R265) -/

/-- The range of a Scan starts inside a unit, or ends past the namespace (R259). -/
def scanPast (e : Sqe) (p : NsSpec) : Prop :=
  e.slba * p.lba % 4096 ≠ 0 ∨ p.nsze * p.lba < e.slba * p.lba + e.cdw12.toNat * 4096

/-- The program that a Scan names. -/
def State.scanProg (s : State) (sl : Nat) (e : Sqe) : List Byte := s.progAt sl (e.cdw13.toNat * 4096)

/-- A Scan names no unit, an output length that none may have, or a program past the slice's window (R259). -/
def State.badScanLen (s : State) (sl : Nat) (e : Sqe) : Prop :=
  let out := e.cdw14.toNat
  let off := e.cdw13.toNat * 4096
  let win := 0x100000 * (s.slice sl).lmLimit
  e.cdw12.toNat = 0 ∨ out < 64 ∨ 2097152 < out ∨ out % 64 ≠ 0 ∨ win < off + 64 ∨ win < off + (s.scanProg sl e).length

/-- A Scan waits for its program slots. -/
def State.queueScan (s : State) (q : Src) (e : Sqe) (sl x : Nat) (p : NsSpec) : State :=
  { s with cpu := { s.cpu with
    scans := Tbl.set s.cpu.scans s.cpu.nextScan
      { slice := sl, ctrl := sliceCtrl sl, sq := srcSq q, cid := e.cid, nsid := x, unit0 := e.slba * p.lba / 4096
        nunit := e.cdw12.toNat, prog := s.scanProg sl e, outLen := e.cdw14.toNat }
    nextScan := s.cpu.nextScan + 1 } }

section
variable {s : State} {q : Src} {e : Sqe} {sl x : Nat} {ns : Ns}
  (hns : s.NsOk q e 0x82 sl x ns [(e.slba, e.cdw12.toNat * (4096 / ns.spec.lba))])
include hns

theorem exec_scan_of_packed (hpacked : ns.spec.packed = true) :
    exec (.scan q e) s = .next ((s.begin q e.cid).fail q e.cid 0 0x0B) := by
  refine congrArg Host.Outcome.next ((nsCmd_eq _ _ _ _ _ _ _ _ _ _ hns rfl).trans (if_pos ?_))
  rw [begin_nsx, hns.nsx, hpacked]

variable (hpacked : ns.spec.packed = false)
include hpacked

/-- A Scan of a namespace whose blocks are not packed is judged by its range first. -/
theorem exec_scan_of_plain : exec (.scan q e) s = .next (
      let b := s.begin q e.cid
      let out := e.cdw14.toNat
      let off := e.cdw13.toNat * 4096
      let win := 0x100000 * (b.slice sl).lmLimit
      let p := ns.spec
      if e.slba * p.lba % 4096 ≠ 0 ∨ p.nsze * p.lba < e.slba * p.lba + e.cdw12.toNat * 4096 then b.fail q e.cid 0 0x80
      else if e.cdw12.toNat = 0 ∨ out < 64 ∨ 2097152 < out ∨ out % 64 ≠ 0 ∨ win < off + 64
        ∨ win < off + (b.scanProg sl e).length then b.fail q e.cid 0 scInvalidField
      else (e.dptr.check out).elim
        ((progCheck (b.scanProg sl e)).elim (b.queueScan q e sl x p) fun r =>
          b.complete q e.cid 0 scInvalidField (BitVec.ofNat 32 (r.1 + 256 * r.2)) 0)
        fun c => b.fail q e.cid 0 c) := by
  refine congrArg Host.Outcome.next ((nsCmd_eq _ _ _ _ _ _ _ _ _ _ hns rfl).trans ?_)
  simp only [begin_nsx, hns.nsx, hpacked, Bool.false_eq_true, if_false]
  cases e.dptr.check e.cdw14.toNat with
  | some c => rfl
  | none =>
    unfold State.queueScan State.scanProg
    cases progCheck ((s.begin q e.cid).progAt sl (e.cdw13.toNat * 4096)) <;> rfl

theorem exec_scan_of_past (hpast : scanPast e ns.spec) :
    exec (.scan q e) s = .next ((s.begin q e.cid).fail q e.cid 0 0x80) :=
  (exec_scan_of_plain hns hpacked).trans (congrArg Host.Outcome.next (if_pos hpast))

variable (hin : ¬scanPast e ns.spec)
include hin

theorem exec_scan_of_badScanLen (hbad : (s.begin q e.cid).badScanLen sl e) :
    exec (.scan q e) s = .next ((s.begin q e.cid).fail q e.cid 0 scInvalidField) :=
  (exec_scan_of_plain hns hpacked).trans (congrArg Host.Outcome.next ((if_neg hin).trans (if_pos hbad)))

/-- A Scan of units and lengths that it may have turns on its data pointer, then on its program. -/
theorem exec_scan_of_range (hlen : ¬(s.begin q e.cid).badScanLen sl e) {o : Option Nat} {v : Option (Nat × Nat)}
    (hptr : e.dptr.check e.cdw14.toNat = o) (hprog : progCheck ((s.begin q e.cid).scanProg sl e) = v) :
    exec (.scan q e) s = .next (
      let b := s.begin q e.cid
      o.elim (v.elim (b.queueScan q e sl x ns.spec) fun r =>
        b.complete q e.cid 0 scInvalidField (BitVec.ofNat 32 (r.1 + 256 * r.2)) 0) fun c => b.fail q e.cid 0 c) := by
  subst hptr hprog
  exact (exec_scan_of_plain hns hpacked).trans (congrArg Host.Outcome.next ((if_neg hin).trans (if_neg hlen)))

end

/-! ## The arbiter's pick (R102) -/

/-- The better of the request that an arbiter holds and the next one. -/
def State.arbBetter {α : Type} (s : State) (last : Nat) (slice : α → Nat) (b : Option α) (x : α) : Option α :=
  match b with
  | none => some x
  | some y => if s.sliceBefore last (slice x) (slice y) then some x else some y

theorem arbPick_eq_foldl {α : Type} (s : State) (last : Nat) (slice : α → Nat) (l : List α) : s.arbPick last slice l =
    (l.filter fun x => (s.slice (slice x)).flash ≠ 0).foldl (s.arbBetter last slice) none := rfl

section
variable {α : Type} (s : State) (last : Nat) (slice : α → Nat)

/-- The flash balance of a request's slice. -/
def State.balOf (x : α) : Int := (s.slice (slice x)).balFlash

/-- The better of the two is one of them, and neither has a higher balance. -/
theorem arbBetter_eq_some (b : Option α) (x : α) : ∃ y, s.arbBetter last slice b x = some y ∧ (y = x ∨ b = some y)
    ∧ s.balOf slice x ≤ s.balOf slice y ∧ ∀ w, b = some w → s.balOf slice w ≤ s.balOf slice y := by
  cases b with
  | none => exact ⟨x, rfl, .inl rfl, Int.le_refl _, nofun⟩
  | some w =>
    have hbefore : s.sliceBefore last (slice x) (slice w) = true ↔ s.balOf slice w < s.balOf slice x
        ∨ (s.balOf slice x = s.balOf slice w ∧ above last (slice x) < above last (slice w)) := by
      simp [State.sliceBefore, State.balOf]
    by_cases h : s.sliceBefore last (slice x) (slice w) = true
    · refine ⟨x, if_pos h, .inl rfl, Int.le_refl _, ?_⟩
      rintro _ ⟨⟩
      rcases hbefore.1 h with hlt | ⟨heq, -⟩
      · exact Int.le_of_lt hlt
      · exact Int.le_of_eq heq.symm
    · refine ⟨w, if_neg h, .inr rfl, Int.not_lt.1 fun hlt => h (hbefore.2 (.inl hlt)), ?_⟩
      rintro _ ⟨⟩
      exact Int.le_refl _

theorem foldl_arbBetter_eq_some {l : List α} {b : Option α} {y : α} (h : l.foldl (s.arbBetter last slice) b = some y) :
    (y ∈ l ∨ b = some y) ∧ (∀ z ∈ l, s.balOf slice z ≤ s.balOf slice y)
      ∧ ∀ w, b = some w → s.balOf slice w ≤ s.balOf slice y := by
  induction l generalizing b with
  | nil => exact ⟨.inr h, nofun, fun w hw => Int.le_of_eq (congrArg (s.balOf slice) (Option.some.inj (hw.symm.trans h)))⟩
  | cons x l ih =>
    obtain ⟨hmem, hl, hheld⟩ := ih h
    obtain ⟨v, hv, hv_mem, hx, hb⟩ := arbBetter_eq_some s last slice b x
    have hvy := hheld v hv
    refine ⟨?_, List.forall_mem_cons.2 ⟨Int.le_trans hx hvy, hl⟩, fun w hw => Int.le_trans (hb w hw) hvy⟩
    rcases hmem with hmem | hmem
    · exact .inl (List.mem_cons_of_mem x hmem)
    · obtain rfl := Option.some.inj (hv.symm.trans hmem)
      rcases hv_mem with rfl | hb
      · exact .inl List.mem_cons_self
      · exact .inr hb

/-- R102: an arbiter serves one of the requests, of a slice with a share, and no such slice has a higher balance. -/
theorem arbPick_eq_some {l : List α} {y : α} (h : s.arbPick last slice l = some y) :
    y ∈ l ∧ (s.slice (slice y)).flash ≠ 0
      ∧ ∀ z ∈ l, (s.slice (slice z)).flash ≠ 0 → (s.slice (slice z)).balFlash ≤ (s.slice (slice y)).balFlash := by
  obtain ⟨hmem | hmem, hl, -⟩ := foldl_arbBetter_eq_some s last slice (h : List.foldl _ none _ = _)
  · obtain ⟨hy, hshare⟩ := List.mem_filter.1 hmem
    exact ⟨hy, of_decide_eq_true hshare, fun z hz hflash => hl z (List.mem_filter.2 ⟨hz, decide_eq_true hflash⟩)⟩
  · cases hmem

end

/-! ## The program slots (R260) -/

/-- A table has a record at the number of each of its records. -/
theorem get?_ne_none_of_mem {α : Type} {t : Tbl α} {n : Nat} {x : α} (h : (n, x) ∈ t) : Tbl.get? t n ≠ none := by
  induction t with
  | nil => cases h
  | cons p t ih =>
    obtain ⟨k, v⟩ := p
    rw [Tbl.get?]
    split
    · exact Option.some_ne_none v
    next hne =>
      refine ih ((List.mem_cons.1 h).resolve_left fun heq => hne ?_)
      exact (congrArg Prod.fst heq).symm

/-- The Scan that the arbiter gives its program slots. -/
def State.scanPick (s : State) : Option (Nat × Scan) :=
  s.arbPick s.cpu.lastSlot (·.2.slice) (s.cpu.scans.filter fun y => s.scanCan y.2)

theorem scanCan_iff {s : State} {r : Scan} : s.scanCan r = true ↔
    r.slot = false ∧ r.discarded = false ∧ ∀ c ∈ s.scanChans r, Tbl.getD s.cpu.progSlots c 0 < 8 := by
  simp [State.scanCan, and_assoc]

/-- The pick is a Scan that can take its slots, of a slice with the highest balance of those with a share. -/
theorem scanPick_eq_some {s : State} {y : Nat × Scan} (h : s.scanPick = some y) :
    y ∈ s.cpu.scans ∧ s.scanCan y.2 = true ∧ (s.slice y.2.slice).flash ≠ 0
      ∧ ∀ z ∈ s.cpu.scans, s.scanCan z.2 = true → (s.slice z.2.slice).flash ≠ 0 →
          (s.slice z.2.slice).balFlash ≤ (s.slice y.2.slice).balFlash := by
  obtain ⟨hmem, hshare, hbal⟩ := arbPick_eq_some s _ _ h
  obtain ⟨hy, hcan⟩ := List.mem_filter.1 hmem
  exact ⟨hy, hcan, hshare, fun z hz hzcan => hbal z (List.mem_filter.2 ⟨hz, hzcan⟩)⟩

section
variable {s : State} {n : Nat}

theorem exec_scanSlotAcquire_of_no_pick (h : s.scanPick = none) : exec (.scanSlotAcquire n) s = .next s := by
  have hpick : s.arbPick s.cpu.lastSlot (·.2.slice) (s.cpu.scans.filter fun y => s.scanCan y.2) = none := h
  rw [exec, execScanSlotAcquire, hpick]

theorem exec_scanSlotAcquire_of_other {y : Nat × Scan} (h : s.scanPick = some y) (hne : y.1 ≠ n) :
    exec (.scanSlotAcquire n) s = .next s := by
  have hpick : s.arbPick s.cpu.lastSlot (·.2.slice) (s.cpu.scans.filter fun y => s.scanCan y.2) = some y := h
  rw [exec, execScanSlotAcquire, hpick]
  exact congrArg Host.Outcome.next (if_pos hne)

/-- A number that no Scan has takes no slots. -/
theorem exec_scanSlotAcquire_of_absent (h : Tbl.get? s.cpu.scans n = none) : exec (.scanSlotAcquire n) s = .next s := by
  cases hpick : s.scanPick with
  | none => exact exec_scanSlotAcquire_of_no_pick hpick
  | some y =>
    obtain ⟨hmem, -⟩ := scanPick_eq_some hpick
    refine exec_scanSlotAcquire_of_other hpick ?_
    rintro rfl
    exact get?_ne_none_of_mem hmem h

/-- The Scan that is picked takes a slot of every channel of its range, and its units one after another. -/
theorem exec_scanSlotAcquire_of_pick {r : Scan} (hr : Tbl.get? s.cpu.scans n = some r) (h : s.scanPick = some (n, r)) :
    exec (.scanSlotAcquire n) s = .next ((s.scanUnits r).foldl (fun t i => t.scanTake n r i) { s with cpu := { s.cpu with
      progSlots := (s.scanChans r).foldl (fun (z : Tbl Nat) c => Tbl.set z c (Tbl.getD z c 0 + 1)) s.cpu.progSlots
      lastSlot := r.slice
      scans := Tbl.set s.cpu.scans n { r with
        slot := true
        accs := (s.scanChans r).foldl (fun (z : Tbl (List Nat)) c => Tbl.set z c ((progKinds r.prog).map accInit)) [] } } }) := by
  have hpick : s.arbPick s.cpu.lastSlot (·.2.slice) (s.cpu.scans.filter fun y => s.scanCan y.2) = some (n, r) := h
  rw [exec, execScanSlotAcquire, hpick]
  refine congrArg Host.Outcome.next ((if_neg (not_not_intro rfl)).trans ?_)
  simp only [State.modScan, hr]

end

/-! ## The completion (R261 to R264) -/

/-- Without STRICT, or without a framing error, a Scan does not end for its frames. -/
theorem not_strict_and_error {r : Scan} (h : progStrict r.prog = false ∨ r.frameErr = 0) :
    ¬(progStrict r.prog = true ∧ 0 < r.frameErr) := by
  rintro ⟨hstrict, herr⟩
  rcases h with hlax | hnone
  · exact Bool.eq_false_iff.1 hlax hstrict
  · omega

section
variable {s : State} {n : Nat}

theorem exec_scanComplete_of_absent (h : Tbl.get? s.cpu.scans n = none) : exec (.scanComplete n) s = .next s := by
  rw [exec, execScanComplete, h]

variable {r : Scan} (hr : Tbl.get? s.cpu.scans n = some r)
include hr

theorem exec_scanComplete_of_discarded (hdis : r.discarded = true) : exec (.scanComplete n) s = .next (s.dropScan n r) := by
  rw [exec, execScanComplete, hr]
  exact congrArg Host.Outcome.next (if_pos hdis)

variable (hdis : r.discarded = false)
include hdis

theorem exec_scanComplete_of_unfinished (h : r.slot = false ∨ r.waiting ≠ 0) : exec (.scanComplete n) s = .next s := by
  rw [exec, execScanComplete, hr]
  refine congrArg Host.Outcome.next ((if_neg (Bool.eq_false_iff.1 hdis)).trans (if_pos ?_))
  simpa using h

variable (hslot : r.slot = true) (hwait : r.waiting = 0)
include hslot hwait

/-- After its last unit a Scan leaves, and completes with the error of a unit if there was one. -/
theorem exec_scanComplete_of_failed {t c i : Nat} (hfailed : r.failed = some (t, c, i)) : exec (.scanComplete n) s =
    .next ((s.dropScan n r).complete (.queue r.ctrl r.sq) r.cid t c (BitVec.ofNat 32 i) 0) := by
  rw [exec, execScanComplete, hr]
  refine congrArg Host.Outcome.next ((if_neg (Bool.eq_false_iff.1 hdis)).trans ((if_neg ?_).trans ?_))
  · simp [hslot, hwait]
  · rw [hfailed]

variable (hfailed : r.failed = none)
include hfailed

/-- Without one it turns on STRICT, then on the length of its output. -/
theorem exec_scanComplete_of_whole {o : Option Fetched}
    (hfetched : (s.dropScan n r).fetchedAt (.queue r.ctrl r.sq) r.cid = o) : exec (.scanComplete n) s = .next (
      let q : Src := .queue r.ctrl r.sq
      let t := s.dropScan n r
      if progStrict r.prog = true ∧ 0 < r.frameErr then t.complete q r.cid 7 0x86 (BitVec.ofNat 32 (r.firstErr.getD 0)) 0
      else if r.outLen < r.output.length then t.complete q r.cid 7 0x80 (BitVec.ofNat 32 r.output.length) 0
      else o.elim t fun f => (t.sendIo q f.e (Data.ofBytes r.output)).complete q r.cid 0 0
        (BitVec.ofNat 32 r.output.length) (BitVec.ofNat 32 (min r.frameErr 0xFFFFFFFF))) := by
  rw [exec, execScanComplete, hr]
  refine congrArg Host.Outcome.next ((if_neg (Bool.eq_false_iff.1 hdis)).trans ((if_neg ?_).trans ?_))
  · simp [hslot, hwait]
  · simp only [hfailed, hfetched]
    cases o with
    | none => rfl
    | some f => dsimp only [Option.elim]

theorem exec_scanComplete_of_strict (hstrict : progStrict r.prog = true) (herr : 0 < r.frameErr) : exec (.scanComplete n) s =
    .next ((s.dropScan n r).complete (.queue r.ctrl r.sq) r.cid 7 0x86 (BitVec.ofNat 32 (r.firstErr.getD 0)) 0) :=
  (exec_scanComplete_of_whole hr hdis hslot hwait hfailed rfl).trans (congrArg Host.Outcome.next (if_pos ⟨hstrict, herr⟩))

variable (hframes : progStrict r.prog = false ∨ r.frameErr = 0)
include hframes

theorem exec_scanComplete_of_long (hlong : r.outLen < r.output.length) : exec (.scanComplete n) s =
    .next ((s.dropScan n r).complete (.queue r.ctrl r.sq) r.cid 7 0x80 (BitVec.ofNat 32 r.output.length) 0) :=
  (exec_scanComplete_of_whole hr hdis hslot hwait hfailed rfl).trans
    (congrArg Host.Outcome.next ((if_neg (not_strict_and_error hframes)).trans (if_pos hlong)))

/-- R262: else it sends its output. -/
theorem exec_scanComplete_of_fitting {f : Fetched} (hfits : r.output.length ≤ r.outLen)
    (hfetched : (s.dropScan n r).fetchedAt (.queue r.ctrl r.sq) r.cid = some f) : exec (.scanComplete n) s = .next (
      ((s.dropScan n r).sendIo (.queue r.ctrl r.sq) f.e (Data.ofBytes r.output)).complete (.queue r.ctrl r.sq) r.cid 0 0
        (BitVec.ofNat 32 r.output.length) (BitVec.ofNat 32 (min r.frameErr 0xFFFFFFFF))) := by
  rw [exec_scanComplete_of_whole hr hdis hslot hwait hfailed hfetched]
  simp only [not_strict_and_error hframes, Nat.not_lt.2 hfits, if_false, Option.elim_some]

end

/-! ## The statement -/

/-- Settles O42: each command turns on its checks in their order, the pick takes its slots, and a Scan that is over completes
with the first of its outcomes. -/
theorem localMemoryScansAndSealedTransfers : Obligations.LocalMemoryScansAndSealedTransfers := by
  intro s q e data sealOk sl x code step t c i n ns r f b off len win badRange u lw lr setup sq on tag m owned there scan p at_
    prog out past badLen src left done fin pick chans feed
  refine ⟨fun hio => ⟨fun hbad => ?_, fun hgood hptr => ?_, fun hgood hptr => ?_⟩,
    fun hio => ⟨fun hbad => ?_, fun hgood hptr => ?_, fun hgood hptr => ?_⟩,
    fun hio => ⟨exec_sealedTransferSetup_of_version data hio, fun hver => exec_sealedTransferSetup_of_check data hio hver,
      fun hver hptr => ?_⟩,
    fun hns => ⟨exec_scan_of_packed hns, exec_scan_of_past hns, exec_scan_of_badScanLen hns,
      fun hpacked hin hlen hptr => exec_scan_of_range hns hpacked hin hlen hptr rfl,
      fun hpacked hin hlen hptr => ⟨fun hbad => exec_scan_of_range hns hpacked hin hlen hptr hbad,
        fun hgood => exec_scan_of_range hns hpacked hin hlen hptr hgood⟩⟩,
    fun habsent => ⟨exec_scanSlotAcquire_of_absent habsent, exec_scanComplete_of_absent habsent⟩,
    scanCan_iff, exec_scanSlotAcquire_of_no_pick, fun y hpick => ⟨exec_scanSlotAcquire_of_other hpick, scanPick_eq_some hpick⟩,
    fun hr => ⟨exec_scanSlotAcquire_of_pick hr, exec_scanComplete_of_discarded hr, exec_scanComplete_of_unfinished hr,
      fun hdis hslot hwait => ⟨exec_scanComplete_of_failed hr hdis hslot hwait, exec_scanComplete_of_strict hr hdis hslot hwait,
        fun hfailed hframes => ⟨exec_scanComplete_of_long hr hdis hslot hwait hfailed hframes,
          exec_scanComplete_of_fitting hr hdis hslot hwait hfailed hframes⟩⟩⟩⟩
  · exact exec_localWrite_of_refused data sealOk hio (localCheck_of_bad hbad)
  · exact exec_localWrite_of_refused data sealOk hio ((localCheck_of_good hgood).trans hptr)
  · have hwrite := exec_localWrite_of_checked data sealOk hio ((localCheck_of_good hgood).trans hptr)
    refine ⟨fun hseal hopen => hwrite.trans (congrArg Host.Outcome.next (if_pos ⟨hseal, Bool.eq_false_iff.1 hopen⟩)),
      fun hopen => hwrite.trans (congrArg Host.Outcome.next (if_neg ?_))⟩
    rintro ⟨hseal, hclosed⟩
    rcases hopen with hnone | hok
    · exact Option.isSome_iff_ne_none.1 hseal hnone
    · exact hclosed hok
  · exact exec_localRead_of_refused hio (localCheck_of_bad hbad)
  · exact exec_localRead_of_refused hio ((localCheck_of_good hgood).trans hptr)
  · exact exec_localRead_of_checked hio ((localCheck_of_good hgood).trans hptr)
  · have hpage := exec_sealedTransferSetup_of_page data hio hver hptr
    exact ⟨fun hbad => hpage.trans (congrArg Host.Outcome.next (if_pos (setupBad_iff.2 hbad))),
      fun hthere htag => hpage.trans (congrArg Host.Outcome.next (if_neg (mt setupBad_iff.1
        (not_or.2 ⟨not_not_intro hthere, fun ⟨hon, hodd⟩ => hodd (htag hon)⟩))))⟩

end Sys2Proof.Machine
end

section
/-! How a long instruction of a core ends, by what its body answers (R299, R304), and how a core reads after a change. -/

namespace Sys2Proof.Machine

/-! ## Bodies -/

/-- A computation goes on from the value and the state of its first part. -/
theorem bind_of_ok {α β : Type} {m : CM α} {f : α → CM β} {s t : State} {a : α} (h : m s = .ok (a, t)) :
    (m >>= f) s = f a t := by
  simp only [bind, StateT.bind, h, Except.bind]

theorem bind_of_error {α β : Type} {m : CM α} {f : α → CM β} {s : State} {e : Exc} (h : m s = .error e) :
    (m >>= f) s = .error e := by
  simp only [bind, StateT.bind, h, Except.bind]

/-- The answer of a body that completes, with a control transfer if any. -/
def Next.to (target : Option W64) : Next := target.elim .seq .go

theorem Next.to_ite (b : Prop) [Decidable b] (x y : Option W64) :
    Next.to (if b then x else y) = if b then Next.to x else Next.to y := apply_ite Next.to b x y

/-! ## The ends of a long instruction -/

section
variable {s t : State} {c : Nat} {w : LongWord} {sizes : List Nat} {d s1 s2 : Use} {priv extra : Bool} {body : CM Next}
  (hok : s.longOk c w sizes d s1 s2 priv extra) (opc : Nat)
include hok

/-- Its body completes. -/
theorem long_completes {target : Option W64} (hbody : body s = .ok (Next.to target, t)) :
    s.long c w ⟨opc, sizes, d, s1, s2, priv⟩ extra body = s.completes t c w target := by
  obtain ⟨hruns, hpre⟩ := hok
  unfold State.long
  rw [hpre, hruns, hbody]
  cases target <;> rfl

/-- Its body leaves a state to go on from, without completing. -/
theorem long_stays (hbody : body s = .ok (.stay, t)) : s.long c w ⟨opc, sizes, d, s1, s2, priv⟩ extra body = t := by
  obtain ⟨hruns, hpre⟩ := hok
  unfold State.long
  rw [hpre, hruns, hbody]
  rfl

/-- Its body raises an exception. -/
theorem long_raises {e : Exc} (hbody : body s = .error e) :
    s.long c w ⟨opc, sizes, d, s1, s2, priv⟩ extra body = s.takeSync c e w.len (longWord opc w) := by
  obtain ⟨hruns, hpre⟩ := hok
  unfold State.long
  rw [hpre, hruns, hbody]
  rfl

end

/-- R289 step 5: the destination is located and checked, then takes the value, and the flags are set. -/
theorem putDest_of_ok {c z v : Nat} {align : Bool} {p : Specifier} {mid : CM (Nat × FlagSet)} {fl : FlagSet} {l : Loc}
    {s u t : State} (hloc : locate c false p z s = .ok (l, u)) (hdst : checkDest c align l z u = .ok ((), u))
    (hmid : mid u = .ok ((v, fl), u)) (hput : writeLoc c align l z v u = .ok ((), t)) :
    putDest c align p z mid s = .ok (.seq, t.modCtx c fun x => x.setFlags fl) :=
  (bind_of_ok hloc).trans <| (bind_of_ok hdst).trans <| (bind_of_ok hmid).trans <| bind_of_ok hput

/-! ## Changes of a core -/

/-- Two changes of a core are one. -/
theorem modCore_modCore (s : State) (c : Nat) (f g : Core → Core) :
    (s.modCore c f).modCore c g = s.modCore c fun k => g (f k) := by
  have hset : Tbl.set (Tbl.set s.cpu.cores c (f (s.core c))) c (g (f (s.core c)))
      = Tbl.set s.cpu.cores c (g (f (s.core c))) := set_set ..
  have hmod (t : State) (h : Core → Core) : t.modCore c h = t.setCore c (h (t.core c)) := rfl
  rw [hmod (s.modCore c f), core_mod]
  simp only [hmod, State.setCore, hset]

/-- A change of a core turns on what it makes of that core. -/
theorem modCore_congr {s : State} {c : Nat} {f g : Core → Core} (h : f (s.core c) = g (s.core c)) :
    s.modCore c f = s.modCore c g := congrArg (s.setCore c) h

theorem core_modCtx (s : State) (c : Nat) (f : Ctx → Ctx) :
    (s.modCtx c f).core c = { s.core c with ctx := f (s.core c).ctx } := core_mod ..

theorem modRegs_congr {s : State} {c : Nat} {f g : Regs → Regs} (h : f (s.core c).ctx.regs = g (s.core c).ctx.regs) :
    s.modRegs c f = s.modRegs c g :=
  congrArg (fun r => s.setCore c { s.core c with ctx := { (s.core c).ctx with regs := r } }) h

theorem regs_modRegs (s : State) (c : Nat) (f : Regs → Regs) :
    ((s.modRegs c f).core c).ctx.regs = f (s.core c).ctx.regs := congrArg (·.ctx.regs) (core_modCtx ..)

theorem modRegs_modRegs (s : State) (c : Nat) (f g : Regs → Regs) :
    (s.modRegs c f).modRegs c g = s.modRegs c fun k => g (f k) := by
  simp only [State.modRegs, State.modCtx, modCore_modCore]

/-- Accesses of the D space leave the registers. -/
theorem AccessOnly.regs {c : Nat} {s t : State} (h : AccessOnly c s t) : (t.core c).ctx.regs = (s.core c).ctx.regs :=
  show (t.core c).bare.ctx.regs = (s.core c).bare.ctx.regs from congrArg (·.ctx.regs) h.core

end Sys2Proof.Machine
end

section
/-! Group 3 (R300, R303, R311, R312): what its bodies answer. -/

namespace Sys2Proof.Machine

section
variable {s t u : State} {c : Nat} {w : LongWord}

/-- R303, R311: CMP sets the flags of the difference of its sources. -/
theorem completes_iCmp (hok : s.longOk c w szAll .none .r .r false true) {a b : Nat}
    (ha : readSrc c false true w.s1 .r w.z s = .ok (a, t)) (hb : readSrc c false true w.s2 .r w.z t = .ok (b, u)) :
    Completes (.iCmp c w) s (u.modCtx c fun k => k.setFlags (subFlags (8 * w.z) a b 0)) c w none :=
  congrArg Host.Outcome.next (long_completes hok _ ((bind_of_ok ha).trans (bind_of_ok hb)))

/-- R303, R311: TST sets the flags of its source. -/
theorem completes_iTst (hok : s.longOk c w szAll .none .r .none false true) {a : Nat}
    (ha : readSrc c false true w.s1 .r w.z s = .ok (a, u)) :
    Completes (.iTst c w) s (u.modCtx c fun k => k.setFlags (zncv (8 * w.z) a false false)) c w none :=
  congrArg Host.Outcome.next (long_completes hok _ (bind_of_ok ha))

section
variable (hok : s.longOk c w szD .none .t .none false true) {p : W64} (hp : readTarget c w.s1 s = .ok (p, u))
include hok hp

theorem completes_iBr : Completes (.iBr c w) s u c w (some p) :=
  congrArg Host.Outcome.next (long_completes hok _ (bind_of_ok hp))

/-- R312: CALL leaves the address of the next instruction in LK, once its target has been read. -/
theorem completes_iCall : Completes (.iCall c w) s
    (u.modCtx c fun k => { k with regs := { k.regs with lk := k.pc + BitVec.ofNat 64 w.len } }) c w (some p) :=
  congrArg Host.Outcome.next (long_completes hok _ (bind_of_ok hp))

/-- R311: a conditional branch transfers control when its condition holds. -/
theorem completes_iBcc (cc : Cond) :
    Completes (.iBcc c cc w) s u c w (if cc.holds (u.core c).ctx then some p else none) := by
  refine congrArg Host.Outcome.next (long_completes hok _ ((bind_of_ok hp).trans ?_))
  rw [Next.to_ite]
  rfl

end

theorem completes_iRet (hok : s.longOk c w szD .none .none .none false true) :
    Completes (.iRet c w) s s c w (some (s.core c).ctx.regs.lk) :=
  congrArg Host.Outcome.next (long_completes hok _ rfl)

/-- R300, R312: DJNZ writes its counter less 1 and branches unless that is 0. -/
theorem completes_iDjnz (hok : s.longOk c w szAll .m .t .none false true) {l : Loc} {v : Nat} {p : W64} {t1 t2 t3 : State}
    (hloc : locate c false w.d w.z s = .ok (l, t1)) (hv : readLoc c false true l w.z t1 = .ok (v, t2))
    (hp : readTarget c w.s1 t2 = .ok (p, t3))
    (hput : writeLoc c true l w.z (subVal (8 * w.z) v 1 0) t3 = .ok ((), u)) :
    Completes (.iDjnz c w) s u c w (if subVal (8 * w.z) v 1 0 = 0 then none else some p) := by
  refine congrArg Host.Outcome.next (long_completes hok _
    ((bind_of_ok hloc).trans ((bind_of_ok hv).trans ((bind_of_ok hp).trans ((bind_of_ok hput).trans ?_)))))
  rw [Next.to_ite]
  rfl

end

/-- Settles O4: each row of group 3 completes as its body says, and R311's table is the model's `Cond.holds`. -/
theorem compareAndBranchFollowTheirTable : Obligations.CompareAndBranchFollowTheirTable := by
  intro s t u c w a b v p l n top flags x
  refine ⟨fun hok ha hb => completes_iCmp hok ha hb, fun hok ha => completes_iTst hok ha,
    fun hok hp => ⟨completes_iBr hok hp, completes_iCall hok hp, fun cc yes hyes => ?_⟩, completes_iRet,
    fun t1 t2 t3 hok hloc => completes_iDjnz hok hloc⟩
  have hholds : yes = cc.holds x := by cases cc <;> exact hyes
  rw [hholds]
  exact completes_iBcc hok hp cc

end Sys2Proof.Machine
end

section
/-! Group 5 (R277, R278, R316, R317): the bit that an instruction writes, or the Bit-Space Fault that it raises. -/

namespace Sys2Proof.Machine

/-- R278: the bits that an instruction may not write so. -/
theorem bitFaults_iff {b : Nat} {v : Bool} :
    bitFaults b v = true ↔ 4 ≤ b ∧ b < 256 ∧ (v = true ∨ ¬(64 ≤ b ∧ b < 128)) := by
  simp only [bitFaults, Bool.and_eq_true, Bool.or_eq_true, Bool.not_eq_true', decide_eq_true_eq, and_assoc,
    Bool.and_eq_false_iff, decide_eq_false_iff_not, Classical.not_and_iff_not_or_not]

theorem writeBit_of_fault {b : Nat} {v : Bool} (h : bitFaults b v = true) (c : Nat) (u : State) :
    writeBit c b v u = .error { num := 5, addr := BitVec.ofNat 64 b } := if_pos h

theorem writeBit_of_ok {b : Nat} {v : Bool} (h : bitFaults b v = false) (c : Nat) (u : State) :
    writeBit c b v u = .ok ((), u.modCtx c fun k => k.setBit b v) := if_neg (Bool.eq_false_iff.1 h)

/-- R277, R278: the instruction `i`, its operands read in `u`, writes `v` to the bit `b`, or raises Bit-Space Fault where the
bit may not be written so. -/
def WritesBit (i : Instr) (s u : State) (c : Nat) (w : LongWord) (b : Nat) (v : Bool) : Prop :=
  if 4 ≤ b ∧ b < 256 ∧ (v = true ∨ ¬(64 ≤ b ∧ b < 128)) then
    ∃ word, exec i s = .next (s.takeSync c { num := 5, addr := BitVec.ofNat 64 b } w.len word)
  else Completes i s (u.modCtx c fun k => k.setBit b v) c w none

section
variable {s t u : State} {c : Nat} {w : LongWord}

/-- A row whose body ends in the write of a bit writes that bit. -/
theorem writesBit_of_body {i : Instr} {opc : Nat} {sizes : List Nat} {d s1 s2 : Use} {body : CM Next}
    (hok : s.longOk c w sizes d s1 s2 false true)
    (hexec : exec i s = .next (s.long c w ⟨opc, sizes, d, s1, s2, false⟩ true body)) {b : Nat} {v : Bool}
    (hbody : body s = (do writeBit c b v; pure Next.seq : CM Next) u) : WritesBit i s u c w b v := by
  unfold WritesBit Completes
  rw [hexec]
  split
  next hfault =>
    have hraise := writeBit_of_fault (bitFaults_iff.2 hfault) c u
    exact ⟨longWord opc w, congrArg Host.Outcome.next (long_raises hok opc (hbody.trans (bind_of_error hraise)))⟩
  next hgood =>
    have hput := writeBit_of_ok (Bool.eq_false_iff.2 (mt bitFaults_iff.1 hgood)) c u
    exact congrArg Host.Outcome.next (long_completes hok opc (hbody.trans (bind_of_ok hput)))

section
variable (hok : s.longOk c w szH .none .rH .none false true) {a : Nat}
  (ha : readSrc c false true w.s1 .rH 2 s = .ok (a, u))
include hok ha

theorem writesBit_iBset : WritesBit (.iBset c w) s u c w a true := writesBit_of_body hok rfl ((bind_of_ok ha).trans rfl)
theorem writesBit_iBclr : WritesBit (.iBclr c w) s u c w a false := writesBit_of_body hok rfl ((bind_of_ok ha).trans rfl)
theorem writesBit_iBnot : WritesBit (.iBnot c w) s u c w a (!(u.core c).ctx.bit a) :=
  writesBit_of_body hok rfl ((bind_of_ok ha).trans rfl)

end

section
variable (hok : s.longOk c w szH .none .rH .rH false true) {a b : Nat}
  (ha : readSrc c false true w.s1 .rH 2 s = .ok (a, t)) (hb : readSrc c false true w.s2 .rH 2 t = .ok (b, u))
include hok ha hb

theorem writesBit_iBmov : WritesBit (.iBmov c w) s u c w a ((u.core c).ctx.bit b) :=
  writesBit_of_body hok rfl ((bind_of_ok ha).trans (bind_of_ok hb))
theorem writesBit_iBand : WritesBit (.iBand c w) s u c w a ((u.core c).ctx.bit a && (u.core c).ctx.bit b) :=
  writesBit_of_body hok rfl ((bind_of_ok ha).trans (bind_of_ok hb))
theorem writesBit_iBor : WritesBit (.iBor c w) s u c w a ((u.core c).ctx.bit a || (u.core c).ctx.bit b) :=
  writesBit_of_body hok rfl ((bind_of_ok ha).trans (bind_of_ok hb))
theorem writesBit_iBxor : WritesBit (.iBxor c w) s u c w a ((u.core c).ctx.bit a != (u.core c).ctx.bit b) :=
  writesBit_of_body hok rfl ((bind_of_ok ha).trans (bind_of_ok hb))

end

/-- R316: BST writes the low bit of its source. -/
theorem writesBit_iBst (hok : s.longOk c w szAll .none .rH .r false true) {a v : Nat}
    (ha : readSrc c false true w.s1 .rH 2 s = .ok (a, t)) (hv : readSrc c false true w.s2 .r w.z t = .ok (v, u)) :
    WritesBit (.iBst c w) s u c w a (v % 2 = 1) := by
  have hlow : bitOf v 0 = decide (v % 2 = 1) := by rw [bitOf, Nat.pow_zero, Nat.div_one]
  rw [← hlow]
  exact writesBit_of_body hok rfl ((bind_of_ok ha).trans (bind_of_ok hv))

section
variable (hok : s.longOk c w szH .none .rH .t false true) {a : Nat} {p : W64}
  (ha : readSrc c false true w.s1 .rH 2 s = .ok (a, t)) (hp : readTarget c w.s2 t = .ok (p, u))
include hok ha hp

theorem completes_iBt : Completes (.iBt c w) s u c w (if (u.core c).ctx.bit a then some p else none) := by
  refine congrArg Host.Outcome.next (long_completes hok _ ((bind_of_ok ha).trans ((bind_of_ok hp).trans ?_)))
  rw [Next.to_ite]
  rfl

theorem completes_iBf : Completes (.iBf c w) s u c w (if (u.core c).ctx.bit a then none else some p) := by
  refine congrArg Host.Outcome.next (long_completes hok _ ((bind_of_ok ha).trans ((bind_of_ok hp).trans ?_)))
  rw [Next.to_ite]
  rfl

/-- R316: BTCLR of a clear bit passes on. -/
theorem completes_iBtclr_of_clear (hbit : (u.core c).ctx.bit a = false) : Completes (.iBtclr c w) s u c w none := by
  have hread : getBit c a u = .ok (false, u) := by rw [getBit, hbit]
  exact congrArg Host.Outcome.next (long_completes hok _
    ((bind_of_ok ha).trans ((bind_of_ok hp).trans (bind_of_ok hread))))

/-- R316: BTCLR of a set bit clears it and transfers control. -/
theorem completes_iBtclr_of_set (hbit : (u.core c).ctx.bit a = true) (hgood : bitFaults a false = false) :
    Completes (.iBtclr c w) s (u.modCtx c fun k => k.setBit a false) c w (some p) := by
  have hread : getBit c a u = .ok (true, u) := by rw [getBit, hbit]
  exact congrArg Host.Outcome.next (long_completes hok _ ((bind_of_ok ha).trans ((bind_of_ok hp).trans
    ((bind_of_ok hread).trans (bind_of_ok (writeBit_of_ok hgood c u))))))

end

/-- R316: BLD leaves the bit in its destination. -/
theorem leavesDest_iBld (hok : s.longOk c w szAll .w .rH .none false true) {a : Nat} {l : Loc}
    (ha : readSrc c false true w.s1 .rH 2 s = .ok (a, t)) (hloc : locate c false w.d w.z t = .ok (l, u))
    (hdst : checkDest c true l w.z u = .ok ((), u)) :
    LeavesDest (.iBld c w) s u c w true l w.z ((t.core c).ctx.bit a).toNat {} :=
  fun _ hput => congrArg Host.Outcome.next (long_completes hok _ ((bind_of_ok ha).trans (putDest_of_ok hloc hdst rfl hput)))

end

/-- Settles O5: each row of group 5 that writes a bit ends its body in `writeBit`, whose fault is R278's. -/
theorem bitInstructionsWriteTheirBit : Obligations.BitInstructionsWriteTheirBit := by
  intro s t u c w a b v p l bit writes
  exact ⟨fun hok ha => ⟨writesBit_iBset hok ha, writesBit_iBclr hok ha, writesBit_iBnot hok ha⟩,
    fun hok ha hb => ⟨writesBit_iBmov hok ha hb, writesBit_iBand hok ha hb, writesBit_iBor hok ha hb,
      writesBit_iBxor hok ha hb⟩,
    fun hok ha hp => ⟨completes_iBt hok ha hp, completes_iBf hok ha hp, completes_iBtclr_of_clear hok ha hp,
      completes_iBtclr_of_set hok ha hp⟩,
    fun hok ha hloc hdst => leavesDest_iBld hok ha hloc hdst, fun hok ha hv => writesBit_iBst hok ha hv⟩

end Sys2Proof.Machine
end

section
/-! Writing a destination (R280): a register, or bytes of the bench. -/

namespace Sys2Proof.Machine

/-- Removing an address leaves the byte at every other. -/
theorem Mem.get_del_ne (m : Mem) {a x : Nat} (h : a ≠ x) : Mem.get (Mem.del m a) x = Mem.get m x := by
  induction m with
  | nil => rfl
  | cons p m ih =>
    obtain ⟨k, v⟩ := p
    rw [Mem.del]
    split
    · rfl
    · split
      next hk => rw [Mem.get, if_neg (hk ▸ h)]
      next => simp only [Mem.get, ih]

/-- Writing a byte leaves every other byte, whatever the memory's form. -/
theorem Mem.get_set_ne (m : Mem) {a x : Nat} (b : Byte) (h : a ≠ x) : Mem.get (Mem.set m a b) x = Mem.get m x := by
  unfold Mem.set
  split
  · exact Mem.get_del_ne m h
  · rw [Mem.get_put, if_neg h]

/-- Writing bytes leaves every byte outside their range. -/
theorem Mem.get_write_outside {x : Nat} (bs : List Byte) :
    ∀ (m : Mem) (a : Nat), x < a ∨ a + bs.length ≤ x → Mem.get (Mem.write m a bs) x = Mem.get m x := by
  induction bs with
  | nil => exact fun _ _ _ => rfl
  | cons b bs ih =>
    intro m a h
    rw [List.length_cons] at h
    rw [Mem.write, ih _ _ (by omega), Mem.get_set_ne m b (by omega)]

theorem length_leBytes (k n : Nat) : (leBytes k n).length = k := by
  induction k generalizing n with
  | zero => rfl
  | succ k ih => rw [leBytes, List.length_cons, ih]

/-- An access that passes its checks is at the place of its first byte. -/
theorem place_of_checkAccess {s : State} {c a n : Nat} {align : Bool} {p : Place}
    (h : checkAccess s c align a n = .ok p) : s.place c a = some p := by
  unfold checkAccess at h
  dsimp only at h
  split at h
  · cases h
  · split at h
    next q _ hq _ =>
      rw [hq]
      split at h
      · cases h
      · split at h
        · split at h
          · cases h
          · rw [Except.ok.inj h]
        · rw [Except.ok.inj h]
    next => cases h

/-- A store in the bench writes its bytes there and marks their pages. -/
theorem memWrite_of_bench {c : Nat} {stream align : Bool} {a : W64} {bs : List Byte} {s t : State} {o : Nat}
    (h : memWrite c stream align a bs s = .ok ((), t)) (hplace : s.place c a.toNat = some (.bench o)) :
    t = (s.markWritten c (.bench o) bs.length).rawWrite c (.bench o) bs := by
  unfold memWrite at h
  obtain ⟨p, hp, h⟩ := ok_bind h
  obtain ⟨_, _, h⟩ := ok_bind h
  obtain rfl : p = .bench o := Option.some.inj ((place_of_checkAccess hp).symm.trans hplace)
  exact (congrArg Prod.snd (Except.ok.inj h)).symm

/-- What such a store makes of its core. -/
theorem core_writeBench (s : State) (c o : Nat) (bs : List Byte) :
    ((s.markWritten c (.bench o) bs.length).rawWrite c (.bench o) bs).core c = { s.core c with
      wBench := insNat ((o + bs.length - 1) / 4096) (insNat (o / 4096) (s.core c).wBench)
      ctx := { (s.core c).ctx with bench := Mem.write (s.core c).ctx.bench o bs } } := by
  rw [State.rawWrite, core_modCtx, State.markWritten, core_mod]

/-- Settles O9: a register write is the model's own, and a store is an access of its core, which in the bench writes its bytes
by `Mem.write`. -/
theorem destinationWritesChangeOnlyTheirPlace : Obligations.DestinationWritesChangeOnlyTheirPlace := by
  intro s t c z v align l h
  refine ⟨fun r hr => ?_, fun m hm => ?_⟩
  · subst hr
    exact (congrArg Prod.snd (Except.ok.inj h)).symm
  · subst hm
    refine ⟨memWrite_only h, fun o hplace => ?_⟩
    obtain rfl := memWrite_of_bench h hplace
    rw [core_writeBench]
    refine ⟨fun x hx => Mem.get_write_outside _ _ _ ?_, rfl, rfl, rfl, rfl, rfl, rfl⟩
    rwa [length_leBytes]

end Sys2Proof.Machine
end

section
/-! Completion and RPT (R299, R338). -/

namespace Sys2Proof.Machine

/-- R338: the watchdog's count once an instruction completes. -/
def Core.restarted (k : Core) : Nat := if k.sup then k.wdCount else 0

theorem restart_eq (k : Core) : (if k.sup then k else { k with wdCount := 0 }) = { k with wdCount := k.restarted } := by
  unfold Core.restarted
  split <;> rfl

/-- The watchdog restarts in user mode. -/
def State.restart (s : State) (c : Nat) : State := s.modCore c fun k => if k.sup then k else { k with wdCount := 0 }

theorem core_restart (s : State) (c : Nat) :
    (s.restart c).core c = { s.core c with wdCount := (s.core c).restarted } := (core_mod ..).trans (restart_eq _)

/-- The restart and a change of the context are one change of the core. -/
theorem restart_modCtx (s : State) (c : Nat) (f : Ctx → Ctx) : (s.restart c).modCtx c f =
    s.modCore c fun k => { k with wdCount := k.restarted, ctx := f k.ctx } := by
  rw [State.restart, State.modCtx, modCore_modCore]
  simp only [restart_eq]

/-- R299: a repeat counts BC down, and goes on past the instruction once it is 0. -/
theorem finish_repeat (s : State) (c len : Nat) (target : Option W64) :
    s.finish c true len target = s.modCore c fun k => { k with
      wdCount := k.restarted
      ctx := if k.ctx.regs.bc = 1 then
          { k.ctx with pc := (s.core c).ctx.pc + BitVec.ofNat 64 len, regs := { k.ctx.regs with bc := 0, rp := false } }
        else { k.ctx with regs := { k.ctx.regs with bc := k.ctx.regs.bc - 1 } } } := by
  have hlast : (s.core c).ctx.regs.bc - 1 = 0 ↔ (s.core c).ctx.regs.bc = 1 := by bv_omega
  unfold State.finish
  rw [← State.restart, if_pos rfl, core_restart]
  dsimp only
  split
  next h =>
    rw [restart_modCtx]
    exact modCore_congr (by simp only [h, if_pos (hlast.1 h)])
  next h =>
    rw [restart_modCtx]
    exact modCore_congr (by simp only [mt hlast.2 h, if_false])

theorem finish_next (s : State) (c len : Nat) :
    s.finish c false len none = s.modCore c fun k => { k with
      wdCount := k.restarted, ctx := { k.ctx with pc := (s.core c).ctx.pc + BitVec.ofNat 64 len } } := by
  unfold State.finish
  rw [← State.restart, if_neg Bool.false_ne_true, core_restart, restart_modCtx]

/-- R275, R341: an address other than the exit and resume addresses, or out of a run, is only the next pc. -/
theorem arrive_of_plain {s : State} {c : Nat} {a : W64}
    (h : (s.core c).sup = true ∨ (s.core c).run = none ∨ (a ≠ exitAddr ∧ a ≠ resumeAddr)) :
    s.arrive c a = s.modCtx c fun x => { x with pc := a } := by
  unfold State.arrive
  dsimp only
  rw [core_modCtx]
  rcases h with hsup | hrun | ⟨hexit, hresume⟩
  · rw [if_pos hsup]
  · rw [hrun, ite_self]
  · simp only [hexit, hresume, false_and, if_false]
    split
    · rfl
    · split
      · rfl
      · split <;> rfl

theorem finish_go {s : State} {c : Nat} {a : W64} (len : Nat)
    (h : (s.core c).sup = true ∨ (s.core c).run = none ∨ (a ≠ exitAddr ∧ a ≠ resumeAddr)) :
    s.finish c false len (some a) = s.modCore c fun k => { k with
      wdCount := k.restarted, ctx := { k.ctx with pc := a } } := by
  have harrive : (s.restart c).arrive c a = (s.restart c).modCtx c fun x => { x with pc := a } :=
    arrive_of_plain (by rwa [core_restart])
  unfold State.finish
  rw [← State.restart, if_neg Bool.false_ne_true]
  exact harrive.trans (restart_modCtx ..)

/-- The check of a fetch turns on the core's mode and control block. -/
theorem fetchFault_congr {s t : State} {c : Nat} (hsup : (t.core c).sup = (s.core c).sup)
    (hctl : (t.core c).ctl = (s.core c).ctl) (a : W64) : fetchFault t c a = fetchFault s c a := by
  have hoffset : t.iOffset c a.toNat = s.iOffset c a.toNat := by simp only [State.iOffset, hsup, hctl]
  rw [fetchFault, fetchFault, hoffset]

/-- R338: RPT restarts the watchdog as completion does. -/
def State.rptRestart (s : State) (c : Nat) : State :=
  if (s.core c).sup then s else s.modCore c fun k => { k with wdCount := 0 }

theorem rptRestart_modCtx (s : State) (c : Nat) (f : Ctx → Ctx) : (s.rptRestart c).modCtx c f =
    s.modCore c fun k => { k with wdCount := k.restarted, ctx := f k.ctx } := by
  unfold State.rptRestart
  split
  next h => exact modCore_congr (by simp only [Core.restarted, h, if_true])
  next h =>
    rw [State.modCtx, modCore_modCore]
    exact modCore_congr (by simp only [Core.restarted, h, Bool.false_eq_true, if_false])

theorem fetchFault_rptRestart (s : State) (c : Nat) (a : W64) : fetchFault (s.rptRestart c) c a = fetchFault s c a := by
  unfold State.rptRestart
  split
  · rfl
  · have hcore := core_mod s c fun k => { k with wdCount := 0 }
    exact fetchFault_congr (congrArg (·.sup) hcore) (congrArg (·.ctl) hcore) a

/-- R299: RPT goes to the instruction it repeats, or passes over it when BC is 0. -/
theorem exec_iRpt {s : State} {c : Nat} {w : LongWord} {word : W64}
    (hok : s.longOk c w szB .none .none .none false (!rptRefuses word))
    (hfetch : fetchFault s c ((s.core c).ctx.pc + 8) = none) :
    exec (.iRpt c w word) s = .next (s.modCore c fun k => { k with
      wdCount := k.restarted
      ctx := if k.ctx.regs.bc = 0 then { k.ctx with pc := (s.core c).ctx.pc + 8 + BitVec.ofNat 64 (wordLen word) }
        else { k.ctx with pc := (s.core c).ctx.pc + 8, regs := { k.ctx.regs with rp := true } } }) := by
  refine congrArg Host.Outcome.next (long_stays hok _ ?_)
  dsimp only
  rw [← State.rptRestart, fetchFault_rptRestart, hfetch]
  dsimp only
  split
  next h =>
    rw [rptRestart_modCtx]
    exact congrArg (fun x => Except.ok (Next.stay, x)) (modCore_congr (by simp only [h, if_true]))
  next h =>
    rw [rptRestart_modCtx]
    exact congrArg (fun x => Except.ok (Next.stay, x)) (modCore_congr (by simp only [h, if_false]))

/-- R299: an instruction that may not be repeated makes RPT illegal. -/
theorem exec_iRpt_of_refused {s : State} {c : Nat} (hruns : s.coreRuns c = true)
    (hfetch : fetchFault s c (s.core c).ctx.pc = none) (w : LongWord) {word : W64} (hrefused : rptRefuses word = true) :
    exec (.iRpt c w word) s = .next (s.takeSync c { num := 1 } 8 (longWord (opcOf 4 8) w)) := by
  have hpre : preCheck s c w { opc := opcOf 4 8, sizes := szB } (!rptRefuses word) =
      some ({ num := 1 }, longWord (opcOf 4 8) w) := by
    unfold preCheck
    dsimp only
    rw [hfetch, hrefused, Bool.not_true, Bool.and_false]
    rfl
  refine congrArg Host.Outcome.next ?_
  unfold State.long
  rw [hruns, hpre]
  rfl

/-- Settles O10: completion is one change of the core, and RPT leaves the core to go on from there. -/
theorem completionMovesThePcOrCountsARepeat : Obligations.CompletionMovesThePcOrCountsARepeat := by
  intro s c len target w word dog at8 next
  exact ⟨finish_repeat s c len target, finish_next s c len, fun a h => finish_go len h, fun hok hfetch => exec_iRpt hok hfetch,
    fun hruns hfetch hrefused => ⟨_, exec_iRpt_of_refused hruns hfetch w hrefused⟩⟩

end Sys2Proof.Machine
end

section
/-! String instructions without a condition (R297, R314, R315): elements one after another, up to an interruption. -/

namespace Sys2Proof.Machine

/-- `r` is what one element does: it goes on, and counts BC down. -/
def IsElement (c : Nat) (elem : CM Bool) (r : State → State → Prop) : Prop :=
  ∀ x y, r x y → elem x = .ok (false, y) ∧ (y.core c).ctx.regs.bc = (x.core c).ctx.regs.bc - 1

/-- A count that is not 0 does not wrap. -/
theorem toNat_sub_one {b : W64} (h : b ≠ 0) : (b - 1).toNat = b.toNat - 1 := by
  bv_omega

section
variable {c : Nat} {elem : CM Bool} {r : State → State → Prop} (hr : IsElement c elem r)
include hr

/-- The elements of a chain that BC allows are done one by one. -/
theorem strLoop_steps {n : Nat} (m : Nat) {u t : State} (hsteps : Steps r n u t)
    (hle : n ≤ (u.core c).ctx.regs.bc.toNat) : strLoop c elem (n + m) u = strLoop c elem m t
      ∧ (t.core c).ctx.regs.bc.toNat = (u.core c).ctx.regs.bc.toNat - n := by
  induction n generalizing u with
  | zero =>
    obtain rfl : t = u := hsteps
    exact ⟨congrArg (strLoop c elem · t) (Nat.zero_add m), rfl⟩
  | succ n ih =>
    obtain ⟨x, hstep, hsteps⟩ := hsteps
    obtain ⟨helem, hbc⟩ := hr u x hstep
    have hne : (u.core c).ctx.regs.bc ≠ 0 := fun h => by
      rw [h] at hle
      exact absurd hle (Nat.not_succ_le_zero n)
    have hcount : (x.core c).ctx.regs.bc.toNat = (u.core c).ctx.regs.bc.toNat - 1 := by rw [hbc, toNat_sub_one hne]
    obtain ⟨hloop, hleft⟩ := ih hsteps (by omega)
    refine ⟨?_, by omega⟩
    rw [Nat.succ_add_eq_add_succ, Nat.add_succ, strLoop, if_neg hne, ← hloop]
    simp only [helem]

/-- R297: with BC elements done, before an interruption, the body is over. -/
theorem strBody_of_all {limit : Nat} {u t : State} (hsteps : Steps r (u.core c).ctx.regs.bc.toNat u t)
    (hle : (u.core c).ctx.regs.bc.toNat ≤ limit) : strBody c limit false elem u = .ok (.seq, t) := by
  obtain ⟨hloop, hleft⟩ := strLoop_steps hr 0 hsteps (Nat.le_refl _)
  have hdone : strLoop c elem 0 t = .done t false := by
    rw [strLoop, if_pos (BitVec.eq_of_toNat_eq (hleft.trans (Nat.sub_self _)))]
  have hall : strLoop c elem (min limit (u.core c).ctx.regs.bc.toNat) u = .done t false := by
    rw [Nat.min_eq_right hle]
    exact hloop.trans hdone
  unfold strBody
  dsimp only
  rw [hall]
  rfl

/-- R297: else it stops between two elements. -/
theorem strBody_of_limit {limit : Nat} {u t : State} (hsteps : Steps r limit u t)
    (hlt : limit < (u.core c).ctx.regs.bc.toNat) : strBody c limit false elem u = .ok (.stay, t) := by
  obtain ⟨hloop, hleft⟩ := strLoop_steps hr 0 hsteps (Nat.le_of_lt hlt)
  have hne : (t.core c).ctx.regs.bc ≠ 0 := fun h => by
    have hzero : (t.core c).ctx.regs.bc.toNat = 0 := congrArg BitVec.toNat h
    omega
  have hmore : strLoop c elem 0 t = .more t := by rw [strLoop, if_neg hne]
  have hlimit : strLoop c elem (min limit (u.core c).ctx.regs.bc.toNat) u = .more t := by
    rw [Nat.min_eq_left (Nat.le_of_lt hlt)]
    exact hloop.trans hmore
  unfold strBody
  dsimp only
  rw [hlimit]

/-- A row whose body, its source read, is such elements completes once BC of them are done, and stops at the limit with its pc
unmoved. -/
theorem string_ends {i : Instr} {s u t : State} {w : LongWord} {opc : Nat} {sizes : List Nat} {d s1 s2 : Use} {extra : Bool}
    {body : CM Next} {limit : Nat} (hok : s.longOk c w sizes d s1 s2 false extra)
    (hexec : exec i s = .next (s.long c w ⟨opc, sizes, d, s1, s2, false⟩ extra body))
    (hbody : body s = strBody c limit false elem u) :
    (Steps r (u.core c).ctx.regs.bc.toNat u t → (u.core c).ctx.regs.bc.toNat ≤ limit → Completes i s t c w none)
    ∧ (Steps r limit u t → limit < (u.core c).ctx.regs.bc.toNat → exec i s = .next t) := by
  unfold Completes
  rw [hexec]
  exact ⟨fun hsteps hle => congrArg Host.Outcome.next
      (long_completes hok opc (hbody.trans (strBody_of_all hr hsteps hle))),
    fun hsteps hlt => congrArg Host.Outcome.next (long_stays hok opc (hbody.trans (strBody_of_limit hr hsteps hlt)))⟩

end

/-! ## What one element of each row does -/

/-- The element of MOVS (R314). -/
def MovsElement (c z : Nat) (x y : State) : Prop :=
  let g := (x.core c).ctx.regs
  ∃ b x1 x2, memRead c true false g.bs z x = .ok (b, x1) ∧ memWrite c true false g.bd b x1 = .ok ((), x2)
    ∧ y = x2.modRegs c fun k => { k with bc := g.bc - 1, bs := strMove g z g.bs, bd := strMove g z g.bd }

/-- The element of FILLS (R314). -/
def FillsElement (c z v : Nat) (x y : State) : Prop :=
  let g := (x.core c).ctx.regs
  ∃ x1, memWrite c true false g.bd (leBytes z v) x = .ok ((), x1)
    ∧ y = x1.modRegs c fun k => { k with bc := g.bc - 1, bd := strMove g z g.bd }

/-- The element of XLTS, with its table at `v` (R314). -/
def XltsElement (c v : Nat) (x y : State) : Prop :=
  let g := (x.core c).ctx.regs
  ∃ b e x1 x2 x3, memRead c true false g.bs 1 x = .ok ([b], x1)
    ∧ memRead c true false (BitVec.ofNat 64 (v + b.toNat)) 1 x1 = .ok (e, x2)
    ∧ memWrite c true false g.bd e x2 = .ok ((), x3)
    ∧ y = x3.modRegs c fun k => { k with bc := g.bc - 1, bs := strMove g 1 g.bs, bd := strMove g 1 g.bd }

/-- The element of CRCS (R314). -/
def CrcsElement (c : Nat) (x y : State) : Prop :=
  let g := (x.core c).ctx.regs
  ∃ b x1, memRead c true false g.bs 1 x = .ok ([b], x1)
    ∧ y = x1.modRegs c fun k => { k with
        bc := g.bc - 1, bs := strMove g 1 g.bs
        acc := BitVec.ofNat 32 (crcStep 0x82F63B78 g.acc.toNat b) }

/-- R297 steps 2 and 3, once the accesses of an element, which leave the registers, have been made. -/
theorem strStep_of_only {c : Nat} {x t : State} (h : AccessOnly c x t) (z : Nat) (src dst : Bool) :
    strStep c z src dst t = .ok ((), t.modRegs c fun k =>
      let g := (x.core c).ctx.regs
      { k with
        bc := g.bc - 1
        bs := if src then strMove g z g.bs else k.bs
        bd := if dst then strMove g z g.bd else k.bd }) := by
  refine congrArg (fun u => Except.ok ((), u)) (modRegs_congr ?_)
  rw [← h.regs]

theorem isElement_movs (c z : Nat) : IsElement c (do
    let g ← getRegs c
    let b ← memRead c true false g.bs z
    memWrite c true false g.bd b
    strStep c z true true
    pure false) (MovsElement c z) := by
  rintro x y ⟨b, x1, x2, hread, hwrite, rfl⟩
  have honly := (memRead_only hread).trans (memWrite_only hwrite)
  exact ⟨(bind_of_ok (a := (x.core c).ctx.regs) rfl).trans <| (bind_of_ok hread).trans <| (bind_of_ok hwrite).trans <|
    bind_of_ok (strStep_of_only honly z true true), congrArg Regs.bc (regs_modRegs ..)⟩

theorem isElement_fills (c z v : Nat) : IsElement c (do
    let g ← getRegs c
    memWrite c true false g.bd (leBytes z v)
    strStep c z false true
    pure false) (FillsElement c z v) := by
  rintro x y ⟨x1, hwrite, rfl⟩
  exact ⟨(bind_of_ok (a := (x.core c).ctx.regs) rfl).trans <| (bind_of_ok hwrite).trans <|
    bind_of_ok (strStep_of_only (memWrite_only hwrite) z false true), congrArg Regs.bc (regs_modRegs ..)⟩

theorem isElement_xlts (c v : Nat) : IsElement c (do
    let g ← getRegs c
    let a ← memRead c true false g.bs 1
    let b ← memRead c true false (BitVec.ofNat 64 (v + leNat a)) 1
    memWrite c true false g.bd b
    strStep c 1 true true
    pure false) (XltsElement c v) := by
  rintro x y ⟨b, e, x1, x2, x3, hread, htable, hwrite, rfl⟩
  have honly := ((memRead_only hread).trans (memRead_only htable)).trans (memWrite_only hwrite)
  exact ⟨(bind_of_ok (a := (x.core c).ctx.regs) rfl).trans <| (bind_of_ok hread).trans <| (bind_of_ok htable).trans <|
    (bind_of_ok hwrite).trans <| bind_of_ok (strStep_of_only honly 1 true true), congrArg Regs.bc (regs_modRegs ..)⟩

theorem isElement_crcs (c : Nat) : IsElement c (do
    let g ← getRegs c
    let a ← memRead c true false g.bs 1
    strStep c 1 true false
    fun s => .ok (false, s.modRegs c fun x => { x with
      acc := BitVec.ofNat 32 (crcStep 0x82F63B78 g.acc.toNat (BitVec.ofNat 8 (leNat a))) })) (CrcsElement c) := by
  rintro x y ⟨b, x1, hread, rfl⟩
  have hbyte : BitVec.ofNat 8 (leNat [b]) = b := (BitVec.ofNat_toNat 8 b).trans (BitVec.setWidth_eq b)
  refine ⟨(bind_of_ok (a := (x.core c).ctx.regs) rfl).trans <| (bind_of_ok hread).trans <|
    (bind_of_ok (strStep_of_only (memRead_only hread) 1 true false)).trans ?_, congrArg Regs.bc (regs_modRegs ..)⟩
  dsimp only
  rw [modRegs_modRegs, hbyte]
  rfl

/-- Settles O11: the body of each row is its element over and over, which counts BC down. -/
theorem blockMovesFillsTranslationsAndChecksumsGoElementByElement :
    Obligations.BlockMovesFillsTranslationsAndChecksumsGoElementByElement := by
  intro s t u c w limit v g move upTo
  exact ⟨fun hok => string_ends (isElement_movs c w.z) hok rfl rfl, fun hok => string_ends (isElement_crcs c) hok rfl rfl,
    fun hok hv => string_ends (isElement_fills c w.z v) hok rfl (bind_of_ok hv),
    fun hok hv => string_ends (isElement_xlts c v) hok rfl (bind_of_ok hv)⟩

end Sys2Proof.Machine
end

section
/-! Pairs (R291 to R296, R328, R329): the order of their checks, and what both operations leave. -/

namespace Sys2Proof.Machine

/-- The pair word of core `c` is fetched, and its run, if any, is not in user mode of a billet of format 1 (R239). -/
structure State.PairRuns (s : State) (c : Nat) : Prop where
  runs  : s.coreRuns c = true
  fetch : fetchFault s c (s.core c).ctx.pc = none
  fmt   : ∀ r, s.runOn c = some r → (s.core c).sup = true ∨ (s.billetOf r).fmt ≠ 1

/-- How a pair ends, by what its body answers. -/
def State.pairEnds (s : State) (c : Nat) (word : W64) : Except Exc (Next × State) → State
  | .error e => s.takeSync c e 8 word
  | .ok (.go p, t) => t.finish c (s.core c).ctx.regs.rp 8 (some p)
  | .ok (_, t) => t.finish c (s.core c).ctx.regs.rp 8 none

theorem pairEnds_completes (s t : State) (c : Nat) (word : W64) (target : Option W64) :
    s.pairEnds c word (.ok (Next.to target, t)) = t.finish c (s.core c).ctx.regs.rp 8 target := by
  cases target <;> rfl

/-- R296: the slots are checked in their order, then the body runs. -/
theorem exec_iPair {s : State} {c : Nat} (h : s.PairRuns c) (a b : ShortOp) : exec (.iPair c a b false) s = .next (
    let word := pairWord a b false
    if shortLegal a false = false then s.takeSync c { num := 1 } 8 word
    else if shortLegal b true = false then s.takeSync c { num := 1, slot := true } 8 word
    else s.pairEnds c word (pairBody c a b s)) := by
  obtain ⟨hruns, hfetch, hfmt⟩ := h
  have hexec : exec (.iPair c a b false) s = execIPair c a b false s := rfl
  rw [hexec, execIPair, hruns, hfetch]
  cases hrun : s.runOn c with
  | none =>
    simp only [Bool.false_or, Bool.not_true, Bool.false_eq_true, if_false, Bool.not_eq_true']
    rfl
  | some r =>
    have hfmt1 : (!(s.core c).sup && decide ((s.billetOf r).fmt = 1)) = false := by
      rcases hfmt r hrun with hsup | hne
      · rw [hsup, Bool.not_true, Bool.false_and]
      · rw [decide_eq_false hne, Bool.and_false]
    simp only [hfmt1, Bool.false_or, Bool.not_true, Bool.false_eq_true, if_false, Bool.not_eq_true']
    rfl

section
variable {s : State} {c : Nat} {a b : ShortOp}

/-- The bit variables that the operands of a pair name without a read (R295). -/
def namedBits (s : State) (c : Nat) (u : SUse) (l : Loc) : List SLoc := if u = .b then bitName s c l else []

/-- The bit variable that a value read names (R295). -/
def readBits (u : SUse) (v : Nat) : List SLoc := if u = .b then [.bit (v % 65536)] else []

/-- R295: the hazard that shows before the operands are read. -/
def earlyHazard (s : State) (c : Nat) (oa ob : SOp) : Bool :=
  hazard oa ob (namedBits s c oa.ux oa.lx) (namedBits s c oa.uy oa.ly) (namedBits s c ob.ux ob.lx) (namedBits s c ob.uy ob.ly)

/-- R295: the hazard that shows once they have been read. -/
def lateHazard (oa ob : SOp) (xa ya xb yb : Nat) : Bool :=
  hazard oa ob (readBits oa.ux xa) (readBits oa.uy ya) (readBits ob.ux xb) (readBits ob.uy yb)

theorem exceptBind_of_ok {ε α β : Type} {m : Except ε α} {f : α → Except ε β} {a : α} (h : m = .ok a) :
    (m >>= f) = f a := by
  rw [h]
  rfl

theorem inSlot_of_ok {α : Type} {slot : Bool} {m : CM α} {t : State} {r : α × State} (h : m t = .ok r) :
    inSlot slot m t = .ok r := by
  rw [inSlot, h]

theorem pairBody_of_early (h : earlyHazard s c (sopLocate s c a) (sopLocate s c b) = true) :
    pairBody c a b s = .error { num := 2 } := if_pos h

section
variable {t1 t2 t3 t4 : State} {xa ya xb yb : Nat}
  (hearly : earlyHazard s c (sopLocate s c a) (sopLocate s c b) = false)
  (ha : sopRead c (sopLocate s c a) s = .ok ((xa, ya), t1)) (hb : sopRead c (sopLocate s c b) t1 = .ok ((xb, yb), t2))
include hearly ha hb

theorem pairBody_of_late (hlate : lateHazard (sopLocate s c a) (sopLocate s c b) xa ya xb yb = true) :
    pairBody c a b s = .error { num := 2 } :=
  (if_neg (Bool.eq_false_iff.1 hearly)).trans <| (exceptBind_of_ok (inSlot_of_ok ha)).trans <|
    (exceptBind_of_ok (inSlot_of_ok hb)).trans (if_pos hlate)

/-- R294: both operations have read, then slot A writes, then slot B. -/
theorem pairBody_of_writes (hlate : lateHazard (sopLocate s c a) (sopLocate s c b) xa ya xb yb = false) {ra rb : SRes}
    (hra : sopResult (sopLocate s c a) (s.core c).ctx xa ya = ra)
    (hrb : sopResult (sopLocate s c b) (s.core c).ctx xb yb = rb)
    (hca : sopCheck t2 c ra = .ok ()) (hcb : sopCheck t2 c rb = .ok ())
    (hwa : sopWrite c (sopLocate s c a) ra (sopPort t2 c ra).1 (sopPort (sopPort t2 c ra).2 c rb).2 = .ok ((), t3))
    (hwb : sopWrite c (sopLocate s c b) rb (sopPort (sopPort t2 c ra).2 c rb).1 t3 = .ok ((), t4)) :
    pairBody c a b s = .ok (Next.to (rb.target.map (BitVec.ofNat 64)), t4) := by
  subst hra hrb
  cases hpa : sopPort t2 c (sopResult (sopLocate s c a) (s.core c).ctx xa ya) with | mk va ta
  rw [hpa] at hwa hwb
  cases hpb : sopPort ta c (sopResult (sopLocate s c b) (s.core c).ctx xb yb) with | mk vb tb
  rw [hpb] at hwa hwb
  refine (if_neg (Bool.eq_false_iff.1 hearly)).trans <| (exceptBind_of_ok (inSlot_of_ok ha)).trans <|
    (exceptBind_of_ok (inSlot_of_ok hb)).trans <| (if_neg (Bool.eq_false_iff.1 hlate)).trans <|
    (exceptBind_of_ok (a := ((), t2)) (inSlot_of_ok ?_)).trans <|
    (exceptBind_of_ok (a := ((), t2)) (inSlot_of_ok ?_)).trans ?_
  · rw [hca]
    rfl
  · rw [hcb]
    rfl
  · simp only [hpa, hpb, inSlot_of_ok hwa]
    refine (exceptBind_of_ok rfl).trans ?_
    simp only [inSlot_of_ok hwb]
    cases (sopResult (sopLocate s c b) (s.core c).ctx xb yb).target <;> rfl

end

end

/-- Settles O14: the checks of a pair come in the order of R296, and past them its body ends as both operations have written. -/
theorem pairsExecuteBothOperations : Obligations.PairsExecuteBothOperations := by
  intro s t1 t2 t3 t4 c a b xa ya xb yb k oa ob nm bv ra rb word early late hruns hfetch hfmt
  have hpair := exec_iPair ⟨hruns, hfetch, hfmt⟩ a b
  refine ⟨fun hillegal => hpair.trans (congrArg Host.Outcome.next (if_pos hillegal)), fun hlegal hillegal => ?_,
    fun hlegal hlegal' => ?_⟩
  · exact hpair.trans (congrArg Host.Outcome.next ((if_neg ((Bool.not_eq_false _).mpr hlegal)).trans (if_pos hillegal)))
  · have hbody := hpair.trans (congrArg Host.Outcome.next
      ((if_neg ((Bool.not_eq_false _).mpr hlegal)).trans (if_neg ((Bool.not_eq_false _).mpr hlegal'))))
    refine ⟨fun hearly => ?_, fun hearly ha hb => ⟨fun hlate => ?_, fun hlate hca hcb => ?_⟩⟩
    · rw [hbody, pairBody_of_early hearly, State.pairEnds]
    · rw [hbody, pairBody_of_late hearly ha hb hlate]
      rfl
    · intro pa pb hwa hwb
      rw [hbody, pairBody_of_writes hearly ha hb hlate rfl rfl hca hcb hwa hwb, pairEnds_completes]

end Sys2Proof.Machine
end

section
/-! Rows that leave a result in their destination (groups 0, 1 and 2, R305 to R310; R289 step 5): with their sources read, their
bodies end in `putDest`. -/

namespace Sys2Proof.Machine

section
variable {i : Instr} {s t u : State} {c : Nat} {w : LongWord} {opc : Nat} {sizes : List Nat} {align : Bool} {l : Loc} {v : Nat}
  {fl : FlagSet}

/-- A row whose body, its sources read in `t`, ends in the write of its destination leaves the value and the flags of `mid`. -/
theorem leavesDest_of_body {d s1 s2 : Use} {extra : Bool} {body : CM Next} {mid : CM (Nat × FlagSet)}
    (hok : s.longOk c w sizes d s1 s2 false extra)
    (hexec : exec i s = .next (s.long c w ⟨opc, sizes, d, s1, s2, false⟩ extra body))
    (hbody : body s = putDest c align w.d w.z mid t) (hloc : locate c false w.d w.z t = .ok (l, u))
    (hdst : checkDest c align l w.z u = .ok ((), u)) (hmid : mid u = .ok ((v, fl), u)) :
    LeavesDest i s u c w align l w.z v fl := fun _ hput =>
  hexec.trans (congrArg Host.Outcome.next (long_completes hok opc (hbody.trans (putDest_of_ok hloc hdst hmid hput))))

/-- A row of one source leaves what `mid` makes of it. -/
theorem OneSource.leaves {u1 : Use} {a : Nat} {mid : Nat → CM (Nat × FlagSet)} (h : OneSource s u c w sizes u1 align a l)
    (hexec : exec i s = .next (s.long c w ⟨opc, sizes, .w, u1, .none, false⟩ true (do
      let a ← readSrc c false align w.s1 u1 w.z
      putDest c align w.d w.z (mid a))))
    (hmid : mid a u = .ok ((v, fl), u)) : LeavesDest i s u c w align l w.z v fl := by
  obtain ⟨t, ha, hloc⟩ := h.src
  exact leavesDest_of_body h.ok hexec (bind_of_ok ha) hloc h.dst hmid

/-- A row of two sources leaves what `mid` makes of them. -/
theorem TwoSources.leaves {u2 : Use} {a b : Nat} {mid : Nat → Nat → CM (Nat × FlagSet)}
    (h : TwoSources s u c w sizes u2 align a b l)
    (hexec : exec i s = .next (s.long c w ⟨opc, sizes, .w, .r, u2, false⟩ true (do
      let a ← readSrc c false align w.s1 .r w.z
      let b ← readSrc c false align w.s2 u2 w.z
      putDest c align w.d w.z (mid a b))))
    (hmid : mid a b u = .ok ((v, fl), u)) : LeavesDest i s u c w align l w.z v fl := by
  obtain ⟨t1, t2, ha, hb, hloc⟩ := h.src
  exact leavesDest_of_body h.ok hexec ((bind_of_ok ha).trans (bind_of_ok hb)) hloc h.dst hmid

/-- R306: LEA leaves the address of its source. -/
theorem leavesDest_iLea {m : W64} (hok : s.longOk c w szD .w .a .none false true)
    (hm : locate c false w.s1 8 s = .ok (.mem m, t)) (hloc : locate c false w.d w.z t = .ok (l, u))
    (hdst : checkDest c true l w.z u = .ok ((), u)) : LeavesDest (.iLea c w) s u c w true l w.z m.toNat {} := by
  have haddr : addrOf c w.s1 8 s = .ok (m, t) := bind_of_ok hm
  exact leavesDest_of_body hok rfl (bind_of_ok haddr) hloc hdst rfl

/-- R307: a division by a number other than 0 computes its result. -/
theorem divideMid_of_ne {b : Nat} (hb : b ≠ 0) (r : Nat × FlagSet) :
    (if b = 0 then raise { num := excDivide } else pure r : CM (Nat × FlagSet)) u = .ok (r, u) := by
  rw [if_neg hb]
  rfl

end

/-- Settles O1: each row of group 0 leaves its value, with no flag to set. -/
theorem moveAndConvertWriteTheirResult : Obligations.MoveAndConvertWriteTheirResult := by
  intro s u c w a b l
  exact ⟨fun h => h.leaves rfl rfl, -- MOV
    fun hok hloc hdst => leavesDest_of_body hok rfl rfl hloc hdst rfl, -- CLR
    fun m t hok hm hloc hdst => leavesDest_iLea hok hm hloc hdst,
    fun h => h.leaves rfl rfl, fun h => h.leaves rfl rfl, -- SEL, BSWAP
    fun h => ⟨h.leaves rfl rfl, h.leaves rfl rfl⟩, -- SEXB, ZEXB
    fun h => ⟨h.leaves rfl rfl, h.leaves rfl rfl⟩, -- SEXH, ZEXH
    fun h => ⟨h.leaves rfl rfl, h.leaves rfl rfl⟩⟩ -- SEXW, ZEXW

/-- Settles O2: each row of group 1 leaves its value and flags, the divisions where their divisor is not 0. -/
theorem arithmeticWritesResultAndFlags : Obligations.ArithmeticWritesResultAndFlags := by
  intro s u c w a b l n k top zn add sub does
  refine ⟨fun h => ?_, fun h => h.leaves rfl rfl⟩ -- NEG
  exact ⟨h.leaves rfl rfl, h.leaves rfl rfl, h.leaves rfl rfl, h.leaves rfl rfl, -- ADD, ADC, SUB, SBC
    h.leaves rfl rfl, h.leaves rfl rfl, h.leaves rfl rfl, -- MUL, MULHU, MULHS
    fun hb => ⟨h.leaves rfl (divideMid_of_ne hb _), h.leaves rfl (divideMid_of_ne hb _), -- DIVU, REMU
      h.leaves rfl (divideMid_of_ne hb _), h.leaves rfl (divideMid_of_ne hb _)⟩, -- DIVS, REMS
    h.leaves rfl rfl, h.leaves rfl rfl, h.leaves rfl rfl, h.leaves rfl rfl⟩ -- MINU, MAXU, MINS, MAXS

/-- Settles O3: each row of group 2 leaves its value and flags. -/
theorem logicAndShiftWriteResultAndFlags : Obligations.LogicAndShiftWriteResultAndFlags := by
  intro s u c w a b l n bit zn does lg sh
  exact ⟨fun h => ⟨h.leaves rfl rfl, h.leaves rfl rfl, h.leaves rfl rfl, h.leaves rfl rfl⟩, -- AND, OR, XOR, ANDN
    fun h => ⟨h.leaves rfl rfl, h.leaves rfl rfl, h.leaves rfl rfl, -- SHL, SHR, SAR
      h.leaves rfl rfl, h.leaves rfl rfl⟩, -- ROL, ROR
    fun h => ⟨h.leaves rfl rfl, h.leaves rfl rfl, h.leaves rfl rfl, h.leaves rfl rfl⟩⟩ -- NOT, POPC, CLZ, CTZ

end Sys2Proof.Machine
end

section
/-! Group 7 (R323 to R327): fields, big-endian data, varints, bounds and hash steps. -/

namespace Sys2Proof.Machine

section
variable {s t u : State} {c : Nat} {w : LongWord} {a b v : Nat} {l : Loc}

/-- R324: INS puts the field of its source between the other bits of its destination. -/
theorem completes_iIns {t1 t2 t3 : State} (hok : s.longOk c w szAll .m .r .rH false true)
    (hloc : locate c false w.d w.z s = .ok (l, t1)) (hv : readLoc c false false l w.z t1 = .ok (v, t2))
    (ha : readSrc c false false w.s1 .r w.z t2 = .ok (a, t3)) (hb : readSrc c false false w.s2 .rH w.z t3 = .ok (b, t))
    (hput : writeLoc c false l w.z (insVal (bitsOf w) v a b) t = .ok ((), u)) : Completes (.iIns c w) s u c w none :=
  congrArg Host.Outcome.next (long_completes hok _ ((bind_of_ok hloc).trans <| (bind_of_ok hv).trans <|
    (bind_of_ok ha).trans <| (bind_of_ok hb).trans <| bind_of_ok hput))

/-- A body that ends by setting C. -/
theorem putC_seq (c : Nat) (yes : Bool) (u : State) : (do putFlags c { c := some yes }; pure Next.seq : CM Next) u =
    .ok (Next.to none, u.modCtx c fun x => { x with c := yes }) := rfl

section
variable {lo hi : Nat} (hok : s.longOk c w szAll .none .r .bounds false true)
  (ha : readSrc c false false w.s1 .r w.z s = .ok (a, t)) (hb : readBounds c w.s2 w.z t = .ok ((lo, hi), u))
include hok ha hb

/-- R326: RNGU sets C where its source is within the bounds. -/
theorem completes_iRngu : Completes (.iRngu c w) s (u.modCtx c fun x => { x with c := lo ≤ a && a ≤ hi }) c w none :=
  congrArg Host.Outcome.next (long_completes hok _ ((bind_of_ok ha).trans <| (bind_of_ok hb).trans <| putC_seq ..))

/-- R326: RNGS compares as signed. -/
theorem completes_iRngs : Completes (.iRngs c w) s (u.modCtx c fun x => { x with
    c := sgn (bitsOf w) lo ≤ sgn (bitsOf w) a && sgn (bitsOf w) a ≤ sgn (bitsOf w) hi }) c w none :=
  congrArg Host.Outcome.next (long_completes hok _ ((bind_of_ok ha).trans <| (bind_of_ok hb).trans <| putC_seq ..))

end

/-- R327: HSTEP steps the state in its destination. -/
theorem completes_iHstep {t1 t2 : State} (hok : s.longOk c w szAll .md .r .none false true)
    (hloc : locate c false w.d 8 s = .ok (l, t1)) (hv : readLoc c false false l 8 t1 = .ok (v, t2))
    (ha : readSrc c false false w.s1 .r w.z t2 = .ok (a, t)) (hput : writeLoc c false l 8 (hstepVal v a) t = .ok ((), u)) :
    Completes (.iHstep c w) s u c w none :=
  congrArg Host.Outcome.next (long_completes hok _ ((bind_of_ok hloc).trans <| (bind_of_ok hv).trans <|
    (bind_of_ok ha).trans <| bind_of_ok hput))

/-! ## Varints (R325) -/

/-- The value a varint decodes to. -/
def varintVal (signed : Bool) (n v : Nat) : Nat := if signed then wrapInt n (zigzag v) else v

variable {signed : Bool}

/-- VDEC and VDECZ complete as their common body does. -/
theorem completes_iVdec (hok : s.longOk c w szAll .w .reg .none false (varintD w)) (hbody : varint c w signed s = .ok (.seq, u)) :
    Completes (if signed then .iVdecz c w else .iVdec c w) s u c w none := by
  cases signed <;> exact congrArg Host.Outcome.next (long_completes hok _ hbody)

/-- A failing encoding sets V. -/
theorem varint_of_none (h : varintLoop c (s.rega c w.s1.r) 10 0 0 s = .ok (none, t)) :
    varint c w signed s = .ok (.seq, t.modCtx c fun x => { x with v := true }) :=
  (bind_of_ok (a := s.rega c w.s1.r) rfl).trans (bind_of_ok h)

section
variable {k : Nat} (h : varintLoop c (s.rega c w.s1.r) 10 0 0 s = .ok (some (v, k), t))
include h

/-- A value too large sets V. -/
theorem varint_of_unfit (hfit : varintFits signed (bitsOf w) v = false) :
    varint c w signed s = .ok (.seq, t.modCtx c fun x => { x with v := true }) := by
  refine (bind_of_ok (a := s.rega c w.s1.r) rfl).trans ((bind_of_ok h).trans ?_)
  dsimp only
  rw [hfit]
  rfl

/-- A value that fits goes to the destination, and the register of the source goes past the encoding. -/
theorem varint_of_fit {t1 : State} (hfit : varintFits signed (bitsOf w) v = true)
    (hloc : locate c false w.d w.z t = .ok (l, t1))
    (hput : writeLoc c false l w.z (varintVal signed (bitsOf w) v) t1 = .ok ((), u)) :
    varint c w signed s = .ok (.seq, (u.setRega c w.s1.r (s.rega c w.s1.r + BitVec.ofNat 64 k)).modCtx c fun x =>
      { x with z := varintVal signed (bitsOf w) v = 0, v := false }) := by
  refine (bind_of_ok (a := s.rega c w.s1.r) rfl).trans ((bind_of_ok h).trans ?_)
  dsimp only
  rw [hfit]
  exact (bind_of_ok hloc).trans (bind_of_ok hput)

end

end

/-- Settles O6: each row of group 7 completes as its body says; VDEC and VDECZ share theirs. -/
theorem recordInstructionsWriteTheirResult : Obligations.RecordInstructionsWriteTheirResult := by
  intro s t u c w a b v l n pos len
  exact ⟨fun h => ⟨h.leaves rfl rfl, h.leaves rfl rfl⟩, -- EXTU, EXTS
    fun t1 t2 t3 => completes_iIns,
    fun h => ⟨h.leaves rfl rfl, h.leaves rfl rfl⟩, -- LDBE, STBE
    fun signed hok => ⟨fun h => completes_iVdec hok (varint_of_none h),
      fun k h => ⟨fun hfit => completes_iVdec hok (varint_of_unfit h hfit),
        fun hfit t1 hloc hput => completes_iVdec hok (varint_of_fit h hfit hloc hput)⟩⟩,
    fun lo hi hok ha hb => ⟨completes_iRngu hok ha hb, completes_iRngs hok ha hb⟩, fun t1 t2 => completes_iHstep⟩

end Sys2Proof.Machine
end

section
/-! Group 6 (R318 to R322, R332, R338): ports, special registers, waits, traps and the supervisor rows. -/

namespace Sys2Proof.Machine

theorem portCheck_of_find {s : State} {c p z : Nat} {op : PortOp} {r : PortReg} (h : portFind s c p z op = some r) :
    portCheck s c p z op = .ok r := by
  rw [portCheck, h]

section
variable {s t u : State} {c : Nat} {w : LongWord} {a v : Nat} {l : Loc} {r : PortReg}

/-- R319: IN checks its destination, then reads its port. -/
theorem leavesDest_iIn (hok : s.longOk c w szAll .w .rW .none false true) (ha : readSrc c false true w.s1 .rW 4 s = .ok (a, t))
    (hloc : locate c false w.d w.z t = .ok (l, u)) (hdst : checkDest c true l w.z u = .ok ((), u))
    (hport : portFind u c a w.z .inp = some r) : LeavesDest (.iIn c w) s u c w true l w.z (portIn u c r) {} :=
  leavesDest_of_body hok rfl (bind_of_ok ha) hloc hdst (exceptBind_of_ok (portCheck_of_find hport))

/-- R319: OUT reads its value, then writes its port. -/
theorem completes_iOut (hok : s.longOk c w szAll .none .rW .r false true) (ha : readSrc c false true w.s1 .rW 4 s = .ok (a, t))
    (hv : readSrc c false true w.s2 .r w.z t = .ok (v, u)) (hport : portFind u c a w.z .out = some r) :
    Completes (.iOut c w) s (portOut u c r v) c w none :=
  congrArg Host.Outcome.next (long_completes hok _ ((bind_of_ok ha).trans <| (bind_of_ok hv).trans <|
    exceptBind_of_ok (portCheck_of_find hport)))

/-- R319, R364: IOX writes to its destination what the exchange answers. -/
theorem completes_iIox {t1 t2 : State} (hok : s.longOk c w szAll .w .rW .r false true)
    (ha : readSrc c false true w.s1 .rW 4 s = .ok (a, t)) (hv : readSrc c false true w.s2 .r w.z t = .ok (v, t1))
    (hloc : locate c false w.d w.z t1 = .ok (l, t2)) (hdst : checkDest c true l w.z t2 = .ok ((), t2))
    (hport : portFind t2 c a w.z .iox = some r)
    (hput : writeLoc c true l w.z (portIox t2 c r).1 (portIox t2 c r).2 = .ok ((), u)) :
    Completes (.iIox c w) s u c w none := by
  refine congrArg Host.Outcome.next (long_completes hok _ ((bind_of_ok ha).trans <| (bind_of_ok hv).trans <|
    (bind_of_ok hloc).trans <| (bind_of_ok hdst).trans <| (exceptBind_of_ok (portCheck_of_find hport)).trans ?_))
  dsimp only
  rw [hput]
  rfl

/-- R320: MTS writes the special register of its number. -/
theorem completes_iMts {x : W64} {k : Nat} {t : State} (hok : s.longOk c w szD .none .r .n false (w.s2.f.toNat ≤ 5))
    (hx : readSrc c false true w.s1 .r w.z s = .ok (x.toNat, u)) (hk : w.s2.f.toNat = k)
    (hset : specialSet c k x u = .ok (.seq, t)) : Completes (.iMts c w) s t c w none := by
  have hword : specialSet c w.s2.f.toNat (BitVec.ofNat 64 x.toNat) u = .ok (.seq, t) := by
    rwa [hk, BitVec.ofNat_toNat, BitVec.setWidth_eq]
  exact congrArg Host.Outcome.next (long_completes hok _ ((bind_of_ok hx).trans hword))

section
variable (hok : s.longOk c w szH .none .rH .none false true) (ha : readSrc c false true w.s1 .rH 2 s = .ok (a, u))
include hok ha

/-- R322: WAITB passes on once its bit reads 1. -/
theorem completes_iWaitb_of_set (hbit : (u.core c).ctx.bit a = true) : Completes (.iWaitb c w) s u c w none :=
  congrArg Host.Outcome.next (long_completes hok _ ((exceptBind_of_ok ha).trans (congrArg Except.ok (if_pos hbit))))

/-- R322: until then WAITB leaves everything as it stood. -/
theorem exec_iWaitb_of_clear (hbit : (u.core c).ctx.bit a = false) : exec (.iWaitb c w) s = .next s :=
  congrArg Host.Outcome.next (long_stays hok _ ((exceptBind_of_ok ha).trans
    (congrArg Except.ok (if_neg (Bool.eq_false_iff.1 hbit)))))

end

/-- R318: TRAP raises Trap with its source as the code. -/
theorem exec_iTrap (hok : s.longOk c w szB .none .rB .none false true) (hv : readSrc c false true w.s1 .rB w.z s = .ok (v, u)) :
    exec (.iTrap c w) s = .next (s.takeSync c { num := 12, code := v } w.len (longWord (opcOf 6 0x14) w)) :=
  congrArg Host.Outcome.next (long_raises hok _ (bind_of_ok hv))

/-- R321: IST writes one aligned word of the forge's instruction store. -/
theorem completes_iIst (hok : s.longOk c w szD .none .rD .r true true) (ha : readSrc c false true w.s1 .rD w.z s = .ok (a, t))
    (hv : readSrc c false true w.s2 .r w.z t = .ok (v, u)) (halign : a % 8 = 0) (hstore : a < 0x100000) :
    Completes (.iIst c w) s (u.setForge (c / 9)
      { u.forge (c / 9) with istore := Mem.write (u.forge (c / 9)).istore a (leBytes 8 v) }) c w none := by
  have hgood : ¬(a % 8 ≠ 0 ∨ 0x100000 ≤ a) := by omega
  exact congrArg Host.Outcome.next (long_completes hok _ ((bind_of_ok ha).trans <| (bind_of_ok hv).trans <| if_neg hgood))

end

/-- R281: writing ST raises no Privilege in supervisor mode, nor where it asks for user mode. -/
theorem specialSet_st {c : Nat} {x : W64} {u : State} (h : (u.core c).sup = true ∨ x.getLsbD 0 = false) :
    specialSet c 5 x u = .ok (.seq, (u.modCtx c fun k => { k with regs := { k.regs with dir := x.getLsbD 2 } }).modCore c
      fun k => { k with sup := x.getLsbD 0 }) := by
  refine if_neg (Bool.eq_false_iff.1 ?_)
  rcases h with hsup | hbit
  · rw [hsup, Bool.not_true, Bool.false_and]
  · rw [hbit, Bool.and_false]

/-- Settles O7: each row of group 6 completes as its body says, or raises its trap. -/
theorem systemInstructionsHaveTheirEffect : Obligations.SystemInstructionsHaveTheirEffect := by
  intro s t u c w a v l r special regs n
  have hspecial {k : Core} {m : Nat} {x : W64} (h : special k m = some x) : specialGet k m = x := by
    dsimp only [special] at h
    split at h <;> cases h <;> rfl
  refine ⟨leavesDest_iIn, completes_iOut, fun t1 t2 => completes_iIox, fun x hok hloc hdst hx => ?_, fun x hok hx => ?_,
    fun hok ha => ⟨completes_iWaitb_of_set hok ha, exec_iWaitb_of_clear hok ha⟩, fun hok hv => ⟨_, exec_iTrap hok hv⟩,
    fun hok => ⟨_, congrArg Host.Outcome.next (long_raises hok _ rfl)⟩, completes_iIst,
    fun hok => congrArg Host.Outcome.next (long_stays hok _ rfl),
    fun hok => ⟨congrArg Host.Outcome.next (long_completes hok _ rfl), congrArg Host.Outcome.next (long_completes hok _ rfl)⟩⟩
  · -- MFS
    obtain rfl := hspecial hx
    exact leavesDest_of_body hok rfl rfl hloc hdst rfl
  · -- MTS
    exact ⟨fun hn => completes_iMts hok hx hn rfl, fun hn => completes_iMts hok hx hn rfl,
      fun hn => completes_iMts hok hx hn rfl, fun hn => completes_iMts hok hx hn rfl, fun hn => completes_iMts hok hx hn rfl,
      fun hn hst => completes_iMts hok hx hn (specialSet_st hst)⟩

end Sys2Proof.Machine
end

section
/-! String instructions with a condition (R297, R314, R315): elements one after another, up to the one that meets it. -/

namespace Sys2Proof.Machine

/-! ## The ends of a scan -/

/-- `r` is what an element that meets the condition does: it stops, with BX.STOP at `stop`. -/
def IsStop (c : Nat) (elem : CM Bool) (stop : BitVec 2) (r : State → State → Prop) : Prop :=
  ∀ x y, r x y → elem x = .ok (true, y.modRegs c fun k => { k with stop := stop })

section
variable {c : Nat} {elem : CM Bool} {limit n : Nat} {u t : State}

/-- An interruption between two elements is the same for a scan. -/
theorem scanBody_of_stay (h : strBody c limit false elem u = .ok (.stay, t)) : strBody c limit true elem u = .ok (.stay, t) := by
  unfold strBody at h ⊢
  dsimp only at h ⊢
  cases hloop : strLoop c elem (min limit (u.core c).ctx.regs.bc.toNat) u with
  | done x stopped => rw [hloop] at h; cases h
  | more x => rw [hloop] at h; exact h
  | fault e x => rw [hloop] at h; cases h

variable {r : State → State → Prop} (hr : IsElement c elem r)
include hr

/-- With BC run out, BX.STOP is 00b, unless there was no element. -/
theorem scanBody_of_all (hsteps : Steps r n u t) (hcount : (u.core c).ctx.regs.bc.toNat = n) (hle : n ≤ limit) :
    strBody c limit true elem u = .ok (.seq, if n = 0 then u else t.modRegs c fun k => { k with stop := 0 }) := by
  obtain ⟨hloop, hleft⟩ := strLoop_steps hr 0 hsteps (Nat.le_of_eq hcount.symm)
  have hzero (x : State) : (x.core c).ctx.regs.bc = 0 ↔ (x.core c).ctx.regs.bc.toNat = 0 := BitVec.toNat_eq
  have hall : strLoop c elem n u = .done t false := by
    rw [← Nat.add_zero n, hloop, strLoop, if_pos ((hzero t).2 (by omega))]
  unfold strBody
  dsimp only
  rw [hcount, Nat.min_eq_right hle, hall]
  simp only [Bool.not_false, Bool.true_and, decide_eq_true_eq, ne_eq, hzero, hcount]
  by_cases hn : n = 0
  · subst hn
    obtain rfl : t = u := hsteps
    rfl
  · simp only [hn, not_false_eq_true, if_true, if_false]

/-- An element that meets the condition, before an interruption, is the last. -/
theorem scanBody_of_stop {stop : BitVec 2} {stops : State → State → Prop} (hstop : IsStop c elem stop stops) {t' : State}
    (hsteps : Steps r n u t) (hlast : stops t t') (hcount : n < (u.core c).ctx.regs.bc.toNat) (hlt : n < limit) :
    strBody c limit true elem u = .ok (.seq, t'.modRegs c fun k => { k with stop := stop }) := by
  obtain ⟨m, hm⟩ : ∃ m, min limit (u.core c).ctx.regs.bc.toNat = n + (m + 1) :=
    ⟨min limit (u.core c).ctx.regs.bc.toNat - n - 1, by omega⟩
  obtain ⟨hloop, hleft⟩ := strLoop_steps hr (m + 1) hsteps (Nat.le_of_lt hcount)
  have hne : (t.core c).ctx.regs.bc ≠ 0 := fun h => by
    have hzero : (t.core c).ctx.regs.bc.toNat = 0 := congrArg BitVec.toNat h
    omega
  unfold strBody
  dsimp only
  rw [hm, hloop, strLoop, if_neg hne]
  simp only [hstop t t' hlast]
  rfl

/-- A row whose body, its source read, is such elements completes with BC run out or at the element that meets the condition, and
stops at the limit with its pc unmoved. -/
theorem scan_ends {stop : BitVec 2} {stops : State → State → Prop} (hstop : IsStop c elem stop stops) {i : Instr} {s t' : State}
    {w : LongWord} {opc : Nat} {sizes : List Nat} {d s1 s2 : Use} {extra : Bool} {body : CM Next}
    (hok : s.longOk c w sizes d s1 s2 false extra)
    (hexec : exec i s = .next (s.long c w ⟨opc, sizes, d, s1, s2, false⟩ extra body))
    (hbody : body s = strBody c limit true elem u) :
    (Steps r n u t → (u.core c).ctx.regs.bc.toNat = n → n ≤ limit →
      Completes i s (if n = 0 then u else t.modRegs c fun k => { k with stop := 0 }) c w none)
    ∧ (Steps r n u t → stops t t' → n < (u.core c).ctx.regs.bc.toNat → n < limit →
      Completes i s (t'.modRegs c fun k => { k with stop := stop }) c w none)
    ∧ (Steps r limit u t → limit < (u.core c).ctx.regs.bc.toNat → exec i s = .next t) := by
  have completes {x : State} (h : strBody c limit true elem u = .ok (.seq, x)) : Completes i s x c w none :=
    hexec.trans (congrArg Host.Outcome.next (long_completes hok opc (hbody.trans h)))
  exact ⟨fun hsteps hcount hle => completes (scanBody_of_all hr hsteps hcount hle),
    fun hsteps hlast hcount hlt => completes (scanBody_of_stop hr hstop hsteps hlast hcount hlt),
    fun hsteps hlt => hexec.trans (congrArg Host.Outcome.next (long_stays hok opc
      (hbody.trans (scanBody_of_stay (strBody_of_limit hr hsteps hlt)))))⟩

end

/-! ## What one element of each row does -/

/-- The element of CMPS whose sources are equal, or are not (R314). -/
def CmpsElement (c z : Nat) (eq : Bool) (x y : State) : Prop :=
  let g := (x.core c).ctx.regs
  ∃ a b x1 x2, memRead c true false g.bs z x = .ok (a, x1) ∧ memRead c true false g.bd z x1 = .ok (b, x2)
    ∧ decide (leNat a = leNat b) = eq
    ∧ y = (x2.modCtx c fun k => k.setFlags (subFlags (8 * z) (leNat a) (leNat b) 0)).modRegs c fun k => { k with
        bc := g.bc - 1, bs := strMove g z g.bs, bd := strMove g z g.bd }

/-- The element of SCANS and SCANSN that equals the value sought, or does not (R314). -/
def ScanElement (c z v : Nat) (eq : Bool) (x y : State) : Prop :=
  let g := (x.core c).ctx.regs
  ∃ a x1, memRead c true false g.bs z x = .ok (a, x1) ∧ decide (leNat a = v) = eq
    ∧ y = (x1.modCtx c fun k => k.setFlags (subFlags (8 * z) (leNat a) v 0)).modRegs c fun k => { k with
        bc := g.bc - 1, bs := strMove g z g.bs }

/-- R297 steps 2 and 3, once the accesses of an element have been made and its flags set. -/
theorem strStep_of_flags {c : Nat} {x t : State} (h : AccessOnly c x t) (fl : FlagSet) (z : Nat) (src dst : Bool) :
    strStep c z src dst (t.modCtx c fun k => k.setFlags fl) = .ok ((), (t.modCtx c fun k => k.setFlags fl).modRegs c fun k =>
      let g := (x.core c).ctx.regs
      { k with
        bc := g.bc - 1
        bs := if src then strMove g z g.bs else k.bs
        bd := if dst then strMove g z g.bd else k.bd }) := by
  have hregs : ((t.modCtx c fun k => k.setFlags fl).core c).ctx.regs = (x.core c).ctx.regs :=
    (congrArg (·.ctx.regs) (core_modCtx ..)).trans h.regs
  refine congrArg (fun u => Except.ok ((), u)) (modRegs_congr ?_)
  rw [← hregs]

/-- The end of an element: where the condition `p` holds, it is the last, and BX.STOP is set. -/
def stopWhen (c : Nat) (stop : BitVec 2) (p : Prop) [Decidable p] : CM Bool :=
  if p then do
    setStop c stop
    pure true
  else pure false

theorem stopWhen_apply (c : Nat) (stop : BitVec 2) (p : Prop) [Decidable p] (y : State) : stopWhen c stop p y =
    .ok (decide p, if p then y.modRegs c fun k => { k with stop := stop } else y) := by
  unfold stopWhen
  split
  next h => rw [decide_eq_true h]; rfl
  next h => rw [decide_eq_false h]; rfl

/-- What CMPS does with one element. -/
def cmpsElem (c : Nat) (w : LongWord) : CM Bool := do
  let g ← getRegs c
  let a ← memRead c true false g.bs w.z
  let b ← memRead c true false g.bd w.z
  putFlags c (subFlags (bitsOf w) (leNat a) (leNat b) 0)
  strStep c w.z true true
  stopWhen c 2 (leNat a ≠ leNat b)

/-- What SCANS and SCANSN do with one element, where they stop on `p`. -/
def scanElem (c : Nat) (w : LongWord) (v : Nat) (stop : BitVec 2) (p : Nat → Prop) [DecidablePred p] : CM Bool := do
  let g ← getRegs c
  let a ← memRead c true false g.bs w.z
  putFlags c (subFlags (bitsOf w) (leNat a) v 0)
  strStep c w.z true false
  stopWhen c stop (p (leNat a))

section
variable {c v : Nat} {w : LongWord} {x y : State} {eq : Bool}

theorem cmpsElem_of_element (h : CmpsElement c w.z eq x y) :
    cmpsElem c w x = .ok (!eq, if eq then y else y.modRegs c fun k => { k with stop := 2 }) := by
  obtain ⟨a, b, x1, x2, ha, hb, rfl, rfl⟩ := h
  refine (bind_of_ok (a := (x.core c).ctx.regs) rfl).trans <| (bind_of_ok ha).trans <| (bind_of_ok hb).trans <|
    (bind_of_ok rfl).trans <| (bind_of_ok (strStep_of_flags ((memRead_only ha).trans (memRead_only hb)) _ w.z true true)).trans <|
    (stopWhen_apply ..).trans ?_
  by_cases heq : leNat a = leNat b <;> simp [heq, bitsOf]

theorem scanElem_of_element {p : Nat → Prop} [DecidablePred p] (stop : BitVec 2) {on : Bool}
    (hp : ∀ a, p a ↔ decide (a = v) = on) (h : ScanElement c w.z v eq x y) : scanElem c w v stop p x =
      .ok (eq == on, if eq = on then y.modRegs c fun k => { k with stop := stop } else y) := by
  obtain ⟨a, x1, ha, rfl, rfl⟩ := h
  refine (bind_of_ok (a := (x.core c).ctx.regs) rfl).trans <| (bind_of_ok ha).trans <|
    (bind_of_ok rfl).trans <| (bind_of_ok (strStep_of_flags (memRead_only ha) _ w.z true false)).trans <|
    (stopWhen_apply ..).trans ?_
  simp only [hp]
  rfl

end

theorem isElement_cmps (c : Nat) (w : LongWord) : IsElement c (cmpsElem c w) (CmpsElement c w.z true) := fun x y h =>
  ⟨cmpsElem_of_element h, by
    obtain ⟨a, b, x1, x2, -, -, -, rfl⟩ := h
    exact congrArg Regs.bc (regs_modRegs ..)⟩

theorem isStop_cmps (c : Nat) (w : LongWord) : IsStop c (cmpsElem c w) 2 (CmpsElement c w.z false) := fun _ _ =>
  cmpsElem_of_element

section
variable {v : Nat} {p : Nat → Prop} [DecidablePred p] (c : Nat) (w : LongWord) (stop : BitVec 2) {on : Bool}
  (hp : ∀ a, p a ↔ decide (a = v) = on)
include hp

theorem isElement_scan : IsElement c (scanElem c w v stop p) (ScanElement c w.z v !on) := fun x y h => by
  refine ⟨?_, ?_⟩
  · rw [scanElem_of_element stop hp h]
    cases on <;> rfl
  · obtain ⟨a, x1, -, -, rfl⟩ := h
    exact congrArg Regs.bc (regs_modRegs ..)

theorem isStop_scan : IsStop c (scanElem c w v stop p) stop (ScanElement c w.z v on) := fun x y h => by
  rw [scanElem_of_element stop hp h, if_pos rfl, beq_self_eq_true]

end

/-- Settles O12: the body of each row is its element over and over, up to the one that meets the condition. -/
theorem blockComparesAndScansStopAtTheirElement : Obligations.BlockComparesAndScansStopAtTheirElement := by
  intro s t t' u c w limit n v g move go
  refine ⟨fun hok => scan_ends (isElement_cmps c w) (isStop_cmps c w) hok rfl rfl, fun hok hv => ⟨?_, ?_⟩⟩
  · have hp (a : Nat) : a = v ↔ decide (a = v) = true := decide_eq_true_iff.symm
    exact scan_ends (isElement_scan c w 1 hp) (isStop_scan c w 1 hp) hok rfl (bind_of_ok hv)
  · have hp (a : Nat) : a ≠ v ↔ decide (a = v) = false := decide_eq_false_iff_not.symm
    exact scan_ends (isElement_scan c w 2 hp) (isStop_scan c w 2 hp) hok rfl (bind_of_ok hv)

end Sys2Proof.Machine
end

section
/-! Short operations (R328): what each writes, and where it transfers. -/

namespace Sys2Proof.Machine

/-- R328: BF goes where its bit is clear. -/
theorem sopResult_bf {o : SOp} (ho : o.op = 0x59) (k : Ctx) (x y : Nat) :
    sopResult o k x y = { target := if !k.bit (x % 65536) then some y else none } := by
  simp only [sopResult, ho]
  cases k.bit (x % 65536) <;> rfl

/-- Settles O15: the table is the model's row by row. BF (59h), whose case is written the other way round there, has its lemma,
and the statement says nothing of an opcode that is in no row. -/
theorem shortOperationsComputeTheirTable : Obligations.ShortOperationsComputeTheirTable := by
  intro ⟨op, ux, uy, ox, oy, lx, ly⟩ k x y r writes sets goes bx b_y
  dsimp only
  split
  case h_42 => exact sopResult_bf rfl k x y
  case h_47 => trivial
  all_goals rfl

end Sys2Proof.Machine
end

section
/-! The operand cache of a core (R349 to R352): what writing back and invalidating an entry leave of it, and group 6's rows that
maintain it. -/

namespace Sys2Proof.Machine

/-! ## One entry written back or invalidated -/

theorem Tbl.get?_del_ne {α : Type} (t : Tbl α) {n m : Nat} (h : n ≠ m) : Tbl.get? (Tbl.del t n) m = Tbl.get? t m := by
  induction t with
  | nil => rfl
  | cons p t ih =>
    obtain ⟨k, v⟩ := p
    rw [Tbl.del]
    split
    next hk => rw [Tbl.get?, if_neg (hk ▸ h)]
    next => simp only [Tbl.get?, ih]

theorem oc_modOc (s : State) (c : Nat) (f : OpCache → OpCache) : ((s.modOc c f).core c).oc = f (s.core c).oc :=
  congrArg Core.oc (core_mod ..)

section
variable (s : State) (c : Nat)

/-- A write past the cache leaves the cache: in the bench it is to the same core, elsewhere to none. -/
theorem oc_rawWrite (p : Place) (bs : List Byte) : ((s.rawWrite c p bs).core c).oc = (s.core c).oc := by
  cases p with
  | bench o => rw [State.rawWrite, core_modCtx]
  | cluster o => rfl
  | loc sl o => rfl
  | host sl i =>
    have hwritten : (s.hostWrite sl i (Data.ofBytes bs)).core c = s.core c :=
      (hostWrite_only (c := c + 1) sl i (Data.ofBytes bs)).other c (by omega)
    simp only [State.rawWrite, State.core, State.meterUp_cpu] at hwritten ⊢
    rw [hwritten]

theorem oc_writeWords (l : CacheLine) (ks : List Nat) : ((s.writeWords c l ks).core c).oc = (s.core c).oc := by
  induction ks generalizing s with
  | nil => rfl
  | cons k ks ih =>
    rw [State.writeWords, ih]
    split
    · split
      · exact oc_rawWrite ..
      · rfl
    · rfl

theorem writeBack_of_absent {i : Nat} (h : Tbl.get? (s.core c).oc.lines i = none) : s.writeBack c i = s := by
  rw [State.writeBack, h]

/-- R349, R352: an entry written back is clean, and its mark of a lost word is gone. -/
theorem oc_writeBack_of_line {i : Nat} {l : CacheLine} (h : Tbl.get? (s.core c).oc.lines i = some l) :
    ((s.writeBack c i).core c).oc = { (s.core c).oc with
      lines := Tbl.set (s.core c).oc.lines i { l with dirty := 0 }, lost := delNat i (s.core c).oc.lost
      wberr := (s.core c).oc.wberr || ((s.core c).oc.lost.contains i && l.dirty ≠ 0) } := by
  rw [State.writeBack, h]
  dsimp only
  rw [oc_modOc]
  split
  · rfl
  · rw [oc_writeWords]

theorem line_writeBack_ne {i j : Nat} (hne : i ≠ j) :
    Tbl.get? ((s.writeBack c i).core c).oc.lines j = Tbl.get? (s.core c).oc.lines j := by
  cases h : Tbl.get? (s.core c).oc.lines i with
  | none => rw [writeBack_of_absent s c h]
  | some l =>
    rw [oc_writeBack_of_line s c h]
    exact Tbl.get?_set_ne _ _ hne

theorem lost_writeBack {i : Nat} (hlost : (s.core c).oc.lost = []) : ((s.writeBack c i).core c).oc.lost = [] := by
  cases h : Tbl.get? (s.core c).oc.lines i with
  | none => rwa [writeBack_of_absent s c h]
  | some l =>
    rw [oc_writeBack_of_line s c h, hlost]
    rfl

theorem line_invalidate_ne {i j : Nat} (hne : i ≠ j) :
    Tbl.get? ((s.invalidate c i).core c).oc.lines j = Tbl.get? (s.core c).oc.lines j := by
  rw [State.invalidate, oc_modOc]
  exact Tbl.get?_del_ne _ hne

theorem lost_invalidate {i : Nat} (hlost : (s.core c).oc.lost = []) : ((s.invalidate c i).core c).oc.lost = [] := by
  rw [State.invalidate, oc_modOc, hlost]
  rfl

end

/-! ## Maintenance of one entry -/

/-- What maintenance leaves of an entry whose words can be written back (R350). -/
def State.maintain (c : Nat) (wb inv : Bool) (x : State) (i : Nat) : State :=
  let y := if wb then x.writeBack c i else x
  if inv then y.invalidate c i else y

/-- Maintenance of each valid entry of a list, as OCALL does it. -/
def State.maintainValid (c : Nat) (wb inv : Bool) (x : State) (i : Nat) : State :=
  if Tbl.get? (x.core c).oc.lines i = none then x else x.maintain c wb inv i

section
variable {c i : Nat} {u : State} {l : CacheLine}

theorem ocEntry_of_good (hline : Tbl.get? (u.core c).oc.lines i = some l) (wb inv : Bool)
    (hgood : wb = false ∨ (u.core c).oc.lost.contains i = false ∨ l.dirty = 0) :
    ocEntry c i wb inv u = .ok ((), u.maintain c wb inv i) := by
  have hsafe : (wb && (u.core c).oc.lost.contains i && l.dirty ≠ 0) = false := by
    rcases hgood with h | h | h
    · rw [h, Bool.false_and, Bool.false_and]
    · rw [h, Bool.and_false, Bool.false_and]
    · rw [decide_eq_false (not_not_intro h), Bool.and_false]
  rw [ocEntry, hline]
  exact if_neg (Bool.eq_false_iff.1 hsafe)

/-- R352: a lost dirty word is not written back. -/
theorem ocEntry_of_lost (hline : Tbl.get? (u.core c).oc.lines i = some l) (inv : Bool)
    (hlost : (u.core c).oc.lost.contains i = true) (hdirty : l.dirty ≠ 0) :
    ocEntry c i true inv u = .error { num := 9, addr := BitVec.ofNat 64 l.addr } := by
  rw [ocEntry, hline, hlost]
  exact if_pos (decide_eq_true hdirty)

theorem lost_maintainValid (wb inv : Bool) (hlost : (u.core c).oc.lost = []) :
    ((u.maintainValid c wb inv i).core c).oc.lost = [] := by
  have hback : ((if wb then u.writeBack c i else u).core c).oc.lost = [] := by
    cases wb
    · exact hlost
    · exact lost_writeBack u c hlost
  unfold State.maintainValid State.maintain
  split
  · exact hlost
  · cases inv
    · exact hback
    · exact lost_invalidate _ c hback

theorem ocEntry_of_nothing_lost (wb inv : Bool) (hlost : (u.core c).oc.lost = []) :
    ocEntry c i wb inv u = .ok ((), u.maintainValid c wb inv i) := by
  unfold State.maintainValid
  split
  next h => rw [ocEntry, h]
  next h =>
    obtain ⟨l, hline⟩ := Option.ne_none_iff_exists'.1 h
    exact ocEntry_of_good hline wb inv (.inr (.inl (by rw [hlost]; rfl)))

/-- R350: with no word lost, OCALL's action goes from entry to entry. -/
theorem ocEach_of_nothing_lost (wb inv : Bool) (is : List Nat) (hlost : (u.core c).oc.lost = []) :
    ocEach c wb inv is u = .ok ((), is.foldl (State.maintainValid c wb inv) u) := by
  induction is generalizing u with
  | nil => rfl
  | cons i is ih =>
    exact (bind_of_ok (ocEntry_of_nothing_lost wb inv hlost)).trans (ih (lost_maintainValid wb inv hlost))

end

/-! ## Rows -/

section
variable {s u : State} {c i : Nat} {w : LongWord} {m : W64} {l : CacheLine} (hloc : locate c false w.s1 8 s = .ok (.mem m, u))
include hloc

theorem ocLine_of_unreached (wb inv : Bool) (h : (u.core c).oc.find m.toNat = none
    ∨ ((u.core c).oc.find m.toNat = some (i, l) ∧ (Core.reach (u.core c)).getLsbD i = false)) :
    ocLine c w wb inv s = .ok (.seq, u) := by
  have haddr : addrOf c w.s1 8 s = .ok (m, u) := bind_of_ok hloc
  refine (bind_of_ok haddr).trans ?_
  rcases h with hnone | ⟨hfind, hout⟩
  · rw [hnone]
  · rw [hfind]
    exact if_neg (Bool.eq_false_iff.1 hout)

/-- The line that holds the address is maintained in its entry. -/
theorem ocLine_of_reached (wb inv : Bool) (hfind : (u.core c).oc.find m.toNat = some (i, l))
    (hreach : (Core.reach (u.core c)).getLsbD i = true) {r : Except Exc (Unit × State)} (hentry : ocEntry c i wb inv u = r) :
    ocLine c w wb inv s = r.map fun x => (.seq, x.2) := by
  have haddr : addrOf c w.s1 8 s = .ok (m, u) := bind_of_ok hloc
  refine (bind_of_ok haddr).trans ?_
  rw [hfind, ← hentry]
  exact if_pos hreach

end

/-- R350: OCALL maintains every valid entry that its core reaches. -/
theorem completes_iOcall {s : State} {c : Nat} {w : LongWord}
    (hok : s.longOk c w szD .none .n .none false (w.s1.f.toNat ≤ 2)) (hlost : (s.core c).oc.lost = []) :
    Completes (.iOcall c w) s ((maskEntries (s.core c).reach).foldl
      (State.maintainValid c (w.s1.f.toNat ≠ 1) (w.s1.f.toNat ≠ 0)) s) c w none :=
  congrArg Host.Outcome.next (long_completes hok _ (bind_of_ok (ocEach_of_nothing_lost _ _ _ hlost)))

/-- The action of OCALL, by its selector. -/
theorem maintainValid_selector (c : Nat) (x : State) (i : Nat) (f : BitVec 10) :
    x.maintainValid c (f.toNat ≠ 1) (f.toNat ≠ 0) i =
      if Tbl.get? (x.core c).oc.lines i = none then x
      else if f = 0 then x.writeBack c i
      else if f = 1 then x.invalidate c i
      else (x.writeBack c i).invalidate c i := by
  unfold State.maintainValid State.maintain
  by_cases hzero : f = 0
  · subst hzero
    rfl
  · have hzero' : f.toNat ≠ 0 := fun h => hzero (by bv_omega)
    by_cases hone : f = 1
    · subst hone
      rfl
    · have hone' : f.toNat ≠ 1 := fun h => hone (by bv_omega)
      simp only [hzero, hone, hzero', hone', ne_eq, not_false_eq_true, decide_true, if_true, if_false]

/-- Settles O13: a row acts on its line through `ocEntry`, and OCALL on each entry in turn, where no word can be lost. -/
theorem cacheInstructionsActOnReachedEntries : Obligations.CacheInstructionsActOnReachedEntries := by
  intro s u c w m i l k
  refine ⟨fun hok hloc => ⟨fun hout => ?_, fun hfind hline hreach => ⟨?_, fun hgood => ?_, fun hlost hdirty => ?_⟩⟩,
    fun hok hlost => ?_⟩
  · have hbody (wb inv : Bool) := ocLine_of_unreached hloc wb inv hout
    exact ⟨congrArg Host.Outcome.next (long_completes hok _ (hbody true false)),
      congrArg Host.Outcome.next (long_completes hok _ (hbody false true)),
      congrArg Host.Outcome.next (long_completes hok _ (hbody true true))⟩
  · have hbody := ocLine_of_reached hloc false true hfind hreach (ocEntry_of_good hline false true (.inl rfl))
    exact congrArg Host.Outcome.next (long_completes hok _ hbody)
  · have hbody (inv : Bool) := ocLine_of_reached hloc true inv hfind hreach (ocEntry_of_good hline true inv (.inr hgood))
    exact ⟨congrArg Host.Outcome.next (long_completes hok _ (hbody false)),
      congrArg Host.Outcome.next (long_completes hok _ (hbody true))⟩
  · have hbody (inv : Bool) := ocLine_of_reached hloc true inv hfind hreach (ocEntry_of_lost hline inv hlost hdirty)
    exact ⟨_, _, congrArg Host.Outcome.next (long_raises hok _ (hbody false)),
      congrArg Host.Outcome.next (long_raises hok _ (hbody true))⟩
  · intro act
    have hact : State.maintainValid c (w.s1.f.toNat ≠ 1) (w.s1.f.toNat ≠ 0) = act := by
      funext x j
      exact maintainValid_selector c x j w.s1.f
    rw [← hact]
    exact completes_iOcall hok hlost

end Sys2Proof.Machine
end

section
/-! Synchronous exceptions (R331, R333) and their delivery to a handler of the billet (R339, R340). -/

namespace Sys2Proof.Machine

section
variable {s : State} {c : Nat} {e : Exc} (hstands : e.stands = none)
include hstands

/-- R333: a core that takes an exception with EXL 1 stops. -/
theorem takeSync_of_exl (hexl : (s.core c).ctl.exl = true) (len : Nat) (word : W64) :
    s.takeSync c e len word = s.modCore c fun k => { k with stopped := true } := by
  simp only [State.takeSync, hstands, Option.getD_none, hexl, if_true]

/-- R331: out of a run an exception is only entered. -/
theorem takeSync_of_entry (hexl : (s.core c).ctl.exl = false) (h : (s.core c).sup = true ∨ (s.core c).run = none)
    (len : Nat) (word : W64) : s.takeSync c e len word = s.enterExc c e := by
  simp only [State.takeSync, hstands, Option.getD_none, hexl, Bool.false_eq_true, if_false]
  rcases h with hsup | hrun
  · exact if_pos hsup
  · rw [hrun, ite_self]

end

/-- R283: a word that no row names raises Illegal Instruction. -/
theorem exec_illegalOpcode {s : State} {c : Nat} (hruns : s.coreRuns c = true)
    (hfetch : fetchFault s c (s.core c).ctx.pc = none) (word : W64) :
    exec (.illegalOpcode c word) s = .next (s.takeSync c { num := 1 } 8 word) := by
  refine congrArg Host.Outcome.next ?_
  rw [hruns, hfetch]
  rfl

/-- Settles O16: `takeSync` stops the core or enters the exception, and an illegal word takes it. -/
theorem synchronousExceptionsAreEntered : Obligations.SynchronousExceptionsAreEntered := by
  intro s c len word e hstands
  exact ⟨fun hexl => takeSync_of_exl hstands hexl len word, fun hexl h => takeSync_of_entry hstands hexl h len word,
    fun hruns hfetch => exec_illegalOpcode hruns hfetch word⟩

/-! ## Delivery -/

/-- R248, R339: an exception that the billet handles is delivered when its frame fits the bench. -/
theorem runtimeTakes_of_handled {s : State} {c i h : Nat} {r : Run} {k : Core} {e : Exc} (hidle : r.handler = false)
    (hdata : ¬(e.num = 3 ∧ (e.ispace = true ∨ 0x40000 ≤ e.addr.toNat))) (hh : (s.billetOf r).handler e.num = some h)
    (hlow : 160 ≤ (k.ctx.regs.geta 7).toNat) (halign : ((k.ctx.regs.geta 7).toNat - 160) % 8 = 0)
    (hhigh : (k.ctx.regs.geta 7).toNat ≤ (s.billetOf r).benchSz) (len : Nat) (word : W64) :
    s.runtimeTakes c i r k e len word = s.startHandler c i r k e ((k.ctx.regs.geta 7).toNat - 160) h len := by
  have hfits : ¬((k.ctx.regs.geta 7).toNat < 160 ∨ ((k.ctx.regs.geta 7).toNat - 160) % 8 ≠ 0
      ∨ (s.billetOf r).benchSz < (k.ctx.regs.geta 7).toNat) := by omega
  unfold State.runtimeTakes
  dsimp only
  rw [hidle, hh]
  exact (if_neg Bool.false_ne_true).trans ((if_neg hdata).trans (if_neg hfits))

theorem length_flatMap_leBytes (l : List W64) : (l.flatMap fun a => leBytes 8 a.toNat).length = 8 * l.length := by
  simp only [List.length_flatMap, length_leBytes, List.map_const', List.sum_replicate_nat, Nat.mul_comm]

/-- R339: the frame has 160 bytes. -/
theorem length_excFrame (k : Core) (e : Exc) (len : Nat) : (excFrame k e len).length = 160 := by
  simp only [excFrame, List.length_append, length_flatMap_leBytes, length_leBytes, List.length_replicate, Vector.length_toList,
    List.length_cons, List.length_nil]

/-- R340: the core as the handler at `h` starts, with the bytes of its frame at `a`. -/
def Core.handling (x : Core) (e : Exc) (a h : Nat) (frame : List Byte) : Core :=
  { x with
    wBench := insNat ((a + 160 - 1) / 4096) (insNat (a / 4096) x.wBench)
    sup := false
    ctl := { x.ctl with exl := false }
    ctx := { x.ctx with
      bench := Mem.write x.ctx.bench a frame
      pc := BitVec.ofNat 64 h
      regs := { ((((x.ctx.regs.seta 0 (BitVec.ofNat 64 a)).seta 7 (BitVec.ofNat 64 a)).seta 1 (BitVec.ofNat 64 e.num)).seta 2
          (if e.num = excTrap then BitVec.ofNat 64 e.code else if e.num = excData then e.addr else 0)) with
        lk := resumeAddr, dir := false, rp := false } } }

section
variable (s : State) (c i : Nat) (r : Run) (k : Core) (e : Exc) (a h len : Nat)

theorem runAt_startHandler : (s.startHandler c i r k e a h len).runAt i = some { r with handler := true, frame := a } :=
  Tbl.get?_set_self ..

theorem core_startHandler :
    (s.startHandler c i r k e a h len).core c = (s.core c).handling e a h (excFrame k e len) := by
  have hframe := core_writeBench s c a (excFrame k e len)
  rw [length_excFrame] at hframe
  unfold State.startHandler
  generalize (s.markWritten c (.bench a) 160).rawWrite c (.bench a) (excFrame k e len) = u at hframe ⊢
  generalize excFrame k e len = frame at hframe ⊢
  have hrun : (u.setRun i { r with handler := true, frame := a }).core c = u.core c := rfl
  simp only [core_mod, hrun, hframe, Core.handling]

end

/-- Settles O18: the exception is entered, and the runtime starts the handler over the state that entry left. -/
theorem handledExceptionsReachTheBilletHandler : Obligations.HandledExceptionsReachTheBilletHandler := by
  intro s c i len h word e r k a7 t fa hstands hexl hsup hrun hr hidle hdata hh hlow halign hhigh
  have ht : t = (s.enterExc c e).startHandler c i r k e fa h len :=
    (takeSync_of_run hstands hexl hsup hrun hr len word).trans
      (runtimeTakes_of_handled (s := s.enterExc c e) hidle hdata hh hlow halign hhigh len word)
  have hlength := length_excFrame k e len
  have hcore := core_startHandler (s.enterExc c e) c i r k e fa h len
  rw [← ht, State.enterExc, core_mod] at hcore
  clear_value fa t
  generalize excFrame k e len = frame at hlength hcore ⊢
  refine ⟨ht ▸ runAt_startHandler .., ?_⟩
  rw [hcore]
  exact ⟨rfl, rfl, hrun, rfl, rfl, fun x hx => Mem.get_write_outside _ _ _ (by rwa [hlength]), rfl, hlength⟩

end Sys2Proof.Machine
end

section
/-! RFE and core reset (R332, R335). -/

namespace Sys2Proof.Machine

/-- R332: RFE ends with its return. -/
theorem exec_iRfe {s : State} {c : Nat} {w : LongWord} (hok : s.longOk c w szD .none .none .none true true) :
    exec (.iRfe c w) s = .next (s.rfe c) :=
  congrArg Host.Outcome.next (long_stays hok _ rfl)

/-- R299: a repeat counts BC down, and moves the pc on with its last element only. -/
theorem core_finish_repeat (t : State) (c len : Nat) :
    ((t.finish c true len none).core c).ctx.regs.bc = (t.core c).ctx.regs.bc - 1
    ∧ ((t.core c).ctx.regs.bc ≠ 1 → ((t.finish c true len none).core c).ctx.pc = (t.core c).ctx.pc)
    ∧ ((t.core c).ctx.regs.bc = 1 →
        ((t.finish c true len none).core c).ctx.pc = (t.core c).ctx.pc + BitVec.ofNat 64 len) := by
  rw [finish_repeat, core_mod]
  dsimp only
  split
  next hlast => exact ⟨by rw [hlast]; rfl, fun hmore => absurd hlast hmore, fun _ => rfl⟩
  next hmore => exact ⟨rfl, fun _ => rfl, fun hlast => absurd hlast hmore⟩

/-- R355: port 08h of the core control block is CORE.EPC. -/
theorem portOut_epc (s : State) (c v : Nat) : portOut s c (.ctl 8) v =
    s.modCore c fun k => { k with ctl := { k.ctl with epc := BitVec.ofNat 64 v } } := rfl

/-- R355: port 10h of the core control block is CORE.EST. -/
theorem portOut_est (s : State) (c v : Nat) : portOut s c (.ctl 0x10) v =
    s.modCore c fun k => { k with ctl := { k.ctl with est := BitVec.ofNat 64 v } } := rfl

/-- Settles O58: RFE's return is one change of the core, and a repeat that it restores completes as `finish` says. -/
theorem rfeReturnsToTheSavedPcAndStatus : Obligations.RfeReturnsToTheSavedPcAndStatus := by
  intro s c len v w hok k
  have hcore : (s.rfe c).core c = { s.core c with
      ctl := { k with exl := false }
      sup := k.est.getLsbD 0
      wdCount := 0
      ctx := { (s.core c).ctx with
        pc := k.epc, regs := { (s.core c).ctx.regs with dir := k.est.getLsbD 2, rp := k.est.getLsbD 1 } } } := core_mod ..
  refine ⟨⟨s.rfe c, exec_iRfe hok, ?_⟩, ?_, ?_⟩
  · have hrepeat := core_finish_repeat (s.rfe c) c len
    rw [hcore] at hrepeat ⊢
    refine ⟨rfl, rfl, rfl, rfl, fun hrp => ⟨hrp, ?_⟩⟩
    dsimp only
    rw [hrp]
    exact hrepeat
  · rw [portOut_epc, core_mod]
  · rw [portOut_est, core_mod]

/-- R335: a built core is reset at once. -/
theorem exec_coreReset {c : Nat} (hc : c < 144) (s : State) : exec (.coreReset c) s = .next (s.modCore c Core.reset) :=
  congrArg Host.Outcome.next (if_pos hc)

/-- Every bit variable is 0 in a context with its bits at their reset value. -/
theorem bit_reset (bench : Mem) (b : Nat) : ({ bench := bench } : Ctx).bit b = false := by
  have hedone : (0 : BitVec 64).getLsbD (b - 64) = false := BitVec.getLsbD_zero
  simp only [Ctx.bit, hedone, List.contains_nil, ite_self]

/-- R355, R356: the ports of the core control block at reset all read 0 but CORE.WDT (30h). -/
theorem ctlRead_default (off : Nat) : ctlRead {} off = if off = 0x30 then 0xF4240 else 0 := by
  have hrat (i : Nat) : (Vector.replicate 8 ({} : RatEntry)).toList.getD i {} = {} := by
    rw [Vector.toList_replicate, List.getD_eq_getElem?_getD, List.getElem?_replicate]
    split <;> rfl
  by_cases h : off = 0x30
  · subst h
    rfl
  · have hzero (n : Nat) : (0 : BitVec n).toNat = 0 := BitVec.toNat_zero ..
    have hstat : ({} : OpCache).stat = 0 := rfl
    simp only [ctlRead, hrat, hzero, hstat, h, Bool.false_eq_true, if_false, Nat.zero_mul, ite_self]

/-- Settles O59: the reset core is a record of reset values. -/
theorem coreResetLeavesTheResetState : Obligations.CoreResetLeavesTheResetState := by
  intro s c hc
  refine ⟨_, exec_coreReset hc s, ?_⟩
  rw [core_mod]
  have hbx : (s.core c).reset.ctx.regs.bx = 0 := show ({} : Regs).bx = 0 by decide
  have hst : (s.core c).reset.st = 1 := show ({} : Core).st = 1 by decide
  exact ⟨rfl, rfl, rfl, hst, fun i => Vector.getElem_replicate i.isLt, rfl, rfl, rfl, rfl, hbx, bit_reset _, fun _ => rfl,
    rfl, rfl, rfl, rfl, fun off _ _ => ctlRead_default off, rfl⟩

end Sys2Proof.Machine
end

section
/-! The events of a core (R330 to R338) and of its operand cache (R345, R348, R351). -/

namespace Sys2Proof.Machine

/-! ## The watchdog -/

theorem runAt_modCore (s : State) (c : Nat) (f : Core → Core) (i : Nat) : (s.modCore c f).runAt i = s.runAt i := rfl

section
variable {s : State} {c : Nat} (hruns : s.coreRuns c = true)
include hruns

/-- R338: in supervisor mode the core stops. -/
theorem exec_watchdogExpiry_of_supervisor (hsup : (s.core c).sup = true) : exec (.watchdogExpiry c) s = .next
    (s.modCore c fun k => { k with wdCount := k.ctl.wdt.toNat, stopped := true }) := by
  rw [← modCore_modCore s c (fun k => { k with wdCount := k.ctl.wdt.toNat }) fun k => { k with stopped := true }]
  refine congrArg Host.Outcome.next ?_
  rw [hruns]
  exact if_pos hsup

/-- R249, R250: in user mode the run ends with Billet Fault, cause 0Bh. -/
theorem exec_watchdogExpiry_of_run {i : Nat} {r : Run} (hsup : (s.core c).sup = false) (hrun : (s.core c).run = some i)
    (hr : s.runAt i = some r) : ∃ (u : State) (word : W64), exec (.watchdogExpiry c) s = .next
      (u.billetFault c i r (s.core c) excWatchdog (s.core c).ctx.pc 0 word) := by
  let x := s.modCore c fun k => { k with wdCount := k.ctl.wdt.toNat }
  refine ⟨x.enterExc c { num := excWatchdog }, x.wordAt c, congrArg Host.Outcome.next ?_⟩
  rw [hruns, Bool.not_true, if_neg Bool.false_ne_true]
  dsimp only
  rw [hsup, if_neg Bool.false_ne_true, hrun]
  dsimp only
  rw [runAt_modCore, hr]

end

/-! ## Asynchronous exceptions -/

/-- R331, R336: an asynchronous exception that a core takes in supervisor mode is entered, and no longer pends. -/
theorem exec_asyncExceptionEntry {s : State} {c : Nat} {e : AsyncExc} (hruns : s.coreRuns c = true)
    (htakes : Core.takes (s.core c) e = true) (hsup : (s.core c).sup = true) :
    exec (.asyncExceptionEntry c e) s = .next
      ((s.modCore c fun k => Core.clearPend k e).enterExc c { num := AsyncExc.num e }) := by
  refine congrArg Host.Outcome.next ?_
  rw [hruns, htakes]
  exact if_pos hsup

/-! ## The operand cache -/

theorem bitOf_toNat {n : Nat} (v : BitVec n) (k : Nat) : bitOf v.toNat k = v.getLsbD k :=
  (Nat.testBit_eq_decide_div_mod_eq ..).symm

/-- R351: a write of OC.EN. -/
theorem exec_ocEnWrite {c : Nat} (hc : c < 144) (v : W32) (s : State) : exec (.ocEnWrite c v) s = .next (s.modOc c fun o =>
    if o.drain then o else if v.getLsbD 0 then { o with en := true } else if o.en then { o with drain := true } else o) := by
  refine congrArg Host.Outcome.next ((if_pos hc).trans ?_)
  rw [State.ocEn, bitOf_toNat]

/-- Accesses before a drain ends leave what they leave without it. -/
theorem AccessOnly.drained {c : Nat} {s u : State} (h : AccessOnly c s u) :
    AccessOnly c (s.modOc c fun o => { o with en := false, drain := false })
      (u.modOc c fun o => { o with lines := [], lost := [], en := false, drain := false }) := by
  obtain ⟨hother, hcore, hforge, hmeter, hbare⟩ := h
  refine ⟨fun x hx => ?_, ?_, hforge, hmeter, hbare⟩
  · simp only [State.modOc, State.modCore, core_setCore, if_neg hx, hother x hx]
  · simp only [State.modOc, core_mod]
    exact congrArg (fun k : Core => { k with oc := { k.oc with en := false, drain := false } }) hcore

/-- R349, R351: a drain writes every line back, then leaves the cache empty and disabled. -/
theorem exec_ocDrainComplete {c : Nat} (hc : c < 144) {s : State} (hdrain : (s.core c).oc.drain = true) (lost : List Nat) :
    ∃ u, AccessOnly c s u ∧ exec (.ocDrainComplete c lost) s = .next
      (u.modOc c fun o => { o with lines := [], lost := [], en := false, drain := false }) := by
  let marked := s.modOc c fun o => { o with lost := lost.foldl (fun l i => insNat i l) o.lost }
  have hmarked : AccessOnly c s marked := AccessOnly.modOc rfl
  refine ⟨_, hmarked.trans (foldl_writeBack_only c (List.range 48) marked), congrArg Host.Outcome.next ?_⟩
  exact if_pos (by rw [hdrain, Bool.and_true]; exact decide_eq_true hc)

/-! ### Masks (R345) -/

/-- An entry is written back and invalidated. -/
def State.evict (c : Nat) (x : State) (i : Nat) : State := (x.writeBack c i).invalidate c i

theorem foldl_evict_only (c : Nat) (is : List Nat) (s : State) : AccessOnly c s (is.foldl (State.evict c) s) :=
  AccessOnly.foldl (fun _ i => (writeBack_only i).trans (invalidate_only i)) is s

/-- Entries that are not evicted keep their lines. -/
theorem line_foldl_evict {j : Nat} (c : Nat) (is : List Nat) (s : State) (hj : j ∉ is) :
    Tbl.get? ((is.foldl (State.evict c) s).core c).oc.lines j = Tbl.get? (s.core c).oc.lines j := by
  induction is generalizing s with
  | nil => rfl
  | cons i is ih =>
    obtain ⟨hne, hrest⟩ := not_or.1 (mt List.mem_cons.2 hj)
    calc Tbl.get? ((is.foldl (State.evict c) (s.evict c i)).core c).oc.lines j
        = Tbl.get? ((s.evict c i).core c).oc.lines j := ih _ hrest
      _ = Tbl.get? ((s.writeBack c i).core c).oc.lines j := line_invalidate_ne _ c (Ne.symm hne)
      _ = Tbl.get? (s.core c).oc.lines j := line_writeBack_ne s c (Ne.symm hne)

/-- A cache with the mask at a port (48h, 50h or 58h) written. -/
def OpCache.putMask (o : OpCache) (port : Nat) (v : W64) : OpCache :=
  if port = 0x48 then { o with user := v.truncate 48 }
  else if port = 0x50 then { o with supv := v.truncate 48 }
  else { o with strm := v.truncate 48 }

theorem OpCache.putMask_eq (o : OpCache) {port : Nat} (hport : port = 0x48 ∨ port = 0x50 ∨ port = 0x58) (v : W64) :
    o.putMask port v = { o with
      user := if port = 0x48 then v.truncate 48 else o.user
      supv := if port = 0x50 then v.truncate 48 else o.supv
      strm := if port = 0x58 then v.truncate 48 else o.strm } := by
  rcases hport with rfl | rfl | rfl <;> rfl

/-- The entries that some mask assigns. -/
def OpCache.masked (o : OpCache) : BitVec 48 := o.user ||| o.supv ||| o.strm

/-- The entries that no mask assigns. -/
def OpCache.unmasked (o : OpCache) : List Nat := (List.range 48).filter fun i => !o.masked.getLsbD i

theorem OpCache.not_mem_unmasked {o : OpCache} {i : Nat} (h : o.masked.getLsbD i = true) : i ∉ o.unmasked := fun hmem => by
  have hout : (!o.masked.getLsbD i) = true := (List.mem_filter.1 hmem).2
  rw [h] at hout
  cases hout

/-- A core with the mask at a port written, before any entry is evicted. -/
def State.putMask (s : State) (c port : Nat) (v : W64) : State := s.modOc c fun o => o.putMask port v

theorem oc_putMask (s : State) (c port : Nat) (v : W64) :
    ((s.putMask c port v).core c).oc = (s.core c).oc.putMask port v := oc_modOc ..

/-- R345: a written mask evicts the entries left in none. -/
theorem exec_ocmMaskWrite {c port : Nat} (hc : c < 144) (hport : port = 0x48 ∨ port = 0x50 ∨ port = 0x58) (v : W64)
    (s : State) : exec (.ocmMaskWrite c port v) s = .next
      (((s.core c).oc.putMask port v).unmasked.foldl (State.evict c) (s.putMask c port v)) := by
  have hfold : s.ocMask c port v.toNat = (List.range 48).foldl
      (fun x i => if ((s.putMask c port v).core c).oc.masked.getLsbD i then x else x.evict c i) (s.putMask c port v) := rfl
  refine congrArg Host.Outcome.next ((if_pos ⟨hc, hport⟩).trans ?_)
  rw [hfold, oc_putMask, OpCache.unmasked, List.foldl_filter]
  congr 1
  funext x i
  cases ((s.core c).oc.putMask port v).masked.getLsbD i <;> rfl

/-- Accesses leave the masks. -/
theorem AccessOnly.masks {c : Nat} {s t : State} (h : AccessOnly c s t) : (t.core c).oc.user = (s.core c).oc.user
    ∧ (t.core c).oc.supv = (s.core c).oc.supv ∧ (t.core c).oc.strm = (s.core c).oc.strm :=
  ⟨show (t.core c).bare.oc.user = (s.core c).bare.oc.user from congrArg (·.oc.user) h.core,
    show (t.core c).bare.oc.supv = (s.core c).bare.oc.supv from congrArg (·.oc.supv) h.core,
    show (t.core c).bare.oc.strm = (s.core c).bare.oc.strm from congrArg (·.oc.strm) h.core⟩

/-- Settles O19: each event is one change of its core, or such a change with accesses of the core's. -/
theorem coreEventsHaveTheirEffect : Obligations.CoreEventsHaveTheirEffect := by
  intro s c k
  refine ⟨fun hc => exec_coreReset hc s, exec_watchdogExpiry_of_supervisor, fun i r hruns hsup hrun hr => ?_,
    fun e hruns hexl hsup hpend => ?_, fun v hc => exec_ocEnWrite hc v s, fun lost hc hdrain => ?_,
    fun port v hc hport => ?_, fun hc hcount => congrArg Host.Outcome.next (if_pos ⟨hc, hcount⟩)⟩
  · obtain ⟨u, word, hexec⟩ := exec_watchdogExpiry_of_run hruns hsup hrun hr
    rw [State.billetFault] at hexec
    obtain ⟨hrun', hsup', -⟩ := endRun_core u c i r (faultEnd r k excWatchdog k.ctx.pc (if addrCause excWatchdog then 0 else 0) word)
    refine ⟨_, _, hexec, hrun', hsup', endRun_runAt .., rfl, rfl, ?_⟩
    unfold faultEnd
    dsimp only
    split <;> rfl
  · have htakes : Core.takes k e = true := by
      simp only [Core.takes, hexl, Bool.not_false, Bool.and_true]
      cases e with
      | watchdog => exact (Bool.and_true _).trans hpend
      | spanExpiry => exact hpend
      | engineCompletion =>
        rw [Bool.and_comm (!k.pendWd), ← Bool.and_assoc]
        exact hpend
    refine ⟨_, exec_asyncExceptionEntry hruns htakes hsup, ?_⟩
    rw [State.enterExc, core_mod, core_mod]
    cases e with
    | watchdog => exact ⟨rfl, rfl, rfl, rfl, rfl, rfl, nofun, nofun⟩
    | spanExpiry => exact ⟨rfl, rfl, rfl, rfl, rfl, rfl, fun _ => ⟨rfl, rfl⟩, nofun⟩
    | engineCompletion => exact ⟨rfl, rfl, rfl, rfl, rfl, rfl, nofun, fun _ => ⟨rfl, rfl⟩⟩
  · obtain ⟨u, honly, hexec⟩ := exec_ocDrainComplete hc hdrain lost
    refine ⟨_, hexec, ?_⟩
    rw [oc_modOc]
    exact ⟨rfl, rfl, rfl, rfl, honly.drained⟩
  · let o := k.oc.putMask port v
    have ho := k.oc.putMask_eq hport v
    have hmask : ((s.putMask c port v).core c).oc = o := oc_putMask s c port v
    obtain ⟨huser, hsupv, hstrm⟩ := (foldl_evict_only c o.unmasked (s.putMask c port v)).masks
    have hline (i : Nat) (hi : o.masked.getLsbD i = true) :=
      line_foldl_evict c o.unmasked (s.putMask c port v) (OpCache.not_mem_unmasked hi)
    rw [hmask] at huser hsupv hstrm hline
    refine ⟨_, exec_ocmMaskWrite hc hport v s, ?_⟩
    rw [huser, hsupv, hstrm]
    exact ⟨congrArg OpCache.user ho, congrArg OpCache.supv ho, congrArg OpCache.strm ho,
      fun i hi => (hline i hi).trans (congrArg (Tbl.get? ·.lines i) ho), rfl⟩

end Sys2Proof.Machine
end

section
/-! The end of an engine job (R364, R367, R368, R371): what its context is left with, and which outcome ends it. -/

namespace Sys2Proof.Machine

/-! ## The runs that stand while a job's data moves -/

/-- An access of the D space leaves every run. -/
theorem AccessOnly.runAt {c : Nat} {s t : State} (h : AccessOnly c s t) (i : Nat) : t.runAt i = s.runAt i :=
  congrArg (Tbl.get? · i) (congrArg (·.cpu.runs) h.bare)

theorem runAt_setRun (s : State) (i j : Nat) (r : Run) : (s.setRun i r).runAt j = if i = j then some r else s.runAt j :=
  Tbl.get?_set ..

/-- A run set again is a run that stood. -/
theorem isSome_runAt_setRun {s : State} {i : Nat} {x : Run} (h : s.runAt i = some x) (r : Run) (j : Nat) :
    ((s.setRun i r).runAt j).isSome = (s.runAt j).isSome := by
  rw [runAt_setRun]
  split
  next hij => rw [← hij, h]; rfl
  next => rfl

section
variable (s : State) (q : EngReq) (a : Nat)

theorem runAt_jobFetched (n i : Nat) : (s.jobFetched q a n).runAt i = s.runAt i := by
  unfold State.jobFetched
  split
  next sl o _ =>
    have hread : AccessOnly q.core s (s.hostRead sl o n) := hostRead_only ..
    exact (hread.trans (meterUp_only sl (fun m => { m with hostIn := m.hostIn + n }) fun _ => rfl)).runAt i
  next => rfl

/-- A job's output may change the saved window of its run, and no run comes or goes. -/
theorem isSome_runAt_jobWrite (bs : List Byte) (i : Nat) : ((s.jobWrite q a bs).runAt i).isSome = (s.runAt i).isSome := by
  unfold State.jobWrite
  split
  next o _ =>
    split
    next j _ =>
      split
      next r hr =>
        split
        next => rfl
        next => exact isSome_runAt_setRun hr _ i
      next => rfl
    next => rfl
  next sl o _ => rfl
  next sl o _ =>
    have hwrite : AccessOnly q.core s (s.hostWrite sl o (Data.ofBytes bs)) := hostWrite_only ..
    exact congrArg Option.isSome
      ((hwrite.trans (meterUp_only sl (fun m => { m with hostOut := m.hostOut + bs.length }) fun _ => rfl)).runAt i)
  next => rfl

end

/-! ## Contexts -/

/-- A context of the core, or of a run that stands, reads as it was set. -/
theorem ctxOf_setCtxOf {s : State} {run : Option Nat} (hrun : ∀ i ∈ run, (s.runAt i).isSome = true) (c n : Nat) (x : EngCtx) :
    (s.setCtxOf c run n x).ctxOf c run n = x := by
  cases run with
  | none =>
    show Tbl.getD ((s.modCore c _).core c).eng n {} = x
    rw [core_mod]
    exact Tbl.getD_set_self ..
  | some i =>
    obtain ⟨r, hr⟩ := Option.isSome_iff_exists.1 (hrun i rfl)
    have hset : s.setCtxOf c (some i) n x = s.setRun i { r with eng := Tbl.set r.eng n x } := by
      rw [State.setCtxOf, hr]
    rw [hset, State.ctxOf, Option.bind_some, runAt_setRun, if_pos rfl]
    exact Tbl.getD_set_self ..

/-- A change of a core that is not of its contexts leaves every context. -/
theorem ctxOf_modCore (s : State) (c x : Nat) {f : Core → Core} (run : Option Nat) (n : Nat) (hf : ∀ k, (f k).eng = k.eng) :
    (s.modCore c f).ctxOf x run n = s.ctxOf x run n := by
  have heng : ((s.modCore c f).core x).eng = (s.core x).eng := by
    rw [State.modCore, core_setCore]
    split
    next hx => rw [hf, hx]
    next => rfl
  show (match run.bind s.runAt with
    | some r => Tbl.getD r.eng n {}
    | none => Tbl.getD ((s.modCore c f).core x).eng n {}) = _
  rw [heng]
  rfl

/-- A change of a run that is not of its contexts leaves every context. -/
theorem ctxOf_setRun {s : State} {i : Nat} {x r : Run} (h : s.runAt i = some x) (c : Nat) (run : Option Nat) (n : Nat)
    (heng : r.eng = x.eng) : (s.setRun i r).ctxOf c run n = s.ctxOf c run n := by
  cases run with
  | none => rfl
  | some j =>
    rw [State.ctxOf, State.ctxOf, Option.bind_some, Option.bind_some, runAt_setRun]
    by_cases hij : i = j
    · rw [if_pos hij, ← hij, h]
      exact congrArg (Tbl.getD · n {}) heng
    · rw [if_neg hij]
      rfl

theorem ctxOf_deliver (s : State) (q : EngReq) (c : Nat) (run : Option Nat) (n : Nat) :
    (s.deliver q).ctxOf c run n = s.ctxOf c run n := by
  unfold State.deliver
  dsimp only
  split
  next => exact ctxOf_modCore _ _ _ _ _ fun _ => rfl
  next =>
    split
    next => rfl
    next r hr =>
      split
      next => exact ctxOf_modCore _ _ _ _ _ fun _ => rfl
      next => exact ctxOf_setRun hr _ _ _ rfl

/-! ## What the end of a job leaves of its context (R364, R365, R368) -/

/-- The run of a request has ended or is discarded. -/
def State.jobGone (s : State) (q : EngReq) : Bool :=
  match q.run.bind s.runAt with
  | some r => r.ended.isSome || r.discarded
  | none => false

/-- A context whose job ends. -/
def EngCtx.ended (k : EngCtx) (o : JobOut) (gone : Bool) : EngCtx :=
  { k with
    code := BitVec.ofNat 8 o.code, busy := false, job := none, abort := false
    out := if o.code = 0 then BitVec.ofNat 64 o.bytes.length else 0
    check := if o.code = 0 then BitVec.ofNat 32 o.check else 0
    opn := o.code = 0 && o.msg.isSome && !gone
    msg := if o.code = 0 ∧ ¬ gone then o.msg else none }

section
variable (s : State) (q : EngReq) (u : Option Nat) (o : JobOut) (d : Desc)

/-- The descriptor of the job that a request names. -/
def State.jobDesc : Desc :=
  let k := s.ctxOf q.core q.run q.ctx
  (k.job.map fun j => readDesc j.desc).getD (readDesc k.desc)

/-- The host memory that a job read is counted. -/
def State.jobRead : State :=
  if u.isSome ∧ (o.code = 0 ∨ (5 < o.code ∧ o.code ≠ 0x0D)) then
    (s.jobFetched q d.src d.srcLen).jobFetched q d.aux d.auxLen
  else s

/-- The output of a job is written; where it fails after it began, what lies in its range is not defined. -/
def State.jobStored : State :=
  if o.code = 0 then s.jobWrite q d.dst o.bytes
  else if (o.code ≤ 5 ∧ ¬ o.ran) ∨ (q.cls = .cipher ∧ o.code = 6) ∨ ¬ s.jobRange q d.dst d.dstLen then s
  else match s.jobPlace q d.dst with
    | some (.host _ _) => if o.code = 0x0A then s.jobWrite q d.dst o.bytes else s
    | _ => (s.drawnN d.dstLen).jobWrite q d.dst (o.bytes ++ (s.freeBytes d.dstLen).drop o.bytes.length)

/-- A job leaves the queue and its unit. -/
def State.jobFreed : State :=
  let s := { s with cpu := { s.cpu with engines := { s.cpu.engines with
    queue := s.cpu.engines.queue.filter fun p => !p.is q } } }
  match u with
  | some n => s.setUnit q.cls n { s.unit q.cls n with running := none }
  | none => s

/-- A job ends in these steps. -/
theorem endJob_eq : s.endJob q u o =
    ((((s.jobRead q u o (s.jobDesc q)).jobStored q o (s.jobDesc q)).setCtxOf q.core q.run q.ctx
      ((s.ctxOf q.core q.run q.ctx).ended o (s.jobGone q))).jobFreed q u).deliver q := rfl

theorem runAt_jobRead (i : Nat) : (s.jobRead q u o d).runAt i = s.runAt i := by
  rw [State.jobRead]
  split
  next => rw [runAt_jobFetched, runAt_jobFetched]
  next => rfl

theorem isSome_runAt_jobStored (i : Nat) : ((s.jobStored q o d).runAt i).isSome = (s.runAt i).isSome := by
  have hwrite := isSome_runAt_jobWrite s q d.dst o.bytes i
  rw [State.jobStored]
  split
  next => exact hwrite
  next =>
    split
    next => rfl
    next =>
      split
      next =>
        split
        next => exact hwrite
        next => rfl
      next => exact isSome_runAt_jobWrite (s.drawnN d.dstLen) ..

theorem ctxOf_jobFreed (c : Nat) (run : Option Nat) (n : Nat) : (s.jobFreed q u).ctxOf c run n = s.ctxOf c run n := by
  cases u with
  | none => rfl
  | some _ => rfl

/-- R364, R368: the end of a job is recorded in its context. -/
theorem ctxOf_endJob (hrun : ∀ i ∈ q.run, (s.runAt i).isSome = true) :
    (s.endJob q u o).ctxOf q.core q.run q.ctx = (s.ctxOf q.core q.run q.ctx).ended o (s.jobGone q) := by
  rw [endJob_eq, ctxOf_deliver, ctxOf_jobFreed]
  refine ctxOf_setCtxOf (fun i hi => ?_) _ _ _
  rw [isSome_runAt_jobStored, runAt_jobRead]
  exact hrun i hi

end

/-! ## The outcome of a job -/

section
variable {s : State} {q : EngReq} {k : EngCtx} {j : EngJob} {m : Nat}

/-- R367: the first of codes 01h to 05h that holds is the outcome. -/
theorem jobOutcome_of_pre (hpre : s.preCode q k j ≠ 0) (m : Nat) : s.jobOutcome q k j m =
    { code := s.preCode q k j
      ran := s.preCode q k j = 4 && j.held.map (·.1) ≠ (s.jobKey q (readDesc j.desc)).map (·.1) } := if_pos hpre

variable (hpre : s.preCode q k j = 0)
include hpre

/-- R368: else what the job met on its way is. -/
theorem jobOutcome_of_met (h : m = 5 ∨ m = 11 ∨ m = 12 ∨ (m = 13 ∧ k.abort = true)) :
    s.jobOutcome q k j m = { code := m, ran := true } := (if_neg (not_not_intro hpre)).trans (if_pos h)

/-- R368: else its function gives the outcome. -/
theorem jobOutcome_of_run (h : ¬(m = 5 ∨ m = 11 ∨ m = 12 ∨ m = 13)) : s.jobOutcome q k j m = s.runJob q k j :=
  (if_neg (not_not_intro hpre)).trans <| if_neg fun hmet =>
    h (hmet.imp_right (Or.imp_right (Or.imp_right And.left)))

end

section
variable {s : State} {c n u : Nat} {q : EngReq} {j : EngJob} (code : Byte)

/-- The state in which the job of `q` ends on unit `u`: ENGINE is an engine fault, DATA is logged, and the class takes up jobs. -/
def State.jobOver (s : State) (q : EngReq) (u : Nat) (o : JobOut) : State :=
  let t := s.endJob q (some u) o
  (if o.code = 12 then t.engineFault q.cls u 12 else if o.code = 11 then t.logData q else t).dispatchJobs q.cls

theorem exec_engineJobEnd_of_running (hrun : s.runningJob c n = some (u, q)) (hjob : (s.ctxOf q.core q.run q.ctx).job = some j) :
    exec (.engineJobEnd c n code) s = .next (s.jobOver q u (s.jobOutcome q (s.ctxOf q.core q.run q.ctx) j code.toNat)) := by
  show execEngineJobEnd c n code s = _
  simp only [execEngineJobEnd, hrun, hjob, State.jobOver]

variable (hidle : s.runningJob c n = none) (hwait : s.waitingJob c n = some q)
  (hjob : (s.ctxOf q.core q.run q.ctx).job = some j) (hbegun : j.begun = false)
include hidle hwait hjob hbegun

/-- R371: a job that waits ends with the code that fails it. -/
theorem exec_engineJobEnd_of_waiting_pre (hpre : s.preCode q (s.ctxOf q.core q.run q.ctx) j ≠ 0) :
    exec (.engineJobEnd c n code) s = .next (s.endJob q none { code := s.preCode q (s.ctxOf q.core q.run q.ctx) j }) := by
  show execEngineJobEnd c n code s = _
  simp only [execEngineJobEnd, hidle, hwait, hjob, hbegun]
  exact congrArg Host.Outcome.next (if_pos hpre)

/-- R366: else it ends when an ABORT stands. -/
theorem exec_engineJobEnd_of_waiting_abort (hpre : s.preCode q (s.ctxOf q.core q.run q.ctx) j = 0)
    (habort : (s.ctxOf q.core q.run q.ctx).abort = true) :
    exec (.engineJobEnd c n code) s = .next (s.endJob q none { code := 13 }) := by
  show execEngineJobEnd c n code s = _
  simp only [execEngineJobEnd, hidle, hwait, hjob, hbegun]
  exact congrArg Host.Outcome.next ((if_neg (not_not_intro hpre)).trans (if_pos habort))

end

/-- Settles O24: a job's outcome is its first code, what it met or what its function gives, and its context records it. -/
theorem engineJobsEndWithTheirOutcome : Obligations.EngineJobsEndWithTheirOutcome := by
  intro s c n u code q j k pre ends moved
  refine ⟨fun hrun hjob => ?_, fun hidle hwait hjob hbegun =>
    ⟨exec_engineJobEnd_of_waiting_pre code hidle hwait hjob hbegun,
      exec_engineJobEnd_of_waiting_abort code hidle hwait hjob hbegun⟩, fun o w hstands => ?_⟩
  · have hends (o : JobOut) (ho : s.jobOutcome q k j code.toNat = o) : exec (.engineJobEnd c n code) s = .next (ends o) :=
      (exec_engineJobEnd_of_running code hrun hjob).trans (congrArg (fun o => Host.Outcome.next (s.jobOver q u o)) ho)
    have hcode (m : Byte) : code.toNat = m.toNat ↔ code = m := BitVec.toNat_inj
    refine ⟨fun hpre => hends _ (jobOutcome_of_pre hpre _), fun hpre hmet => hends _ (jobOutcome_of_met hpre ?_),
      fun hpre h5 h11 h12 h13 => hends _ (jobOutcome_of_run hpre ?_)⟩
    · exact hmet.imp (hcode 5).2 (Or.imp (hcode 11).2 (Or.imp (hcode 12).2 (And.imp_left (hcode 13).2)))
    · rintro (h | h | h | h)
      · exact h5 ((hcode 5).1 h)
      · exact h11 ((hcode 11).1 h)
      · exact h12 ((hcode 12).1 h)
      · exact h13 ((hcode 13).1 h)
  · intro x gone
    have hx : x = k.ended o gone := ctxOf_endJob s q w o hstands
    clear_value x gone
    subst hx
    refine ⟨rfl, rfl, rfl, rfl, fun hcode => ⟨if_neg hcode, if_neg hcode, ?_, if_neg (hcode ·.1)⟩, fun hcode =>
      ⟨if_pos hcode, if_pos hcode, ?_, ?_⟩⟩
    · simp [EngCtx.ended, hcode]
    · simp [EngCtx.ended, hcode]
    · cases gone <;> simp [EngCtx.ended, hcode]

end Sys2Proof.Machine
end

section
/-! The engine ports (R361, R362, R364, R366), and the boundaries, waits and tests of engines (R371 to R373, R387, R468,
R469). -/

namespace Sys2Proof.Machine

/-! ## ENG.GO (R364) -/

/-- The context that a core reaches under a number. -/
def State.askedCtx (s : State) (c n : Nat) : EngCtx := s.ctxOf c (s.ctxRun c n) n

/-- The slice of a run. -/
def State.runSlice (s : State) (run : Option Nat) : Option Nat := (run.bind s.runAt).map (·.slice)

/-- A context set changes no slice of a run. -/
theorem runSlice_setCtxOf (s : State) (c : Nat) (run : Option Nat) (n : Nat) (x : EngCtx) :
    (s.setCtxOf c run n x).runSlice run = s.runSlice run := by
  cases run with
  | none => rfl
  | some i =>
    cases hr : s.runAt i with
    | none => rw [State.setCtxOf, hr]
    | some r => simp only [State.setCtxOf, State.runSlice, Option.bind_some, hr, runAt_setRun, if_true, Option.map_some]

/-- The state with ENG.GO's reply recorded. -/
def State.goReplied (s : State) (n : Nat) (v : W64) : State :=
  { s with out := { s.out with reads := (0x10040 + 0x400 * n, v) :: s.out.reads } }

/-- The context takes its descriptor and the bytes of its host ranges as a job (R363). -/
def State.jobTaken (s : State) (c n : Nat) (input aux : List Byte) : State :=
  let k := s.askedCtx c n
  s.setCtxOf c (s.ctxRun c n) n { k with
    busy := true, abort := false, job := some { desc := k.desc, input := input, aux := aux } }

/-- What a slice's counters gain at once from a job of context `n`. -/
def Counts.withJob (m : Counts) (n srcLen : Nat) : Counts :=
  match ctxClass n with
  | .crucible => { m with crucible := m.crucible + srcLen }
  | .cipher => { m with keyOps := m.keyOps + 1 }
  | _ => m

/-- A job of context `n` is counted for its slice, if it has one. -/
def State.jobCounted (s : State) (n srcLen : Nat) : Option Nat → State
  | some sl => s.meterUp sl (·.withJob n srcLen)
  | none => s

/-- The job of a context joins the queue of its class, which is dispatched. -/
def State.jobQueued (s : State) (c n : Nat) (run slice : Option Nat) : State :=
  let t : State := { s with cpu := { s.cpu with engines := { s.cpu.engines with
    queue := s.cpu.engines.queue ++ [{ cls := ctxClass n, core := c, ctx := n, run := run, svc := 2, slice := slice }] } } }
  t.dispatchJobs (ctxClass n)

section
variable {s : State} {c n : Nat}

/-- R361, R362: the runtime reaches every context of a core, and a run those of its own. -/
theorem ctxAsked_iff (hc : c < 144) (hn : n < 64) :
    s.ctxAsked c n = true ↔ (s.core c).sup = true ∨ (n < 32 ∧ (s.core c).run.isSome = true) := by
  simp [State.ctxAsked, builtCores, hc, hn]

theorem exec_engGo (hasked : s.ctxAsked c n = true) (input aux : List Byte) : exec (.engGo c n input aux) s =
    .next ((s.engGo c n input aux).2.goReplied n (BitVec.ofNat 64 (s.engGo c n input aux).1)) :=
  congrArg Host.Outcome.next (if_pos hasked)

/-- A context that is BUSY takes no job. -/
theorem engGo_of_busy (hbusy : (s.askedCtx c n).busy = true) (input aux : List Byte) : s.engGo c n input aux = (1, s) :=
  if_pos hbusy

theorem engGo_of_idle (hbusy : (s.askedCtx c n).busy = false) {slice : Option Nat} (hslice : s.runSlice (s.ctxRun c n) = slice)
    (input aux : List Byte) : s.engGo c n input aux =
    (0, ((s.jobTaken c n input aux).jobCounted n (readDesc (s.askedCtx c n).desc).srcLen slice).jobQueued c n (s.ctxRun c n)
      slice) := by
  obtain rfl : (s.jobTaken c n input aux).runSlice (s.ctxRun c n) = slice := (runSlice_setCtxOf ..).trans hslice
  exact if_neg (Bool.eq_false_iff.1 hbusy)

end

/-! ## ENG.CTL (R366) -/

/-- A context after a write of ENG.CTL. -/
def EngCtx.ctl (k : EngCtx) (v : Nat) : EngCtx :=
  { k with
    opn := if bitOf v 1 && !k.busy then false else k.opn
    msg := if bitOf v 1 && !k.busy then none else k.msg
    abort := k.abort || (bitOf v 0 && k.busy) }

theorem engCtl_eq (s : State) (c n v : Nat) :
    s.engCtl c n v = s.setCtxOf c (s.ctxRun c n) n ((s.askedCtx c n).ctl v) := rfl

theorem ctl_close (k : EngCtx) : k.ctl 2 = if k.busy then k else { k with opn := false, msg := none } := by
  cases k with
  | mk desc code opn busy => cases busy <;> simp [EngCtx.ctl, bitOf]

theorem ctl_abort (k : EngCtx) : k.ctl 1 = if k.busy then { k with abort := true } else k := by
  cases k with
  | mk desc code opn busy => cases busy <;> simp [EngCtx.ctl, bitOf]

/-! ## Who yields (R371) -/

section
variable {s : State} {u : Nat} {q b : EngReq}

theorem yields_of_aged (h : b.aged = true) : s.yields u q b = true := by
  simp [State.yields, h]

theorem yields_of_lower (h : b.svc < q.svc) : s.yields u q b = true := by
  simp [State.yields, h]

theorem not_yields_of_higher (h : q.svc < b.svc) (hfresh : b.aged = false) : s.yields u q b = false := by
  rw [State.yields, hfresh, decide_eq_false (Nat.not_lt_of_gt h), decide_eq_false (Nat.ne_of_gt h)]
  rfl

end

/-! ## The running job at a boundary, and without one (R371 to R373, R387) -/

/-- The state in which the unit takes up `b` and sets the running job `q` aside (R371 to R373). -/
def State.switched (s : State) (cls : EngineClass) (u : Nat) (q b : EngReq) : State :=
  let t := s.drawn.startJob cls u b
  { t with cpu := { t.cpu with engines := { t.cpu.engines with
    queue := t.cpu.engines.queue ++ [{ q with aged := false }]
    wrapIv := if cls = .cipher ∧ q.run.isSome then t.cpu.engines.wrapIv + 1 else t.cpu.engines.wrapIv } } }

section
variable {s : State} {cls : EngineClass} {u : Nat} {q b : EngReq} (hrun : (s.unit cls u).running = some q)
include hrun

/-- R387: a job that reaches no boundary ends with ENGINE. -/
theorem exec_engineNoBoundaryTimeout : exec (.engineNoBoundaryTimeout cls u) s =
    .next (((s.endJob q (some u) { code := 12 }).engineFault cls u 1).dispatchJobs cls) := by
  rw [exec, execEngineNoBoundaryTimeout, hrun]

theorem exec_engineSwitchBoundary_of_abort (habort : (s.ctxOf q.core q.run q.ctx).abort = true) (ok : Bool) :
    exec (.engineSwitchBoundary cls u ok) s = .next ((s.endJob q (some u) { code := 13 }).dispatchJobs cls) := by
  rw [exec, execEngineSwitchBoundary, hrun]
  exact congrArg Host.Outcome.next (if_pos habort)

variable (habort : (s.ctxOf q.core q.run q.ctx).abort = false)
include habort

/-- Without an ABORT the boundary turns on the job that is picked. -/
theorem exec_engineSwitchBoundary_of_none (hpick : s.pickReq cls (s.unit cls u).lastWinner = none) (ok : Bool) :
    exec (.engineSwitchBoundary cls u ok) s = .next s := by
  rw [exec, execEngineSwitchBoundary, hrun]
  refine congrArg Host.Outcome.next ((if_neg (Bool.eq_false_iff.1 habort)).trans ?_)
  rw [hpick]

variable (hpick : s.pickReq cls (s.unit cls u).lastWinner = some b)
include hpick

theorem exec_engineSwitchBoundary_of_keeps (hyields : s.yields u q b = false) (ok : Bool) :
    exec (.engineSwitchBoundary cls u ok) s = .next s.drawn := by
  rw [exec, execEngineSwitchBoundary, hrun]
  refine congrArg Host.Outcome.next ((if_neg (Bool.eq_false_iff.1 habort)).trans ?_)
  simp only [hpick, hyields]
  rfl

theorem exec_engineSwitchBoundary_of_yields (hyields : s.yields u q b = true) {ok : Bool}
    (hok : ok = true ∨ cls ≠ .cipher ∨ b.run = none) :
    exec (.engineSwitchBoundary cls u ok) s = .next (s.switched cls u q b) := by
  have hrestores (begun : Bool) : (cls = .cipher && b.run.isSome && begun && !ok) = false := by
    rcases hok with rfl | hcls | hruntime
    · exact Bool.and_false _
    · rw [decide_eq_false hcls, Bool.false_and, Bool.false_and, Bool.false_and]
    · rw [hruntime, Option.isSome_none, Bool.and_false, Bool.false_and, Bool.false_and]
  rw [exec, execEngineSwitchBoundary, hrun]
  refine congrArg Host.Outcome.next ((if_neg (Bool.eq_false_iff.1 habort)).trans ?_)
  simp only [hpick, hyields, hrestores]
  rfl

end

/-! ## Waits and tests (R371, R468, R469) -/

theorem exec_engineJobWaitLimit (s : State) (c n : Nat) : exec (.engineJobWaitLimit c n) s =
    .next { s with cpu := { s.cpu with engines := { s.cpu.engines with
      queue := s.cpu.engines.queue.map fun x => { x with aged := x.aged || (x.core = c && x.ctx = n) } } } } := by
  have haged : (fun x : EngReq => if x.core = c ∧ x.ctx = n then { x with aged := true } else x)
      = fun x => { x with aged := x.aged || (x.core = c && x.ctx = n) } := by
    funext x
    by_cases h : x.core = c ∧ x.ctx = n <;> simp [h, ← Bool.decide_and]
  rw [exec, execEngineJobWaitLimit, haged]

section
variable {s : State} {cls : EngineClass} {u : Nat} (htest : (s.unit cls u).testing = true)
include htest

theorem exec_engineKatComplete_passed : exec (.engineKatComplete cls u true) s =
    .next ((s.setUnit cls u { s.unit cls u with testing := false }).dispatchJobs cls) := by
  rw [exec, execEngineKatComplete, htest]
  rfl

theorem exec_engineKatComplete_failed : exec (.engineKatComplete cls u false) s =
    .next ((s.logFault 0x12 2 [classNum cls, u] none [0] [2, 1]).retireUnit cls u) := by
  rw [exec, execEngineKatComplete, htest]
  rfl

end

/-- Settles O23: the ports act on the context that the core reaches, and each engine event on the job that its unit runs. -/
theorem enginePortsStartControlAndTestJobs : Obligations.EnginePortsStartControlAndTestJobs := by
  refine ⟨fun s c n input aux hc hn => ?_, fun s cls u c n ok q b => ⟨fun hrun habort =>
    exec_engineSwitchBoundary_of_abort hrun habort ok, fun hrun habort hpick =>
    exec_engineSwitchBoundary_of_none hrun habort hpick ok, fun hrun habort hpick hyields =>
    exec_engineSwitchBoundary_of_keeps hrun habort hpick hyields ok, fun hrun habort hpick hyields hok =>
    exec_engineSwitchBoundary_of_yields hrun habort hpick hyields hok,
    not_yields_of_higher, yields_of_lower, yields_of_aged, exec_engineJobWaitLimit s c n, exec_engineNoBoundaryTimeout,
    fun htest => ⟨exec_engineKatComplete_passed htest, exec_engineKatComplete_failed htest⟩⟩⟩
  intro run k cls reply taken queued asked
  have hasked : s.ctxAsked c n = true ↔ asked := ctxAsked_iff hc hn
  refine ⟨fun h hbusy => ?_, fun hn32 hsup hbusy => ?_, fun i r hn32 hrun hr hbusy => ?_, fun h => ?_, fun h => ?_, fun h => ?_⟩
  · rw [exec_engGo (hasked.2 h), engGo_of_busy hbusy]
    rfl
  · have hnone : s.ctxRun c n = none := if_neg (by omega)
    have hslice : s.runSlice (s.ctxRun c n) = none := by
      rw [hnone]
      rfl
    rw [exec_engGo (hasked.2 (.inl hsup)), engGo_of_idle hbusy hslice]
    rfl
  · have hsome : s.ctxRun c n = some i := (if_pos hn32).trans hrun
    have hslice : s.runSlice (s.ctxRun c n) = some r.slice := by
      rw [hsome, State.runSlice, Option.bind_some, hr, Option.map_some]
    rw [exec_engGo (hasked.2 (.inr ⟨hn32, hrun ▸ rfl⟩)), engGo_of_idle hbusy hslice]
    rfl
  · exact congrArg Host.Outcome.next ((if_pos (hasked.2 h)).trans (congrArg (s.setCtxOf c run n) (ctl_close k)))
  · exact congrArg Host.Outcome.next ((if_pos (hasked.2 h)).trans (congrArg (s.setCtxOf c run n) (ctl_abort k)))
  · have hclosed : ¬s.ctxAsked c n = true := fun ha => h (hasked.1 ha)
    exact ⟨congrArg Host.Outcome.next (if_neg hclosed), congrArg Host.Outcome.next (if_neg hclosed),
      congrArg Host.Outcome.next (if_neg hclosed)⟩

end Sys2Proof.Machine
end

section
/-! DRAM codewords: what a store leaves readable under the domain of its write (R393, R395, R397, R398), and what a request
changes by entering its queue (R82, R402, R403). -/

namespace Sys2Proof.Machine

/-! ## What a store leaves readable -/

/-- Bytes read back as written. -/
theorem Mem.read_write {m : Mem} (a : Nat) (bs : List Byte) (hm : Mem.wf m = true) :
    Mem.read (Mem.write m a bs) a bs.length = bs := by
  refine List.ext_getElem (by simp [Mem.read]) fun i _ hi => ?_
  simp only [Mem.read, List.getElem_map, List.getElem_range, Mem.get_write _ _ _ hm]
  rw [if_pos ⟨Nat.le_add_right .., by omega⟩, Nat.add_sub_cancel_left, List.getD_eq_getElem _ _ hi]

/-- R398: a codeword's domain is the one recorded, once its entry is replaced or nothing else was recorded. -/
theorem domainOf_setDomain {s : State} {a domain : Nat} (ha : a % 64 = 0)
    (h : domain ≠ s.homeDomain a ∨ Tbl.get? s.dram.domains (a / 64) = none) :
    (s.setDomain (a / 64) domain).domainOf a = domain := by
  have hcw : a / 64 * 64 = a := by omega
  change (Tbl.get? (if s.homeDomain (a / 64 * 64) = domain then Tbl.del s.dram.domains (a / 64)
    else Tbl.set s.dram.domains (a / 64) domain) (a / 64)).getD (s.homeDomain a) = domain
  rw [hcw]
  split
  next hhome =>
    rw [Tbl.get?_del_none _ _ (h.resolve_left fun hne => hne hhome.symm)]
    exact hhome
  next => rw [Tbl.get?_set_self, Option.getD_some]

/-- Outside the local memories, a codeword under its own domain is read at its address. -/
theorem dramBytes_of_other {s : State} {addr domain : Nat} {t : Bool} (hdom : s.domainOf (addr / 64 * 64) = domain)
    (hplace : s.dramPlace (addr / 64 * 64) = .other t) :
    s.dramBytes addr domain = Mem.read s.dram.filled (addr / 64 * 64) 64 := by
  simp only [State.dramBytes, hdom, hplace, ne_eq, not_true_eq_false, if_false]

/-- R398: under another domain than its own, a codeword reads as free bytes. -/
theorem dramBytes_of_foreign {s : State} {addr domain : Nat} (hdom : s.domainOf (addr / 64 * 64) ≠ domain) :
    s.dramBytes addr domain = s.freeBytes 64 := if_pos hdom

/-- The mark for the scrub leaves what a codeword reads as. -/
theorem dramBytes_celWritten (s : State) (cw a domain : Nat) : (s.celWritten cw).dramBytes a domain = s.dramBytes a domain :=
  rfl

/-- In the filled region, a store writes the bytes at their address. -/
theorem dramStore_of_filled {s : State} {a : Nat} (hplace : s.dramPlace a = .other false) (bs : List Byte) :
    s.dramStore a bs = { s with dram := { s.dram with filled := Mem.write s.dram.filled a bs } } := by
  rw [State.dramStore, hplace]
  rfl

/-- A requester's write of a codeword: its bytes, its domain, and the mark for the scrub (R398, R412). -/
def State.putCodeword (s : State) (a domain : Nat) (bs : List Byte) : State :=
  ((s.dramStore a bs).setDomain (a / 64) domain).celWritten (a / 64)

/-- R398: a codeword of the filled region reads back under the domain of its write. -/
theorem dramBytes_putCodeword {s : State} {a domain : Nat} {bs : List Byte} (ha : a % 64 = 0) (hlen : bs.length = 64)
    (hplace : s.dramPlace a = .other false) (hmem : Mem.wf s.dram.filled = true)
    (hdom : domain ≠ 1024 ∨ Tbl.get? s.dram.domains (a / 64) = none) :
    (s.putCodeword a domain bs).dramBytes a domain = bs := by
  have hcw : a / 64 * 64 = a := by omega
  have hhome : s.homeDomain a = 1024 := by rw [State.homeDomain, hplace]
  rw [State.putCodeword, dramBytes_celWritten, dramStore_of_filled hplace, dramBytes_of_other (t := false)]
  · rw [hcw, ← hlen]
    exact Mem.read_write a bs hmem
  · rw [hcw]
    exact domainOf_setDomain ha (hdom.imp_left fun hne => hhome ▸ hne)
  · rw [hcw]
    exact hplace

/-! ## The request queues (R402, R403) -/

/-- Leaving self-refresh changes the DRAM's refresh state and subchannels only. -/
theorem dramWake_eq (s : State) :
    ∃ r subs, s.dramWake = { s with dram := { s.dram with selfRef := r, subs := subs } } := by
  unfold State.dramWake
  split
  · exact ⟨_, _, rfl⟩
  · exact ⟨s.dram.selfRef, s.dram.subs, rfl⟩

/-- Leaving self-refresh closes rows and keeps the requests that wait. -/
theorem reads_dramWake (s : State) (i : Nat) : (s.dramWake.subch i).reads = (s.subch i).reads := by
  unfold State.dramWake
  split
  · change (((Tbl.get? (Tbl.mapV s.dram.subs fun _ x => x.refreshed) i).getD {}).reads) = _
    rw [getMap, State.subch, Tbl.getD]
    cases Tbl.get? s.dram.subs i <;> rfl
  · rfl

/-- A request changes the DRAM's refresh state, its subchannels and the next request's number only. -/
theorem enqueue_eq (s : State) (a : Nat) (write : Bool) (cls : BitVec 2) (flash : Option Nat) :
    ∃ r subs n, s.enqueue a write cls flash
      = { s with dram := { s.dram with selfRef := r, subs := subs, nextReq := n } } := by
  obtain ⟨r, subs, hwake⟩ := dramWake_eq s
  simp only [State.enqueue, hwake]
  split <;> split <;> exact ⟨_, _, _, rfl⟩

/-- A read enters a queue that has room at its end. -/
theorem reads_enqueue {s : State} {a : Nat} (hroom : (s.subch (2 * dramChan a + dramSub a)).reads.length < 64)
    (cls : BitVec 2) (flash : Option Nat) :
    ((s.enqueue a false cls flash).subch (2 * dramChan a + dramSub a)).reads
      = (s.subch (2 * dramChan a + dramSub a)).reads ++
        [{ id := s.dram.nextReq, write := false, cls := cls, cw := a / 64, bank := dramBank a + 32 * s.dramRank a,
           row := s.dramRow a, flash := flash }] := by
  have hreads := reads_dramWake s (2 * dramChan a + dramSub a)
  obtain ⟨r, subs, hwake⟩ := dramWake_eq s
  have hfull : ¬64 ≤ (s.dramWake.subch (2 * dramChan a + dramSub a)).reads.length := by
    rw [hreads]
    omega
  simp only [State.enqueue, Bool.false_eq_true, if_false, if_neg hfull, subch_mod]
  rw [← hreads, hwake]
  rfl

/-! ## Replies (R397) -/

/-- A reply is given at once where its page is not being filled. -/
theorem dramReply_of_not_filling {s : State} {r : DramReply} (h : Tbl.get? s.dram.filling (r.addr / 4096) = none) :
    s.dramReply r = { s with dram := { s.dram with replies := r :: s.dram.replies } } := by
  rw [State.dramReply, h]

/-- A reply of a page that is being filled waits, after those that wait already. -/
theorem dramReply_of_filling {s : State} {r : DramReply} {l : List DramReply}
    (h : Tbl.get? s.dram.filling (r.addr / 4096) = some l) :
    s.dramReply r = { s with dram := { s.dram with filling := Tbl.set s.dram.filling (r.addr / 4096) (l ++ [r]) } } := by
  rw [State.dramReply, h]

end Sys2Proof.Machine
end

section
/-! The DRAM's decoder (R408 to R411), the domain of a request (R399), and the reads and writes made of them. -/

namespace Sys2Proof.Machine

/-! ## The decoder (R408, R411) -/

/-- The bytes of a codeword that arrived wrong. -/
def wrongBytes (err : DramErrors) : List Nat :=
  ((err.diffs.filter fun z => z.2 ≠ 0 ∧ z.1 < 80).map fun z => z.1).eraseDups

section
variable {s : State} {a : Nat} {err : DramErrors}

/-- Without a marked device, the decoder goes by how many bytes are wrong. -/
theorem dramDecode_unmarked (hmark : Tbl.get? (s.dchan (dramChan a)).marks (s.markIdx a) = none) :
    s.dramDecode a err = if (wrongBytes err).isEmpty then .clean
      else if (wrongBytes err).length ≤ 8 then .corrected
      else if ((wrongBytes err).map fun i => i / 16).eraseDups.length = 1 then .bad
      else if s.freeWord.toNat % 2 = 1 then .wrong else .bad := by
  rw [State.dramDecode, hmark]
  rfl

/-- With a marked device, the decoder goes by whether every wrong byte is of that device. -/
theorem dramDecode_marked {d : Nat} (hmark : Tbl.get? (s.dchan (dramChan a)).marks (s.markIdx a) = some d) :
    s.dramDecode a err = if (wrongBytes err).isEmpty then .clean
      else if (wrongBytes err).all fun i => i / 16 = d then .erased else .wrong := by
  rw [State.dramDecode, hmark]
  rfl

theorem dramDecode_clean (hmark : Tbl.get? (s.dchan (dramChan a)).marks (s.markIdx a) = none) (h : wrongBytes err = []) :
    s.dramDecode a err = .clean := by
  rw [dramDecode_unmarked hmark, h]
  rfl

theorem dramDecode_corrected (hmark : Tbl.get? (s.dchan (dramChan a)).marks (s.markIdx a) = none)
    (hsome : wrongBytes err ≠ []) (hfew : (wrongBytes err).length ≤ 8) : s.dramDecode a err = .corrected := by
  rw [dramDecode_unmarked hmark, if_neg (by simpa using hsome), if_pos hfew]

theorem dramDecode_one_device (hmark : Tbl.get? (s.dchan (dramChan a)).marks (s.markIdx a) = none)
    (hmany : 8 < (wrongBytes err).length) (hone : ((wrongBytes err).map fun i => i / 16).eraseDups.length = 1) :
    s.dramDecode a err = .bad := by
  have hsome : ¬(wrongBytes err).isEmpty := by
    rw [List.isEmpty_iff_length_eq_zero]
    omega
  rw [dramDecode_unmarked hmark, if_neg hsome, if_neg (Nat.not_le_of_lt hmany), if_pos hone]

theorem dramDecode_erased {d : Nat} (hmark : Tbl.get? (s.dchan (dramChan a)).marks (s.markIdx a) = some d)
    (hsome : wrongBytes err ≠ []) (hall : ((wrongBytes err).all fun i => i / 16 = d) = true) :
    s.dramDecode a err = .erased := by
  rw [dramDecode_marked hmark, if_neg (by simpa using hsome), if_pos hall]

/-! ## What a read through the decoder gives (R409, R410, R412) -/

variable {domain cls : Nat}

theorem dramFetch_of_exact (h : s.dramDecode a err = .clean ∨ s.dramDecode a err = .erased) :
    s.dramFetch a domain cls err = (some (s.dramBytes a domain), s.drawnN 64) := by
  rcases h with h | h <;> rw [State.dramFetch, h]

/-- R412: a correction is logged. -/
theorem dramFetch_of_corrected (h : s.dramDecode a err = .corrected) : s.dramFetch a domain cls err
    = (some (s.dramBytes a domain), (s.drawnN 64).logCorrection (a / 64) (mostErrors err.diffs)) := by
  rw [State.dramFetch, h]

/-- A miscorrection gives free bytes. -/
theorem dramFetch_of_wrong (h : s.dramDecode a err = .wrong) :
    s.dramFetch a domain cls err = (some (s.drawn.freeBytes 64), s.drawnN 65) := by
  rw [State.dramFetch, h]

/-- R410: the one device that the test bursts name is marked, and its bytes are taken as erasures. -/
theorem dramFetch_of_one_device {d : Nat} (h : s.dramDecode a err = .bad) (hone : err.testBad.eraseDups = [d])
    (honly : (err.diffs.all fun x => x.2 = 0 || x.1 / 16 = d) = true) :
    s.dramFetch a domain cls err = (some (s.dramBytes a domain), (s.drawnN 65).markDevice a d 1) := by
  simp only [State.dramFetch, h, hone, honly, if_true]

/-- R409: where the test bursts do not name one device, the codeword is uncorrectable. -/
theorem dramFetch_of_uncorrectable (h : s.dramDecode a err = .bad) (hnot : err.testBad.eraseDups.length ≠ 1) :
    s.dramFetch a domain cls err = (none, (s.drawnN 65).dramUncorr a cls 0) := by
  simp only [State.dramFetch, h]
  split
  next d hone => exact absurd (by rw [hone]; rfl) hnot
  next => rfl

end

/-! ## The domain of a request (R399) -/

section
variable {s : State} {c : Nat} {place : DramAt}

theorem requestDomain_core {run : Run} (hrun : s.runOn c = some run)
    (hmode : (s.core c).sup = false ∨ s.dramPlace place.addr = .other true) (va : W64) :
    s.requestDomain place (some (.core c va)) = run.slice := by
  have hown : (!(s.core c).sup || decide (s.dramPlace place.addr = .other true)) = true := by
    rcases hmode with h | h <;> simp [h]
  simp only [State.requestDomain, hown, if_true, hrun]

theorem requestDomain_slice_command (s : State) (place : DramAt) {k : Nat} (hk : k < 1024) (sq : Nat) (cid : W16) :
    s.requestDomain place (some (.command (.queue (256 + k) sq) cid)) = k := by
  have hslice : (Src.queue (256 + k) sq).slice? = some k := by
    rw [Src.slice?, ctrlSlice, if_pos (by omega), Nat.add_sub_cancel_left]
  simp only [State.requestDomain, hslice, Option.getD_some]

theorem requestDomain_running_job {ctx u k : Nat} {q : EngReq} (hjob : s.runningJob c ctx = some (u, q))
    (hslice : q.slice = some k) : s.requestDomain place (some (.engine c ctx)) = k := by
  simp [State.requestDomain, hjob, hslice]

end

/-! ## DRAM_READ (R396, R397, R409) -/

section
variable {s : State} (place : DramAt) (cls : BitVec 2) (flash : Option Nat) (who : Option HostReader) (err : DramErrors)

theorem exec_dramRead_outside (hout : s.dramCap ≤ place.addr) : exec (.dramRead place cls flash who err) s = .next s :=
  congrArg Host.Outcome.next (if_pos hout)

/-- R396: a read of a blank page answers zeros. -/
theorem exec_dramRead_blank (hin : place.addr < s.dramCap) (hblank : s.dramBlank (place.addr / 64 * 64) = true) :
    exec (.dramRead place cls flash who err) s
      = .next (s.dramReply ⟨place.addr / 64 * 64, false, List.replicate 64 0⟩) :=
  congrArg Host.Outcome.next ((if_neg (Nat.not_le_of_lt hin)).trans (if_pos hblank))

variable {cls flash err} {t : State} (hin : place.addr < s.dramCap) (hblank : s.dramBlank (place.addr / 64 * 64) = false)
include hin hblank

/-- A read whose codeword the decoder gives answers its bytes. -/
theorem exec_dramRead_of_fetched {x : List Byte}
    (hfetch : (s.enqueue (place.addr / 64 * 64) false cls flash).dramFetch (place.addr / 64 * 64) (s.requestDomain place who)
      cls.toNat err = (some x, t)) :
    exec (.dramRead place cls flash who err) s = .next (t.dramReply ⟨place.addr / 64 * 64, false, x⟩) := by
  change execDramRead place cls flash who err s = _
  simp only [execDramRead, if_neg (Nat.not_le_of_lt hin), hblank, Bool.false_eq_true, if_false, hfetch]

/-- R409: a read of an uncorrectable codeword fails. -/
theorem exec_dramRead_of_uncorrectable
    (hfetch : (s.enqueue (place.addr / 64 * 64) false cls flash).dramFetch (place.addr / 64 * 64) (s.requestDomain place who)
      cls.toNat err = (none, t)) :
    exec (.dramRead place cls flash who err) s = .next (t.dramFails (place.addr / 64 * 64) who) := by
  change execDramRead place cls flash who err s = _
  simp only [execDramRead, if_neg (Nat.not_le_of_lt hin), hblank, Bool.false_eq_true, if_false, hfetch]

end

/-! ## DRAM_WRITE (R396, R397, R409) -/

section
variable {s : State} (place : DramAt) (cls : BitVec 2) (bytes : List Byte) (who : Option HostReader) (err : DramErrors)

theorem exec_dramWrite_outside (hout : s.dramCap ≤ place.addr) : exec (.dramWrite place cls bytes who err) s = .next s :=
  congrArg Host.Outcome.next (if_pos (.inl hout))

variable {bytes} {bs : List Byte} (hbs : bytes.take (64 - place.addr % 64) = bs) (hwork : place.addr < s.dramCap ∧ bs ≠ [])
include hwork

/-- A write of some bytes within the DRAM is not skipped. -/
theorem not_write_skipped : ¬(s.dramCap ≤ place.addr ∨ bs = []) := by
  rw [not_or]
  exact ⟨Nat.not_le_of_lt hwork.1, hwork.2⟩

include hbs

/-- R396: the first write to a blank page fills it. -/
theorem exec_dramWrite_blank (hblank : s.dramBlank place.addr = true) : exec (.dramWrite place cls bytes who err) s
    = .next ((s.enqueue place.addr true cls none).fillPage place.addr (s.requestDomain place who) bs) := by
  change execDramWrite place cls bytes who err s = _
  simp only [execDramWrite, if_neg (not_write_skipped place hwork), hblank, if_true, hbs]

variable (hblank : s.dramBlank place.addr = false)
include hblank

/-- A whole codeword is replaced. -/
theorem exec_dramWrite_whole (hlen : bs.length = 64) : exec (.dramWrite place cls bytes who err) s
    = .next ((s.enqueue place.addr true cls none).putCodeword (place.addr / 64 * 64) (s.requestDomain place who) bs) := by
  change execDramWrite place cls bytes who err s = _
  simp only [execDramWrite, if_neg (not_write_skipped place hwork), hblank, Bool.false_eq_true, if_false, hbs, hlen, if_true]
  rfl

variable {cls err} {t : State} (hpart : bs.length ≠ 64)
include hpart

/-- A part of a codeword is merged with what its read gives. -/
theorem exec_dramWrite_merged {old : List Byte}
    (hfetch : (s.enqueue place.addr true cls none).dramFetch (place.addr / 64 * 64) (s.requestDomain place who) cls.toNat err
      = (some old, t)) :
    exec (.dramWrite place cls bytes who err) s = .next (t.putCodeword (place.addr / 64 * 64) (s.requestDomain place who)
      (old.take (place.addr % 64) ++ bs ++ old.drop (place.addr % 64 + bs.length))) := by
  change execDramWrite place cls bytes who err s = _
  simp only [execDramWrite, if_neg (not_write_skipped place hwork), hblank, Bool.false_eq_true, if_false, hbs, if_neg hpart,
    hfetch]
  rfl

/-- R409: a merge whose read finds the codeword uncorrectable fails: nothing is put. -/
theorem exec_dramWrite_of_uncorrectable
    (hfetch : (s.enqueue place.addr true cls none).dramFetch (place.addr / 64 * 64) (s.requestDomain place who) cls.toNat err
      = (none, t)) :
    exec (.dramWrite place cls bytes who err) s = .next (t.dramFails (place.addr / 64 * 64) who) := by
  change execDramWrite place cls bytes who err s = _
  simp only [execDramWrite, if_neg (not_write_skipped place hwork), hblank, Bool.false_eq_true, if_false, hbs, if_neg hpart,
    hfetch]

end

/-- R398: a whole codeword of the filled region, written, reads back under the domain of its write. -/
theorem exec_dramWrite_reads_back {s : State} (place : DramAt) {bytes : List Byte} (cls : BitVec 2)
    (who : Option HostReader) (err : DramErrors) (hin : place.addr < s.dramCap) (hblank : s.dramBlank place.addr = false)
    (halign : place.addr % 64 = 0) (hlen : bytes.length = 64) (hplace : s.dramPlace place.addr = .other false)
    (hmem : Mem.wf s.dram.filled = true)
    (hdom : s.requestDomain place who ≠ 1024 ∨ Tbl.get? s.dram.domains (place.addr / 64) = none) :
    ∃ t, exec (.dramWrite place cls bytes who err) s = .next t
      ∧ t.dramBytes place.addr (s.requestDomain place who) = bytes := by
  have hcw : place.addr / 64 * 64 = place.addr := by omega
  have hbs : bytes.take (64 - place.addr % 64) = bytes := List.take_of_length_le (by omega)
  have hsome : bytes ≠ [] := List.ne_nil_of_length_pos (by omega)
  refine ⟨_, exec_dramWrite_whole place cls who err hbs ⟨hin, hsome⟩ hblank hlen, ?_⟩
  obtain ⟨r, subs, n, henq⟩ := enqueue_eq s place.addr true cls none
  rw [henq, hcw]
  exact dramBytes_putCodeword halign hlen hplace hmem hdom

/-! ## BLANK_PAGE_FILL_COMPLETE (R397) -/

theorem exec_blankPageFillComplete_idle {s : State} {page : Nat} (h : Tbl.get? s.dram.filling page = none) :
    exec (.blankPageFillComplete page) s = .next s := by
  change execBlankPageFillComplete page s = _
  rw [execBlankPageFillComplete, h]

/-- At the end of the fill the replies that waited are given, in the order in which they came. -/
theorem exec_blankPageFillComplete_waited {s : State} {page : Nat} {l : List DramReply}
    (h : Tbl.get? s.dram.filling page = some l) : exec (.blankPageFillComplete page) s = .next { s with dram := { s.dram with
      filling := Tbl.del s.dram.filling page, replies := l.reverse ++ s.dram.replies } } := by
  change execBlankPageFillComplete page s = _
  rw [execBlankPageFillComplete, h]

/-- Settles O47: a read is by the decoder's answer, a write by whether its page is blank and how much of
its codeword it covers. -/
theorem dramReadsAndWritesAreCorrected : Obligations.DramReadsAndWritesAreCorrected := by
  intro s addr named page cls flash who err bytes old l r d c ctx k sq cid va run u' q a i u w bs hasWork good
    domain read write dec put at_ mark by_
  refine ⟨fun hrun hmode => requestDomain_core hrun hmode va, fun hk => requestDomain_slice_command s _ hk sq cid,
    requestDomain_running_job, rfl,
    fun hout => ⟨exec_dramRead_outside ⟨addr, named⟩ cls flash who err hout,
      exec_dramWrite_outside ⟨addr, named⟩ cls bytes who err hout⟩,
    exec_dramRead_blank ⟨addr, named⟩ cls flash who err,
    fun hin hblank => ⟨fun h => ?_, fun h => ?_, fun h => ?_, fun h hone honly => ?_, fun h hnot => ?_⟩,
    rfl, fun _ => rfl, dramDecode_clean, dramDecode_corrected, dramDecode_one_device, dramDecode_erased,
    dramBytes_of_other, dramBytes_of_foreign, fun hwork hblank => ?_, fun hwork hblank hlen => ?_,
    fun hwork hblank hpart t => ⟨fun hfetch => ?_, fun hfetch => ?_⟩,
    exec_dramWrite_reads_back ⟨addr, named⟩ cls who err, fun hroom => reads_enqueue hroom cls flash, fun h => ?_, fun h => ?_,
    exec_blankPageFillComplete_idle, exec_blankPageFillComplete_waited⟩
  · exact exec_dramRead_of_fetched ⟨addr, named⟩ who hin hblank (dramFetch_of_exact h)
  · exact exec_dramRead_of_fetched ⟨addr, named⟩ who hin hblank (dramFetch_of_corrected h)
  · exact exec_dramRead_of_fetched ⟨addr, named⟩ who hin hblank (dramFetch_of_wrong h)
  · exact exec_dramRead_of_fetched ⟨addr, named⟩ who hin hblank (dramFetch_of_one_device h hone honly)
  · exact exec_dramRead_of_uncorrectable ⟨addr, named⟩ who hin hblank (dramFetch_of_uncorrectable h hnot)
  · exact ⟨_, exec_dramWrite_blank ⟨addr, named⟩ cls who err rfl hwork hblank, rfl, Tbl.get?_set_self ..⟩
  · exact exec_dramWrite_whole ⟨addr, named⟩ cls who err rfl hwork hblank hlen
  · exact exec_dramWrite_of_uncorrectable ⟨addr, named⟩ who rfl hwork hblank hpart hfetch
  · exact exec_dramWrite_merged ⟨addr, named⟩ who rfl hwork hblank hpart hfetch
  · rw [dramReply_of_not_filling h]
  · rw [dramReply_of_filling h]
    exact ⟨rfl, Tbl.get?_set_self ..⟩

end Sys2Proof.Machine
end

section
/-! What answering the host leaves alone: a completion, an event or an interrupt changes the controllers and their logs, what
waits behind a migration log, the counts of traffic, the sideband's record of its command and what has left the device. -/

namespace Sys2Proof.Machine

/-- What each step of a fold leaves, the fold leaves. -/
theorem foldl_keeps {α β : Type} {f : State → α → State} (g : State → β) (hf : ∀ s x, g (f s x) = g s) (l : List α) (s : State) :
    g (l.foldl f s) = g s := by
  induction l generalizing s with
  | nil => rfl
  | cons x l ih => exact (ih (f s x)).trans (hf s x)

/-- A state without what an answer to the host may change. -/
def State.withoutAnswers (s : State) : State :=
  { s with host := { slices := s.host.slices }, meter := {}, out := {}, dev := { s.dev with side := {} } }

theorem withoutAnswers_modCtrl (s : State) (i : Nat) (f : Ctrl → Ctrl) : (s.modCtrl i f).withoutAnswers = s.withoutAnswers := rfl

theorem withoutAnswers_modLog (s : State) (i : Nat) (f : CtrlLog → CtrlLog) : (s.modLog i f).withoutAnswers = s.withoutAnswers := rfl

theorem withoutAnswers_out (s : State) (o : Out) : ({ s with out := o } : State).withoutAnswers = s.withoutAnswers := rfl

theorem withoutAnswers_meterUp (s : State) (sl : Nat) (f : Counts → Counts) : (s.meterUp sl f).withoutAnswers = s.withoutAnswers := by
  unfold State.meterUp
  split <;> rfl

theorem withoutAnswers_sendReq (s : State) (r : HostReq) : (s.sendReq r).withoutAnswers = s.withoutAnswers := by
  unfold State.sendReq
  extract_lets o n
  split
  · rfl
  · split <;> rfl

theorem withoutAnswers_writeOut (s : State) (port : Nat) (slice : Option Nat) (iova : W64) (d : Data) (data : Bool) :
    (s.writeOut port slice iova d data).withoutAnswers = s.withoutAnswers :=
  foldl_keeps State.withoutAnswers (fun s _ => withoutAnswers_sendReq s _) _ s

theorem withoutAnswers_logPage {s t : State} {sl page : Nat} (h : s.logPage sl page = some t) : t.withoutAnswers = s.withoutAnswers := by
  unfold State.logPage at h
  split at h
  · cases h; rfl
  · split at h
    · cases h
    · cases h; rfl
    · cases h
      split
      · exact withoutAnswers_writeOut ..
      · rfl

theorem withoutAnswers_raiseMsi (s : State) (i v : Nat) : (s.raiseMsi i v).withoutAnswers = s.withoutAnswers := by
  unfold State.raiseMsi
  split <;> rfl

theorem withoutAnswers_signal (s : State) (i cq v : Nat) : (s.signal i cq v).withoutAnswers = s.withoutAnswers := by
  unfold State.signal
  extract_lets f n
  split
  · exact withoutAnswers_raiseMsi s i v
  · split
    · exact withoutAnswers_raiseMsi _ i v
    · rfl

theorem withoutAnswers_writeCqe (s : State) (p : PendCqe) : (s.writeCqe p).withoutAnswers = s.withoutAnswers := by
  unfold State.writeCqe
  extract_lets c
  cases Tbl.get? c.cqs p.cq with
  | none => rfl
  | some q =>
    dsimp -zeta only
    extract_lets addr bytes tail q' t t' _ u v
    have ht : t'.withoutAnswers = s.withoutAnswers := (withoutAnswers_writeOut t _ _ _ _ _).trans (withoutAnswers_modCtrl ..)
    have hu : u.withoutAnswers = s.withoutAnswers := (withoutAnswers_out t' _).trans ht
    have hv : v.withoutAnswers = s.withoutAnswers := by
      dsimp only [v]
      split
      · split
        · exact hu
        · exact (withoutAnswers_meterUp ..).trans hu
      · exact hu
    split
    · exact (withoutAnswers_signal ..).trans hv
    · exact hv

theorem withoutAnswers_cqePast (s : State) (p : PendCqe) : (s.cqePast p).withoutAnswers = s.withoutAnswers := by
  unfold State.cqePast
  split
  · exact withoutAnswers_writeCqe s p
  · extract_lets q page wait
    split
    · rfl
    · split
      next t h => exact (withoutAnswers_writeCqe t p).trans (withoutAnswers_logPage h)
      next => rfl

theorem withoutAnswers_post (s : State) (p : PendCqe) : (s.post p).withoutAnswers = s.withoutAnswers := by
  unfold State.post
  split
  · rfl
  · split
    · exact withoutAnswers_cqePast s p
    · rfl

theorem withoutAnswers_complete (s : State) (q : Src) (cid : W16) (sct sc : Nat) (dw0 dw1 : W32) :
    (s.complete q cid sct sc dw0 dw1).withoutAnswers = s.withoutAnswers := by
  unfold State.complete
  split
  · extract_lets nsid t
    split <;> rfl
  · split
    · rfl
    · extract_lets cq t u v
      have hv : v.withoutAnswers = s.withoutAnswers := by
        dsimp only [v]
        split <;> rfl
      exact (withoutAnswers_post ..).trans hv

theorem withoutAnswers_raiseEvent (s : State) (i : Nat) (v : Event) : (s.raiseEvent i v).withoutAnswers = s.withoutAnswers := by
  unfold State.raiseEvent
  extract_lets c
  split
  · rfl
  · split
    · rfl
    · exact withoutAnswers_complete ..

theorem withoutAnswers_raiseHealth (s : State) (bit info : Nat) : (s.raiseHealth bit info).withoutAnswers = s.withoutAnswers := by
  refine foldl_keeps State.withoutAnswers (fun s i => ?_) _ s
  split
  · exact withoutAnswers_raiseEvent ..
  · rfl

/-! ## The parts of the state that stand -/

@[simp] theorem complete_hm (s : State) (q : Src) (cid : W16) (sct sc : Nat) (dw0 dw1 : W32) :
    (s.complete q cid sct sc dw0 dw1).hm = s.hm := (congrArg State.hm (withoutAnswers_complete s q cid sct sc dw0 dw1) :)

@[simp] theorem setWarn_hm (s : State) (bit info : Nat) : (s.setWarn bit info).hm = s.hm := by
  unfold State.setWarn
  split
  · rfl
  · exact (congrArg State.hm (withoutAnswers_raiseHealth _ bit info) :)

end Sys2Proof.Machine
end

section
/-! The whole block: the front command runs, and every command goes on. -/

namespace Sys2Proof.Machine

/-- Settles O53: `step` is by the queue's two shapes. -/
theorem aStepRunsTheFrontCommand : Obligations.AStepRunsTheFrontCommand := fun _ _ _ => ⟨rfl, rfl⟩

/-- Each arm of the dispatch answers a next state. -/
theorem exec_goesOn (c : Instr) (s : State) : goesOn (exec c s) := by
  cases c <;> exact ⟨_, rfl⟩

/-- Settles O54: the answer is a next state, and what every command keeps includes the queue. -/
theorem everyCommandAnswersANextState : Obligations.EveryCommandAnswersANextState := by
  intro c s
  obtain ⟨t, ht⟩ := exec_goesOn c s
  have hkeep : Keep s.pending False False (nextOr (exec c s) s) := exec_keep c ⟨rfl, False.elim, False.elim⟩
  rw [ht] at hkeep
  exact ⟨t, ht, hkeep.pending⟩

end Sys2Proof.Machine
end

section
/-! Tamper records (R446): how one is kept, and how each is reported at the next power-up. -/

namespace Sys2Proof.Machine

/-- One record is extended into MR6 and logged, and class G raises the warning. -/
def State.reportRecord (s : State) (r : List Byte) : State :=
  let t := (s.eventMr 6 0x16 r).logFault 0x15 2 [0] none [0] (r.map (·.toNat))
  if r.head? = some 2 then t.setWarn 2 0 else t

/-- The records are taken and counted, then reported one by one. -/
theorem tamperReport_eq (s : State) : s.tamperReport = s.hm.records.foldl State.reportRecord
    { s with hm := { s.hm with records := [], tampers := s.hm.tampers + s.hm.records.length } } := rfl

/-- Of the Hallmark unit, a report changes MR6 alone. -/
theorem reportRecord_hm (s : State) (r : List Byte) : (s.reportRecord r).hm = (s.eventMr 6 0x16 r).hm := by
  unfold State.reportRecord
  extract_lets t
  split
  · exact setWarn_hm t 2 0
  · rfl

theorem mr_eventMr_self (s : State) (i type : Nat) (content : List Byte) :
    (s.eventMr i type content).mr i = extendVal (s.mr i) (eventDigest type content) := Tbl.getD_set_self ..

theorem mr_reportRecord (s : State) (r : List Byte) :
    (s.reportRecord r).mr 6 = extendVal (s.mr 6) (eventDigest 0x16 r) := by
  rw [State.mr, reportRecord_hm]
  exact mr_eventMr_self s 6 0x16 r

theorem foldl_reportRecord (rs : List (List Byte)) (s : State) :
    (rs.foldl State.reportRecord s).hm.records = s.hm.records ∧ (rs.foldl State.reportRecord s).hm.tampers = s.hm.tampers
      ∧ (rs.foldl State.reportRecord s).mr 6 = rs.foldl (fun v r => extendVal v (eventDigest 0x16 r)) (s.mr 6) := by
  induction rs generalizing s with
  | nil => exact ⟨rfl, rfl, rfl⟩
  | cons r rs ih =>
    obtain ⟨hrecords, htampers, hmr⟩ := ih (s.reportRecord r)
    have hhm := reportRecord_hm s r
    refine ⟨hrecords.trans (congrArg Hallmark.records hhm :), htampers.trans (congrArg Hallmark.tampers hhm :), hmr.trans ?_⟩
    rw [mr_reportRecord, List.foldl_cons]

/-- Settles O60: a record is its class, its sensor and TIME.PIER, and the report goes through the records in turn. -/
theorem tamperRecordsAreKeptAndReported : Obligations.TamperRecordsAreKeptAndReported := by
  intro s cls sensor num record
  obtain ⟨hrecords, htampers, hmr⟩ := foldl_reportRecord s.hm.records
    { s with hm := { s.hm with records := [], tampers := s.hm.tampers + s.hm.records.length } }
  rw [← tamperReport_eq] at hrecords htampers hmr
  refine ⟨?_, ?_, hrecords, htampers, hmr⟩
  · cases cls <;> rfl
  · simp [record, leBytes]

end Sys2Proof.Machine
end

section
/-! Core faults (R458 to R460), and the errors of on-chip SRAM (R466, R467, R470). -/

namespace Sys2Proof.Machine

/-! ## Core faults -/

/-- A faulted core: its operand cache is dropped, its run has ended with Internal Error, and it has stopped. -/
def State.coreHalted (s : State) (c : Nat) : State :=
  let clean := s.modOc c fun o => { o with lines := [], lost := [] }
  let ended := match (clean.core c).run with
    | none => clean
    | some i => match clean.runAt i with
      | none => clean
      | some r => clean.endRun c i r { sct := 0, sc := 6, dw0 := 0, dw1 := 0, output := { len := 0, parts := [] } }
  ended.modCore c fun k => { k with stopped := true }

/-- It is recorded, with the spares that are mapped then, and logged. -/
def State.coreRecorded (s : State) (c : Nat) (mapped : List Nat) (sev n m : Nat) : State :=
  ({ s with rel := { s.rel with badCores := insNat c s.rel.badCores, spared := mapped } }).logFault 0x0D sev [c / 9, c % 9]
    none [0] [n, m]

section
variable {s : State} {c : Nat}

theorem coreFault_of_faulted (h : c ∈ s.rel.badCores) (n : Nat) : s.coreFault c n = s :=
  if_pos (.inr (List.contains_iff_mem.2 h))

variable (hc : c < 144) (hsound : c ∉ s.rel.badCores) (n : Nat)
include hc hsound

theorem not_coreFault_skipped : ¬(builtCores ≤ c ∨ s.rel.badCores.contains c = true) :=
  not_or.2 ⟨Nat.not_le.2 hc, mt List.contains_iff_mem.1 hsound⟩

/-- R460: the spare that is free takes the place of a core that was in service. -/
theorem coreFault_of_spare (h : (s.coreEnabled c && s.spareFree (c / 9)) = true) :
    s.coreFault c n = (s.coreHalted c).coreRecorded c (insNat (c / 9) (s.coreHalted c).rel.spared) 2 n 1 := by
  rw [State.coreFault, if_neg (not_coreFault_skipped hc hsound)]
  simp only [h, if_true, Bool.not_true, Bool.and_false, Bool.false_eq_true, if_false]
  rfl

/-- R460: without one the forge goes on with one core fewer. -/
theorem coreFault_of_no_spare (h : (s.coreEnabled c && s.spareFree (c / 9)) = false) :
    s.coreFault c n = (let t := (s.coreHalted c).coreRecorded c (s.coreHalted c).rel.spared 3 n 0
      if s.coreEnabled c then t.requestRepl 6 else t) := by
  rw [State.coreFault, if_neg (not_coreFault_skipped hc hsound)]
  simp only [h, Bool.false_eq_true, if_false, Bool.not_false, Bool.and_true]
  rfl

end

/-! ## Corrections -/

section
variable {s : State} {g w : Nat} {e : SramEntry} {rest : List SramEntry}

/-- The log of a group takes the entry of a corrected word. -/
def State.enterSram (s : State) (g : Nat) (rest : List SramEntry) (e : SramEntry) : State :=
  s.modSram g fun x => { x with log := rest ++ [e], next := x.next + 1 }

theorem left_enterSram (rest : List SramEntry) (e : SramEntry) (m : Nat) :
    ((s.enterSram g rest e).sramAt g).left m = (s.sramAt g).left m := by
  have hentry : (s.enterSram g rest e).sramAt g = { s.sramAt g with log := rest ++ [e], next := (s.sramAt g).next + 1 } :=
    Tbl.getD_set_self ..
  rw [hentry]
  rfl

variable (hg : g < 31) (hentry : (s.sramAt g).entry w = some (rest, e))
include hg hentry

/-- A correction enters what becomes of the word's entry, and logs the row that it flags. -/
theorem exec_sramCorrection_of_entry {y : SramEntry}
    (hy : (if e.scrub then { e with flag := true } else { e with hits := min (e.hits + 1) 15, scrub := 2 ≤ e.hits + 1 }) = y) :
    exec (.sramCorrection g w) s = .next (if y.flag && !e.flag then
      (s.enterSram g rest y).logFault 0x0A 1 [g] none [Config.sramMacro g w, Config.sramRow g w]
        [0, (s.sramAt g).left (Config.sramMacro g w)]
      else s.enterSram g rest y) := by
  have hgroup : ¬sramGroups ≤ g := Nat.not_le.2 hg
  rw [exec, execSramCorrection, if_neg hgroup, hentry, ← left_enterSram rest y]
  simp only [hy]
  rfl

theorem exec_sramCorrection_before_scrub (h : e.scrub = false) : exec (.sramCorrection g w) s
    = .next (s.enterSram g rest { e with hits := min (e.hits + 1) 15, scrub := 2 ≤ e.hits + 1 }) := by
  rw [exec_sramCorrection_of_entry hg hentry (if_neg (Bool.eq_false_iff.1 h)), if_neg (by simp)]

theorem exec_sramCorrection_after_scrub (h : e.scrub = true) (hflag : e.flag = false) : exec (.sramCorrection g w) s
    = .next ((s.enterSram g rest { e with flag := true }).logFault 0x0A 1 [g] none
        [Config.sramMacro g w, Config.sramRow g w] [0, (s.sramAt g).left (Config.sramMacro g w)]) := by
  rw [exec_sramCorrection_of_entry hg hentry (if_pos h), if_pos (by simp [hflag])]

theorem exec_sramCorrection_of_flagged (h : e.scrub = true) (hflag : e.flag = true) : exec (.sramCorrection g w) s
    = .next (s.enterSram g rest e) := by
  rw [exec_sramCorrection_of_entry hg hentry (if_pos h), if_neg (by simp [hflag]), ← hflag]

end

/-- R467: a core meets the error at an address and an instruction that are not stated. -/
theorem exec_sramUncorrectable_core {s : State} {c : Nat} (hc : c < 144) (hruns : s.coreRuns c = true) :
    exec (.sramUncorrectable (.core c)) s = .next (
      let t := s.logFault 0x0B 4 [c / 9] none [0, 0] [1]
      t.drawn.drawn.takeSync c { num := 9, addr := s.freeWord } 8 s.drawn.freeWord) := by
  have hbuilt : c < builtCores := hc
  rw [exec, execSramUncorrectable]
  simp only [if_pos hbuilt]
  exact congrArg Host.Outcome.next (if_pos hruns)

/-- Settles O22: a core fault is by whether the spare can take its place, a correction by what the word's entry holds, and
an uncorrectable error by where it stands. -/
theorem coreAndSramFaultsAreContained : Obligations.CoreAndSramFaultsAreContained := by
  refine ⟨?_, ?_⟩
  · intro s c cause hc f n clean ended stopped spare out
    have hn : coreCause cause = n := by cases cause <;> rfl
    have hexec : exec (.iaberCoreFault c cause) s = .next (s.coreFault c n) := by rw [← hn]; rfl
    rw [hexec]
    refine ⟨fun hsound h => ?_, fun hsound h hon => ?_, fun hsound hoff => ?_, fun h => ?_⟩
    · exact congrArg Host.Outcome.next (coreFault_of_spare hc hsound n h)
    · exact congrArg Host.Outcome.next ((coreFault_of_no_spare hc hsound n h).trans (if_pos hon))
    · have hno : (s.coreEnabled c && s.spareFree (c / 9)) = false := by rw [hoff, Bool.false_and]
      exact congrArg Host.Outcome.next ((coreFault_of_no_spare hc hsound n hno).trans (if_neg (Bool.eq_false_iff.1 hoff)))
    · exact congrArg Host.Outcome.next (coreFault_of_faulted h n)
  · intro s g w c n e rest log enter m
    refine ⟨exec_sramCorrection_before_scrub, exec_sramCorrection_after_scrub, exec_sramCorrection_of_flagged,
      fun hc hruns => ⟨_, _, exec_sramUncorrectable_core hc hruns⟩, fun l hline => ?_, rfl, rfl, rfl, fun r hread => ?_,
      fun r hprog => ?_, rfl, rfl, rfl⟩
    · rw [exec, execSramUncorrectable, hline]
      rfl
    · rw [exec, execSramUncorrectable, hread]
      rfl
    · rw [exec, execSramUncorrectable, hprog]
      rfl

end Sys2Proof.Machine
end

section
/-! A device reset (R481, R483): what it keeps and loses, by part of the state. -/

namespace Sys2Proof.Machine

/-- A state without the media's part. -/
def State.withoutMedia (s : State) : State := { s with media := {} }

theorem withoutMedia_loseIu (s : State) (x iu : Nat) : (s.loseIu x iu).withoutMedia = s.withoutMedia := by
  unfold State.loseIu
  split
  · rfl
  · split
    · rfl
    · split <;> rfl

/-- Losing the write buffer changes the media alone. -/
theorem loseBuffer_eq (s : State) : s.loseBuffer = { s with media := s.loseBuffer.media } := by
  have h : s.loseBuffer.withoutMedia = s.withoutMedia :=
    foldl_keeps State.withoutMedia (fun s _ => foldl_keeps State.withoutMedia (fun s _ => withoutMedia_loseIu s _ _) _ s) _ s
  exact congrArg (fun t : State => { t with media := s.loseBuffer.media }) h

/-- A device reset but for the write buffer. -/
def State.downAll (s : State) : State :=
  s.dropInFlight.downCompute.downHost.downDram.downHallmark.downRel.downMedia.downDevice

/-- A self-test ends with the reset. -/
theorem endTest_eq (s : State) (r : Nat) :
    ∃ l, s.endTest r = { s with dev := { s.dev with test := none, results := l } } := by
  unfold State.endTest
  split
  next h => exact ⟨s.dev.results, by rw [← h]⟩
  next => exact ⟨_, rfl⟩

/-- A device reset of the media as the buffer's loss leaves it, with a self-test ended. -/
theorem deviceDown_eq (s : State) : ∃ m l, (s.dev.pwr.marker = true → m = s.media) ∧ s.deviceDown =
    ({ s with media := m, dev := { s.dev with test := none, results := l } } : State).downAll := by
  obtain ⟨m, hm, hlost⟩ : ∃ m, (s.dev.pwr.marker = true → m = s.media)
      ∧ (if s.dev.pwr.marker then s else s.loseBuffer) = { s with media := m } := by
    split
    next => exact ⟨s.media, fun _ => rfl, rfl⟩
    next hno => exact ⟨_, fun hyes => absurd hyes hno, loseBuffer_eq s⟩
  obtain ⟨l, htest⟩ := endTest_eq ({ s with media := m } : State).dropInFlight.downCompute.downHost.downDram.downHallmark.downRel.downMedia 2
  refine ⟨m, l, hm, ?_⟩
  unfold State.deviceDown
  rw [hlost, State.downDevice, htest]
  rfl

theorem deviceDown_hm (s : State) : s.deviceDown.hm = s.downHallmark.hm := by
  obtain ⟨m, l, -, hdown⟩ := deviceDown_eq s
  rw [hdown]
  rfl

theorem deviceDown_host (s : State) : s.deviceDown.host = s.downHost.host := by
  obtain ⟨m, l, -, hdown⟩ := deviceDown_eq s
  rw [hdown]
  rfl

theorem deviceDown_dram (s : State) : s.deviceDown.dram = s.downDram.dram := by
  obtain ⟨m, l, -, hdown⟩ := deviceDown_eq s
  rw [hdown]
  rfl

theorem deviceDown_meter (s : State) : s.deviceDown.meter = { s.meter with fsel := 1, member := 0 } := by
  obtain ⟨m, l, -, hdown⟩ := deviceDown_eq s
  rw [hdown]
  rfl

theorem deviceDown_time (s : State) : s.deviceDown.time = {} := by
  obtain ⟨m, l, -, hdown⟩ := deviceDown_eq s
  rw [hdown]
  rfl

theorem deviceDown_cpu (s : State) : s.deviceDown.cpu = { nextRun := s.cpu.nextRun, nextScan := s.cpu.nextScan } := by
  obtain ⟨m, l, -, hdown⟩ := deviceDown_eq s
  rw [hdown]
  rfl

theorem deviceDown_log (s : State) : s.deviceDown.rel.log = s.rel.log := by
  obtain ⟨m, l, -, hdown⟩ := deviceDown_eq s
  rw [hdown]
  rfl

theorem deviceDown_buf (s : State) : s.deviceDown.media.buf = [] := by
  obtain ⟨m, l, -, hdown⟩ := deviceDown_eq s
  rw [hdown]
  rfl

/-- The namespaces stand where the flush has ended with the buffer empty. -/
theorem deviceDown_ns {s : State} (h : s.dev.pwr.marker = true) : s.deviceDown.media.ns = s.media.ns := by
  obtain ⟨m, l, hmedia, hdown⟩ := deviceDown_eq s
  rw [hdown, hmedia h]
  rfl

theorem deviceDown_pwr (s : State) : s.deviceDown.dev.pwr
    = { s.dev.pwr with phase := 0, pierOut := false, actHold := false, wpLow := true } := by
  obtain ⟨m, l, -, hdown⟩ := deviceDown_eq s
  rw [hdown]
  rfl

/-! ## Fault state (R476, R477) -/

theorem enterFault_rel_fault (s : State) (n : Nat) : (s.enterFault n).rel.fault = true := by
  unfold State.enterFault
  split
  · assumption
  · rfl

@[simp] theorem enterFault_hm (s : State) (n : Nat) : (s.enterFault n).hm = s.hm := by
  unfold State.enterFault
  split
  · rfl
  · exact foldl_keeps State.hm (fun t i => (rfl : (t.modCtrl i fun c => { c with cfs := true }).hm = t.hm)) _ _

end Sys2Proof.Machine
end

section
/-! The Hallmark unit: the digest window (R430 to R432), the key bus (R216, R436, R470), the debug port (R448 to R450, R553) and
the responses to tampering (R444 to R446, R490). -/

namespace Sys2Proof.Machine

@[simp] theorem requestRepl_hm (s : State) (bit : Nat) : (s.requestRepl bit).hm = s.hm := by
  unfold State.requestRepl
  split
  · rfl
  · extract_lets _ t _ t' u
    have hu : u.hm = s.hm := by
      dsimp only [u]
      split
      · rfl
      · split
        · exact (congrArg State.hm (withoutAnswers_raiseHealth _ 2 0) :)
        · exact setWarn_hm _ 2 0
    exact hu

@[simp] theorem checkNv_hm (s : State) : s.checkNv.hm = s.hm := by
  unfold State.checkNv
  split
  · exact requestRepl_hm s 11
  · rfl

/-! ## The digest window -/

/-- A digest that starts keeps the registers and has no byte yet. -/
theorem mdStart_hm (s : State) : ∃ k, s.mdStart.hm = { s.hm with mdState := 1, mdMsg := [], mdKey := k }
    ∧ (s.hm.mdKeyed = false → k = none)
    ∧ (s.hm.mdKeyed = true → ∀ y, Tbl.get? s.hm.slots s.hm.mdSlot.toNat = some y → k = some y.key) := by
  refine ⟨_, rfl, fun hplain => ?_, fun hkeyed y hslot => ?_⟩
  · rw [hplain]
    rfl
  · rw [hkeyed, hslot]
    rfl

theorem mdTake_of_running {s : State} (h : s.hm.mdState = 1) (v : W64) :
    s.mdTake v = { s with hm := { s.hm with mdMsg := s.hm.mdMsg ++ leBytes 8 v.toNat } } := by
  unfold State.mdTake
  rw [if_neg (by rw [h]; decide)]

theorem mr_mdTake (s : State) (v : W64) (i : Nat) : (s.mdTake v).mr i = s.mr i := by
  unfold State.mdTake
  split <;> rfl

section
variable {s : State} (v : W64)

theorem exec_hmMddataWrite_running (h : s.hm.mdState = 1) (hroom : s.hm.mdMsg.length + 8 ≤ mdLimit) :
    exec (.hmMddataWrite v) s = .next { s with hm := { s.hm with mdMsg := s.hm.mdMsg ++ leBytes 8 v.toNat } } := by
  rw [exec, execHmMddataWrite, if_neg (by rw [h]; decide), if_neg (by omega), mdTake_of_running h]

theorem exec_hmMddataWrite_full (h : s.hm.mdState = 1) (hfull : mdLimit < s.hm.mdMsg.length + 8) :
    exec (.hmMddataWrite v) s = .next s := by
  rw [exec, execHmMddataWrite, if_neg (by rw [h]; decide), if_pos ⟨h, hfull⟩]

theorem exec_hmMddataWrite_finishing (h : s.hm.mdState = 2) :
    exec (.hmMddataWrite v) s = .next { s with hm := { s.hm with mdWait := s.hm.mdWait ++ [v] } } :=
  congrArg Host.Outcome.next (if_pos h)

theorem exec_hmMddataWrite_idle (h : s.hm.mdState = 0) : exec (.hmMddataWrite v) s = .next (s.mdTake v) := by
  rw [exec, execHmMddataWrite, if_neg (by rw [h]; decide), if_neg (by simp [h])]

/-- The first bytes of a digest follow its start. -/
theorem mdTake_of_idle (h : s.hm.mdState = 0) :
    (s.mdTake v).hm = { s.mdStart.hm with mdMsg := leBytes 8 v.toNat } := by
  unfold State.mdTake
  rw [if_pos h]
  rfl

end

/-- What the FINISH write does to the digest. -/
def Hallmark.finishing (h : Hallmark) (drop : Nat) : Hallmark :=
  { h with mdState := 2, mdMsg := h.mdMsg.take (h.mdMsg.length - drop), mdInto := h.mdTarget.toNat }

section
variable {s : State} {w : W32}

theorem exec_hmMdcmdFinish_ignored (h : ¬w.getLsbD 0 = true ∨ s.hm.mdState = 2 ∨ (s.hm.mdState = 0 ∧ w.toNat / 2 % 8 ≠ 0)) :
    exec (.hmMdcmdFinish w) s = .next s := by
  refine congrArg Host.Outcome.next (if_pos ?_)
  rcases h with h | h | ⟨h, hdrop⟩
  · rw [Bool.not_eq_true] at h
    rw [h]
    rfl
  · simp [h]
  · simp [h, hdrop]

variable (hfin : w.getLsbD 0 = true)
include hfin

theorem exec_hmMdcmdFinish_running (h : s.hm.mdState = 1) : exec (.hmMdcmdFinish w) s
    = .next { s with hm := s.hm.finishing (w.toNat / 2 % 8) } := by
  refine congrArg Host.Outcome.next ((if_neg (by simp [hfin, h])).trans ?_)
  simp only [h]
  rfl

/-- A finish with no byte written takes the digest of nothing. -/
theorem exec_hmMdcmdFinish_idle (h : s.hm.mdState = 0) (hdrop : w.toNat / 2 % 8 = 0) : exec (.hmMdcmdFinish w) s
    = .next { s.mdStart with hm := s.mdStart.hm.finishing (w.toNat / 2 % 8) } := by
  refine congrArg Host.Outcome.next ((if_neg (by simp [hfin, h, hdrop])).trans ?_)
  simp only [h, if_true]
  rfl

end

/-- R431: the finished digest extends its target, and the writes that waited start a new one. -/
theorem exec_hmDigestFinishComplete_finishing {s : State} (h : s.hm.mdState = 2) : exec .hmDigestFinishComplete s = .next (
    s.hm.mdWait.foldl State.mdTake { s with hm := { s.hm with
      mrs := Tbl.set s.hm.mrs s.hm.mdInto (extendVal (s.mr s.hm.mdInto) (digestVal s.hm.mdKey s.hm.mdMsg))
      mdState := 0, mdMsg := [], mdKey := none, mdWait := [] } }) :=
  congrArg Host.Outcome.next (if_neg (not_not_intro h))

theorem exec_hmDigestFinishComplete_extends {s : State} (h : s.hm.mdState = 2) :
    ∃ t, exec .hmDigestFinishComplete s = .next t
      ∧ t.mr s.hm.mdInto = extendVal (s.mr s.hm.mdInto) (digestVal s.hm.mdKey s.hm.mdMsg) := by
  refine ⟨_, exec_hmDigestFinishComplete_finishing h, ?_⟩
  exact (foldl_keeps (fun t : State => t.mr s.hm.mdInto) (fun t v => mr_mdTake t v _) _ _).trans (Tbl.getD_set_self ..)

/-! ## The SVN (R440) -/

theorem exec_hmSvncmtWrite_refused {s : State} {w : W32}
    (h : w.toNat % 256 ≠ s.hm.imgSvn.toNat ∨ w.toNat % 256 ≤ s.hm.fwSvn ∨ 64 < w.toNat % 256) :
    exec (.hmSvncmtWrite w) s = .next s :=
  congrArg Host.Outcome.next (if_neg (by omega))

/-! ## The key bus -/

section
variable {s : State}

theorem exec_keyBusTransfer_not_ready (h : s.hm.ready = false) (dest : KeyDest) (ok : Bool) :
    exec (.keyBusTransfer dest ok) s = .next s := by
  rw [exec, execKeyBusTransfer, if_pos (by rw [h]; rfl)]

variable (hready : s.hm.ready = true)
include hready

theorem not_key_bus_idle : ¬((!s.hm.ready) = true) := by simp [hready]

/-- R436: what a good transfer brings is latched by where it goes. -/
theorem exec_keyBusTransfer_good (dest : KeyDest) : exec (.keyBusTransfer dest true) s = .next (
    let t : State := { s with hm := { s.hm with busFails := 0 } }
    match dest with
      | .cipherLane c x =>
        let k := (x, (t.mediaKey x).gen)
        if c < 32 ∧ x ≤ 4096 then
          t.modMedia fun m => m.modChan c fun y => { y with keys := (k :: y.keys.filter (· ≠ k)).take 64 }
        else t
      | .dramXts c d => match Tbl.get? t.hm.domains d with
        | some k => if c < 4 then t.modDchan c fun y => { y with keys := Tbl.set y.keys d k } else t
        | none => t
      | .cipherPool u n => match Tbl.get? t.hm.slots n with
        | some k => t.setUnit .cipher u { t.unit .cipher u with keyReg := some (n, Tbl.getD t.hm.gens n 0, k.key) }
        | none => t) :=
  congrArg Host.Outcome.next ((if_neg (not_key_bus_idle hready)).trans (if_pos rfl))

theorem exec_keyBusTransfer_bad (dest : KeyDest) : exec (.keyBusTransfer dest false) s = .next (
    if 2 ≤ s.hm.busFails then ({ s with hm := { s.hm with busFails := 0 } } : State).hallmarkFault
    else { s with hm := { s.hm with busFails := s.hm.busFails + 1 } }) :=
  congrArg Host.Outcome.next ((if_neg (not_key_bus_idle hready)).trans (if_neg Bool.false_ne_true))

end

/-! ## The debug port -/

/-- An accepted token resets the slices, lets the commits before it come into force, erases every key and is measured. -/
def State.tokenTaken (s : State) (token : List Byte) : State :=
  (s.resetAll.keyCommit.keyCommit.eraseKeys).eventMr 5 0x15 (token.take 128)

theorem slots_eraseKeys (s : State) : s.eraseKeys.hm.slots = [] := by
  unfold State.eraseKeys
  rw [checkNv_hm]
  rfl

theorem slots_eventMr (s : State) (i type : Nat) (content : List Byte) :
    (s.eventMr i type content).hm.slots = s.hm.slots := rfl

theorem slots_tokenTaken (s : State) (token : List Byte) : (s.tokenTaken token).hm.slots = [] := by
  rw [State.tokenTaken, slots_eventMr, slots_eraseKeys]

/-- The blocks of a token's SCOPE are open (R450). -/
def State.opened (s : State) (scope : Byte) : State :=
  { s with hm := { s.hm with unlocked := true, erased := true, refuses := true, scope := scope } }

theorem opened_hm (s : State) (scope : Byte) : (s.opened scope).hm.unlocked = true ∧ (s.opened scope).hm.refuses = true
    ∧ (s.opened scope).hm.scope = scope ∧ (s.opened scope).hm.slots = s.hm.slots ∧ (s.opened scope).hm.erased = true :=
  ⟨rfl, rfl, rfl, rfl, rfl⟩

theorem exec_jtagUnlock_refused {s : State} {token : List Byte} (h : ¬(s.hm.refusals < 8 ∧ s.tokenGood token = true)) :
    exec (.jtagUnlock token) s
      = .next ({ s with hm := { s.hm with refusals := s.hm.refusals + 1 } } : State).newChallenge := by
  refine congrArg Host.Outcome.next (if_pos ?_)
  rw [Bool.or_eq_true, decide_eq_true_eq, Bool.not_eq_true']
  by_contra hno
  rw [not_or, Nat.not_le, Bool.not_eq_false] at hno
  exact h hno

theorem exec_jtagUnlock_accepted {s : State} {token : List Byte} (h : s.hm.refusals < 8 ∧ s.tokenGood token = true) :
    exec (.jtagUnlock token) s = .next ((s.tokenTaken token).opened (token.getD 5 0)) := by
  refine congrArg Host.Outcome.next (if_neg ?_)
  rw [Bool.or_eq_true, decide_eq_true_eq, Bool.not_eq_true', not_or, Nat.not_le, Bool.not_eq_false]
  exact h

/-! ## Tamper responses -/

/-- A sensor of the class is armed, and no flush before it makes it quiet (R444, R484, R490). -/
def State.armed (s : State) (cls : TamperClass) (sensor : TamperSensor) : Prop :=
  sensorClass sensor = cls ∧ s.dev.pwr.rails = true ∧ s.dev.pwr.perst = false ∧ s.hm.dead = false
    ∧ ¬(s.hm.zeroized = true ∧ (sensor = .railLong true ∨ sensor = .railShort true))

section
variable {s : State} {cls : TamperClass} {sensor : TamperSensor}

/-- R445: an armed sensor is answered unless a response of its class or of one above runs. -/
theorem trip_of_armed (h : s.armed cls sensor) (habove : ∀ r, s.hm.response = some r → r.num < cls.num) :
    s.trip cls sensor = s.respond cls (Config.sensorNumber (sensorIdx sensor)) := by
  obtain ⟨hcls, hrails, hperst, hdead, hloud⟩ := h
  have hquiet : s.railQuiet sensor = false := by
    simpa [State.railQuiet, not_or] using hloud
  unfold State.trip
  rw [hcls, hrails, hperst, hdead, hquiet]
  cases hr : s.hm.response with
  | none => simp
  | some r => simp [habove r hr]

theorem trip_of_unarmed (h : ¬s.armed cls sensor ∨ ∃ r, s.hm.response = some r ∧ cls.num ≤ r.num) :
    s.trip cls sensor = s := by
  refine if_neg fun htrip => ?_
  simp only [Bool.and_eq_true, Bool.not_eq_true', decide_eq_true_eq] at htrip
  obtain ⟨⟨⟨hcls, ⟨hrails, hperst⟩, hdead⟩, habove⟩, hquiet⟩ := htrip
  rcases h with h | ⟨r, hr, hle⟩
  · exact h ⟨hcls, hrails, hperst, hdead, by simpa [State.railQuiet] using hquiet⟩
  · simp only [hr, decide_eq_true_eq] at habove
    omega

end

/-- What a response keeps of the tampering, once the keys are zeroized (R446). -/
theorem zeroize_tamperRecord_hm (s : State) (cls : TamperClass) (b : Byte) :
    (s.zeroize.tamperRecord cls b).hm.records
      = s.hm.records ++ [[BitVec.ofNat 8 cls.num, b] ++ List.replicate 6 0 ++ leBytes 8 s.time.pier.toNat]
    ∧ (s.zeroize.tamperRecord cls b).hm.zeroized = true := ⟨rfl, rfl⟩

theorem internalReset_hm (s : State) : s.internalReset.hm = s.downHallmark.hm := deviceDown_hm s

theorem internalReset_pwr (s : State) : s.internalReset.dev.pwr
    = { s.dev.pwr with phase := 0, pierOut := false, actHold := false, wpLow := true, reboot := true } :=
  congrArg (fun p : Power => { p with reboot := true }) (deviceDown_pwr s)

/-- Settles O49: the digest window is by its state, a key transfer by its parity and its destination, a token by the rules of
R449, and a tamper sensor by whether it is armed and no response of its class or one above runs. -/
theorem hallmarkWindowBusDebugAndTampers : Obligations.HallmarkWindowBusDebugAndTampers := by
  intro s dest c x v w code token sensor h hm taken drop fin svn good key digest out accepted armed num runs record
  refine ⟨exec_hmMddataWrite_running v, exec_hmMddataWrite_full v, exec_hmMddataWrite_finishing v, fun hidle => ?_,
    exec_hmMdcmdFinish_ignored, exec_hmMdcmdFinish_running, fun hfin hidle hdrop => ?_,
    fun hno => congrArg Host.Outcome.next (if_pos hno), fun hfin hwait => ?_, exec_hmDigestFinishComplete_extends, rfl,
    fun himg hfw hmax => congrArg Host.Outcome.next (if_pos ⟨himg, hfw, hmax⟩), exec_hmSvncmtWrite_refused,
    fun hno => ⟨exec_keyBusTransfer_not_ready hno dest true, exec_keyBusTransfer_not_ready hno dest false⟩,
    fun hready hc hx => ?_, fun hready hout => ?_, fun hready hc k hk => ?_, fun hready hout => ?_, fun hready k hk => ?_,
    fun hready hk => ?_, fun hready hfew => ?_, fun hready hmany => ?_, rfl, fun h1 h2 h3 => ?_,
    fun hcode => congrArg Host.Outcome.next (if_pos hcode), rfl, exec_jtagUnlock_refused, fun hgood => ?_,
    fun cls => trip_of_unarmed, rfl, rfl, rfl, fun hnone harmed => ?_, fun hbelow harmed => ?_, fun hbelow harmed => ?_⟩
  · obtain ⟨k, hstart, hplain, hkeyed⟩ := mdStart_hm s
    refine ⟨_, exec_hmMddataWrite_idle v hidle, ?_⟩
    rw [mdTake_of_idle v hidle, hstart]
    exact ⟨rfl, rfl, hplain, hkeyed⟩
  · obtain ⟨k, hstart, -, -⟩ := mdStart_hm s
    refine ⟨_, exec_hmMdcmdFinish_idle hfin hidle hdrop, ?_⟩
    rw [hstart]
    exact ⟨rfl, List.take_nil, rfl⟩
  · have hexec := exec_hmDigestFinishComplete_finishing hfin
    rw [show s.hm.mdWait = [] from hwait] at hexec
    exact hexec
  · refine ⟨_, (exec_keyBusTransfer_good hready _).trans (congrArg Host.Outcome.next (if_pos ⟨hc, hx⟩)), rfl, ?_⟩
    exact congrArg Chan.keys ((chan_mod s.media c c _).trans (if_pos rfl) :)
  · exact (exec_keyBusTransfer_good hready _).trans (congrArg Host.Outcome.next (if_neg (by omega)))
  · have hdomain : Tbl.get? s.hm.domains x = some k := hk
    simp only [exec_keyBusTransfer_good hready, hdomain, if_pos hc]
    rfl
  · rw [exec_keyBusTransfer_good hready]
    rcases hout with hc | hnone
    · simp only [if_neg (Nat.not_lt.2 hc)]
      split <;> rfl
    · simp only [show Tbl.get? s.hm.domains x = none from hnone]
      rfl
  · have hslot : Tbl.get? s.hm.slots x = some k := hk
    simp only [exec_keyBusTransfer_good hready, hslot]
    rfl
  · simp only [exec_keyBusTransfer_good hready, show Tbl.get? s.hm.slots x = none from hk]
    rfl
  · exact (exec_keyBusTransfer_bad hready dest).trans (congrArg Host.Outcome.next (if_neg (Nat.not_le.2 hfew)))
  · exact (exec_keyBusTransfer_bad hready dest).trans (congrArg Host.Outcome.next (if_pos hmany))
  · exact congrArg Host.Outcome.next (if_neg (not_or.2 ⟨h1, not_or.2 ⟨h2, h3⟩⟩))
  · obtain ⟨hunlocked, hrefuses, hscope, hslots, herased⟩ := opened_hm (s.tokenTaken token) (token.getD 5 0)
    exact ⟨_, exec_jtagUnlock_accepted hgood, hunlocked, hrefuses, hscope, hslots.trans (slots_tokenTaken s token), herased⟩
  · have htrip := trip_of_armed harmed fun r hr => absurd (hnone.symm.trans hr) (Option.some_ne_none r).symm
    exact ⟨_, htrip, zeroize_tamperRecord_hm _ .e num⟩
  · have htrip := trip_of_armed harmed fun r hr => by
      have hresponse : s.hm.response = some r := hr
      rcases hbelow with hbelow | hbelow
      · exact absurd (hbelow.symm.trans hresponse) (Option.some_ne_none r).symm
      · cases hbelow.symm.trans hresponse
        decide
    refine ⟨_, congrArg Host.Outcome.next htrip, ?_⟩
    rw [State.respond]
    dsimp only
    rw [internalReset_hm, internalReset_pwr]
    exact ⟨rfl, rfl, rfl, rfl, rfl, rfl, rfl⟩
  · have htrip := trip_of_armed harmed fun r hr => by
      cases r with
      | p => exact absurd hr hbelow
      | _ => decide
    refine ⟨_, congrArg Host.Outcome.next htrip, ?_⟩
    rw [State.respond]
    dsimp only
    rw [enterFault_hm]
    exact ⟨rfl, rfl, rfl, rfl, enterFault_rel_fault _ 1⟩

end Sys2Proof.Machine
end

section
/-! What the formation of the flash array fixes (R148 to R150, R185, R191), through failures of its members. -/

namespace Sys2Proof.Machine

/-- The part of the media that formation fixes. -/
def Media.formation (m : Media) : Media :=
  { formed := m.formed, dpos := m.dpos, ces := m.ces, luns := m.luns, posSets := m.posSets, planes := m.planes
    pageBytes := m.pageBytes, wordlines := m.wordlines, rating := m.rating, suspends := m.suspends, sig := m.sig
    top := m.top, preamble := m.preamble, ppHash := m.ppHash, spares0 := m.spares0 }

theorem requestRepl_media (s : State) (bit : Nat) : (s.requestRepl bit).media = s.media := by
  unfold State.requestRepl
  split
  · rfl
  · extract_lets _ t _ t' u
    have hu : u.media = s.media := by
      dsimp only [u]
      split
      · rfl
      · split
        · exact (congrArg State.media (withoutAnswers_raiseHealth t' 2 0) :)
        · unfold State.setWarn
          split
          · rfl
          · exact (congrArg State.media (withoutAnswers_raiseHealth _ 2 0) :)
    exact hu

theorem formation_queueRefresh (s : State) (x iu : Nat) : (s.queueRefresh x iu).media.formation = s.media.formation := by
  unfold State.queueRefresh
  split
  · extract_lets r
    split <;> rfl
  · rfl

theorem formation_refreshIn (s : State) (set lo hi : Nat) : (s.refreshIn set lo hi).media.formation = s.media.formation :=
  foldl_keeps (fun t : State => t.media.formation) (fun t (x : Ext) => formation_queueRefresh t x.nsx x.iu) _ s

theorem formation_nakedStripe (s : State) (set page : Nat) : (s.nakedStripe set page).media.formation = s.media.formation :=
  formation_refreshIn _ set _ _

theorem formation_cutSet (s : State) (set : Nat) : (s.cutSet set).media.formation = s.media.formation := by
  unfold State.cutSet
  extract_lets b t u page v
  have hu : u.media.formation = s.media.formation := by
    dsimp only [u]
    split
    · exact formation_refreshIn t set _ _
    · rfl
  have hv : v.media.formation = s.media.formation := by
    dsimp only [v]
    split
    · exact (formation_nakedStripe _ set page).trans hu
    · exact hu
  exact hv

theorem formation_degrade (s : State) (hit : Nat → Nat → Bool) : (s.degrade hit).media.formation = s.media.formation := by
  refine foldl_keeps (fun t : State => t.media.formation) (fun t p => ?_) _ s
  refine (formation_refreshIn _ p.1 0 _).trans ?_
  split
  · exact formation_cutSet _ p.1
  · rfl

theorem formation_failChannel (s : State) (c cause : Nat) : (s.failChannel c cause).media.formation = s.media.formation := by
  unfold State.failChannel
  split
  · rfl
  · extract_lets t u
    have hu : u.media.formation = s.media.formation := formation_degrade t fun _ k => k = c
    rw [requestRepl_media]
    exact hu

theorem formation_failDie (s : State) (die cause : Nat) : (s.failDie die cause).media.formation = s.media.formation := by
  unfold State.failDie
  split
  · rfl
  · extract_lets t u v n
    have hu : u.media.formation = s.media.formation := formation_degrade t fun n c => t.media.dieOf n c = die
    have hv : v.media.formation = s.media.formation := by
      dsimp only [v]
      rw [requestRepl_media]
      exact hu
    split
    · exact (formation_failChannel v _ 4).trans hv
    · exact hv

theorem formation_enterColumn (s : State) (die col : Nat) : (s.enterColumn die col).media.formation = s.media.formation := by
  unfold State.enterColumn
  extract_lets bad
  split
  · rfl
  · split
    · exact formation_failDie s die 2
    · rfl

end Sys2Proof.Machine
end

section
/-! Supplies and resets (R478 to R483, R488 to R498): what takes the device down and what it comes up with. -/

namespace Sys2Proof.Machine

/-! ## The supplies -/

section
variable {s : State}

theorem exec_powerOn_down (h : s.dev.pwr.rails = false) : exec .powerOn s = .next { s with
    dev := { s.dev with pwr := { s.dev.pwr with rails := true, perst := true, vid := 0x64, vidTo := 0x64 }
                        smart := { s.dev.smart with cycles := s.dev.smart.cycles + 1 } }
    rel := { s.rel with fault := s.hm.dead } } :=
  congrArg Host.Outcome.next (if_neg (Bool.eq_false_iff.1 h))

/-- A loss of power with the device made counts, unless a shutdown had completed (R144, R498). -/
def State.lossCounted (s : State) : State :=
  if s.dev.pwr.made then
    { s with
      dev := { s.dev with smart := { s.dev.smart with unsafe_ := s.dev.smart.unsafe_ + (if s.dev.pwr.shut then 0 else 1) } }
      meter := { s.meter with powerCut := true } }
  else s

theorem exec_powerRemoved_up (h : s.dev.pwr.rails = true) : ∃ t, exec .powerRemoved s = .next t
    ∧ t.dev.pwr.rails = false ∧ t.dev.pwr.perst = true ∧ t.rel.fault = false ∧ t.rel.repl = 0 ∧ t.hm.response = none
    ∧ t.dev.side.eid = 0 ∧ t.hm.slots = s.hm.slots ∧ t.meter.store = s.meter.store
    ∧ t.dev.pwr.lastDown = (if s.dev.pwr.made then s.dev.pwr.ending else s.dev.pwr.lastDown)
    ∧ t.meter.powerCut = s.lossCounted.meter.powerCut ∧ t.dev.smart.unsafe_ = s.lossCounted.dev.smart.unsafe_ := by
  have hexec : exec .powerRemoved s = .next (
      let t := s.lossCounted.deviceDown.modPwr fun q => { q with
        rails := false, perst := true, reboot := false, plpWarn := false, holdup := false, shut := false
        lastDown := if s.dev.pwr.made then s.dev.pwr.ending else q.lastDown }
      { t with
        rel := { t.rel with fault := false, repl := 0, replaceN := false }
        dev := { t.dev with side := { t.dev.side with eid := 0, i3cAddr := 0 } }
        hm := { t.hm with response := none } }) :=
    congrArg Host.Outcome.next (if_neg (by rw [h]; exact Bool.false_ne_true))
  have hcounted : s.lossCounted.hm = s.hm ∧ s.lossCounted.meter.store = s.meter.store
      ∧ s.lossCounted.dev.pwr = s.dev.pwr := by
    unfold State.lossCounted
    split <;> exact ⟨rfl, rfl, rfl⟩
  obtain ⟨hhm, hstore, hpwr⟩ := hcounted
  obtain ⟨m, l, -, hdown⟩ := deviceDown_eq s.lossCounted
  rw [hdown] at hexec
  refine ⟨_, hexec, rfl, rfl, rfl, rfl, rfl, rfl, (congrArg Hallmark.slots hhm :), hstore, ?_, rfl, rfl⟩
  rw [← hpwr]
  rfl

end

end Sys2Proof.Machine
end

section
/-! Resets, the power-loss flush and the boot (R175, R186, R481 to R498). -/

namespace Sys2Proof.Machine

/-! ## The flush and PLP_WARN_N (R186, R488 to R491) -/

section
variable {s : State}

theorem serving_iff : s.serving = true ↔ s.dev.pwr.rails = true ∧ s.dev.pwr.perst = false ∧ s.dev.pwr.phase = 5 := by
  simp [State.serving, and_assoc]

theorem flushOnce_of_done (h : ¬s.serving = true ∨ s.dev.pwr.marker = true) : s.flushOnce = s := by
  refine if_neg ?_
  rw [Bool.and_eq_true, Bool.not_eq_true', not_and_or, Bool.not_eq_false]
  exact h

/-- Stopping what is in flight leaves the write buffer. -/
theorem dropInFlight_parts (s : State) : s.dropInFlight.media.buf = s.media.buf ∧ s.dropInFlight.cpu.runs = []
    ∧ s.dropInFlight.media.ios = [] ∧ s.dropInFlight.media.waits = [] ∧ s.dropInFlight.dev.side.cmd = none :=
  ⟨rfl, rfl, rfl, rfl, rfl⟩

/-- R490: the flush ends with what is in flight stopped, the keys zeroized, and the marker made if the buffer is empty. -/
theorem powerFlush_eq (s : State) : ∃ t : State, s.powerFlush
    = t.dropInFlight.zeroize.modPwr fun q => { q with marker := t.media.buf.isEmpty, wpLow := true } := ⟨_, rfl⟩

theorem flushOnce_of_serving (h : s.serving = true) (hmark : s.dev.pwr.marker = false) : ∃ u : State,
    s.flushOnce = u.zeroize.modPwr (fun q => { q with marker := u.media.buf.isEmpty, wpLow := true })
      ∧ u.cpu.runs = [] ∧ u.media.ios = [] ∧ u.media.waits = [] ∧ u.dev.side.cmd = none := by
  obtain ⟨t, ht⟩ := powerFlush_eq s
  obtain ⟨hbuf, hstopped⟩ := dropInFlight_parts t
  have honce : s.flushOnce = s.powerFlush := if_pos (by rw [h, hmark]; rfl)
  rw [← hbuf] at ht
  exact ⟨_, honce.trans ht, hstopped⟩

theorem exec_plpWarnAssert_idle (h : s.dev.pwr.rails = false ∨ s.dev.pwr.plpWarn = true) :
    exec .plpWarnAssert s = .next s := by
  refine congrArg Host.Outcome.next (if_pos ?_)
  rcases h with h | h <;> simp [h]

theorem not_warned (hrails : s.dev.pwr.rails = true) (hwarn : s.dev.pwr.plpWarn = false) :
    ¬(!s.dev.pwr.rails || s.dev.pwr.plpWarn) = true := by simp [hrails, hwarn]

theorem exec_plpWarnAssert_not_serving (hrails : s.dev.pwr.rails = true) (hwarn : s.dev.pwr.plpWarn = false)
    (h : ¬s.serving = true) :
    exec .plpWarnAssert s = .next (s.modPwr fun q => { q with plpWarn := true, warned := true }) := by
  refine congrArg Host.Outcome.next ((if_neg (not_warned hrails hwarn)).trans ?_)
  simp only [h]
  exact (congrArg State.flushOnce (if_neg h)).trans (flushOnce_of_done (.inl h))

theorem exec_plpWarnAssert_serving (h : s.serving = true) (hwarn : s.dev.pwr.plpWarn = false) : exec .plpWarnAssert s
    = .next (s.modPwr fun q => { q with plpWarn := true, warned := true, vidTo := Config.vidOperating }).topRates.flushOnce := by
  refine congrArg Host.Outcome.next ((if_neg (not_warned (serving_iff.1 h).1 hwarn)).trans ?_)
  simp only [h, if_true]
  exact congrArg State.flushOnce (if_pos h)

theorem exec_plpWarnRelease_not_serving (hwarn : s.dev.pwr.plpWarn = true) (h : ¬s.serving = true) :
    exec .plpWarnRelease s = .next (s.modPwr fun q => { q with plpWarn := false }) :=
  congrArg Host.Outcome.next ((if_neg (by simp [hwarn])).trans (if_neg h))

theorem exec_plpWarnRelease_serving (hwarn : s.dev.pwr.plpWarn = true) (h : s.serving = true) :
    exec .plpWarnRelease s = .next (s.modPwr fun q => { q with plpWarn := false }).internalReset :=
  congrArg Host.Outcome.next ((if_neg (by simp [hwarn])).trans (if_pos h))

theorem exec_holdupOkDrop_idle (h : ¬s.serving = true ∨ s.rel.fault = true) :
    exec .holdupOkDrop s = .next (s.modPwr fun q => { q with holdup := false }) := by
  refine congrArg Host.Outcome.next (if_neg ?_)
  rw [Bool.and_eq_true, Bool.not_eq_true', not_and_or, Bool.not_eq_false]
  exact h

theorem exec_holdupOkDrop_serving (h : s.serving = true) (hfault : s.rel.fault = false) : exec .holdupOkDrop s
    = .next ((s.modPwr fun q => { q with holdup := false }).writeThrough.requestRepl 12) := by
  refine congrArg Host.Outcome.next (if_pos ?_)
  rw [Bool.and_eq_true, Bool.not_eq_true']
  exact ⟨h, hfault⟩

end

/-! ## Every channel to the top step (R186) -/

/-- One channel begins its change to the top step, or has it follow the one in progress. -/
def Chan.toTop (x : Chan) (top : Nat) : Chan :=
  if x.failed then x
  else if x.next.isSome then { x with then_ := some top }
  else if x.rate = top then x else { x with next := some top }

/-- What the step of `topRates` does to a channel. -/
def State.chanToTop (s : State) (c : Nat) : State :=
  let x := s.media.chan c
  if x.failed then s
  else match x.next with
    | some _ => s.modMedia fun m => m.modChan c fun y => { y with then_ := some m.top }
    | none => s.startRate c s.media.top

theorem top_chanToTop (s : State) (c : Nat) : (s.chanToTop c).media.top = s.media.top := by
  unfold State.chanToTop
  extract_lets x
  split
  · rfl
  · split <;> rfl

theorem chan_chanToTop (s : State) (c k : Nat) :
    (s.chanToTop c).media.chan k = if k = c then (s.media.chan c).toTop s.media.top else s.media.chan k := by
  unfold State.chanToTop Chan.toTop
  extract_lets x
  by_cases hfailed : x.failed = true
  · rw [if_pos hfailed, if_pos hfailed]
    split
    next h => rw [h]
    next => rfl
  · rw [if_neg hfailed, if_neg hfailed]
    split
    next r hnext =>
      rw [if_pos (Option.isSome_of_eq_some hnext)]
      exact chan_mod s.media c k _
    next hnext =>
      have hnone : ¬x.next.isSome = true := by
        rw [hnext]
        exact Bool.false_ne_true
      rw [if_neg hnone]
      exact (chan_mod s.media c k _).trans (if_congr Iff.rfl (if_congr (or_iff_right hfailed) rfl rfl) rfl)

/-- Going through channels changes each of them once. -/
theorem chan_foldl_chanToTop (l : List Nat) (hl : l.Nodup) (s : State) (k : Nat) : (l.foldl State.chanToTop s).media.chan k
    = if k ∈ l then (s.media.chan k).toTop s.media.top else s.media.chan k := by
  induction l generalizing s with
  | nil => rfl
  | cons c l ih =>
    obtain ⟨hc, hl⟩ := List.nodup_cons.1 hl
    rw [List.foldl_cons, ih hl, top_chanToTop, chan_chanToTop]
    by_cases hk : k = c
    · subst hk
      simp [hc]
    · simp [hk]

theorem chan_topRates {s : State} (hformed : s.media.formed = true) {k : Nat} (hk : k < 32) :
    (s.topRates.media.chan k) = (s.media.chan k).toTop s.media.top := by
  have htop : s.topRates = (List.range 32).foldl State.chanToTop s := if_neg (by rw [hformed]; exact Bool.false_ne_true)
  rw [htop, chan_foldl_chanToTop _ List.nodup_range, if_pos (List.mem_range.2 hk)]

/-! ## The boot (R480 to R488) -/

section
variable {s : State} (straps : BitVec 10) (env : BootEnv)

theorem exec_perstNDeassert_idle (h : s.dev.pwr.rails = false ∨ (s.dev.pwr.perst = false ∧ s.dev.pwr.reboot = false)) :
    exec (.perstNDeassert straps env) s = .next s := by
  rcases h with h | ⟨hperst, hreboot⟩
  · exact congrArg Host.Outcome.next (if_pos (by rw [h]; rfl))
  · refine congrArg Host.Outcome.next (ite_eq_left_iff.2 fun _ => ?_)
    rw [hperst, hreboot]
    rfl

theorem exec_perstNDeassert_low (hrails : s.dev.pwr.rails = true) (h : s.dev.pwr.perst = true) :
    exec (.perstNDeassert straps env) s
      = .next (((s.latchStraps straps).modPwr fun q => { q with perst := false, reboot := false }).boot env) :=
  congrArg Host.Outcome.next ((if_neg (by simp [hrails])).trans (if_pos h))

theorem exec_perstNDeassert_pending (hrails : s.dev.pwr.rails = true) (h : s.dev.pwr.perst = false)
    (hreboot : s.dev.pwr.reboot = true) :
    exec (.perstNDeassert straps env) s = .next ((s.modPwr fun q => { q with reboot := false }).boot env) :=
  congrArg Host.Outcome.next ((if_neg (by simp [hrails])).trans ((if_neg (Bool.eq_false_iff.1 h)).trans (if_pos hreboot)))

end

/-- The boot to the choice of a slot: keys, what an unlock left to do, tamper records and a Hallmark fault are reported. -/
def State.bootEarly (s : State) : State :=
  let unlocked := if s.hm.erased = true then s.bootKeys.afterUnlock else s.bootKeys
  if unlocked.tamperReport.rel.hmFault = true then
    ({ unlocked.tamperReport with rel := { unlocked.tamperReport.rel with hmFault := false } }.logFault 0x16 3 [0] none [0] [0]
      ).requestRepl 13
  else unlocked.tamperReport

/-- The boot from the choice of a slot to the self-tests. -/
def State.bootTested (s : State) (env : BootEnv) (n svn : Nat) (rev : List Byte) : State :=
  let known := env.validSlots.foldl (fun (z : State) v => z.knowSlot v.1 v.2.1 v.2.2) (s.knowSlot n svn rev)
  (known.runSlot n).selfTest env

section
variable {s : State} {env : BootEnv} (hfault : s.rel.fault = false) (hdead : s.hm.dead = false)
include hfault hdead

theorem not_boot_refused : ¬(s.rel.fault || s.hm.dead) = true := by simp [hfault, hdead]

theorem boot_of_warned (h : s.dev.pwr.plpWarn = true) :
    s.boot env = s.modPwr fun q => { q with reboot := true, phase := 3 } :=
  (if_neg (not_boot_refused hfault hdead)).trans (if_pos h)

variable (hwarn : s.dev.pwr.plpWarn = false)
include hwarn

theorem boot_of_quiet : s.boot env = (
    if !env.hallmarkOk then s.bootEarly.enterFault 4
    else match s.bootEarly.chooseSlot env with
      | none => s.bootEarly.enterFault 2
      | some (n, svn, rev) =>
        let t := s.bootEarly.bootTested env n svn rev
        if t.rel.pairs.isEmpty then t.enterFault 5
        else if t.rel.fault then t
        else (t.modPwr fun p => { p with vidTo := Config.vidOperating }).bootStage2 env) :=
  (if_neg (not_boot_refused hfault hdead)).trans (if_neg (Bool.eq_false_iff.1 hwarn))

end

/-! ## The flash array (R149, R150) -/

section
variable {s : State} (env : BootEnv)

theorem formed_trainFlash : (s.trainFlash env).media.formed = s.media.formed := rfl

theorem formFlash_of_formed (h : s.media.formed = true) : s.formFlash env = s.trainFlash env := if_pos h

/-- R149: a population that breaks a rule is logged, and forms no array. -/
theorem formed_formFlash_of_faults (h : s.media.formed = false)
    (hfaults : populationFaults (env.chips.filter fun y => y.chan < 32) ≠ []) : (s.formFlash env).media.formed = false := by
  unfold State.formFlash
  extract_lets chips t
  have ht : ¬t.media.formed = true := Bool.eq_false_iff.1 h
  rw [if_neg ht]
  split
  next hnone _ => exact absurd hnone hfaults
  next =>
    exact (foldl_keeps (fun z : State => z.media.formed) (fun z y => (rfl : (z.logFault ..).media.formed = z.media.formed)) _ t).trans h

/-- R150: a population that breaks none forms the array. -/
theorem formFlash_of_population {first : Chip} {more : List Chip} (h : s.media.formed = false)
    (hchips : (env.chips.filter fun y => y.chan < 32) = first :: more)
    (hfaults : populationFaults (env.chips.filter fun y => y.chan < 32) = []) :
    s.formFlash env = (s.trainFlash env).formArray (env.chips.filter fun y => y.chan < 32) first := by
  unfold State.formFlash
  extract_lets chips t
  have ht : ¬t.media.formed = true := Bool.eq_false_iff.1 h
  rw [if_neg ht]
  split
  next y rest _ hcons =>
    cases hchips.symm.trans hcons
    rfl
  next hno => exact absurd hchips (hno first more hfaults)

/-- The marked columns leave what the formation fixes. -/
theorem formed_formArray (chips : List Chip) (first : Chip) : (s.formArray chips first).media.formed = true := by
  unfold State.formArray
  extract_lets luns ces d good sets left rate t
  have hcols := foldl_keeps (fun z : State => z.media.formation) (f := fun z die =>
    (((lunAt chips luns (die % 32) (die / 32)).map (·.badCols)).getD []).foldl (fun z k => z.enterColumn die k) z)
    (fun z die => foldl_keeps (fun z : State => z.media.formation) (fun z k => formation_enterColumn z die k) _ z)
    (List.range (32 * d)) t
  exact (congrArg Media.formed hcols :)

end

/-! ## The end of the boot (R484 step 12) -/

theorem ready_pwr (s : State) : s.ready.dev.pwr.phase = 5 ∧ s.ready.dev.pwr.wpLow = false ∧ s.ready.dev.pwr.made = true
    ∧ s.ready.dev.pwr.marker = false := ⟨rfl, rfl, rfl, rfl⟩

section
variable {s : State} {env : BootEnv}

theorem bootStage2_of_no_dram (h : env.dramTrained = false ∨ s.dev.dDens = 3) :
    s.bootStage2 env = (s.modPwr fun q => { q with phase := 1 }).enterFault 3 := by
  refine if_pos ?_
  rcases h with h | h <;> simp [h]

theorem bootStage2_of_dram (h : env.dramTrained = true) (hdens : s.dev.dDens ≠ 3) : ∃ t : State, s.bootStage2 env = t.ready :=
  ⟨_, if_neg (by
    rw [h, Bool.not_true, Bool.false_or, decide_eq_true_eq]
    exact hdens)⟩

end

/-- Settles O50: each signal is by whether the device serves, and the boot by the first step that faults. -/
theorem suppliesResetsAndTheBoot : Obligations.SuppliesResetsAndTheBoot := by
  intro s straps env sl n svn rev p pwr d serves latched unlocked early known tested chips
  have hserves : s.serving = true ↔ serves := serving_iff
  refine ⟨?_, fun h => congrArg Host.Outcome.next (if_pos h), exec_powerOn_down,
    fun h => congrArg Host.Outcome.next (if_pos (by rw [h]; rfl)), fun h => ?_, fun h => ?_, fun hrails hperst => ?_,
    fun h => flushOnce_of_done (h.imp_left (mt hserves.1)), fun h => flushOnce_of_serving (hserves.2 h),
    exec_plpWarnAssert_idle, fun hrails hwarn h => exec_plpWarnAssert_not_serving hrails hwarn (mt hserves.1 h),
    fun h => exec_plpWarnAssert_serving (hserves.2 h), fun k x hformed hk hsound hnext => ?_,
    fun k hformed hk hsound hnext hrate => ?_, fun h => congrArg Host.Outcome.next (if_pos (by rw [h]; rfl)),
    fun hwarn h => exec_plpWarnRelease_not_serving hwarn (mt hserves.1 h),
    fun hwarn h => exec_plpWarnRelease_serving hwarn (hserves.2 h),
    fun h => exec_holdupOkDrop_idle (h.imp_left (mt hserves.1)), fun h => exec_holdupOkDrop_serving (hserves.2 h),
    exec_perstNDeassert_idle straps env, exec_perstNDeassert_low straps env, exec_perstNDeassert_pending straps env,
    ⟨rfl, rfl, rfl, rfl, rfl, fun h => if_pos h, fun h => if_neg (Nat.not_lt.2 h)⟩, fun h => ?_, fun hfault hdead => ?_,
    formFlash_of_formed env, formed_formFlash_of_faults env, fun first more h hchips hfaults => ?_, bootStage2_of_no_dram,
    fun h hdens => ?_, enterFault_rel_fault s n⟩
  · have hslice : Tbl.get? s.deviceDown.host.slices sl
        = (Tbl.get? s.host.slices sl).map fun x => { x with verSel := 0, balFlash := 0, balCore := 0 } := by
      rw [deviceDown_host]
      exact getMap s.host.slices (fun _ x => { x with verSel := 0, balFlash := 0, balCore := 0 }) sl
    have hhm := deviceDown_hm s
    have hmeter := deviceDown_meter s
    have hdram := deviceDown_dram s
    have hhost := deviceDown_host s
    have hpwr := deviceDown_pwr s
    exact ⟨(congrArg Hallmark.slots hhm :), (congrArg Hallmark.imports hhm :), (congrArg Hallmark.smrs hhm :), (congrArg Hallmark.media hhm :),
      (congrArg Hallmark.fwSvn hhm :), (congrArg Hallmark.sealGen hhm :), (congrArg Hallmark.idRes hhm :), (congrArg Hallmark.slRes hhm :),
      (congrArg Hallmark.mrs hhm :), (congrArg Hallmark.ready hhm :),
      (congrArg Meter.store hmeter :), (congrArg Meter.closed hmeter :), (congrArg Meter.slices hmeter :), deviceDown_log s,
      (congrArg Dram.btSaved hdram :), (congrArg Dram.locals hdram :), (congrArg Dram.clear hdram :),
      (congrArg Dram.filled hdram :), (congrArg HostSide.ctrls hhost :), (congrArg HostSide.mig hhost :),
      fun h => hslice.trans (congrArg _ h), fun x h => hslice.trans (congrArg _ h), deviceDown_time s,
      (congrArg Compute.runs (deviceDown_cpu s) :), deviceDown_buf s, (congrArg Power.phase hpwr :),
      (congrArg Power.rails hpwr :), deviceDown_ns⟩
  · obtain ⟨t, hexec, hrails, hperst, hfault, hrepl, hresponse, heid, hslots, hstore, hlast, hcut, hunsafe⟩ := exec_powerRemoved_up h
    refine ⟨t, hexec, hrails, hperst, hfault, hrepl, hresponse, heid, hslots, hstore, fun hmade => ?_, fun hmade => ?_, fun hmade => ?_⟩
    · exact hlast.trans (if_pos hmade)
    · have hcounted := congrArg (fun z : State => (z.meter.powerCut, z.dev.smart.unsafe_)) (if_pos hmade : s.lossCounted = _)
      simp only [Prod.mk.injEq] at hcounted
      exact ⟨hcut.trans hcounted.1, hunsafe.trans hcounted.2⟩
    · have hcounted : s.lossCounted = s := if_neg (Bool.eq_false_iff.1 hmade)
      rw [hcounted] at hcut hunsafe
      exact ⟨hcut, hunsafe⟩
  · refine congrArg Host.Outcome.next (if_pos ?_)
    rcases h with h | h <;> rw [h]
    · rfl
    · exact Bool.or_true _
  · exact congrArg Host.Outcome.next (if_neg (by simp [show s.dev.pwr.rails = true from hrails, show s.dev.pwr.perst = false from hperst]))
  · rw [chan_topRates hformed hk, Chan.toTop, if_neg (Bool.eq_false_iff.1 hsound), if_pos (Option.isSome_of_eq_some hnext)]
    exact ⟨hnext, rfl⟩
  · have hnone : ¬(s.media.chan k).next.isSome = true := by
      rw [hnext]
      exact Bool.false_ne_true
    rw [chan_topRates hformed hk, Chan.toTop, if_neg (Bool.eq_false_iff.1 hsound), if_neg hnone, if_neg hrate]
  · exact if_pos (by simpa using h)
  · refine ⟨boot_of_warned hfault hdead, fun hwarn hok => ?_, fun hwarn hok hslot => ?_, fun hwarn hok hslot => ?_⟩
    · rw [boot_of_quiet hfault hdead hwarn, hok]
      rfl
    · have hchoose : s.bootEarly.chooseSlot env = none := hslot
      rw [boot_of_quiet hfault hdead hwarn, hok, hchoose]
      rfl
    · have hboot : s.boot env = (if tested.rel.pairs.isEmpty then tested.enterFault 5
          else if tested.rel.fault then tested
          else (tested.modPwr fun p => { p with vidTo := Config.vidOperating }).bootStage2 env) := by
        have hchoose : s.bootEarly.chooseSlot env = some (n, svn, rev) := hslot
        rw [boot_of_quiet hfault hdead hwarn, hok, hchoose]
        rfl
      refine ⟨fun hnone => hboot.trans (if_pos (List.isEmpty_iff.2 hnone)), fun hsome hbad => ?_, fun hsome hgood => ?_⟩
      · exact hboot.trans ((if_neg (mt List.isEmpty_iff.1 hsome)).trans (if_pos hbad))
      · exact hboot.trans ((if_neg (mt List.isEmpty_iff.1 hsome)).trans (if_neg (Bool.eq_false_iff.1 hgood)))
  · have hform := formFlash_of_population env h hchips hfaults
    refine ⟨hform, ?_⟩
    rw [hform]
    exact formed_formArray chips first
  · obtain ⟨t, ht⟩ := bootStage2_of_dram h hdens
    rw [ht]
    exact ready_pwr t

end Sys2Proof.Machine
end

section
/-! The state of a slice (R91 to R96, R104, R119 to R122): what creates it, what moves it on, and what its sequences end with. -/

namespace Sys2Proof.Machine

/-! ## The checks of a manager command on a slice (R96) -/

/-- The slice is on the move. -/
theorem moving_iff (x : SliceSt) : x.moving = true ↔ x = .resetting ∨ x = .rebinding ∨ x = .deleting := by
  simp [SliceSt.moving, or_assoc]

section
variable {s : State} {e : Sqe} (q : Src) (body : Nat → State → State)

theorem sliceCmd_of_absent (h : (s.slice (sliceArg e)).st = .absent) : s.sliceCmd q e body = s.fail q e.cid 0 2 := by
  rw [sliceCmd_eq, if_pos h]

theorem sliceCmd_of_moving (h : (s.slice (sliceArg e)).st.moving = true) : s.sliceCmd q e body = s.fail q e.cid 7 0x83 := by
  rw [sliceCmd_eq, if_neg, if_pos h]
  intro habsent
  rw [habsent] at h
  cases h

end

/-- A slice that stands still runs no sequence. -/
theorem not_moving_of_still {x : SliceSt} (h : x = .ready ∨ x = .parked) : x.moving = false := by
  rcases h with rfl | rfl <;> rfl

/-! ## Slice Create (R91 to R93, R395, R442) -/

theorem sliceRange_iff {s : State} {x : Slice} : s.sliceRange x = true ↔ splitPorts s.dev.split ≤ x.port ∨ x.qpairs < 1
    ∨ 64 < x.qpairs ∨ x.pasid = 0 ∨ x.capGrant = 0 ∨ 65536 < x.lmLimit ∨ 4096 < x.ksLimit ∨ x.nsLimit < 1 ∨ 4096 < x.nsLimit := by
  simp [State.sliceRange, or_assoc]

/-- A drawn domain key leaves all but the DRAM channels, the domains and the next free value. -/
theorem drawDomain_eq (s : State) (d : Nat) : ∃ c : Tbl DramChan, s.drawDomain d = { s with
    free := s.free + 1, dram := { s.dram with chans := c }
    hm := { s.hm with domains := Tbl.set s.hm.domains d (Config.freeNat s.free) } } := by
  have hchans (l : List Nat) (t : State) (k : Nat) : ∃ c : Tbl DramChan,
      l.foldl (fun s c => s.modDchan c fun x => { x with keys := Tbl.set x.keys d k }) t
        = { t with dram := { t.dram with chans := c } } := by
    induction l generalizing t with
    | nil => exact ⟨t.dram.chans, rfl⟩
    | cons x l ih =>
      obtain ⟨c, hc⟩ := ih (t.modDchan x fun x => { x with keys := Tbl.set x.keys d k })
      exact ⟨c, hc⟩
  obtain ⟨c, hc⟩ := hchans (List.range 4)
    { s.drawn with hm := { s.hm with domains := Tbl.set s.hm.domains d (Config.freeNat s.free) } } (Config.freeNat s.free)
  exact ⟨c, hc⟩

/-- The slice that a Slice Create page describes, as it begins. -/
def State.newSlice (s : State) (data : List Byte) : Slice :=
  let x := readSlice data
  { x with st := readyOrParked x.flash x.core, pageFrom := s.meter.nClosed }

/-- A slice comes into being: its keys are drawn, its meter opens, and its local memory is placed. -/
def State.sliceMade (s : State) (sl : Nat) (x : Slice) : State :=
  let ext := (x.lmLimit + 1) / 2
  let place := if ext = 0 then some 0 else s.placeExtents ext
  let t := (s.setSlice sl x).drawDomain sl
  { t.drawn with
    hm := { t.hm with
      smrs := Tbl.set t.hm.smrs sl {}
      imports := Tbl.set t.hm.imports sl { seed := Config.freeNat t.free } }
    meter := { t.meter with slices := Tbl.set t.meter.slices sl { opened := true } }
    dram := { t.dram with
      extents := if ext = 0 then t.dram.extents else Tbl.set t.dram.extents sl (place.getD 0, ext) }
    host := { t.host with ctrls := Tbl.del t.host.ctrls (sliceCtrl sl) } }

/-- What a new slice is, and that the others stand. -/
theorem slice_sliceMade (s : State) (sl : Nat) (x : Slice) (i : Nat) :
    (s.sliceMade sl x).slice i = if sl = i then x else s.slice i := by
  obtain ⟨c, hdraw⟩ := drawDomain_eq (s.setSlice sl x) sl
  have hkept : (s.sliceMade sl x).slice i = (s.setSlice sl x).slice i := by
    unfold State.sliceMade
    rw [hdraw]
    rfl
  rw [hkept, slice_set]

theorem tables_sliceMade (s : State) (sl : Nat) (x : Slice) :
    Tbl.get? (s.sliceMade sl x).hm.domains sl = some (Config.freeNat s.free)
    ∧ Tbl.get? (s.sliceMade sl x).hm.smrs sl = some {}
    ∧ Tbl.get? (s.sliceMade sl x).hm.imports sl = some { seed := Config.freeNat (s.free + 1) }
    ∧ Tbl.get? (s.sliceMade sl x).meter.slices sl = some { opened := true }
    ∧ ((x.lmLimit + 1) / 2 ≠ 0 → Tbl.get? (s.sliceMade sl x).dram.extents sl
        = some ((s.placeExtents ((x.lmLimit + 1) / 2)).getD 0, (x.lmLimit + 1) / 2)) := by
  obtain ⟨c, hdraw⟩ := drawDomain_eq (s.setSlice sl x) sl
  unfold State.sliceMade
  rw [hdraw]
  refine ⟨Tbl.get?_set_self .., Tbl.get?_set_self .., Tbl.get?_set_self .., Tbl.get?_set_self .., fun hext => ?_⟩
  dsimp only
  rw [if_neg hext, if_neg hext]
  exact Tbl.get?_set_self ..

/-- The page of a Slice Create is refused by one of its fields, its PASID, or for want of local memory or key slots. -/
def State.createBad (s : State) (sl : Nat) (x : Slice) : Prop :=
  s.sliceRange x = true ∨ s.pasidTaken sl x.port x.pasid = true
    ∨ ((x.lmLimit + 1) / 2 ≠ 0 ∧ s.placeExtents ((x.lmLimit + 1) / 2) = none)
    ∨ 4096 < 16 + s.hm.held .manager + s.promised + x.ksLimit

/-- The check of the model's row, where a slice without local memory needs no place. -/
theorem createBad_iff (s : State) (sl : Nat) (x : Slice) :
    (s.sliceRange x || s.pasidTaken sl x.port x.pasid
      || (if (x.lmLimit + 1) / 2 = 0 then some 0 else s.placeExtents ((x.lmLimit + 1) / 2)).isNone
      || decide (4096 < 16 + s.hm.held .manager + s.promised + x.ksLimit)) = true ↔ s.createBad sl x := by
  have hplace (ext : Nat) (p : Option Nat) : (if ext = 0 then some 0 else p).isNone = true ↔ ext ≠ 0 ∧ p = none := by
    split <;> simp_all
  simp only [State.createBad, Bool.or_eq_true, decide_eq_true_eq, hplace, or_assoc]

section
variable {s : State} {q : Src} {e : Sqe} (hadmin : s.AdminOk q e 0xC1 onManager) (data : List Byte)
include hadmin

theorem exec_sliceCreate_taken (h : (s.begin q e.cid).sliceTaken (sliceArg e) = true) :
    exec (.sliceCreate q e data) s = .next ((s.begin q e.cid).fail q e.cid 0 0x0C) :=
  congrArg Host.Outcome.next ((admin_eq _ _ _ _ _ _ hadmin).trans (if_pos h))

variable (hfree : (s.begin q e.cid).sliceTaken (sliceArg e) = false)
include hfree

theorem exec_sliceCreate_prp (h : adminPrpBad e 4096 = true) :
    exec (.sliceCreate q e data) s = .next ((s.begin q e.cid).fail q e.cid 0 0x13) :=
  congrArg Host.Outcome.next ((admin_eq _ _ _ _ _ _ hadmin).trans ((if_neg (Bool.eq_false_iff.1 hfree)).trans (if_pos h)))

variable (hprp : adminPrpBad e 4096 = false)
include hprp

theorem exec_sliceCreate_bad (h : ((s.begin q e.cid).moved q e.cid false 4096).createBad (sliceArg e) (readSlice data)) :
    exec (.sliceCreate q e data) s = .next (((s.begin q e.cid).moved q e.cid false 4096).fail q e.cid 0 2) :=
  congrArg Host.Outcome.next ((admin_eq _ _ _ _ _ _ hadmin).trans ((if_neg (Bool.eq_false_iff.1 hfree)).trans
    ((if_neg (Bool.eq_false_iff.1 hprp)).trans (if_pos ((createBad_iff _ _ _).2 h)))))

theorem exec_sliceCreate_good (h : ¬((s.begin q e.cid).moved q e.cid false 4096).createBad (sliceArg e) (readSlice data)) :
    exec (.sliceCreate q e data) s = .next (
      let m := (s.begin q e.cid).moved q e.cid false 4096
      (m.sliceMade (sliceArg e) (m.newSlice data)).complete q e.cid 0 0 0 0) := by
  exact congrArg Host.Outcome.next ((admin_eq _ _ _ _ _ _ hadmin).trans ((if_neg (Bool.eq_false_iff.1 hfree)).trans
    ((if_neg (Bool.eq_false_iff.1 hprp)).trans (if_neg fun hbad => h ((createBad_iff _ _ _).1 hbad)))))

end

/-! ## Commands that move a slice on (R95, R96, R104) -/

section
variable {s : State} {q : Src} {e : Sqe}

/-- The row of a reset starts its sequence as an admin command, unless the sequence runs already. -/
theorem exec_sliceReset_begins (n : Nat) (hidle : ¬(s.slice (sliceArg e)).runs q e false = true)
    (hbusy : s.keysBusy (sliceArg e) = false) (hadmin : s.AdminOk q e 0xC4 onManager) : exec (.sliceReset q e n) s = .next (
      (s.begin q e.cid).sliceCmd q e fun sl t => (t.modSlice sl fun x => { x with
        st := .resetting, seqStep := 0, seqSrc := some (q, e.cid), rebinds := false, pageFrom := t.meter.nClosed }).runReset sl n) :=
  congrArg Host.Outcome.next ((if_neg (by simp [hidle])).trans ((if_neg (Bool.eq_false_iff.1 hbusy)).trans
    (admin_eq _ _ _ _ _ _ hadmin)))

theorem exec_sliceRebind_begins (data : List Byte) (n : Nat) (hidle : ¬(s.slice (sliceArg e)).runs q e true = true)
    (hbusy : s.keysBusy (sliceArg e) = false) (hadmin : s.AdminOk q e 0xD1 onManager) : exec (.sliceRebind q e data n) s = .next (
      (s.begin q e.cid).sliceCmd q e fun sl t =>
        if adminPrpBad e 4096 then t.fail q e.cid 0 scPrpOffset
        else
          let m := t.moved q e.cid false 4096
          let port := (data.getD 0 0).toNat
          let pasid := leNat ((data.drop 4).take 4) % 2 ^ 20
          if splitPorts m.dev.split ≤ port ∨ pasid = 0 ∨ m.pasidTaken sl port pasid then m.fail q e.cid 0 scInvalidField
          else (m.modSlice sl fun x => { x with
            before := x.st, st := .rebinding, seqStep := 0, seqSrc := some (q, e.cid), rebinds := true
            newPort := port, newPasid := pasid }).runRebind sl n) :=
  congrArg Host.Outcome.next ((if_neg (by simp [hidle])).trans ((if_neg (Bool.eq_false_iff.1 hbusy)).trans
    (admin_eq _ _ _ _ _ _ hadmin)))

/-- A sequence runs for the command that started it, on a slice on the move. -/
theorem not_runs_of_other {x : Slice} {rebind : Bool} (h : x.seqSrc ≠ some (q, e.cid)) : ¬x.runs q e rebind = true := by
  simp [Slice.runs, h]

theorem not_runs_of_unmoving {x : Slice} {rebind : Bool} (h : x.st.moving = false) : ¬x.runs q e rebind = true := by
  simp [Slice.runs, h]

end

/-! ## The sequences (R119, R120, R122) -/

section
variable {s : State} {i : Nat} {r : Src} {cid : W16}

theorem stepsAfter_self (n : Nat) : stepsAfter n n = [] :=
  List.filter_eq_nil_iff.2 fun j hj => by
    rw [List.mem_range] at hj
    rw [decide_eq_true_eq]
    omega

/-- The last step of a reset answers its command. -/
theorem runReset_end (hstep : (s.slice i).seqStep = 6) (hsrc : (s.slice i).seqSrc = some (r, cid)) :
    s.runReset i 7 = (s.resetEnd i).complete r cid 0 0 0 0 := by
  simp only [State.runReset, hstep, show stepsAfter 6 (min 7 6) = [] from stepsAfter_self 6, List.foldl_nil, hsrc]
  rfl

theorem slice_resetEnd (j : Nat) : (s.resetEnd i).slice j = if i = j then
    (let x := s.slice i
     { port := x.port, pasid := x.pasid, qpairs := x.qpairs, capGrant := x.capGrant, lmLimit := x.lmLimit
       ksLimit := x.ksLimit, nsLimit := x.nsLimit, flash0 := x.flash0, core0 := x.core0, park0 := x.park0
       flash := x.flash0, core := x.core0, park := x.park0, pageFrom := x.pageFrom, delSrc := x.delSrc
       st := if x.st = .deleting then .deleting else readyOrParked x.flash0 x.core0 })
    else s.slice j := slice_set ..

theorem runRebind_end (hstep : (s.slice i).seqStep = 4) (hsrc : (s.slice i).seqSrc = some (r, cid)) :
    s.runRebind i 5 = (s.rebindEnd i).complete r cid 0 0 0 0 := by
  simp only [State.runRebind, hstep, show stepsAfter 4 (min 5 4) = [] from stepsAfter_self 4, List.foldl_nil, hsrc]
  rfl

theorem slice_rebindEnd (j : Nat) : (s.rebindEnd i).slice j = if i = j then
    (let x := s.slice i
     { x with port := x.newPort, pasid := x.newPasid, fenced := false, verSel := 0, seqStep := 0, seqSrc := none
              rebinds := false, st := if x.st = .deleting then .deleting else x.before })
    else s.slice j := slice_set ..

end

/-! ## Shares and deletion (R94, R95, R104) -/

section
variable {s : State} {q : Src} {e : Sqe}

theorem exec_sliceSetShares_begins (hbusy : s.keysBusy (sliceArg e) = false) (hadmin : s.AdminOk q e 0xC5 onManager) :
    exec (.sliceSetShares q e) s = .next ((s.begin q e.cid).sliceCmd q e fun sl t => (t.modSlice sl fun x => { x with
      newShares := some (e.cdw11.toNat % 65536, e.cdw11.toNat / 65536, e.cdw12.toNat % 65536) }).complete q e.cid 0 0 0 0) :=
  congrArg Host.Outcome.next ((if_neg (Bool.eq_false_iff.1 hbusy)).trans (admin_eq _ _ _ _ _ _ hadmin))

/-- What the row of a deletion answers, by the state of its slice. -/
theorem exec_sliceDelete_begins (hbusy : s.keysBusy (sliceArg e) = false) (hadmin : s.AdminOk q e 0xC0 onManager) :
    exec (.sliceDelete q e) s = .next (
      let b := s.begin q e.cid
      let st := (s.slice (sliceArg e)).st
      if st = .absent then b.fail q e.cid 0 2
      else if st = .deleting then b.fail q e.cid 7 0x83
      else if st = .resetting ∨ st = .rebinding then b.modSlice (sliceArg e) fun x => { x with st := .deleting, delSrc := some (q, e.cid) }
      else (b.deleteSlice (sliceArg e)).complete q e.cid 0 0 0 0) := by
  rw [← slice_begin s q e.cid]
  exact congrArg Host.Outcome.next ((if_neg (Bool.eq_false_iff.1 hbusy)).trans (admin_eq _ _ _ _ _ _ hadmin))

theorem exec_deleteAfterReset_waiting {i : Nat} {r : Src} {cid : W16} (hwaits : (s.slice i).delSrc = some (r, cid))
    (hst : (s.slice i).st = .deleting) (hidle : (s.slice i).seqSrc = none) :
    exec (.deleteAfterReset i) s = .next ((s.deleteSlice i).complete r cid 0 0 0 0) := by
  have hgoes : ¬((s.slice i).st ≠ .deleting ∨ (s.slice i).seqSrc.isSome = true) := by simp [hst, hidle]
  change execDeleteAfterReset i s = _
  simp only [execDeleteAfterReset, hwaits, if_neg hgoes]
  rfl

theorem exec_deleteAfterReset_none {i : Nat} (hwaits : (s.slice i).delSrc = none) : exec (.deleteAfterReset i) s = .next s := by
  change execDeleteAfterReset i s = _
  simp only [execDeleteAfterReset, hwaits]

end

/-- Settles O37: the checks of each row in their order, what a created slice is, and how each sequence ends. -/
theorem slicesAreCreatedResetReboundDeleted : Obligations.SlicesAreCreatedResetReboundDeleted := by
  intro s q e data n r cid b m sl field flash core ext pasid rangeBad noRoom noSlots st used still moving create mgr
  have hslice : b.slice sl = s.slice sl := slice_begin ..
  have habsent (h : ¬used) : (b.slice sl).st = .absent := hslice ▸ not_not.1 h
  have hmoving (h : moving (s.slice sl).st) : (b.slice sl).st.moving = true := hslice ▸ (moving_iff _).2 h
  have hstill (h : still (s.slice sl).st) : still (b.slice sl).st := hslice ▸ h
  have hunmoved (h : ¬used) : (s.slice sl).st.moving = false := by rw [not_not.1 h]; rfl
  have hbad : (rangeBad ∨ m.pasidTaken sl (field 0 1) pasid = true ∨ noRoom ∨ noSlots) ↔ m.createBad sl (readSlice data) :=
    or_congr (sliceRange_iff (s := m) (x := readSlice data)).symm Iff.rfl
  refine ⟨fun hadmin => ⟨exec_sliceCreate_taken hadmin data, exec_sliceCreate_prp hadmin data, fun hfree hprp => ⟨fun h =>
      exec_sliceCreate_bad hadmin data hfree hprp (hbad.1 h), fun hrange hpasid hroom hslots => ?create⟩⟩,
    fun hadmin hbusy => ⟨fun h => ?_, fun h => ?_, fun h => ?_⟩,
    fun hadmin hbusy => ⟨fun h => ?_, fun h hother => ?_, fun h => ?_⟩,
    fun hopc hruns => congrArg Host.Outcome.next (if_pos (Bool.and_eq_true_iff.2 ⟨hruns, decide_eq_true hopc⟩)),
    fun hadmin hbusy => ⟨fun h => ?_, fun h hother => ?_, fun h hprp => ⟨fun hpage => ?_, fun hport hpasid hfree => ?_⟩⟩,
    fun hopc hruns => congrArg Host.Outcome.next (if_pos (Bool.and_eq_true_iff.2 ⟨hruns, decide_eq_true hopc⟩)),
    fun i k hk => if_pos hk, fun i hstep hsrc => ⟨s.resetEnd i, runReset_end hstep hsrc, ?_⟩,
    fun i hstep hsrc => ⟨s.rebindEnd i, runRebind_end hstep hsrc, ?_⟩,
    fun hadmin hbusy => ⟨fun h => ?_, fun h => ?_, fun h => ?_, fun h => ?_⟩,
    fun i => exec_deleteAfterReset_waiting, fun i => exec_deleteAfterReset_none⟩
  case create =>
    have hgood : ¬m.createBad sl (readSlice data) := by
      rw [← hbad]
      simp [hrange, hpasid, hroom, hslots]
    obtain ⟨hdomain, hsmr, himport, hmeter, hext⟩ := tables_sliceMade m sl (m.newSlice data)
    exact ⟨m.sliceMade sl (m.newSlice data), exec_sliceCreate_good hadmin data hfree hprp hgood,
      (slice_sliceMade ..).trans (if_pos rfl), fun x hx => (slice_sliceMade ..).trans (if_neg hx.symm), hdomain, hsmr, himport,
      hmeter, hext⟩
  · exact (exec_sliceSetShares_begins hbusy hadmin).trans (congrArg _ (sliceCmd_of_absent q _ (habsent h)))
  · exact (exec_sliceSetShares_begins hbusy hadmin).trans (congrArg _ (sliceCmd_of_moving q _ (hmoving h)))
  · exact (exec_sliceSetShares_begins hbusy hadmin).trans (congrArg _ (sliceCmd_of_still (hstill h) q _))
  · exact (exec_sliceReset_begins n (not_runs_of_unmoving (hunmoved h)) hbusy hadmin).trans
      (congrArg _ (sliceCmd_of_absent q _ (habsent h)))
  · exact (exec_sliceReset_begins n (not_runs_of_other hother) hbusy hadmin).trans
      (congrArg _ (sliceCmd_of_moving q _ (hmoving h)))
  · exact (exec_sliceReset_begins n (not_runs_of_unmoving (not_moving_of_still h)) hbusy hadmin).trans
      (congrArg _ (sliceCmd_of_still (hstill h) q _))
  · exact (exec_sliceRebind_begins data n (not_runs_of_unmoving (hunmoved h)) hbusy hadmin).trans
      (congrArg _ (sliceCmd_of_absent q _ (habsent h)))
  · exact (exec_sliceRebind_begins data n (not_runs_of_other hother) hbusy hadmin).trans
      (congrArg _ (sliceCmd_of_moving q _ (hmoving h)))
  · exact (exec_sliceRebind_begins data n (not_runs_of_unmoving (not_moving_of_still h)) hbusy hadmin).trans
      (congrArg _ ((sliceCmd_of_still (hstill h) q _).trans ((if_neg (Bool.eq_false_iff.1 hprp)).trans (if_pos hpage))))
  · have hpage : ¬(splitPorts m.dev.split ≤ (data.getD 0 0).toNat ∨ pasid = 0 ∨ m.pasidTaken sl (data.getD 0 0).toNat pasid = true) :=
      not_or.2 ⟨by omega, not_or.2 ⟨hpasid, Bool.eq_false_iff.1 hfree⟩⟩
    exact (exec_sliceRebind_begins data n (not_runs_of_unmoving (not_moving_of_still h)) hbusy hadmin).trans
      (congrArg _ ((sliceCmd_of_still (hstill h) q _).trans ((if_neg (Bool.eq_false_iff.1 hprp)).trans (if_neg hpage))))
  · have hnew := (slice_resetEnd (s := s) (i := i) i).trans (if_pos rfl)
    refine ⟨by rw [hnew]; rfl, by rw [hnew], by rw [hnew], by rw [hnew], by rw [hnew], by rw [hnew], by rw [hnew], by rw [hnew],
      by rw [hnew], by rw [hnew], fun x hx => (slice_resetEnd x).trans (if_neg hx.symm)⟩
  · exact ⟨(slice_rebindEnd i).trans (if_pos rfl), fun x hx => (slice_rebindEnd x).trans (if_neg hx.symm)⟩
  · exact (exec_sliceDelete_begins hbusy hadmin).trans (congrArg _ (if_pos (not_not.1 h)))
  · have hne : (s.slice sl).st ≠ .absent := by rw [h]; decide
    exact (exec_sliceDelete_begins hbusy hadmin).trans (congrArg _ ((if_neg hne).trans (if_pos h)))
  · have hne : (s.slice sl).st ≠ .absent ∧ (s.slice sl).st ≠ .deleting := by rcases h with h | h <;> rw [h] <;> decide
    exact (exec_sliceDelete_begins hbusy hadmin).trans (congrArg _ ((if_neg hne.1).trans ((if_neg hne.2).trans (if_pos h))))
  · have hne : (s.slice sl).st ≠ .absent ∧ (s.slice sl).st ≠ .deleting
        ∧ ¬((s.slice sl).st = .resetting ∨ (s.slice sl).st = .rebinding) := by rcases h with h | h <;> rw [h] <;> decide
    exact (exec_sliceDelete_begins hbusy hadmin).trans
      (congrArg _ ((if_neg hne.1).trans ((if_neg hne.2.1).trans (if_neg hne.2.2))))

end Sys2Proof.Machine
end

section
/-! NVM commands (R35, R57 to R64, R102, R157, R164, R167, R202, R223, R224): the checks of each, the write buffer's answer,
and what ends a read. -/

namespace Sys2Proof.Machine

/-! ## What moving data and charging a slice leave (R105, R513) -/

/-- A command that moves data leaves the media. -/
theorem moved_media (s : State) (q : Src) (cid : W16) (toHost : Bool) (n : Nat) : (s.moved q cid toHost n).media = s.media := by
  have hreads : (s.readsOf q cid toHost n).bare.media = s.bare.media :=
    congrArg State.media (readsOf_only 0 s q cid toHost n).bare
  have hcmd (f : Fetched → Fetched) : ((s.readsOf q cid toHost n).modCmd q cid f).media = s.media := by
    rw [← show (s.readsOf q cid toHost n).media = s.media from hreads]
    cases q <;> rfl
  unfold State.moved
  cases q with
  | sideband => exact hcmd _
  | queue i m =>
    dsimp only
    split <;> split <;> simp [State.modLog, hcmd]

theorem modCmd_media (s : State) (q : Src) (cid : W16) (f : Fetched → Fetched) : (s.modCmd q cid f).media = s.media := by
  cases q <;> rfl

/-- A namespace is what the media table holds. -/
theorem nsx_of_media {s t : State} (h : t.media = s.media) (x : Nat) : t.nsx x = s.nsx x := by
  unfold State.nsx
  rw [h]

/-! ## The checks of Read and Write (R58) -/

/-- A Read or Write asks for what no slice offers: a directive, a storage tag, metadata of its own, or more than 2 MiB. -/
def rwBad (p : NsSpec) (e : Sqe) : Prop :=
  e.cdw12.extractLsb' 20 4 ≠ 0 ∨ e.cdw12.getLsbD 24 = true ∨ e.mptr ≠ 0 ∨ 2 ^ 21 < e.blocks * p.hostBytes e

section
variable {p : NsSpec} {e : Sqe}

theorem rwCheck_of_bad (h : rwBad p e) : rwCheck p e = some (0, 2) := by
  unfold rwCheck
  split
  · rfl
  · rename_i hdir
    obtain ⟨hdtype, hstc⟩ := not_or.1 hdir
    rcases h with h | h | h | h
    · exact absurd h hdtype
    · exact absurd h hstc
    · exact if_pos h
    · exact (congrArg _ (if_pos h)).trans (ite_self _)

variable (hok : ¬rwBad p e)
include hok

theorem rwCheck_of_ok : rwCheck p e = if p.nsze < e.slba + e.blocks then some (0, 0x80)
    else (e.dptr.check (e.blocks * p.hostBytes e)).map fun c => (0, c) := by
  obtain ⟨hdtype, hstc, hmptr, hlen⟩ := by simpa only [rwBad, not_or] using hok
  exact (if_neg (not_or.2 ⟨hdtype, hstc⟩)).trans ((if_neg hmptr).trans (if_neg hlen))

theorem rwCheck_of_past (h : p.nsze < e.slba + e.blocks) : rwCheck p e = some (0, 0x80) :=
  (rwCheck_of_ok hok).trans (if_pos h)

theorem rwCheck_of_ptr (h : ¬p.nsze < e.slba + e.blocks) {o : Option Nat} (hptr : e.dptr.check (e.blocks * p.hostBytes e) = o) :
    rwCheck p e = o.map fun c => (0, c) := by
  rw [rwCheck_of_ok hok, if_neg h, hptr]

end

/-! ## Write (R58, R59) -/

section
variable {s : State} {q : Src} {e : Sqe} {sl x : Nat} {ns : Ns} (data : List Byte) (pi : List PiTuple) (sealOk : Bool)
  (hns : s.NsOk q e 1 sl x ns [(e.slba, e.blocks)])
include hns

theorem exec_write_of_check {t c : Nat} (h : rwCheck ns.spec e = some (t, c)) :
    exec (.write q e data pi sealOk) s = .next ((s.begin q e.cid).fail q e.cid t c) := by
  refine congrArg Host.Outcome.next ((nsCmd_eq _ _ _ _ _ _ _ _ _ _ hns rfl).trans ?_)
  simp only [begin_nsx, hns.nsx, h]

variable (hcheck : rwCheck ns.spec e = none)
include hcheck

/-- The state of a Write that has read its data. -/
def State.wrote (s : State) (q : Src) (e : Sqe) (p : NsSpec) : State :=
  ((s.begin q e.cid).moved q e.cid false (e.blocks * p.hostBytes e)).sealCount q e.cid (e.blocks * p.hostBytes e)

/-- The blocks of a Write; bytes that its operand does not carry are free. -/
def State.wroteBytes (s : State) (q : Src) (e : Sqe) (p : NsSpec) (data : List Byte) : List Byte :=
  (data ++ (s.wrote q e p).freeBytes (e.blocks * p.lba - data.length)).take (e.blocks * p.lba)

/-- A Write that passes its checks reads its data, then turns on its seal and its protection information. -/
theorem exec_write_of_pass {o : Option Nat} (hpi : piWrite ns.spec e (s.wroteBytes q e ns.spec data) pi = o) :
    exec (.write q e data pi sealOk) s = .next (
      let p := ns.spec
      let got := s.wrote q e p
      let u := got.drawnN (e.blocks * p.lba - data.length)
      if ((got.sealOf q e.cid).isSome && !sealOk) = true then got.fail q e.cid 0 4
      else o.elim (u.offerWrite { src := q, e := e, nsx := x, slice := sl, body := .write (s.wroteBytes q e p data) (
            if p.fmt ≠ 2 then [] else (List.range e.blocks).map fun i =>
              if p.checked ∧ pract e then e.cdw15.truncate 16 else (pi.getD i ⟨0, 0, 0⟩).app) } true)
          fun c => u.fail q e.cid 2 c) := by
  refine congrArg Host.Outcome.next ((nsCmd_eq _ _ _ _ _ _ _ _ _ _ hns rfl).trans ?_)
  unfold State.wroteBytes State.wrote at *
  simp only [begin_nsx, hns.nsx, hcheck, hpi]
  cases o <;> rfl

end

/-! ## The write buffer's answer (R157, R164, R167, R202) -/

/-- The commands that wait, but this one. -/
def State.unwait (s : State) (w : WaitWrite) : State :=
  { s with media := { s.media with waits := s.media.waits.filter fun z => !(z.src = w.src && z.e.cid = w.e.cid) } }

section
variable {s : State} {w : WaitWrite} {first : Bool}

theorem offerWrite_of_readOnly (h : (s.nsx w.nsx).readOnly = true) (hbody : ∀ z, w.body ≠ .dsm z) :
    s.offerWrite w first = (s.unwait w).complete w.src w.e.cid 0 0x81 0 0 := by
  refine (if_pos h).trans ?_
  split
  · rename_i z hz
    exact absurd hz (hbody z)
  · rfl

theorem offerWrite_of_readOnly_dsm (h : (s.nsx w.nsx).readOnly = true) {z : List ((Nat × Nat) × Nat)} (hbody : w.body = .dsm z) :
    s.offerWrite w first = (s.unwait w).complete w.src w.e.cid 0 0 0 0 := by
  refine (if_pos h).trans ?_
  rw [hbody]
  rfl

variable (hrw : (s.nsx w.nsx).readOnly = false)
include hrw

theorem offerWrite_of_lost (h : ∃ iu ∈ w.merged (s.nsx w.nsx).spec, s.iuLost w.nsx iu = true) :
    s.offerWrite w first = (s.unwait w).complete w.src w.e.cid 2 0x81 0 0 :=
  (if_neg (Bool.eq_false_iff.1 hrw)).trans (if_pos (List.any_eq_true.2 h))

variable (hfound : ¬∃ iu ∈ w.merged (s.nsx w.nsx).spec, s.iuLost w.nsx iu = true)
include hfound

/-- A command of a namespace that takes data, whose units are all known, turns on what is admitted. -/
theorem offerWrite_of_admission {v : Verdict}
    (h : s.admission (s.nsx w.nsx).spec.mode ((w.ius (s.nsx w.nsx).spec).length * 8 * (s.nsx w.nsx).spec.iuUnits) = v) :
    s.offerWrite w first =
      let keep : State := if first = true then { s with media := { s.media with waits := s.media.waits ++ [w] } } else s
      match v with
      | .full => ((s.unwait w).exhaustion w.nsx).complete w.src w.e.cid 0 0x81 0 0
      | .wait => keep
      | .go c => if first = true ∧ ¬s.media.waits.isEmpty = true then keep
        else ((s.unwait w).modMedia fun m => { m with credit := c }).admitWrite w := by
  refine (if_neg (Bool.eq_false_iff.1 hrw)).trans ((if_neg fun hany => hfound (List.any_eq_true.1 hany)).trans ?_)
  simp only [writeGranules, h]
  cases v <;> rfl

end

section
variable (s : State) (w : WaitWrite)

/-- The buffer with the command's data in it; its units are the command's own when writing through. -/
def State.admitted (s : State) (w : WaitWrite) : State :=
  let t := s.writeBody w (if s.media.wthru then some (w.src, w.e.cid) else none)
  { t with media := { t.media with admitted := true } }

theorem admitWrite_of_owned (h : ∃ y ∈ (s.admitted w).media.buf, y.owner.isSome = true
      ∧ y.owner = if s.media.wthru then some (w.src, w.e.cid) else none) : s.admitWrite w = s.admitted w := by
  refine if_pos (List.any_eq_true.2 ?_)
  obtain ⟨y, hy, hsome, howner⟩ := h
  exact ⟨y, hy, Bool.and_eq_true_iff.2 ⟨hsome, decide_eq_true howner⟩⟩

theorem admitWrite_of_unowned (h : ∀ y ∈ (s.admitted w).media.buf, y.owner = none
      ∨ y.owner ≠ if s.media.wthru then some (w.src, w.e.cid) else none) :
    s.admitWrite w = (s.admitted w).complete w.src w.e.cid 0 0 0 0 := by
  refine if_neg fun hany => ?_
  obtain ⟨y, hy, hown⟩ := List.any_eq_true.1 hany
  obtain ⟨hsome, howner⟩ := Bool.and_eq_true_iff.1 hown
  rcases h y hy with hnone | hne
  · rw [hnone] at hsome
    cases hsome
  · exact hne (of_decide_eq_true howner)

end

/-! ## The arbiter's pick among equal balances (R102) -/

section
variable {α : Type} (s : State) (last : Nat) (slice : α → Nat)

theorem sliceBefore_eq_false_iff (a b : Nat) : s.sliceBefore last a b = false ↔ (s.slice a).balFlash ≤ (s.slice b).balFlash
    ∧ ((s.slice a).balFlash = (s.slice b).balFlash → above last b ≤ above last a) := by
  simp [State.sliceBefore]

theorem sliceBefore_false_trans {a b c : Nat} (hab : s.sliceBefore last a b = false) (hbc : s.sliceBefore last b c = false) :
    s.sliceBefore last a c = false := by
  rw [sliceBefore_eq_false_iff] at *
  omega

/-- Neither the next request nor the one held goes before the better of the two. -/
theorem arbBetter_first (b : Option α) (x : α) : ∃ y, s.arbBetter last slice b x = some y
    ∧ s.sliceBefore last (slice x) (slice y) = false ∧ ∀ w, b = some w → s.sliceBefore last (slice w) (slice y) = false := by
  have hself (i : Nat) : s.sliceBefore last i i = false :=
    (sliceBefore_eq_false_iff ..).2 ⟨Int.le_refl _, fun _ => Nat.le_refl _⟩
  cases b with
  | none => exact ⟨x, rfl, hself _, nofun⟩
  | some w =>
    by_cases h : s.sliceBefore last (slice x) (slice w) = true
    · refine ⟨x, if_pos h, hself _, ?_⟩
      rintro _ ⟨⟩
      simp only [State.sliceBefore, Bool.or_eq_true, Bool.and_eq_true, decide_eq_true_eq] at h
      rw [sliceBefore_eq_false_iff]
      omega
    · refine ⟨w, if_neg h, Bool.eq_false_iff.2 h, ?_⟩
      rintro _ ⟨⟩
      exact hself _

theorem foldl_arbBetter_first {l : List α} {b : Option α} {y : α} (h : l.foldl (s.arbBetter last slice) b = some y) :
    (∀ z ∈ l, s.sliceBefore last (slice z) (slice y) = false)
      ∧ ∀ w, b = some w → s.sliceBefore last (slice w) (slice y) = false := by
  induction l generalizing b with
  | nil =>
    refine ⟨nofun, fun w hw => ?_⟩
    obtain rfl := Option.some.inj (hw.symm.trans h)
    exact (sliceBefore_eq_false_iff ..).2 ⟨Int.le_refl _, fun _ => Nat.le_refl _⟩
  | cons x l ih =>
    obtain ⟨hl, hheld⟩ := ih h
    obtain ⟨v, hv, hx, hb⟩ := arbBetter_first s last slice b x
    exact ⟨List.forall_mem_cons.2 ⟨sliceBefore_false_trans s last hx (hheld v hv), hl⟩,
      fun w hw => sliceBefore_false_trans s last (hb w hw) (hheld v hv)⟩

/-- No request of a slice with a share goes before the one the arbiter picks. -/
theorem arbPick_first {l : List α} {y : α} (h : s.arbPick last slice l = some y) (z : α) (hz : z ∈ l)
    (hflash : (s.slice (slice z)).flash ≠ 0) : s.sliceBefore last (slice z) (slice y) = false :=
  (foldl_arbBetter_first s last slice (h : List.foldl _ none _ = _)).1 z (List.mem_filter.2 ⟨hz, decide_eq_true hflash⟩)

end

section
variable {s : State}

theorem exec_writeBufferAdmit_none (h : s.arbPick s.media.lastWait (·.slice) s.media.waits = none) :
    exec .writeBufferAdmit s = .next s := by
  change execWriteBufferAdmit s = _
  rw [execWriteBufferAdmit, h]

theorem exec_writeBufferAdmit_some {w : WaitWrite} (h : s.arbPick s.media.lastWait (·.slice) s.media.waits = some w) :
    exec .writeBufferAdmit s = .next (({ s with media := { s.media with lastWait := w.slice } } : State).offerWrite w false) := by
  change execWriteBufferAdmit s = _
  rw [execWriteBufferAdmit, h]
  rfl

end

/-! ## Read (R34, R58, R59, R202, R224, R230) -/

section
variable {s : State} {q : Src} {e : Sqe} {sl x : Nat} {ns : Ns} (hns : s.NsOk q e 2 sl x ns [(e.slba, e.blocks)])
include hns

theorem exec_read_of_check {t c : Nat} (h : rwCheck ns.spec e = some (t, c)) :
    exec (.read q e) s = .next ((s.begin q e.cid).fail q e.cid t c) := by
  refine congrArg Host.Outcome.next ((nsCmd_eq _ _ _ _ _ _ _ _ _ _ hns rfl).trans ?_)
  simp only [begin_nsx, hns.nsx, h]

/-- A Read that passes its checks queues the reads of its units, and ends at once when it has none. -/
theorem exec_read_of_pass {v : State} {k : Nat} {lost : Bool} (hcheck : rwCheck ns.spec e = none)
    (hunits : (iuRange ns.spec e.slba e.blocks).foldl (fun (a : State × Nat × Bool) iu =>
      let z := a.1.readIu (s.begin q e.cid).media.nextIo x e.slba e.blocks iu
      (z.1, a.2.1 + z.2.1, a.2.2 || z.2.2)) (s.begin q e.cid, 0, false) = (v, k, lost)) :
    exec (.read q e) s = .next (
      let b := s.begin q e.cid
      let rd : IoRead := { src := q, e := e, nsx := x, left := k, blocks := b.blocksOf x e.slba e.blocks
                           ius := b.extentsOf x e.slba e.blocks, fail := if lost then some (2, 0x81) else none }
      if k = 0 then v.endRead rd
      else { v with media := { v.media with ios := Tbl.set v.media.ios b.media.nextIo rd, nextIo := b.media.nextIo + 1 } }) := by
  refine congrArg Host.Outcome.next ((nsCmd_eq _ _ _ _ _ _ _ _ _ _ hns rfl).trans ?_)
  simp only [begin_nsx, hns.nsx, hcheck]
  rw [hunits]
  rfl

end

section
variable {s : State} {r : IoRead}

theorem endRead_of_fail {t c : Nat} (h : r.fail = some (t, c)) : s.endRead r = s.complete r.src r.e.cid t c 0 0 := by
  unfold State.endRead
  rw [h]
  rfl

variable (hfail : r.fail = none)
include hfail

theorem endRead_of_torn {iu : Nat} {o : Iu} (h : (r.ius.find? fun y => r.alien y.1 && (r.unpack y.1 y.2).isNone) = some (iu, o)) :
    s.endRead r = (s.logFault 0x06 4 [0] r.src.slice?
      (match o.loc with
        | .flash set goff => [set, goff]
        | .buffer _ => []) [r.nsx, iu]).complete r.src r.e.cid 2 0x81 0 0 := by
  unfold State.endRead
  simp only [hfail, h]
  rfl

variable (htorn : (r.ius.find? fun y => r.alien y.1 && (r.unpack y.1 y.2).isNone) = none)
include htorn

theorem endRead_of_badPi {c : Nat} (h : (((r.blocks.mapIdx fun i y => r.block (s.nsx r.nsx).spec i y).mapIdx fun i y =>
      piRead (s.nsx r.nsx).spec r.e i (y.map (·.2))).findSome? id) = some c) :
    s.endRead r = s.complete r.src r.e.cid 2 c 0 0 := by
  unfold State.endRead
  simp only [hfail, htorn, h]
  rfl

theorem endRead_of_data (h : (((r.blocks.mapIdx fun i y => r.block (s.nsx r.nsx).spec i y).mapIdx fun i y =>
      piRead (s.nsx r.nsx).spec r.e i (y.map (·.2))).findSome? id) = none) :
    s.endRead r = (s.sendIo r.src r.e (readData (s.nsx r.nsx).spec r.e
      (r.blocks.mapIdx fun i y => r.block (s.nsx r.nsx).spec i y))).complete r.src r.e.cid 0 0 0 0 := by
  unfold State.endRead
  simp only [hfail, htorn, h]
  rfl

end

/-- Units that are all as programmed leave every extent and every block as looked up. -/
theorem block_of_parts {r : IoRead} (h : ∀ y ∈ r.parts, y.alien = false) :
    (r.ius.find? fun y => r.alien y.1 && (r.unpack y.1 y.2).isNone) = none
    ∧ ∀ z : NsSpec, (r.blocks.mapIdx fun i y => r.block z i y) = r.blocks := by
  have halien (iu : Nat) : r.alien iu = false := List.any_eq_false.2 fun y hy => by rw [h y hy, Bool.and_false]; decide
  refine ⟨List.find?_eq_none.2 fun y _ => by rw [halien, Bool.false_and]; decide, fun z => ?_⟩
  have hblock (i : Nat) (b : Option (Mem × W16)) : r.block z i b = b := by
    unfold IoRead.block
    extract_lets l iu at_
    split
    · exact if_neg (Bool.eq_false_iff.1 (halien iu))
    · split
      · rename_i y hy
        exact if_neg (Bool.eq_false_iff.1 (h y (List.mem_of_find?_eq_some hy)))
      · rfl
  simp only [hblock, List.mapIdx_eq_zipIdx_map]
  exact List.zipIdx_map_fst ..

/-! ## Write Zeroes and Dataset Management (R57, R62, R167, R223) -/

section
variable {s : State} {w : WaitWrite} {ranges : List (Nat × Nat)}

/-- The whole units of the ranges are deallocated. -/
def State.freeRanges (s : State) (x : Nat) (ranges : List (Nat × Nat)) : State :=
  ranges.foldl (fun (t : State) r => t.freeWhole x r.1 r.2) s

theorem freeAndMerge_of_whole (h : w.ius (s.nsx w.nsx).spec = []) :
    s.freeAndMerge w ranges = (s.freeRanges w.nsx ranges).complete w.src w.e.cid 0 0 0 0 := by
  refine if_pos ?_
  rw [h]
  rfl

variable (hparts : w.ius (s.nsx w.nsx).spec ≠ [])
include hparts

theorem freeAndMerge_of_lost (h : ∃ iu ∈ w.merged (s.nsx w.nsx).spec, s.iuLost w.nsx iu = true) :
    s.freeAndMerge w ranges = s.complete w.src w.e.cid 2 0x81 0 0 :=
  (if_neg fun hempty => hparts (List.isEmpty_iff.1 hempty)).trans (if_pos (List.any_eq_true.2 h))

variable (hfound : ∀ iu ∈ w.merged (s.nsx w.nsx).spec, s.iuLost w.nsx iu = false)
include hfound

theorem freeAndMerge_of_found : s.freeAndMerge w ranges =
    match s.admission (s.nsx w.nsx).spec.mode (writeGranules (s.nsx w.nsx).spec (w.ius (s.nsx w.nsx).spec).length) with
    | .full => (s.exhaustion w.nsx).complete w.src w.e.cid 0 0x81 0 0
    | _ => (s.freeRanges w.nsx ranges).offerWrite w true := by
  refine (if_neg fun hempty => hparts (List.isEmpty_iff.1 hempty)).trans ((if_neg fun hany => ?_).trans rfl)
  obtain ⟨iu, hiu, hlost⟩ := List.any_eq_true.1 hany
  exact Bool.false_ne_true ((hfound iu hiu).symm.trans hlost)

theorem freeAndMerge_of_full
    (h : s.admission (s.nsx w.nsx).spec.mode (writeGranules (s.nsx w.nsx).spec (w.ius (s.nsx w.nsx).spec).length) = .full) :
    s.freeAndMerge w ranges = (s.exhaustion w.nsx).complete w.src w.e.cid 0 0x81 0 0 := by
  rw [freeAndMerge_of_found hparts hfound, h]

theorem freeAndMerge_of_room
    (h : s.admission (s.nsx w.nsx).spec.mode (writeGranules (s.nsx w.nsx).spec (w.ius (s.nsx w.nsx).spec).length) ≠ .full) :
    s.freeAndMerge w ranges = (s.freeRanges w.nsx ranges).offerWrite w true := by
  rw [freeAndMerge_of_found hparts hfound]
  split
  · rename_i hfull
    exact absurd hfull h
  · rfl

end

section
variable {s : State} {q : Src} {e : Sqe} {sl x : Nat} {ns : Ns} (hns : s.NsOk q e 8 sl x ns [(e.slba, e.blocks)])
include hns

theorem exec_writeZeroes_of_past (h : ns.spec.nsze < e.slba + e.blocks) :
    exec (.writeZeroes q e) s = .next ((s.begin q e.cid).fail q e.cid 0 0x80) := by
  refine congrArg Host.Outcome.next ((nsCmd_eq _ _ _ _ _ _ _ _ _ _ hns rfl).trans (if_pos ?_))
  rw [begin_nsx, hns.nsx]
  exact h

/-- A Write Zeroes inside its namespace frees its whole units and writes zeros over its parts. -/
theorem exec_writeZeroes_of_range (h : ¬ns.spec.nsze < e.slba + e.blocks) : exec (.writeZeroes q e) s = .next (
    let t := (s.begin q e.cid).chargeFlash sl 1
    if ns.readOnly = true ∧ ¬(partIus ns.spec e.slba e.blocks).isEmpty = true then t.fail q e.cid 0 0x81
    else t.freeAndMerge { src := q, e := e, nsx := x, slice := sl, body := .zeros (
      if ns.spec.checked && pract e then e.cdw15.truncate 16 else 0) } [(e.slba, e.blocks)]) := by
  refine congrArg Host.Outcome.next ((nsCmd_eq _ _ _ _ _ _ _ _ _ _ hns rfl).trans ((if_neg ?_).trans ?_))
  · rw [begin_nsx, hns.nsx]
    exact h
  · rw [begin_nsx, hns.nsx]
    rfl

end

section
variable {s : State} {q : Src} {e : Sqe} {sl x : Nat} {ns : Ns} (ranges : List (Nat × Nat))

/-- The ranges that a Dataset Management lists, without the empty ones. -/
def listedRanges (e : Sqe) (ranges : List (Nat × Nat)) : List (Nat × Nat) :=
  (ranges.take (e.cdw10.toNat % 256 + 1)).filter fun y => y.2 ≠ 0

/-- The state of a Dataset Management that has read its list. -/
def State.listed (s : State) (q : Src) (e : Sqe) (sl : Nat) (ranges : List (Nat × Nat)) : State :=
  (((s.begin q e.cid).chargeFlash sl 1).moved q e.cid false (16 * (e.cdw10.toNat % 256 + 1))).modCmd q e.cid fun f =>
    { f with listed := some (listedRanges e ranges) }

/-- The units with data that the listed ranges cover in part. -/
def cutUnits (e : Sqe) (ns : Ns) (ranges : List (Nat × Nat)) : List ((Nat × Nat) × Nat) :=
  (listedRanges e ranges).flatMap fun y =>
    ((partIus ns.spec y.1 y.2).filter fun iu => (Tbl.get? ns.units iu).isSome).map fun iu => (y, iu)

theorem nsx_listed (y : Nat) : (s.listed q e sl ranges).nsx y = s.nsx y :=
  (nsx_of_media ((modCmd_media ..).trans (moved_media ..)) y).trans (begin_nsx s q e.cid y)

variable (hns : s.NsOk q e 9 sl x ns (listedRanges e ranges))
include hns

/-- A Dataset Management turns on its data pointer, on its ranges, then on what it asks for. -/
theorem exec_datasetManagement_eq {o : Option Nat} (hptr : e.dptr.check (16 * (e.cdw10.toNat % 256 + 1)) = o) :
    exec (.datasetManagement q e ranges) s = .next (
      let b := s.begin q e.cid
      let t := s.listed q e sl ranges
      o.elim (
        if ((listedRanges e ranges).any fun r => decide (ns.spec.nsze < r.1 + r.2)) = true then t.fail q e.cid 0 0x80
        else if (!e.cdw11.getLsbD 2) = true then t.succeed q e.cid
        else t.freeAndMerge { src := q, e := e, nsx := x, slice := sl
                              body := .dsm (if ns.readOnly = true then [] else cutUnits e ns ranges) } (listedRanges e ranges))
        fun c => b.fail q e.cid 0 c) := by
  refine congrArg Host.Outcome.next ((nsCmd_eq _ _ _ _ _ _ _ _ _ _ hns rfl).trans ?_)
  simp only [begin_nsx, hns.nsx, hptr]
  cases o <;> rfl

theorem exec_datasetManagement_of_ptr {c : Nat} (hptr : e.dptr.check (16 * (e.cdw10.toNat % 256 + 1)) = some c) :
    exec (.datasetManagement q e ranges) s = .next ((s.begin q e.cid).fail q e.cid 0 c) :=
  exec_datasetManagement_eq ranges hns hptr

variable (hptr : e.dptr.check (16 * (e.cdw10.toNat % 256 + 1)) = none)
include hptr

theorem exec_datasetManagement_of_past (h : ∃ y ∈ listedRanges e ranges, ns.spec.nsze < y.1 + y.2) :
    exec (.datasetManagement q e ranges) s = .next ((s.listed q e sl ranges).fail q e.cid 0 0x80) := by
  obtain ⟨y, hy, hpast⟩ := h
  exact (exec_datasetManagement_eq ranges hns hptr).trans
    (congrArg Host.Outcome.next (if_pos (List.any_eq_true.2 ⟨y, hy, decide_eq_true hpast⟩)))

variable (hin : ∀ y ∈ listedRanges e ranges, y.1 + y.2 ≤ ns.spec.nsze)
include hin

theorem exec_datasetManagement_of_in : exec (.datasetManagement q e ranges) s = .next (
      let t := s.listed q e sl ranges
      if (!e.cdw11.getLsbD 2) = true then t.succeed q e.cid
      else t.freeAndMerge { src := q, e := e, nsx := x, slice := sl
                            body := .dsm (if ns.readOnly = true then [] else cutUnits e ns ranges) } (listedRanges e ranges)) := by
  refine (exec_datasetManagement_eq ranges hns hptr).trans (congrArg Host.Outcome.next (if_neg fun hany => ?_))
  obtain ⟨y, hy, hpast⟩ := List.any_eq_true.1 hany
  exact absurd (of_decide_eq_true hpast) (Nat.not_lt.2 (hin y hy))

theorem exec_datasetManagement_idle (h : e.cdw11.getLsbD 2 = false) :
    exec (.datasetManagement q e ranges) s = .next ((s.listed q e sl ranges).complete q e.cid 0 0 0 0) :=
  (exec_datasetManagement_of_in ranges hns hptr hin).trans (congrArg Host.Outcome.next (if_pos (by rw [h]; rfl)))

theorem exec_datasetManagement_deallocates (h : e.cdw11.getLsbD 2 = true) :
    exec (.datasetManagement q e ranges) s = .next ((s.listed q e sl ranges).freeAndMerge
      { src := q, e := e, nsx := x, slice := sl
        body := .dsm (if ns.readOnly = true then [] else cutUnits e ns ranges) } (listedRanges e ranges)) :=
  (exec_datasetManagement_of_in ranges hns hptr hin).trans (congrArg Host.Outcome.next (if_neg (by rw [h]; decide)))

end

/-- Settles O40: the checks of each command in their order, then the write buffer's answer, the reads queued and ended, and
what is freed. -/
theorem nvmCommandsMoveTheirBlocks : Obligations.NvmCommandsMoveTheirBlocks := by
  intro s q e data pi sealOk first sl x code k ns ranges w r v lost b p len n bad past got bytes u write tags read zero dsm mine
    parts charged tag nr rs ds cut freed asked
  refine ⟨fun hio => congrArg Host.Outcome.next (ioCmd_eq _ _ _ _ _ _ _ hio), fun hns => ?write, ?offer,
    ⟨admitWrite_of_owned s w, admitWrite_of_unowned s w⟩, exec_writeBufferAdmit_none, fun hpick => ?pick, fun hns => ?read,
    ⟨fun t c => endRead_of_fail, fun iu o hfail htorn => endRead_of_torn hfail htorn, fun hfail htorn hpi => endRead_of_badPi hfail htorn hpi,
      fun hfail htorn hpi => endRead_of_data hfail htorn hpi,
      fun hparts => ⟨(block_of_parts hparts).1, (block_of_parts hparts).2 _⟩⟩, fun hns => ?zero, fun hns => ?dsm⟩
  case write =>
    refine ⟨fun hbad => exec_write_of_check data pi sealOk hns (rwCheck_of_bad hbad),
      fun hbad hpast => exec_write_of_check data pi sealOk hns (rwCheck_of_past hbad hpast),
      fun hbad hpast hptr => exec_write_of_check data pi sealOk hns (rwCheck_of_ptr hbad hpast hptr), fun hbad hpast hptr => ?_⟩
    have hpass {o : Option Nat} (hpi : piWrite p e bytes pi = o) :=
      exec_write_of_pass data pi sealOk hns (rwCheck_of_ptr hbad hpast hptr) hpi
    refine ⟨fun hseal hbroken => (hpass rfl).trans (congrArg _ (if_pos (by rw [hbroken]; exact Bool.and_eq_true_iff.2 ⟨hseal, rfl⟩))),
      fun hseal => ?_⟩
    have hopen : ¬((got.sealOf q e.cid).isSome && !sealOk) = true := by rcases hseal with h | h <;> simp [h]
    exact ⟨fun hpi => (hpass hpi).trans (congrArg _ (if_neg hopen)), fun hpi => (hpass hpi).trans (congrArg _ (if_neg hopen))⟩
  case offer =>
    intro y keep gone blocked can
    refine ⟨offerWrite_of_readOnly, fun hro ⟨z, hz⟩ => offerWrite_of_readOnly_dsm hro hz, offerWrite_of_lost,
      fun ⟨hrw, hfound, hcan⟩ => offerWrite_of_admission hrw hfound hcan,
      fun ⟨hrw, hfound, hcan⟩ => offerWrite_of_admission hrw hfound hcan,
      fun credit ⟨hrw, hfound, hcan⟩ => ⟨fun hfirst hwaits => ?_, fun hgo => ?_⟩⟩
    · exact (offerWrite_of_admission hrw hfound hcan).trans (if_pos ⟨hfirst, fun h => hwaits (List.isEmpty_iff.1 h)⟩)
    · refine (offerWrite_of_admission hrw hfound hcan).trans (if_neg fun ⟨hfirst, hwaits⟩ => ?_)
      rcases hgo with h | h
      · rw [h] at hfirst
        cases hfirst
      · exact hwaits (List.isEmpty_iff.2 h)
  case pick =>
    obtain ⟨hmem, hflash, hbal⟩ := arbPick_eq_some s _ _ hpick
    exact ⟨exec_writeBufferAdmit_some hpick, hmem, hflash, fun z hz hzf => ⟨hbal z hz hzf,
      ((sliceBefore_eq_false_iff ..).1 (arbPick_first s _ _ hpick z hz hzf)).2⟩⟩
  case read =>
    refine ⟨fun hbad => exec_read_of_check hns (rwCheck_of_bad hbad),
      fun hbad hpast => exec_read_of_check hns (rwCheck_of_past hbad hpast),
      fun hbad hpast hptr => exec_read_of_check hns (rwCheck_of_ptr hbad hpast hptr), fun hbad hpast hptr hunits => ?_⟩
    have hpass := exec_read_of_pass hns (rwCheck_of_ptr hbad hpast hptr) hunits
    exact ⟨fun hk => hpass.trans (congrArg _ (if_pos hk)), fun hk => hpass.trans (congrArg _ (if_neg hk))⟩
  case zero =>
    have hnsx : charged.nsx x = ns := (begin_nsx s q e.cid x).trans hns.nsx
    have hius : (mine (.zeros tag)).ius (charged.nsx x).spec = parts := by rw [hnsx]; rfl
    have hmerged : (mine (.zeros tag)).merged (charged.nsx x).spec = parts := hius
    have hasked : charged.admission (charged.nsx x).spec.mode (writeGranules (charged.nsx x).spec
        ((mine (.zeros tag)).ius (charged.nsx x).spec).length) = asked charged parts.length := by rw [hius, hnsx]; rfl
    have hmerges (hpast : ¬past) (hrw : ns.readOnly = false) : exec zero s =
        .next (charged.freeAndMerge (mine (.zeros tag)) [(e.slba, e.blocks)]) :=
      (exec_writeZeroes_of_range hns hpast).trans (congrArg _ (if_neg fun h => Bool.eq_false_iff.1 hrw h.1))
    refine ⟨exec_writeZeroes_of_past hns, fun hpast hparts => ?_, fun hpast hparts hro => ?_, fun hpast hparts hrw hlost => ?_,
      fun hpast hparts hrw hfound => ⟨fun hfull => ?_, fun hroom => ?_⟩⟩
    · exact (exec_writeZeroes_of_range hns hpast).trans (congrArg _ ((if_neg fun h => h.2 (List.isEmpty_iff.2 hparts)).trans
        (freeAndMerge_of_whole (hius.trans hparts))))
    · exact (exec_writeZeroes_of_range hns hpast).trans
        (congrArg _ (if_pos ⟨hro, fun h => hparts (List.isEmpty_iff.1 h)⟩))
    · exact (hmerges hpast hrw).trans (congrArg _ (freeAndMerge_of_lost (hius ▸ hparts) (hmerged ▸ hlost)))
    · exact (hmerges hpast hrw).trans (congrArg _ (freeAndMerge_of_full (hius ▸ hparts) (hmerged ▸ hfound) (hasked.trans hfull)))
    · exact (hmerges hpast hrw).trans (congrArg _ (freeAndMerge_of_room (hius ▸ hparts) (hmerged ▸ hfound)
        fun h => hroom (hasked.symm.trans h)))
  case dsm =>
    have hnsx : ds.nsx x = ns := (nsx_listed ranges x).trans hns.nsx
    have hasked : ds.admission (ds.nsx x).spec.mode (writeGranules (ds.nsx x).spec (cut.map (·.2)).length)
        = asked ds cut.length := by rw [hnsx, List.length_map]; rfl
    have hcuts {P : Nat → Prop} : (∀ iu ∈ cut.map (·.2), P iu) ↔ ∀ y ∈ cut, P y.2 := List.forall_mem_map
    have hnocut (h : cut ≠ []) : cut.map (·.2) ≠ [] := fun hnil => h (List.map_eq_nil_iff.1 hnil)
    refine ⟨exec_datasetManagement_of_ptr ranges hns, fun hptr => ⟨exec_datasetManagement_of_past ranges hns hptr, fun hin =>
      ⟨exec_datasetManagement_idle ranges hns hptr hin, fun hdealloc hnone => ?_, fun hdealloc hrw hcut hlost => ?_,
        fun hdealloc hrw hcut hfound => ⟨fun hfull => ?_, fun hroom => ?_⟩⟩⟩⟩
    all_goals have hmerges := exec_datasetManagement_deallocates ranges hns hptr hin hdealloc
    · have hempty : (if ns.readOnly = true then [] else cutUnits e ns ranges) = [] := by
        rcases hnone with h | h
        · exact if_pos h
        · exact (congrArg _ h).trans (ite_self _)
      refine hmerges.trans (congrArg _ (freeAndMerge_of_whole ?_))
      rw [hempty]
      rfl
    all_goals rw [hrw] at hmerges
    · obtain ⟨y, hy, hlost⟩ := hlost
      exact hmerges.trans (congrArg _ (freeAndMerge_of_lost (hnocut hcut) ⟨y.2, List.mem_map_of_mem hy, hlost⟩))
    · exact hmerges.trans (congrArg _ (freeAndMerge_of_full (hnocut hcut) (hcuts.2 hfound) (hasked.trans hfull)))
    · exact hmerges.trans (congrArg _ (freeAndMerge_of_room (hnocut hcut) (hcuts.2 hfound) fun h => hroom (hasked.symm.trans h)))

end Sys2Proof.Machine
end

section
/-! A run at its SPANLIM off its core (R249, R250): the word that its fault record holds. -/

namespace Sys2Proof.Machine

/-- A run off its core that has used its SPANLIM ends with Billet Fault, cause 20h; the record holds the first instruction word
at its saved PC (R249). -/
theorem exec_spanlimExpiry_off {s : State} {n : Nat} {r : Run} (hrun : s.runAt n = some r) (hlim : r.atLimit = true)
    (hoff : r.core = none) : exec (.spanlimExpiry n) s = .next (s.setRun n { r with
      ended := some (faultEnd r { ctx := r.saved, sup := false } 0x20 r.saved.pc 0 (s.savedWord r))
      eng := Tbl.mapV r.eng fun _ => abortCtx }) := by
  change execSpanlimExpiry n s = _
  simp only [execSpanlimExpiry, State.endAtLimit, hrun, hlim, hoff, Bool.not_true, Bool.false_eq_true, if_false]

/-! ## The counterexample -/

/-- A run of one span, used up, with room for a fault record, whose saved PC is 0. -/
def limitRun : Run :=
  { slice := 0, ctrl := 1, sq := 1, cid := 0, bid := 0, entry := 0, arg0 := 0, arg1 := 0, outLen := 128, spanLim := 1, spans := 1 }

/-- Its billet: a header, then 8 bytes of code whose word is 1. -/
def limitBillet : Billet := { bytes := List.replicate 128 0 ++ [1, 0, 0, 0, 0, 0, 0, 0], codeLen := 8 }

/-- The run waits off its core. -/
def limitState : State := { State.reset with cpu := { State.reset.cpu with runs := [(0, limitRun)], billets := [(0, limitBillet)] } }

/-- A command that the clause does not look at. -/
def limitSqe : Sqe :=
  { opc := 0, psdt := 0, cid := 0, nsid := 0, mptr := 0, dptr := .prp 0 0 [], cdw10 := 0, cdw11 := 0, cdw12 := 0, cdw13 := 0
    cdw14 := 0, cdw15 := 0 }

theorem savedWord_limitState : limitState.savedWord limitRun = 1 := by decide

/-- The first byte of the instruction word in the fault record that a run ended with. -/
def endedWord (s : State) (n : Nat) : Option Byte :=
  (s.runAt n).bind fun r => r.ended.bind fun z => z.output.parts.head?.bind fun p => (p.2.drop 24).head?

theorem endedWord_setRun (s : State) (n : Nat) (r : Run) (core : Core) (cause : Nat) (pc addr word : W64) (eng : Tbl EngCtx)
    (hroom : 128 ≤ r.outLen) : endedWord (s.setRun n { r with ended := some (faultEnd r core cause pc addr word), eng := eng }) n
      = some (BitVec.ofNat 8 word.toNat) := by
  have hrec : (faultEnd r core cause pc addr word).output = Data.ofBytes (faultRecord r core cause pc addr word) :=
    if_pos hroom
  rw [endedWord, show (s.setRun n _).runAt n = some _ from Tbl.get?_set_self .., Option.bind_some, Option.bind_some, hrec]
  rfl

/-- Refutes O41: a run off its core at its SPANLIM records the instruction word at its saved PC, and the statement says 0. The
run `limitRun` of `limitState` has the word 1 there. -/
theorem not_billetsLoadAndRunsComplete : ¬ Obligations.BilletsLoadAndRunsComplete := by
  intro h
  obtain ⟨-, -, -, -, -, -, -, -, -, -, hrun⟩ := h limitState .sideband limitSqe [] true 0 0 0 0 0 limitBillet limitRun
    { e := limitSqe } { sct := 0, sc := 0, dw0 := 0, dw1 := 0, output := { len := 0, parts := [] } }
  obtain ⟨-, -, -, hlimit, -⟩ := hrun rfl
  obtain ⟨-, hoff⟩ := hlimit (by decide) (by decide) rfl
  have hstates := Host.Outcome.next.inj ((exec_spanlimExpiry_off (s := limitState) (n := 0) rfl rfl rfl).symm.trans (hoff rfl))
  have hwords := congrArg (endedWord · 0) hstates
  rw [savedWord_limitState] at hwords
  have hmodel := endedWord_setRun limitState 0 limitRun { ctx := limitRun.saved, sup := false } 0x20 limitRun.saved.pc 0 1
    (Tbl.mapV limitRun.eng fun _ => abortCtx) (by decide)
  have hstated := endedWord_setRun limitState 0 limitRun { ctx := limitRun.saved, sup := false } 0x20 limitRun.saved.pc 0 0
    (Tbl.mapV limitRun.eng fun _ => abortCtx) (by decide)
  exact absurd (hmodel.symm.trans (hwords.trans hstated)) (by decide)

end Sys2Proof.Machine
end

section
/-! Flash reads (R102, R192 to R206): how a die takes one, what a decode comes to at each step, and what tracking keeps in its range. -/

namespace Sys2Proof.Machine

/-! ## A die takes a read (R30, R102, R195) -/

section
variable {s : State} {d : Nat}

theorem kickDie_of_busy (h : s.media.dieReads d true ≠ []) : s.kickDie d = s :=
  if_pos (by simpa using h)

variable (hidle : s.media.dieReads d true = [])
include hidle

theorem kickDie_of_idle : s.kickDie d = match s.nextRead d with
    | none => s
    | some (n, r) => if 131072 < s.media.readBuf (d % 32) + (s.media.set r.set).cell.codeword then s else s.sendRead n r d :=
  if_neg (by rw [hidle]; decide)

theorem kickDie_of_none (h : s.nextRead d = none) : s.kickDie d = s := by
  rw [kickDie_of_idle hidle, h]

variable {k : Nat} {x : MediaRead} (hnext : s.nextRead d = some (k, x))
include hnext

theorem kickDie_of_full (h : ¬s.media.readBuf (d % 32) + (s.media.set x.set).cell.codeword ≤ 131072) : s.kickDie d = s := by
  rw [kickDie_of_idle hidle, hnext]
  exact if_pos (Nat.not_le.1 h)

theorem kickDie_of_room (h : s.media.readBuf (d % 32) + (s.media.set x.set).cell.codeword ≤ 131072) :
    s.kickDie d = s.sendRead k x d := by
  rw [kickDie_of_idle hidle, hnext]
  exact if_neg (Nat.not_lt.2 h)

end

/-! ## The outcome of a decode (R192, R193, R200) -/

theorem erased_iff (dec : Decode) (k : Nat) : dec.erased k = true ↔ (k = 1 ∨ k = 3) ∧ dec.zeros < 64 := by
  simp [Decode.erased, hardStep]

theorem good_iff (dec : Decode) (k : Nat) : dec.good k = true
    ↔ ∃ i, dec.iters = some i ∧ i ≤ if k = 2 ∨ k = 4 ∨ k = 5 then 40 else 24 := by
  simp [Decode.good, softStage, Option.any_eq_true, or_assoc]

section
variable {s : State} {n : Nat} {r : MediaRead} {dec : Decode} {sense : Sense} {bytes : Option (List Byte)}

/-- A decode passes when its codeword is good, and at step 6 when the unit can be rebuilt. -/
def MediaRead.passes (s : State) (r : MediaRead) (dec : Decode) : Prop :=
  dec.good r.step = true ∧ (r.step < 6 ∨ s.media.canRebuild r.set r.off = true)

theorem decoded_of_erased (h : dec.erased r.step = true) :
    s.decoded n r dec sense bytes = (s.track r id).unrecoverable n r := if_pos h

variable (hread : dec.erased r.step = false)
include hread

/-- The tracked values and the defect map after a decode that passed (R195, R196, R198). -/
def State.learnt (s : State) (r : MediaRead) (dec : Decode) (sense : Sense) : State :=
  let kept := if r.step = 1 ∨ r.step = 3 then s.tracked r dec sense
    else if r.step = 5 then s.track r fun t => { t with o := clampInt (-32768) 32512 (t.o + 256 * r.kept) } else s
  if r.step = 6 then kept
  else ((dec.fixes.map (·.1)).eraseDups).foldl (fun (t : State) c => t.columnHit (s.media.unitDie r.set r.off) c
    (r.set * 2 ^ 16 + s.media.wordline r.set r.off)) kept

theorem decoded_of_passes (h : r.passes s dec) :
    s.decoded n r dec sense bytes = ((s.learnt r dec sense).recovered r).authCheck n r bytes := by
  have hhard : (hardStep r.step = true) = (r.step = 1 ∨ r.step = 3) := by simp [hardStep]
  refine (if_neg (Bool.eq_false_iff.1 hread)).trans ((if_pos ?_).trans ?_)
  · simpa [MediaRead.passes] using h
  · unfold State.learnt
    simp only [hhard]

variable (hfails : ¬r.passes s dec)
include hfails

theorem decoded_of_fails : s.decoded n r dec sense bytes =
    if r.step = 6 then s.unrecoverable n r
    else if r.dropped = true then s.dropRead n
    else
      let next := if s.media.dieOut (s.media.unitDie r.set r.off) = true then 6 else r.step + 1
      let u := if next = 4 then (s.track r id).stepFour r else s.track r id
      let v := u.modRead n fun x => { x with auth := if next = 6 ∧ x.auth = 1 then 2 else x.auth }
      (v.enterStep n next 5).softServe (softGroup (s.media.unitChan r.set r.off)) 6 := by
  refine (if_neg (Bool.eq_false_iff.1 hread)).trans ((if_neg fun h => hfails ?_).trans rfl)
  simpa [MediaRead.passes] using h

end

section
variable {s : State} {r : MediaRead}

theorem recovered_of_early (h : r.step < 3) : s.recovered r = s := if_pos h

theorem recovered_of_late (h : 3 ≤ r.step) : s.recovered r = ({ s with media := s.media.modChan (s.media.unitChan r.set r.off) fun x =>
    { x with recov := min 255 (x.recov + 1) } } : State).queueRefresh r.nsx r.iu := if_neg (Nat.not_lt.2 h)

end

section
variable {s : State} {n : Nat} (dec : Decode) (sense : Sense) (bytes : Option (List Byte))

theorem exec_flashReadComplete_none (h : Tbl.get? s.media.reads n = none) :
    exec (.flashReadComplete n dec sense bytes) s = .next s := by
  change execFlashReadComplete n dec sense bytes s = _
  simp only [execFlashReadComplete, h]

theorem exec_softDecodeComplete_none (h : Tbl.get? s.media.reads n = none) :
    exec (.softDecodeComplete n dec sense bytes) s = .next s := by
  change execSoftDecodeComplete n dec sense bytes s = _
  simp only [execSoftDecodeComplete, h]

variable {r : MediaRead} (hr : Tbl.get? s.media.reads n = some r)
include hr

theorem exec_flashReadComplete_some : exec (.flashReadComplete n dec sense bytes) s = .next (
    if (r.issued && (hardStep r.step || decide (r.step = 6))) = true then
      ((s.dieReady (s.media.unitDie r.set r.off)).decoded n r dec sense bytes).sweepProgs
    else s) := by
  change execFlashReadComplete n dec sense bytes s = _
  simp only [execFlashReadComplete, hr]

theorem exec_softDecodeComplete_some : exec (.softDecodeComplete n dec sense bytes) s = .next (
    if r.soft.any (·.unit.isSome) = true then (s.decoded n r dec sense bytes).sweepProgs else s) := by
  change execSoftDecodeComplete n dec sense bytes s = _
  simp only [execSoftDecodeComplete, hr]

end

/-! ## The page reads of a step, and the ranges of tracked values (R195, R199, R200) -/

theorem length_of_mem_ladderSenses {c : Cell} {thr : List Int} {kept : Int} {k : Nat} {l : List Int}
    (h : l ∈ ladderSenses c thr kept k) : l.length = thr.length := by
  have hat {l : List Int} {d : Int} (hl : l = thr.map (· + d)) : l.length = thr.length := by rw [hl, List.length_map]
  unfold ladderSenses at h
  extract_lets at_ four at h
  have hfour {d : Int} (hl : l ∈ four d) : l.length = thr.length := by
    simp only [four, List.mem_cons, List.not_mem_nil, or_false] at hl
    rcases hl with hl | hl | hl | hl <;> exact hat hl
  split at h
  · simp only [List.mem_cons, List.not_mem_nil, or_false] at h
    rcases h with h | h <;> exact hat h
  · split at h
    · exact hfour h
    · split at h
      · rcases List.mem_append.1 h with h | h
        · obtain ⟨i, -, hi⟩ := List.mem_map.1 h
          exact hat hi.symm
        · exact hfour h
      · exact hat (List.mem_singleton.1 h)

theorem clampInt_bounds {lo hi : Int} (h : lo ≤ hi) (x : Int) : lo ≤ clampInt lo hi x ∧ clampInt lo hi x ≤ hi := by
  unfold clampInt
  omega

theorem trackUpdate_slc (t : Track) (sense : Sense) (n10 n01 : Nat) (up : Bool) :
    (trackUpdate t .slc sense n10 n01 up).g = t.g ∧ (trackUpdate t .slc sense n10 n01 up).a = t.a := ⟨rfl, rfl⟩

section
variable (t : Track) {c : Cell} (sense : Sense) (n10 n01 : Nat) (up : Bool)

theorem trackUpdate_o_bounds : -32768 ≤ (trackUpdate t c sense n10 n01 up).o ∧ (trackUpdate t c sense n10 n01 up).o ≤ 32512 := by
  by_cases hc : c = .slc
  · subst hc
    exact clampInt_bounds (by decide) _
  · rw [trackUpdate, if_neg hc]
    exact clampInt_bounds (by decide) _

theorem trackUpdate_a_of_not_p1 (h : sense.p1 = false) : (trackUpdate t c sense n10 n01 up).a = t.a := by
  by_cases hc : c = .slc
  · subst hc
    rfl
  · rw [trackUpdate, if_neg hc]
    exact if_neg (Bool.eq_false_iff.1 h)

variable (hc : c ≠ .slc)
include hc

theorem trackUpdate_g_bounds : -524288 ≤ (trackUpdate t c sense n10 n01 up).g ∧ (trackUpdate t c sense n10 n01 up).g ≤ 524032 := by
  rw [trackUpdate, if_neg hc]
  exact clampInt_bounds (by decide) _

theorem trackUpdate_a_bounds (h : sense.p1 = true) :
    -16384 ≤ (trackUpdate t c sense n10 n01 up).a ∧ (trackUpdate t c sense n10 n01 up).a ≤ 16128 := by
  rw [trackUpdate, if_neg hc]
  dsimp only
  rw [if_pos h]
  exact clampInt_bounds (by decide) _

end

/-! ## The check of a unit that was read (R206, R216, R220, R221) -/

section
variable (s : State) (r : MediaRead)

/-- The state as the cipher lane checks a unit: its key is latched, unless the read is the device's own. -/
def State.lane : State := if r.device = true then s else s.laneKey (s.checkChan r) r.nsx r.gen

theorem unitChan_lane (set off : Nat) : (s.lane r).media.unitChan set off = s.media.unitChan set off := by
  unfold State.lane
  split <;> rfl

theorem authCheck_eq (n : Nat) (bytes : Option (List Byte)) {f : Found} (hfound : (s.lane r).found r bytes = f) :
    s.authCheck n r bytes =
    let v := s.lane r
    match (generalizing := false) f with
    | .poisoned => v.unitFail n r 2 0x81
    | .good body app alien =>
      let w := match bytes, v.media.storedAt r.set r.off with
        | some y, some u => if r.step = 6 then v else v.storeUnit r.set r.off { u with raw := some y }
        | _, _ => v
      (if r.auth ≠ 0 then w.queueRefresh r.nsx r.iu else w).unitOk n r body app alien
    | .authFail =>
      if r.dropped = true then v.dropRead n
      else if r.auth = 0 ∧ r.step ≠ 6 then (v.modRead n fun x => { x with auth := 1 }).enterStep n 4 5
      else if r.auth ≤ 1 then (v.modRead n fun x => { x with auth := 2, soft := none, step := 6 }).softServe
        (softGroup (s.media.unitChan r.set r.off)) 6
      else
        (v.logFault 0x05 4 [s.media.unitChan r.set r.off] (some r.slice) [r.set, r.off]
          [r.nsx, r.iu * (v.nsx r.nsx).spec.iuUnits + r.unit, ((v.media.storedAt r.set r.off).map (·.kind)).getD 0]).unitFail n r 7 0x85 := by
  subst hfound
  rw [← unitChan_lane s r]
  rfl

theorem found_of_device (v : State) (bytes : Option (List Byte)) (h : r.device = true) : v.found r bytes = .good (.bytes []) 0 false :=
  if_pos h

end

section
variable {m : Media} {set off : Nat}

theorem canRebuild_of_naked (h : (m.set set).naked.contains (m.unitPage set off) = true) : m.canRebuild set off = false := by
  simp only [Media.canRebuild, h, Bool.not_true, Bool.false_and]

theorem canRebuild_of_out {c : Nat} (hc : c < 32) (hin : c ∉ (m.set set).out) (hown : c ≠ m.unitChan set off)
    (h : m.pageOut set (m.unitPage set off) c = true) : m.canRebuild set off = false := by
  refine Bool.and_eq_false_iff.2 (.inr (List.all_eq_false.2 ⟨c, List.mem_range.2 hc, ?_⟩))
  simp [hin, hown, h]

end

end Sys2Proof.Machine
end

section
/-! The stored form of a unit (R208, R209, R218 to R220): its metadata read back, and its check on its bytes. -/

namespace Sys2Proof.Machine

/-- The bytes of a number are that number, as far as they hold it (R9). -/
theorem leNat_leBytes (k n : Nat) : leNat (leBytes k n) = n % 256 ^ k := by
  induction k generalizing n with
  | zero => exact (Nat.mod_one n).symm
  | succ k ih =>
    rw [leBytes, leNat, ih, BitVec.toNat_ofNat, show 256 ^ (k + 1) = 2 ^ 8 * 256 ^ k from Nat.pow_succ', Nat.mod_mul]
    rfl

theorem leNat_leBytes_of_lt {k n : Nat} (h : n < 256 ^ k) : leNat (leBytes k n) = n := by
  rw [leNat_leBytes, Nat.mod_eq_of_lt h]

/-- A unit with its metadata alone. -/
def Stored.metadata (u : Stored) : Stored := { kind := u.kind, nsx := u.nsx, ulba := u.ulba, seq := u.seq, app := u.app }

theorem length_fields (u : Stored) : u.fields.length = 16 := by
  simp only [Stored.fields, List.length_append, length_leBytes]

theorem fields_parts (u : Stored) : u.fields.take 7 = leBytes 7 u.seq ∧ (u.fields.drop 7).take 5 = leBytes 5 u.ulba
    ∧ (u.fields.drop 12).take 2 = leBytes 2 (u.nsx + 4096 * u.kind) ∧ (u.fields.drop 14).take 2 = leBytes 2 u.app.toNat :=
  ⟨rfl, rfl, rfl, rfl⟩

/-- R209: the metadata of a unit reads back as written. -/
theorem read_fields {u : Stored} (hkind : u.kind < 16) (hnsx : u.nsx < 4096) (hulba : u.ulba < 2 ^ 40) (hseq : u.seq < 2 ^ 56) :
    Stored.read u.fields = u.metadata := by
  obtain ⟨htake, hulba_at, hkind_at, happ_at⟩ := fields_parts u
  have hword : u.nsx + 4096 * u.kind < 256 ^ 2 := by omega
  unfold Stored.read Stored.metadata
  rw [htake, hulba_at, hkind_at, happ_at, leNat_leBytes_of_lt (k := 7) hseq, leNat_leBytes_of_lt (k := 5) hulba,
    leNat_leBytes_of_lt hword, leNat_leBytes_of_lt (k := 2) u.app.isLt, BitVec.ofNat_toNat, BitVec.setWidth_eq]
  simp only [Stored.mk.injEq, and_true]
  omega

/-- R219: what the lane checks a unit against takes no more than its metadata. -/
theorem binds_metadata (ask : UnitAsk) (u : Stored) : (ask.binds u.metadata).1 = (ask.binds u).1
    ∧ (ask.binds u.metadata).2.iv = (ask.binds u).2.iv ∧ ∀ slice, (ask.binds u.metadata).2.aad slice = (ask.binds u).2.aad slice := by
  cases ask <;> exact ⟨rfl, rfl, fun _ => rfl⟩

section
variable {u : Stored} (ask : UnitAsk) (key : Nat) {ct tag : List Byte}
  (hkind : u.kind < 16) (hnsx : u.nsx < 4096) (hulba : u.ulba < 2 ^ 40) (hseq : u.seq < 2 ^ 56)
  (hct : ct.length = 4096) (htag : tag.length = 16)
include hkind hnsx hulba hseq hct htag

/-- R220: the check of a unit's bytes turns on its kind, then on its tag. -/
theorem checkUnit_eq : checkUnit key ask (ct ++ tag ++ u.fields) =
    if u.kind = 15 then .poisoned
    else if u.kind ∉ ask.allows then .authFail
    else if Config.gcmTag key (ask.binds u).2.iv ((ask.binds u).2.aad (ask.binds u).1) ct ≠ tag then .authFail
    else .plain (Config.gcmDecrypt key (ask.binds u).2.iv ((ask.binds u).2.aad (ask.binds u).1) ct) := by
  have htake : (ct ++ tag ++ u.fields).take 4096 = ct := by
    rw [List.append_assoc, List.take_left' hct]
  have hmid : ((ct ++ tag ++ u.fields).drop 4096).take 16 = tag := by
    rw [List.append_assoc, List.drop_left' hct, List.take_left' htag]
  have hdrop : (ct ++ tag ++ u.fields).drop 4112 = u.fields :=
    List.drop_left' (by rw [List.length_append, hct, htag])
  obtain ⟨hslice, hiv, haad⟩ := binds_metadata ask u
  unfold checkUnit
  rw [htake, hmid, hdrop, read_fields hkind hnsx hulba hseq]
  simp only [hslice, hiv, haad, show u.metadata.kind = u.kind from rfl, Bool.not_eq_true', decide_eq_false_iff_not,
    List.contains_eq_mem]

end

section
variable {u : Stored} (key : Nat) (ask : UnitAsk) (hraw : u.raw = none)
include hraw

/-- The check of a unit that is as programmed (R220). -/
theorem checkStored_eq : checkStored (some u) none key ask =
    if u.kind = 15 then .poisoned else if u.passes key ask = true then .good u.body u.app false else .authFail := by
  simp only [checkStored, Option.bind_some, hraw]
  rfl

end

theorem passes_iff (u : Stored) (key : Nat) (ask : UnitAsk) :
    u.passes key ask = true ↔ u.kind ∈ ask.allows ∧ u.key = key ∧ ask.binds u = (u.slice, u) := by
  simp [Stored.passes, and_assoc]

/-- Settles O43: the die's pick, the outcome of a decode at each step, the checks of a read unit, and the stored form. -/
theorem flashReadsClimbTheLadder : Obligations.FlashReadsClimbTheLadder := by
  intro s n r dec sense bytes read soft m b chan die passes fails
  have hdecoded (h : fails) := decoded_of_fails (n := n) (sense := sense) (bytes := bytes) h.1 h.2
  refine ⟨fun d => ⟨kickDie_of_busy, kickDie_of_none, fun k x hidle hnext => ⟨kickDie_of_full hidle hnext, fun hroom hdev => ?_,
      fun hroom hdev => ?_⟩⟩,
    fun hr => ⟨exec_flashReadComplete_none dec sense bytes hr, exec_softDecodeComplete_none dec sense bytes hr⟩,
    fun hr => ⟨fun hissued hstep => ?_, fun hnot => ?_, fun j u hj hu => ?_, fun hfree => ?_⟩,
    fun k => ⟨erased_iff dec k, good_iff dec k⟩, decoded_of_erased, fun hf hstep => ?_, fun hf hstep hdrop => ?_,
    fun hf hstep hkeep => ?_, fun hp => ?_, recovered_of_early, recovered_of_late,
    fun c thr kept => ⟨rfl, rfl, rfl, rfl, rfl, fun k l hl => length_of_mem_ladderSenses hl⟩,
    fun t c n10 n01 up => ⟨(trackUpdate_o_bounds ..).1, (trackUpdate_o_bounds ..).2, fun hc => hc ▸ trackUpdate_slc ..,
      trackUpdate_g_bounds t sense n10 n01 up, trackUpdate_a_of_not_p1 t sense n10 n01 up, trackUpdate_a_bounds t sense n10 n01 up⟩,
    ?_, fun off => ⟨canRebuild_of_naked, fun c hc hin hown => canRebuild_of_out hc hin hown⟩,
    fun u ask key ct tag hkind hnsx hulba hseq hct htag => ?_, fun u ask key hraw => ?_,
    fun u slice nsx index => ⟨rfl, fun hkind => ?_, fun hkind => ?_⟩⟩
  · exact (kickDie_of_room hidle hnext hroom).trans (if_pos hdev)
  · exact (kickDie_of_room hidle hnext hroom).trans (if_neg (Bool.eq_false_iff.1 hdev))
  · refine (exec_flashReadComplete_some dec sense bytes hr).trans (congrArg _ (if_pos ?_))
    rcases hstep with h | h | h <;> rw [hissued, h] <;> rfl
  · refine (exec_flashReadComplete_some dec sense bytes hr).trans (congrArg _ (if_neg ?_))
    rcases hnot with h | h
    · simp [h]
    · simp [hardStep, h]
  · exact (exec_softDecodeComplete_some dec sense bytes hr).trans (congrArg _ (if_pos (by simp [hj, hu])))
  · refine (exec_softDecodeComplete_some dec sense bytes hr).trans (congrArg _ (if_neg fun hany => ?_))
    obtain ⟨j, hj, hunit⟩ := (Option.any_eq_true _ _).1 hany
    rw [hfree j hj] at hunit
    cases hunit
  · exact (hdecoded hf).trans (if_pos hstep)
  · exact (hdecoded hf).trans ((if_neg hstep).trans (if_pos hdrop))
  · exact (hdecoded hf).trans ((if_neg hstep).trans (if_neg (Bool.eq_false_iff.1 hkeep)))
  · exact decoded_of_passes hp.1 hp.2
  · refine ⟨authCheck_eq s r n bytes, fun body app alien => authCheck_eq s r n bytes, fun h => ?_,
      found_of_device r (s.lane r) bytes⟩
    · have hauth := authCheck_eq s r n bytes h
      refine ⟨fun hdrop => hauth.trans (if_pos hdrop), fun hkeep hfirst hstep => ?_, fun hkeep hnext => ?_, fun hkeep hlast => ?_⟩
      all_goals replace hauth := hauth.trans (if_neg (Bool.eq_false_iff.1 hkeep))
      · exact hauth.trans (if_pos ⟨hfirst, hstep⟩)
      · exact hauth.trans ((if_neg (by omega)).trans (if_pos (by omega)))
      · exact hauth.trans ((if_neg (by omega)).trans (if_neg (by omega)))
  · have hcheck := checkUnit_eq ask key hkind hnsx hulba hseq hct htag
    exact ⟨length_fields u, read_fields hkind hnsx hulba hseq, fun h => hcheck.trans (if_pos h),
      fun h hout => hcheck.trans ((if_neg h).trans (if_pos hout)),
      fun h hin htag => hcheck.trans ((if_neg h).trans ((if_neg (not_not_intro hin)).trans (if_pos htag))),
      fun h hin htag => hcheck.trans ((if_neg h).trans ((if_neg (not_not_intro hin)).trans (if_neg (not_not_intro htag))))⟩
  · have hcheck := checkStored_eq key ask hraw
    refine ⟨fun h => hcheck.trans (if_pos h), fun h hin hkey hbind => hcheck.trans ((if_neg h).trans
      (if_pos ((passes_iff ..).2 ⟨hin, hkey, hbind⟩))), fun h hnot => hcheck.trans ((if_neg h).trans (if_neg fun hpass => ?_))⟩
    obtain ⟨hin, hkey, hbind⟩ := (passes_iff ..).1 hpass
    rcases hnot with h | h | h
    · exact h hin
    · exact h hkey
    · exact h hbind
  · rw [UnitAsk.binds, if_pos hkind]
  · rw [UnitAsk.binds, if_neg hkind]

end Sys2Proof.Machine
end

section
/-! Programs (R172, R173, R183, R205): what the end of one does, its data written elsewhere, and the stripe's truss buffer. -/

namespace Sys2Proof.Machine

section
variable {s : State} {n : Nat}

theorem exec_flashProgramComplete_none (h : Tbl.get? s.media.progs n = none) (v : ProgramEnd) :
    exec (.flashProgramComplete n v) s = .next s := by
  change execFlashProgramComplete n v s = _
  simp only [execFlashProgramComplete, h]

variable {p : Prog} (hp : Tbl.get? s.media.progs n = some p)
include hp

theorem exec_flashProgramComplete_some (v : ProgramEnd) : exec (.flashProgramComplete n v) s = .next (
    if (p.redo || p.waiting) = true then s
    else match v with
      | .ok => s.programOk n p
      | .failed => ({ s with media := s.media.modSet p.set fun y => { y with marked := insNat (p.chans.headD 0) y.marked } }
          : State).redoProgram n p
      | .crcMismatch => s.crcFailed n p (p.chans.headD 0)) := by
  change execFlashProgramComplete n v s = _
  simp only [execFlashProgramComplete, hp]
  rfl

theorem exec_flashProgramComplete_held (h : p.redo = true ∨ p.waiting = true) (v : ProgramEnd) :
    exec (.flashProgramComplete n v) s = .next s :=
  (exec_flashProgramComplete_some hp v).trans (congrArg _ (if_pos (Bool.or_eq_true_iff.2 h)))

/-- A program that its die has taken ends by its result. -/
theorem exec_flashProgramComplete_runs (hredo : p.redo = false) (hwait : p.waiting = false) (v : ProgramEnd) :
    exec (.flashProgramComplete n v) s = .next (match v with
      | .ok => s.programOk n p
      | .failed => ({ s with media := s.media.modSet p.set fun y => { y with marked := insNat (p.chans.headD 0) y.marked } }
          : State).redoProgram n p
      | .crcMismatch => s.crcFailed n p (p.chans.headD 0)) :=
  (exec_flashProgramComplete_some hp v).trans (congrArg _ (if_neg (by rw [hredo, hwait]; decide)))

end

theorem crcOn_iff (m : Media) (c : Nat) : m.crcOn c = true ↔ m.sig.getLsbD 1 = true ∧ 3600 < (m.chan c).rate := by
  simp [Media.crcOn]

section
variable {s : State} {n : Nat} {p : Prog} {c : Nat}

theorem crcFailed_last (h : p.resent = 2) : s.crcFailed n p c = (s.failChannel c 2).sweepProgs := if_pos h

theorem crcFailed_off (h : p.resent ≠ 2) (hoff : s.media.crcOn c = false) : s.crcFailed n p c = s :=
  (if_neg h).trans (if_pos (by rw [hoff]; rfl))

theorem crcFailed_first (h : p.resent = 0) (hon : s.media.crcOn c = true) : s.crcFailed n p c =
    { s with media := { s.media with progs := Tbl.set s.media.progs n { p with resent := 1, waiting := false } } } := by
  unfold State.crcFailed
  simp [h, hon, State.modMedia]

/-- The second mismatch of a program has its channel's rate lowered. -/
theorem crcFailed_second (h : p.resent = 1) (hon : s.media.crcOn c = true) : s.crcFailed n p c =
    let slow := State.startRate { s with media := s.media.modChan c fun x => { x with retrain := x.retrain + 1 } } c 3200
    let again : Prog := { p with resent := 2, waiting := (slow.media.chan c).next.isSome }
    { slow with media := { slow.media with progs := Tbl.set slow.media.progs n again } } := by
  unfold State.crcFailed
  simp [h, hon, State.modMedia]

end

section
variable {s : State} {n : Nat} {p : Prog}

theorem redoProgram_of_parity {page : Nat} (h : p.parity = some page) :
    s.redoProgram n p = (s.cutSet p.set).parityLost n p page := by
  unfold State.redoProgram
  rw [h]

theorem programOk_of_parity {page : Nat} (h : p.parity = some page) :
    s.programOk n p = (s.parityDone p.set page).dropProg n p := by
  unfold State.programOk
  rw [h]

variable (hdata : p.parity = none)
include hdata

theorem redoProgram_again (h : p.redo = true) :
    s.redoProgram n p = ((s.cutSet p.set).rewriteProgram n p false).settle p.set := by
  unfold State.redoProgram
  simp only [hdata, h, if_true]

theorem redoProgram_first (h : p.redo = false) : s.redoProgram n p =
    let t := s.cutSet p.set
    (State.rewriteProgram { t with media := { t.media with
      subs := t.media.subs ++ p.chans.map fun x => ⟨p.set, t.media.unitPage p.set p.first, x, none⟩ } } n p false).settle p.set := by
  unfold State.redoProgram
  simp only [hdata, h, Bool.false_eq_true, if_false]
  rfl

end

theorem truss_trussPage (s : State) (k page i : Nat) : Tbl.get? (s.trussPage k page i).media.truss (stripeKey k page) =
    some (xorBytes (Tbl.getD s.media.truss (stripeKey k page) (List.replicate (s.media.planes * s.media.pageBytes) 0))
      (s.media.pageData k page i)) := Tbl.get?_set_self ..

/-! ## Staging programs (R155, R157, R160) -/

section
variable {s : State} {n : Nat}

theorem exec_stagingProgramDispatch_held (h : s.media.formed = false ∨ s.rel.fault = true ∨ s.dev.pwr.plpWarn = true) :
    exec (.stagingProgramDispatch n) s = .next s := by
  refine congrArg Host.Outcome.next (if_neg fun ⟨hformed, hfault, hwarn⟩ => ?_)
  rcases h with h | h | h
  · rw [h] at hformed
    cases hformed
  · exact hfault h
  · exact hwarn h

theorem exec_stagingProgramDispatch_goes (hformed : s.media.formed = true) (hfault : s.rel.fault = false)
    (hwarn : s.dev.pwr.plpWarn = false) : exec (.stagingProgramDispatch n) s = .next (s.dispatchProgram n false) :=
  congrArg Host.Outcome.next (if_pos ⟨hformed, Bool.eq_false_iff.1 hfault, Bool.eq_false_iff.1 hwarn⟩)

theorem dispatchProgram_of_noSet (h : s.stagingSet (s.media.nextPos % max 1 s.media.dpos) false = none) :
    s.dispatchProgram n false = s := by
  unfold State.dispatchProgram
  rw [h]

/-- Without an item and without journal entries no program is sent. -/
theorem dispatchProgram_of_nothing {x : Nat} {t : State}
    (hset : s.stagingSet (s.media.nextPos % max 1 s.media.dpos) false = some (x, t))
    (hroom : (t.media.set x).cursor < t.media.cap (t.media.set x)) (hitem : s.nextItem false = none) (hopen : s.media.jopen = 0) :
    s.dispatchProgram n false = s := by
  unfold State.dispatchProgram
  simp only [hset]
  rw [if_neg (Nat.not_le.2 hroom), if_pos]
  simp [hitem, hopen]

end

end Sys2Proof.Machine
end

section
/-! Moves, erases, sample reads, map segments and rate changes (R155, R168 to R175, R187, R197, R225). -/

namespace Sys2Proof.Machine

/-! ## A run copied as it is stored (R36, R225, R229) -/

theorem storedKey_ne {a b x y : Nat} (hx : x < 2 ^ 20) (hy : y < 2 ^ 20) (h : a ≠ b ∨ x ≠ y) : storedKey a x ≠ storedKey b y := by
  unfold storedKey
  omega

/-- A unit as it is copied: an unrecoverable one becomes a poisoned unit (R225). -/
def Stored.copied (u : Stored) : Stored :=
  if u.lost = true then { u with kind := 0xF, app := 0, body := .bytes [], raw := none, lost := false } else u

/-- Copy one unit to another set, where one is stored. -/
def State.copyUnit (s : State) (set dest first base : Nat) (i : Nat) : State :=
  match s.media.storedAt set (first + i) with
  | some u => s.storeUnit dest (base + i) u.copied
  | none => s

section
variable {s : State} {set dest first base : Nat}

theorem storedAt_storeUnit_ne {a b x y : Nat} (u : Stored) (hx : x < 2 ^ 20) (hy : y < 2 ^ 20) (h : a ≠ b ∨ x ≠ y) :
    (s.storeUnit a x u).media.storedAt b y = s.media.storedAt b y := Tbl.get?_set_ne _ _ (storedKey_ne hx hy h)

/-- A copy to another place leaves a unit. -/
theorem storedAt_copyUnit_ne {i b y : Nat} (hi : base + i < 2 ^ 20) (hy : y < 2 ^ 20) (h : dest ≠ b ∨ base + i ≠ y) :
    (s.copyUnit set dest first base i).media.storedAt b y = s.media.storedAt b y := by
  unfold State.copyUnit
  split
  · exact storedAt_storeUnit_ne _ hi hy h
  · rfl

theorem storedAt_copyUnit_self {i : Nat} {u : Stored} (h : s.media.storedAt set (first + i) = some u) :
    (s.copyUnit set dest first base i).media.storedAt dest (base + i) = some u.copied := by
  unfold State.copyUnit
  rw [h]
  exact Tbl.get?_set_self ..

/-- A run copied to another set: what it was copied from stands, and each unit is at its new place. -/
theorem storedAt_copyUnits (hdest : dest ≠ set) {count : Nat} (hfirst : first + count ≤ 2 ^ 20) (hto : base + count ≤ 2 ^ 20) :
    (∀ off, off < 2 ^ 20 → ((List.range count).foldl (fun t i => t.copyUnit set dest first base i) s).media.storedAt set off
      = s.media.storedAt set off)
    ∧ ∀ i u, i < count → s.media.storedAt set (first + i) = some u →
      ((List.range count).foldl (fun t i => t.copyUnit set dest first base i) s).media.storedAt dest (base + i) = some u.copied := by
  induction count with
  | zero => exact ⟨fun _ _ => rfl, fun i u hi => absurd hi (Nat.not_lt_zero i)⟩
  | succ n ih =>
    obtain ⟨hkept, hcopied⟩ := ih (by omega) (by omega)
    simp only [List.range_succ, List.foldl_append, List.foldl_cons, List.foldl_nil]
    refine ⟨fun off hoff => (storedAt_copyUnit_ne (by omega) hoff (.inl hdest)).trans (hkept off hoff), fun i u hi hu => ?_⟩
    by_cases hlast : i = n
    · subst hlast
      exact storedAt_copyUnit_self ((hkept _ (by omega)).trans hu)
    · exact (storedAt_copyUnit_ne (by omega) (by omega) (.inr (by omega))).trans (hcopied i u (by omega) hu)

theorem storedAt_copyRun {count g : Nat} {t : State} (h : s.copyRun set first count [] dest = (g, t)) (hdest : dest ≠ set)
    (hpacked : (s.media.set dest).packed = none) (hfirst : first + count ≤ 2 ^ 20) (hto : g / 8 + count ≤ 2 ^ 20) {i : Nat}
    (hi : i < count) {u : Stored} (hu : s.media.storedAt set (first + i) = some u) :
    t.media.storedAt dest (g / 8 + i) = some u.copied := by
  have hrun : s.copyRun set first count [] dest =
      let b := (s.media.set dest).placeRun false count
      (b.1, (List.range count).foldl (fun t i => t.copyUnit set dest first (b.1 / 8) i)
        (s.modMedia fun m => m.modSet dest fun _ => b.2)) := by
    unfold State.copyRun State.placeIn
    simp only [List.any_nil, hpacked]
    rfl
  obtain ⟨rfl, rfl⟩ := Prod.mk.inj (hrun.symm.trans h)
  exact (storedAt_copyUnits (s := s.modMedia fun m => m.modSet dest fun _ => _) hdest hfirst hto).2 i u hi hu

end

/-! ## Dies that stay busy (R203, R462) -/

section
variable {s : State} {d : Nat}

theorem exec_dieBusyTimeout_idle (h : s.media.dies ≤ d ∨ s.media.dieActive d = false) : exec (.dieBusyTimeout d) s = .next s :=
  congrArg Host.Outcome.next (if_pos (h.imp_right Bool.eq_false_iff.1))

variable (hd : d < s.media.dies) (hactive : s.media.dieActive d = true)
include hd hactive

theorem exec_dieBusyTimeout_active : exec (.dieBusyTimeout d) s = .next (
    if s.media.late.contains d = true then (s.failDie d 1).sweepProgs
    else { s with media := { s.media with late := insNat d s.media.late } }) :=
  congrArg Host.Outcome.next (if_neg (not_or.2 ⟨Nat.not_le.2 hd, not_not_intro hactive⟩))

theorem exec_dieBusyTimeout_first (h : d ∉ s.media.late) :
    exec (.dieBusyTimeout d) s = .next { s with media := { s.media with late := insNat d s.media.late } } :=
  (exec_dieBusyTimeout_active hd hactive).trans (congrArg _ (if_neg (by simpa using h)))

theorem exec_dieBusyTimeout_again (h : d ∈ s.media.late) :
    exec (.dieBusyTimeout d) s = .next (s.failDie d 1).sweepProgs :=
  (exec_dieBusyTimeout_active hd hactive).trans (congrArg _ (if_pos (by simpa using h)))

end

/-! ## Erases (R168, R169, R172 to R175) -/

section
variable {s : State} {k : Nat}

theorem exec_staleSetErase_held (h : (s.media.set k).st ≠ .stale ∨ s.dev.pwr.plpWarn = true ∨ ∃ y ∈ s.media.reads, y.2.set = k) :
    exec (.staleSetErase k) s = .next s := by
  refine congrArg Host.Outcome.next (if_pos ?_)
  simp only [Bool.or_eq_true, decide_eq_true_eq, List.any_eq_true, or_assoc]
  exact h

theorem exec_staleSetErase_goes (hst : (s.media.set k).st = .stale) (hwarn : s.dev.pwr.plpWarn = false)
    (hreads : ∀ y ∈ s.media.reads, y.2.set ≠ k) : exec (.staleSetErase k) s = .next (
      let t := s.exchange k (s.media.set k).marked
      if (t.media.set k).st = .retired then t.sweepProgs
      else (t.modMedia fun m => m.modSet k fun y => { y with st := .erasing, marked := [] }).sweepProgs) := by
  refine congrArg Host.Outcome.next (if_neg ?_)
  simp only [Bool.or_eq_true, decide_eq_true_eq, List.any_eq_true, hst, hwarn]
  rintro ((h | h) | ⟨y, hy, hset⟩)
  · exact h rfl
  · cases h
  · exact hreads y hy hset

theorem exec_flashEraseComplete_held (failed : List Nat)
    (h : (s.media.set k).st ≠ .erasing ∨ (s.dev.pwr.plpWarn = true ∧ s.media.suspends = true)) :
    exec (.flashEraseComplete k failed) s = .next s := congrArg Host.Outcome.next (if_pos h)

section
variable (hst : (s.media.set k).st = .erasing) (hgoes : s.dev.pwr.plpWarn = false ∨ s.media.suspends = false)
include hst hgoes

theorem exec_flashEraseComplete_goes (failed : List Nat) : exec (.flashEraseComplete k failed) s = .next (
    if failed.isEmpty = true then s.setErased k
    else (s.exchange k (failed.filter fun y => decide (y < 32))).sweepProgs) := by
  refine congrArg Host.Outcome.next (if_neg ?_)
  rintro (h | ⟨hwarn, hsuspends⟩)
  · exact h hst
  · rcases hgoes with h | h
    · rw [h] at hwarn
      cases hwarn
    · rw [h] at hsuspends
      cases hsuspends

end

/-- The end of a stop of host writes leaves all else of the media. -/
theorem checkExhaust_eq (s : State) : ∃ b : Bool, s.checkExhaust = { s with media := { s.media with exhaust := b } }
    ∧ (64 < s.freeSets → b = false) := by
  unfold State.checkExhaust
  by_cases h : (s.media.exhaust && decide (64 < s.freeSets)) = true
  · exact ⟨false, if_pos h, fun _ => rfl⟩
  · refine ⟨s.media.exhaust, if_neg h, fun hfree => ?_⟩
    simpa [hfree] using h

/-- A set that has been wiped holds nothing, and its blocks are worn by its mode's weight (R169). -/
theorem wipeSet_spec (s : State) (k : Nat) : (s.wipeSet k).media.set k = { s.media.set k with
      st := .erased, valid := 0, cursor := 0, packed := none, exts := [], degraded := false, naked := []
      eecs := (s.media.set k).eecs.mapIdx fun i x => if (s.media.set k).out.contains i then x
        else x + s.media.weight (s.media.set k).cell }
    ∧ (s.wipeSet k).media.stored = s.media.stored.filter (fun y => y.1 / 2 ^ 20 ≠ k)
    ∧ (s.wipeSet k).media.credit = s.media.credit :=
  ⟨Tbl.getD_set_self .., rfl, rfl⟩

/-- The free sets are counted by the sets alone. -/
theorem freeSets_credit (s : State) (c : Rat) (b : Bool) :
    ({ s with media := { s.media with credit := c, exhaust := b } } : State).freeSets = s.freeSets := rfl

theorem checkExhaust_credit (s : State) (c : Rat) : ∃ b : Bool,
    ({ s with media := { s.media with credit := c } } : State).checkExhaust
      = { s with media := { s.media with credit := c, exhaust := b } } ∧ (64 < s.freeSets → b = false) := by
  obtain ⟨b, hstate, hb⟩ := checkExhaust_eq { s with media := { s.media with credit := c } }
  exact ⟨b, hstate, fun h => hb (h.trans_eq (freeSets_credit s c s.media.exhaust).symm)⟩

/-- A set joins the free pool: with 32 free the credit ends, and with more than 64 so does exhaustion (R164, R168). -/
theorem setErased_spec (s : State) (k : Nat) : let t := s.setErased k
    t.media.set k = (s.wipeSet k).media.set k ∧ t.media.stored = (s.wipeSet k).media.stored
    ∧ (32 ≤ t.freeSets → t.media.credit = 0) ∧ (t.freeSets < 32 → t.media.credit = s.media.credit)
    ∧ (64 < t.freeSets → t.media.exhaust = false) := by
  obtain ⟨-, -, hcredit⟩ := wipeSet_spec s k
  rw [← hcredit]
  unfold State.setErased
  generalize s.wipeSet k = w
  obtain ⟨b, hstate, hb⟩ := checkExhaust_credit w (if 32 ≤ w.freeSets then 0 else w.media.credit)
  dsimp only [State.modMedia]
  rw [hstate, freeSets_credit]
  exact ⟨rfl, rfl, fun h => if_pos h, fun h => if_neg (Nat.not_le.2 h), hb⟩

end

/-! ## Sample reads (R197) -/

/-- The unit that a sample read takes is of the die, mode and wordline group, and can be read. -/
theorem sampleUnit_spec {m : Media} {die : Nat} {mode : Cell} {group x iu u set g : Nat}
    (h : m.sampleUnit die mode group = some (x, iu, u, set, g)) : (m.set set).cell = mode ∧ m.unitDie set (g / 8 + u) = die
      ∧ m.wlGroup set (g / 8 + u) = group ∧ m.unitLost set (g / 8 + u) = false := by
  obtain ⟨p, -, hp⟩ := List.exists_of_findSome?_eq_some h
  split at hp
  · cases hp
  obtain ⟨v, -, hv⟩ := List.exists_of_findSome?_eq_some hp
  split at hv
  · next set' g' hloc =>
    split at hv
    · cases hv
    next hplace =>
    obtain ⟨off, hoff, hfound⟩ := List.exists_of_findSome?_eq_some hv
    split at hfound
    · next hunit =>
      simp only [Option.some.injEq, Prod.mk.injEq] at hfound
      obtain ⟨rfl, rfl, rfl, rfl, rfl⟩ := hfound
      have hle : g' / 8 ≤ off := by
        unfold unitSpan at hoff
        split at hoff
        · cases hoff
        · obtain ⟨i, -, rfl⟩ := List.mem_map.1 hoff
          exact Nat.le_add_right ..
      rw [Nat.add_sub_cancel' hle]
      exact ⟨not_not.1 (not_or.1 hplace).1, hunit.1, hunit.2.1, Bool.eq_false_iff.2 hunit.2.2⟩
    · cases hfound
  · cases hv

/-! ## Map segments (R155) -/

theorem landPages_hm (s : State) (set a : Nat) : (s.landPages set a).hm = s.hm := by
  unfold State.landPages
  refine foldl_keeps (fun t : State => t.hm) (fun t (k : Nat) => ?_) _ s
  dsimp only
  split <;> rfl

theorem landPages_stored (s : State) (set a : Nat) : (s.landPages set a).media.stored = s.media.stored := by
  unfold State.landPages
  refine foldl_keeps (fun t : State => t.media.stored) (fun t (k : Nat) => ?_) _ s
  dsimp only
  split <;> rfl

/-- The map set for a unit is found or opened; the key tables stand. -/
theorem mapSet_hm {s t : State} {n : Nat} (h : s.mapSet = some (n, t)) : t.hm = s.hm := by
  have hdraw {u : State} (hu : (if u.mapSets ≤ u.media.mapUsed_ then none
      else (u.media.pickErased none false).map fun n => (n, u.modMedia fun m => m.openSet n .map .tlc .write)) = some (n, t)) :
      t.hm = u.hm := by
    split at hu
    · cases hu
    · obtain ⟨k, -, hk⟩ := Option.map_eq_some_iff.1 hu
      obtain ⟨-, rfl⟩ := Prod.mk.inj hk
      rfl
  unfold State.mapSet at h
  dsimp only at h
  split at h
  · split at h
    · obtain ⟨-, rfl⟩ := Prod.mk.inj (Option.some.inj h)
      rfl
    · exact (hdraw h).trans rfl
  · exact hdraw h

/-- A unit of the device's own takes the next SEQ of its media key. -/
theorem deviceUnit_eq (s : State) (kind ulba : Nat) (body : Body) :
    (s.deviceUnit kind ulba body).1 = { kind := kind, nsx := 0, ulba := ulba, seq := (s.mediaKey 4096).seq, app := 0
                                        key := (s.mediaKey 4096).key, body := body }
    ∧ ((s.deviceUnit kind ulba body).2.mediaKey 4096).seq = (s.mediaKey 4096).seq + 1 := by
  refine ⟨rfl, ?_⟩
  have hkey : (s.deviceUnit kind ulba body).2.mediaKey 4096 = { s.mediaKey 4096 with
      seq := (s.mediaKey 4096).seq + 1, res := if (s.mediaKey 4096).seq < (s.mediaKey 4096).res then (s.mediaKey 4096).res
        else (s.mediaKey 4096).seq + 65536 } := by
    unfold State.deviceUnit State.takeSeq
    refine (Tbl.getD_set_self ..).trans ?_
    simp
  rw [hkey]

/-- A unit of a map segment is where it was written, of kind 8 and under the next SEQ. -/
theorem writeMapUnit_spec {s t : State} {k j set off : Nat} (h : s.writeMapUnit k j = some (set, off, t)) :
    (∃ u, t.media.storedAt set off = some u ∧ u.kind = 8 ∧ u.nsx = 0 ∧ u.ulba = k ∧ u.seq = (s.mediaKey 4096).seq
      ∧ u.key = (s.mediaKey 4096).key)
    ∧ (t.mediaKey 4096).seq = (s.mediaKey 4096).seq + 1 := by
  obtain ⟨⟨n, v⟩, hset, hwritten⟩ := Option.map_eq_some_iff.1 h
  have hkey : v.mediaKey 4096 = s.mediaKey 4096 := by unfold State.mediaKey; rw [mapSet_hm hset]
  obtain ⟨hunit, hseq⟩ := deviceUnit_eq v 8 k (v.mapUnit k j)
  obtain ⟨rfl, hrest⟩ := Prod.mk.inj hwritten
  obtain ⟨rfl, rfl⟩ := Prod.mk.inj hrest
  rw [hkey] at hunit hseq
  refine ⟨⟨(v.deviceUnit 8 k (v.mapUnit k j)).1, ?_, by rw [hunit], by rw [hunit], by rw [hunit], by rw [hunit], by rw [hunit]⟩, ?_⟩
  · unfold Media.storedAt
    rw [landPages_stored]
    exact Tbl.get?_set_self ..
  · rw [← hseq]
    unfold State.mediaKey
    rw [landPages_hm]
    rfl

/-- Each unit of a segment takes a SEQ. -/
theorem writeUnits_spec {k : Nat} {t : State} {l : List (Nat × Nat)} (js : List Nat) (l₀ : List (Nat × Nat)) (s : State)
    (h : js.foldl (fun (o : Option (List (Nat × Nat) × State)) j => o.bind fun (l, s) =>
      (s.writeMapUnit k j).map fun (set, off, t) => (l ++ [(set, off)], t)) (some (l₀, s)) = some (l, t)) :
    l.length = l₀.length + js.length ∧ (t.mediaKey 4096).seq = (s.mediaKey 4096).seq + js.length := by
  induction js generalizing l₀ s with
  | nil =>
    obtain ⟨rfl, rfl⟩ := Prod.mk.inj (Option.some.inj h)
    exact ⟨rfl, rfl⟩
  | cons j js ih =>
    rw [List.foldl_cons, Option.bind_some] at h
    dsimp only at h
    cases hunit : s.writeMapUnit k j with
    | none =>
      rw [hunit] at h
      have hnone : js.foldl (fun (o : Option (List (Nat × Nat) × State)) j => o.bind fun (l, s) =>
          (s.writeMapUnit k j).map fun (set, off, t) => (l ++ [(set, off)], t)) none = none :=
        List.foldl_fixed' (fun _ => rfl) js
      rw [Option.map_none, hnone] at h
      cases h
    | some y =>
      obtain ⟨set, off, v⟩ := y
      rw [hunit] at h
      obtain ⟨hlen, hseq⟩ := ih (l₀ ++ [(set, off)]) v h
      have hone := (writeMapUnit_spec hunit).2
      rw [List.length_append, List.length_singleton] at hlen
      rw [List.length_cons]
      omega

theorem writeSegment_spec {s t : State} {k : Nat} {l : List (Nat × Nat)} (h : s.writeSegment k = some (l, t)) :
    l.length = 1024 ∧ (t.mediaKey 4096).seq = (s.mediaKey 4096).seq + 1024 := by
  unfold State.writeSegment at h
  obtain ⟨hlen, hseq⟩ := writeUnits_spec _ _ _ h
  rw [List.length_range] at hlen hseq
  exact ⟨hlen.trans (Nat.zero_add _), hseq⟩

section
variable {s : State} {k : Nat}

theorem exec_mapSegmentRewrite_held (h : ((Tbl.getD s.media.segs k {}).touched < 65536
      ∧ s.dev.smart.piers < (Tbl.getD s.media.segs k {}).written + 600) ∨ s.dev.pwr.plpWarn = true) :
    exec (.mapSegmentRewrite k) s = .next s := congrArg Host.Outcome.next (if_pos h)

theorem exec_mapSegmentRewrite_none (h : s.writeSegment k = none) : exec (.mapSegmentRewrite k) s = .next s := by
  change execMapSegmentRewrite k s = _
  simp only [execMapSegmentRewrite, h, ite_self]

theorem exec_mapSegmentRewrite_some {l : List (Nat × Nat)} {t : State} (h : s.writeSegment k = some (l, t))
    (hdue : 65536 ≤ (Tbl.getD s.media.segs k {}).touched ∨ (Tbl.getD s.media.segs k {}).written + 600 ≤ s.dev.smart.piers)
    (hwarn : s.dev.pwr.plpWarn = false) : exec (.mapSegmentRewrite k) s = .next (
      let z := (t.segmentDone k l).keeperData 0
      { z with media := { z.media with trackSaved := z.media.track } }) := by
  refine congrArg Host.Outcome.next ((if_neg ?_).trans ?_)
  · rw [hwarn]
    rintro (⟨htouched, hpiers⟩ | h)
    · omega
    · cases h
  · simp only [h]
    rfl

end

/-! ## Rate changes (R186, R187) -/

section
variable {s : State} {c : Nat} (trained : Bool)

theorem exec_rateChangeComplete_none (h : (s.media.chan c).next = none) : exec (.rateChangeComplete c trained) s = .next s := by
  change execRateChangeComplete c trained s = _
  simp only [execRateChangeComplete, h]

variable {w : Nat} (hnext : (s.media.chan c).next = some w)
include hnext

theorem exec_rateChangeComplete_some : exec (.rateChangeComplete c trained) s = .next (
    if trained = true then { s with media := { s.media.modChan c fun y => { y with
        rate := w, next := if y.then_ = some w then none else y.then_, then_ := none, retrain := 0 } with
      progs := Tbl.mapV s.media.progs fun _ x => if x.chans.contains c then { x with waiting := false } else x } }
    else if w ≤ 800 then (s.failChannel c 1).sweepProgs
    else (s.logFault 0x03 2 [c] none [0] [w, lowerRate w]).modMedia fun m => m.modChan c fun y => { y with
      next := some (lowerRate w) }) := by
  change execRateChangeComplete c trained s = _
  simp only [execRateChangeComplete, hnext]
  rfl

end

/-! ## Sample reads issued (R197) -/

section
variable {s : State} {d cell w : Nat}

/-- The mode that a sample read names. -/
def sampleMode (cell : Nat) : Cell := if cell = 0 then .slc else if cell = 1 then .tlc else if cell = 2 then .qlc else .plc

/-- A sample read is not due: its group was read lately, the span has no window for it, or power is being lost. -/
def State.sampleHeld (s : State) (d cell w : Nat) : Prop :=
  s.dev.smart.piers < (Tbl.getD s.media.track (trackKey d (sampleMode cell) w) {}).touched + 100 ∨ s.time.span % 10 ≠ 9
    ∨ s.dev.pwr.plpWarn = true

theorem exec_sampleRead_held (h : s.sampleHeld d cell w) : exec (.sampleRead d cell w) s = .next s :=
  congrArg Host.Outcome.next (if_pos h)

theorem exec_sampleRead_none (h : s.media.sampleUnit d (sampleMode cell) w = none) : exec (.sampleRead d cell w) s = .next s := by
  change execSampleRead d cell w s = _
  simp only [execSampleRead, show s.media.sampleUnit d (if cell = 0 then _ else _) w = none from h, ite_self]

theorem exec_sampleRead_some {x iu u set g : Nat} (h : s.media.sampleUnit d (sampleMode cell) w = some (x, iu, u, set, g))
    (hdue : ¬s.sampleHeld d cell w) : exec (.sampleRead d cell w) s = .next (s.issueRead .sample x iu u set g) := by
  refine congrArg Host.Outcome.next ((if_neg hdue).trans ?_)
  simp only [show s.media.sampleUnit d (if cell = 0 then _ else _) w = _ from h]

end

/-- Settles O44: the end of a program, what is written elsewhere, and the rules of erases, dies, samples, segments and rates. -/
theorem flashProgramsErasesAndSegmentsFollowTheirRules : Obligations.FlashProgramsErasesAndSegmentsFollowTheirRules := by
  intro s n p trained failed k c d w cell media m b g ch piers mode touched held q runs marked sent slow erasing traded
  refine ⟨exec_flashProgramComplete_none, exec_flashProgramComplete_held, fun ⟨hp, hredo, hwait⟩ => ?program, crcOn_iff m c,
    ⟨fun page hpage => ⟨redoProgram_of_parity hpage, programOk_of_parity hpage⟩, redoProgram_again, redoProgram_first⟩,
    truss_trussPage s k, exec_stagingProgramDispatch_held, exec_stagingProgramDispatch_goes, dispatchProgram_of_noSet,
    fun x t => dispatchProgram_of_nothing, fun dest first count i u x t hrun hdest hpacked hfirst hto hi hu =>
      storedAt_copyRun hrun hdest hpacked hfirst hto hi hu,
    exec_dieBusyTimeout_idle, fun hd hactive => ⟨exec_dieBusyTimeout_first hd hactive, exec_dieBusyTimeout_again hd hactive⟩,
    exec_staleSetErase_held, fun hst hwarn hreads => ⟨fun h => ?_, fun h => ?_⟩, exec_flashEraseComplete_held failed,
    fun hst hgoes => ⟨fun h => ?_, s.setErased k, exec_flashEraseComplete_goes hst hgoes [], ?_⟩, fun h => ?_,
    fun x iu u set goff hheld => ⟨fun hpiers hspan hwarn => exec_sampleRead_some hheld ?_, sampleUnit_spec hheld⟩, fun h => ?_,
    fun l t hseg => ⟨exec_mapSegmentRewrite_some hseg, writeSegment_spec hseg⟩, fun j set off t hunit => (writeMapUnit_spec hunit).1,
    exec_rateChangeComplete_none trained, fun hnext => ⟨exec_rateChangeComplete_some true hnext, fun hslow => ?_, fun hfast => ?_⟩,
    rfl, rfl, rfl⟩
  case program =>
    have hruns (v : ProgramEnd) := exec_flashProgramComplete_runs hp hredo hwait v
    exact ⟨hruns .ok, hruns .failed, fun h => (hruns .crcMismatch).trans (congrArg _ (crcFailed_last h)),
      fun h hoff => (hruns .crcMismatch).trans (congrArg _ (crcFailed_off h hoff)),
      fun h hon => (hruns .crcMismatch).trans (congrArg _ (crcFailed_first h hon)),
      fun h hon => (hruns .crcMismatch).trans (congrArg _ (crcFailed_second h hon))⟩
  · exact (exec_staleSetErase_goes hst hwarn hreads).trans (congrArg _ (if_pos h))
  · exact (exec_staleSetErase_goes hst hwarn hreads).trans (congrArg _ (if_neg h))
  · exact (exec_flashEraseComplete_goes hst hgoes failed).trans (congrArg _ (if_neg fun hnil => h (List.isEmpty_iff.1 hnil)))
  · obtain ⟨hset, hstored, hpool⟩ := setErased_spec s k
    obtain ⟨hwiped, hgone, -⟩ := wipeSet_spec s k
    exact ⟨hset.trans hwiped, hstored.trans hgone, hpool⟩
  · rcases h with h | h | h | h
    · exact exec_sampleRead_held (.inl h)
    · exact exec_sampleRead_held (.inr (.inl h))
    · exact exec_sampleRead_held (.inr (.inr h))
    · exact exec_sampleRead_none h
  · rintro (h | h | h)
    · exact absurd h (Nat.not_lt.2 hpiers)
    · exact h hspan
    · exact Bool.false_ne_true (hwarn.symm.trans h)
  · rcases h with h | h | h
    · exact exec_mapSegmentRewrite_held (.inl h)
    · exact exec_mapSegmentRewrite_held (.inr h)
    · exact exec_mapSegmentRewrite_none h
  · exact (exec_rateChangeComplete_some false hnext).trans (congrArg _ (if_pos hslow))
  · exact (exec_rateChangeComplete_some false hnext).trans (congrArg _ (if_neg (Nat.not_le.2 hfast)))

end Sys2Proof.Machine
end

section
/-! Spans and piers (R105, R107 to R118, R131, R520): the tick's steps, what a pier begins, the edges of TIMEPULSE, the PTM
dialogues and the park limit. -/

namespace Sys2Proof.Machine

/-! ## The span tick (R107, R115, R116) -/

/-- The device is out of reset with its rails up, so that its time runs. -/
def State.timeRuns (s : State) : Prop := s.dev.pwr.rails = true ∧ s.dev.pwr.perst = false

theorem not_timeRuns_iff (s : State) : ¬s.timeRuns ↔ ((!s.dev.pwr.rails) = true ∨ s.dev.pwr.perst = true) := by
  cases hr : s.dev.pwr.rails <;> cases hp : s.dev.pwr.perst <;> simp [State.timeRuns, hr, hp]

section
variable {s : State} (env : TickEnv)

theorem exec_spanTick_held (h : 999 ≤ s.time.span ∨ ¬s.timeRuns) : exec (.spanTick env) s = .next s :=
  congrArg Host.Outcome.next (if_pos (h.imp_right (not_timeRuns_iff s).1))

theorem exec_spanTick_runs (hspan : s.time.span < 999) (hlive : s.timeRuns) : exec (.spanTick env) s = .next (State.tick { s with
    time := { s.time with span := s.time.span + 1 }, dev := { s.dev with pwr := { s.dev.pwr with pierOut := false } } } env) :=
  congrArg Host.Outcome.next (if_neg (not_or.2 ⟨Nat.not_le.2 hspan, fun h => (not_timeRuns_iff s).2 h hlive⟩))

theorem tick_of_idle (h : s.dev.pwr.phase ≠ 5 ∨ s.rel.fault = true) :
    s.tick env = { s with dev := { s.dev with side := { s.dev.side with fresh := false } } } := if_pos h

/-- Steps 2 to 5 of a tick in their order (R116). -/
theorem tick_of_ready (hphase : s.dev.pwr.phase = 5) (hfault : s.rel.fault = false) : s.tick env =
    let calm : State := { s with dev := { s.dev with side := { s.dev.side with fresh := false } } }
    let shared := calm.sampleMeters.applyShares
    let given := (State.creditAll { shared with dev := { shared.dev with
      level := nextLevel shared.dev.level shared.dev.temp } }).stepCores
    State.stepMedia ((((given.dispatchJobs .crucible).dispatchJobs .assay).dispatchJobs .cipher).dispatchJobs .softDecoder) env := by
  refine (if_neg (not_or.2 ⟨not_not_intro hphase, Bool.eq_false_iff.1 hfault⟩)).trans ?_
  simp only [List.foldl_cons, List.foldl_nil]

end

theorem cutSpans_of_ended {s : State} (h : 999 ≤ s.time.span) : s.cutSpans = s := by
  unfold State.cutSpans
  rw [Nat.sub_eq_zero_of_le h]
  rfl

theorem cutSpans_of_last {s : State} (h : s.time.span = 998) : s.cutSpans =
    State.tick { s with time := { s.time with span := 999 } } ⟨[], s.dram.hot, [], [], 0, [], []⟩ := by
  unfold State.cutSpans
  rw [h, show List.range (999 - 998) = [0] from rfl, List.foldl_cons, List.foldl_nil, h]

/-! ## What a pier begins (R108, R110, R111, R114) -/

/-- The device has no source to follow: SRC names none, or none has been there since reset (R114). -/
def Time.runsFree (t : Time) : Bool := t.src = 3 || (t.src = 0 && !t.extern)

theorem runsFree_iff (t : Time) : t.runsFree = true ↔ t.src = 3 ∨ (t.src = 0 ∧ t.extern = false) := by
  simp [Time.runsFree]

/-- The time registers as a pier from source `act` begins span 0. -/
def Time.atPier (t : Time) (act : Nat) (secs : Option W64) : Time :=
  let ext : Bool := act ≠ 3
  let free : Bool := !ext && t.runsFree
  let coasted := if ext || free then 0 else t.coasted + 1
  { t with
    span := 0
    pier := secs.getD t.nextPier
    write := none
    origin := t.origin || secs.isSome
    begun := true
    extern := t.extern || ext
    grid := if ext then BitVec.ofNat 2 act else if free then 0 else t.grid
    act := BitVec.ofNat 2 act
    lock := ext
    miss := if ext || free then 0 else min 15 (t.miss + 1)
    coasted := coasted
    hold := if ext then false else t.hold || free || 10 ≤ coasted }

/-- The registers of a phase step (R113). -/
def Time.stepped (t : Time) (step : Option Int) : Time :=
  match step with
  | some us => { t with step := us, stepFlag := true }
  | none => t

/-- The state that a pier begins, before its tick. -/
def State.pierBegun (s : State) (act : Nat) (secs : Option W64) (step : Option Int) : State :=
  let z := s.cutSpans
  let v := { z with time := z.time.atPier act secs }
  let w := match step with
    | some us => v.phaseStep us act
    | none => v
  State.pierUpkeep { w with dev := { w.dev with pwr := { w.dev.pwr with pierOut := z.time.src = 1 || z.time.src = 3 } } }

section
variable (s : State) (act : Nat) (secs : Option W64) (step : Option Int)

theorem takePier_eq (env : TickEnv) :
    s.takePier act secs step env = ((s.pierBegun act secs step).tick env).meterPier step.isSome := rfl

theorem time_pierBegun : (s.pierBegun act secs step).time = (s.cutSpans.time.atPier act secs).stepped step := by
  cases step <;> rfl

theorem dev_pierBegun : (s.pierBegun act secs step).dev.pwr.pierOut = (s.cutSpans.time.src = 1 || s.cutSpans.time.src = 3)
    ∧ (s.pierBegun act secs step).dev.smart.piers = s.cutSpans.dev.smart.piers + 1 := by
  cases step <;> exact ⟨rfl, rfl⟩

end

section
variable (t : Time) {act : Nat} (secs : Option W64)

theorem stepped_eq (step : Option Int) : ∃ y f, t.stepped step = { t with step := y, stepFlag := f } := by
  cases step with
  | none => exact ⟨t.step, t.stepFlag, rfl⟩
  | some us => exact ⟨us, true, rfl⟩

/-- A pier of an external source locks to it. -/
theorem atPier_extern (h : act ≠ 3) : let u := t.atPier act secs
    u.lock = true ∧ u.hold = false ∧ u.miss = 0 ∧ u.coasted = 0 ∧ u.extern = true ∧ u.grid = BitVec.ofNat 2 act := by
  simp [Time.atPier, h]

/-- A pier that the device makes for itself is in holdover, and misses none. -/
theorem atPier_free (h : t.src = 3 ∨ (t.src = 0 ∧ t.extern = false)) : let u := t.atPier 3 secs
    u.lock = false ∧ u.hold = true ∧ u.miss = 0 ∧ u.grid = 0 := by
  simp [Time.atPier, (runsFree_iff t).2 h]

/-- A pier that the device makes in place of its source is a missed one; the tenth in a row is holdover. -/
theorem atPier_coast (hsrc : t.src ≠ 3) (h : t.src ≠ 0 ∨ t.extern = true) : let u := t.atPier 3 secs
    u.lock = false ∧ u.miss = min 15 (t.miss + 1) ∧ u.hold = (t.hold || 9 ≤ t.coasted) ∧ u.grid = t.grid := by
  have hfree : t.runsFree = false := by
    rw [← Bool.not_eq_true, runsFree_iff]
    rintro (hthree | ⟨hzero, hextern⟩)
    · exact hsrc hthree
    · exact h.elim (· hzero) fun htrue => Bool.false_ne_true (hextern.symm.trans htrue)
  simp [Time.atPier, hfree]

theorem nextPier_of_write {y : W64} (h : t.write = some y) : t.nextPier = y := by
  rw [Time.nextPier, h]

theorem nextPier_of_none (h : t.write = none) : t.nextPier = if t.begun = true then t.pier + 1 else 0 := by
  rw [Time.nextPier, h]

end

/-! ## Where a pier and an edge fall (R108, R110, R112, R113) -/

theorem near_iff (a b : Nat) : near a b = true ↔ a ≤ b + 250 ∧ b ≤ a + 250 := by
  simp [near]

section
variable {t : Time} {e : Nat} {o k : Int}

theorem offset_of_far (h : (e : Int) - t.expected = o + 1000000 * k) (hlo : -500000 ≤ o) (hhi : o < 500000) : t.offset e = o := by
  unfold Time.offset
  omega

theorem changed_eq (act : Nat) (hoff : t.offset e = o) :
    t.changed act e = if t.begun = true ∧ t.grid ≠ BitVec.ofNat 2 act ∧ o ≠ 0 then some o else none := by
  unfold Time.changed
  rw [hoff]
  simp only [Bool.and_eq_true, decide_eq_true_eq, and_assoc]

end

section
variable {t : Time} {e : Nat}

theorem edge_of_window (h : near e t.expected = true) : t.edge e = some (t.changed 2 e) := if_pos h

variable (hout : near e t.expected = false)
include hout

theorem edge_of_relock {a b : Nat} (hedges : t.edges = [a, b]) (h : near e (a + 1000000) = true) :
    t.edge e = some (some (t.offset e)) := by
  refine (if_neg (Bool.eq_false_iff.1 hout)).trans ?_
  rw [hedges]
  exact if_pos h

theorem edge_of_spurious (h : ∀ x y, t.edges = [x, y] → near e (x + 1000000) = false) : t.edge e = none := by
  refine (if_neg (Bool.eq_false_iff.1 hout)).trans ?_
  split
  · next x y hedges => exact if_neg (Bool.eq_false_iff.1 (h x y hedges))
  · rfl

end

/-! ## Piers and edges offered (R108, R112, R114) -/

section
variable {s : State} (env : TickEnv)

theorem exec_pier_held (h : ¬s.timeRuns) (src : PierSource) : exec (.pier src env) s = .next s :=
  congrArg Host.Outcome.next (if_pos ((not_timeRuns_iff s).1 h))

section
variable (hlive : s.timeRuns)
include hlive

theorem exec_pier_eq (src : PierSource) : exec (.pier src env) s = .next (match src with
      | .ptm secs e => if s.time.byPtm then s.pierAt e 1 (some secs) (s.time.changed 1 e) env else s
      | .timepulse e => if !s.time.pulse then s else match s.time.edge e with
        | some step => s.pierAt e 2 none step env
        | none => s
      | .own => if s.time.makes then
          State.takePier { s with time := { s.time with expected := s.time.expected + 1000000 } } 3 none none env else s) :=
  congrArg Host.Outcome.next (if_neg fun h => (not_timeRuns_iff s).2 h hlive)

theorem exec_pier_pulse {e : Nat} {v : Option (Option Int)} (hpulse : s.time.pulse = true) (hedge : s.time.edge e = v) :
    exec (.pier (.timepulse e) env) s = .next (v.elim s fun step => s.pierAt e 2 none step env) := by
  refine (exec_pier_eq env hlive _).trans (congrArg _ ((if_neg (by rw [hpulse]; decide)).trans ?_))
  rw [hedge]
  cases v <;> rfl

/-- An edge of TIMEPULSE while it is the source. -/
theorem exec_timepulseEdge_pulse {e : Nat} {v : Option (Option Int)} (hpulse : s.time.pulse = true)
    (hsrc : s.time.src ≠ 1 ∧ s.time.src ≠ 3) (hedge : s.time.edge e = v) :
    exec (.timepulseEdge e env) s = .next (v.elim { s with time := { s.time with
      spur := min 0xFFFF (s.time.spur + 1), edges := e :: (s.time.edges.take 1).filter fun a => near e (a + 1000000) } }
      fun step => s.pierAt e 2 none step env) := by
  obtain ⟨hrails, hperst⟩ := hlive
  refine congrArg Host.Outcome.next ((if_neg ?_).trans ((if_neg (by rw [hpulse]; decide)).trans ?_))
  · simp only [hrails, hperst, decide_eq_false hsrc.1, decide_eq_false hsrc.2]
    decide
  · dsimp only
    rw [hedge]
    cases v <;> rfl

theorem exec_timepulseEdge_ptm {e : Nat} (hsrc : s.time.src = 0) (hptm : s.time.ptm = true) :
    exec (.timepulseEdge e env) s = .next { s with time := { s.time with
      edges := e :: (s.time.edges.take 1).filter fun a => near e (a + 1000000) } } := by
  obtain ⟨hrails, hperst⟩ := hlive
  refine congrArg Host.Outcome.next ((if_neg ?_).trans (if_pos ?_))
  · simp [hrails, hperst, hsrc]
  · simp [Time.pulse, hsrc, hptm]

theorem exec_timepulseWindowClose_coasts {e : Nat} (hpulse : s.time.pulse = true) (hgrid : s.time.src ≠ 0 ∨ s.time.grid = 2)
    (hlate : s.time.expected + 250 ≤ e) : exec (.timepulseWindowClose e env) s =
      .next (State.takePier { s with time := { s.time with expected := s.time.expected + 1000000 } } 3 none none env) := by
  obtain ⟨hrails, hperst⟩ := hlive
  have hnear : (decide (s.time.src = 0) && decide (s.time.grid ≠ 2)) = false := by
    rcases hgrid with h | h
    · rw [decide_eq_false h, Bool.false_and]
    · rw [h]
      exact Bool.and_false _
  refine congrArg Host.Outcome.next (if_neg ?_)
  simp only [hrails, hperst, hpulse, hnear, decide_eq_false (Nat.not_lt.2 hlate)]
  decide

end

theorem exec_timepulseEdge_held {e : Nat} (h : ¬s.timeRuns ∨ s.time.src = 1 ∨ s.time.src = 3) :
    exec (.timepulseEdge e env) s = .next s := by
  refine congrArg Host.Outcome.next (if_pos ?_)
  simp only [Bool.or_eq_true, decide_eq_true_eq, or_assoc]
  rw [not_timeRuns_iff, or_assoc] at h
  exact h

theorem exec_timepulseWindowClose_held {e : Nat} (h : ¬s.timeRuns ∨ s.time.pulse = false ∨ (s.time.src = 0 ∧ s.time.grid ≠ 2)
    ∨ e < s.time.expected + 250) : exec (.timepulseWindowClose e env) s = .next s := by
  refine congrArg Host.Outcome.next (if_pos ?_)
  simp only [Bool.or_eq_true, Bool.and_eq_true, decide_eq_true_eq, or_assoc, Bool.not_eq_true']
  rw [not_timeRuns_iff, or_assoc, Bool.not_eq_true'] at h
  exact h

end

theorem pulse_iff (t : Time) : t.pulse = true ↔ t.src = 2 ∨ (t.src = 0 ∧ t.ptm = false) := by
  simp [Time.pulse]

theorem byPtm_iff (t : Time) : t.byPtm = true ↔ t.ptm = true ∧ (t.src = 0 ∨ t.src = 1) := by
  simp [Time.byPtm]

theorem makes_iff (t : Time) : t.makes = true ↔ t.src = 3 ∨ (t.ptm = false ∧ (t.src = 1 ∨ (t.src = 0 ∧ t.grid ≠ 2))) := by
  simp [Time.makes]
  tauto

/-- While TIMEPULSE is the source, PTM and the device's own divider are not named. -/
theorem src_of_pulse {t : Time} (h : t.pulse = true) : t.src ≠ 1 ∧ t.src ≠ 3 := by
  rcases (pulse_iff t).1 h with h | ⟨h, -⟩ <;> rw [h] <;> decide

/-- Two bits name PTM's list or the others. -/
theorem byPtm_of_other {t : Time} (h : t.ptm = false ∨ t.src = 2 ∨ t.src = 3) : t.byPtm = false := by
  rcases h with h | h | h <;> simp [Time.byPtm, h]

/-! ## PTM dialogues (R113, R520) -/

theorem dialogueEnd_good (t : Time) : t.dialogueEnd true = { t with
    dialogue := false, ptmOk := min 3 (t.ptmOk + 1), ptmFail := 0, ptm := t.ptm || 2 ≤ t.ptmOk } := by
  have hptm : (if 3 ≤ min 3 (t.ptmOk + 1) then true else if 3 ≤ 0 then false else t.ptm) = (t.ptm || decide (2 ≤ t.ptmOk)) := by
    by_cases h : 2 ≤ t.ptmOk
    · rw [if_pos (by omega), decide_eq_true h, Bool.or_true]
    · rw [if_neg (by omega), if_neg (by omega), decide_eq_false h, Bool.or_false]
  unfold Time.dialogueEnd
  simp only [if_true, hptm]

theorem dialogueEnd_failed (t : Time) : t.dialogueEnd false = { t with
    dialogue := false, ptmOk := 0, ptmFail := min 3 (t.ptmFail + 1), ptm := t.ptm && t.ptmFail < 2 } := by
  have hptm : (if 3 ≤ 0 then true else if 3 ≤ min 3 (t.ptmFail + 1) then false else t.ptm)
      = (t.ptm && decide (t.ptmFail < 2)) := by
    by_cases h : t.ptmFail < 2
    · rw [if_neg (by omega), if_neg (by omega), decide_eq_true h, Bool.and_true]
    · rw [if_neg (by omega), if_pos (by omega), decide_eq_false h, Bool.and_false]
  unfold Time.dialogueEnd
  simp only [Bool.false_eq_true, if_false, hptm]

section
variable {s : State}

theorem exec_ptmDialogueStart_up (h : (s.port s.dev.mgrPort).linkUp = true) :
    exec .ptmDialogueStart s = .next { s with time := { s.time with dialogue := true } } := congrArg Host.Outcome.next (if_pos h)

theorem exec_ptmDialogueStart_down (h : (s.port s.dev.mgrPort).linkUp = false) :
    exec .ptmDialogueStart s = .next { s with time := s.time.dialogueEnd false } :=
  congrArg Host.Outcome.next (if_neg (Bool.eq_false_iff.1 h))

variable (hwaits : s.time.dialogue = true)
include hwaits

theorem exec_ptmResponse_waiting (n : Nat) :
    exec (.ptmResponse n) s = .next { s with time := s.time.dialogueEnd (n ≤ 250) } := congrArg Host.Outcome.next (if_pos hwaits)

theorem exec_ptmResponseTimeout_waiting :
    exec .ptmResponseTimeout s = .next { s with time := s.time.dialogueEnd false } := congrArg Host.Outcome.next (if_pos hwaits)

end

/-! ## Park limits (R105) -/

theorem ctrlSlice_sliceCtrl {sl : Nat} (h : sl < 1024) : ctrlSlice (sliceCtrl sl) = some sl := by
  unfold ctrlSlice sliceCtrl
  rw [if_pos (by omega), Nat.add_sub_cancel_left]

/-- A command that a pier finds due is held on its slice's share, and has waited for the park limit. -/
theorem due_of_mem_pierCmds {s : State} {sl : Nat} (hsl : sl < 1024) {c : Ctrl} {q : Nat × Sq} (hq : q ∈ (s.pierCmds (sliceCtrl sl) c).sqs)
    {f : Fetched} (hf : f ∈ q.2.fetched) (hdue : f.due = true) : (s.slice sl).park ≠ 0 ∧ (s.slice sl).verSel = 2
      ∧ heldOnShare (s.slice sl) q.1 f = true ∧ (s.slice sl).park ≤ f.piers := by
  obtain ⟨⟨n, y⟩, -, rfl⟩ := List.mem_map.1 hq
  obtain ⟨g, -, rfl⟩ := List.mem_map.1 hf
  simp only [ctrlSlice_sliceCtrl hsl, Bool.and_eq_true, decide_eq_true_eq] at hdue
  obtain ⟨⟨⟨hpark, hver⟩, hheld⟩, hwaited⟩ := hdue
  exact ⟨hpark, hver, hheld, hwaited⟩

theorem exec_parkLimitExpiry_held {s : State} {sl : Nat} (h : (s.slice sl).park = 0 ∨ (s.slice sl).verSel ≠ 2
    ∨ ((s.slice sl).st ≠ .ready ∧ (s.slice sl).st ≠ .parked)) : exec (.parkLimitExpiry sl) s = .next s :=
  congrArg Host.Outcome.next (if_pos h)

/-- Settles O45: the tick's order, what each pier begins, and the rules of edges, dialogues and park limits. -/
theorem spansAndPiersKeepTime : Obligations.SpansAndPiersKeepTime := by
  intro s env act e sl n secs step v w a b o t live tick near' time chain idle z calm far moved pulse waiting x good failed
  have hchanged (src : Nat) (hfar : far) : t.changed src e = moved (BitVec.ofNat 2 src) := by
    obtain ⟨k, hk, hlo, hhi⟩ := hfar
    exact changed_eq src (offset_of_far hk hlo hhi)
  have hoffset (hfar : far) : t.offset e = o := by
    obtain ⟨k, hk, hlo, hhi⟩ := hfar
    exact offset_of_far hk hlo hhi
  have hchain : (e :: (t.edges.take 1).filter fun a => near e (a + 1000000)) = chain := by
    simp only [near, Nat.add_assoc, Nat.reduceAdd]
    rfl
  have hnot {y : Nat} (h : ¬near' e y) : near e y = false := Bool.eq_false_iff.2 fun hnear => h ((near_iff e y).1 hnear)
  refine ⟨exec_spanTick_held env, exec_spanTick_runs env, tick_of_idle env, tick_of_ready env, rfl, fun bal => ⟨rfl, rfl⟩,
    cutSpans_of_ended, cutSpans_of_last, ⟨s.pierBegun act secs step, takePier_eq s act secs step env, ?begun⟩,
    fun h => ⟨exec_pier_held env h _, exec_pier_held env h _, exec_pier_held env h _⟩, fun hlive => ?pier,
    exec_timepulseEdge_held env, fun hlive hsrc hptm => (exec_timepulseEdge_ptm env hlive hsrc hptm).trans (by rw [hchain]), fun hlive hpulse => ?edge, fun h => ?closed,
    fun hlive hpulse => exec_timepulseWindowClose_coasts env hlive ((pulse_iff t).2 hpulse), exec_ptmDialogueStart_up,
    fun h => ?_, fun hwaits hn => ?_, fun hwaits hn => ?_, fun hwaits => ?_, fun hwaits => ⟨congrArg Host.Outcome.next (if_neg hwaits),
      congrArg Host.Outcome.next (if_neg hwaits)⟩,
    exec_parkLimitExpiry_held, fun hpark hver hst => ?_, fun q hq f hf hdue hsl => due_of_mem_pierCmds hsl hq hf hdue,
    fun hptm hsrc => congrArg Host.Outcome.next (if_pos ((byPtm_iff t).2 ⟨hptm, hsrc⟩)),
    fun h => congrArg Host.Outcome.next (if_neg (Bool.eq_false_iff.1 (byPtm_of_other h))), _, rfl, rfl, rfl⟩
  case begun =>
    obtain ⟨y, f, hstepped⟩ := stepped_eq (z.time.atPier act secs) step
    have htime := time_pierBegun s act secs step
    obtain ⟨hout, hpiers⟩ := dev_pierBegun s act secs step
    refine ⟨?_, ?_, fun y hy => ?_, fun hnone => ⟨fun y hy => ?_, fun hwrite => ?_⟩, ?_, ?_, ?_, ?_, fun hact => ?_,
      fun hact hfree => ?_, fun hact hsrc hsource => ?_, fun us hus => ?_, fun hnone => ?_, hout, hpiers⟩
    · rw [htime, hstepped]; rfl
    · rw [htime, hstepped]; rfl
    · rw [htime, hstepped]; subst hy; rfl
    · rw [htime, hstepped]; subst hnone; exact nextPier_of_write _ hy
    · rw [htime, hstepped]; subst hnone; exact nextPier_of_none _ hwrite
    · rw [htime, hstepped]; rfl
    · rw [htime, hstepped]; rfl
    · rw [htime, hstepped]; rfl
    · rw [htime, hstepped]; rfl
    · rw [htime, hstepped]; exact atPier_extern z.time secs hact
    · rw [htime, hstepped]; subst hact; exact atPier_free z.time secs hfree
    · rw [htime, hstepped]; subst hact; exact atPier_coast z.time secs hsrc hsource
    · rw [htime]; subst hus; exact ⟨rfl, rfl⟩
    · rw [htime]; subst hnone; rfl
  case pier =>
    refine ⟨fun hmakes => (exec_pier_eq env hlive _).trans (congrArg _ (if_pos ((makes_iff t).2 hmakes))),
      fun hmakes => (exec_pier_eq env hlive _).trans (congrArg _ (if_neg fun h => hmakes ((makes_iff t).1 h))), fun hpulse => ?_,
      fun hother => (exec_pier_eq env hlive _).trans (congrArg _ (if_neg (Bool.eq_false_iff.1 (byPtm_of_other hother)))),
      fun hptm hsrc hfar => ?_⟩
    · refine (exec_pier_eq env hlive _).trans (congrArg _ (if_pos ?_))
      rw [Bool.not_eq_true', Bool.eq_false_iff]
      exact fun h => hpulse ((pulse_iff t).1 h)
    · refine (exec_pier_eq env hlive _).trans (congrArg _ ((if_pos ((byPtm_iff t).2 ⟨hptm, hsrc⟩)).trans ?_))
      rw [hchanged 1 hfar]
      rfl
  case edge =>
    have hon := (pulse_iff t).2 hpulse
    have hedge {y : Option (Option Int)} := exec_timepulseEdge_pulse (v := y) (e := e) env hlive hon (src_of_pulse hon)
    have hpier {y : Option (Option Int)} := exec_pier_pulse (v := y) (e := e) env hlive hon
    refine ⟨fun hnear hfar => ?_, fun hout hedges hnear hfar => ?_, fun hout hnone => ?_⟩
    · have hmark : t.edge e = some (moved 2) := (edge_of_window ((near_iff ..).2 hnear)).trans (congrArg _ (hchanged 2 hfar))
      exact ⟨hedge hmark, hpier hmark⟩
    · have hmark : t.edge e = some (some o) := (edge_of_relock (hnot hout) hedges ((near_iff ..).2 hnear)).trans
        (congrArg _ (congrArg _ (hoffset hfar)))
      exact ⟨hedge hmark, hpier hmark⟩
    · have hmark : t.edge e = none := edge_of_spurious (hnot hout) fun x y hxy => hnot (hnone x y hxy)
      exact ⟨(hedge hmark).trans (by rw [hchain]; rfl), hpier hmark⟩
  case closed =>
    refine exec_timepulseWindowClose_held env ?_
    rcases h with h | h | h
    · exact .inl h
    · exact .inr (.inl (Bool.eq_false_iff.2 fun hon => h ((pulse_iff t).1 hon)))
    · exact .inr (.inr h)
  · exact (exec_ptmDialogueStart_down h).trans (by rw [dialogueEnd_failed])
  · refine (exec_ptmResponse_waiting hwaits n).trans ?_
    rw [decide_eq_true hn, dialogueEnd_good]
  · refine (exec_ptmResponse_waiting hwaits n).trans ?_
    rw [decide_eq_false (Nat.not_le.2 hn), dialogueEnd_failed]
  · exact (exec_ptmResponseTimeout_waiting hwaits).trans (by rw [dialogueEnd_failed])
  · refine congrArg Host.Outcome.next (if_neg ?_)
    rintro (h | h | ⟨hready, hparked⟩)
    · exact hpark h
    · exact h hver
    · exact hst.elim hready hparked

end Sys2Proof.Machine
end

section
/-! Minutes and their seals (R130 to R145, R428), the power states, temperature and VID (R79 to R86, R558, R559, R562), and the
levels of the output balls (R549 to R554). -/

namespace Sys2Proof.Machine

/-! ## The minute pier (R130, R132, R133) -/

section
variable {s : State}

theorem closable_of_second (h : s.time.pier.toNat % 60 ≠ 0) : s.closable = none := if_pos (.inr h)

theorem closable_of_zero (h : s.time.pier.toNat = 0) : s.closable = none := if_pos (.inl h)

theorem closable_of_past {l : Nat} (hlast : s.lastMinute = some l) (h : s.time.pier.toNat / 60 ≤ l + 1) : s.closable = none := by
  unfold State.closable
  simp only [hlast]
  rw [if_neg (by omega : ¬l < s.time.pier.toNat / 60 - 1), ite_self]

/-- A minute pier past every minute that has ended closes the one before it. -/
theorem closable_of_new (hmod : s.time.pier.toNat % 60 = 0) (hpos : s.time.pier.toNat ≠ 0)
    (h : ∀ l, s.lastMinute = some l → l + 1 < s.time.pier.toNat / 60) : s.closable = some (s.time.pier.toNat / 60 - 1) := by
  refine (if_neg (not_or.2 ⟨hpos, not_not_intro hmod⟩)).trans ?_
  split
  · next l hlast =>
    have := h l hlast
    exact if_pos (by omega)
  · rfl

theorem meterPier_of_none (stepped : Bool) (h : s.closable = none) : s.meterPier stepped = { s with meter := { s.meter with
    held := s.meter.held || s.time.pier.toNat % 60 = 0
    holdover := s.meter.holdover || s.time.hold, stepped := s.meter.stepped || stepped } } := by
  unfold State.meterPier
  rw [h]

theorem meterPier_of_some (stepped : Bool) {k : Nat} (h : s.closable = some k) : s.meterPier stepped = { s with meter := { s.meter with
    held := false, holdover := s.time.hold, stepped := stepped, powerCut := false
    slices := (s.meter.slices.filter fun p => !p.2.closed).map (fun p => (p.1, { cur := p.2.cur, closing := p.2.closing }))
    ended := s.meter.ended ++ [⟨k, s.meter.holdover, s.meter.stepped, s.meter.powerCut, s.meter.slices⟩] } } := by
  unfold State.meterPier
  rw [h]
  rfl

end

/-! ## The close of a minute (R135, R137, R141, R450) -/

/-- A leaf for each slice number, blinded with free values. -/
def State.leavesOf (s : State) (x : Ended) : List (List Byte) :=
  (List.range 1024).map fun i => leafOf s.meter.openFmt s.meter.openMem x i
    ((List.range 16).map fun j => BitVec.ofNat 8 (Config.freeNat (s.free + 16 * i + j)))

/-- The minute that closes. -/
def State.minuteOf (s : State) (x : Ended) : Minute :=
  let leaves := s.leavesOf x
  { minute := x.minute, member := s.meter.openMem, format := s.meter.openFmt
    flags := flagBit (x.holdover && x.receipts) 0 + flagBit x.powerCut 1
    leaves := leaves, root := treeRoot leaves, prev := List.replicate 32 0, sigIdx := 0, ordinal := s.meter.nClosed }

/-- The state with a minute closed, before the signer goes on; with the signer refusing the minute is not sealed. -/
def State.minuteClosed (s : State) (x : Ended) (later : List Ended) : State :=
  let u : State := { s.drawnN 16384 with meter := { s.meter with
    ended := later, openFmt := s.meter.fsel.toNat, openMem := s.meter.member.toNat, nClosed := s.meter.nClosed + 1
    closed := if s.hm.refuses then s.meter.closed else s.meter.closed ++ [s.minuteOf x] } }
  if s.hm.refuses then u else { u with hm := { u.hm with waitSeal := true } }

section
variable {s : State}

theorem exec_minuteClose_none (h : s.meter.ended = []) : exec .minuteClose s = .next s := by
  change execMinuteClose s = _
  simp only [execMinuteClose, h]

theorem exec_minuteClose_some {x : Ended} {later : List Ended} (h : s.meter.ended = x :: later) :
    exec .minuteClose s = .next (s.minuteClosed x later).signerNext := by
  change execMinuteClose s = _
  simp only [execMinuteClose, h]
  rfl

theorem meter_minuteClosed (x : Ended) (later : List Ended) : (s.minuteClosed x later).meter = { s.meter with
    ended := later, openFmt := s.meter.fsel.toNat, openMem := s.meter.member.toNat, nClosed := s.meter.nClosed + 1
    closed := if s.hm.refuses then s.meter.closed else s.meter.closed ++ [s.minuteOf x] } := by
  unfold State.minuteClosed
  dsimp only
  split <;> rfl

theorem waitSeal_minuteClosed (x : Ended) (later : List Ended) (h : s.hm.refuses = false) :
    (s.minuteClosed x later).hm.waitSeal = true := by
  unfold State.minuteClosed
  rw [if_neg (Bool.eq_false_iff.1 h)]

end

theorem receipts_iff (x : Ended) : x.receipts = true ↔ ∃ p ∈ x.slices, p.1 < 1024 ∧ p.2.spans ≠ 0 := by
  simp [Ended.receipts, and_comm, Prod.exists]

/-- The two flags of a closed minute: holdover with a receipt, and a power cut (R139). -/
theorem flags_minuteOf (s : State) (x : Ended) : ((s.minuteOf x).flags % 2 = 1 ↔ x.holdover = true ∧ x.receipts = true)
    ∧ ((s.minuteOf x).flags / 2 = 1 ↔ x.powerCut = true) := by
  change ((flagBit (x.holdover && x.receipts) 0 + flagBit x.powerCut 1) % 2 = 1 ↔ _)
    ∧ ((flagBit (x.holdover && x.receipts) 0 + flagBit x.powerCut 1) / 2 = 1 ↔ _)
  cases x.holdover <;> cases x.receipts <;> cases x.powerCut <;> decide

theorem root_minuteOf (s : State) (x : Ended) : (s.minuteOf x).root = treeRoot (s.minuteOf x).leaves := by
  unfold State.minuteOf
  dsimp only

theorem leaves_minuteOf (s : State) (x : Ended) : (s.minuteOf x).leaves = (List.range 1024).map fun i =>
    leafOf s.meter.openFmt s.meter.openMem x i
      ((List.range 16).map fun j => BitVec.ofNat 8 (Config.freeNat (s.free + 16 * i + j))) := by
  unfold State.minuteOf State.leavesOf
  dsimp only

/-! ## The signer's end (R139, R141, R428) -/

/-- Keeper data is written under the device media key; the rest of the keys stands. -/
theorem keeperData_eq (s : State) (record : Nat) : ∃ f m k, s.keeperData record
    = { s with free := f, media := m, hm := { s.hm with media := k } } := by
  unfold State.keeperData State.freeUnit State.deviceUnit State.takeSeq
  by_cases h : ((s.drawnN 4096).mediaKey 4096).seq < ((s.drawnN 4096).mediaKey 4096).res
  · simp only [h, decide_true, if_true]
    exact ⟨_, _, _, rfl⟩
  · simp only [h, decide_false, Bool.false_eq_true, if_false]
    exact ⟨_, _, _, rfl⟩

/-- A seal of the oldest closed minute. -/
def State.sealOfMinute (s : State) (m : Minute) : Seal := ⟨m, Config.xmssSign (sealKey s.hm.sealGen) m.sigIdx (sealHeader m)⟩

/-- The state with the oldest closed minute sealed, before the signer goes on. -/
def State.minuteSealed (s : State) (m : Minute) (rest : List Minute) : State :=
  let v := State.keeperData { s with
    hm := { s.hm with signing := none }
    meter := { s.meter with
      closed := rest, store := (s.sealOfMinute m :: s.meter.store).take 2880, chain := true, last := BitVec.ofNat 64 m.minute } } 2
  if rest.isEmpty then v else { v with hm := { v.hm with waitSeal := true } }

section
variable {s : State}

theorem exec_signatureComplete_none (h : s.hm.signing = none) : exec .signatureComplete s = .next s := by
  change execSignatureComplete s = _
  simp only [execSignatureComplete, h]

theorem exec_signatureComplete_seal {m : Minute} {rest : List Minute} (h : s.hm.signing = some SignJob.seal)
    (hclosed : s.meter.closed = m :: rest) : exec .signatureComplete s = .next (s.minuteSealed m rest).signerNext.checkNv := by
  change execSignatureComplete s = _
  simp only [execSignatureComplete, h, hclosed]
  rfl

theorem exec_signatureComplete_quote {q : Src} {e : Sqe} {body : List Byte} (h : s.hm.signing = some (.quote q e body)) :
    exec .signatureComplete s = .next (
      let answer := Data.ofBytes (body ++ Config.xmssSign identityKey (leNat ((body.drop 32).take 8)) body)
      (((State.sendTo { s with hm := { s.hm with signing := none } } q e.dptr answer).moved q e.cid true answer.len).complete q e.cid
        0 0 0 0).signerNext.checkNv) := by
  change execSignatureComplete s = _
  simp only [execSignatureComplete, h]
  rfl

/-- What a sealed minute leaves: it is in the store, and the next one waits for the signer. -/
theorem minuteSealed_spec (m : Minute) (rest : List Minute) : let u := s.minuteSealed m rest
    u.meter.closed = rest ∧ u.meter.store = (s.sealOfMinute m :: s.meter.store).take 2880 ∧ u.meter.chain = true
    ∧ u.meter.last = BitVec.ofNat 64 m.minute ∧ u.hm.signing = none ∧ (rest ≠ [] → u.hm.waitSeal = true) := by
  unfold State.minuteSealed
  dsimp only
  obtain ⟨f, v, k, hkeeper⟩ := keeperData_eq { s with
    hm := { s.hm with signing := none }
    meter := { s.meter with
      closed := rest, store := (s.sealOfMinute m :: s.meter.store).take 2880, chain := true, last := BitVec.ofNat 64 m.minute } } 2
  rw [hkeeper]
  cases rest with
  | nil => exact ⟨rfl, rfl, rfl, rfl, rfl, fun h => absurd rfl h⟩
  | cons y l => exact ⟨rfl, rfl, rfl, rfl, rfl, fun _ => rfl⟩

end

/-! ## Power states (R81 to R83) -/

section
variable {s : State}

theorem exec_powerStateEntry_held (h : s.dev.psNext = none ∨ s.keepsAwake = true) : exec .powerStateEntry s = .next s := by
  change execPowerStateEntry s = _
  unfold execPowerStateEntry
  cases hn : s.dev.psNext with
  | none => rfl
  | some n =>
    rcases h with h | h
    · rw [hn] at h
      cases h
    · exact congrArg Host.Outcome.next (if_pos h)

theorem exec_powerStateEntry_goes {n : Nat} (hn : s.dev.psNext = some n) (h : s.keepsAwake = false) :
    exec .powerStateEntry s = .next (s.setPs n) := by
  change execPowerStateEntry s = _
  simp only [execPowerStateEntry, hn, h, Bool.false_eq_true, if_false]

theorem selfRef_dramWake : s.dramWake.dram.selfRef = false := by
  unfold State.dramWake
  split
  · rfl
  · next h => exact Bool.eq_false_iff.2 h

theorem selfRef_dramSleep (hstill : ∀ y ∈ s.dram.subs, y.2.still = true) : s.dramSleep.dram.selfRef = true := by
  have hall : s.dram.subs.all (·.2.still) = true := List.all_eq_true.2 hstill
  unfold State.dramSleep
  rw [hall]
  cases hself : s.dram.selfRef with
  | true => exact hself
  | false => rfl

theorem dramWake_dev : s.dramWake.dev = s.dev := by
  unfold State.dramWake
  split <;> rfl

theorem dramSleep_dev : s.dramSleep.dev = s.dev := by
  unfold State.dramSleep
  split <;> rfl

/-- A power state entered, with its core voltage, and self-refresh in PS4 alone. -/
theorem setPs_spec (n : Nat) : let u := s.setPs n
    u.dev.ps = n ∧ u.dev.psNext = none ∧ (n ≠ 4 → u.dram.selfRef = false)
    ∧ (n = 4 → (∀ y ∈ s.dram.subs, y.2.still = true) → u.dram.selfRef = true)
    ∧ u.dev.psOper = (if n < 3 then n else s.dev.psOper) ∧ u.dev.pwr.vidTo = (if n < 3 then Config.vidOperating else 0x40) := by
  refine ⟨rfl, rfl, fun h => ?_, fun h hstill => ?_, ?_, rfl⟩
  · unfold State.setPs
    rw [if_neg h]
    exact selfRef_dramWake
  · unfold State.setPs
    rw [if_pos h]
    exact selfRef_dramSleep hstill
  · unfold State.setPs
    split
    · exact congrArg (fun d : Device => if n < 3 then n else d.psOper) dramSleep_dev
    · exact congrArg (fun d : Device => if n < 3 then n else d.psOper) dramWake_dev

section
variable {itps itpt : Nat} (hentry : s.dev.apst.getD s.dev.ps (0, 0) = (itps, itpt))
include hentry

theorem exec_apstIdleExpiry_eq : exec .apstIdleExpiry s = .next (
    if (!s.dev.apste || s.keepsAwake || s.dev.psNext.isSome || decide (itpt = 0)) = true then s
    else { s with dev := { s.dev with psNext := some itps } }) := by
  change execApstIdleExpiry s = _
  unfold execApstIdleExpiry
  rw [hentry]

theorem exec_apstIdleExpiry_held (h : s.dev.apste = false ∨ s.keepsAwake = true ∨ s.dev.psNext.isSome = true ∨ itpt = 0) :
    exec .apstIdleExpiry s = .next s := by
  refine (exec_apstIdleExpiry_eq hentry).trans (congrArg _ (if_pos ?_))
  simpa [or_assoc] using h

theorem exec_apstIdleExpiry_goes (hon : s.dev.apste = true) (hidle : s.keepsAwake = false) (hnext : s.dev.psNext = none)
    (htime : itpt ≠ 0) : exec .apstIdleExpiry s = .next { s with dev := { s.dev with psNext := some itps } } :=
  (exec_apstIdleExpiry_eq hentry).trans (congrArg _ (if_neg (by simp [hon, hidle, hnext, htime])))

end

end

/-! ## The composite temperature (R79, R86, R562) and VID (R559) -/

section
variable {s : State} {c : Int}

/-- The reading reaches a threshold of feature 04h from the other side. -/
def State.crossesThreshold (s : State) (c : Int) : Prop :=
  (s.dev.temp + 273 < (s.dev.tOver.getD wctemp : Nat) ∧ ((s.dev.tOver.getD wctemp : Nat) : Int) ≤ c + 273)
    ∨ ((s.dev.tUnder : Nat) < s.dev.temp + 273 ∧ c + 273 ≤ (s.dev.tUnder : Nat))

/-- The warning bit of a reading. -/
def State.warned (s : State) (c : Int) : State :=
  if (wctemp : Int) < c + 273 then s.setWarn 1 1 else { s with dev := { s.dev with warn := s.dev.warn &&& ~~~2#8 } }

theorem exec_temperatureSample_quiet (h : ¬s.crossesThreshold c) : exec (.temperatureSample c) s =
    .next (State.warned { s with dev := { s.dev with temp := c } } c) :=
  congrArg (fun t : State => Host.Outcome.next (t.warned c)) (if_neg h)

theorem exec_temperatureSample_crosses (h : s.crossesThreshold c) : exec (.temperatureSample c) s =
    .next ((State.raiseHealth { s with dev := { s.dev with temp := c } } 1 1).warned c) :=
  congrArg (fun t : State => Host.Outcome.next (t.warned c)) (if_pos h)

/-- The core voltage identification set to a value. -/
def State.withVid (s : State) (v : Byte) : State := { s with dev := { s.dev with pwr := { s.dev.pwr with vid := v } } }

theorem exec_vidStep_up (h : s.dev.pwr.vid.toNat < s.dev.pwr.vidTo.toNat) :
    exec .vidStep s = .next (s.withVid (s.dev.pwr.vid + 1)) :=
  congrArg (fun v => Host.Outcome.next (s.withVid v)) (if_pos h)

theorem exec_vidStep_down (h : s.dev.pwr.vidTo.toNat < s.dev.pwr.vid.toNat) :
    exec .vidStep s = .next (s.withVid (s.dev.pwr.vid - 1)) :=
  congrArg (fun v => Host.Outcome.next (s.withVid v)) ((if_neg (Nat.lt_asymm h)).trans (if_pos h))

theorem exec_vidStep_there (h : s.dev.pwr.vid = s.dev.pwr.vidTo) : exec .vidStep s = .next s := by
  have hle : s.dev.pwr.vid.toNat = s.dev.pwr.vidTo.toNat := congrArg BitVec.toNat h
  exact congrArg (fun v => Host.Outcome.next (s.withVid v))
    ((if_neg (Nat.not_lt_of_ge hle.ge)).trans (if_neg (Nat.not_lt_of_ge hle.le)))

end

/-! ## The output balls (R549 to R554) -/

theorem openDrain_low_iff (b : Bool) : openDrain b = .low ↔ b = true := by
  cases b <;> decide

/-- The general-purpose ball of the pier output is an input with the sources that come through it (R549). -/
theorem ownsAc2_of_own {t : Time} (h : t.src = 0 ∨ t.src = 2) : t.ownsAc2 = false := by
  unfold Time.ownsAc2
  rcases h with h | h <;> rw [h] <;> rfl

theorem ownsAc2_of_host {t : Time} (h : t.src = 1 ∨ t.src = 3) : t.ownsAc2 = true := by
  unfold Time.ownsAc2
  rcases h with h | h <;> rw [h] <;> rfl

theorem pin_of_dark {s : State} (h : s.dev.pwr.rails = false) (p : Pin) : s.pin p = .hiZ := if_pos (by rw [h]; rfl)

section
variable {s : State} (hrails : s.dev.pwr.rails = true)
include hrails

/-- The level of a ball of a device that has its rails. -/
theorem pin_of_rails (p : Pin) : s.pin p = match p with
    | .actN => openDrain (s.outputsLive && (s.busyDevice || s.dev.pwr.actHold))
    | .thermN => openDrain (s.outputsLive && (wctemp : Int) < s.dev.temp + 273)
    | .wthruN => openDrain (s.outputsLive && s.media.wthru)
    | .ac2 => if s.outputsLive && s.time.ownsAc2 then (if s.dev.pwr.pierOut then .high else .low) else .hiZ
    | .linkN => openDrain (s.outputsLive && (s.port s.dev.mgrPort).linkUp)
    | .ad2 => openDrain (s.rel.replaceN || (s.outputsLive && s.degraded))
    | .lowPwrN => openDrain (s.outputsLive && 3 ≤ s.dev.ps)
    | .gpio7 => .hiZ
    | .faultN => openDrain s.rel.fault
    | .flashWpN => if s.dev.pwr.wpLow then .low else .high
    | .dramResetN => if s.dev.pwr.perst || s.dev.pwr.phase = 0 then .low else .high :=
  (if_neg (by rw [hrails]; decide)).trans rfl

theorem outputsLive_of_ready (h : s.dev.pwr.phase = 5) : s.outputsLive = true := by
  rw [State.outputsLive, hrails, h]
  rfl

omit hrails in
theorem outputsLive_of_booting (h : s.dev.pwr.phase ≠ 5) : s.outputsLive = false := by
  rw [State.outputsLive, decide_eq_false h, Bool.and_false]

end

/-- DEGR_N follows what REL.STAT shows of parts out of service (R549). -/
theorem degraded_iff (s : State) : s.degraded = true ↔ s.rel.linksBad ≠ [] ∨ 0 < s.enginesOut ∨ 0 < s.media.chansFailed
    ∨ s.media.dieBad ≠ [] ∨ 0 < s.marked ∨ s.rel.pairs.length < 5 ∨ ∃ f < 16, s.spareFree f = false := by
  have hspares : ((List.range 16).filter s.spareFree).length < 16 ↔ ∃ f < 16, s.spareFree f = false := by
    have hlen := List.length_filter_lt_length_iff_exists (l := List.range 16) (p := s.spareFree)
    rw [List.length_range] at hlen
    simp only [hlen, List.mem_range, Bool.not_eq_true]
  simp only [State.degraded, Bool.or_eq_true, decide_eq_true_eq, Bool.not_eq_true', List.isEmpty_eq_false_iff, hspares, or_assoc]

/-- Bit 2 of PWR.STAT is the write-through mode. -/
theorem pwrStat_wthru (s : State) : s.pwrStat / 4 % 2 = 1 ↔ s.media.wthru = true := by
  have hbit (b : Bool) : bit b ≤ 1 := by cases b <;> decide
  have hwthru : bit s.media.wthru = 1 ↔ s.media.wthru = true := by cases s.media.wthru <;> decide
  have hlow := hbit (s.media.wthru && !s.media.buf.isEmpty)
  have hone := hbit s.media.wthru
  rw [← hwthru]
  unfold State.pwrStat
  dsimp only
  omega

section
variable {s : State} (hrails : s.dev.pwr.rails = true)
include hrails

/-- The outputs with a function of the running device are not driven before it is ready (R549). -/
theorem pin_booting (hboot : s.dev.pwr.phase ≠ 5) (p : Pin)
    (hp : p ∈ [Pin.actN, .thermN, .wthruN, .ac2, .linkN, .lowPwrN, .gpio7]) : s.pin p = .hiZ := by
  rw [pin_of_rails hrails, outputsLive_of_booting hboot]
  simp only [List.mem_cons, List.not_mem_nil, or_false] at hp
  rcases hp with rfl | rfl | rfl | rfl | rfl | rfl | rfl <;> rfl

/-- Before the device is ready the ball of replacement shows a replacement alone. -/
theorem replace_booting (hboot : s.dev.pwr.phase ≠ 5) : s.pin .ad2 = .low ↔ s.rel.replaceN = true := by
  simp only [pin_of_rails hrails, outputsLive_of_booting hboot, openDrain_low_iff, Bool.false_and, Bool.or_false]

/-- The fixed functions of the general-purpose balls of a ready device (R549 to R552). -/
theorem pins_ready (hready : s.dev.pwr.phase = 5) :
    (s.pin .actN = .low ↔ s.busyDevice = true ∨ s.dev.pwr.actHold = true)
    ∧ (s.pin .thermN = .low ↔ (wctemp : Int) < s.dev.temp + 273) ∧ (s.pin .wthruN = .low ↔ s.pwrStat / 4 % 2 = 1)
    ∧ (s.time.src = 0 ∨ s.time.src = 2 → s.pin .ac2 = .hiZ)
    ∧ (s.time.src = 1 ∨ s.time.src = 3 → s.pin .ac2 = if s.dev.pwr.pierOut = true then .high else .low)
    ∧ (s.pin .linkN = .low ↔ (s.port s.dev.mgrPort).linkUp = true) ∧ (s.pin .lowPwrN = .low ↔ 3 ≤ s.dev.ps) ∧ s.pin .gpio7 = .hiZ
    ∧ (s.pin .ad2 = .low ↔ s.rel.replaceN = true ∨ s.rel.linksBad ≠ [] ∨ 0 < s.enginesOut ∨ 0 < s.media.chansFailed
        ∨ s.media.dieBad ≠ [] ∨ 0 < s.marked ∨ s.rel.pairs.length < 5 ∨ ∃ f < 16, s.spareFree f = false) := by
  simp only [pin_of_rails hrails, outputsLive_of_ready hrails hready, Bool.true_and, openDrain_low_iff, Bool.or_eq_true,
    decide_eq_true_eq, pwrStat_wthru, degraded_iff, true_and, and_true]
  exact ⟨fun h => if_neg (Bool.eq_false_iff.1 (ownsAc2_of_own h)), fun h => if_pos (ownsAc2_of_host h)⟩

/-- FAULT_N and write protect follow their state with the rails on (R552, R554). -/
theorem pins_always : (s.pin .faultN = .low ↔ s.rel.fault = true) ∧ (s.pin .flashWpN = .low ↔ s.dev.pwr.wpLow = true) := by
  simp only [pin_of_rails hrails, openDrain_low_iff, true_and]
  cases s.dev.pwr.wpLow <;> decide

end

/-- Settles O46: the minute's pier, close and seal, then the power states, the temperature, VID and the output balls. -/
theorem minutesAreSealedAndPowerStatesEntered : Obligations.MinutesAreSealedAndPowerStatesEntered := by
  intro s q e body m rest stepped x later w c n itps itpt t blind unsigned sealed_ answer dev high low crossed set told pier stay
  refine ⟨exec_minuteClose_none, fun h => ?_, fun h hpast => ?_, fun h hpos hnew => meterPier_of_some stepped (closable_of_new h hpos hnew),
    fun hended => ⟨s.minuteClosed x later, exec_minuteClose_some hended, ?close⟩, exec_signatureComplete_none,
    fun hjob hclosed => ⟨s.minuteSealed m rest, exec_signatureComplete_seal hjob hclosed, minuteSealed_spec m rest⟩,
    exec_signatureComplete_quote, fun h => congrArg Host.Outcome.next (if_pos h), fun h => congrArg Host.Outcome.next (if_neg (by omega)),
    fun hentry => ⟨exec_apstIdleExpiry_held hentry, exec_apstIdleExpiry_goes hentry⟩, exec_powerStateEntry_held,
    fun hn hidle => ⟨s.setPs n, exec_powerStateEntry_goes hn hidle, setPs_spec n⟩,
    fun hquiet hcool => (exec_temperatureSample_quiet hquiet).trans (congrArg _ (if_neg (Int.not_lt.2 hcool))),
    fun hquiet hhot => (exec_temperatureSample_quiet hquiet).trans (congrArg _ (if_pos hhot)),
    fun hcross hcool => (exec_temperatureSample_crosses hcross).trans (congrArg _ (if_neg (Int.not_lt.2 hcool))),
    fun hcross hhot => (exec_temperatureSample_crosses hcross).trans (congrArg _ (if_pos hhot)),
    ⟨exec_vidStep_up, exec_vidStep_down, exec_vidStep_there⟩, rfl, pin_of_dark,
    fun hrails hboot => ⟨pin_booting hrails hboot, replace_booting hrails hboot⟩, pins_ready, pins_always, rfl, rfl, rfl, rfl⟩
  · rw [meterPier_of_none stepped (closable_of_second h), decide_eq_false h, Bool.or_false]
  · have hnone : s.closable = none := by
      rcases hpast with hzero | ⟨l, hlast, hle⟩
      · exact closable_of_zero hzero
      · exact closable_of_past hlast hle
    rw [meterPier_of_none stepped hnone, decide_eq_true h, Bool.or_true]
  case close =>
    rw [meter_minuteClosed]
    refine ⟨rfl, rfl, rfl, rfl, rfl, fun h => if_pos h, fun h => ⟨waitSeal_minuteClosed x later h, s.minuteOf x, ?_⟩⟩
    obtain ⟨hholdover, hpower⟩ := flags_minuteOf s x
    rw [receipts_iff] at hholdover
    exact ⟨if_neg (Bool.eq_false_iff.1 h), rfl, rfl, rfl, root_minuteOf s x, hholdover, hpower, leaves_minuteOf s x⟩

end Sys2Proof.Machine
end

section
/-! The reset of a port function and its count of outstanding reads (R482, R505). -/

namespace Sys2Proof.Machine

/-- A state whose count table names port 0 twice: a function reset deletes one of the two entries. -/
def twiceCounted : State := { State.reset with out := { State.reset.out with np := [(0, 1), (0, 2)] } }

theorem np_functionReset_twiceCounted : Tbl.get? (twiceCounted.functionReset 0).out.np 0 = some 2 := rfl

/-- Refutes O51: the statement holds its count of outstanding reads cleared after a reset of the port's function in every state,
and `Tbl.del` takes away the first entry of a key alone, so a table that names the port twice still counts reads. -/
theorem not_portsResetTranslateTrainAndSignal : ¬ Obligations.PortsResetTranslateTrainAndSignal := by
  intro h
  obtain ⟨-, -, -, -, -, -, -, -, -, hreset, -⟩ := h twiceCounted 0 0 0 0 0 (.sqFetch 0 0)
    { ats := false, mps := 0, mrrs := 0, tags10 := false, relaxed := false, ido := false } false false false false false false 0 0 0 0 0 0
    0 ⟨0, 0, 0, true⟩ ⟨true, 0, 0, none, 0, 0, false, false⟩ (0, 0)
  obtain ⟨-, -, -, -, -, -, -, hcount, -⟩ := hreset
  exact absurd (np_functionReset_twiceCounted.symm.trans hcount) (by decide)

end Sys2Proof.Machine
end

section
/-! The sideband: transport, control commands, the one-command rule, NVMe-MI and the vendor messages (R82, R524 to R536). -/

namespace Sys2Proof.Machine

/-! ## The one-command rule (R527 to R529) -/

/-- The state with a request in hand. -/
def State.sideTaken (s : State) : State := s.modSide fun y => { y with busy := true }

section
variable {s : State} {poll : Bool} {body : State → State} {k : Nat} {ver : Byte}

theorem miCmd_down (hup : s.sideUp ≠ true) : s.miCmd k poll body = s := if_pos (by rw [Bool.eq_false_iff.2 hup]; rfl)

theorem vendorCmd_down (hup : s.sideUp ≠ true) : s.vendorCmd ver k body = s := if_pos (by rw [Bool.eq_false_iff.2 hup]; rfl)

section
variable (hup : s.sideUp = true)
include hup

theorem miCmd_refused {r : List Byte} (h : s.sideRefusal poll = some r) :
    s.miCmd k poll body = (s.drawnN 2).sideSend (miMessage k 0xE0 [0, 0, 0] r) := by
  refine (if_neg (by rw [hup]; decide)).trans ?_
  rw [h]

theorem miCmd_taken (h : s.sideRefusal poll = none) : s.miCmd k poll body = body s.sideTaken := by
  refine (if_neg (by rw [hup]; decide)).trans ?_
  rw [h]
  rfl

theorem vendorCmd_refused {r : List Byte} (h : s.sideRefusal false = some r) :
    s.vendorCmd ver k body = (s.drawnN 2).sideSend (vendorMessage ver k 1 r) := by
  refine (if_neg (by rw [hup]; decide)).trans ?_
  rw [h]

theorem vendorCmd_taken (h : s.sideRefusal false = none) : s.vendorCmd ver k body = body s.sideTaken := by
  refine (if_neg (by rw [hup]; decide)).trans ?_
  rw [h]
  rfl

theorem controlReply_up (cmd code : Nat) (data : List Byte) :
    s.controlReply cmd code data = s.sideSend ([0, 0, BitVec.ofNat 8 cmd, BitVec.ofNat 8 code] ++ data) := if_pos hup

end

theorem sideRefusal_of_busy (h : s.dev.side.busy = true) : s.sideRefusal poll ≠ none := by
  unfold State.sideRefusal
  split
  · exact Option.some_ne_none _
  · exact Option.some_ne_none _

theorem sideRefusal_of_shut (h : s.rel.fault = true ∨ s.dev.pwr.plpWarn = true ∨ s.dev.pwr.phase ≠ 5) :
    s.sideRefusal false = some [0, 0] := by
  refine if_pos ?_
  unfold State.sideShut
  rcases h with h | h | h
  · simp [h]
  · simp [h]
  · simp only [Bool.false_eq_true, if_false, decide_eq_true h, Bool.or_true, Bool.true_or]

/-- A command whose answer keeps the sideband's record changes its busy mark alone. -/
theorem miCmd_side (hbody : ∀ z : State, (body z).dev.side = z.dev.side) :
    ∃ b, (s.miCmd k poll body).dev.side = { s.dev.side with busy := b } := by
  by_cases hup : s.sideUp = true
  · cases h : s.sideRefusal poll with
    | some r =>
      rw [miCmd_refused hup h]
      exact ⟨_, rfl⟩
    | none =>
      rw [miCmd_taken hup h, hbody]
      exact ⟨_, rfl⟩
  · rw [miCmd_down hup]
    exact ⟨_, rfl⟩

theorem vendorCmd_side (hbody : ∀ z : State, (body z).dev.side = z.dev.side) :
    ∃ b, (s.vendorCmd ver k body).dev.side = { s.dev.side with busy := b } := by
  by_cases hup : s.sideUp = true
  · cases h : s.sideRefusal false with
    | some r =>
      rw [vendorCmd_refused hup h]
      exact ⟨_, rfl⟩
    | none =>
      rw [vendorCmd_taken hup h, hbody]
      exact ⟨_, rfl⟩
  · rw [vendorCmd_down hup]
    exact ⟨_, rfl⟩

end

/-! ## Requests that no row stands for (R526, R531, R534, R536) -/

section
variable {s : State} {m : List Byte}

theorem otherRequest_control (hup : s.sideUp = true) (h0 : m.getD 0 0 = 0) (hreq : (m.getD 1 0).getLsbD 7 = true)
    (hcmd : (m.getD 2 0).toNat = 0 ∨ 6 < (m.getD 2 0).toNat) :
    s.otherRequest m = s.sideSend ([0, 0, BitVec.ofNat 8 (m.getD 2 0).toNat, BitVec.ofNat 8 5] ++ []) :=
  (if_pos h0).trans ((if_pos (Bool.and_eq_true_iff.2 ⟨hreq, Bool.or_eq_true_iff.2 (hcmd.imp decide_eq_true decide_eq_true)⟩)).trans (controlReply_up hup _ _ _))

theorem otherRequest_mi (hup : s.sideUp = true) (hfree : s.sideRefusal false = none) (h0 : m.getD 0 0 = 0x84)
    (hmi : (m.getD 1 0).toNat / 8 = 1) (hop : 4 < (m.getD 4 0).toNat) :
    s.otherRequest m = s.sideTaken.sideSend (miMessage 1 3 [0, 0, 0] []) :=
  (if_neg fun h => absurd (h0.symm.trans h) (by decide)).trans ((if_pos ⟨h0, hmi, hop⟩).trans (miCmd_taken hup hfree))

theorem otherRequest_vendor (hup : s.sideUp = true) (hfree : s.sideRefusal false = none) (h0 : m.getD 0 0 = 0xFE)
    (h1 : m.getD 1 0 = 0x1F) (h2 : m.getD 2 0 = 0x42) (hver : m.getD 3 0 = 1 ∨ m.getD 3 0 = 2) (h5 : m.getD 5 0 = 0x80)
    (hcmd : 3 < (m.getD 4 0).toNat) :
    s.otherRequest m = s.sideTaken.sideSend (vendorMessage (m.getD 3 0) (m.getD 4 0).toNat 3 []) :=
  (if_neg fun h => absurd (h0.symm.trans h) (by decide)).trans ((if_neg fun h => absurd (h0.symm.trans h.1) (by decide)).trans
    ((if_pos ⟨h0, h1, h2, h5, hcmd⟩).trans ((vendorCmd_taken hup hfree).trans (if_neg fun h => hver.elim h.1 h.2))))

/-- What answers such a request changes the busy mark alone of the sideband's record. -/
theorem otherRequest_side (s : State) (m : List Byte) : ∃ b, (s.otherRequest m).dev.side = { s.dev.side with busy := b } := by
  have hsame : ∃ b, s.dev.side = { s.dev.side with busy := b } := ⟨_, rfl⟩
  unfold State.otherRequest State.controlReply
  dsimp only
  split
  · split
    · split
      · exact hsame
      · exact hsame
    · exact hsame
  · split
    · exact miCmd_side fun _ => rfl
    · split
      · refine vendorCmd_side fun z => ?_
        split
        · rfl
        · rfl
      · exact hsame

end

theorem messageGood_iff (m : List Byte) : messageGood m = true ↔ m.getD 0 0 = 0 ∨ ((m.getD 0 0).getLsbD 7 = true
    ∧ 4 < m.length ∧ leNat (m.drop (m.length - 4)) = crc32c (m.take (m.length - 4))) := by
  simp only [messageGood, Bool.or_eq_true, Bool.and_eq_true, decide_eq_true_eq, and_assoc]

/-! ## Packets (R525 to R527) -/

section
variable (s : State) (src : Byte) (som eom pec : Bool) (sq : BitVec 2) (bytes : List Byte) (tag : BitVec 3)

/-- A packet that continues a message of another endpoint or tag. -/
def State.foreignPacket : Prop :=
  pec = true ∧ som = false ∧ s.dev.side.parts ≠ none ∧ ¬(s.dev.side.src = src ∧ s.dev.side.tag = tag)

/-- What a packet continues: nothing yet, or the parts it is next of. -/
def State.packetBefore : Option (List Byte) :=
  if som then some [] else if s.dev.side.nextSeq = sq then s.dev.side.parts else none

/-- What is kept of a message with a packet. -/
def State.packetKeep : Option (List Byte) :=
  if !s.sideUp || !pec || 64 < bytes.length then none
  else ((s.packetBefore som sq).map fun b => b ++ bytes).filter fun b => b.length ≤ mctpLimit

/-- The state with a packet taken, `keep` being what is kept with it. -/
def State.packetNoted (keep : Option (List Byte)) : State := s.modSide fun x => { x with
  parts := if eom then none else keep, src := src, tag := tag, nextSeq := sq + 1, fresh := true }

/-- A packet taken, with the answer to a request that is whole and has no row. -/
def State.packetHeard (keep : Option (List Byte)) : State :=
  let z := s.packetNoted src eom sq tag keep
  match keep with
  | some b => if eom && messageGood b then (z.modSide fun x => { x with rx := some b }).otherRequest b else z
  | none => z

variable {s src som eom pec sq bytes tag}

theorem exec_packet_foreign (h : s.foreignPacket src som pec tag) :
    exec (.mctpPacketReceive src som eom sq pec bytes tag) s = .next s := by
  obtain ⟨hpec, hsom, hparts, hother⟩ := h
  refine congrArg Host.Outcome.next (if_pos ?_)
  simp [hpec, hsom, not_and_or.1 hother, Option.isSome_iff_ne_none, hparts]

theorem exec_packet_native (h : ¬s.foreignPacket src som pec tag) : exec (.mctpPacketReceive src som eom sq pec bytes tag) s =
    .next (s.packetHeard src eom sq tag (s.packetKeep som pec sq bytes)) := by
  refine congrArg Host.Outcome.next (if_neg fun hcond => h ?_)
  simp only [Bool.and_eq_true, Bool.not_eq_true', decide_eq_false_iff_not, Bool.and_eq_false_iff] at hcond
  obtain ⟨⟨⟨hpec, hsom⟩, hparts⟩, hother⟩ := hcond
  exact ⟨hpec, hsom, Option.isSome_iff_ne_none.1 hparts, fun hsame => hother.elim (· hsame.1) (· hsame.2)⟩

theorem packetKeep_of_dropped (h : s.sideUp ≠ true ∨ pec = false ∨ 64 < bytes.length ∨ s.packetBefore som sq = none) :
    s.packetKeep som pec sq bytes = none := by
  unfold State.packetKeep
  rcases h with h | h | h | h
  · simp [h]
  · simp [h]
  · simp [h]
  · simp [h]

theorem packetKeep_of_next (hup : s.sideUp = true) (hpec : pec = true) (hlen : bytes.length ≤ 64) {b : List Byte}
    (hbefore : s.packetBefore som sq = some b) (hlimit : b.length + bytes.length ≤ mctpLimit) :
    s.packetKeep som pec sq bytes = some (b ++ bytes) := by
  unfold State.packetKeep
  rw [hbefore, hup, hpec, decide_eq_false (Nat.not_lt.2 hlen)]
  simpa [Option.filter] using hlimit

/-- What a packet leaves of the sideband's record: the parts, the sequence number and the packet's arrival. -/
theorem packetHeard_side (keep : Option (List Byte)) : let t := s.packetHeard src eom sq tag keep
    t.dev.side.nextSeq = sq + 1 ∧ t.dev.side.parts = (if eom then none else keep) ∧ t.dev.side.fresh = true := by
  unfold State.packetHeard
  dsimp only
  split
  · next b =>
    split
    · obtain ⟨c, hside⟩ := otherRequest_side ((s.packetNoted src eom sq tag (some b)).modSide fun x => { x with rx := some b }) b
      rw [hside]
      exact ⟨rfl, rfl, rfl⟩
    · exact ⟨rfl, rfl, rfl⟩
  · exact ⟨rfl, rfl, rfl⟩

theorem packetHeard_whole {b : List Byte} (heom : eom = true) (hgood : messageGood b = true) :
    s.packetHeard src eom sq tag (some b) = State.otherRequest (s.modSide fun y => { y with
      parts := none, src := src, tag := tag, nextSeq := sq + 1, fresh := true, rx := some b }) b := by
  subst heom
  exact if_pos hgood

theorem packetHeard_rx_whole {b : List Byte} (heom : eom = true) (hgood : messageGood b = true) :
    (s.packetHeard src eom sq tag (some b)).dev.side.rx = some b := by
  rw [packetHeard_whole heom hgood]
  obtain ⟨c, hside⟩ := otherRequest_side (s.modSide fun y => { y with
      parts := none, src := src, tag := tag, nextSeq := sq + 1, fresh := true, rx := some b }) b
  rw [hside]
  rfl

theorem packetHeard_rx_part {b : List Byte} (h : eom = false ∨ messageGood b = false) :
    (s.packetHeard src eom sq tag (some b)).dev.side.rx = s.dev.side.rx := by
  have hcond : (eom && messageGood b) = false := Bool.and_eq_false_iff.2 h
  unfold State.packetHeard
  dsimp only
  rw [if_neg (Bool.eq_false_iff.1 hcond)]
  rfl

/-- A message of one packet with its right check is answered, or executes by its row. -/
theorem exec_packet_whole (hup : s.sideUp = true) (hpec : pec = true) (hsom : som = true) (heom : eom = true)
    (hlen : bytes.length ≤ 64) (hgood : messageGood bytes = true) :
    exec (.mctpPacketReceive src som eom sq pec bytes tag) s = .next (State.otherRequest (s.modSide fun y => { y with
      parts := none, src := src, tag := tag, nextSeq := sq + 1, fresh := true, rx := some bytes }) bytes) := by
  have hbefore : s.packetBefore som sq = some [] := if_pos hsom
  have hlimit : ([] : List Byte).length + bytes.length ≤ mctpLimit := by
    unfold mctpLimit
    simp only [List.length_nil]
    omega
  rw [exec_packet_native fun h => absurd (hsom.symm.trans h.2.1) (by decide), packetKeep_of_next hup hpec hlen hbefore hlimit]
  exact congrArg _ (packetHeard_whole heom hgood)

end

/-! ## MCTP control commands and addresses (R524, R526) -/

section
variable {s : State}

theorem exec_i3cDynamicAddressAssignment_held {addr : BitVec 7} (h : s.sideUp ≠ true ∨ s.dev.pwr.sbsel = true) :
    exec (.i3cDynamicAddressAssignment addr) s = .next s := by
  refine congrArg Host.Outcome.next (if_neg fun hcond => ?_)
  obtain ⟨hup, hsel⟩ := Bool.and_eq_true_iff.1 hcond
  rcases h with h | h
  · exact h hup
  · rw [h] at hsel
    cases hsel

theorem exec_i3cDynamicAddressAssignment_set {addr : BitVec 7} (hup : s.sideUp = true) (hsel : s.dev.pwr.sbsel = false) :
    exec (.i3cDynamicAddressAssignment addr) s = .next (s.modSide fun y => { y with i3cAddr := addr }) :=
  congrArg Host.Outcome.next (if_pos (by rw [hup, hsel]; rfl))

/-- A request that finds the endpoint down goes unanswered. -/
theorem exec_sideband_down (hup : s.sideUp ≠ true) (eid dtyp cfg ver : Byte) (c dlen msgLen : Nat) (v : W32) (e : Sqe) :
    exec (.setEndpointId eid) s = .next s ∧ exec .getEndpointId s = .next s ∧ exec .getEndpointUuid s = .next s
    ∧ exec (.readNvmeMiDataStructure dtyp c) s = .next s ∧ exec (.controllerHealthStatusPoll c) s = .next s
    ∧ exec (.configurationSet cfg v) s = .next s ∧ exec (.configurationGet cfg) s = .next s
    ∧ exec (.nvmeMiAdminCommand c e dlen) s = .next s ∧ exec (.getVersion ver) s = .next s
    ∧ exec (.adminTunnel ver e dlen msgLen) s = .next s := by
  have hmi {k : Nat} {body : State → State} : Host.Outcome.next (s.miCmd k false body) = (.next s : Host.Outcome State Fault Refusal) :=
    congrArg _ (miCmd_down hup)
  have hvendor {k : Nat} {body : State → State} :
      Host.Outcome.next (s.vendorCmd ver k body) = (.next s : Host.Outcome State Fault Refusal) := congrArg _ (vendorCmd_down hup)
  exact ⟨congrArg Host.Outcome.next (if_pos (by rw [Bool.eq_false_iff.2 hup]; rfl)), congrArg Host.Outcome.next (if_neg hup),
    congrArg Host.Outcome.next (if_neg hup), hmi, hmi, hmi, hmi, hmi, hvendor, hvendor⟩

section
variable (hup : s.sideUp = true)
include hup

theorem exec_setEndpointId_eq (eid : Byte) : exec (.setEndpointId eid) s = .next (if eid = 0 ∨ eid = 0xFF then s.controlReply 1 2 []
    else (s.modSide fun x => { x with eid := eid }).controlReply 1 0 [0, eid, 0]) :=
  congrArg Host.Outcome.next (if_neg (by rw [hup]; decide))

theorem exec_setEndpointId_set {eid : Byte} (h0 : eid ≠ 0) (h1 : eid ≠ 0xFF) : exec (.setEndpointId eid) s =
    .next ((s.modSide fun x => { x with eid := eid }).sideSend ([0, 0, BitVec.ofNat 8 1, BitVec.ofNat 8 0] ++ [0, eid, 0])) :=
  (exec_setEndpointId_eq hup eid).trans (congrArg _ ((if_neg (not_or.2 ⟨h0, h1⟩)).trans (if_pos hup)))

theorem exec_setEndpointId_refused {eid : Byte} (h : eid = 0 ∨ eid = 0xFF) : exec (.setEndpointId eid) s =
    .next (s.sideSend ([0, 0, BitVec.ofNat 8 1, BitVec.ofNat 8 2] ++ [])) :=
  (exec_setEndpointId_eq hup eid).trans (congrArg _ ((if_pos h).trans (if_pos hup)))

theorem exec_getMctpVersionSupport_base {ty : Byte} (h : ty = 0 ∨ ty = 0xFF) : ∃ b : Byte, exec (.getMctpVersionSupport ty) s =
    .next (s.drawn.sideSend ([0, 0, BitVec.ofNat 8 4, BitVec.ofNat 8 0] ++ [1, 0xF1, 0xF3, b, 0])) :=
  ⟨BitVec.ofNat 8 (Config.freeNat s.free), congrArg Host.Outcome.next ((if_pos h).trans (if_pos hup))⟩

theorem exec_getMctpVersionSupport_mi : exec (.getMctpVersionSupport 4) s =
    .next (s.sideSend ([0, 0, BitVec.ofNat 8 4, BitVec.ofNat 8 0] ++ [1, 0xF1, 0xF2, 0xFF, 0])) :=
  congrArg Host.Outcome.next (if_pos hup)

theorem exec_getMctpVersionSupport_other {ty : Byte} (h0 : ty ≠ 0) (h4 : ty ≠ 4) (hff : ty ≠ 0xFF) :
    exec (.getMctpVersionSupport ty) s = .next (s.sideSend ([0, 0, BitVec.ofNat 8 4, BitVec.ofNat 8 0x80] ++ [])) :=
  congrArg Host.Outcome.next ((if_neg (not_or.2 ⟨h0, hff⟩)).trans ((if_neg h4).trans (if_pos hup)))

end

end

/-! ## NVMe-MI (R530 to R533) -/

section
variable {s : State}

/-- An answer of the Management Interface with the request in hand. -/
def State.miAnswer (s : State) (status : Nat) (mgmt data : List Byte) : State :=
  s.sideTaken.sideSend (miMessage 1 status mgmt data)

/-- An identifier that is none of the three configurations. -/
theorem unknown_cfg {cfg : Byte} (h : cfg = 0 ∨ 3 < cfg.toNat) : cfg ≠ 1 ∧ cfg ≠ 2 ∧ cfg ≠ 3 :=
  ⟨fun h1 => absurd (h1 ▸ h) (by decide), fun h2 => absurd (h2 ▸ h) (by decide), fun h3 => absurd (h3 ▸ h) (by decide)⟩

theorem healthPoll_taken (hup : s.sideUp = true) (hfree : s.sideRefusal true = none) : ∃ t : State,
    exec .nvmSubsystemHealthStatusPoll s = .next t ∧ t.dev.side.busy = true
    ∧ t.dev.side.ccs = s.dev.side.ccs ||| s.healthBits ∧ t.out.side.length = s.out.side.length + 1 :=
  ⟨_, congrArg Host.Outcome.next (miCmd_taken hup hfree), rfl, rfl, rfl⟩

section
variable (hup : s.sideUp = true) (hfree : s.sideRefusal false = none)
include hup hfree

theorem exec_controllerHealth_absent {c : Nat} (h : c ∉ s.portIds) :
    exec (.controllerHealthStatusPoll c) s = .next (s.miAnswer 0 [0, 0, 0] []) := by
  have hno : (!s.portIds.contains c) = true := by simpa using h
  exact congrArg Host.Outcome.next ((miCmd_taken hup hfree).trans (if_pos hno))

theorem exec_controllerHealth_there {c : Nat} (h : c ∈ s.portIds) : ∃ d : List Byte,
    exec (.controllerHealthStatusPoll c) s = .next (s.miAnswer 0 [0, 0, 1] (leBytes 2 c ++ leBytes 2 (s.cstsReg c) ++ d)) := by
  have hthere : ¬(!s.portIds.contains c) = true := by simpa using h
  refine ⟨leBytes 2 s.kelvin ++ leBytes 1 s.media.percentUsed ++ leBytes 1 s.sparePct ++ [s.dev.warn] ++ List.replicate 7 0,
    congrArg Host.Outcome.next ((miCmd_taken hup hfree).trans ((if_neg hthere).trans ?_))⟩
  simp only [List.append_assoc]
  rfl

theorem exec_readDataStructure_subsystem (c : Nat) : exec (.readNvmeMiDataStructure 0 c) s =
    .next (s.miAnswer 0 (leBytes 2 32 ++ [0]) ([0, 1, 2] ++ List.replicate 29 0)) :=
  congrArg Host.Outcome.next ((miCmd_taken hup hfree).trans (if_pos rfl))

theorem exec_readDataStructure_bad {dtyp : Byte} {c : Nat} (h : 3 < dtyp.toNat ∨ (dtyp = 3 ∧ c ∉ s.portIds)) :
    exec (.readNvmeMiDataStructure dtyp c) s = .next (s.miAnswer 4 [0, 0, 0] []) := by
  have hne {k : Byte} (hk : k.toNat < 3) : dtyp ≠ k := by
    rintro rfl
    rcases h with h | ⟨rfl, -⟩
    · omega
    · exact absurd hk (by decide)
  have hlast : ¬(dtyp = 3 ∧ s.portIds.contains c = true) := by
    rintro ⟨rfl, hc⟩
    rcases h with h | ⟨-, h⟩
    · exact absurd h (by decide)
    · exact h (List.contains_iff_mem.1 hc)
  exact congrArg Host.Outcome.next ((miCmd_taken hup hfree).trans ((if_neg (hne (by decide))).trans
    ((if_neg (hne (by decide))).trans ((if_neg (hne (by decide))).trans (if_neg hlast)))))

theorem exec_readDataStructure_there {dtyp : Byte} {c : Nat} (h : dtyp = 1 ∨ dtyp = 2 ∨ (dtyp = 3 ∧ c ∈ s.portIds)) :
    ∃ d : List Byte, exec (.readNvmeMiDataStructure dtyp c) s = .next (s.miAnswer 0 (leBytes 2 d.length ++ [0]) d) := by
  rcases h with rfl | rfl | ⟨rfl, hc⟩
  · exact ⟨_, congrArg Host.Outcome.next (miCmd_taken hup hfree)⟩
  · exact ⟨_, congrArg Host.Outcome.next (miCmd_taken hup hfree)⟩
  · exact ⟨_, congrArg Host.Outcome.next ((miCmd_taken hup hfree).trans ((if_neg (by decide)).trans
      ((if_neg (by decide)).trans ((if_neg (by decide)).trans (if_pos ⟨rfl, List.contains_iff_mem.2 hc⟩)))))⟩

theorem configurationSet_frequency {cfg : Byte} {v : W32} (hcfg : cfg = 1) (hv : v = 1 ∨ v = 2) : ∃ t : State,
    exec (.configurationSet cfg v) s = .next t ∧ Tbl.get? t.dev.side.cfg 1 = some v ∧ t.dev.side.busy = true :=
  ⟨_, congrArg Host.Outcome.next ((miCmd_taken hup hfree).trans (if_pos ⟨hcfg, hv⟩)), Tbl.get?_set_self .., rfl⟩

theorem configurationSet_health {cfg : Byte} {v : W32} (hcfg : cfg = 2) : ∃ t : State, exec (.configurationSet cfg v) s = .next t
    ∧ t.dev.side.ccs = s.dev.side.ccs - (s.dev.side.ccs &&& v.toNat) ∧ t.dev.side.busy = true :=
  ⟨_, congrArg Host.Outcome.next ((miCmd_taken hup hfree).trans ((if_neg fun h => absurd (hcfg.symm.trans h.1) (by decide)).trans
    (if_pos hcfg))), rfl, rfl⟩

theorem exec_configurationSet_unit {cfg : Byte} {v : W32} (hcfg : cfg = 3) (hv : v = 64) :
    exec (.configurationSet cfg v) s = .next (s.miAnswer 0 [0, 0, 0] []) :=
  congrArg Host.Outcome.next ((miCmd_taken hup hfree).trans ((if_neg fun h => absurd (hcfg.symm.trans h.1) (by decide)).trans
    ((if_neg fun h => absurd (hcfg.symm.trans h) (by decide)).trans (if_pos ⟨hcfg, hv⟩))))

theorem exec_configurationSet_bad {cfg : Byte} {v : W32}
    (h : cfg = 0 ∨ 3 < cfg.toNat ∨ (cfg = 1 ∧ v ≠ 1 ∧ v ≠ 2) ∨ (cfg = 3 ∧ v ≠ 64)) :
    exec (.configurationSet cfg v) s = .next (s.miAnswer 4 [0, 0, 0] []) := by
  have hcases : (cfg = 0 ∨ 3 < cfg.toNat) ∨ (cfg = 1 ∧ v ≠ 1 ∧ v ≠ 2) ∨ (cfg = 3 ∧ v ≠ 64) := or_assoc.2 h
  have hnone : ¬(cfg = 1 ∧ (v = 1 ∨ v = 2)) ∧ cfg ≠ 2 ∧ ¬(cfg = 3 ∧ v = 64) := by
    rcases hcases with hno | ⟨rfl, hv1, hv2⟩ | ⟨rfl, hv⟩
    · obtain ⟨h1, h2, h3⟩ := unknown_cfg hno
      exact ⟨fun h => h1 h.1, h2, fun h => h3 h.1⟩
    · exact ⟨fun h => h.2.elim hv1 hv2, by decide, fun h => absurd h.1 (by decide)⟩
    · exact ⟨fun h => absurd h.1 (by decide), by decide, fun h => hv h.2⟩
  obtain ⟨h1, h2, h3⟩ := hnone
  exact congrArg Host.Outcome.next ((miCmd_taken hup hfree).trans ((if_neg h1).trans ((if_neg h2).trans (if_neg h3))))

theorem exec_configurationGet_frequency {cfg : Byte} (hcfg : cfg = 1) : exec (.configurationGet cfg) s =
    .next (s.miAnswer 0 (leBytes 3 ((Tbl.get? s.dev.side.cfg 1).getD 1).toNat) []) :=
  congrArg Host.Outcome.next ((miCmd_taken hup hfree).trans (if_pos hcfg))

theorem exec_configurationGet_health {cfg : Byte} (hcfg : cfg = 2) :
    exec (.configurationGet cfg) s = .next (s.miAnswer 0 [0, 0, 0] []) := by
  subst hcfg
  exact congrArg Host.Outcome.next (miCmd_taken hup hfree)

theorem exec_configurationGet_unit {cfg : Byte} (hcfg : cfg = 3) :
    exec (.configurationGet cfg) s = .next (s.miAnswer 0 (leBytes 3 64) []) := by
  subst hcfg
  exact congrArg Host.Outcome.next (miCmd_taken hup hfree)

theorem exec_configurationGet_bad {cfg : Byte} (h : cfg = 0 ∨ 3 < cfg.toNat) :
    exec (.configurationGet cfg) s = .next (s.miAnswer 4 [0, 0, 0] []) := by
  obtain ⟨h1, h2, h3⟩ := unknown_cfg h
  exact congrArg Host.Outcome.next ((miCmd_taken hup hfree).trans ((if_neg h1).trans ((if_neg h2).trans (if_neg h3))))

end

section
variable {c dlen : Nat} {e : Sqe} (hup : s.sideUp = true) (hfree : s.sideRefusal false = none)
include hup hfree

theorem exec_nvmeMiAdmin_elsewhere (h : c ≠ s.dev.mgrPort) :
    exec (.nvmeMiAdminCommand c e dlen) s = .next (s.sideTaken.sideSend (miMessage 2 4 [0, 0, 0] [])) :=
  congrArg Host.Outcome.next ((miCmd_taken hup hfree).trans (if_pos h))

section
variable (hmgr : c = s.dev.mgrPort)
include hmgr

theorem exec_nvmeMiAdmin_manager : exec (.nvmeMiAdminCommand c e dlen) s = .next (
    if (!({ s.dev.side with tunnel := false } : Sideband).opcodes.contains e.opc.toNat) = true
      then s.sideTaken.sideSend (miMessage 2 3 [0, 0, 0] [])
    else if tooLong e dlen = true then s.sideTaken.sideSend (miMessage 2 6 [0, 0, 0] [])
    else s.sideTaken.tunnel e false 1) :=
  congrArg Host.Outcome.next ((miCmd_taken hup hfree).trans (if_neg (not_not_intro hmgr)))

theorem exec_nvmeMiAdmin_unknown (h : e.opc.toNat ∉ ({ s.dev.side with tunnel := false } : Sideband).opcodes) :
    exec (.nvmeMiAdminCommand c e dlen) s = .next (s.sideTaken.sideSend (miMessage 2 3 [0, 0, 0] [])) :=
  (exec_nvmeMiAdmin_manager hup hfree hmgr).trans (congrArg _ (if_pos (by simpa using h)))

theorem exec_nvmeMiAdmin_tooLong (h : e.opc.toNat ∈ ({ s.dev.side with tunnel := false } : Sideband).opcodes)
    (hlong : tooLong e dlen = true) :
    exec (.nvmeMiAdminCommand c e dlen) s = .next (s.sideTaken.sideSend (miMessage 2 6 [0, 0, 0] [])) :=
  (exec_nvmeMiAdmin_manager hup hfree hmgr).trans (congrArg _ ((if_neg (by simpa using h)).trans (if_pos hlong)))

theorem exec_nvmeMiAdmin_taken (h : e.opc.toNat ∈ ({ s.dev.side with tunnel := false } : Sideband).opcodes)
    (hfits : tooLong e dlen = false) : exec (.nvmeMiAdminCommand c e dlen) s = .next (s.sideTaken.tunnel e false 1) :=
  (exec_nvmeMiAdmin_manager hup hfree hmgr).trans
    (congrArg _ ((if_neg (by simpa using h)).trans (if_neg (Bool.eq_false_iff.1 hfits))))

end

end

/-- A command taken from the sideband stands until it begins, without its data pointer. -/
theorem tunnel_spec (s : State) (e : Sqe) (vendor : Bool) (ver : Nat) : let t := s.tunnel e vendor ver
    t.dev.side.cmd = some { e with dptr := .prp 0 0 [] } ∧ t.dev.side.tunnel = vendor ∧ t.dev.side.ver = ver
    ∧ t.dev.side.cid = e.cid ∧ t.dev.side.owed = true ∧ t.stands .sideband { e with dptr := .prp 0 0 [] } = true := by
  refine ⟨rfl, rfl, rfl, rfl, rfl, ?_⟩
  exact Bool.and_eq_true_iff.2 ⟨decide_eq_true rfl, rfl⟩

end

/-! ## Vendor messages and held responses (R534 to R536) -/

section
variable {s : State} {ver : Byte}

section
variable (hup : s.sideUp = true) (hfree : s.sideRefusal false = none)
include hup hfree

section
variable {e : Sqe} {dlen msgLen : Nat}

theorem exec_adminTunnel_version (h1 : ver ≠ 1) (h2 : ver ≠ 2) :
    exec (.adminTunnel ver e dlen msgLen) s = .next (s.sideTaken.sideSend (vendorMessage ver 1 2 [1, 2])) :=
  congrArg Host.Outcome.next ((vendorCmd_taken hup hfree).trans (if_pos ⟨h1, h2⟩))

variable (hver : ver = 1 ∨ ver = 2)
include hver

theorem exec_adminTunnel_bad (h : msgLen ≠ 80 + dlen ∨ (tunnelled e = true ∧ dlen ≠ tunnelData e)) :
    exec (.adminTunnel ver e dlen msgLen) s = .next (s.sideTaken.sideSend (vendorMessage ver 1 4 [])) :=
  congrArg Host.Outcome.next ((vendorCmd_taken hup hfree).trans ((if_neg fun hno => hver.elim hno.1 hno.2).trans (if_pos h)))

theorem exec_adminTunnel_taken (hlen : msgLen = 80 + dlen) (h : tunnelled e = false ∨ dlen = tunnelData e) :
    exec (.adminTunnel ver e dlen msgLen) s = .next (s.sideTaken.tunnel e true ver.toNat) := by
  refine congrArg Host.Outcome.next ((vendorCmd_taken hup hfree).trans ((if_neg fun hno => hver.elim hno.1 hno.2).trans (if_neg ?_)))
  rintro (hno | ⟨htunnelled, hdata⟩)
  · exact hno hlen
  · exact h.elim (Bool.eq_false_iff.1 · htunnelled) hdata

end

section
variable (hheld : s.dev.side.held = false)
include hheld

theorem not_readable_of_unheld : ¬(s.sideUp && s.dev.side.held && !s.sideShut false) = true := by
  rw [hheld, Bool.and_false, Bool.false_and]
  exact Bool.false_ne_true

/-- With no response held there is none to read or to release: version 1 does not know the messages. -/
theorem exec_heldMessages_version1 (off len : Nat) (hver : ver = 1) :
    exec (.readResponsePart ver off len) s = .next (s.sideTaken.sideSend (vendorMessage ver 2 3 []))
    ∧ exec (.releaseResponse ver) s = .next (s.sideTaken.sideSend (vendorMessage ver 3 3 [])) :=
  ⟨congrArg Host.Outcome.next ((if_neg (not_readable_of_unheld hup hfree hheld)).trans
      ((vendorCmd_taken hup hfree).trans (if_pos hver))),
    congrArg Host.Outcome.next ((if_neg (not_readable_of_unheld hup hfree hheld)).trans
      ((vendorCmd_taken hup hfree).trans (if_pos hver)))⟩

theorem exec_heldMessages_version2 (off len : Nat) (hver : ver = 2) :
    exec (.readResponsePart ver off len) s = .next (s.sideTaken.sideSend (vendorMessage ver 2 5 []))
    ∧ exec (.releaseResponse ver) s = .next (s.sideTaken.sideSend (vendorMessage ver 3 5 [])) := by
  have hother : ver ≠ 1 := by
    rw [hver]
    decide
  exact ⟨congrArg Host.Outcome.next ((if_neg (not_readable_of_unheld hup hfree hheld)).trans
      ((vendorCmd_taken hup hfree).trans ((if_neg hother).trans (if_neg (not_not_intro hver))))),
    congrArg Host.Outcome.next ((if_neg (not_readable_of_unheld hup hfree hheld)).trans
      ((vendorCmd_taken hup hfree).trans ((if_neg hother).trans (if_neg (not_not_intro hver)))))⟩

end

end

section
variable {off len : Nat} (hheld : s.sideUp = true ∧ s.dev.side.held = true ∧ s.sideShut false = false)
include hheld

theorem readable_of_held : (s.sideUp && s.dev.side.held && !s.sideShut false) = true := by
  obtain ⟨hup, h, hopen⟩ := hheld
  rw [hup, h, hopen]
  rfl

theorem exec_readResponsePart_held : exec (.readResponsePart 2 off len) s = .next (
    if len = 0 ∨ 4096 < len then s.sideSend (vendorMessage 2 2 4 [])
    else if s.dev.side.data.len ≤ off + len then
      (s.sideSend (vendorMessage 2 2 0 (leBytes 4 off ++ (s.dev.side.data.bytes.drop off).take len))).releaseHeld
    else s.sideSend (vendorMessage 2 2 0 (leBytes 4 off ++ (s.dev.side.data.bytes.drop off).take len))) :=
  congrArg Host.Outcome.next (if_pos (readable_of_held hheld))

theorem exec_readResponsePart_bad (hver : ver = 2) (hlen : len = 0 ∨ 4096 < len) :
    exec (.readResponsePart ver off len) s = .next (s.sideSend (vendorMessage ver 2 4 [])) := by
  subst hver
  exact (exec_readResponsePart_held hheld).trans (congrArg _ (if_pos hlen))

theorem exec_readResponsePart_part (hver : ver = 2) (h0 : 0 < len) (hmax : len ≤ 4096) (h : off + len < s.dev.side.data.len) :
    exec (.readResponsePart ver off len) s =
      .next (s.sideSend (vendorMessage ver 2 0 (leBytes 4 off ++ (s.dev.side.data.bytes.drop off).take len))) := by
  subst hver
  exact (exec_readResponsePart_held hheld).trans (congrArg _ ((if_neg (by omega)).trans (if_neg (Nat.not_le.2 h))))

theorem exec_readResponsePart_last (hver : ver = 2) (h0 : 0 < len) (hmax : len ≤ 4096) (h : s.dev.side.data.len ≤ off + len) :
    exec (.readResponsePart ver off len) s =
      .next (s.sideSend (vendorMessage ver 2 0 (leBytes 4 off ++ (s.dev.side.data.bytes.drop off).take len))).releaseHeld := by
  subst hver
  exact (exec_readResponsePart_held hheld).trans (congrArg _ ((if_neg (by omega)).trans (if_pos h)))

theorem exec_releaseResponse_held (hver : ver = 2) :
    exec (.releaseResponse ver) s = .next (s.sideSend (vendorMessage ver 3 0 [])).releaseHeld := by
  subst hver
  exact congrArg Host.Outcome.next (if_pos (readable_of_held hheld))

theorem exec_releaseResponse_version1 (hver : ver = 1) :
    exec (.releaseResponse ver) s = .next (s.sideSend (vendorMessage ver 3 3 [])) := by
  subst hver
  exact congrArg Host.Outcome.next (if_pos (readable_of_held hheld))

end

/-! ## The end of a response (R528, R535, R536) -/

theorem exec_sidebandResponseSent_idle (h : s.dev.side.busy = false ∨ s.dev.side.cmd ≠ none ∨ s.dev.side.held = true) :
    exec .sidebandResponseSent s = .next s := by
  refine congrArg Host.Outcome.next (if_pos ?_)
  simpa [Option.isSome_iff_ne_none, or_assoc] using h

section
variable (hbusy : s.dev.side.busy = true) (hcmd : s.dev.side.cmd = none) (hheld : s.dev.side.held = false)
include hbusy hcmd hheld

theorem exec_sidebandResponseSent_eq : exec .sidebandResponseSent s =
    .next (if s.dev.side.owed = true then s.sideResult else s.modSide fun y => { y with busy := false }) :=
  congrArg Host.Outcome.next (if_neg (by rw [hbusy, hcmd, hheld]; decide))

theorem exec_sidebandResponseSent_ends (h : s.dev.side.owed = false) :
    exec .sidebandResponseSent s = .next (s.modSide fun y => { y with busy := false }) :=
  (exec_sidebandResponseSent_eq hbusy hcmd hheld).trans (congrArg _ (if_neg (Bool.eq_false_iff.1 h)))

theorem exec_sidebandResponseSent_owed (h : s.dev.side.owed = true) : exec .sidebandResponseSent s = .next s.sideResult :=
  (exec_sidebandResponseSent_eq hbusy hcmd hheld).trans (congrArg _ (if_pos h))

end

/-- The response of a command is sent once; a version 2 tunnel holds the data that a good one returned. -/
theorem sideResult_spec (s : State) : let x := s.dev.side
    s.sideResult.dev.side.owed = false ∧ s.sideResult.out.side.length = s.out.side.length + 1
    ∧ (x.tunnel = false ∨ x.ver ≠ 2 → s.sideResult.dev.side.busy = false ∧ s.sideResult.dev.side.held = false)
    ∧ (x.tunnel = true → x.ver = 2 → x.sct = 0 → x.sc = 0 → x.data.bytes ≠ [] →
        s.sideResult.dev.side.held = true ∧ s.sideResult.dev.side.busy = true) := by
  refine ⟨rfl, rfl, fun h => ?_, fun htunnel hver hsct hsc hdata => ?_⟩
  · have hnot (b : Bool) : (s.dev.side.tunnel && decide (s.dev.side.ver = 2) && b) = false := by
      rcases h with h | h
      · rw [h, Bool.false_and, Bool.false_and]
      · rw [decide_eq_false h, Bool.and_false, Bool.false_and]
    exact ⟨hnot _, hnot _⟩
  · have hkept : (s.dev.side.tunnel && decide (s.dev.side.ver = 2)
        && !(if (decide (s.dev.side.sct = 0) && decide (s.dev.side.sc = 0)) = true then s.dev.side.data.bytes else []).isEmpty) = true := by
      simpa [htunnel, hver, hsct, hsc] using hdata
    exact ⟨hkept, hkept⟩

end

/-- Settles O52: packets and control commands, then the one-command rule, NVMe-MI, the vendor messages and the response's end. -/
theorem sidebandRequestsAreAnswered : Obligations.SidebandRequestsAreAnswered := by
  intro s ty src eid cfg ver dtyp som eom pec tag sq bytes addr c off len dlen msgLen v e r x side up go reply control free_ turned shut
    bad holds before packet foreign whole byte ends taken admin tun vendor heldSays knows
  refine ⟨exec_packet_foreign, messageGood_iff bytes, ?control, ?mi, ?vendor, ?packet, fun h => congrArg Host.Outcome.next (if_neg
      (Bool.eq_false_iff.1 h)), fun h => congrArg Host.Outcome.next (if_pos h),
    fun h => ⟨_, exec_packet_native h, (packetHeard_side _).2.2⟩, exec_i3cDynamicAddressAssignment_set,
    exec_i3cDynamicAddressAssignment_held, fun hup => exec_setEndpointId_set hup, fun hup => exec_setEndpointId_refused hup,
    fun hup => ⟨congrArg Host.Outcome.next (if_pos hup), congrArg Host.Outcome.next (if_pos hup),
      congrArg Host.Outcome.next (if_pos hup), congrArg Host.Outcome.next (if_pos hup)⟩,
    fun hup hty => hty ▸ exec_getMctpVersionSupport_mi hup, fun hup => exec_getMctpVersionSupport_base hup,
    fun hup => exec_getMctpVersionSupport_other hup,
    fun hup => exec_sideband_down hup eid dtyp cfg ver c dlen msgLen v e, sideRefusal_of_busy, sideRefusal_of_shut,
    fun hup hr => ?refused, fun hup hr => congrArg Host.Outcome.next (miCmd_refused hup hr), healthPoll_taken,
    fun hf => exec_controllerHealth_absent hf.1 hf.2, fun hf => exec_controllerHealth_there hf.1 hf.2,
    fun hf hd => hd ▸ exec_readDataStructure_subsystem hf.1 hf.2 c, fun hf => exec_readDataStructure_bad hf.1 hf.2,
    fun hf => exec_readDataStructure_there hf.1 hf.2, fun hf => configurationSet_frequency hf.1 hf.2,
    fun hf => configurationSet_health hf.1 hf.2, fun hf => exec_configurationSet_unit hf.1 hf.2,
    fun hf => exec_configurationSet_bad hf.1 hf.2, fun hf => exec_configurationGet_frequency hf.1 hf.2, fun hf => exec_configurationGet_health hf.1 hf.2,
    fun hf => exec_configurationGet_unit hf.1 hf.2, fun hf => exec_configurationGet_bad hf.1 hf.2,
    fun hf => exec_nvmeMiAdmin_elsewhere hf.1 hf.2, fun hf => exec_nvmeMiAdmin_unknown hf.1 hf.2,
    fun hf => exec_nvmeMiAdmin_tooLong hf.1 hf.2, fun hf => exec_nvmeMiAdmin_taken hf.1 hf.2, ⟨_, rfl, tunnel_spec go e true 2⟩,
    fun hf => congrArg Host.Outcome.next (vendorCmd_taken hf.1 hf.2), fun hf => exec_adminTunnel_version hf.1 hf.2,
    fun hf => exec_adminTunnel_bad hf.1 hf.2, fun hf => exec_adminTunnel_taken hf.1 hf.2,
    fun hf hheld => exec_heldMessages_version1 hf.1 hf.2 hheld off len, fun hf hheld => exec_heldMessages_version2 hf.1 hf.2 hheld off len,
    exec_readResponsePart_bad, exec_readResponsePart_part, exec_readResponsePart_last, exec_releaseResponse_held,
    exec_releaseResponse_version1, fun h => congrArg Host.Outcome.next (if_neg (Bool.eq_false_iff.1 h)),
    fun h => congrArg Host.Outcome.next (if_pos h), ⟨rfl, rfl, rfl⟩, exec_sidebandResponseSent_idle, exec_sidebandResponseSent_ends,
    fun hbusy hcmd hheld howed => ⟨_, exec_sidebandResponseSent_owed hbusy hcmd hheld howed, sideResult_spec s⟩⟩
  case control =>
    rintro ⟨hup, hpec, hsom, heom, hlen, hgood⟩ h0 hreq hcmd
    rw [exec_packet_whole hup hpec hsom heom hlen hgood]
    exact congrArg _ (otherRequest_control hup h0 hreq hcmd)
  case mi =>
    rintro ⟨hup, hpec, hsom, heom, hlen, hgood⟩ h0 hmi hop hfree
    rw [exec_packet_whole hup hpec hsom heom hlen hgood]
    exact congrArg _ (otherRequest_mi hup hfree h0 hmi hop)
  case vendor =>
    rintro ⟨hup, hpec, hsom, heom, hlen, hgood⟩ h0 h1 h2 hver h5 hcmd hfree
    rw [exec_packet_whole hup hpec hsom heom hlen hgood]
    exact congrArg _ (otherRequest_vendor hup hfree h0 h1 h2 hver h5 hcmd)
  case packet =>
    intro hnative
    obtain ⟨hseq, hparts, -⟩ := packetHeard_side (s := s) (src := src) (eom := eom) (sq := sq) (tag := tag)
      (s.packetKeep som pec sq bytes)
    refine ⟨_, exec_packet_native hnative, hseq, fun heom => hparts.trans (if_pos heom),
      fun b hup hpec hlen hbefore hlimit => ?_, fun hdropped => ?_⟩
    · rw [packetKeep_of_next hup hpec hlen hbefore hlimit] at hparts ⊢
      exact ⟨fun heom => hparts.trans (if_neg (Bool.eq_false_iff.1 heom)), packetHeard_rx_whole, packetHeard_rx_part⟩
    · rw [packetKeep_of_dropped hdropped] at hparts ⊢
      exact ⟨hparts.trans (ite_self _), rfl⟩
  case refused =>
    have hmi {k : Nat} {body : State → State} : Host.Outcome.next (s.miCmd k false body)
        = (.next (turned k) : Host.Outcome State Fault Refusal) := congrArg _ (miCmd_refused hup hr)
    have hvendor {k : Nat} {body : State → State} : Host.Outcome.next (s.vendorCmd ver k body)
        = (.next (shut k) : Host.Outcome State Fault Refusal) := congrArg _ (vendorCmd_refused hup hr)
    exact ⟨hmi, hmi, hmi, hmi, hmi, hvendor, hvendor⟩

end Sys2Proof.Machine
end

section
/-! The invariant of the block (R81 to R83, R245, R393, R439, R447, R484, R498, R500): every step keeps it. -/

namespace Sys2Proof.Machine

/-- A command leaves a sound state sound: `exec_keep`, of the invariant alone. -/
theorem exec_sound {c : Instr} {s t : State} (hs : s.sound) (h : exec c s = .next t) : t.sound := by
  have hkeep : Keep s.pending True False (nextOr (exec c s) s) := exec_keep c ⟨rfl, fun _ => hs, False.elim⟩
  rw [h] at hkeep
  exact hkeep.2.1 trivial

/-- Settles O55: a step idles, or runs the front command on a state that differs in its queue, which no part of the invariant
reads. -/
theorem everyStepKeepsTheStateSound : Obligations.EveryStepKeepsTheStateSound := by
  intro s t hs h
  unfold step at h
  split at h
  · exact Host.Outcome.next.inj h ▸ hs
  next c rest _ =>
    have hrest : State.sound { s with pending := rest } := hs
    exact exec_sound hrest h

end Sys2Proof.Machine
end

section
/-! Device Self-test (R56): its start, its abort and its end. -/

namespace Sys2Proof.Machine

/-- The end of a test puts its result before those of the last 19. -/
theorem endTest_running {s : State} {stc : Nat} {src : Src} (h : s.dev.test = some (stc, src)) (result : Nat) :
    s.endTest result = { s with dev := { s.dev with
      test := none, results := ((⟨stc, result, s.dev.smart.piers⟩ : TestResult) :: s.dev.results).take 20 } } := by
  rw [State.endTest, h]

theorem endTest_idle {s : State} (h : s.dev.test = none) (result : Nat) : s.endTest result = s := by
  rw [State.endTest, h]

section
variable {s : State} {q : Src} {e : Sqe} (hadmin : s.AdminOk q e 0x14 onManager)
include hadmin

/-- Every code but Fh is this row's. -/
theorem exec_deviceSelfTest (h : e.cdw10.toNat % 16 ≠ 15) : exec (.deviceSelfTest q e) s = .next (
    let b := s.begin q e.cid
    if e.cdw10.toNat % 16 ≠ 1 ∧ e.cdw10.toNat % 16 ≠ 2 then b.fail q e.cid 0 scInvalidField
    else if b.dev.test.isSome then b.fail q e.cid 1 0x1D
    else State.succeed { b with dev := { b.dev with test := some (e.cdw10.toNat % 16, q) } } q e.cid) :=
  congrArg Host.Outcome.next ((if_neg h).trans (admin_eq _ _ _ _ _ _ hadmin))

/-- The code Fh ends what runs. -/
theorem exec_deviceSelfTestAbort (h : e.cdw10.toNat % 16 = 15) : exec (.deviceSelfTestAbort q e) s =
    .next (((s.begin q e.cid).endTest 1).succeed q e.cid) :=
  congrArg Host.Outcome.next ((if_neg (not_not_intro h)).trans (admin_eq _ _ _ _ _ _ hadmin))

end

/-- Settles O36: a start is by its code and whether a test runs, and an abort or a completion is the end of the test. -/
theorem selfTestsStartAndEnd : Obligations.SelfTestsStartAndEnd := by
  intro s q src e stc passed b put ended
  refine ⟨fun hadmin hcode => ?start, fun hadmin hcode => ?other, fun hadmin hcode => ?abort, fun hrun => ?ended⟩
  case start =>
    have hexec := exec_deviceSelfTest hadmin (by omega)
    have hgood : ¬(e.cdw10.toNat % 16 ≠ 1 ∧ e.cdw10.toNat % 16 ≠ 2) := by omega
    refine ⟨fun hidle => hexec.trans (congrArg _ ((if_neg hgood).trans (if_neg ?_))),
      fun hrun => hexec.trans (congrArg _ ((if_neg hgood).trans (if_pos ?_)))⟩
    · rw [hidle]
      decide
    · exact Option.isSome_iff_ne_none.2 hrun
  case other =>
    simp only [List.mem_cons, List.not_mem_nil, or_false, not_or] at hcode
    obtain ⟨h1, h2, h15⟩ := hcode
    exact (exec_deviceSelfTest hadmin h15).trans (congrArg _ (if_pos ⟨h1, h2⟩))
  case abort =>
    have hexec := exec_deviceSelfTestAbort hadmin hcode
    refine ⟨fun hrun => ?_, fun hidle => ?_⟩
    · rwa [endTest_running hrun] at hexec
    · rwa [endTest_idle hidle] at hexec
  case ended => exact congrArg Host.Outcome.next (endTest_running hrun _)

end Sys2Proof.Machine
end

section
/-! Doorbells (R46, R50, R82): the exit from PS3 or PS4 comes first, then the queue that the doorbell names. -/

namespace Sys2Proof.Machine

/-! ## The exit (R82) -/

theorem setPs_host (s : State) (n : Nat) : (s.setPs n).host = s.host := by
  unfold State.setPs
  split
  · exact State.dramSleep_host s
  · exact State.dramWake_host s

theorem psExit_host (s : State) : s.psExit.host = s.host := by
  unfold State.psExit
  split
  · exact setPs_host ..
  · split <;> rfl

theorem psExit_ctrl (s : State) (i : Nat) : s.psExit.ctrl i = s.ctrl i := by
  rw [State.ctrl, psExit_host, State.ctrl]

theorem psExit_of_nonOperational {s : State} (h : 3 ≤ s.dev.ps) : s.psExit = s.setPs s.dev.psOper := if_pos h

theorem psExit_of_idle {s : State} (h : s.dev.ps < 3) (hidle : s.keepsAwake = false) :
    s.psExit = { s with dev := { s.dev with psNext := none } } := by
  rw [State.psExit, if_neg (Nat.not_le.2 h), if_neg (by simp [hidle])]

/-! ## The queue (R46, R50) -/

section
variable {s : State} {i n : Nat} (hopen : s.doorbellOpen i = true) (hn : n ≤ 64)
include hopen hn

theorem doorbell_taken : ¬(!s.doorbellOpen i || decide (64 < n)) = true := by
  simp [hopen, hn]

theorem exec_sqTailDoorbell_none (h : Tbl.get? (s.ctrl i).sqs n = none) (v : W32) :
    exec (.sqTailDoorbell i n v) s = .next (s.psExit.raiseEvent i ⟨0, 0, 1⟩) := by
  rw [exec, execSqTailDoorbell, if_neg (doorbell_taken hopen hn)]
  simp only [psExit_ctrl, h]

theorem exec_sqTailDoorbell_some {x : Sq} (h : Tbl.get? (s.ctrl i).sqs n = some x) (v : W32) :
    exec (.sqTailDoorbell i n v) s = .next (if x.size ≤ v.toNat % 65536 then s.psExit.raiseEvent i ⟨0, 1, 1⟩
      else s.psExit.modSq i n fun x => { x with tail := v.toNat % 65536 }) := by
  rw [exec, execSqTailDoorbell, if_neg (doorbell_taken hopen hn)]
  simp only [psExit_ctrl, h]

theorem exec_cqHeadDoorbell_none (h : Tbl.get? (s.ctrl i).cqs n = none) (v : W32) :
    exec (.cqHeadDoorbell i n v) s = .next (s.psExit.raiseEvent i ⟨0, 0, 1⟩) := by
  rw [exec, execCqHeadDoorbell, if_neg (doorbell_taken hopen hn)]
  simp only [psExit_ctrl, h]

theorem exec_cqHeadDoorbell_some {x : Cq} (h : Tbl.get? (s.ctrl i).cqs n = some x) (v : W32) :
    exec (.cqHeadDoorbell i n v) s = .next (if x.size ≤ v.toNat % 65536 then s.psExit.raiseEvent i ⟨0, 1, 1⟩
      else (s.psExit.modCtrl i fun c => { c with cqs := Tbl.set c.cqs n { x with head := v.toNat % 65536 } }).drainCqes i) := by
  rw [exec, execCqHeadDoorbell, if_neg (doorbell_taken hopen hn)]
  simp only [psExit_ctrl, h]

end

/-- Settles O25: a doorbell of an open controller is by its queue and that queue's size, after the exit. -/
theorem doorbellsMoveTheirQueue : Obligations.DoorbellsMoveTheirQueue := by
  intro s i n v sq cq hopen hn m
  refine ⟨fun hsq => ⟨fun hin => ?_, fun hpast => ?_⟩, fun hcq => ⟨fun hin => ?_, fun hpast => ?_⟩,
    fun hnone => exec_sqTailDoorbell_none hopen hn hnone v, fun hnone => exec_cqHeadDoorbell_none hopen hn hnone v,
    fun hps => ?_, fun hps hidle => ?_⟩
  · exact (exec_sqTailDoorbell_some hopen hn hsq v).trans (congrArg _ (if_neg (Nat.not_le.2 hin)))
  · exact (exec_sqTailDoorbell_some hopen hn hsq v).trans (congrArg _ (if_pos hpast))
  · exact (exec_cqHeadDoorbell_some hopen hn hcq v).trans (congrArg _ (if_neg (Nat.not_le.2 hin)))
  · exact (exec_cqHeadDoorbell_some hopen hn hcq v).trans (congrArg _ (if_pos hpast))
  · rw [psExit_of_nonOperational hps]
    exact ⟨rfl, rfl⟩
  · rw [psExit_of_idle hps hidle]
    exact ⟨rfl, rfl⟩

end Sys2Proof.Machine
end

section
/-! The fetch of entries (R53, R102): whose turn it is, and what the fetch of the entry leaves. -/

namespace Sys2Proof.Machine

/-! ## The queue of a controller (R53) -/

/-- A number among the queues that wait is that of a queue with an entry. -/
theorem waits_of_mem {t : Tbl Sq} {n : Nat} (h : n ∈ (t.filter fun q => q.2.waits).map (·.1)) :
    ∃ y, (n, y) ∈ t ∧ y.head ≠ y.tail := by
  obtain ⟨⟨m, y⟩, hmem, rfl⟩ := List.mem_map.1 h
  obtain ⟨hmem, hwaits⟩ := List.mem_filter.1 hmem
  exact ⟨y, hmem, of_decide_eq_true hwaits⟩

/-- The queue picked waits; it goes on with its burst, or begins its turn. -/
theorem pickSq_eq_some {c : Ctrl} {n k : Nat} (h : c.pickSq = some (n, k)) :
    n ∈ (c.sqs.filter fun q => q.2.waits).map (·.1) ∧ (k = 1 ∨ (n = c.turn ∧ k = c.taken + 1 ∧ c.taken < c.burst)) := by
  unfold Ctrl.pickSq at h
  extract_lets waiting at h
  split at h
  next hturn =>
    obtain ⟨hmem, hburst⟩ := Bool.and_eq_true _ _ ▸ hturn
    obtain ⟨rfl, rfl⟩ := Prod.mk.inj (Option.some.inj h)
    exact ⟨List.contains_iff_mem.1 hmem, .inr ⟨rfl, rfl, of_decide_eq_true hburst⟩⟩
  next =>
    split at h
    next m hfind =>
      obtain ⟨rfl, rfl⟩ := Prod.mk.inj (Option.some.inj h)
      exact ⟨List.mem_of_find?_eq_some hfind, .inl rfl⟩
    next =>
      obtain ⟨m, hhead, hm⟩ := Option.map_eq_some_iff.1 h
      obtain ⟨rfl, rfl⟩ := Prod.mk.inj hm
      exact ⟨List.mem_of_head? hhead, .inl rfl⟩

/-! ## The controller (R102) -/

/-- The slice kept of two at the arbiter of the fetch. -/
def State.fetchBetter (s : State) (b : Option Nat) (p : Nat × Slice) : Option Nat :=
  match b with
  | none => some p.1
  | some y => if s.fetchBefore s.host.lastFetch p.1 y then some p.1 else some y

/-- What the arbiter keeps is what it began with or one of the slices it was offered. -/
theorem mem_of_foldl_fetchBetter {s : State} {l : List (Nat × Slice)} {b : Option Nat} {n : Nat}
    (h : l.foldl s.fetchBetter b = some n) : b = some n ∨ ∃ p ∈ l, p.1 = n := by
  induction l generalizing b with
  | nil => exact .inl h
  | cons p l ih =>
    rcases ih h with hb | ⟨x, hx, hn⟩
    · unfold State.fetchBetter at hb
      split at hb
      · exact .inr ⟨p, List.mem_cons_self .., Option.some.inj hb⟩
      · split at hb
        · exact .inr ⟨p, List.mem_cons_self .., Option.some.inj hb⟩
        · exact .inl hb
    · exact .inr ⟨x, List.mem_cons_of_mem _ hx, hn⟩

/-- A port comes before the slices, and the slice is the arbiter's. -/
theorem pickCtrl_eq (s : State) : s.pickCtrl = ((List.range (splitPorts s.dev.split)).find? s.fetchable).or
    (((s.host.slices.filter fun p => s.fetchable (sliceCtrl p.1)).foldl s.fetchBetter none).map sliceCtrl) := by
  unfold State.pickCtrl
  cases (List.range (splitPorts s.dev.split)).find? s.fetchable <;> rfl

theorem fetchable_of_pickCtrl {s : State} {i : Nat} (h : s.pickCtrl = some i) : s.fetchable i = true := by
  rw [pickCtrl_eq, Option.or_eq_some_iff] at h
  rcases h with hport | ⟨-, hslice⟩
  · exact List.find?_some hport
  · obtain ⟨n, hfold, rfl⟩ := Option.map_eq_some_iff.1 hslice
    rcases mem_of_foldl_fetchBetter hfold with hnone | ⟨p, hp, rfl⟩
    · cases hnone
    · exact (List.mem_filter.1 hp).2

/-- The lowest port with an entry is picked. -/
theorem pickCtrl_of_port {s : State} {p : Nat} (hp : p < splitPorts s.dev.split) (hfetch : s.fetchable p = true)
    (hlow : ∀ m, m < p → s.fetchable m = false) : s.pickCtrl = some p := by
  have hfind : (List.range (splitPorts s.dev.split)).find? s.fetchable = some p :=
    List.find?_range_eq_some.2 ⟨hfetch, List.mem_range.2 hp, fun m hm => by simp [hlow m hm]⟩
  rw [pickCtrl_eq, hfind, Option.some_or]

/-! ## The fetch (R53, R257) -/

/-- A request changes what has been sent alone. -/
theorem request_host (s : State) (read : Bool) (port : Nat) (sl : Option Nat) (a n : Nat) (data : Bool) :
    (s.request read port sl a n data).host = s.host := by
  refine foldl_keeps State.host (fun t p => ?_) _ s
  unfold State.sendReq
  extract_lets o k
  split
  · rfl
  · split <;> rfl

theorem actLow_host (s : State) : s.actLow.host = s.host := by
  unfold State.actLow
  split <;> rfl

/-- The turn of queue `n` of controller `i`, and the slice that had the arbiter. -/
def State.takeTurn (s : State) (i n k : Nat) : State :=
  let t := s.modCtrl i fun c => { c with turn := n, taken := k }
  match ctrlSlice i with
  | some sl => { t with host := { t.host with lastFetch := sl } }
  | none => t

theorem takeTurn_ctrl (s : State) (i n k : Nat) : (s.takeTurn i n k).ctrl i = { s.ctrl i with turn := n, taken := k } := by
  have h := ctrl_mod s i fun c => { c with turn := n, taken := k }
  unfold State.takeTurn
  extract_lets t
  split
  · exact h
  · exact h

theorem exec_sqEntryFetch_picked {s : State} {i n k : Nat} {x : Sq} (hctrl : s.pickCtrl = some i)
    (hsq : (s.ctrl i).pickSq = some (n, k)) (hx : Tbl.get? (s.ctrl i).sqs n = some x) (e : Sqe) :
    exec (.sqEntryFetch e) s = .next (((s.request true (s.ctrlPort i) (ctrlSlice i)
      (x.base + BitVec.ofNat 64 (64 * x.head)).toNat 64 false).takeTurn i n k).fetchEntry i n e) := by
  rw [exec, execSqEntryFetch, hctrl]
  simp only [hsq, hx]
  rfl

/-- The entry is in hand unless its CID is. -/
theorem fetchEntry_some {s : State} {i n : Nat} {x : Sq} (hx : Tbl.get? (s.ctrl i).sqs n = some x) (e : Sqe) :
    s.fetchEntry i n e = (
      let clash : Bool := x.fetched.any fun f => f.e.cid = e.cid
      let t := s.actLow.modSq i n fun y => { y with
        head := (y.head + 1) % y.size
        sealing := y.sealing.map fun z => { z with cseq := z.cseq + 1 }
        fetched := y.fetched ++ if clash then [] else [{ e := e, slot := x.head, cseq := x.sealing.map (·.cseq) }] }
      if clash then (t.logError i n e.cid 0 3 e.nsid.toNat 0).post ⟨i, x.cqid, n, e.cid, 0, 3, 0, 0⟩ else t) := by
  rw [State.fetchEntry, hx]
  cases h : x.fetched.any fun f => f.e.cid = e.cid
  · simp [h]
  · simp [h]

/-- Settles O26: the arbiters' picks, then the entry taken from the queue picked, and the opcode that no row takes. -/
theorem entriesAreFetchedInTurn : Obligations.EntriesAreFetchedInTurn := by
  intro s i n k x q e c asked turned noted taken
  refine ⟨fun hctrl hsq hx => ?fetched, fetchable_of_pickCtrl, fun p => pickCtrl_of_port, fun hsq => ?queue,
    fun hstands hsup => ?unsupported⟩
  case fetched =>
    have hturn : Tbl.get? ((asked.takeTurn i n k).ctrl i).sqs n = some x := by
      rw [takeTurn_ctrl, State.ctrl, request_host]
      exact hx
    have hexec := exec_sqEntryFetch_picked hctrl hsq hx e
    rw [fetchEntry_some hturn] at hexec
    refine ⟨fun hfresh => ?_, fun hclash => ?_⟩
    · have hno : (x.fetched.any fun f => decide (f.e.cid = e.cid)) = false := by simpa using hfresh
      rw [hno] at hexec
      exact hexec
    · have hyes : (x.fetched.any fun f => decide (f.e.cid = e.cid)) = true := by simpa using hclash
      rw [hyes] at hexec
      exact hexec
  case queue =>
    obtain ⟨hmem, hturn⟩ := pickSq_eq_some hsq
    exact ⟨waits_of_mem hmem, hturn⟩
  case unsupported =>
    exact congrArg Host.Outcome.next ((if_neg (by simp [hstands])).trans (if_pos (by simp [hsup])))

end Sys2Proof.Machine
end

section
/-! Controllers enabled, disabled and shut down (R48, R49, R69, R70, R97). -/

namespace Sys2Proof.Machine

/-! ## What the deletion of queues keeps (R66, R69) -/

theorem Kept.rfl {i : Nat} {s : State} : Kept i s s :=
  ⟨Eq.refl _, Eq.refl _, Eq.refl _, Eq.refl _, Eq.refl _, Eq.refl _, Eq.refl _, Eq.refl _, Eq.refl _, Eq.refl _⟩

theorem Kept.trans {i : Nat} {s t u : State} (h : Kept i s t) (g : Kept i t u) : Kept i s u :=
  ⟨g.ctrl.trans h.ctrl, g.sq.trans h.sq, g.cq.trans h.cq, g.sl.trans h.sl, g.ns.trans h.ns, g.bil.trans h.bil,
    g.slots.trans h.slots, g.loc.trans h.loc, g.met.trans h.met, g.rel.trans h.rel⟩

theorem foldl_kept {α : Type} {i : Nat} {f : State → α → State} (hf : ∀ s x, Kept i s (f s x)) (l : List α) (s : State) :
    Kept i s (l.foldl f s) := by
  induction l generalizing s with
  | nil => exact Kept.rfl
  | cons x l ih => exact (hf s x).trans (ih (f s x))

theorem dropWork_kept (i : Nat) (s : State) (q : Src) (cid : W16) : Kept i s (s.dropWork q cid) :=
  ⟨rfl, rfl, rfl, rfl, rfl, rfl, rfl, rfl, rfl, rfl⟩

/-- The deletion of a queue leaves its controller but for the queue and the completions that wait. -/
theorem discardQueue_kept (i : Nat) (s : State) (n : Nat) : Kept i s (s.discardQueue i n) := by
  unfold State.discardQueue
  extract_lets cmds t cpu paused u
  have hdrop : Kept i s t := foldl_kept (fun s f => dropWork_kept i s _ f.e.cid) cmds s
  have hruns : Kept i t u := ⟨rfl, rfl, rfl, rfl, rfl, rfl, rfl, rfl, rfl, rfl⟩
  refine (hdrop.trans hruns).trans ⟨?_, rfl, rfl, rfl, rfl, rfl, rfl, rfl, rfl, rfl⟩
  rw [ctrl_mod]

/-- A controller right after its reset: AQA, ASQ, ACQ and CC but EN stay (R69). -/
def Ctrl.afterReset (c : Ctrl) : Ctrl :=
  { iocqes := c.iocqes, iosqes := c.iosqes, shn := c.shn, ams := c.ams, mps := c.mps, css := c.css
    aqa := c.aqa, asq := c.asq, acq := c.acq }

/-- A reset is the deletion of every queue, then the return of the reservation. -/
theorem ctrlReset_eq (s : State) (i : Nat) : ∃ t, Kept i s t ∧ s.ctrlReset i =
    State.setCtrl { t with host := { t.host with
      poolSq := t.host.poolSq + (t.ctrl i).grantSq, poolCq := t.host.poolCq + (t.ctrl i).grantCq } } i (t.ctrl i).afterReset :=
  ⟨_, foldl_kept (discardQueue_kept i) _ s, rfl⟩

/-- What a reset leaves. -/
structure ResetOf (i : Nat) (s t : State) : Prop where
  ctrl : t.ctrl i = (s.ctrl i).afterReset
  sq : t.host.poolSq = s.host.poolSq + (s.ctrl i).grantSq
  cq : t.host.poolCq = s.host.poolCq + (s.ctrl i).grantCq
  slices : t.host.slices = s.host.slices
  ns : t.media.ns = s.media.ns
  billets : t.cpu.billets = s.cpu.billets
  slots : t.hm.slots = s.hm.slots
  locals : t.dram.locals = s.dram.locals
  meter : t.meter = s.meter
  rel : t.rel = s.rel

theorem ctrlReset_resetOf (s : State) (i : Nat) : ResetOf i s (s.ctrlReset i) := by
  obtain ⟨t, hkept, heq⟩ := ctrlReset_eq s i
  rw [heq]
  have hafter : (t.ctrl i).afterReset = (s.ctrl i).afterReset := (congrArg Ctrl.afterReset hkept.ctrl :)
  have hsq : (t.ctrl i).grantSq = (s.ctrl i).grantSq := (congrArg Ctrl.grantSq hkept.ctrl :)
  have hcq : (t.ctrl i).grantCq = (s.ctrl i).grantCq := (congrArg Ctrl.grantCq hkept.ctrl :)
  exact ⟨(setCtrl_ctrl ..).trans hafter, congrArg₂ _ hkept.sq hsq, congrArg₂ _ hkept.cq hcq, hkept.sl, hkept.ns, hkept.bil,
    hkept.slots, hkept.loc, hkept.met, hkept.rel⟩

/-! ## The writes of CC -/

section
variable {s : State} {i : Nat} {v : W32}

/-- Of an enable, the first choice of SLICE.VER.SEL (R97). -/
def State.pickVersion (s : State) (i : Nat) : State :=
  match ctrlSlice i with
  | some sl => s.modSlice sl fun x => { x with verSel := if x.verSel = 0 then 1 else x.verSel }
  | none => s

theorem pickVersion_ctrl (s : State) (i j : Nat) : (s.pickVersion i).ctrl j = s.ctrl j := by
  unfold State.pickVersion
  split <;> rfl

theorem pickVersion_rel (s : State) (i : Nat) : (s.pickVersion i).rel = s.rel := by
  unfold State.pickVersion
  split <;> rfl

theorem pickVersion_dev (s : State) (i : Nat) : (s.pickVersion i).dev = s.dev := by
  unfold State.pickVersion
  split <;> rfl

/-- An enable once its version is picked. -/
def State.enableCc (s : State) (i : Nat) (v : W32) : State :=
  let c := { (s.ctrl i).withCc v with en := true }
  if !s.ccValid i c || s.rel.fault then s.setCtrl i { c with cfs := true }
  else State.setCtrl { s with dev := { s.dev with pwr := { s.dev.pwr with shut := false } } } i { c with
    rdy := s.dev.pwr.phase = 5, shst := if c.notified then 1 else 0, sqs := [(0, c.adminSq)], cqs := [(0, c.adminCq)] }

theorem exec_ccEnEnable (hopen : s.ctrlOpen i = true) (hen : (s.ctrl i).en = false) (hv : v.getLsbD 0 = true) :
    exec (.ccEnEnable i v) s = .next ((s.pickVersion i).enableCc i v) := by
  have hgoes : ¬(!s.ctrlOpen i || (s.ctrl i).en || !v.getLsbD 0) = true := by
    rw [hopen, hen, hv]
    decide
  exact congrArg Host.Outcome.next (if_neg hgoes)

theorem enableCc_accepted {phase : BitVec 3} (hphase : s.dev.pwr.phase = phase) (hfault : s.rel.fault = false)
    (h : s.ccValid i { (s.ctrl i).withCc v with en := true } = true) :
    s.enableCc i v = (
      let c := { (s.ctrl i).withCc v with en := true }
      State.setCtrl { s with dev := { s.dev with pwr := { s.dev.pwr with shut := false } } } i { c with
        rdy := phase = 5, shst := if c.notified then 1 else 0, sqs := [(0, c.adminSq)], cqs := [(0, c.adminCq)] }) := by
  subst hphase
  refine if_neg ?_
  rw [h, hfault]
  decide

theorem enableCc_refused (h : s.ccValid i { (s.ctrl i).withCc v with en := true } = false) :
    s.enableCc i v = s.setCtrl i { (s.ctrl i).withCc v with en := true, cfs := true } := by
  refine if_pos ?_
  rw [h]
  rfl

theorem exec_ccEnDisable (hopen : s.ctrlOpen i = true) (hen : (s.ctrl i).en = true) (hv : v.getLsbD 0 = false)
    (hfault : s.rel.fault = false) :
    exec (.ccEnDisable i v) s = .next ((s.modCtrl i fun c => c.withCc v).ctrlReset i) := by
  have hgoes : ¬(!s.ctrlOpen i || !(s.ctrl i).en || v.getLsbD 0) = true := by
    rw [hopen, hen, hv]
    decide
  have hrel : ((s.modCtrl i fun c => c.withCc v).ctrlReset i).rel = s.rel := (ctrlReset_resetOf _ i).rel
  refine congrArg Host.Outcome.next ((if_neg hgoes).trans (if_neg ?_))
  rw [hrel, hfault]
  decide

theorem exec_ccShutdownNotification (hopen : s.ctrlOpen i = true) (hen : (s.ctrl i).en = v.getLsbD 0)
    (hshn : ((s.ctrl i).withCc v).notified = true) : exec (.ccShutdownNotification i v) s = .next (
      let c := (s.ctrl i).withCc v
      s.setCtrl i { c with shst := if c.shst = 0 then 1 else c.shst }) :=
  congrArg Host.Outcome.next (if_neg (by simp [hopen, hen, hshn]))

end

/-- Settles O27: an enable is by its settings, a disable is a reset, and a shutdown ends once nothing is outstanding. -/
theorem controllersAreEnabledResetAndShutDown : Obligations.ControllersAreEnabledResetAndShutDown := by
  intro s i v hopen picked c shuts old
  refine ⟨fun hen hv hfault => ⟨fun hvalid => ?_, fun hbad => ?_⟩, fun hen hv hfault => ?_,
    exec_ccShutdownNotification hopen, fun hshst hout => ?_⟩
  · have hexec := exec_ccEnEnable hopen hen hv
    rw [enableCc_accepted (by rw [pickVersion_dev]) (by rw [pickVersion_rel, hfault])
      (by rw [pickVersion_ctrl]; exact hvalid), pickVersion_ctrl] at hexec
    exact hexec
  · have hexec := exec_ccEnEnable hopen hen hv
    rw [enableCc_refused (by rw [pickVersion_ctrl]; exact hbad), pickVersion_ctrl] at hexec
    exact hexec
  · obtain ⟨hctrl, hsq, hcq, hslices, hns, hbillets, hslots, hlocals, hmeter, -⟩ :=
      ctrlReset_resetOf (s.modCtrl i fun c => c.withCc v) i
    rw [ctrl_mod] at hctrl hsq hcq
    exact ⟨_, exec_ccEnDisable hopen hen hv hfault, hctrl, hsq, hcq, hslices, hns, hbillets, hslots, hlocals, hmeter⟩
  · exact congrArg Host.Outcome.next (if_neg (by simp [hshst, hout]))

end Sys2Proof.Machine
end

section
/-! Admin commands on queues (R48, R50 to R53, R65 to R68, R86): each ends with the first of its checks that fails. -/

namespace Sys2Proof.Machine

section
variable {s : State} {q : Src} {e : Sqe}

/-! ## Completion queues -/

/-- The checks of a new completion queue, in their order, past the entry size of CC. -/
theorem exec_createIoCompletionQueue (hadmin : s.AdminOk q e 5 onSlice)
    (hcqes : ((s.begin q e.cid).ctrl (s.srcCtrl q)).iocqes = 4) : exec (.createIoCompletionQueue q e) s = .next (
      let b := s.begin q e.cid
      let i := s.srcCtrl q
      let c := b.ctrl i
      let qid := e.cdw10.toNat % 65536
      let size := e.cdw10.toNat / 65536 + 1
      let vec := e.cdw11.toNat / 65536
      if qid = 0 ∨ c.grantCq < qid ∨ (Tbl.get? c.cqs qid).isSome then b.fail q e.cid 1 0x01
      else if size < 2 ∨ 4096 < size then b.fail q e.cid 1 0x02
      else if 63 < vec then b.fail q e.cid 1 0x08
      else if !e.cdw11.getLsbD 0 then b.fail q e.cid 0 scInvalidField
      else match e.dptr with
        | .prp p1 _ _ =>
          if p1.toNat % 4096 ≠ 0 then b.fail q e.cid 0 scPrpOffset
          else (b.modCtrl i fun c => { c with
            cqs := Tbl.set c.cqs qid { size := size, base := p1, vector := vec, ien := e.cdw11.getLsbD 1 } }).succeed q e.cid
        | .sgl _ => b.fail q e.cid 0 scInvalidField) := by
  refine congrArg Host.Outcome.next ((admin_eq _ _ _ _ _ _ hadmin).trans ?_)
  rw [srcCtrl_begin]
  exact if_neg (not_not_intro hcqes)

theorem exec_deleteIoCompletionQueue (hadmin : s.AdminOk q e 4 onSlice) : exec (.deleteIoCompletionQueue q e) s = .next (
    let b := s.begin q e.cid
    let i := s.srcCtrl q
    let qid := e.cdw10.toNat % 65536
    if qid = 0 ∨ (Tbl.get? (b.ctrl i).cqs qid).isNone then b.fail q e.cid 1 0x01
    else if (b.ctrl i).sqs.any fun p => p.1 ≠ 0 ∧ p.2.cqid = qid then b.fail q e.cid 1 0x0C
    else (b.modCtrl i fun c => { c with
      cqs := Tbl.del c.cqs qid, backlog := c.backlog.filter fun p => p.cq ≠ qid }).succeed q e.cid) := by
  refine congrArg Host.Outcome.next ((admin_eq _ _ _ _ _ _ hadmin).trans ?_)
  rw [srcCtrl_begin]

/-! ## Submission queues -/

/-- The checks of a new submission queue whose number and size are good. -/
theorem exec_createIoSubmissionQueue (hadmin : s.AdminOk q e 1 onSlice)
    (hsqes : ((s.begin q e.cid).ctrl (s.srcCtrl q)).iosqes = 6) (hnum : ¬(e.cdw10.toNat % 65536 = 0
      ∨ ((s.begin q e.cid).ctrl (s.srcCtrl q)).grantSq < e.cdw10.toNat % 65536
      ∨ (Tbl.get? ((s.begin q e.cid).ctrl (s.srcCtrl q)).sqs (e.cdw10.toNat % 65536)).isSome = true))
    (hsize : ¬(e.cdw10.toNat / 65536 + 1 < 2 ∨ 4096 < e.cdw10.toNat / 65536 + 1)) :
    exec (.createIoSubmissionQueue q e) s = .next (
      let b := s.begin q e.cid
      let i := s.srcCtrl q
      let cqid := e.cdw11.toNat / 65536
      let new (p1 : W64) : Sq := { size := e.cdw10.toNat / 65536 + 1, base := p1, cqid := cqid }
      if cqid = 0 ∨ (Tbl.get? (b.ctrl i).cqs cqid).isNone then b.fail q e.cid 1 0x00
      else if !e.cdw11.getLsbD 0 then b.fail q e.cid 0 scInvalidField
      else match e.dptr with
        | .prp p1 _ _ =>
          if p1.toNat % 4096 ≠ 0 then b.fail q e.cid 0 scPrpOffset
          else (b.modCtrl i fun c => { c with sqs := Tbl.set c.sqs (e.cdw10.toNat % 65536) (new p1) }).succeed q e.cid
        | .sgl _ => b.fail q e.cid 0 scInvalidField) := by
  refine congrArg Host.Outcome.next ((admin_eq _ _ _ _ _ _ hadmin).trans ?_)
  rw [srcCtrl_begin]
  exact (if_neg (not_not_intro hsqes)).trans ((if_neg hnum).trans (if_neg hsize))

theorem exec_deleteIoSubmissionQueue (hadmin : s.AdminOk q e 0 onSlice) : exec (.deleteIoSubmissionQueue q e) s = .next (
    let b := s.begin q e.cid
    let i := s.srcCtrl q
    let n := e.cdw10.toNat % 65536
    if n = 0 ∨ (Tbl.get? (b.ctrl i).sqs n).isNone then b.fail q e.cid 1 0x01
    else (b.discardQueue i n).complete q e.cid 0 0 (BitVec.ofNat 32 (b.unposted i n % 65536)) 0) := by
  refine congrArg Host.Outcome.next ((admin_eq _ _ _ _ _ _ hadmin).trans ?_)
  rw [srcCtrl_begin]

/-! ## Abort and Asynchronous Event Request -/

theorem exec_abort (hadmin : s.AdminOk q e 8 onAll) : exec (.abort q e) s = .next (
    let b := s.begin q e.cid
    if (b.earlier q e.cid).any fun f => f.e.opc = 8 then b.fail q e.cid 1 0x03 else b.complete q e.cid 0 0 1 0) :=
  congrArg Host.Outcome.next (admin_eq _ _ _ _ _ _ hadmin)

theorem exec_asynchronousEventRequest {k : Nat} (hadmin : s.AdminOk (.queue k 0) e 0x0C onAll) :
    exec (.asynchronousEventRequest (.queue k 0) e) s = .next (
      let b := s.begin (.queue k 0) e.cid
      let c := b.ctrl k
      let t := b.modCtrl k fun c => { c with aers := c.aers ++ [e.cid] }
      if 4 ≤ c.aers.length then b.fail (.queue k 0) e.cid 1 0x05
      else match c.events.filter fun v => !c.masked.contains v.lid with
        | [] => t
        | v :: _ => (t.modCtrl k fun c => { c with events := c.events.filter fun w => w ≠ v }).raiseEvent k v) :=
  congrArg Host.Outcome.next (admin_eq _ _ _ _ _ _ hadmin)

end

/-- Settles O30: each command turns on its checks in their order. -/
theorem adminCommandsManageQueues : Obligations.AdminCommandsManageQueues := by
  intro s q e p1 p2 l b i c qid size high free
  refine ⟨fun hadmin hcqes => ?createCq, fun hadmin hsqes hpos hgrant hfree hlow hhigh => ?createSq,
    fun hadmin hpos hsome => ?deleteSq, fun hadmin hzero => ?deleteAdminSq, fun hadmin hpos hsome => ?deleteCq,
    fun hadmin hzero => ?deleteAdminCq, fun hadmin => ?abort, fun k hadmin => ?event⟩
  case createCq =>
    have hexec := exec_createIoCompletionQueue hadmin hcqes
    refine ⟨fun hbad => hexec.trans (congrArg _ (if_pos (hbad.imp_right .inl))), fun hpos hgrant hfree => ?_⟩
    have hnum : ¬(qid = 0 ∨ c.grantCq < qid ∨ (Tbl.get? c.cqs qid).isSome = true) := by
      have hnone : Tbl.get? c.cqs qid = none := hfree
      simp only [hnone, Option.isSome_none, Bool.false_eq_true, or_false]
      omega
    have hnumbered := hexec.trans (congrArg _ (if_neg hnum))
    refine ⟨fun hbad => hnumbered.trans (congrArg _ (if_pos hbad)), fun hlow hhigh hvec => ?_,
      fun hlow hhigh hvec hpc hptr hoff => ?_⟩
    · exact hnumbered.trans (congrArg _ ((if_neg (by omega)).trans (if_pos hvec)))
    · refine hnumbered.trans (congrArg _ ((if_neg (by omega)).trans ((if_neg (by omega)).trans ((if_neg ?_).trans ?_))))
      · rw [hpc]
        decide
      · rw [hptr]
        exact if_neg (not_not_intro hoff)
  case createSq =>
    have hnum : ¬(qid = 0 ∨ c.grantSq < qid ∨ (Tbl.get? c.sqs qid).isSome = true) := by
      simp only [hfree, Option.isSome_none, Bool.false_eq_true, or_false]
      omega
    have hexec := exec_createIoSubmissionQueue hadmin hsqes hnum (by omega)
    refine ⟨fun hbad => ?_, fun hcq hsome hpc hptr hoff => ?_⟩
    · exact hexec.trans (congrArg _ (if_pos (hbad.imp_right Option.isNone_iff_eq_none.2)))
    · have hcqid : ¬(high = 0 ∨ (Tbl.get? c.cqs high).isNone = true) := by
        rw [Option.isNone_iff_eq_none]
        exact not_or.2 ⟨by omega, Option.isSome_iff_ne_none.1 hsome⟩
      refine hexec.trans (congrArg _ ((if_neg hcqid).trans ((if_neg ?_).trans ?_)))
      · rw [hpc]
        decide
      · rw [hptr]
        exact if_neg (not_not_intro hoff)
  case deleteSq =>
    refine (exec_deleteIoSubmissionQueue hadmin).trans (congrArg _ (if_neg ?_))
    rw [Option.isNone_iff_eq_none]
    exact not_or.2 ⟨by omega, Option.isSome_iff_ne_none.1 hsome⟩
  case deleteAdminSq => exact (exec_deleteIoSubmissionQueue hadmin).trans (congrArg _ (if_pos (.inl hzero)))
  case deleteCq =>
    have hthere : ¬(qid = 0 ∨ (Tbl.get? c.cqs qid).isNone = true) := by
      rw [Option.isNone_iff_eq_none]
      exact not_or.2 ⟨by omega, Option.isSome_iff_ne_none.1 hsome⟩
    have hexec := (exec_deleteIoCompletionQueue hadmin).trans (congrArg _ (if_neg hthere))
    refine ⟨fun hused => hexec.trans (congrArg _ (if_pos ?_)), fun hunused => hexec.trans (congrArg _ (if_neg ?_))⟩
    · simpa using hused
    · simpa [imp_iff_not_or] using hunused
  case deleteAdminCq => exact (exec_deleteIoCompletionQueue hadmin).trans (congrArg _ (if_pos (.inl hzero)))
  case abort =>
    refine ⟨fun hnone => (exec_abort hadmin).trans (congrArg _ (if_neg ?_)),
      fun hsome => (exec_abort hadmin).trans (congrArg _ (if_pos ?_))⟩
    · simpa using hnone
    · simpa using hsome
  case event =>
    intro u x kept cmd
    have hexec := exec_asynchronousEventRequest hadmin
    refine ⟨fun hfull => hexec.trans (congrArg _ (if_pos hfull)), fun hroom hmasked => ?_, fun v rest hroom hevents => ?_⟩
    · have hnone : (x.events.filter fun v => !x.masked.contains v.lid) = [] :=
        List.filter_eq_nil_iff.2 fun v hv => by simpa using hmasked v hv
      refine hexec.trans (congrArg _ ((if_neg (Nat.not_le.2 hroom)).trans ?_))
      rw [hnone]
    · refine hexec.trans (congrArg _ ((if_neg (Nat.not_le.2 hroom)).trans ?_))
      rw [hevents]

end Sys2Proof.Machine
end

section
/-! Set Features and Get Features (R51, R80 to R83, R86, R118). -/

namespace Sys2Proof.Machine

section
variable {s : State} {q : Src} {e : Sqe}

/-! ## Set Features -/

/-- A feature of the sender's controller set, the command begun. -/
theorem putFeature_begin (s : State) (q : Src) (e : Sqe) (f : Features → Features) :
    (s.begin q e.cid).putFeature q e f = ((s.begin q e.cid).modCtrl (s.srcCtrl q) fun c => { c with feat := f c.feat }).complete
      q e.cid 0 0 0 0 := by
  rw [State.putFeature, srcCtrl_begin]
  rfl

theorem exec_setFeaturesPowerManagement (h : s.Settable q e 2) : exec (.setFeaturesPowerManagement q e) s = .next (
    let b := s.begin q e.cid
    let n := e.cdw11.toNat % 32
    if 4 < n then b.fail q e.cid 0 scInvalidField
    else (if n < 3 then b.setPs n else { b with dev := { b.dev with psNext := some n } }).succeed q e.cid) :=
  congrArg Host.Outcome.next (set_eq _ _ _ _ _ h)

/-- A threshold of the composite temperature: THSEL chooses the over- or the under-temperature one. -/
theorem exec_setFeaturesTemperatureThreshold (h : s.Settable q e 4)
    (hsel : e.cdw11.toNat / 65536 % 16 = 0 ∨ e.cdw11.toNat / 65536 % 16 = 15) (hth : e.cdw11.toNat / 2 ^ 20 % 4 ≤ 1) :
    exec (.setFeaturesTemperatureThreshold q e) s = .next (
      let b := s.begin q e.cid
      let t := e.cdw11.toNat % 65536
      (if e.cdw11.toNat / 2 ^ 20 % 4 = 0 then { b with dev := { b.dev with tOver := some t } }
        else { b with dev := { b.dev with tUnder := t } } : State).succeed q e.cid) :=
  congrArg Host.Outcome.next ((set_eq _ _ _ _ _ h).trans (if_neg (by omega)))

theorem exec_setFeaturesErrorRecovery (h : s.Settable q e 5) : exec (.setFeaturesErrorRecovery q e) s = .next (
    if e.cdw11.getLsbD 16 then (s.begin q e.cid).fail q e.cid 0 scInvalidField
    else (s.begin q e.cid).putFeature q e fun f => { f with tler := e.cdw11.truncate 16 }) :=
  congrArg Host.Outcome.next (set_eq _ _ _ _ _ h)

/-- Queues may be asked for until an I/O queue is made; the grant is out of the pool and what the controller held. -/
theorem exec_setFeaturesNumberOfQueues (h : s.Settable q e 7) {most : Nat}
    (hmost : ((ctrlSlice (s.srcCtrl q)).map fun sl => ((s.begin q e.cid).slice sl).qpairs).getD 0 = most) :
    exec (.setFeaturesNumberOfQueues q e) s = .next (
    let b := s.begin q e.cid
    let i := s.srcCtrl q
    let c := b.ctrl i
    let gs := min (min (e.cdw11.toNat % 65536 + 1) most) (b.host.poolSq + c.grantSq)
    let gc := min (min (e.cdw11.toNat / 65536 + 1) most) (b.host.poolCq + c.grantCq)
    if c.sqs.any (fun p => p.1 ≠ 0) || c.cqs.any fun p => p.1 ≠ 0 then b.fail q e.cid 0 scSequence
    else if gs = 0 ∨ gc = 0 ∨ e.cdw11.toNat % 65536 = 65535 ∨ e.cdw11.toNat / 65536 = 65535 then
      b.fail q e.cid 0 scInvalidField
    else (State.modCtrl { b with host := { b.host with
        poolSq := b.host.poolSq + c.grantSq - gs, poolCq := b.host.poolCq + c.grantCq - gc } } i fun c => { c with
          grantSq := gs, grantCq := gc }).complete q e.cid 0 0 (BitVec.ofNat 32 (gs - 1 + 65536 * (gc - 1))) 0) := by
  subst hmost
  refine congrArg Host.Outcome.next ((set_eq _ _ _ _ _ h).trans ?_)
  rw [srcCtrl_begin]

/-- An entry of the APST table that R83 takes: PS3 or PS4, or no transition; past the fifth, nothing at all. -/
def apstFits (data : List Byte) (k : Nat) : Prop :=
  if k < 5 then apstEntry data k = (0, 0) ∨ (apstEntry data k).1 = 3 ∨ (apstEntry data k).1 = 4 else apstWord data k = 0

/-- The check of the table is that of each of its entries. -/
theorem apstBad_iff (data : List Byte) : (((List.range 32).drop 5).any (fun k => apstWord data k ≠ 0)
      || (((List.range 32).map (apstEntry data)).take 5).any fun x => x ≠ (0, 0) ∧ (x.1 < 3 ∨ 4 < x.1)) = true
    ↔ ∃ k < 32, ¬apstFits data k := by
  have hlow (x : Nat × Nat) : (x ≠ (0, 0) ∧ (x.1 < 3 ∨ 4 < x.1)) ↔ ¬(x = (0, 0) ∨ x.1 = 3 ∨ x.1 = 4) := by
    rw [not_or]
    exact and_congr_right fun _ => by omega
  have htail (k : Nat) : k ∈ (List.range 32).drop 5 ↔ 5 ≤ k ∧ k < 32 := by
    simp only [List.range_eq_range', List.drop_range', List.mem_range'_1]
  have hhead : ((List.range 32).map (apstEntry data)).take 5 = (List.range 5).map (apstEntry data) := rfl
  simp only [Bool.or_eq_true, List.any_eq_true, decide_eq_true_eq, hhead, List.mem_map, List.mem_range, htail, hlow]
  constructor
  · rintro (⟨k, ⟨h5, h32⟩, hk⟩ | ⟨x, ⟨k, h5, rfl⟩, hx⟩)
    · exact ⟨k, h32, by rwa [apstFits, if_neg (Nat.not_lt.2 h5)]⟩
    · exact ⟨k, by omega, by rwa [apstFits, if_pos h5]⟩
  · rintro ⟨k, h32, hk⟩
    unfold apstFits at hk
    split at hk
    next h5 => exact .inr ⟨_, ⟨k, h5, rfl⟩, hk⟩
    next h5 => exact .inl ⟨k, ⟨Nat.not_lt.1 h5, h32⟩, hk⟩

theorem exec_setFeaturesApst (h : s.Settable q e 0x0C) (hprp : adminPrpBad e 256 = false) (data : List Byte) :
    exec (.setFeaturesApst q e data) s = .next (
      let b := s.begin q e.cid
      let t := (List.range 32).map (apstEntry data)
      if ((List.range 32).drop 5).any (fun k => apstWord data k ≠ 0)
          || (t.take 5).any fun x => x ≠ (0, 0) ∧ (x.1 < 3 ∨ 4 < x.1) then b.fail q e.cid 0 scInvalidField
      else (State.moved { b with dev := { b.dev with apste := e.cdw11.getLsbD 0, apst := t } } q e.cid false 256).succeed
        q e.cid) := by
  refine congrArg Host.Outcome.next ((set_eq _ _ _ _ _ h).trans (if_neg ?_))
  rw [hprp]
  decide

theorem exec_setFeaturesTimestamp (hadmin : s.AdminOk q e 9 onAll) (hfid : e.cdw10.toNat % 256 = 0x0E)
    (hsv : e.cdw10.getLsbD 31 = false) :
    exec (.setFeaturesTimestamp q e) s = .next ((s.begin q e.cid).fail q e.cid 1 0x0E) := by
  refine congrArg Host.Outcome.next ((if_neg (not_not_intro hfid)).trans ((admin_eq _ _ _ _ _ _ hadmin).trans (if_neg ?_)))
  rw [hsv]
  decide

/-- R80: no feature is saved. -/
theorem exec_setFeaturesArbitration_saved (hadmin : s.AdminOk q e 9 onAll) (hfid : e.cdw10.toNat % 256 = 1)
    (hsv : e.cdw10.getLsbD 31 = true) :
    exec (.setFeaturesArbitration q e) s = .next ((s.begin q e.cid).fail q e.cid 1 0x0D) :=
  congrArg Host.Outcome.next ((if_neg (not_not_intro hfid)).trans ((admin_eq _ _ _ _ _ _ hadmin).trans (if_pos hsv)))

/-! ## Get Features -/

theorem exec_getFeatures (hadmin : s.AdminOk q e 0x0A onAll) : exec (.getFeatures q e) s = .next (
    let b := s.begin q e.cid
    let fid := e.cdw10.toNat % 256
    let sel := e.cdw10.toNat / 256 % 8
    let k := q.kind b
    if !featureKnown fid || 3 < sel || ((fid = 7 || fid = 0x0A) && k ≠ .slice) then b.fail q e.cid 0 scInvalidField
    else if sel = 3 then b.complete q e.cid 0 0 (BitVec.ofNat 32 (featureCaps fid k)) 0
    else if fid = 9 ∧ b.vectors (s.srcCtrl q) ≤ e.cdw11.toNat % 65536 then b.fail q e.cid 0 scInvalidField
    else
      let d := sel = 1
      let dw := BitVec.ofNat 32 (b.featureDw0 q fid e d)
      if fid = 0x0C ∨ fid = 0x0E then
        let bytes := if fid = 0x0E then (if d then List.replicate 8 0 else b.timestamp)
          else apstBytes (if d then ({} : Device).apst else b.dev.apst)
        if adminPrpBad e bytes.length then b.fail q e.cid 0 scPrpOffset
        else ((b.sendTo q e.dptr (Data.ofBytes bytes)).moved q e.cid true bytes.length).complete q e.cid 0 0 dw 0
      else b.complete q e.cid 0 0 dw 0) := by
  refine congrArg Host.Outcome.next ((admin_eq _ _ _ _ _ _ hadmin).trans ?_)
  rw [srcCtrl_begin]

/-- Get Features of the value of a feature that it answers in Dword 0, on a controller that has it. -/
theorem exec_getFeatures_word (hadmin : s.AdminOk q e 0x0A onAll) {fid v : Nat} (hfid : e.cdw10.toNat % 256 = fid)
    (hsel : e.cdw10.toNat / 256 % 8 < 3) (hknown : featureKnown fid = true) (hpage : ¬(fid = 0x0C ∨ fid = 0x0E))
    (hkind : fid = 7 ∨ fid = 0x0A → q.kind (s.begin q e.cid) = .slice)
    (hvec : fid = 9 → e.cdw11.toNat % 65536 < (s.begin q e.cid).vectors (s.srcCtrl q))
    (hv : (s.begin q e.cid).featureDw0 q fid e (e.cdw10.toNat / 256 % 8 = 1) = v) :
    Ends (.getFeatures q e) s (s.begin q e.cid) q e 0 0 (BitVec.ofNat 32 v) 0 := by
  subst hfid hv
  refine (exec_getFeatures hadmin).trans (congrArg Host.Outcome.next ((if_neg ?_).trans ((if_neg (by omega)).trans
    ((if_neg fun h => (hvec h.1).not_ge h.2).trans (if_neg hpage)))))
  simp only [hknown, Bool.not_true, Bool.false_or, Bool.or_eq_true, decide_eq_true_eq, Bool.and_eq_true, not_or, not_and,
    decide_not, Bool.not_eq_true', decide_eq_false_iff_not, not_not]
  exact ⟨by omega, hkind⟩

/-- The features that every controller answers, in Dword 0 and whatever Dword 11 says. -/
theorem exec_getFeatures_plain (hadmin : s.AdminOk q e 0x0A onAll) {fid v : Nat} (hfid : e.cdw10.toNat % 256 = fid)
    (hsel : e.cdw10.toNat / 256 % 8 < 3) (hplain : featureKnown fid = true ∧ fid ∉ [7, 9, 0x0A, 0x0C, 0x0E])
    (hv : (s.begin q e.cid).featureDw0 q fid e (e.cdw10.toNat / 256 % 8 = 1) = v) :
    Ends (.getFeatures q e) s (s.begin q e.cid) q e 0 0 (BitVec.ofNat 32 v) 0 := by
  obtain ⟨hknown, hnot⟩ := hplain
  simp only [List.mem_cons, List.not_mem_nil, or_false, not_or] at hnot
  obtain ⟨h7, h9, hA, hC, hE⟩ := hnot
  exact exec_getFeatures_word hadmin hfid hsel hknown (not_or.2 ⟨hC, hE⟩) (fun h => absurd h (not_or.2 ⟨h7, hA⟩))
    (fun h => absurd h h9) hv

/-- Get Features of the current value of a feature that is a page of bytes. -/
theorem exec_getFeatures_page (hadmin : s.AdminOk q e 0x0A onAll) {fid : Nat} (hfid : e.cdw10.toNat % 256 = fid)
    (hsel : e.cdw10.toNat / 256 % 8 = 0) (hpage : fid = 0x0C ∨ fid = 0x0E) {bytes : List Byte}
    (hbytes : bytes = if fid = 0x0E then (s.begin q e.cid).timestamp else apstBytes (s.begin q e.cid).dev.apst)
    (hprp : adminPrpBad e bytes.length = false) :
    let b := s.begin q e.cid
    Ends (.getFeatures q e) s ((b.sendTo q e.dptr (Data.ofBytes bytes)).moved q e.cid true bytes.length) q e 0 0
      (BitVec.ofNat 32 (b.featureDw0 q fid e false)) 0 := by
  subst hfid hbytes
  have hknown : featureKnown (e.cdw10.toNat % 256) = true := by
    rcases hpage with h | h
    · rw [h]; decide
    · rw [h]; decide
  refine (exec_getFeatures hadmin).trans (congrArg Host.Outcome.next ((if_neg ?_).trans ((if_neg (by omega)).trans
    ((if_neg (by omega)).trans ((if_pos hpage).trans ?_)))))
  · simp only [hknown, Bool.not_true, Bool.false_or, Bool.or_eq_true, decide_eq_true_eq, Bool.and_eq_true]
    omega
  · simp only [hsel, Nat.zero_ne_one, decide_false, if_false, hprp, Bool.false_eq_true]

end

/-- Settles O31: a feature that may be set is the body of its row, and an answer is by its identifier and Select. -/
theorem featuresAreSetAndReadBack : Obligations.FeaturesAreSetAndReadBack := by
  refine ⟨?set, ?get⟩
  case set =>
    intro s q e data b i c v put done word entry fits
    have hput {k : Nat} (f : Features → Features) (h : s.Settable q e k) {cmd : Instr}
        (hexec : exec cmd s = .next (s.setFeature q e k fun t => t.putFeature q e f)) : done cmd (put f) :=
      hexec.trans (congrArg _ ((set_eq _ _ _ _ _ h).trans (putFeature_begin s q e f)))
    refine ⟨fun h => hput (fun f => { f with ab := v.truncate 3 }) h rfl, fun h hle => ?_, fun h hgt => ?_,
      fun h hsel => ⟨fun hth => ?_, fun hth => ?_⟩,
      fun h hbit => ?_, fun h hbit => ?_, fun sl gs gc h hsl hsqs hcqs hs hc hgs hgc hgs0 hgc0 => ?_, fun h hmade => ?_,
      fun h => hput (fun f => { f with thr := v.truncate 8, time := v.extractLsb' 8 8 }) h rfl, fun h hv => ?_,
      fun h => hput (fun f => { f with dn := v.getLsbD 0 }) h rfl,
      fun h => hput (fun f => { f with aec := v &&& 0x3FF#32 }) h rfl,
      fun h hprp hfits => ?_,
      fun k h hprp hk hbad => ?_, exec_setFeaturesTimestamp,
      fun hadmin hsv hfid => exec_setFeaturesArbitration_saved hadmin hfid hsv,
      fun kind => by cases kind <;> decide⟩
    · exact (exec_setFeaturesPowerManagement h).trans (congrArg _ (if_neg (Nat.not_lt.2 hle)))
    · exact (exec_setFeaturesPowerManagement h).trans (congrArg _ (if_pos hgt))
    · exact (exec_setFeaturesTemperatureThreshold h hsel (hth.le.trans zero_le_one)).trans
        (congrArg _ (congrArg (State.succeed · q e.cid) (if_pos hth)))
    · exact (exec_setFeaturesTemperatureThreshold h hsel hth.le).trans
        (congrArg _ (congrArg (State.succeed · q e.cid) (if_neg fun h0 => absurd (h0.symm.trans hth) (by decide))))
    · exact (exec_setFeaturesErrorRecovery h).trans (congrArg _ ((if_neg (Bool.eq_false_iff.1 hbit)).trans (putFeature_begin ..)))
    · exact (exec_setFeaturesErrorRecovery h).trans (congrArg _ (if_pos hbit))
    · have hnone : ¬(c.sqs.any (fun p => p.1 ≠ 0) || c.cqs.any fun p => p.1 ≠ 0) = true := by
        simp only [ne_eq, decide_not, Bool.or_eq_true, List.any_eq_true, Bool.not_eq_true', decide_eq_false_iff_not, not_or,
          not_exists, not_and, not_not]
        exact ⟨hsqs, hcqs⟩
      have hmost : ((ctrlSlice i).map fun sl => (b.slice sl).qpairs).getD 0 = (b.slice sl).qpairs := by rw [hsl]; rfl
      subst hgs hgc
      refine (exec_setFeaturesNumberOfQueues h hmost).trans (congrArg _ ((if_neg hnone).trans (if_neg ?_)))
      exact not_or.2 ⟨hgs0.ne', not_or.2 ⟨hgc0.ne', not_or.2 ⟨hs, hc⟩⟩⟩
    · refine (exec_setFeaturesNumberOfQueues h rfl).trans (congrArg _ (if_pos ?_))
      simpa using hmade
    · exact congrArg Host.Outcome.next ((set_eq _ _ _ _ _ h).trans ((if_neg (by rw [srcCtrl_begin]; exact Nat.not_le.2 hv)).trans
        (putFeature_begin ..)))
    · refine (exec_setFeaturesApst h hprp data).trans (congrArg _ (if_neg (mt (apstBad_iff data).1 ?_)))
      rintro ⟨k, hk, hbad⟩
      exact hbad (hfits k hk)
    · exact (exec_setFeaturesApst h hprp data).trans (congrArg _ (if_pos ((apstBad_iff data).2 ⟨k, hk, hbad⟩)))
  case get =>
    intro s q e ctrl vec b f d now dflt th vector page
    refine ⟨fun hadmin => ?_, fun hcoal => congrArg Host.Outcome.next (if_neg hcoal)⟩
    have hnow {fid v : Nat} (hplain : featureKnown fid = true ∧ fid ∉ [7, 9, 0x0A, 0x0C, 0x0E])
        (hv : b.featureDw0 q fid e false = v) : now fid v := fun hfid hsel =>
      exec_getFeatures_plain hadmin hfid (by omega) hplain (by rw [decide_eq_false (by omega)]; exact hv)
    have hdflt {fid v : Nat} (hplain : featureKnown fid = true ∧ fid ∉ [7, 9, 0x0A, 0x0C, 0x0E])
        (hv : b.featureDw0 q fid e true = v) : dflt fid v := fun hfid hsel =>
      exec_getFeatures_plain hadmin hfid (by omega) hplain (by rw [decide_eq_true hsel]; exact hv)
    have hfeat : (b.ctrl (b.srcCtrl q)).feat = f := by rw [srcCtrl_begin]
    refine ⟨hnow (by decide) (congrArg (fun x => x.ab.toNat) hfeat), hdflt (by decide) rfl,
      hnow (by decide) rfl, hdflt (by decide) rfl, hnow (by decide) rfl, hdflt (by decide) rfl,
      hnow (by decide) (congrArg (fun x => x.tler.toNat) hfeat),
      hnow (by decide) (congrArg (fun x => x.thr.toNat + 256 * x.time.toNat) hfeat),
      hnow (by decide) (congrArg (fun x => x.aec.toNat) hfeat), fun hvec hfid hsel => ?_, fun hkind hfid hsel => ?_,
      fun hfid hsel hprp => ?_, fun hfid hsel hprp => ?_, fun hkind hfid => ?_, fun hknown => ?_⟩
    · refine exec_getFeatures_word hadmin hfid (by omega) rfl (by decide) (fun h => absurd h (by decide)) (fun _ => hvec) ?_
      rw [decide_eq_false (by omega)]
      exact congrArg (fun x => vector + if x.cd.contains vector then 65536 else 0) hfeat
    · refine exec_getFeatures_word hadmin hfid (by omega) rfl (by decide) (fun _ => hkind) (fun h => absurd h (by decide)) ?_
      rw [decide_eq_false (by omega)]
      exact congrArg (fun x => if x.dn then 1 else 0) hfeat
    · exact exec_getFeatures_page hadmin hfid hsel (by decide) rfl hprp
    · exact exec_getFeatures_page hadmin hfid hsel (by decide) rfl hprp
    · have hother : q.kind (s.begin q e.cid) ≠ .slice := hkind
      exact (exec_getFeatures hadmin).trans (congrArg _ (if_pos (by simp [hother, hfid])))
    · exact (exec_getFeatures hadmin).trans (congrArg _ (if_pos (by simp [hknown])))

end Sys2Proof.Machine
end

section
/-! Identify and Get Log Page (R54, R71 to R73, R79, R86), and the fault and repair log's page (R471). -/

namespace Sys2Proof.Machine

/-! ## The bytes of an entry of the fault and repair log (R471) -/

theorem unitBytes_length (x : LogEntry) : x.unitBytes.length = 2 := by
  unfold LogEntry.unitBytes
  split
  · split <;> rfl
  · rfl

theorem addrBytes_length (x : LogEntry) : x.addrBytes.length = 8 := by
  unfold LogEntry.addrBytes
  split
  · split <;> rfl
  · rfl

/-- An entry is its numbers, its unit, its slice, its address and its detail, one after another. -/
theorem logBytes_eq (x : LogEntry) : x.bytes =
    (leBytes 8 x.seq ++ leBytes 8 x.pier.toNat ++ leBytes 2 x.span ++ leBytes 1 x.event ++ leBytes 1 x.sev)
      ++ (x.unitBytes ++ (leBytes 2 (x.slice.getD 0xFFFF) ++ (x.addrBytes ++ x.detailBytes))) := by
  simp only [LogEntry.bytes, List.append_assoc]

theorem logBytes_drop20 (x : LogEntry) : x.bytes.drop 20 =
    x.unitBytes ++ (leBytes 2 (x.slice.getD 0xFFFF) ++ (x.addrBytes ++ x.detailBytes)) := by
  rw [logBytes_eq]
  exact List.drop_left' rfl

theorem logBytes_drop22 (x : LogEntry) :
    x.bytes.drop 22 = leBytes 2 (x.slice.getD 0xFFFF) ++ (x.addrBytes ++ x.detailBytes) := by
  rw [← List.drop_drop (i := 2) (j := 20), logBytes_drop20]
  exact List.drop_left' (unitBytes_length x)

theorem logBytes_drop24 (x : LogEntry) : x.bytes.drop 24 = x.addrBytes ++ x.detailBytes := by
  rw [← List.drop_drop (i := 2) (j := 22), logBytes_drop22]
  exact List.drop_left' rfl

theorem logBytes_drop32 (x : LogEntry) : x.bytes.drop 32 = x.detailBytes := by
  rw [← List.drop_drop (i := 8) (j := 24), logBytes_drop24]
  exact List.drop_left' (addrBytes_length x)

theorem unitBytes_of_number {x : LogEntry} {k : Nat} (h : x.unit = [k]) (hevent : x.event ≠ 0x13) :
    x.unitBytes = leBytes 2 k := by
  rw [LogEntry.unitBytes, h]
  exact if_neg hevent

theorem addrBytes_of_number {x : LogEntry} {k : Nat} (h : x.addr = [k]) (hevent : x.event ≠ 0x10) :
    x.addrBytes = leBytes 8 k := by
  rw [LogEntry.addrBytes, h]
  exact if_neg hevent

theorem detailBytes_of_cause {x : LogEntry} {k : Nat} (hevent : x.event = 0x17) (h : x.detail = [k]) :
    x.detailBytes = leBytes 32 k := by
  rw [LogEntry.detailBytes, if_neg (by omega), if_pos hevent, h, List.headD_cons]

/-- A tamper record fills the first 16 bytes. -/
theorem detailBytes_of_tamper {x : LogEntry} (hevent : x.event = 0x15) (hlen : x.detail.length = 16) :
    x.detailBytes = x.detail.map (BitVec.ofNat 8) ++ List.replicate 16 0 := by
  have hmap : (x.detail.map (BitVec.ofNat 8)).length = 16 := by rw [List.length_map, hlen]
  rw [LogEntry.detailBytes, if_pos hevent, List.take_append, hmap, List.take_of_length_le (by omega), List.take_replicate]
  rfl

/-! ## The page of the log -/

theorem logPageData_fault (s : State) (q : Src) : s.logPageData q 0xD2 = s.faultPage := rfl

theorem mem_faultPage {s : State} {x : LogEntry} (h : x ∈ s.rel.log) :
    (64 + 64 * (x.seq % 1024), x.bytes) ∈ s.faultPage.parts :=
  List.mem_cons_of_mem _ (List.mem_map_of_mem h)

theorem faultPage_head {s : State} {x : LogEntry} {old : List LogEntry} (h : s.rel.log = x :: old) :
    (0, [1, 0, 0, 0, 0, 0, 0, 0] ++ leBytes 8 x.seq ++ leBytes 8 ((s.rel.log.getLastD x).seq)) ∈ s.faultPage.parts := by
  have hlast : ((s.rel.log.getLast?.map (·.seq)).getD 0) = (s.rel.log.getLastD x).seq := by
    rw [h, List.getLastD_cons, List.getLast?_cons]
    simp
  refine List.mem_cons.2 (.inl (congrArg (Prod.mk 0) ?_))
  rw [hlast, h]
  rfl

/-! ## Identify Controller (R72) -/

/-- The fields that the table gives as numbers, by offset, length and value. -/
def ctrlNumbers : List (Nat × Nat × Nat) :=
  [(72, 1, 3), (76, 1, 3), (77, 1, 9), (80, 4, 0x00020100), (84, 4, 10000000), (88, 4, 1000), (92, 4, 0x300), (259, 1, 3),
    (260, 1, 0x18), (261, 1, 6), (262, 1, 63), (263, 1, 4), (264, 1, 1), (265, 1, 1), (270, 2, 20), (319, 1, 1),
    (328, 4, 0x40000003), (512, 1, 0x66), (513, 1, 0x44), (516, 4, 4096), (520, 2, 0x000C), (524, 1, 4), (530, 1, 1), (536, 4, 1), (540, 4, 4096)]

theorem ctrlNumbers_sublist (s : State) (q : Src) :
    (ctrlNumbers.map fun f => fieldN f.1 f.2.1 f.2.2).Sublist (s.identifyCtrl q).parts :=
  List.isSublist_iff_sublist.1 rfl

section
variable {s : State} {q : Src} {e : Sqe}

/-! ## The commands -/

theorem exec_identify (hadmin : s.AdminOk q e 6 onAll) : exec (.identify q e) s = .next (
    match (s.begin q e.cid).identifyData q e with
    | .error c => (s.begin q e.cid).fail q e.cid 0 c
    | .ok d => (s.begin q e.cid).answer q e d) :=
  congrArg Host.Outcome.next (admin_eq _ _ _ _ _ _ hadmin)

theorem exec_getLogPage (hadmin : s.AdminOk q e 2 onAll) : exec (.getLogPage q e) s = .next (
    let b := s.begin q e.cid
    let lid := e.cdw10.toNat % 256
    let n := 4 * (e.cdw10.toNat / 65536 + 65536 * (e.cdw11.toNat % 65536) + 1)
    let off := e.cdw12.toNat + 2 ^ 32 * e.cdw13.toNat
    let d := b.logPageData q lid
    if !(logPages (q.kind b)).contains lid then b.fail q e.cid 1 0x09
    else if off % 4 ≠ 0 ∨ d.len ≤ off ∨ (lid = 2 ∧ e.nsid ≠ 0 ∧ e.nsid ≠ 0xFFFFFFFF) then b.fail q e.cid 0 scInvalidField
    else if adminPrpBad e n then b.fail q e.cid 0 scPrpOffset
    else ((b.drawnN 16).logRead q lid (e.cdw10.getLsbD 15)).answer q e { Data.sub d off n with len := n }) :=
  congrArg Host.Outcome.next (admin_eq _ _ _ _ _ _ hadmin)

end

/-- Settles O32: an answer is by its data or its checks, and the fault log's page by the bytes of its entries. -/
theorem identifyAndLogPagesAnswer : Obligations.IdentifyAndLogPagesAnswer := by
  intro s q e d code x k old b lid n off page given answered
  refine ⟨fun hadmin hdata hprp => ?_, fun hadmin hdata => ?_, fun hadmin hlid => ?_,
    fun hadmin hlid hoff hlen hnsid hprp => ?_, fun f hf => ?_, fun hlid => ?_, ?_, ?_, fun hunit hevent => ?_,
    fun haddr hevent => ?_, fun hevent hdetail => ?_, fun hevent hlen => ?_, rfl, rfl, rfl⟩
  · rw [exec_identify hadmin, hdata]
    exact congrArg _ (answer_of_prp hprp _ _)
  · rw [Ends, exec_identify hadmin, hdata]
    rfl
  · exact (exec_getLogPage hadmin).trans (congrArg _ (if_pos (by simpa using hlid)))
  · have hthere : ¬(!(logPages (q.kind b)).contains lid) = true := by simpa using hlid
    have hgood : ¬(off % 4 ≠ 0 ∨ page.len ≤ off ∨ (lid = 2 ∧ e.nsid ≠ 0 ∧ e.nsid ≠ 0xFFFFFFFF)) := by
      rintro (h | h | ⟨h2, h0, hall⟩)
      · exact h hoff
      · exact hlen.not_ge h
      · exact (hnsid h2).elim h0 hall
    refine (exec_getLogPage hadmin).trans (congrArg _ ((if_neg hthere).trans ((if_neg hgood).trans ((if_neg ?_).trans ?_))))
    · exact Bool.eq_false_iff.1 hprp
    · exact answer_of_prp hprp _ _
  · exact (ctrlNumbers_sublist b q).subset (List.mem_map_of_mem hf)
  · have hpage : page = b.faultPage := (congrArg (b.logPageData q) hlid).trans (logPageData_fault b q)
    rw [hpage]
    exact ⟨rfl, mem_faultPage, faultPage_head⟩
  · rw [logBytes_eq]
    exact List.take_left' rfl
  · rw [logBytes_drop22]
    exact List.take_left' rfl
  · rw [logBytes_drop20, ← unitBytes_of_number hunit hevent]
    exact List.take_left' (unitBytes_length x)
  · rw [logBytes_drop24, ← addrBytes_of_number haddr hevent]
    exact List.take_left' (addrBytes_length x)
  · rw [logBytes_drop32, detailBytes_of_cause hevent hdetail]
  · rw [logBytes_drop32, detailBytes_of_tamper hevent hlen]

end Sys2Proof.Machine
end

section
/-! Namespaces created, deleted and attached (R74, R75, R78): each command ends with the first of its checks that fails. -/

namespace Sys2Proof.Machine

section
variable {s : State} {q : Src} {e : Sqe} {sl : Nat} (hq : q.slice? = some sl)
include hq

/-- A namespace command of a slice in which no sanitize runs is its body. -/
theorem nsAdmin_of_calm {opc : Nat} (hadmin : s.AdminOk q e opc onSlice) (hcalm : (s.begin q e.cid).sanitizing sl = false)
    (body : Nat → State → State) : s.nsAdmin q e opc body = body sl (s.begin q e.cid) :=
  (nsAdmin_eq s q e opc sl body hq hadmin).trans (if_neg (Bool.eq_false_iff.1 hcalm))

/-- While a sanitize runs the command ends with Sanitize In Progress (R78). -/
theorem nsAdmin_of_sanitizing {opc : Nat} (hadmin : s.AdminOk q e opc onSlice)
    (hsan : (s.begin q e.cid).sanitizing sl = true) (body : Nat → State → State) :
    s.nsAdmin q e opc body = (s.begin q e.cid).complete q e.cid 0 0x1D 0 0 :=
  (nsAdmin_eq s q e opc sl body hq hadmin).trans (if_pos hsan)

/-! ## Create (R74) -/

/-- The checks of a create, in their order, and the namespace that waits for its key. -/
theorem exec_namespaceCreate (hadmin : s.AdminOk q e 0x0D onSlice) (hsel : e.cdw10.toNat % 16 = 0)
    (hcalm : (s.begin q e.cid).sanitizing sl = false) (data : List Byte) : exec (.namespaceCreate q e data) s = .next (
      let b := s.begin q e.cid
      let a := readNsArgs data
      let m := b.moved q e.cid false 4096
      let x := lowestFree (fun n => (Tbl.get? m.media.ns n).isSome) 0
      let nsid := lowestFree (fun n => (m.nsCreated sl).any fun p => p.2.nsid = n) 1
      if 4096 ≤ b.media.ns.length ∨ (b.slice sl).nsLimit ≤ (b.nsCreated sl).length then b.fail q e.cid 1 0x16
      else if adminPrpBad e 4096 then b.fail q e.cid 0 scPrpOffset
      else match a.check with
        | some (t, c) => m.fail q e.cid t c
        | none =>
          if m.nsTooBig sl a.spec then m.fail q e.cid 1 0x15
          else (m.modMedia fun y => { y with
            ns := Tbl.set y.ns x { nsid := nsid, slice := sl, spec := a.spec, pending := true } }).startCommit
              { src := some (q, e.cid), act := .nsCreate x }) :=
  congrArg Host.Outcome.next ((if_neg (by omega)).trans ((nsAdmin_of_calm hq hadmin hcalm _).trans
    (if_neg (not_not_intro hsel))))

/-! ## Delete (R74) -/

theorem exec_namespaceDelete (hadmin : s.AdminOk q e 0x0D onSlice) (hsel : e.cdw10.toNat % 16 = 1)
    (hcalm : (s.begin q e.cid).sanitizing sl = false) : exec (.namespaceDelete q e) s = .next (
      let b := s.begin q e.cid
      if e.nsid = 0xFFFFFFFF then
        b.startCommit { src := some (q, e.cid), act := .nsDelete ((b.nsOfSlice sl).map (·.1)) }
      else match b.findNs sl e.nsid.toNat with
        | none => b.fail q e.cid 0 0x0B
        | some (x, _) => b.startCommit { src := some (q, e.cid), act := .nsDelete [x] }) :=
  congrArg Host.Outcome.next ((if_neg (not_not_intro hsel)).trans (nsAdmin_of_calm hq hadmin hcalm _))

/-! ## Attachment (R75) -/

/-- The controllers of a list, of which the first 2,047 are read. -/
def listedCtrls (data : List Byte) : List Nat :=
  (List.range (min (leNat (data.take 2)) 2047)).map fun i => leNat ((data.drop (2 + 2 * i)).take 2)

theorem exec_namespaceAttachment (hadmin : s.AdminOk q e 0x15 onSlice) (hsel : e.cdw10.toNat % 16 ≤ 1)
    (hcalm : (s.begin q e.cid).sanitizing sl = false) {x : Nat} {ns : Ns}
    (hns : (s.begin q e.cid).findNs sl e.nsid.toNat = some (x, ns)) (hprp : adminPrpBad e 4096 = false) (data : List Byte) :
    exec (.namespaceAttachment q e data) s = .next (
      let m := (s.begin q e.cid).moved q e.cid false 4096
      if (listedCtrls data).isEmpty || (listedCtrls data).any fun i => i ≠ sliceCtrl sl then m.fail q e.cid 1 0x1C
      else if e.cdw10.toNat % 16 = 0 ∧ ns.attached then m.fail q e.cid 1 0x18
      else if e.cdw10.toNat % 16 = 1 ∧ ¬ns.attached then m.fail q e.cid 1 0x1A
      else (m.modNs x fun y => { y with attached := e.cdw10.toNat % 16 = 0 }).succeed q e.cid) := by
  refine congrArg Host.Outcome.next ((nsAdmin_of_calm hq hadmin hcalm _).trans ((if_neg (Nat.not_lt.2 hsel)).trans ?_))
  rw [hns]
  exact if_neg (Bool.eq_false_iff.1 hprp)

end

/-- The list of a slice's own controller alone. -/
theorem listedCtrls_own {data : List Byte} {i k : Nat} (hlen : leNat (data.take 2) = k) (hpos : 0 < k) (hmost : k ≤ 2047)
    (hown : ∀ j, j < k → leNat ((data.drop (2 + 2 * j)).take 2) = i) :
    ((listedCtrls data).isEmpty || (listedCtrls data).any fun x => x ≠ i) = false := by
  have hlist : listedCtrls data = (List.range k).map fun j => leNat ((data.drop (2 + 2 * j)).take 2) := by
    rw [listedCtrls, hlen, Nat.min_eq_left hmost]
  have hsome : (listedCtrls data).isEmpty = false := by
    rw [hlist, List.isEmpty_eq_false_iff, ← List.length_pos_iff, List.length_map, List.length_range]
    exact hpos
  rw [hsome, Bool.false_or, List.any_eq_false]
  intro y hy
  obtain ⟨j, hj, rfl⟩ := List.mem_map.1 (hlist ▸ hy)
  simpa using hown j (List.mem_range.1 hj)

/-- The check of sizes comes before that of the other fields. -/
theorem check_of_size {a : NsArgs} (h : a.nsze = 0 ∨ a.ncap ≠ a.nsze) : a.check = some (0, 2) := if_pos h

/-- Settles O33: each command turns on its checks in their order. -/
theorem namespacesAreCreatedDeletedAttached : Obligations.NamespacesAreCreatedDeletedAttached := by
  intro s q e data sl x ns hq b sel a m full nsx nsid own
  refine ⟨fun hadmin hsel hcalm => ?create, fun hadmin hsel hcalm => ?delete,
    fun hadmin hsel hcalm hns hprp => ?attach, fun hsan => ⟨fun hadmin hsel => ?_, fun hadmin hsel => ?_, fun hadmin => ?_⟩⟩
  case create =>
    have hexec := exec_namespaceCreate hq hadmin hsel hcalm data
    refine ⟨fun hfull => hexec.trans (congrArg _ (if_pos hfull)), fun hroom hprp => ?_⟩
    have hbody := hexec.trans (congrArg _ ((if_neg hroom).trans (if_neg (Bool.eq_false_iff.1 hprp))))
    refine ⟨fun hbad => ?_, fun _ _ hcheck => ?_, fun hcheck hbig => ?_, fun hcheck hfits => ?_⟩
    · have hcheck : (readNsArgs data).check = some (0, 2) := check_of_size hbad
      rwa [hcheck] at hbody
    · have hcheck : (readNsArgs data).check = some (1, 0x0A) := hcheck
      rwa [hcheck] at hbody
    · have hcheck : (readNsArgs data).check = none := hcheck
      rw [hcheck] at hbody
      exact hbody.trans (congrArg _ (if_pos hbig))
    · have hcheck : (readNsArgs data).check = none := hcheck
      rw [hcheck] at hbody
      exact hbody.trans (congrArg _ (if_neg (Bool.eq_false_iff.1 hfits)))
  case delete =>
    have hexec := exec_namespaceDelete hq hadmin hsel hcalm
    refine ⟨fun hall => hexec.trans (congrArg _ (if_pos hall)), fun hone hns => ?_, fun hone hnone => ?_⟩
    · refine hexec.trans (congrArg _ ((if_neg hone).trans ?_))
      rw [hns]
    · refine hexec.trans (congrArg _ ((if_neg hone).trans ?_))
      rw [hnone]
      rfl
  case attach =>
    have hexec := exec_namespaceAttachment hq hadmin hsel hcalm hns hprp data
    refine ⟨fun hown hturn => ?_, fun hempty => hexec.trans (congrArg _ (if_pos ?_))⟩
    · obtain ⟨k, hlen, hpos, hmost, hids⟩ := hown
      have hlisted := Bool.eq_false_iff.1 (listedCtrls_own hlen hpos hmost hids)
      have hdetached : ¬(sel = 0 ∧ ns.attached = true) := fun h => absurd (hturn.1 h.1) (by simp [h.2])
      have hattached : ¬(sel = 1 ∧ ¬ns.attached = true) := fun h =>
        absurd (hturn.2 (Bool.eq_false_iff.2 h.2)) (by omega)
      exact hexec.trans (congrArg _ ((if_neg hlisted).trans ((if_neg hdetached).trans (if_neg hattached))))
    · rw [listedCtrls, hempty]
      rfl
  · exact congrArg Host.Outcome.next ((if_neg (by omega)).trans (nsAdmin_of_sanitizing hq hadmin hsan _))
  · exact congrArg Host.Outcome.next ((if_neg (not_not_intro hsel)).trans (nsAdmin_of_sanitizing hq hadmin hsan _))
  · exact congrArg Host.Outcome.next (nsAdmin_of_sanitizing hq hadmin hsan _)

end Sys2Proof.Machine
end


section
/-! Format NVM and Sanitize (R76 to R78, R86), and the commit of media keys (R213, R214, R216). -/

namespace Sys2Proof.Machine

/-! ## Format NVM (R76) -/

section
variable {s : State} {q : Src} {e : Sqe} {sl : Nat} (hq : q.slice? = some sl) (hadmin : s.AdminOk q e 0x80 onSlice)
  (hcalm : (s.begin q e.cid).sanitizing sl = false)
include hq hadmin hcalm

/-- The namespaces that a format names, the check of its values, and what it then does with each. -/
theorem exec_formatNvm {xs : List Nat} (hxs : (if e.nsid = 0xFFFFFFFF then ((s.begin q e.cid).nsOfSlice sl).map (·.1)
      else (((s.begin q e.cid).findNs sl e.nsid.toNat).map (·.1)).toList) = xs) : exec (.formatNvm q e) s = .next (
    let b := s.begin q e.cid
    let w := e.cdw10.toNat
    let fmt := w % 16 + 16 * (w / 4096 % 4)
    let pi := w / 32 % 8
    let ses := w / 512 % 8
    if 2 < fmt ∨ w / 16 % 2 = 1 ∨ 1 < pi ∨ w / 256 % 2 = 1 ∨ 2 < ses ∨ (pi = 1 ∧ fmt ≠ 2) then b.fail q e.cid 1 0x0A
    else if e.nsid ≠ 0xFFFFFFFF ∧ xs = [] then b.fail q e.cid 0 0x0B
    else if ses = 0 then ((xs.foldl (fun s x => s.formatPlain x fmt pi) b).checkReadOnly).succeed q e.cid
    else b.startCommit { src := some (q, e.cid), act := .format xs fmt pi }) := by
  subst hxs
  exact congrArg Host.Outcome.next (nsAdmin_of_calm hq hadmin hcalm _)

/-- A format of one namespace, which the slice has. -/
theorem exec_formatNvm_one {x : Nat} {ns : Ns} (hone : e.nsid ≠ 0xFFFFFFFF)
    (hns : (s.begin q e.cid).findNs sl e.nsid.toNat = some (x, ns)) : exec (.formatNvm q e) s = .next (
    let b := s.begin q e.cid
    let w := e.cdw10.toNat
    let fmt := w % 16 + 16 * (w / 4096 % 4)
    let pi := w / 32 % 8
    let ses := w / 512 % 8
    if 2 < fmt ∨ w / 16 % 2 = 1 ∨ 1 < pi ∨ w / 256 % 2 = 1 ∨ 2 < ses ∨ (pi = 1 ∧ fmt ≠ 2) then b.fail q e.cid 1 0x0A
    else if ses = 0 then ((b.formatPlain x fmt pi).checkReadOnly).succeed q e.cid
    else b.startCommit { src := some (q, e.cid), act := .format [x] fmt pi }) := by
  have hxs : (if e.nsid = 0xFFFFFFFF then ((s.begin q e.cid).nsOfSlice sl).map (·.1)
      else (((s.begin q e.cid).findNs sl e.nsid.toNat).map (·.1)).toList) = [x] := by
    rw [if_neg hone, hns]
    rfl
  exact (exec_formatNvm hq hadmin hcalm hxs).trans
    (congrArg Host.Outcome.next (congrArg (ite _ _) (if_neg fun h => List.cons_ne_nil _ _ h.2)))

end

/-! ## Sanitize (R77, R78) -/

section
variable {s : State} {q : Src} {e : Sqe}

/-- A Sanitize command of a row's SANACT is the row's body. -/
theorem sanitizeCmd_eq (hadmin : s.AdminOk q e 0x84 (fun k => k ≠ .port)) {take : Nat → Bool}
    (htake : take (e.cdw10.toNat % 8) = true) (body : Option Nat → State → State) :
    s.sanitizeCmd q e take body = body q.slice? (s.begin q e.cid) := by
  refine (if_neg ?_).trans (admin_eq _ _ _ _ _ _ hadmin)
  rw [htake]
  decide

/-- A sanitize of the device is refused while a slice exists (R78). -/
theorem startSanitize_of_slices {scope : Option Nat} (hscope : scope = none) (hany : s.anySlice = true) :
    s.startSanitize q e scope = s.fail q e.cid 0 scSequence := by
  refine if_pos ?_
  rw [hscope, hany]
  rfl

/-- A sanitize that starts: its record is made, a slice's local memory is blank, and its keys are to be replaced. -/
theorem startSanitize_of_idle {scope : Option Nat} (hscope : scope.isSome = true ∨ s.anySlice = false)
    (hidle : (Tbl.getD s.dev.san (scope.getD 1024) {}).running = false) : s.startSanitize q e scope = (
      let t := s.setSan scope { act := e.cdw10.toNat % 8, running := true, cdw10 := e.cdw10 }
      (match scope with
        | some sl => t.blankLocal sl
        | none => t).startCommit { src := some (q, e.cid), act := .sanitize scope }) := by
  refine (if_neg ?_).trans (if_neg (Bool.eq_false_iff.1 hidle))
  rcases hscope with h | h
  · obtain ⟨sl, rfl⟩ := Option.isSome_iff_exists.1 h
    exact Bool.false_ne_true
  · rw [h, Bool.and_false]
    exact Bool.false_ne_true

end

/-! ## The end of a sanitize (R77, R78, R86) -/

section
variable {s : State} {scope : Option Nat}

/-- The keys of a sanitize are replaced once no commit names it. -/
theorem sanitizeKeyed_of_done (h : ∀ k ∈ s.hm.commit ++ s.hm.joining, k.act ≠ .sanitize scope) :
    s.sanitizeKeyed scope = true := by
  rw [State.sanitizeKeyed, Bool.not_eq_true', List.any_eq_false]
  exact fun k hk => by simpa using h k hk

theorem exec_sanitizeComplete (hrun : (Tbl.getD s.dev.san (scope.getD 1024) {}).running = true)
    (hkeyed : s.sanitizeKeyed scope = true) (failed : Bool) : exec (.sanitizeComplete scope failed) s = .next (
      let x := Tbl.getD s.dev.san (scope.getD 1024) {}
      if x.act = 2 ∧ ¬failed ∧ s.setsToErase scope ≠ [] then s.sanitizeWork
      else (s.setSan scope { x with running := false, failed := failed, done := !failed }).raiseEvent
        ((scope.map sliceCtrl).getD s.dev.mgrPort) ⟨6, 1, 0x81⟩) := by
  refine congrArg Host.Outcome.next (if_neg ?_)
  rw [hrun, hkeyed]
  decide

/-- A set is still to be erased that is in use and holds a unit of the scope. -/
theorem mem_setsToErase (n : Nat) : n ∈ s.setsToErase scope ↔ (∃ y, (n, y) ∈ s.media.sets) ∧ (s.media.set n).st ≠ .erased
    ∧ (s.media.set n).st ≠ .retired ∧ ∀ z, scope = some z → ∃ u ∈ s.media.stored, u.1 / 2 ^ 20 = n ∧ u.2.slice = z := by
  have hholds : s.setHolds n scope = true ↔ (s.media.set n).st ≠ .erased ∧ (s.media.set n).st ≠ .retired
      ∧ ∀ z, scope = some z → ∃ u ∈ s.media.stored, u.1 / 2 ^ 20 = n ∧ u.2.slice = z := by
    cases scope with
    | none => simp [State.setHolds]
    | some sl => simp [State.setHolds, and_assoc]
  rw [← hholds]
  simp only [State.setsToErase, List.mem_map, List.mem_filter, Prod.exists, exists_and_right, exists_eq_right]

/-- The one block erase that runs works on its sets. -/
theorem sanitizeWork_of_one {z : Nat} {y : Sanitize} (hsan : s.dev.san = [(z, y)]) (hrun : y.running = true)
    (hact : y.act = 2) (hscope : scope = if z = 1024 then none else some z) (hkeyed : s.sanitizeKeyed scope = true)
    (hplp : s.dev.pwr.plpWarn = false) (hformed : s.media.formed = true) :
    s.sanitizeWork = (s.setsToErase scope).foldl (fun t n => t.clearSet scope n) s := by
  rw [State.sanitizeWork, if_neg (by simp [hplp, hformed]), hsan, List.foldl_cons, List.foldl_nil]
  simp only [← hscope, hrun, hact, hkeyed, decide_true, Bool.and_true, if_true]

end

/-! ## The commit of media keys (R213, R214, R216) -/

theorem exec_mediaKeyCommit {s : State} (h : s.hm.commit ≠ []) : exec .mediaKeyCommit s = .next (
    (s.hm.commit.foldl (fun (z : State) k =>
      let y := z.applyAct k.act
      match k.src with
      | some (r, cid) => y.complete r cid 0 0 (y.actDw0 k.act) 0
      | none => y) { s with hm := { s.hm with commit := s.hm.joining, joining := [] } }).wrapTable.checkReadOnly.checkNv) :=
  congrArg Host.Outcome.next (if_neg (by simpa using h))

theorem mediaKey_newMediaKey (s : State) (x y : Nat) : (s.newMediaKey x).mediaKey y =
    if x = y then { key := Config.freeNat s.free, gen := (s.mediaKey x).gen + 1, seq := 0, res := 0 } else s.mediaKey y := by
  change Tbl.getD (Tbl.set s.hm.media x _) y {} = _
  split
  next h => rw [h, Tbl.getD_set_self]
  next h => rw [Tbl.getD_set_ne _ _ _ h]; rfl

/-- Settles O34: each command turns on its checks, a sanitize's end on what is left to erase, and a commit is its replacements
in turn. -/
theorem formatSanitizeAndKeyCommits : Obligations.FormatSanitizeAndKeyCommits := by
  intro s q e sl scope failed b w fmt pi ses legal san put bsan begun blanked mine
  refine ⟨fun hq hadmin hcalm => ?format, fun hadmin => ?sanitize, fun hrun hdone => ?complete,
    fun hcommit => exec_mediaKeyCommit hcommit, fun x => ?key, rfl, rfl, rfl, rfl⟩
  case format =>
    have hbad : (2 < fmt ∨ w / 16 % 2 = 1 ∨ 1 < pi ∨ w / 256 % 2 = 1 ∨ 2 < ses ∨ (pi = 1 ∧ fmt ≠ 2)) ↔ ¬legal := by
      omega
    refine ⟨fun h => (exec_formatNvm hq hadmin hcalm rfl).trans (congrArg _ (if_pos (hbad.2 h))), fun h hall hses => ?_,
      fun x ns h hone hses hns => ?_, fun x ns h hone hses hns => ?_⟩
    · exact (exec_formatNvm hq hadmin hcalm (if_pos hall)).trans (congrArg _ ((if_neg (mt hbad.1 (not_not_intro h))).trans
        ((if_neg fun hone => hone.1 hall).trans (if_neg hses))))
    · exact (exec_formatNvm_one hq hadmin hcalm hone hns).trans
        (congrArg _ ((if_neg (mt hbad.1 (not_not_intro h))).trans (if_neg hses)))
    · exact (exec_formatNvm_one hq hadmin hcalm hone hns).trans
        (congrArg _ ((if_neg (mt hbad.1 (not_not_intro h))).trans (if_pos hses)))
  case sanitize =>
    have hcmd {take : Nat → Bool} (htake : take (w % 8) = true) {body : Option Nat → State → State} :
        Host.Outcome.next (s.sanitizeCmd q e take body) = (.next (body q.slice? b) : Host.Outcome State Fault Refusal) :=
      congrArg _ (sanitizeCmd_eq hadmin htake body)
    refine ⟨fun hact hidle => ?_, fun hact => ?_, fun hdev hany => ⟨fun hact => ?_, fun hact => ?_⟩,
      fun hscope hidle => ⟨fun hact => ?_, fun hact => ?_⟩⟩
    · exact (hcmd (decide_eq_true hact)).trans (congrArg _ (if_neg (Bool.eq_false_iff.1 hidle)))
    · exact (hcmd (by rw [hact]; decide)).trans (congrArg _ (if_pos (by omega)))
    · exact (hcmd (by rw [hact]; decide)).trans
        (congrArg _ ((if_neg (not_not_intro hact)).trans (startSanitize_of_slices hdev hany)))
    · exact (hcmd (decide_eq_true hact)).trans (congrArg _ (startSanitize_of_slices hdev hany))
    · exact (hcmd (by rw [hact]; decide)).trans
        (congrArg _ ((if_neg (not_not_intro hact)).trans (startSanitize_of_idle hscope hidle)))
    · exact (hcmd (decide_eq_true hact)).trans (congrArg _ (startSanitize_of_idle hscope hidle))
  case complete =>
    have hkeyed := sanitizeKeyed_of_done hdone
    have hexec := exec_sanitizeComplete hrun hkeyed failed
    refine ⟨fun hend => hexec.trans (congrArg _ (if_neg ?_)), fun hact hgood hleft => hexec.trans (congrArg _ (if_pos ?_)),
      mem_setsToErase, fun z y hsan hon hact hscope hplp hformed => ?_⟩
    · rintro ⟨hact, hgood, hleft⟩
      rcases hend with h | h | h
      · exact h hact
      · exact hgood h
      · exact hleft h
    · exact ⟨hact, Bool.eq_false_iff.1 hgood, hleft⟩
    · exact sanitizeWork_of_one hsan hon hact hscope hkeyed hplp hformed
  case key =>
    intro t live
    exact ⟨(mediaKey_newMediaKey s x x).trans (if_pos rfl), fun y hy => (mediaKey_newMediaKey s x y).trans (if_neg hy.symm), rfl⟩

end Sys2Proof.Machine
end


section
/-! Firmware (R84, R85, R430, R439): its download, its commit by CA, and the activation that holds every queue. -/

namespace Sys2Proof.Machine

/-! ## The copies of an image in the system blocks (R439) -/

/-- The counter of the image key, taken. -/
theorem takeSeq_parts (s : State) (x : Nat) : (s.takeSeq x).1 = (s.mediaKey x).seq ∧ (s.takeSeq x).2.dev = s.dev
    ∧ (s.takeSeq x).2.media.sys = s.media.sys ∧ ((s.takeSeq x).2.mediaKey x).seq = (s.mediaKey x).seq + 1 := by
  have hseq : ((s.takeSeq x).2.mediaKey x).seq = (s.mediaKey x).seq + 1 := by
    unfold State.takeSeq State.mediaKey
    simp only [Tbl.getD_set_self]
  refine ⟨rfl, ?_, ?_, hseq⟩
  · unfold State.takeSeq
    dsimp only
    split <;> rfl
  · unfold State.takeSeq
    dsimp only
    split <;> rfl

theorem imageUnit_dev (s : State) (record chan : Nat) (bytes : List Byte) : (s.imageUnit record chan bytes).dev = s.dev :=
  (takeSeq_parts s 4097).2.1

/-- A unit of an image copy as it is stored, under the image key and its counter. -/
def imageStored (record seq : Nat) (bytes : List Byte) : Stored :=
  { kind := 0xB, nsx := 0, ulba := record, seq := seq, app := 0, key := Config.imageKey, body := .bytes (Mem.write [] 0 bytes) }

theorem imageUnit_sys (s : State) (record chan : Nat) (bytes : List Byte) : (s.imageUnit record chan bytes).media.sys =
    Tbl.set s.media.sys record (Tbl.getD s.media.sys record [] ++ [⟨chan, imageStored record (s.mediaKey 4097).seq bytes⟩]) := by
  rw [← (takeSeq_parts s 4097).2.2.1]
  rfl

theorem imageCopies_dev (s : State) (record : Nat) (d : List Byte) : (s.imageCopies record d).dev = s.dev :=
  foldl_keeps State.dev (fun t _ => foldl_keeps State.dev (fun _ _ => imageUnit_dev ..) _ t) _ _

/-- The stages that an image holds replace those of the slot (R439). -/
def FwSlot.store (x : FwSlot) (d : List Byte) : FwSlot :=
  ⟨if (readImage d).2.1 then some (readImage d).1 else x.stage1, if (readImage d).2.2 then some (readImage d).1 else x.stage2⟩

/-- A stored image is its copies, under the record number of each stage, and the slot's new pair. -/
theorem storeImage_eq (s : State) (n : Nat) (d : List Byte) : s.storeImage n d = (
    let one := if (readImage d).2.1 then s.imageCopies (16 + 2 * n) d else s
    let two := if (readImage d).2.2 then one.imageCopies (17 + 2 * n) d else one
    { two with dev := { two.dev with fw := { two.dev.fw with
      slots := Tbl.set two.dev.fw.slots n ((s.dev.fw.slot n).store d) } } }) := by
  have hone : (if (readImage d).2.1 then s.imageCopies (16 + 2 * n) d else s).dev = s.dev := by
    split
    · exact imageCopies_dev ..
    · rfl
  have htwo (t : State) : (if (readImage d).2.2 then t.imageCopies (17 + 2 * n) d else t).dev = t.dev := by
    split
    · exact imageCopies_dev ..
    · rfl
  extract_lets one two
  have hslot : two.dev.fw.slot n = s.dev.fw.slot n := congrArg (fun v : Device => v.fw.slot n) ((htwo one).trans hone)
  rw [← hslot]
  rfl

section
variable {s : State} {q : Src} {e : Sqe}

/-! ## Download (R84) -/

theorem exec_firmwareImageDownload (hadmin : s.AdminOk q e 0x11 onManager) (data : List Byte) :
    let n := 4 * (e.cdw10.toNat + 1)
    let off := 4 * e.cdw11.toNat
    n % 4096 = 0 → off % 4096 = 0 → off + n ≤ 32 * 2 ^ 20 → exec (.firmwareImageDownload q e data) s = .next (
      let b := s.begin q e.cid
      if b.dev.fw.parts.any fun p => off < p.1 + p.2.length && p.1 < off + n then b.fail q e.cid 1 0x14
      else if adminPrpBad e n then b.fail q e.cid 0 scPrpOffset
      else (((b.drawnN (n - data.length)).modFw fun f => { f with
        parts := f.parts ++ [(off, (data ++ b.freeBytes (n - data.length)).take n)] }).moved q e.cid false n).succeed q e.cid) :=
  fun hn hoff hend => congrArg Host.Outcome.next ((admin_eq _ _ _ _ _ _ hadmin).trans (if_neg (by omega)))

/-- Data of the length asked is the piece as it stands, and no free byte is drawn. -/
theorem addPart_of_exact (b : State) {data : List Byte} {n : Nat} (off : Nat) (hlen : data.length = n) :
    ((b.drawnN (n - data.length)).modFw fun f => { f with
      parts := f.parts ++ [(off, (data ++ b.freeBytes (n - data.length)).take n)] })
      = b.modFw fun f => { f with parts := f.parts ++ [(off, data)] } := by
  subst hlen
  rw [List.take_left, Nat.sub_self]
  rfl

/-! ## Commit (R84, R85) -/

/-- What a commit with an image whose checks pass does, by CA. -/
def State.commitStored (t : State) (q : Src) (e : Sqe) (n : Nat) (d : List Byte) : State :=
  let ca := e.cdw10.toNat / 8 % 8
  let t := t.storeImage n d
  if ca = 0 then t.succeed q e.cid
  else if ca = 1 then (t.activateNext n).succeed q e.cid
  else if (readImage d).2.1 then (t.activateNext n).fail q e.cid 1 0x0B
  else if t.freeWord.getLsbD 0 then t.drawn.fail q e.cid 1 0x12
  else t.drawn.startActivation q e.cid n

/-- The slot that FS names, 0 the running one. -/
def Firmware.target (f : Firmware) (fs : Nat) : Nat := if fs = 0 then f.running else fs

theorem exec_firmwareCommit (hadmin : s.AdminOk q e 0x10 onManager) : exec (.firmwareCommit q e) s = .next (
    let b := s.begin q e.cid
    let ca := e.cdw10.toNat / 8 % 8
    let fs := e.cdw10.toNat % 8
    let n := b.dev.fw.target fs
    let taken := b.modFw fun f => { f with parts := [] }
    if b.dev.fw.holding then b.fail q e.cid 0 scSequence
    else if 3 < ca then b.fail q e.cid 0 scInvalidField
    else if 4 < fs ∨ (ca = 2 ∧ fs = 0) then b.fail q e.cid 1 0x06
    else if ca = 2 then
      if (b.dev.fw.slot n).pair b.hm.fwSvn then (b.activateNext n).succeed q e.cid
      else b.fail q e.cid 1 (if (b.dev.fw.slot n).pair 0 then 0x13 else 0x07)
    else match b.dev.fw.whole with
      | none => taken.fail q e.cid 1 0x07
      | some d => match checkImage d b.hm.fwSvn with
        | some c => taken.fail q e.cid 1 c
        | none => taken.commitStored q e n d) :=
  congrArg Host.Outcome.next (admin_eq _ _ _ _ _ _ hadmin)

/-- A commit of the image received, while no activation holds the queues. -/
theorem exec_firmwareCommit_image (hadmin : s.AdminOk q e 0x10 onManager) (hfree : (s.begin q e.cid).dev.fw.holding = false)
    (hca : e.cdw10.toNat / 8 % 8 ≤ 3) (hca2 : e.cdw10.toNat / 8 % 8 ≠ 2) (hfs : e.cdw10.toNat % 8 ≤ 4) :
    exec (.firmwareCommit q e) s = .next (
      let b := s.begin q e.cid
      let taken := b.modFw fun f => { f with parts := [] }
      match b.dev.fw.whole with
      | none => taken.fail q e.cid 1 0x07
      | some d => match checkImage d b.hm.fwSvn with
        | some c => taken.fail q e.cid 1 c
        | none => taken.commitStored q e (b.dev.fw.target (e.cdw10.toNat % 8)) d) :=
  (exec_firmwareCommit hadmin).trans (congrArg Host.Outcome.next ((if_neg (Bool.eq_false_iff.1 hfree)).trans
    ((if_neg (Nat.not_lt.2 hca)).trans ((if_neg (by omega)).trans (if_neg hca2)))))

end

/-- Settles O35: a download is by the pieces received, a commit by CA and its image, and a resume completes the commit. -/
theorem firmwareIsDownloadedCommittedActivated : Obligations.FirmwareIsDownloadedCommittedActivated := by
  intro s q e data img code b n off ca fs fw slot set next taken image old pair one two stored commit
  refine ⟨fun hadmin hn hoff hend hprp => ?download, fun hadmin => ?commit, fun r cid hhold hwait => ?resume,
    fun record chan => ?copies⟩
  case download =>
    have hexec := exec_firmwareImageDownload hadmin data hn hoff hend
    refine ⟨fun hlen hapart => ?_, fun hover => hexec.trans (congrArg _ (if_pos ?_))⟩
    · have hfresh : ¬(fw.parts.any fun p => off < p.1 + p.2.length && p.1 < off + n) = true := by
        simp only [List.any_eq_true, Bool.and_eq_true, decide_eq_true_eq, not_exists, not_and, Nat.not_lt]
        exact fun p hp hoff => (hapart p hp).resolve_left (Nat.not_le.2 hoff)
      exact hexec.trans (congrArg _ ((if_neg hfresh).trans ((if_neg (Bool.eq_false_iff.1 hprp)).trans
        (congrArg (fun t : State => (t.moved q e.cid false n).succeed q e.cid) (addPart_of_exact b off hlen)))))
    · simpa using hover
  case commit =>
    have hexec := exec_firmwareCommit hadmin
    refine ⟨fun hhold => hexec.trans (congrArg _ (if_pos hhold)),
      fun hfree hca => hexec.trans (congrArg _ ((if_neg (Bool.eq_false_iff.1 hfree)).trans (if_pos hca))),
      fun hfree hca hfs => ?_, fun hfree hca hlow hhigh hpair => ?_, fun hfree hca hca2 hfs =>
      ⟨fun hnone => ?_, fun himg hbad => ?_, fun himg hgood => ?_⟩⟩
    · exact hexec.trans (congrArg _ ((if_neg (Bool.eq_false_iff.1 hfree)).trans ((if_neg (by omega)).trans
        (if_pos (.inr ⟨hca, hfs⟩)))))
    · exact hexec.trans (congrArg _ ((if_neg (Bool.eq_false_iff.1 hfree)).trans ((if_neg (by omega)).trans
        ((if_neg (by omega)).trans ((if_pos hca).trans (if_pos hpair))))))
    · have himage := exec_firmwareCommit_image hadmin hfree hca hca2 hfs
      have hwhole : (s.begin q e.cid).dev.fw.whole = none := hnone
      simp only [hwhole] at himage
      exact himage
    · have himage := exec_firmwareCommit_image hadmin hfree hca hca2 hfs
      have hwhole : (s.begin q e.cid).dev.fw.whole = some img := himg
      have hcode : checkImage img (s.begin q e.cid).hm.fwSvn = some code := hbad
      simp only [hwhole, hcode] at himage
      exact himage
    · have himage := exec_firmwareCommit_image hadmin hfree hca hca2 hfs
      have hwhole : (s.begin q e.cid).dev.fw.whole = some img := himg
      have hcode : checkImage img (s.begin q e.cid).hm.fwSvn = none := hgood
      simp only [hwhole, hcode] at himage
      have hstored : taken.storeImage slot img = stored := storeImage_eq ..
      have hend : exec commit s = .next (taken.commitStored q e slot img) := himage
      rw [State.commitStored, hstored] at hend
      refine ⟨fun h0 => hend.trans (congrArg _ (if_pos h0)),
        fun h1 => hend.trans (congrArg _ ((if_neg (by omega)).trans (if_pos h1))), fun h3 hstage => ?_, fun h3 hstage => ?_⟩
      · exact hend.trans (congrArg _ ((if_neg (by omega)).trans ((if_neg (by omega)).trans (if_pos hstage))))
      · have hnow := hend.trans (congrArg _ ((if_neg (by omega)).trans ((if_neg (by omega)).trans
          (if_neg (Bool.eq_false_iff.1 hstage)))))
        split at hnow
        · exact .inl hnow
        · exact .inr hnow
  case resume =>
    intro now done
    have hgoes : ¬(!s.dev.fw.holding) = true := by
      rw [hhold]
      decide
    refine congrArg Host.Outcome.next ((if_neg hgoes).trans ?_)
    simp only [hwait]
    rfl
  case copies =>
    intro t unit
    obtain ⟨-, hdev, -, hseq⟩ := takeSeq_parts s 4097
    have hsys : t.media.sys = Tbl.set s.media.sys record (Tbl.getD s.media.sys record [] ++ [⟨chan, unit⟩]) := imageUnit_sys ..
    rw [hsys]
    exact ⟨Tbl.get?_set_self .., hseq, hdev, fun r hr => Tbl.get?_set_ne _ _ hr.symm⟩

end Sys2Proof.Machine
end


section
/-! The rows that a bank's table counts (R407): which entry an activation counts in, and which one gives way. -/

namespace Sys2Proof.Machine

/-- Of two used entries the one that gives way. -/
def RowCount.lesser (m e : RowCount) : RowCount :=
  if e.count < m.count ∨ (e.count = m.count ∧ e.entry < m.entry) then e else m

/-- An entry gives way no later than another. -/
def RowCount.Le (m e : RowCount) : Prop := m.count < e.count ∨ (m.count = e.count ∧ m.entry ≤ e.entry)

theorem RowCount.Le.trans {a b c : RowCount} (h : a.Le b) (g : b.Le c) : a.Le c := by
  unfold RowCount.Le at *
  omega

theorem lesser_le (m e : RowCount) : (m.lesser e).Le m ∧ (m.lesser e).Le e := by
  unfold RowCount.lesser RowCount.Le
  split <;> omega

theorem leastEntry_eq (t : List RowCount) : leastEntry t = t.foldl RowCount.lesser (t.headD ⟨0, 0, 0⟩) := rfl

theorem foldl_lesser_mem (l : List RowCount) (m : RowCount) : l.foldl RowCount.lesser m = m ∨ l.foldl RowCount.lesser m ∈ l := by
  induction l generalizing m with
  | nil => exact .inl rfl
  | cons e l ih =>
    have hstep : m.lesser e = m ∨ m.lesser e = e := by
      unfold RowCount.lesser
      split
      · exact .inr rfl
      · exact .inl rfl
    rcases ih (m.lesser e) with h | h
    · rw [List.foldl_cons, h]
      exact hstep.imp_right fun he => List.mem_cons.2 (.inl he)
    · exact .inr (List.mem_cons_of_mem _ h)

theorem foldl_lesser_le (l : List RowCount) (m : RowCount) :
    (l.foldl RowCount.lesser m).Le m ∧ ∀ e ∈ l, (l.foldl RowCount.lesser m).Le e := by
  induction l generalizing m with
  | nil => exact ⟨.inr ⟨rfl, Nat.le_refl _⟩, fun e he => absurd he List.not_mem_nil⟩
  | cons e l ih =>
    obtain ⟨hfirst, hrest⟩ := ih (m.lesser e)
    obtain ⟨hm, he⟩ := lesser_le m e
    refine ⟨hfirst.trans hm, fun y hy => ?_⟩
    rcases List.mem_cons.1 hy with rfl | hy
    · exact hfirst.trans he
    · exact hrest y hy

/-- The entry that gives way is one of the table's, with the smallest count, and the lowest number of those. -/
theorem leastEntry_spec {t : List RowCount} {e : RowCount} (h : e ∈ t) : leastEntry t ∈ t ∧ (leastEntry t).Le e := by
  refine ⟨?_, (foldl_lesser_le t _).2 e h⟩
  rcases foldl_lesser_mem t (t.headD ⟨0, 0, 0⟩) with hhead | hmem
  · rw [leastEntry_eq, hhead]
    cases t with
    | nil => exact absurd h List.not_mem_nil
    | cons a t => exact List.mem_cons_self
  · exact hmem

section
variable {t : List RowCount} {row : Nat}

theorem countRow_counted (h : ∃ y ∈ t, y.row = row) :
    countRow t row = t.map fun y => if y.row = row then { y with count := y.count + 1 } else y :=
  if_pos (by simpa using h)

/-- A new row takes the lowest entry that no row has. -/
theorem countRow_free (h : ¬∃ y ∈ t, y.row = row) {k : Nat} (hk : k < 32) (hfree : ∀ y ∈ t, y.entry ≠ k)
    (hlow : ∀ n < k, ¬(n < 32 ∧ ∀ y ∈ t, y.entry ≠ n)) : countRow t row = t ++ [⟨k, row, 1⟩] := by
  have hfind : ((List.range 32).find? fun n => !t.any fun e => e.entry = n) = some k := by
    refine List.find?_range_eq_some.2 ⟨by simpa using hfree, List.mem_range.2 hk, fun n hn => ?_⟩
    have hused := hlow n hn
    simp only [not_and] at hused
    simpa using hused (hn.trans hk)
  rw [countRow, if_neg (by simpa using h), hfind]

/-- In a full table the least entry gives way, and its count goes on. -/
theorem countRow_full (h : ¬∃ y ∈ t, y.row = row) (hfull : ∀ n, ¬(n < 32 ∧ ∀ y ∈ t, y.entry ≠ n)) : countRow t row =
    t.map fun y => if y.entry = (leastEntry t).entry then ⟨(leastEntry t).entry, row, (leastEntry t).count + 1⟩ else y := by
  have hfind : ((List.range 32).find? fun n => !t.any fun e => e.entry = n) = none := by
    refine List.find?_eq_none.2 fun n hn => ?_
    have hused := hfull n
    simp only [not_and] at hused
    simpa using hused (List.mem_range.1 hn)
  rw [countRow, if_neg (by simpa using h), hfind]

end

end Sys2Proof.Machine
end

section
/-! The pick of a subchannel (R402, R403): what it offers, and the request that no other precedes. -/

namespace Sys2Proof.Machine

/-! ## The order of ranks -/

theorem rankLt_eq_false {a b : Nat × Nat × Nat} :
    rankLt a b = false ↔ b.1 < a.1 ∨ (a.1 = b.1 ∧ (b.2.1 < a.2.1 ∨ (a.2.1 = b.2.1 ∧ b.2.2 ≤ a.2.2))) := by
  simp only [rankLt, Bool.or_eq_false_iff, Bool.and_eq_false_iff, decide_eq_false_iff_not]
  omega

theorem rankLt_eq_true {a b : Nat × Nat × Nat} :
    rankLt a b = true ↔ a.1 < b.1 ∨ (a.1 = b.1 ∧ (a.2.1 < b.2.1 ∨ (a.2.1 = b.2.1 ∧ a.2.2 < b.2.2))) := by
  simp only [rankLt, Bool.or_eq_true, Bool.and_eq_true, decide_eq_true_eq]

theorem rankLt_irrefl (a : Nat × Nat × Nat) : rankLt a a = false := rankLt_eq_false.2 (by omega)

theorem rankLt_false_trans {a b c : Nat × Nat × Nat} (h : rankLt a b = false) (g : rankLt b c = false) :
    rankLt a c = false := by
  rw [rankLt_eq_false] at *
  omega

theorem rankLt_asymm {a b : Nat × Nat × Nat} (h : rankLt a b = true) : rankLt b a = false := by
  rw [rankLt_eq_true] at h
  rw [rankLt_eq_false]
  omega

section
variable {x : SubChan} {panic : List Nat}

/-! ## The pick -/

/-- Of the request kept so far and one more, the one that precedes. -/
def SubChan.sooner (x : SubChan) (panic : List Nat) (b : Option DramReq) (q : DramReq) : Option DramReq :=
  match b with
  | none => some q
  | some p => if rankLt (x.rank panic q) (x.rank panic p) then some q else some p

theorem pick_eq (x : SubChan) (panic : List Nat) : x.pick panic = (x.offers panic).foldl (x.sooner panic) none := rfl

/-- What is kept is one of the two, and neither precedes it. -/
theorem sooner_spec (x : SubChan) (panic : List Nat) (b : Option DramReq) (q : DramReq) : ∃ m, x.sooner panic b q = some m
    ∧ (m = q ∨ b = some m) ∧ rankLt (x.rank panic q) (x.rank panic m) = false
    ∧ ∀ p, b = some p → rankLt (x.rank panic p) (x.rank panic m) = false := by
  cases b with
  | none => exact ⟨q, rfl, .inl rfl, rankLt_irrefl _, fun p hp => nomatch hp⟩
  | some p =>
    unfold SubChan.sooner
    dsimp only
    split
    next h => exact ⟨q, rfl, .inl rfl, rankLt_irrefl _, fun y hy => Option.some.inj hy ▸ rankLt_asymm h⟩
    next h => exact ⟨p, rfl, .inr rfl, Bool.eq_false_iff.2 h, fun y hy => Option.some.inj hy ▸ rankLt_irrefl _⟩

theorem foldl_sooner_some {l : List DramReq} {b : Option DramReq} {q : DramReq} (h : l.foldl (x.sooner panic) b = some q) :
    (b = some q ∨ q ∈ l) ∧ (∀ p, b = some p → rankLt (x.rank panic p) (x.rank panic q) = false)
      ∧ ∀ z ∈ l, rankLt (x.rank panic z) (x.rank panic q) = false := by
  induction l generalizing b with
  | nil => exact ⟨.inl h, fun p hp => Option.some.inj (hp.symm.trans h) ▸ rankLt_irrefl _, fun z hz => absurd hz List.not_mem_nil⟩
  | cons y l ih =>
    obtain ⟨m, hm, hone, hy, hb⟩ := sooner_spec x panic b y
    obtain ⟨hin, hkept, hrest⟩ := ih h
    have hmq := hkept m hm
    refine ⟨?_, fun p hp => rankLt_false_trans (hb p hp) hmq, fun z hz => ?_⟩
    · rcases hin with hin | hin
      · have hmq : m = q := Option.some.inj (hm.symm.trans hin)
        subst hmq
        exact hone.symm.imp_right fun he => List.mem_cons.2 (.inl he)
      · exact .inr (List.mem_cons_of_mem _ hin)
    · rcases List.mem_cons.1 hz with rfl | hz
      · exact rankLt_false_trans hy hmq
      · exact hrest z hz

theorem foldl_sooner_none {l : List DramReq} {b : Option DramReq} (h : l.foldl (x.sooner panic) b = none) : l = [] := by
  induction l generalizing b with
  | nil => rfl
  | cons y l ih =>
    obtain ⟨m, hm, -⟩ := sooner_spec x panic b y
    obtain rfl := ih h
    exact nomatch hm.symm.trans h

/-! ## The offers -/

/-- A request offered is the oldest of its codeword, and of its bank in in-order mode, and with a channel in panic only a hit
is offered of the lower classes. -/
theorem ok_of_mem_offers {q : DramReq} (h : q ∈ x.offers panic) :
    (∀ z ∈ x.reads ++ x.writes, z.id < q.id → z.cw ≠ q.cw ∧ (q.bank ∈ x.inOrder → z.bank ≠ q.bank))
      ∧ (panic ≠ [] → 2 ≤ q.cls.toNat → Tbl.get? x.open_ q.bank = some q.row) := by
  unfold SubChan.offers at h
  extract_lets all hit ok r w at h
  have hok : ok q = true := by
    split at h
    · rcases List.mem_append.1 h with h | h
      · exact (List.mem_filter.1 h).2
      · exact (List.mem_filter.1 h).2
    · exact (List.mem_filter.1 h).2
  obtain ⟨holdest, hpanic⟩ := Bool.and_eq_true _ _ ▸ hok
  refine ⟨fun z hz hlt => ?_, fun hp hcls => ?_⟩
  · have hno : ¬((z.cw = q.cw ∨ (z.bank = q.bank ∧ q.bank ∈ x.inOrder)) ∧ z.id < q.id) := by
      have hall : ∀ z ∈ all, ¬_ := List.any_eq_false.1 (Bool.not_eq_true' _ ▸ holdest)
      simpa using hall z hz
    exact ⟨fun hcw => hno ⟨.inl hcw, hlt⟩, fun hin hbank => hno ⟨.inr ⟨hbank, hin⟩, hlt⟩⟩
  · by_contra hmiss
    simp [hit, hp, hcls, hmiss] at hpanic

/-- A request of class 0 for a flash channel in panic is of the first tier. -/
theorem rank_of_panic {q : DramReq} (hcls : q.cls = 0) (h : ∃ c ∈ panic, q.flash = some c) : (x.rank panic q).1 = 0 := by
  obtain ⟨c, hc, hflash⟩ := h
  exact if_pos ⟨hcls, by simpa [hflash] using hc⟩

end

end Sys2Proof.Machine
end

section
/-! What a subchannel issues (R402, R407), and its refreshes (R401, R406). -/

namespace Sys2Proof.Machine

section
variable {x : SubChan} {panic : List Nat}

/-! ## The next command -/

/-- A refresh at its limit comes first, and closes the rows of its bank index. -/
theorem issue_of_due {p : Nat × Nat} (hdue : (x.postponed.find? fun y => 4 ≤ y.2) = some p) :
    x.issue panic = { x with postponed := Tbl.set x.postponed p.1 0, open_ := closeRows x.open_ p.1 } := by
  rw [SubChan.issue, hdue]

section
variable (hdue : (x.postponed.find? fun y => 4 ≤ y.2) = none)
include hdue

theorem issue_of_nothing (hpick : x.pick panic = none) (hrfm : x.rfm = []) : x.issue panic = x := by
  rw [SubChan.issue, hdue]
  simp only [hpick, hrfm, List.isEmpty_nil, Bool.not_true, Bool.and_false, Bool.false_eq_true, if_false]

/-- Refresh management waits behind the first two tiers alone. -/
theorem issue_of_rfm (hrfm : x.rfm ≠ []) (hpick : ∀ y, x.pick panic = some y → 1 < (x.rank panic y).1) :
    x.issue panic = { x with rfm := x.rfm.drop 1, open_ := Tbl.del x.open_ (x.rfm.headD 0) } := by
  have hsome : x.rfm.isEmpty = false := List.isEmpty_eq_false_iff.2 hrfm
  rw [SubChan.issue, hdue]
  cases h : x.pick panic with
  | none => simp only [hsome, Bool.not_false, Bool.and_self, if_true]
  | some y => simp only [hsome, decide_eq_false (Nat.not_le.2 (hpick y h)), Bool.not_false, Bool.and_self, if_true]

/-- The request picked goes out on a hit of its open row, and a miss opens its row and counts. -/
theorem issue_of_pick {q : DramReq} (hpick : x.pick panic = some q) (hfirst : (x.rank panic q).1 ≤ 1 ∨ x.rfm = []) :
    x.issue panic = (
      if Tbl.get? x.open_ q.bank = some q.row then
        let r := x.reads.filter fun p => p.id ≠ q.id
        let w := x.writes.filter fun p => p.id ≠ q.id
        { x with
          reads := r, writes := w
          draining := if 48 ≤ w.length then true else if w.length ≤ 16 then false else x.draining
          inOrder := if stillOrdered (r ++ w) w q.bank then x.inOrder else delNat q.bank x.inOrder }
      else { x with
        open_ := Tbl.set x.open_ q.bank q.row
        draining := if 48 ≤ x.writes.length then true else x.draining
        tables := Tbl.set x.tables q.bank (countRow (Tbl.getD x.tables q.bank []) q.row) }) := by
  have hgoes : ¬(!decide ((x.rank panic q).1 ≤ 1) && !x.rfm.isEmpty) = true := by
    rcases hfirst with h | h
    · simp [h]
    · simp [h]
  rw [SubChan.issue, hdue]
  simp only [hpick]
  exact if_neg hgoes

theorem issue_hit {q : DramReq} (hpick : x.pick panic = some q) (hfirst : (x.rank panic q).1 ≤ 1 ∨ x.rfm = [])
    (hhit : Tbl.get? x.open_ q.bank = some q.row) :
    let y := x.issue panic
    (y.reads = x.reads.filter fun z => z.id ≠ q.id) ∧ (y.writes = x.writes.filter fun z => z.id ≠ q.id)
      ∧ (48 ≤ y.writes.length → y.draining = true) ∧ (y.writes.length ≤ 16 → y.draining = false) := by
  rw [issue_of_pick hdue hpick hfirst, if_pos hhit]
  exact ⟨rfl, rfl, fun h => if_pos h, fun h => (if_neg (Nat.not_le.2 (Nat.lt_of_le_of_lt h (by decide)))).trans (if_pos h)⟩

theorem issue_miss {q : DramReq} (hpick : x.pick panic = some q) (hfirst : (x.rank panic q).1 ≤ 1 ∨ x.rfm = [])
    (hmiss : Tbl.get? x.open_ q.bank ≠ some q.row) :
    let y := x.issue panic
    y.reads = x.reads ∧ y.writes = x.writes ∧ Tbl.get? y.open_ q.bank = some q.row
      ∧ Tbl.getD y.tables q.bank [] = countRow (Tbl.getD x.tables q.bank []) q.row := by
  rw [issue_of_pick hdue hpick hfirst, if_neg hmiss]
  exact ⟨rfl, rfl, Tbl.get?_set_self .., Tbl.getD_set_self ..⟩

end
end

/-! ## Self-refresh (R82, R401) -/

section
variable {s : State}

theorem dramSleep_awake (h : s.dram.selfRef = true ∨ ∃ y ∈ s.dram.subs, y.2.still = false) : s.dramSleep = s := by
  refine if_pos ?_
  rcases h with h | ⟨y, hy, hbusy⟩
  · rw [h, Bool.true_or]
  · have hall : s.dram.subs.all (·.2.still) = false := List.all_eq_false.2 ⟨y, hy, Bool.eq_false_iff.1 hbusy⟩
    rw [hall, Bool.not_false, Bool.or_true]

theorem subch_mapV_refreshed (t : Tbl SubChan) (i : Nat) : Tbl.getD (Tbl.mapV t fun _ x => x.refreshed) i {} =
    (Tbl.getD t i {}).refreshed := by
  unfold Tbl.getD
  rw [getMap]
  cases Tbl.get? t i <;> rfl

theorem dramSleep_sleeps (hsr : s.dram.selfRef = false) (hstill : ∀ y ∈ s.dram.subs, y.2.still = true) (i : Nat) :
    s.dramSleep.dram.selfRef = true ∧ s.dramSleep.subch i = (s.subch i).refreshed := by
  have hall : s.dram.subs.all (·.2.still) = true := List.all_eq_true.2 hstill
  rw [State.dramSleep, if_neg (by rw [hsr, hall]; decide)]
  exact ⟨rfl, subch_mapV_refreshed _ i⟩

theorem dramWake_spec (s : State) (i : Nat) : s.dramWake.dram.selfRef = false ∧ (s.dramWake.subch i).reads = (s.subch i).reads
    ∧ (s.dramWake.subch i).writes = (s.subch i).writes := by
  unfold State.dramWake
  split
  next =>
    have hsub := subch_mapV_refreshed s.dram.subs i
    exact ⟨rfl, (congrArg SubChan.reads hsub :), (congrArg SubChan.writes hsub :)⟩
  next h => exact ⟨Bool.eq_false_iff.2 h, rfl, rfl⟩

theorem dramSleep_keeps (s : State) : s.dramSleep.dram.filled = s.dram.filled ∧ s.dramSleep.dram.pool = s.dram.pool
    ∧ s.dramSleep.dram.chans = s.dram.chans := by
  unfold State.dramSleep
  split <;> exact ⟨rfl, rfl, rfl⟩

/-! ## The events of a subchannel -/

theorem exec_dramCommandIssue_asleep (h : s.dram.selfRef = true) (chan sub : Nat) :
    exec (.dramCommandIssue chan sub) s = .next s := congrArg Host.Outcome.next (if_pos h)

theorem exec_dramCommandIssue (h : s.dram.selfRef = false) (chan sub : Nat) : exec (.dramCommandIssue chan sub) s = .next (
    let t := s.modSubch (2 * chan + sub) (·.issue s.dram.panic)
    if s.dev.ps = 4 then t.dramSleep else t) := congrArg Host.Outcome.next (if_neg (Bool.eq_false_iff.1 h))

theorem exec_refreshDue_asleep (h : s.dram.selfRef = true) (chan sub bi : Nat) (idle : Bool) :
    exec (.refreshDue chan sub bi idle) s = .next s := congrArg Host.Outcome.next (if_pos h)

/-- A refresh that falls due is placed, or counts among those postponed, which are at most four. -/
theorem exec_refreshDue (h : s.dram.selfRef = false) (chan sub bi : Nat) (idle : Bool) : ∃ t : State,
    exec (.refreshDue chan sub bi idle) s = .next t ∧ (t.subch (2 * chan + sub)).postponed =
      Tbl.set (s.subch (2 * chan + sub)).postponed bi
        (if idle = true then 0 else min 4 (Tbl.getD (s.subch (2 * chan + sub)).postponed bi 0 + 1)) :=
  ⟨_, congrArg Host.Outcome.next (if_neg (Bool.eq_false_iff.1 h)), congrArg SubChan.postponed (subch_mod s _ _)⟩

/-- A row at RFMTH has its bank managed, and its entry is freed. -/
theorem exec_rowActivationThreshold_at {chan sub bank row : Nat}
    (h : ∃ e ∈ Tbl.getD (s.subch (2 * chan + sub)).tables bank [], e.row = row ∧ s.dram.rfmTh.toNat ≤ e.count) :
    ∃ t : State, exec (.rowActivationThreshold chan sub bank row) s = .next t ∧ bank ∈ (t.subch (2 * chan + sub)).rfm
      ∧ ∀ e ∈ Tbl.getD (t.subch (2 * chan + sub)).tables bank [], e.row ≠ row := by
  refine ⟨_, congrArg Host.Outcome.next (if_pos (by simpa using h)), ?_, ?_⟩
  · rw [subch_mod]
    dsimp only
    split
    next hin => exact List.contains_iff_mem.1 hin
    next => exact List.mem_append_right _ List.mem_cons_self
  · rw [subch_mod, Tbl.getD_set_self]
    exact fun e he => of_decide_eq_true (List.mem_filter.1 he).2

theorem exec_rowActivationThreshold_below {chan sub bank row : Nat}
    (h : ∀ e ∈ Tbl.getD (s.subch (2 * chan + sub)).tables bank [], e.row = row → e.count < s.dram.rfmTh.toNat) :
    exec (.rowActivationThreshold chan sub bank row) s = .next s :=
  congrArg Host.Outcome.next (if_neg (by simpa using h))

end

end Sys2Proof.Machine
end

section
/-! The ECC test window (R419, R420): its accesses by their operation. -/

namespace Sys2Proof.Machine

section
variable {s : State} {op : Nat} {v : W32}

/-- The codeword that a test names. -/
def testIndex (v : W32) : Nat := v.toNat / 16 % 2 ^ 14

/-- A test begun: the window is busy, and holds the codeword. -/
def State.testBegun (s : State) (v : W32) : State :=
  { s.drawnN 64 with dram := { s.dram with
    busy := true, taddr := BitVec.ofNat 14 (testIndex v)
    window := Tbl.set s.dram.window (testIndex v) (s.testWord (testIndex v)) } }

theorem eccTest_held (h : v.toNat % 8 ≠ op ∨ s.dram.busy = true) (f : State → Nat → State) : s.eccTest op v f = s := if_pos h

theorem eccTest_begun (h : ¬(v.toNat % 8 ≠ op ∨ s.dram.busy = true)) (f : State → Nat → State) :
    s.eccTest op v f = f (s.testBegun v) (testIndex v) := if_neg h

theorem testWord_setTest (s : State) (n : Nat) (w : List Byte) : (s.setTest n w).testWord n = w := by
  unfold State.setTest State.testWord
  simp only [Tbl.get?_set_self]

theorem testWord_testBegun (s : State) (v : W32) : (s.testBegun v).testWord (testIndex v) = s.testWord (testIndex v) := by
  unfold State.testBegun State.testWord
  simp only [Tbl.get?_set_self]

/-- What the decoder answers is put into TBUF, RES and NSYM. -/
def State.putDecoded (s : State) (bytes : List Nat) (res n : Nat) : State :=
  let t := s.setTbuf (bytes.map (BitVec.ofNat 8))
  { t with dram := { t.dram with res := BitVec.ofNat 2 res, nsym := BitVec.ofNat 5 n } }

@[simp] theorem putDecoded_res (s : State) (bytes : List Nat) (res n : Nat) :
    (s.putDecoded bytes res n).dram.res = BitVec.ofNat 2 res := rfl
@[simp] theorem putDecoded_nsym (s : State) (bytes : List Nat) (res n : Nat) :
    (s.putDecoded bytes res n).dram.nsym = BitVec.ofNat 5 n := rfl
@[simp] theorem putDecoded_tbuf (s : State) (bytes : List Nat) (res n : Nat) :
    (s.putDecoded bytes res n).dram.tbuf = (s.setTbuf (bytes.map (BitVec.ofNat 8))).dram.tbuf := rfl
@[simp] theorem putDecoded_chans (s : State) (bytes : List Nat) (res n : Nat) :
    (s.putDecoded bytes res n).dram.chans = s.dram.chans := rfl
@[simp] theorem testBegun_chans (s : State) (v : W32) : (s.testBegun v).dram.chans = s.dram.chans := rfl

/-- The device marked for the codeword that a test names. -/
def State.testMark (s : State) (v : W32) : Option Nat :=
  let a := testAddr (testIndex v)
  Tbl.get? (s.dchan (dramChan a)).marks (s.markIdx a)

/-- A read through the decoder: an uncorrectable codeword leaves its raw bytes. -/
theorem exec_eccTestReadDecoded (h : ¬(v.toNat % 8 ≠ 6 ∨ s.dram.busy = true)) : exec (.eccTestReadDecoded v) s = .next (
    let w := (s.testWord (testIndex v)).map (·.toNat)
    match rsDecode w (s.testMark v) with
    | none => (s.testBegun v).putDecoded w 2 0
    | some (x, n) => (s.testBegun v).putDecoded x (if n = 0 then 0 else if (s.testMark v).isSome then 3 else 1) n) := by
  refine congrArg Host.Outcome.next ((eccTest_begun h _).trans ?_)
  rw [testWord_testBegun]
  rfl

end

end Sys2Proof.Machine
end

section
/-! The scheduler, refresh, row management and test window of the DRAM as a whole. -/

namespace Sys2Proof.Machine

/-- DRAM.BTCFG takes a size that no rule refuses (R394). -/
theorem exec_dramBtcfgWrite (s : State) (v : W32) : exec (.dramBtcfgWrite v) s = .next (
    let size := v.toNat / 65536 % 256
    let room := gib * (s.dramGib - 5) - 2 ^ 20 * s.media.dies - s.media.mapUsed
    let held := s.dram.extents.foldl (fun m y => m + 2 ^ 21 * y.2.2) 0
    if size < 2 ∨ 128 < size ∨ room < gib * size ∨ gib * (size - 1) < held then s
    else { s with dram := { s.dram with btNext := size, btSaved := size } }) := rfl

/-- Settles O48: the table of a bank, the pick and the issue by their cases, then each event by its guard. -/
theorem dramIsScheduledRefreshedAndTested : Obligations.DramIsScheduledRefreshedAndTested := by
  intro s chan sub bi bank row req k p q z b v t e i x panic issue sub_ due closed table age n busyOr begun old flipped size has
    free least
  have hheld {op : Nat} {f : State → Nat → State} (h : busyOr op) :
      Host.Outcome.next (s.eccTest op v f) = (.next s : Host.Outcome State Fault Refusal) := congrArg _ (eccTest_held h f)
  have hbegun {op : Nat} {f : State → Nat → State} (h : ¬busyOr op) :
      Host.Outcome.next (s.eccTest op v f) = (.next (f begun n) : Host.Outcome State Fault Refusal) :=
    congrArg _ (eccTest_begun h f)
  have hold : begun.testWord n = old := testWord_testBegun s v
  refine ⟨countRow_counted, fun h hfree hlow => countRow_free h hfree.1 hfree.2 hlow, countRow_full, leastEntry_spec,
    fun h => ⟨exec_dramCommandIssue_asleep h chan sub, exec_refreshDue_asleep h chan sub bi b⟩,
    fun h => exec_dramCommandIssue h chan sub, issue_of_due, issue_of_nothing, issue_of_rfm,
    fun hdue hpick hfirst => ⟨issue_hit hdue hpick hfirst, issue_miss hdue hpick hfirst⟩, dramSleep_awake,
    fun hsr hstill => ?sleeps, (dramWake_spec s i).1, (dramWake_spec s i).2.1, (dramWake_spec s i).2.2,
    (dramSleep_keeps s).1, (dramSleep_keeps s).2.1, (dramSleep_keeps s).2.2, fun hpick => ?pick, foldl_sooner_none,
    fun h hz hlt => (ok_of_mem_offers h).1 z hz hlt, fun h => (ok_of_mem_offers h).2, rank_of_panic, rfl, fun hsr => ?due,
    fun h => congrArg Host.Outcome.next (if_pos h), fun h => congrArg Host.Outcome.next (if_neg (Nat.not_lt.2 h)),
    exec_rowActivationThreshold_below, exec_rowActivationThreshold_at, rfl, fun h => congrArg Host.Outcome.next (if_neg ?drift),
    fun h => congrArg Host.Outcome.next (if_pos ⟨h, rfl⟩), fun h => congrArg Host.Outcome.next (if_neg (Nat.not_lt.2 h)),
    fun h => congrArg Host.Outcome.next (if_pos h), ?btcfg, hheld, hheld, hheld, hheld, hheld, hheld, hbegun, fun h => ?computed,
    fun h => ?check, fun h => ?data, fun h => ?raw, ?decoded, rfl⟩
  case sleeps =>
    obtain ⟨hasleep, hsub⟩ := dramSleep_sleeps hsr hstill i
    rw [hsub]
    exact ⟨hasleep, rfl, rfl⟩
  case pick =>
    obtain ⟨hin, -, hfirst⟩ := foldl_sooner_some hpick
    exact ⟨hin.resolve_left (Option.some_ne_none q ·.symm), hfirst z⟩
  case due =>
    obtain ⟨t, hexec, hpostponed⟩ := exec_refreshDue hsr chan sub bi b
    refine ⟨t, hexec, ?_, fun hk => ?_⟩
    · rw [hpostponed, Tbl.getD_set_self]
    · rw [hpostponed, Tbl.getD_set_ne _ _ _ hk.symm]
  case drift =>
    rintro ⟨hchan, hdrift⟩
    rcases h with h | h
    · exact hchan.not_ge h
    · exact absurd (h.symm.trans hdrift) Bool.false_ne_true
  case btcfg =>
    intro room held bad
    exact ⟨fun h => (exec_dramBtcfgWrite s v).trans (congrArg _ (if_pos h)),
      fun h => (exec_dramBtcfgWrite s v).trans (congrArg _ (if_neg h))⟩
  case computed => exact ⟨_, hbegun h, rfl, rfl, rfl, testWord_setTest ..⟩
  case check =>
    refine (hbegun h).trans (congrArg Host.Outcome.next ?_)
    rw [hold]
    rfl
  case data =>
    refine (hbegun h).trans (congrArg Host.Outcome.next ?_)
    rw [hold]
    rfl
  case raw =>
    refine (hbegun h).trans (congrArg Host.Outcome.next ?_)
    rw [hold]
  case decoded =>
    intro a mark res
    refine ⟨fun h hres => ?_, fun h y m hres => ?_⟩
    · have hexec := exec_eccTestReadDecoded h
      have hdec : rsDecode ((s.testWord (testIndex v)).map (·.toNat)) (s.testMark v) = none := hres
      simp only [hdec] at hexec
      exact ⟨_, hexec, putDecoded_res .., putDecoded_nsym .., putDecoded_chans ..⟩
    · have hexec := exec_eccTestReadDecoded h
      have hdec : rsDecode ((s.testWord (testIndex v)).map (·.toNat)) (s.testMark v) = some (y, m) := hres
      simp only [hdec] at hexec
      refine ⟨_, hexec, putDecoded_nsym .., putDecoded_tbuf .., putDecoded_chans .., fun h0 => ?_, fun hm hnone => ?_,
        fun hm hsome => ?_⟩
      · exact (putDecoded_res ..).trans (congrArg (BitVec.ofNat 2) (if_pos h0))
      · have hmark : s.testMark v = none := hnone
        have hno : ¬(s.testMark v).isSome = true := by
          rw [hmark]
          decide
        exact (putDecoded_res ..).trans (congrArg (BitVec.ofNat 2) ((if_neg hm).trans (if_neg hno)))
      · have hmark : (s.testMark v).isSome = true := Option.isSome_iff_ne_none.2 hsome
        exact (putDecoded_res ..).trans (congrArg (BitVec.ofNat 2) ((if_neg hm).trans (if_pos hmark)))

end Sys2Proof.Machine
end
